-- ==== Sys2Proof/Word.lean ====
section
/-! DEFINITION. The machine's word types (00 R2, R6): bytes, 32-bit and 64-bit registers, and the
1,024-bit thread masks of a team (07 R191). -/

namespace Sys2Proof

abbrev Byte := BitVec 8
abbrev W32 := BitVec 32
abbrev W64 := BitVec 64

/-- A team's thread mask: bit t stands for thread t. The hierarchical mask of 07 R191 is this one value seen
as 32 mask words; its summary word is computed from it and holds nothing of its own. -/
abbrev TMask := BitVec 1024

/-- A finite table by natural key, keys strictly rising. -/
abbrev Tbl (α : Type) := List (Nat × α)

end Sys2Proof
end

