-- ==== Sys2Proof/Syntax.lean ====
section
/-! DEFINITION. The syntax of the G880 model: one constructor of Instr for each row of spec/opcode_table.json.
The first 165 rows are instructions of the team and control-thread streams (05 R143); each carries the fields of its
words as `Ins`. The other 116 rows are steps of the device that no program issues (95): engines, dispatcher, Renweaz,
mailbox, debugger, links; each carries what names the thing it acts on and what the outside world chose. -/

namespace Sys2Proof

/-- The side on which a word is decoded (05 R144). -/
inductive Side where
  | team | ctl
  deriving DecidableEq, Repr

/-- Length framing of an instruction (05 R122). -/
inductive Len where
  | l64 | l96 | l128
  deriving DecidableEq, Repr

/-- The specials of 05 R138. -/
inductive Special where
  | tid | wafer | team | gang | core | cluster | die | vd | ctx | role | clk | clkh | win
  deriving DecidableEq, Repr

/-- An operand of the 10-bit operand space: 05 R137 on a team, R140 on the control thread. `raw` is a field that the
opcode reads as bits, not as an operand (a branch offset, R130, R258). -/
inductive Opd where
  | v (n : Nat) | s (n : Nat) | p (n : Nat) | sp (x : Special) | lit (n : Nat) | z | k (n : Nat) | raw (n : Nat)
  deriving DecidableEq, Repr

/-- Element types of 05 R142. -/
inductive DType where
  | n8 | n16 | n32 | n64 | i8 | i16 | i32 | i64 | f64 | f32 | f16 | bf16 | e4m3 | e5m2 | e2m1 | i4 | e8l16 | e8l24 | e8l32
  deriving DecidableEq, Repr

/-- Memory spaces of 02 R34. -/
inductive Space where
  | g | s | c | x | l
  deriving DecidableEq, Repr

/-- The fields of an instruction's words: base word (05 R133), extension word (R134), literal (R135, R136).
`guard` and `wmask` are none where the field holds 15. -/
structure Ins where
  len : Len
  guard : Option Nat
  retain : Nat
  fsel : Bool
  d : Opd
  a : Opd
  b : Opd
  c : Opd
  mod : BitVec 15
  xmod : BitVec 11
  wmask : Option Nat
  zero : Bool
  rnd : Nat
  sat : Bool
  ftz : Bool
  imm : W64
  deriving DecidableEq, Repr

/-- An agent that issues instructions: the team in a slot of a core, or a core's control thread. -/
inductive Agent where
  | team (core slot : Nat) | ctl (core : Nat)
  deriving DecidableEq, Repr

/-- A context of a virtual device (03 R68). -/
structure CtxId where
  vd : Nat
  ctx : Nat
  deriving DecidableEq, Repr

/-- An arbiter: its KIND of 03 R70 and its number among those of the kind. -/
structure ArbKey where
  kind : Nat
  idx : Nat
  deriving DecidableEq, Repr

/-- The head request of one virtual device at an arbiter: its slot is found by SLOTMAP, or is `slot` where the
request names one itself (class-3 teams, 03 R90). -/
structure ArbReq where
  vd : Nat
  slot : Option Nat
  cost : Nat
  /-- At a core issue arbiter, the team slot that requests, and the class it counts as (03 R90, 07 R200). -/
  team : Nat := 0
  cls : Nat := 0
  deriving DecidableEq, Repr

/-- What Renweaz does to a voltage and frequency island (01 R32). -/
inductive IslandMode where
  | full | lowered | gated
  deriving DecidableEq, Repr

/-- One item of a Fakalvo frame (16 R441). -/
inductive FkItem where
  | write (va : Nat) (data : List Byte)
  | read (va size : Nat)
  | resp (data : List Byte) (failed : Bool)
  deriving DecidableEq, Repr

/-- A received Fakalvo frame (16 R441). -/
structure FkFrame where
  version : Nat
  peer : Nat
  dst : CtxId
  seq : Nat
  ack : Nat
  window : Nat
  items : List FkItem
  deriving DecidableEq, Repr

/-- A remote-window descriptor (16 R442). -/
structure RemoteWin where
  vbase : Nat
  len : Nat
  rbase : Nat
  peer : Nat
  rctx : CtxId
  readOnly : Bool
  deriving DecidableEq, Repr

/-- A register of a virtual head that its virtual device may ask to change (16 R435). -/
inductive HeadReg where
  | cfg | enc | paddr | stream
  deriving DecidableEq, Repr

/-- A launch queue that Renweaz binds: its number, header address and dispatcher's die, and the header's RING, LOG2N, EN
and FEED (03 R85, 09 R269). -/
structure QueueReq where
  index : Nat
  header : Nat
  die : Nat
  ring : Nat
  log2n : Nat
  enabled : Bool
  feed : Bool
  deriving DecidableEq, Repr

/-- What Renweaz sets up for one context of a new virtual device: its page table (02 R46), as the physical address of its
root and page-table words (address and entry), its launch queues, its chip-scratchpad allotments (die, 64 KiB units;
02 R36), its remote windows (16 R442), the virtual heads assigned to it (16 R435). -/
structure CtxReq where
  ctx : Nat
  root : Nat
  ptes : List (Nat × Nat)
  queues : List QueueReq
  chip : List (Nat × Nat)
  remote : List RemoteWin
  heads : List Nat
  deriving DecidableEq, Repr

/-- VDMAKE (16 R444, 13 R367). -/
inductive VdReq where
  | make (vd part raylim : Nat) (rqlim : List Nat) (ringUnits : Nat) (ringBase : List Nat) (ctxs : List CtxReq)
      (wdt cto : Nat)
  | destroy (vd : Nat)
  deriving DecidableEq, Repr

/-- ARBSET (16 R444): bucket, way-quota, frame and traversal limit registers. -/
inductive ArbWrite where
  | bucket (arb : ArbKey) (slot : Nat) (value : W64)
  | way (slice slot : Nat) (value : W64)
  | frame (part : Nat) (value : W64)
  | traversal (stack vd : Nat) (ring qlim : Option W64)
  deriving DecidableEq, Repr

/-- A slot that Renweaz reassigns at the issue arbiter of a core (03 R83): the core's index in its cluster, the slot with its
BKCFG, and the virtual devices that SLOTMAP sends to it. -/
structure SlotReq where
  member : Nat
  slot : Nat
  cfg : W64
  vds : List Nat
  deriving DecidableEq, Repr

/-- An event of a filter request (12 R348, R350): a fetch that it makes, of a thread, an address and a length, else the end of its
n-th step that is left. -/
structure FilterAct where
  req : Nat
  n : Nat
  fetch : Option (Nat × Nat × Nat)
  deriving DecidableEq, Repr

/-- A crumb that a packet's merge reaches (15 R425): the packet, and the crumb's place in its tile, 0 to 3 of colour and 4 to 7 of
depth. -/
structure PacketCrumb where
  packet : Nat
  place : Nat
  deriving DecidableEq, Repr

/-- What DEBUG_RUN lets go on (07 R217, R220; 09 R253, R273): a team or a control thread, and where Renweaz names one, the address at
which it goes on, with a control thread's argument. -/
structure RunReq where
  who : Agent
  entry : Option (Nat × Nat)
  deriving DecidableEq, Repr

/-- PARTMOVE (03 R83, R84), between partitions 0 to 15; 16 stands for no partition (log 33); for a group move `copies` gives
Renweaz's new page-table words and page copies (source, destination, bytes). -/
inductive PartReq where
  | cluster (c src dst : Nat) (slots : List SlotReq)
  | group (stack g src dst : Nat) (copies : List (Nat × Nat × Nat)) (ptes : List (Nat × Nat))
  | qset (q src dst : Nat)
  | head (h src dst : Nat)
  deriving DecidableEq, Repr

/-- SEAL (02 R45). -/
inductive SealReq where
  | fill (id base len : Nat) (data : List Byte)
  | seal (id : Nat)
  | retire (id : Nat)
  deriving DecidableEq, Repr

/-- An engine command that can pass CTO (03 R93). -/
inductive CmdRef where
  | op (id : Nat) | filter (stack req : Nat) | ray (id : Nat) | raster (die cmd : Nat) | stackCmd (stack id : Nat)
  deriving DecidableEq, Repr

/-- A register of a stopped team that a debugger reaches through Renweaz (07 R217): thread and register, register, thread and
predicate, or a control register by its number (07 R214). -/
inductive TeamReg where
  | v (t r : Nat) | s (r : Nat) | p (t n : Nat) | control (n : Nat)
  deriving DecidableEq, Repr

/-- Registers whose write has no behaviour of its own beyond their access column (00 R7), core registers as Renweaz reaches them
(09 R256), and the settings that Renweaz makes within their ranges (16 R447): the window length and WTO (02 R62, R65), the
retransmit time and the devices of the window group (16 R441), the sealed pool (02 R45), WDT and CTO (03 R93). -/
inductive RegRef where
  | slotmap (arb : ArbKey) (n : Nat) | arberr (arb : ArbKey) | arbinfo (arb : ArbKey) | arbpool (arb : ArbKey)
  | bkstat (arb : ArbKey) (slot : Nat) | frstat (part : Nat) | hdenc (head : Nat) | hdpaddr (head : Nat)
  | hdstream (head : Nat) | hdstat (head : Nat) | fketype (port : Nat) | carve (core : Nat)
  | coreReg (core n : Nat) | winExp | wto | rto | ownIndex | peer (index : Nat) | poolWays | wdt (vd : Nat) | cto (vd : Nat)
  | team (core slot : Nat) (reg : TeamReg)
  deriving DecidableEq, Repr

/-- The instructions of the opcode table, by name. -/
inductive Op where
  | nop | bra | brd | brx | brxd | call | callx | ret | syncr | exit | yield | waitw | sleep | trap | bkpt
  | tvec | tret | plop | pmovTov | pmovSel | vote | cjoin | cleave | cbar | barinit | bararr | barwait
  | bartest | role | dqpop | crr | crw | mov | movi32 | movi64 | sel | iadd | isub | imul | imulh | imad
  | imin | imax | iabs | ineg | and | or | xor | andn | not | shl | shr | sar | rot | popc | clz | brev
  | bfe | bfi | iaddc | lea | isetp | fadd | fmul | ffma | fmin | fmax | fsetp | fclass | frcp | frsq
  | fsqrt | fex2 | flg2 | fsin | fcos | ftanh | dadd | dmul | dfma | dmin | dmax | dsetp | drcp | hadd2
  | hmul2 | hfma2 | cvt | cvtn | cvtw | lqscale | lq8 | lqd | lqm | shfl | bcast | redux | scan | rand
  | rseed | ld | st | ldu | atom | red | prf | cctl | winf | winw | msend | mrecv | mpoll | kld | kst
  | kbr | kjmp | kjx | kcall | kret | eqpop | eqwait | dqpush | launch | ksleep | khalt | ktrap | kcsr
  | tclaim | trels | aclaim | arels | mfetch | mlist | mnext | mma | mzero | mrd | mwr | mwrT | mst | mscl
  | mstat | cpkick | cpstat | texs | hgl | resq | rays | hitr | candv | tclose | tlpub | trstat | sred
  | sbank | svb | smac | sacc | sbexit | draw | rstate | pxout | rclear | rresolve | rsync
  deriving DecidableEq, Repr

/-- One constructor for each row of spec/opcode_table.json. -/
inductive Instr where
  /-- NOP, R222. -/
  | nop (w : Ins)
  /-- BRA, R223. -/
  | bra (w : Ins)
  /-- BRD, R223. -/
  | brd (w : Ins)
  /-- BRX, R223. -/
  | brx (w : Ins)
  /-- BRXD, R223. -/
  | brxd (w : Ins)
  /-- CALL, R224. -/
  | call (w : Ins)
  /-- CALLX, R224. -/
  | callx (w : Ins)
  /-- RET, R224. -/
  | ret (w : Ins)
  /-- SYNCR, R225. -/
  | syncr (w : Ins)
  /-- EXIT, R225. -/
  | exit (w : Ins)
  /-- YIELD, R226. -/
  | yield (w : Ins)
  /-- WAITW, R226. -/
  | waitw (w : Ins)
  /-- SLEEP, R226. -/
  | sleep (w : Ins)
  /-- TRAP, R227. -/
  | trap (w : Ins)
  /-- BKPT, R227. -/
  | bkpt (w : Ins)
  /-- TVEC, R227. -/
  | tvec (w : Ins)
  /-- TRET, R219. -/
  | tret (w : Ins)
  /-- PLOP, R228. -/
  | plop (w : Ins)
  /-- PMOV_TOV, R228. -/
  | pmovTov (w : Ins)
  /-- PMOV_SEL, R228. -/
  | pmovSel (w : Ins)
  /-- VOTE, R228. -/
  | vote (w : Ins)
  /-- CJOIN, R229. -/
  | cjoin (w : Ins)
  /-- CLEAVE, R229. -/
  | cleave (w : Ins)
  /-- CBAR, R229. -/
  | cbar (w : Ins)
  /-- BARINIT, R230. -/
  | barinit (w : Ins)
  /-- BARARR, R230. -/
  | bararr (w : Ins)
  /-- BARWAIT, R230. -/
  | barwait (w : Ins)
  /-- BARTEST, R230. -/
  | bartest (w : Ins)
  /-- ROLE, R231. -/
  | role (w : Ins)
  /-- DQPOP, R213. -/
  | dqpop (w : Ins)
  /-- CRR, R214. -/
  | crr (w : Ins)
  /-- CRW, R214. -/
  | crw (w : Ins)
  /-- MOV, R163. -/
  | mov (w : Ins)
  /-- MOVI_32, R166. -/
  | movi32 (w : Ins)
  /-- MOVI_64, R166. -/
  | movi64 (w : Ins)
  /-- SEL, R163. -/
  | sel (w : Ins)
  /-- IADD, R163. -/
  | iadd (w : Ins)
  /-- ISUB, R163. -/
  | isub (w : Ins)
  /-- IMUL, R163. -/
  | imul (w : Ins)
  /-- IMULH, R163. -/
  | imulh (w : Ins)
  /-- IMAD, R163. -/
  | imad (w : Ins)
  /-- IMIN, R163. -/
  | imin (w : Ins)
  /-- IMAX, R163. -/
  | imax (w : Ins)
  /-- IABS, R163. -/
  | iabs (w : Ins)
  /-- INEG, R163. -/
  | ineg (w : Ins)
  /-- AND, R163. -/
  | and (w : Ins)
  /-- OR, R163. -/
  | or (w : Ins)
  /-- XOR, R163. -/
  | xor (w : Ins)
  /-- ANDN, R163. -/
  | andn (w : Ins)
  /-- NOT, R163. -/
  | not (w : Ins)
  /-- SHL, R163. -/
  | shl (w : Ins)
  /-- SHR, R163. -/
  | shr (w : Ins)
  /-- SAR, R163. -/
  | sar (w : Ins)
  /-- ROT, R163. -/
  | rot (w : Ins)
  /-- POPC, R163. -/
  | popc (w : Ins)
  /-- CLZ, R163. -/
  | clz (w : Ins)
  /-- BREV, R163. -/
  | brev (w : Ins)
  /-- BFE, R164. -/
  | bfe (w : Ins)
  /-- BFI, R164. -/
  | bfi (w : Ins)
  /-- IADDC, R165. -/
  | iaddc (w : Ins)
  /-- LEA, R165. -/
  | lea (w : Ins)
  /-- ISETP, R162. -/
  | isetp (w : Ins)
  /-- FADD, R168. -/
  | fadd (w : Ins)
  /-- FMUL, R168. -/
  | fmul (w : Ins)
  /-- FFMA, R168. -/
  | ffma (w : Ins)
  /-- FMIN, R169. -/
  | fmin (w : Ins)
  /-- FMAX, R169. -/
  | fmax (w : Ins)
  /-- FSETP, R162. -/
  | fsetp (w : Ins)
  /-- FCLASS, R170. -/
  | fclass (w : Ins)
  /-- FRCP, R168. -/
  | frcp (w : Ins)
  /-- FRSQ, R171. -/
  | frsq (w : Ins)
  /-- FSQRT, R168. -/
  | fsqrt (w : Ins)
  /-- FEX2, R171. -/
  | fex2 (w : Ins)
  /-- FLG2, R171. -/
  | flg2 (w : Ins)
  /-- FSIN, R171. -/
  | fsin (w : Ins)
  /-- FCOS, R171. -/
  | fcos (w : Ins)
  /-- FTANH, R171. -/
  | ftanh (w : Ins)
  /-- DADD, R168. -/
  | dadd (w : Ins)
  /-- DMUL, R168. -/
  | dmul (w : Ins)
  /-- DFMA, R168. -/
  | dfma (w : Ins)
  /-- DMIN, R169. -/
  | dmin (w : Ins)
  /-- DMAX, R169. -/
  | dmax (w : Ins)
  /-- DSETP, R162. -/
  | dsetp (w : Ins)
  /-- DRCP, R168. -/
  | drcp (w : Ins)
  /-- HADD2, R172. -/
  | hadd2 (w : Ins)
  /-- HMUL2, R172. -/
  | hmul2 (w : Ins)
  /-- HFMA2, R172. -/
  | hfma2 (w : Ins)
  /-- CVT, R173. -/
  | cvt (w : Ins)
  /-- CVTN, R174. -/
  | cvtn (w : Ins)
  /-- CVTW, R175. -/
  | cvtw (w : Ins)
  /-- LQSCALE, R178. -/
  | lqscale (w : Ins)
  /-- LQ8, R177. -/
  | lq8 (w : Ins)
  /-- LQD, R179. -/
  | lqd (w : Ins)
  /-- LQM, R180. -/
  | lqm (w : Ins)
  /-- SHFL, R182. -/
  | shfl (w : Ins)
  /-- BCAST, R182. -/
  | bcast (w : Ins)
  /-- REDUX, R183. -/
  | redux (w : Ins)
  /-- SCAN, R184. -/
  | scan (w : Ins)
  /-- RAND, R186. -/
  | rand (w : Ins)
  /-- RSEED, R186. -/
  | rseed (w : Ins)
  /-- LD, R238. -/
  | ld (w : Ins)
  /-- ST, R238. -/
  | st (w : Ins)
  /-- LDU, R238. -/
  | ldu (w : Ins)
  /-- ATOM, R239. -/
  | atom (w : Ins)
  /-- RED, R239. -/
  | red (w : Ins)
  /-- PRF, R241. -/
  | prf (w : Ins)
  /-- CCTL, R240. -/
  | cctl (w : Ins)
  /-- WINF, R245. -/
  | winf (w : Ins)
  /-- WINW, R245. -/
  | winw (w : Ins)
  /-- MSEND, R247. -/
  | msend (w : Ins)
  /-- MRECV, R249. -/
  | mrecv (w : Ins)
  /-- MPOLL, R249. -/
  | mpoll (w : Ins)
  /-- KLD, R260. -/
  | kld (w : Ins)
  /-- KST, R260. -/
  | kst (w : Ins)
  /-- KBR, R261. -/
  | kbr (w : Ins)
  /-- KJMP, R262. -/
  | kjmp (w : Ins)
  /-- KJX, R262. -/
  | kjx (w : Ins)
  /-- KCALL, R262. -/
  | kcall (w : Ins)
  /-- KRET, R262. -/
  | kret (w : Ins)
  /-- EQPOP, R266. -/
  | eqpop (w : Ins)
  /-- EQWAIT, R266. -/
  | eqwait (w : Ins)
  /-- DQPUSH, R267. -/
  | dqpush (w : Ins)
  /-- LAUNCH, R269. -/
  | launch (w : Ins)
  /-- KSLEEP, R272. -/
  | ksleep (w : Ins)
  /-- KHALT, R272. -/
  | khalt (w : Ins)
  /-- KTRAP, R272. -/
  | ktrap (w : Ins)
  /-- KCSR, R272. -/
  | kcsr (w : Ins)
  /-- TCLAIM, R280. -/
  | tclaim (w : Ins)
  /-- TRELS, R281. -/
  | trels (w : Ins)
  /-- ACLAIM, R280. -/
  | aclaim (w : Ins)
  /-- ARELS, R281. -/
  | arels (w : Ins)
  /-- MFETCH, R285. -/
  | mfetch (w : Ins)
  /-- MLIST, R297. -/
  | mlist (w : Ins)
  /-- MNEXT, R300. -/
  | mnext (w : Ins)
  /-- MMA, R290. -/
  | mma (w : Ins)
  /-- MZERO, R293. -/
  | mzero (w : Ins)
  /-- MRD, R293. -/
  | mrd (w : Ins)
  /-- MWR, R293. -/
  | mwr (w : Ins)
  /-- MWR_T, R294. -/
  | mwrT (w : Ins)
  /-- MST, R295. -/
  | mst (w : Ins)
  /-- MSCL, R294. -/
  | mscl (w : Ins)
  /-- MSTAT, R302. -/
  | mstat (w : Ins)
  /-- CPKICK, R314. -/
  | cpkick (w : Ins)
  /-- CPSTAT, R326. -/
  | cpstat (w : Ins)
  /-- TEXS, R344. -/
  | texs (w : Ins)
  /-- HGL, R345. -/
  | hgl (w : Ins)
  /-- RESQ, R346. -/
  | resq (w : Ins)
  /-- RAYS, R378. -/
  | rays (w : Ins)
  /-- HITR, R379. -/
  | hitr (w : Ins)
  /-- CANDV, R380. -/
  | candv (w : Ins)
  /-- TCLOSE, R372. -/
  | tclose (w : Ins)
  /-- TLPUB, R373. -/
  | tlpub (w : Ins)
  /-- TRSTAT, R382. -/
  | trstat (w : Ins)
  /-- SRED, R394. -/
  | sred (w : Ins)
  /-- SBANK, R396. -/
  | sbank (w : Ins)
  /-- SVB, R397. -/
  | svb (w : Ins)
  /-- SMAC, R398. -/
  | smac (w : Ins)
  /-- SACC, R399. -/
  | sacc (w : Ins)
  /-- SBEXIT, R400. -/
  | sbexit (w : Ins)
  /-- DRAW, R418. -/
  | draw (w : Ins)
  /-- RSTATE, R417. -/
  | rstate (w : Ins)
  /-- PXOUT, R422. -/
  | pxout (w : Ins)
  /-- RCLEAR, R426. -/
  | rclear (w : Ins)
  /-- RRESOLVE, R427. -/
  | rresolve (w : Ins)
  /-- RSYNC, R428. -/
  | rsync (w : Ins)
  /-- CLAUSE_START, R127. -/
  | clauseStart (core : Nat) (slot : Nat)
  /-- QUANTUM_EXPIRY, R198. -/
  | quantumExpiry (core : Nat) (slot : Nat)
  /-- SLEEP_EXPIRY, R226. -/
  | sleepExpiry (core : Nat) (slot : Nat) (entry : Nat)
  /-- ISSUE_STARVATION_PROMOTE, R200. -/
  | issueStarvationPromote (core : Nat) (slot : Nat)
  /-- COHORT_PHASE_SEEN, R209. -/
  | cohortPhaseSeen (core : Nat) (slot : Nat)
  /-- COHORT_LEAVE_AT_EXIT, R210. -/
  | cohortLeaveAtExit (core : Nat) (slot : Nat)
  /-- ROLE_SWITCH, R212. -/
  | roleSwitch (core : Nat) (slot : Nat)
  /-- TEAM_RETIRE, R225. -/
  | teamRetire (core : Nat) (slot : Nat)
  /-- LONG_LATENCY_COMPLETE, R131. -/
  | longLatencyComplete (core : Nat) (slot : Nat) (op : Nat) (part : Option (List Nat))
  /-- STORE_COMPLETE, R53. -/
  | storeComplete (who : Agent)
  /-- EVICT_LAST_EXPIRY, R41. -/
  | evictLastExpiry (crumb : Nat)
  /-- ARBITER_CYCLE, R75. -/
  | arbiterCycle (arb : ArbKey) (reqs : List ArbReq)
  /-- LOCK_REGISTER, R57. -/
  | lockRegister (op : Nat)
  /-- ENGINE_OP_RELEASE, R60. -/
  | engineOpRelease (op : Nat)
  /-- HELD_EVENT_POST, R29. -/
  | heldEventPost (core : Nat)
  /-- FAULT_RECORD_POST, R49. -/
  | faultRecordPost (who : Agent)
  /-- FAULT_MEND, R49. -/
  | faultMend (rec : Nat) (ptes : List (Nat × Nat))
  /-- PAGE_DELIVER, R49. -/
  | pageDeliver (rec : Nat)
  /-- TRANSLATION_INVALIDATE, R48. -/
  | translationInvalidate (cx : CtxId) (base : Nat) (len : Nat)
  /-- WAY_CONVERT, R44. -/
  | wayConvert (die : Nat) (ways : Nat)
  /-- ISLAND_GATE, R32. -/
  | islandGate (island : Nat) (mode : IslandMode)
  /-- LAUNCH_RECORD_READ, R85. -/
  | launchRecordRead (cx : CtxId) (queue : Nat)
  /-- DISPATCH_FAULT_RESOLVE, R450. -/
  | dispatchFaultResolve (rec : Nat)
  /-- GANG_PLACE, R87. -/
  | gangPlace (die : Nat) (bases : List Nat)
  /-- CORESIDENT_PLACE, R88. -/
  | coresidentPlace (cx : CtxId) (queue : Nat) (bases : List Nat)
  /-- GANG_RETIRE, R206. -/
  | gangRetire (gang : Nat)
  /-- GANG_PREEMPT, R91. -/
  | gangPreempt (gang : Nat)
  /-- GANG_RESTORE, R91. -/
  | gangRestore (gang : Nat) (cores : List Nat) (bases : List Nat)
  /-- FRAME_DEADLINE, R89. -/
  | frameDeadline (part : Nat)
  /-- FRAME_PREEMPT, R90. -/
  | framePreempt (part : Nat) (die : Nat)
  /-- PROGRESS_WATCHDOG, R93. -/
  | progressWatchdog (gang : Nat)
  /-- COMMAND_TIMEOUT, R93. -/
  | commandTimeout (cmd : CmdRef)
  /-- CONTEXT_RESET, R94. -/
  | contextReset (cx : CtxId)
  /-- FLIT_DELIVER, R248. -/
  | flitDeliver (gang : Nat) (member : Nat) (port : Nat)
  /-- REMOTE_APPLY, R63. -/
  | remoteApply (peer : Nat) (cx : CtxId) (item : FkItem)
  /-- WINDOW_ADVANCE, R64. -/
  | windowAdvance
  /-- PEER_LOST, R65. -/
  | peerLost (peer : Nat)
  /-- FAKALVO_WRITE, R441. -/
  | fakalvoWrite (frame : FkFrame)
  /-- FAKALVO_READ, R441. -/
  | fakalvoRead (frame : FkFrame)
  /-- FAKALVO_READRESP, R441. -/
  | fakalvoReadresp (frame : FkFrame)
  /-- FAKALVO_ACK, R441. -/
  | fakalvoAck (frame : FkFrame)
  /-- FAKALVO_MARKER, R441. -/
  | fakalvoMarker (frame : FkFrame)
  /-- FAKALVO_RETRANSMIT, R441. -/
  | fakalvoRetransmit (peer : Nat)
  /-- PTP_MESSAGE, R443. -/
  | ptpMessage (port : Nat) (offset : Option Int)
  /-- ETHERNET_FRAME, R440. -/
  | ethernetFrame (qset : Nat) (queue : Nat) (rx : Option (List Byte))
  /-- CLAIM_GRANT, R280. -/
  | claimGrant (core : Nat)
  /-- FETCH_COMPLETE, R285. -/
  | fetchComplete (op : Nat)
  /-- FETCH_FAULT_UNMENDED, R287. -/
  | fetchFaultUnmended (op : Nat)
  /-- WALKER_ENTRY_READ, R299. -/
  | walkerEntryRead (core : Nat) (slot : Nat)
  /-- WALKER_FAULT_RESOLVE, R301. -/
  | walkerFaultResolve (core : Nat) (slot : Nat) (mend : Option (List (Nat × Nat)))
  /-- COPY_REGISTER, R316. -/
  | copyRegister (op : Nat)
  /-- ACCUM_COMMIT, R321. -/
  | accumCommit (op : Nat)
  /-- COPY_FINISH, R323. -/
  | copyFinish (op : Nat)
  /-- COPY_FAULT_UNMENDED, R323. -/
  | copyFaultUnmended (op : Nat)
  /-- FILTER_STEP, R348. -/
  | filterStep (stack : Nat) (act : FilterAct)
  /-- FILTER_REQUEST_DONE, R349. -/
  | filterRequestDone (stack : Nat) (req : Nat)
  /-- RAY_ARRIVE, R366. -/
  | rayArrive (ray : Nat)
  /-- SPILL_REFILL, R366. -/
  | spillRefill (stack : Nat) (vd : Nat)
  /-- TRAVERSAL_ROUND, R368. -/
  | traversalRound (stack : Nat) (vd : Nat)
  /-- CANDIDATE_VERDICT, R365. -/
  | candidateVerdict (gang : Nat) (index : Nat)
  /-- HIT_RECORD_POST, R371. -/
  | hitRecordPost (core : Nat) (slot : Nat)
  /-- TREELET_DRAIN_DONE, R372. -/
  | treeletDrainDone (cx : CtxId) (treelet : Nat)
  /-- SRED_STEP, R394. -/
  | sredStep (op : Nat) (crumb : Nat)
  /-- SRED_COMPLETE, R394. -/
  | sredComplete (op : Nat)
  /-- SBANK_ENTER, R396. -/
  | sbankEnter (stack : Nat)
  /-- SMAC_BANKS_DONE, R398. -/
  | smacBanksDone (op : Nat)
  /-- SESSION_TIMEOUT, R402. -/
  | sessionTimeout (stack : Nat) (pc : Nat)
  /-- DEFERRED_QUEUE_SERVE, R401. -/
  | deferredQueueServe (stack : Nat) (pc : Nat)
  /-- CDC_TILE_FILL, R413. -/
  | cdcTileFill (pa : Nat)
  /-- CDC_WRITEBACK, R414. -/
  | cdcWriteback (pa : Nat)
  /-- PAGE_C_CHANGE, R449. -/
  | pageCChange (cx : CtxId) (page : Nat) (setC : Bool)
  /-- PIXEL_TEAM_SPAWN, R420. -/
  | pixelTeamSpawn (die : Nat) (base : Nat)
  /-- PXOUT_MERGE, R425. -/
  | pxoutMerge (die : Nat) (crumb : PacketCrumb)
  /-- DRAW_COMPLETE, R431. -/
  | drawComplete (die : Nat) (cmd : Nat)
  /-- RASTER_FAULT_RESOLVE, R432. -/
  | rasterFaultResolve (rec : Nat) (mend : Option (List (Nat × Nat)))
  /-- SCAN_OUT_START, R436. -/
  | scanOutStart (head : Nat)
  /-- ENCODE_FRAME_SEND, R438. -/
  | encodeFrameSend (head : Nat)
  /-- THERMAL_THROTTLE, R446. -/
  | thermalThrottle (die : Nat)
  /-- OVERTEMP_SHUTDOWN, R446. -/
  | overtempShutdown
  /-- POWER_LIMIT, R33. -/
  | powerLimit
  /-- VOLTAGE_FAULT, R446. -/
  | voltageFault (island : Nat)
  /-- ECC_ERROR, R446. -/
  | eccError (cx : CtxId) (corrected : Bool)
  /-- POWER_GOOD, R448. -/
  | powerGood (digestOk : Bool)
  /-- VF_FLR, R448. -/
  | vfFlr (vf : Nat)
  /-- PF_RESET, R448. -/
  | pfReset
  /-- PROD, R85. -/
  | prod (fn : Nat) (tag : Nat) (cx : CtxId) (queue : Nat) (value : Nat)
  /-- FCLR, R85. -/
  | fclr (fn : Nat) (tag : Nat) (cx : CtxId) (queue : Nat)
  /-- CTLSTART, R252. -/
  | ctlstart (fn : Nat) (tag : Nat) (cx : CtxId) (core : Nat) (entry : Nat) (arg : Nat)
  /-- CTLSTOP, R254. -/
  | ctlstop (fn : Nat) (tag : Nat) (core : Nat)
  /-- WINOPEN, R328. -/
  | winopen (fn : Nat) (tag : Nat) (cx : CtxId) (base : Nat) (len : Nat) (stack : Nat) (bank : Bool)
  /-- WINCLOSE, R328. -/
  | winclose (fn : Nat) (tag : Nat) (cx : CtxId) (base : Nat)
  /-- MEMWR, R444. -/
  | memwr (fn : Nat) (tag : Nat) (cx : CtxId) (va : Nat) (data : List Byte)
  /-- MEMRD, R444. -/
  | memrd (fn : Nat) (tag : Nat) (cx : CtxId) (va : Nat) (len : Nat)
  /-- GETNOTE, R444. -/
  | getnote (fn : Nat) (tag : Nat)
  /-- MONITOR, R444. -/
  | monitor (fn : Nat) (tag : Nat) (island : Nat)
  /-- HEADCFG, R435. -/
  | headcfg (fn : Nat) (tag : Nat) (head : Nat) (reg : HeadReg) (value : W64)
  /-- VDMAKE, R444. -/
  | vdmake (fn : Nat) (tag : Nat) (req : VdReq)
  /-- ARBSET, R444. -/
  | arbset (fn : Nat) (tag : Nat) (req : ArbWrite)
  /-- PARTMOVE, R83. -/
  | partmove (fn : Nat) (tag : Nat) (req : PartReq)
  /-- SEAL, R45. -/
  | sealRequest (fn : Nat) (tag : Nat) (req : SealReq)
  /-- DEBUG_STOP, R220. -/
  | debugStop (fn : Nat) (tag : Nat) (who : Agent)
  /-- DEBUG_RUN, R220. -/
  | debugRun (fn : Nat) (tag : Nat) (req : RunReq)
  /-- DEBUG_STEP, R220. -/
  | debugStep (fn : Nat) (tag : Nat) (who : Agent)
  /-- DEBUG_GANG_STOP, R220. -/
  | debugGangStop (fn : Nat) (tag : Nat) (gang : Nat) (on : Bool)
  /-- BKCFG_WRITE, R74. -/
  | bkcfgWrite (arb : ArbKey) (slot : Nat) (value : W64)
  /-- WAYQ_WRITE, R81. -/
  | wayqWrite (slice : Nat) (slot : Nat) (value : W64)
  /-- HDCFG_WRITE, R435. -/
  | hdcfgWrite (head : Nat) (value : W64)
  /-- TRQLIM_WRITE, R367. -/
  | trqlimWrite (stack : Nat) (vd : Nat) (ring : Option W64) (qlim : Option W64)
  /-- GRPCFG_WRITE, R403. -/
  | grpcfgWrite (stack : Nat) (group : Nat) (value : W64)
  /-- FRCTL_WRITE, R89. -/
  | frctlWrite (part : Nat) (value : W64)
  /-- REGISTER_WRITE, R7. -/
  | registerWrite (reg : RegRef) (value : W64)
  /-- KSLEEP_EXPIRY, R272. -/
  | ksleepExpiry (core : Nat)
  /-- EQWAIT_TIMEOUT, R266. -/
  | eqwaitTimeout (core : Nat)
  /-- LEASE_EXPIRY, R53. -/
  | leaseExpiry (core : Nat)
  /-- KLD_DATA_ARRIVE, R255. -/
  | kldDataArrive (core : Nat)
  /-- CCTL_ANSWER, R240. -/
  | cctlAnswer (core : Nat) (slot : Nat)
  deriving DecidableEq, Repr

/-- The instruction of an operation and its fields. -/
def Instr.ofOp (o : Op) (w : Ins) : Instr :=
  match o with
  | .nop => .nop w
  | .bra => .bra w
  | .brd => .brd w
  | .brx => .brx w
  | .brxd => .brxd w
  | .call => .call w
  | .callx => .callx w
  | .ret => .ret w
  | .syncr => .syncr w
  | .exit => .exit w
  | .yield => .yield w
  | .waitw => .waitw w
  | .sleep => .sleep w
  | .trap => .trap w
  | .bkpt => .bkpt w
  | .tvec => .tvec w
  | .tret => .tret w
  | .plop => .plop w
  | .pmovTov => .pmovTov w
  | .pmovSel => .pmovSel w
  | .vote => .vote w
  | .cjoin => .cjoin w
  | .cleave => .cleave w
  | .cbar => .cbar w
  | .barinit => .barinit w
  | .bararr => .bararr w
  | .barwait => .barwait w
  | .bartest => .bartest w
  | .role => .role w
  | .dqpop => .dqpop w
  | .crr => .crr w
  | .crw => .crw w
  | .mov => .mov w
  | .movi32 => .movi32 w
  | .movi64 => .movi64 w
  | .sel => .sel w
  | .iadd => .iadd w
  | .isub => .isub w
  | .imul => .imul w
  | .imulh => .imulh w
  | .imad => .imad w
  | .imin => .imin w
  | .imax => .imax w
  | .iabs => .iabs w
  | .ineg => .ineg w
  | .and => .and w
  | .or => .or w
  | .xor => .xor w
  | .andn => .andn w
  | .not => .not w
  | .shl => .shl w
  | .shr => .shr w
  | .sar => .sar w
  | .rot => .rot w
  | .popc => .popc w
  | .clz => .clz w
  | .brev => .brev w
  | .bfe => .bfe w
  | .bfi => .bfi w
  | .iaddc => .iaddc w
  | .lea => .lea w
  | .isetp => .isetp w
  | .fadd => .fadd w
  | .fmul => .fmul w
  | .ffma => .ffma w
  | .fmin => .fmin w
  | .fmax => .fmax w
  | .fsetp => .fsetp w
  | .fclass => .fclass w
  | .frcp => .frcp w
  | .frsq => .frsq w
  | .fsqrt => .fsqrt w
  | .fex2 => .fex2 w
  | .flg2 => .flg2 w
  | .fsin => .fsin w
  | .fcos => .fcos w
  | .ftanh => .ftanh w
  | .dadd => .dadd w
  | .dmul => .dmul w
  | .dfma => .dfma w
  | .dmin => .dmin w
  | .dmax => .dmax w
  | .dsetp => .dsetp w
  | .drcp => .drcp w
  | .hadd2 => .hadd2 w
  | .hmul2 => .hmul2 w
  | .hfma2 => .hfma2 w
  | .cvt => .cvt w
  | .cvtn => .cvtn w
  | .cvtw => .cvtw w
  | .lqscale => .lqscale w
  | .lq8 => .lq8 w
  | .lqd => .lqd w
  | .lqm => .lqm w
  | .shfl => .shfl w
  | .bcast => .bcast w
  | .redux => .redux w
  | .scan => .scan w
  | .rand => .rand w
  | .rseed => .rseed w
  | .ld => .ld w
  | .st => .st w
  | .ldu => .ldu w
  | .atom => .atom w
  | .red => .red w
  | .prf => .prf w
  | .cctl => .cctl w
  | .winf => .winf w
  | .winw => .winw w
  | .msend => .msend w
  | .mrecv => .mrecv w
  | .mpoll => .mpoll w
  | .kld => .kld w
  | .kst => .kst w
  | .kbr => .kbr w
  | .kjmp => .kjmp w
  | .kjx => .kjx w
  | .kcall => .kcall w
  | .kret => .kret w
  | .eqpop => .eqpop w
  | .eqwait => .eqwait w
  | .dqpush => .dqpush w
  | .launch => .launch w
  | .ksleep => .ksleep w
  | .khalt => .khalt w
  | .ktrap => .ktrap w
  | .kcsr => .kcsr w
  | .tclaim => .tclaim w
  | .trels => .trels w
  | .aclaim => .aclaim w
  | .arels => .arels w
  | .mfetch => .mfetch w
  | .mlist => .mlist w
  | .mnext => .mnext w
  | .mma => .mma w
  | .mzero => .mzero w
  | .mrd => .mrd w
  | .mwr => .mwr w
  | .mwrT => .mwrT w
  | .mst => .mst w
  | .mscl => .mscl w
  | .mstat => .mstat w
  | .cpkick => .cpkick w
  | .cpstat => .cpstat w
  | .texs => .texs w
  | .hgl => .hgl w
  | .resq => .resq w
  | .rays => .rays w
  | .hitr => .hitr w
  | .candv => .candv w
  | .tclose => .tclose w
  | .tlpub => .tlpub w
  | .trstat => .trstat w
  | .sred => .sred w
  | .sbank => .sbank w
  | .svb => .svb w
  | .smac => .smac w
  | .sacc => .sacc w
  | .sbexit => .sbexit w
  | .draw => .draw w
  | .rstate => .rstate w
  | .pxout => .pxout w
  | .rclear => .rclear w
  | .rresolve => .rresolve w
  | .rsync => .rsync w

/-- The operation and fields of an instruction; none for a step of the device. -/
def Instr.toOp (i : Instr) : Option (Op × Ins) :=
  match i with
  | .nop w => some (.nop, w)
  | .bra w => some (.bra, w)
  | .brd w => some (.brd, w)
  | .brx w => some (.brx, w)
  | .brxd w => some (.brxd, w)
  | .call w => some (.call, w)
  | .callx w => some (.callx, w)
  | .ret w => some (.ret, w)
  | .syncr w => some (.syncr, w)
  | .exit w => some (.exit, w)
  | .yield w => some (.yield, w)
  | .waitw w => some (.waitw, w)
  | .sleep w => some (.sleep, w)
  | .trap w => some (.trap, w)
  | .bkpt w => some (.bkpt, w)
  | .tvec w => some (.tvec, w)
  | .tret w => some (.tret, w)
  | .plop w => some (.plop, w)
  | .pmovTov w => some (.pmovTov, w)
  | .pmovSel w => some (.pmovSel, w)
  | .vote w => some (.vote, w)
  | .cjoin w => some (.cjoin, w)
  | .cleave w => some (.cleave, w)
  | .cbar w => some (.cbar, w)
  | .barinit w => some (.barinit, w)
  | .bararr w => some (.bararr, w)
  | .barwait w => some (.barwait, w)
  | .bartest w => some (.bartest, w)
  | .role w => some (.role, w)
  | .dqpop w => some (.dqpop, w)
  | .crr w => some (.crr, w)
  | .crw w => some (.crw, w)
  | .mov w => some (.mov, w)
  | .movi32 w => some (.movi32, w)
  | .movi64 w => some (.movi64, w)
  | .sel w => some (.sel, w)
  | .iadd w => some (.iadd, w)
  | .isub w => some (.isub, w)
  | .imul w => some (.imul, w)
  | .imulh w => some (.imulh, w)
  | .imad w => some (.imad, w)
  | .imin w => some (.imin, w)
  | .imax w => some (.imax, w)
  | .iabs w => some (.iabs, w)
  | .ineg w => some (.ineg, w)
  | .and w => some (.and, w)
  | .or w => some (.or, w)
  | .xor w => some (.xor, w)
  | .andn w => some (.andn, w)
  | .not w => some (.not, w)
  | .shl w => some (.shl, w)
  | .shr w => some (.shr, w)
  | .sar w => some (.sar, w)
  | .rot w => some (.rot, w)
  | .popc w => some (.popc, w)
  | .clz w => some (.clz, w)
  | .brev w => some (.brev, w)
  | .bfe w => some (.bfe, w)
  | .bfi w => some (.bfi, w)
  | .iaddc w => some (.iaddc, w)
  | .lea w => some (.lea, w)
  | .isetp w => some (.isetp, w)
  | .fadd w => some (.fadd, w)
  | .fmul w => some (.fmul, w)
  | .ffma w => some (.ffma, w)
  | .fmin w => some (.fmin, w)
  | .fmax w => some (.fmax, w)
  | .fsetp w => some (.fsetp, w)
  | .fclass w => some (.fclass, w)
  | .frcp w => some (.frcp, w)
  | .frsq w => some (.frsq, w)
  | .fsqrt w => some (.fsqrt, w)
  | .fex2 w => some (.fex2, w)
  | .flg2 w => some (.flg2, w)
  | .fsin w => some (.fsin, w)
  | .fcos w => some (.fcos, w)
  | .ftanh w => some (.ftanh, w)
  | .dadd w => some (.dadd, w)
  | .dmul w => some (.dmul, w)
  | .dfma w => some (.dfma, w)
  | .dmin w => some (.dmin, w)
  | .dmax w => some (.dmax, w)
  | .dsetp w => some (.dsetp, w)
  | .drcp w => some (.drcp, w)
  | .hadd2 w => some (.hadd2, w)
  | .hmul2 w => some (.hmul2, w)
  | .hfma2 w => some (.hfma2, w)
  | .cvt w => some (.cvt, w)
  | .cvtn w => some (.cvtn, w)
  | .cvtw w => some (.cvtw, w)
  | .lqscale w => some (.lqscale, w)
  | .lq8 w => some (.lq8, w)
  | .lqd w => some (.lqd, w)
  | .lqm w => some (.lqm, w)
  | .shfl w => some (.shfl, w)
  | .bcast w => some (.bcast, w)
  | .redux w => some (.redux, w)
  | .scan w => some (.scan, w)
  | .rand w => some (.rand, w)
  | .rseed w => some (.rseed, w)
  | .ld w => some (.ld, w)
  | .st w => some (.st, w)
  | .ldu w => some (.ldu, w)
  | .atom w => some (.atom, w)
  | .red w => some (.red, w)
  | .prf w => some (.prf, w)
  | .cctl w => some (.cctl, w)
  | .winf w => some (.winf, w)
  | .winw w => some (.winw, w)
  | .msend w => some (.msend, w)
  | .mrecv w => some (.mrecv, w)
  | .mpoll w => some (.mpoll, w)
  | .kld w => some (.kld, w)
  | .kst w => some (.kst, w)
  | .kbr w => some (.kbr, w)
  | .kjmp w => some (.kjmp, w)
  | .kjx w => some (.kjx, w)
  | .kcall w => some (.kcall, w)
  | .kret w => some (.kret, w)
  | .eqpop w => some (.eqpop, w)
  | .eqwait w => some (.eqwait, w)
  | .dqpush w => some (.dqpush, w)
  | .launch w => some (.launch, w)
  | .ksleep w => some (.ksleep, w)
  | .khalt w => some (.khalt, w)
  | .ktrap w => some (.ktrap, w)
  | .kcsr w => some (.kcsr, w)
  | .tclaim w => some (.tclaim, w)
  | .trels w => some (.trels, w)
  | .aclaim w => some (.aclaim, w)
  | .arels w => some (.arels, w)
  | .mfetch w => some (.mfetch, w)
  | .mlist w => some (.mlist, w)
  | .mnext w => some (.mnext, w)
  | .mma w => some (.mma, w)
  | .mzero w => some (.mzero, w)
  | .mrd w => some (.mrd, w)
  | .mwr w => some (.mwr, w)
  | .mwrT w => some (.mwrT, w)
  | .mst w => some (.mst, w)
  | .mscl w => some (.mscl, w)
  | .mstat w => some (.mstat, w)
  | .cpkick w => some (.cpkick, w)
  | .cpstat w => some (.cpstat, w)
  | .texs w => some (.texs, w)
  | .hgl w => some (.hgl, w)
  | .resq w => some (.resq, w)
  | .rays w => some (.rays, w)
  | .hitr w => some (.hitr, w)
  | .candv w => some (.candv, w)
  | .tclose w => some (.tclose, w)
  | .tlpub w => some (.tlpub, w)
  | .trstat w => some (.trstat, w)
  | .sred w => some (.sred, w)
  | .sbank w => some (.sbank, w)
  | .svb w => some (.svb, w)
  | .smac w => some (.smac, w)
  | .sacc w => some (.sacc, w)
  | .sbexit w => some (.sbexit, w)
  | .draw w => some (.draw, w)
  | .rstate w => some (.rstate, w)
  | .pxout w => some (.pxout, w)
  | .rclear w => some (.rclear, w)
  | .rresolve w => some (.rresolve, w)
  | .rsync w => some (.rsync, w)
  | .clauseStart .. => none
  | .quantumExpiry .. => none
  | .sleepExpiry .. => none
  | .issueStarvationPromote .. => none
  | .cohortPhaseSeen .. => none
  | .cohortLeaveAtExit .. => none
  | .roleSwitch .. => none
  | .teamRetire .. => none
  | .longLatencyComplete .. => none
  | .storeComplete .. => none
  | .evictLastExpiry .. => none
  | .arbiterCycle .. => none
  | .lockRegister .. => none
  | .engineOpRelease .. => none
  | .heldEventPost .. => none
  | .faultRecordPost .. => none
  | .faultMend .. => none
  | .pageDeliver .. => none
  | .translationInvalidate .. => none
  | .wayConvert .. => none
  | .islandGate .. => none
  | .launchRecordRead .. => none
  | .dispatchFaultResolve .. => none
  | .gangPlace .. => none
  | .coresidentPlace .. => none
  | .gangRetire .. => none
  | .gangPreempt .. => none
  | .gangRestore .. => none
  | .frameDeadline .. => none
  | .framePreempt .. => none
  | .progressWatchdog .. => none
  | .commandTimeout .. => none
  | .contextReset .. => none
  | .flitDeliver .. => none
  | .remoteApply .. => none
  | .windowAdvance => none
  | .peerLost .. => none
  | .fakalvoWrite .. => none
  | .fakalvoRead .. => none
  | .fakalvoReadresp .. => none
  | .fakalvoAck .. => none
  | .fakalvoMarker .. => none
  | .fakalvoRetransmit .. => none
  | .ptpMessage .. => none
  | .ethernetFrame .. => none
  | .claimGrant .. => none
  | .fetchComplete .. => none
  | .fetchFaultUnmended .. => none
  | .walkerEntryRead .. => none
  | .walkerFaultResolve .. => none
  | .copyRegister .. => none
  | .accumCommit .. => none
  | .copyFinish .. => none
  | .copyFaultUnmended .. => none
  | .filterStep .. => none
  | .filterRequestDone .. => none
  | .rayArrive .. => none
  | .spillRefill .. => none
  | .traversalRound .. => none
  | .candidateVerdict .. => none
  | .hitRecordPost .. => none
  | .treeletDrainDone .. => none
  | .sredStep .. => none
  | .sredComplete .. => none
  | .sbankEnter .. => none
  | .smacBanksDone .. => none
  | .sessionTimeout .. => none
  | .deferredQueueServe .. => none
  | .cdcTileFill .. => none
  | .cdcWriteback .. => none
  | .pageCChange .. => none
  | .pixelTeamSpawn .. => none
  | .pxoutMerge .. => none
  | .drawComplete .. => none
  | .rasterFaultResolve .. => none
  | .scanOutStart .. => none
  | .encodeFrameSend .. => none
  | .thermalThrottle .. => none
  | .overtempShutdown => none
  | .powerLimit => none
  | .voltageFault .. => none
  | .eccError .. => none
  | .powerGood .. => none
  | .vfFlr .. => none
  | .pfReset => none
  | .prod .. => none
  | .fclr .. => none
  | .ctlstart .. => none
  | .ctlstop .. => none
  | .winopen .. => none
  | .winclose .. => none
  | .memwr .. => none
  | .memrd .. => none
  | .getnote .. => none
  | .monitor .. => none
  | .headcfg .. => none
  | .vdmake .. => none
  | .arbset .. => none
  | .partmove .. => none
  | .sealRequest .. => none
  | .debugStop .. => none
  | .debugRun .. => none
  | .debugStep .. => none
  | .debugGangStop .. => none
  | .bkcfgWrite .. => none
  | .wayqWrite .. => none
  | .hdcfgWrite .. => none
  | .trqlimWrite .. => none
  | .grpcfgWrite .. => none
  | .frctlWrite .. => none
  | .registerWrite .. => none
  | .ksleepExpiry .. => none
  | .eqwaitTimeout .. => none
  | .leaseExpiry .. => none
  | .kldDataArrive .. => none
  | .cctlAnswer .. => none

end Sys2Proof
end

