-- ==== Sys2Proof/Config.lean ====
section
/-! DEFINITION. What the spec leaves open, as constants without a body: no proof can see what they are. The counts of parts
are fixed by 01 R10 and stand where they are used. -/

namespace Sys2Proof.Config

/-- The functions of 06 R171 whose bits the spec does not fix. -/
inductive ApproxFn where
  | rsq | ex2 | lg2 | sin | cos | tanh
  deriving DecidableEq, Repr

/-- FREE VALUE (log 10): the device's result bits for an approximate function of an FP32 input (06 R171). -/
opaque approx : ApproxFn → W32 → W32

/-- FREE VALUE (log 11): a byte that the spec leaves undefined, fresh for each use (02 R50, R61; 11 R323; 15 R416, R433). -/
opaque freeByte : Nat → Byte

/-- FREE VALUE (log 12): a choice of two that the spec leaves to the device, fresh for each use (02 R48, 10 R292). -/
opaque freeBool : Nat → Bool

/-- FREE VALUE (log 13): the L2 set of a crumb within its slice, 0 to 511 (02 R40). -/
opaque setIndex : Nat → Nat

/-- FREE VALUE (log 13): the age that a slice's pseudo-LRU gives a way, fresh for each use (02 R41). -/
opaque lruAge : Nat → Nat → Nat

/-- FREE VALUE (log 14): a number the spec leaves undefined, fresh for each use. -/
opaque freeNat : Nat → Nat

end Sys2Proof.Config
end

