-- ==== Sys2Proof/Machine/Bits.lean ====
section
/-! DEFINITION. Bit fields, sign extension, byte order (00 R2), integer roots, and finite tables. Every function is
structurally recursive, so that the kernel can evaluate it. -/

namespace Sys2Proof

/-- Bits [hi:lo] of a number. -/
def bits (x hi lo : Nat) : Nat := x / 2 ^ lo % 2 ^ (hi + 1 - lo)

/-- Bit k of a number. -/
def bitAt (x k : Nat) : Bool := x / 2 ^ k % 2 == 1

/-- The value of a w-bit pattern as a two's-complement number. -/
def sx (w x : Nat) : Int :=
  let y := x % 2 ^ w
  if 2 * y < 2 ^ w then (y : Int) else (y : Int) - (2 ^ w : Nat)

/-- An exact number modulo 2^w, as a w-bit pattern. -/
def wrap (w : Nat) (x : Int) : Nat := (x % (2 ^ w : Nat)).toNat

/-- A pattern extended to 64 bits by type: signed or unsigned from w bits. -/
def extend (signed : Bool) (w out x : Nat) : Nat := if signed then wrap out (sx w x) else x % 2 ^ w

def boolNat (b : Bool) : Nat := if b then 1 else 0

/-- The n bytes of a number, least significant first (00 R2). -/
def leBytes : Nat → Nat → List Byte
  | 0, _ => []
  | n + 1, x => BitVec.ofNat 8 x :: leBytes n (x / 256)

/-- The number whose bytes these are, least significant first (00 R2). -/
def leNat : List Byte → Nat
  | [] => 0
  | b :: bs => b.toNat + 256 * leNat bs

/-- The largest r with r * r ≤ x, found bit by bit from bit `fuel - 1` downwards. -/
def isqrtAux (x : Nat) : Nat → Nat → Nat
  | 0, r => r
  | fuel + 1, r =>
    let r' := r + 2 ^ fuel
    isqrtAux x fuel (if r' * r' ≤ x then r' else r)

def isqrt (x : Nat) : Nat := isqrtAux x (Nat.log2 x / 2 + 1) 0

def popCount : Nat → Nat → Nat
  | 0, _ => 0
  | n + 1, x => x % 2 + popCount n (x / 2)

/-- Bit reversal over n bits. -/
def bitRev : Nat → Nat → Nat
  | 0, _ => 0
  | n + 1, x => x % 2 * 2 ^ n + bitRev n (x / 2)

def ceilDiv (a b : Nat) : Nat := (a + b - 1) / b

def alignUp (x a : Nat) : Nat := ceilDiv x a * a

def alignDown (x a : Nat) : Nat := x / a * a

/-- The lowest set bit below n. -/
def lowestBit (n x : Nat) : Option Nat := (List.range n).find? (bitAt x ·)

/-- The elements of a 0-1 list set where `f` holds, as a number. -/
def maskOf (n : Nat) (f : Nat → Bool) : Nat := (List.range n).foldl (fun m i => if f i then m + 2 ^ i else m) 0

/-! Finite tables. -/

def Tbl.get? {α : Type} : Tbl α → Nat → Option α
  | [], _ => none
  | (k, x) :: r, n => if k == n then some x else Tbl.get? r n

def Tbl.get {α : Type} (d : α) (t : Tbl α) (n : Nat) : α := (t.get? n).getD d

/-- Writes an entry, keeping the keys strictly rising. -/
def Tbl.set {α : Type} : Tbl α → Nat → α → Tbl α
  | [], n, y => [(n, y)]
  | (k, x) :: r, n, y => if n < k then (n, y) :: (k, x) :: r else if k == n then (n, y) :: r else (k, x) :: Tbl.set r n y

def Tbl.erase {α : Type} : Tbl α → Nat → Tbl α
  | [], _ => []
  | (k, x) :: r, n => if k == n then Tbl.erase r n else (k, x) :: Tbl.erase r n

/-- Writes a value where an entry equal to the default is not listed. -/
def Tbl.put {α : Type} [DecidableEq α] (d : α) (t : Tbl α) (n : Nat) (y : α) : Tbl α :=
  if y = d then t.erase n else t.set n y

def Tbl.alter {α : Type} (t : Tbl α) (n : Nat) (f : α → α) : Tbl α :=
  match t.get? n with
  | some x => t.set n (f x)
  | none => t

/-- The lowest natural below n that is not a key. -/
def Tbl.free {α : Type} (t : Tbl α) (n : Nat) : Option Nat := (List.range n).find? fun k => (t.get? k).isNone

/-- Replaces the element at a position. -/
def setAt {α : Type} : List α → Nat → α → List α
  | [], _, _ => []
  | _ :: r, 0, y => y :: r
  | x :: r, n + 1, y => x :: setAt r n y

end Sys2Proof
end

