-- ==== Sys2Proof/Machine/Fields.lean ====
section
/-! DEFINITION. What the spec fixes of each opcode's words: its number (05 R143), side (R144), lengths (R135, R136 and each
engine's encoding table), operand positions, modifier bits, and the checks of R145 that need only the words and the
register allotment. -/

namespace Sys2Proof

/-- OPC, bits [11:2] (05 R143). -/
def Op.code (o : Op) : Nat :=
  match o with
  | .nop => 0x000
  | .bra => 0x001
  | .brd => 0x002
  | .brx => 0x003
  | .brxd => 0x004
  | .call => 0x005
  | .callx => 0x006
  | .ret => 0x007
  | .syncr => 0x008
  | .exit => 0x009
  | .yield => 0x00A
  | .waitw => 0x00B
  | .sleep => 0x00C
  | .trap => 0x00D
  | .bkpt => 0x00E
  | .tvec => 0x00F
  | .tret => 0x010
  | .plop => 0x011
  | .pmovTov => 0x012
  | .pmovSel => 0x012
  | .vote => 0x013
  | .cjoin => 0x014
  | .cleave => 0x015
  | .cbar => 0x016
  | .barinit => 0x017
  | .bararr => 0x018
  | .barwait => 0x019
  | .bartest => 0x01A
  | .role => 0x01B
  | .dqpop => 0x01C
  | .crr => 0x01D
  | .crw => 0x01E
  | .mov => 0x040
  | .movi32 => 0x041
  | .movi64 => 0x041
  | .sel => 0x042
  | .iadd => 0x043
  | .isub => 0x044
  | .imul => 0x045
  | .imulh => 0x046
  | .imad => 0x047
  | .imin => 0x048
  | .imax => 0x049
  | .iabs => 0x04A
  | .ineg => 0x04B
  | .and => 0x04C
  | .or => 0x04D
  | .xor => 0x04E
  | .andn => 0x04F
  | .not => 0x050
  | .shl => 0x051
  | .shr => 0x052
  | .sar => 0x053
  | .rot => 0x054
  | .popc => 0x055
  | .clz => 0x056
  | .brev => 0x057
  | .bfe => 0x058
  | .bfi => 0x059
  | .iaddc => 0x05A
  | .lea => 0x05B
  | .isetp => 0x05C
  | .fadd => 0x080
  | .fmul => 0x081
  | .ffma => 0x082
  | .fmin => 0x083
  | .fmax => 0x084
  | .fsetp => 0x085
  | .fclass => 0x086
  | .frcp => 0x087
  | .frsq => 0x088
  | .fsqrt => 0x089
  | .fex2 => 0x08A
  | .flg2 => 0x08B
  | .fsin => 0x08C
  | .fcos => 0x08D
  | .ftanh => 0x08E
  | .dadd => 0x08F
  | .dmul => 0x090
  | .dfma => 0x091
  | .dmin => 0x092
  | .dmax => 0x093
  | .dsetp => 0x094
  | .drcp => 0x095
  | .hadd2 => 0x096
  | .hmul2 => 0x097
  | .hfma2 => 0x098
  | .cvt => 0x0C0
  | .cvtn => 0x0C1
  | .cvtw => 0x0C2
  | .lqscale => 0x0C3
  | .lq8 => 0x0C4
  | .lqd => 0x0C5
  | .lqm => 0x0C6
  | .shfl => 0x0E0
  | .bcast => 0x0E1
  | .redux => 0x0E2
  | .scan => 0x0E3
  | .rand => 0x0E4
  | .rseed => 0x0E5
  | .ld => 0x100
  | .st => 0x101
  | .ldu => 0x102
  | .atom => 0x103
  | .red => 0x104
  | .prf => 0x105
  | .cctl => 0x106
  | .winf => 0x107
  | .winw => 0x108
  | .msend => 0x109
  | .mrecv => 0x10A
  | .mpoll => 0x10B
  | .kld => 0x140
  | .kst => 0x141
  | .kbr => 0x142
  | .kjmp => 0x143
  | .kjx => 0x144
  | .kcall => 0x145
  | .kret => 0x146
  | .eqpop => 0x147
  | .eqwait => 0x148
  | .dqpush => 0x149
  | .launch => 0x14A
  | .ksleep => 0x14B
  | .khalt => 0x14C
  | .ktrap => 0x14D
  | .kcsr => 0x14E
  | .tclaim => 0x180
  | .trels => 0x181
  | .aclaim => 0x182
  | .arels => 0x183
  | .mfetch => 0x184
  | .mlist => 0x185
  | .mnext => 0x186
  | .mma => 0x187
  | .mzero => 0x188
  | .mrd => 0x189
  | .mwr => 0x18A
  | .mwrT => 0x18A
  | .mst => 0x18B
  | .mscl => 0x18C
  | .mstat => 0x18D
  | .cpkick => 0x1A0
  | .cpstat => 0x1A1
  | .texs => 0x1B0
  | .hgl => 0x1B1
  | .resq => 0x1B2
  | .rays => 0x1C0
  | .hitr => 0x1C1
  | .candv => 0x1C2
  | .tclose => 0x1C3
  | .tlpub => 0x1C4
  | .trstat => 0x1C5
  | .sred => 0x1D0
  | .sbank => 0x1D1
  | .svb => 0x1D2
  | .smac => 0x1D3
  | .sacc => 0x1D4
  | .sbexit => 0x1D5
  | .draw => 0x1E0
  | .rstate => 0x1E1
  | .pxout => 0x1E2
  | .rclear => 0x1E3
  | .rresolve => 0x1E4
  | .rsync => 0x1E5

/-- Every instruction of the opcode map. -/
def Op.all : List Op :=
  ([.nop, .bra, .brd, .brx, .brxd, .call, .callx, .ret, .syncr, .exit, .yield] : List Op) ++
  ([.waitw, .sleep, .trap, .bkpt, .tvec, .tret, .plop, .pmovTov, .pmovSel, .vote, .cjoin] : List Op) ++
  ([.cleave, .cbar, .barinit, .bararr, .barwait, .bartest, .role, .dqpop, .crr, .crw, .mov] : List Op) ++
  ([.movi32, .movi64, .sel, .iadd, .isub, .imul, .imulh, .imad, .imin, .imax, .iabs] : List Op) ++
  ([.ineg, .and, .or, .xor, .andn, .not, .shl, .shr, .sar, .rot, .popc] : List Op) ++
  ([.clz, .brev, .bfe, .bfi, .iaddc, .lea, .isetp, .fadd, .fmul, .ffma, .fmin] : List Op) ++
  ([.fmax, .fsetp, .fclass, .frcp, .frsq, .fsqrt, .fex2, .flg2, .fsin, .fcos, .ftanh] : List Op) ++
  ([.dadd, .dmul, .dfma, .dmin, .dmax, .dsetp, .drcp, .hadd2, .hmul2, .hfma2, .cvt] : List Op) ++
  ([.cvtn, .cvtw, .lqscale, .lq8, .lqd, .lqm, .shfl, .bcast, .redux, .scan, .rand] : List Op) ++
  ([.rseed, .ld, .st, .ldu, .atom, .red, .prf, .cctl, .winf, .winw, .msend] : List Op) ++
  ([.mrecv, .mpoll, .kld, .kst, .kbr, .kjmp, .kjx, .kcall, .kret, .eqpop, .eqwait] : List Op) ++
  ([.dqpush, .launch, .ksleep, .khalt, .ktrap, .kcsr, .tclaim, .trels, .aclaim, .arels, .mfetch] : List Op) ++
  ([.mlist, .mnext, .mma, .mzero, .mrd, .mwr, .mwrT, .mst, .mscl, .mstat, .cpkick] : List Op) ++
  ([.cpstat, .texs, .hgl, .resq, .rays, .hitr, .candv, .tclose, .tlpub, .trstat, .sred] : List Op) ++
  ([.sbank, .svb, .smac, .sacc, .sbexit, .draw, .rstate, .pxout, .rclear, .rresolve, .rsync] : List Op)

/-- Where an opcode is accepted (05 R144). -/
def Op.onSide (o : Op) (sd : Side) : Bool :=
  match o with
  | .nop | .winf | .winw | .mfetch | .mlist | .cpkick => true
  | .mov | .movi32 | .movi64 | .iadd | .isub | .imul | .imulh | .imad | .imin | .imax | .iabs | .ineg | .and | .or | .xor
  | .andn | .not | .shl | .shr | .sar | .rot | .popc | .clz | .brev | .bfe | .bfi | .iaddc | .lea => true
  | .kld | .kst | .kbr | .kjmp | .kjx | .kcall | .kret | .eqpop | .eqwait | .dqpush | .launch | .ksleep | .khalt | .ktrap
  | .kcsr | .tclose | .tlpub | .trstat | .sred | .sbank | .svb | .smac | .sacc | .sbexit | .draw | .rstate | .rclear
  | .rresolve | .rsync => sd == .ctl
  | _ => sd == .team

/-- The memory-access opcodes whose 128-bit form carries an address offset (05 R135). -/
def Op.offsetImm (o : Op) : Bool :=
  match o with
  | .ld | .st | .ldu | .atom | .red | .prf | .cctl => true
  | _ => false

/-- The opcodes whose IMM32 stands for operand B (05 R135): those of 0x040 and 0x080 that read B, but for the FP64 ones. -/
def Op.immB (o : Op) : Bool :=
  match o with
  | .sel | .iadd | .isub | .imul | .imulh | .imad | .imin | .imax | .and | .or | .xor | .andn | .shl | .shr | .sar | .rot
  | .bfe | .bfi | .iaddc | .lea | .isetp | .fadd | .fmul | .ffma | .fmin | .fmax | .fsetp | .hadd2 | .hmul2 | .hfma2 => true
  | _ => false

/-- The immediate-extension opcodes (05 R136). -/
def Op.immExt (o : Op) : Bool :=
  match o with
  | .movi32 | .movi64 | .brd | .brxd | .mfetch | .rstate => true
  | _ => false

/-- Accepted lengths (05 R135, R136; 06 R163, R168; 07 R221; 08 R234; 09 R258; 10 R304; 11 R313; 12 R343; 13 R377;
14 R390; 15 R429). -/
def Op.lenOk (o : Op) (l : Len) : Bool :=
  if o.offsetImm || o.immB then true else
  match o with
  | .movi64 => l == .l128
  | .movi32 | .brd | .brxd | .mfetch | .rstate | .mwrT | .mst | .mscl | .tlpub | .svb => l == .l96
  | .mov | .iabs | .ineg | .not | .popc | .clz | .brev | .fclass | .frcp | .frsq | .fsqrt | .fex2 | .flg2 | .fsin | .fcos
  | .ftanh | .dadd | .dmul | .dfma | .dmin | .dmax | .dsetp | .drcp | .cvt | .cvtn | .cvtw | .lqscale | .lq8 | .lqd
  | .lqm | .shfl | .bcast | .redux | .scan | .rand | .rseed | .plop | .launch | .mma | .texs | .hgl | .resq
  | .rays => l == .l64 || l == .l96
  | _ => l == .l64

/-- Clause-closing instructions (05 R128). -/
def Op.closing (o : Op) : Bool :=
  match o with
  | .bra | .brd | .brx | .brxd | .call | .callx | .ret | .syncr | .exit | .tret | .kbr | .kjmp | .kjx | .kcall | .kret
  | .khalt => true
  | _ => false

/-- Long-latency instructions (05 R131). -/
def Op.long (o : Op) (w : Ins) : Bool :=
  match o with
  | .ld | .ldu | .texs | .hgl | .resq | .hitr | .mrd | .mstat | .cpstat | .mrecv => true
  | .atom => w.d != .z
  | _ => false

/-- A position holds block-offset bits, not an operand (05 R130, 09 R258). -/
def Op.rawAB (o : Op) : Bool :=
  match o with
  | .bra | .brd | .call | .kjmp | .kcall => true
  | _ => false

def Op.rawD (o : Op) : Bool := o == .kbr

/-! Operand codes (05 R137, R138, R140). -/

def Special.code : Special → Nat
  | .tid => 0x250 | .wafer => 0x251 | .team => 0x252 | .gang => 0x253 | .core => 0x254 | .cluster => 0x255 | .die => 0x256
  | .vd => 0x257 | .ctx => 0x258 | .role => 0x259 | .clk => 0x25A | .clkh => 0x25B | .win => 0x25C

def Special.all : List Special := [.tid, .wafer, .team, .gang, .core, .cluster, .die, .vd, .ctx, .role, .clk, .clkh, .win]

def Special.perThread : Special → Bool
  | .tid | .wafer => true
  | _ => false

def Special.onCtl : Special → Bool
  | .core | .cluster | .die | .vd | .ctx | .clk | .clkh | .win => true
  | _ => false

def Opd.code : Opd → Nat
  | .v n => n
  | .s n => 0x200 + n
  | .p n => 0x240 + n
  | .sp x => x.code
  | .lit n => 0x3C0 + n
  | .z => 0x3FF
  | .k n => n
  | .raw n => n

def Opd.ofCode (sd : Side) (c : Nat) : Option Opd :=
  if c == 0x3FF then some .z
  else if 0x3C0 ≤ c && c ≤ 0x3DF then some (.lit (c - 0x3C0))
  else match sd with
  | .ctl =>
    if c < 0x40 then some (.k c)
    else (Special.all.find? fun x => x.onCtl && x.code == c).map .sp
  | .team =>
    if c < 0x200 then some (.v c)
    else if c < 0x240 then some (.s (c - 0x200))
    else if c < 0x24C then some (.p (c - 0x240))
    else (Special.all.find? fun x => x.code == c).map .sp

/-! Types (05 R142). -/

def DType.code : DType → Nat
  | .n8 => 0 | .n16 => 1 | .n32 => 2 | .n64 => 3 | .i8 => 4 | .i16 => 5 | .i32 => 6 | .i64 => 7 | .f64 => 8 | .f32 => 9
  | .f16 => 10 | .bf16 => 11 | .e4m3 => 12 | .e5m2 => 13 | .e2m1 => 14 | .i4 => 15 | .e8l16 => 16 | .e8l24 => 17 | .e8l32 => 18

def DType.all : List DType :=
  [.n8, .n16, .n32, .n64, .i8, .i16, .i32, .i64, .f64, .f32, .f16, .bf16, .e4m3, .e5m2, .e2m1, .i4, .e8l16, .e8l24, .e8l32]

def DType.ofCode (c : Nat) : Option DType := DType.all[c]?

/-- Width in bits of an element; of a whole point for the E8 types (04 R95, R110). -/
def DType.width : DType → Nat
  | .n8 => 8 | .n16 => 16 | .n32 => 32 | .n64 => 64 | .i8 => 8 | .i16 => 16 | .i32 => 32 | .i64 => 64 | .f64 => 64
  | .f32 => 32 | .f16 => 16 | .bf16 => 16 | .e4m3 => 8 | .e5m2 => 8 | .e2m1 => 4 | .i4 => 4 | .e8l16 => 16 | .e8l24 => 24
  | .e8l32 => 32

def DType.isE8 : DType → Bool
  | .e8l16 | .e8l24 | .e8l32 => true
  | _ => false

def DType.isFloat : DType → Bool
  | .f64 | .f32 | .f16 | .bf16 | .e4m3 | .e5m2 | .e2m1 => true
  | _ => false

def DType.signed : DType → Bool
  | .i8 | .i16 | .i32 | .i64 | .i4 => true
  | _ => false

/-! Modifier fields, named by their bit positions in the base word (05 R133, R134). -/

/-- MOD[hi:lo]. -/
def Ins.m (w : Ins) (hi lo : Nat) : Nat := bits w.mod.toNat (hi - 49) (lo - 49)

/-- MOD[k] of one bit. -/
def Ins.mb (w : Ins) (k : Nat) : Bool := bitAt w.mod.toNat (k - 49)

/-- XMOD[hi:lo]. -/
def Ins.xm (w : Ins) (hi lo : Nat) : Nat := bits w.xmod.toNat (hi - 85) (lo - 85)

/-- The type in MOD[53:49]. -/
def Ins.ty (w : Ins) : Option DType := DType.ofCode (w.m 53 49)

/-- The second type of a conversion, MOD[58:54]. -/
def Ins.ty2 (w : Ins) : Option DType := DType.ofCode (w.m 58 54)

/-- IMM32 stands for operand B. -/
def Ins.litB (w : Ins) : Bool := w.len == .l128

/-- The MOD bits an opcode defines, as a mask over MOD[63:49] with bit 0 for [49]. -/
def Op.modMask (o : Op) : Nat :=
  match o with
  | .waitw => 0xFFF
  | .trap | .plop | .ktrap => 0xFF
  | .tvec | .bartest | .crr | .crw => 0x1F
  | .pmovSel => 0x1FFF
  | .vote | .msend | .mrecv | .mpoll | .mstat => 0x3
  | .barinit | .bararr | .barwait | .mlist => 0xF
  | .role => 0x7
  | .mov | .sel | .and | .or | .xor | .andn | .not | .shl | .shr | .sar | .rot | .popc | .clz | .brev | .bfi | .bcast
  | .rand | .rseed => 0x1
  | .iadd | .isub | .imul | .imulh | .imad | .imin | .imax | .bfe | .iabs | .ineg | .iaddc | .lq8 | .lqm => 0x1F
  | .lea => 0xFF
  | .isetp => 0x6FF
  | .frcp | .fsqrt | .frsq | .fex2 | .flg2 | .fsin | .fcos | .ftanh | .fclass | .drcp => 0x09
  | .fadd | .fmul | .fmin | .fmax | .dadd | .dmul | .dmin | .dmax => 0x1B
  | .ffma | .dfma => 0x1F
  | .fsetp | .dsetp => 0x7FF
  | .hadd2 | .hmul2 => 0x803
  | .hfma2 => 0x807
  | .cvt | .lqd => 0x3FF
  | .cvtn | .cvtw => 0x7FFF
  | .lqscale => 0x3F
  | .shfl => 0x7807
  | .redux => 0x79FF
  | .scan => 0x7BFF
  | .ld | .st | .ldu => 0x7C7F
  | .atom | .red => 0x7FFF
  | .prf => 0x7C20
  | .cctl => 0x7007
  | .kld | .kst => 0x70FF
  | .kbr => 0x3FFF
  | .launch | .mst | .cpstat | .hitr | .rresolve => 0x1
  | .kcsr => 0x1FF
  | .mfetch => 0x1FF
  | .mwrT => 0x3F
  | .texs => 0x7
  | .hgl => 0xFF
  | .resq => 0xC
  | .rays => 0x3FF
  | .svb => 0x800
  | .smac => 0xFFF
  | .sacc => 0x3FFF
  | .rclear => 0x3
  | _ => 0

/-- The XMOD bits an opcode defines, with bit 0 for [85] (06 R160). -/
def Op.xmodMask (o : Op) : Nat :=
  match o with
  | .iaddc => 0xF
  | .cvtn | .cvtw => 0x1
  | _ => 0

/-- The largest RND an opcode accepts (06 R161, 10 R304). -/
def Op.rndMax (o : Op) (w : Ins) : Nat :=
  match o with
  | .fadd | .fmul | .ffma | .frcp | .fsqrt | .dadd | .dmul | .dfma | .drcp | .hadd2 | .hmul2 | .hfma2 | .cvt | .cvtn
  | .cvtw => 5
  | .redux | .scan => if 8 ≤ w.m 57 54 then 5 else 0
  | .lqd => 1
  | .mst => 4
  | _ => 0

/-- SAT accepted (06 R161; integer REDUX and SCAN .add by R183, R184; 10 R304). -/
def Op.satOk (o : Op) (w : Ins) : Bool :=
  match o with
  | .iadd | .isub | .imul | .imad | .iabs | .ineg | .fadd | .fmul | .ffma | .frcp | .fsqrt | .dadd | .dmul | .dfma | .drcp
  | .frsq | .fex2 | .flg2 | .fsin | .fcos | .ftanh | .hadd2 | .hmul2 | .hfma2 | .cvt | .cvtn | .cvtw | .lqd | .mst => true
  | .redux | .scan => 8 ≤ w.m 57 54 || w.m 57 54 == 0
  | _ => false

def isF32or64 (t : Option DType) : Bool := t == some .f32 || t == some .f64

/-- FTZ accepted (06 R161). -/
def Op.ftzOk (o : Op) (w : Ins) : Bool :=
  match o with
  | .fadd | .fmul | .ffma | .frcp | .fsqrt | .dadd | .dmul | .dfma | .drcp | .frsq | .fex2 | .flg2 | .fsin | .fcos | .ftanh
  | .hadd2 | .hmul2 | .hfma2 | .lqd => true
  | .cvt | .cvtn | .cvtw => isF32or64 w.ty || isF32or64 w.ty2
  | .redux | .scan => 8 ≤ w.m 57 54
  | _ => false

/-- The register count a load or store names (08 R237): elements times registers each; none where TYPE or VEC is not
accepted. -/
def memRegs (w : Ins) : Option Nat :=
  let cnt := 2 ^ w.m 55 54
  if cnt = 8 then none else
  match w.ty with
  | some .n64 | some .i64 => if cnt = 4 then none else some (2 * cnt)
  | some .n8 | some .n16 | some .n32 | some .i8 | some .i16 | some .i32 | some .e8l16 | some .e8l24 | some .e8l32 => some cnt
  | _ => none

/-- SPACE and HINT of 08 R233 are accepted. -/
def spaceOk (w : Ins) : Bool := w.m 63 61 < 5 && w.m 60 59 < 3 && (w.m 60 59 == 0 || w.m 63 61 == 0)

/-- OP and TYPE of an atomic (08 R239). -/
def atomOk (red : Bool) (w : Ins) : Bool :=
  match w.ty with
  | some t =>
    let op := w.m 58 54
    let int4 := t == .n32 || t == .i32 || t == .n64 || t == .i64
    let un := t == .n32 || t == .n64
    (op == 0 && (int4 || t == .f32 || t == .f64)) || ((op == 1 || op == 2) && (int4 || t == .f32)) ||
    ((op == 3 || op == 4 || op == 5) && un) || ((op == 6 || op == 7) && un && !red) ||
    ((op == 8 || op == 9) && t == .n32)
  | none => false

/-- OP and type of REDUX and SCAN (06 R183). -/
def reduxOk (w : Ins) : Bool :=
  let op := w.m 57 54
  match w.ty with
  | some .n32 | some .i32 | some .n64 | some .i64 => op ≤ 5
  | some .f32 => 8 ≤ op && op ≤ 10
  | _ => false

def intTyOk (sd : Side) (t : Option DType) : Bool :=
  match t with
  | some .n64 | some .i64 => true
  | some .n32 | some .i32 => sd == .team
  | _ => false

def cvtNarrow (t : Option DType) : Bool :=
  match t with
  | some t => t.width ≤ 16 && !t.isE8
  | none => false

def cvtWide (t : Option DType) : Bool :=
  t == some .f32 || t == some .f16 || t == some .bf16 || t == some .i32 || t == some .n32

def isE8ty (t : Option DType) : Bool := t == some .e8l16 || t == some .e8l24 || t == some .e8l32

/-- Modifier values that an opcode defines only in part (05 R145, order 12). -/
def Op.modOk (sd : Side) (o : Op) (w : Ins) : Bool :=
  match o with
  | .iadd | .isub | .imul | .imulh | .imad | .imin | .imax | .bfe | .lea => intTyOk sd w.ty
  | .iabs | .ineg => intTyOk sd w.ty && (w.ty == some .i32 || w.ty == some .i64)
  | .iaddc => intTyOk sd w.ty && (w.ty == some .n32 || w.ty == some .n64) && w.xm 88 85 ≤ 12 && (sd == .team || w.xm 88 85 == 0)
  | .isetp => intTyOk sd w.ty && w.m 56 54 ≤ 5
  | .fsetp | .dsetp => w.m 57 54 ≤ 7 && (!w.mb 51 || w.m 59 58 != 0)
  | .cvt => w.m 53 49 ≤ 15 && w.m 58 54 ≤ 15
  | .cvtn => cvtWide w.ty2 && cvtNarrow w.ty && w.m 63 59 < 32 / (w.ty.getD .n8).width
  -- the bound of K is CVTN's, which 06 R175 does not repeat (log 19)
  | .cvtw => cvtWide w.ty && cvtNarrow w.ty2 && w.m 63 59 < 32 / (w.ty2.getD .n8).width
  | .lqscale | .lq8 | .lqm => isE8ty w.ty
  | .lqd => (w.ty == some .f32 || w.ty == some .f16) && isE8ty w.ty2
  | .shfl => w.m 63 60 ≤ 10
  | .redux | .scan => w.m 63 60 ≤ 10 && reduxOk w
  | .tvec => w.m 52 49 ≤ 13
  | .crr | .crw => w.m 53 49 ≤ 9
  | .pmovSel => w.mb 49 && w.m 61 50 != 0
  | .mwrT => w.mb 54 && w.ty.isSome
  | .ld | .st => spaceOk w && (memRegs w).isSome
  | .ldu => spaceOk w && (memRegs w).isSome && w.m 63 61 != 4
  | .atom => spaceOk w && w.m 63 61 != 4 && atomOk false w
  | .red => spaceOk w && w.m 63 61 != 4 && atomOk true w
  | .prf => w.m 63 61 == 0 && w.m 60 59 < 3
  | .cctl => w.m 63 61 == 0 && 1 ≤ w.m 51 49 && w.m 51 49 ≤ 3
  | .kld | .kst => (w.m 63 61 == 0 || w.m 63 61 == 1 || w.m 63 61 == 3) && w.m 53 49 ≤ 7
  | .kbr => w.m 52 49 ≤ 7
  | .kcsr => w.m 56 49 ≤ 6 && (!w.mb 57 || w.m 56 49 == 4)
  | .texs => w.m 50 49 ≤ 2
  | .hgl => w.m 52 49 + (w.m 56 53 + 1) ≤ 16
  | .smac => !w.mb 53 || w.m 52 49 == 0
  | .sacc => w.m 54 49 + (w.m 60 55 + 1) ≤ 64
  | _ => true

/-! Operand positions. Each predicate says which operands a position takes. -/

namespace Opd

def isUniform : Opd → Bool
  | .s _ | .lit _ | .z | .raw _ => true
  | .sp x => !x.perThread
  | _ => false

/-- A v register below the allotment; every other operand passes (05 R137). -/
def inRegs (regs : Nat) : Opd → Bool
  | .v n => n < regs
  | _ => true

def isP : Opd → Bool
  | .p _ => true
  | _ => false

def evenP : Opd → Bool
  | .p n => n % 2 == 0
  | _ => false

def isV : Opd → Bool
  | .v _ => true
  | _ => false

def isS : Opd → Bool
  | .s _ => true
  | _ => false

def evenS : Opd → Bool
  | .s n => n % 2 == 0
  | _ => false

def isK : Opd → Bool
  | .k _ => true
  | _ => false

/-- k, lit or z (09 R258). -/
def klz : Opd → Bool
  | .k _ | .lit _ | .z => true
  | _ => false

/-- A 64-bit source of a team: an even pair, a literal or z (05 R137). -/
def pairSrc : Opd → Bool
  | .v n | .s n => n % 2 == 0
  | .lit _ | .z => true
  | _ => false

/-- A source of the given width on a side. -/
def src (sd : Side) (wide : Bool) (x : Opd) : Bool :=
  match sd with
  | .ctl => match x with
    | .k _ | .lit _ | .z | .sp _ => true
    | _ => false
  | .team => if wide then x.pairSrc else match x with
    | .k _ | .raw _ => false
    | _ => true

/-- A destination register of the given width, or z. -/
def dst (sd : Side) (wide : Bool) (x : Opd) : Bool :=
  match sd, x with
  | _, .z => true
  | .ctl, .k _ => true
  | .team, .v n => !wide || n % 2 == 0
  | .team, .s n => !wide || n % 2 == 0
  | _, _ => false

/-- A truth value: any 32-bit operand; a pair where the instruction is 64 bits wide and a register is named. -/
def truth (sd : Side) (wide : Bool) (x : Opd) : Bool :=
  match sd, x with
  | .team, .v n => !wide || n % 2 == 0
  | .team, .s n => !wide || n % 2 == 0
  | _, _ => x.src sd false

/-- A uniform operand (05 R139); on the control thread k, lit or z. -/
def uni (sd : Side) (wide : Bool) (x : Opd) : Bool :=
  match sd with
  | .ctl => x.klz
  | .team => match x with
    | .raw _ => false
    | .s n => !wide || n % 2 == 0
    | _ => x.isUniform

/-- The first of `len` v registers at a multiple of `al`, all below the allotment. -/
def vRun (regs len al : Nat) : Opd → Bool
  | .v n => n % al == 0 && n + len ≤ regs
  | _ => false

/-- The first of `len` s registers at a multiple of `al`. -/
def sRun (len al : Nat) : Opd → Bool
  | .s n => n % al == 0 && n + len ≤ 64
  | _ => false

end Opd

/-- The width of an integer instruction of 0x040: W, read as 1 on the control thread, or the type's (06 R160, R167). -/
def Ins.wideW (sd : Side) (w : Ins) : Bool := sd == .ctl || w.mb 49

def Ins.wideT (w : Ins) : Bool := w.ty == some .n64 || w.ty == some .i64

/-- The width of a CRR or CRW register (07 R214). -/
def crWide (n : Nat) : Bool := n == 3 || n == 4 || n == 6 || n == 8

/-- Operand positions of every instruction (06 R160 to R186; 07 R221; 08 R234 to R249; 09 R258; 10 R304; 11 R313, R326;
12 R343; 13 R377; 14 R390; 15 R429). Where the 128-bit form's IMM32 stands for B, the B field holds z (05 R135). -/
def Op.opdsOk (sd : Side) (regs : Nat) (o : Op) (w : Ins) : Bool :=
  let un (x : Opd) := x == .z
  let b (ok : Bool) := if w.litB then un w.b else ok
  let wW := w.wideW sd
  let wT := w.wideT
  let d := w.d
  let src := Opd.src sd
  let dst := Opd.dst sd
  match o with
  | .nop | .syncr | .exit | .yield | .waitw | .trap | .bkpt | .tvec | .tret | .role | .winf | .winw | .khalt | .ktrap =>
    un d && un w.a && un w.b && un w.c
  | .bra | .brd => un d && un w.c
  | .brx | .brxd | .ret => un d && w.a.pairSrc && un w.b && un w.c
  | .call => dst true d && un w.c
  | .callx => dst true d && w.a.pairSrc && un w.b && un w.c
  | .sleep => un d && w.a.uni sd false && un w.b && un w.c
  | .plop => d.isP && src false w.a && src false w.b && src false w.c
  | .pmovTov => d.isV && un w.a && un w.b && un w.c
  | .pmovSel => un d && src false w.a && un w.b && un w.c
  | .vote => (if w.m 50 49 == 3 then d.isV else d.isV || d.evenP) && src false w.a && un w.b && un w.c
  | .cjoin | .cleave | .cbar => un d && w.a.evenS && un w.b && un w.c
  | .barinit => un d && w.a.evenS && w.b.uni sd false && un w.c
  | .bararr => (d.isS || un d) && un w.a && w.b.uni sd false && un w.c
  | .barwait => un d && w.a.uni sd false && un w.b && un w.c
  | .bartest =>
    (if w.mb 53 then d.isS && un w.a else d.evenP && w.a.uni sd false) && un w.b && un w.c
  | .dqpop => d.evenS && un w.a && un w.b && un w.c
  | .crr => (if crWide (w.m 53 49) then d.evenS else d.isS) && un w.a && un w.b && un w.c
  | .crw => un d && w.a.uni sd (crWide (w.m 53 49)) && un w.b && un w.c
  | .mov | .not | .popc | .clz | .brev => dst wW d && src wW w.a && un w.b && un w.c
  | .movi32 => dst false d && un w.a && un w.b && un w.c
  | .movi64 => dst true d && un w.a && un w.b && un w.c
  | .sel => dst wW d && src wW w.a && b (src wW w.b) && w.c.truth sd wW
  | .and | .or | .xor | .andn => dst wW d && src wW w.a && b (src wW w.b) && un w.c
  | .shl | .shr | .sar | .rot => dst wW d && src wW w.a && b (src false w.b) && un w.c
  | .bfi => dst wW d && src wW w.a && b (src false w.b) && src wW w.c
  | .iadd | .isub | .imul | .imulh | .imin | .imax => dst wT d && src wT w.a && b (src wT w.b) && un w.c
  | .imad => dst wT d && src wT w.a && b (src wT w.b) && src wT w.c
  | .iabs | .ineg => dst wT d && src wT w.a && un w.b && un w.c
  | .bfe => dst wT d && src wT w.a && b (src false w.b) && un w.c
  | .iaddc => dst wT d && src wT w.a && b (src wT w.b) && w.c.truth sd wT
  | .lea => dst true d && src true w.a && b (src wT w.b) && un w.c
  | .isetp => d.evenP && src wT w.a && b (src wT w.b) && (if w.m 59 58 == 0 then un w.c else src false w.c)
  | .fsetp => d.evenP && src false w.a && b (src false w.b) && (if w.m 59 58 == 0 then un w.c else src false w.c)
  | .dsetp => d.evenP && src true w.a && src true w.b && (if w.m 59 58 == 0 then un w.c else src false w.c)
  | .fadd | .fmul | .fmin | .fmax | .hadd2 | .hmul2 => dst false d && src false w.a && b (src false w.b) && un w.c
  | .ffma | .hfma2 => dst false d && src false w.a && b (src false w.b) && src false w.c
  | .fclass | .frcp | .frsq | .fsqrt | .fex2 | .flg2 | .fsin | .fcos | .ftanh =>
    dst false d && src false w.a && un w.b && un w.c
  | .dadd | .dmul | .dmin | .dmax => dst true d && src true w.a && src true w.b && un w.c
  | .dfma => dst true d && src true w.a && src true w.b && src true w.c
  | .drcp => dst true d && src true w.a && un w.b && un w.c
  | .cvt => dst ((w.ty.getD .n8).width == 64) d && src ((w.ty2.getD .n8).width == 64) w.a && un w.b && un w.c
  | .cvtn | .cvtw => dst false d && src false w.a && (if w.xm 85 85 == 1 then src false w.b else un w.b) && un w.c
  | .lqscale => dst false d && w.a.vRun regs 8 1 && src false w.b && un w.c
  | .lq8 => dst false d && w.a.vRun regs 8 1 && src false w.b && (w.c.isS || (match w.c with | .lit _ | .z => true | _ => false))
  | .lqd =>
    d.vRun regs (if w.ty == some .f16 then 4 else 8) 1 && src false w.a && src false w.b &&
      (w.c.isS || (match w.c with | .lit _ | .z => true | _ => false))
  | .lqm => dst false d && src false w.a && src false w.b && src false w.c
  | .shfl => dst wW d && src wW w.a && src false w.b && un w.c
  | .bcast => dst wW d && src wW w.a && w.b.uni sd false && un w.c
  | .redux | .scan => dst wT d && src wT w.a && un w.b && un w.c
  | .rand => dst false d && un w.a && un w.b && un w.c
  | .rseed => un d && src false w.a && src false w.b && un w.c
  | .ld => let r := (memRegs w).getD 1
    d.vRun regs r r && src (w.m 63 61 == 0) w.a && src false w.b && un w.c
  | .st => let r := (memRegs w).getD 1
    (d.vRun regs r r || d.sRun r r || (match d with | .lit _ | .z => true | _ => false)) &&
      src (w.m 63 61 == 0) w.a && src false w.b && un w.c
  | .ldu => let r := (memRegs w).getD 1
    d.sRun r r && w.a.isUniform && src (w.m 63 61 == 0) w.a && w.b.uni sd false && un w.c
  | .atom => let wd := (w.ty.getD .n8).width == 64
    (un d || d.vRun regs (if wd then 2 else 1) (if wd then 2 else 1)) && src (w.m 63 61 == 0) w.a && src wd w.b &&
      (if w.m 58 54 == 7 then src wd w.c else un w.c)
  | .red => let wd := (w.ty.getD .n8).width == 64
    un d && src (w.m 63 61 == 0) w.a && src wd w.b && un w.c
  | .prf => un d && src true w.a && src false w.b && un w.c
  | .cctl => (un d || (w.m 51 49 == 1 && d.evenP)) && src true w.a && src false w.b && un w.c
  | .msend => un d && w.a.sRun 8 8 && w.b.evenS && un w.c
  | .mrecv => d.sRun 8 8 && un w.a && un w.b && un w.c
  | .mpoll => d.isS && un w.a && un w.b && un w.c
  | .kld => d.isK && w.a.isK && w.b.klz && un w.c
  | .kst => d.klz && w.a.isK && w.b.klz && un w.c
  | .kbr => w.a.klz && w.b.klz && un w.c
  | .kjmp => un d && un w.c
  | .kjx | .kret => un d && w.a.isK && un w.b && un w.c
  | .kcall => (d.isK || un d) && un w.c
  | .eqpop => (match d with | .k n => n % 2 == 0 | _ => false) && un w.a && un w.b && un w.c
  | .eqwait | .dqpush | .ksleep => un d && w.a.klz && un w.b && un w.c
  | .launch => un d && w.a.isK && w.b.klz && (w.c.isK || un w.c)
  | .kcsr => (d.isK || un d) && (if w.mb 57 then w.a.klz else un w.a) && un w.b && un w.c
  | .tclaim | .trels | .aclaim | .arels | .mzero => un d && w.a.uni sd false && un w.b && un w.c
  | .mfetch => un d && w.a.uni sd false && w.b.uni sd false && un w.c && (sd == .team || w.a.isK || un w.a)
  | .mlist => un d && (if sd == .ctl then w.a.isK else w.a.pairSrc && w.a.isUniform) && un w.b && un w.c
  | .mnext => d.evenS && un w.a && un w.b && un w.c
  | .mma => un d && w.a.uni sd false && w.b.uni sd false && w.c.uni sd false
  | .mrd => d.isV && w.a.uni sd false && un w.b && un w.c
  | .mwr => un d && w.a.isV && w.b.uni sd false && un w.c
  | .mwrT => un d && w.a.isV && w.b.uni sd false && w.c.uni sd false
  | .mst => un d && w.a.uni sd false && w.b.uni sd false && w.c.uni sd false
  | .mscl => un d && w.a.isV && w.b.uni sd false && w.c.uni sd false
  | .mstat => d.isS && un w.a && un w.b && un w.c
  | .cpkick => un d && (if sd == .ctl then w.a.isK && w.b.klz else w.a.uni sd false && w.b.uni sd false) && un w.c
  | .cpstat => d.isS && un w.a && un w.b && un w.c
  | .texs => d.vRun regs (2 ^ w.m 50 49) 1 && w.a.evenS && w.b.vRun regs 3 1 && (w.c.evenP || un w.c)
  | .hgl => d.vRun regs (4 * (w.m 56 53 + 1)) 1 && w.a.evenS && w.b.vRun regs 3 1 && un w.c
  | .resq => d.vRun regs 2 1 && w.a.evenS && w.b.vRun regs 3 1 && (w.c.evenP || un w.c)
  | .rays => un d && w.a.uni sd false && w.b.vRun regs 8 1 && (w.c.isV || un w.c)
  | .hitr => d.vRun regs 8 1 && un w.a && un w.b && un w.c
  | .candv => un d && w.a.isV && (w.b.isV || (match w.b with | .lit _ | .z => true | _ => false)) && un w.c
  | .tclose | .trstat | .sred | .sbank | .sbexit | .rresolve => un d && w.a.isK && un w.b && un w.c
  | .tlpub => un d && w.a.isK && w.b.isK && w.c.isK
  | .svb => un d && w.a.isK && (match w.b with | .k n => n % 4 == 0 | _ => false) && w.c.klz
  | .smac => un d && w.a.isK && w.b.klz && un w.c
  | .sacc => un d && w.a.isK && w.b.isK && un w.c
  | .draw | .rclear => un d && w.a.isK && w.b.klz && un w.c
  | .rstate => un d && (w.a.isK || un w.a) && un w.b && un w.c
  | .pxout => un d && w.a.isV && (w.b.isV || un w.b) && un w.c
  | .rsync => un d && (w.a.isK || un w.a) && (w.b.isK || un w.b) && un w.c

/-- The instruction writes a register: the carry predicate of IADDC counts. ST's, KST's and KBR's D fields are no
destinations. -/
def Op.hasDest (o : Op) (w : Ins) : Bool :=
  match o with
  | .st | .kst | .kbr => false
  | .iaddc => w.d != .z || w.xm 88 85 != 0
  | _ => w.d != .z

/-- The uniform rule (05 R139) and the write-mask rule (R141), order 10 of R145. The tables of 10 R304, 13 R377, 14 R390 and
09 R258 fix WMASK 15 and POL 0 for their 96-bit forms. -/
def Op.maskOk (sd : Side) (o : Op) (w : Ins) : Bool :=
  (if sd == .team && w.d.isS && o != .st then
    w.a.isUniform && w.b.isUniform && w.c.isUniform && w.wmask.isNone && !w.zero else true) &&
  (w.wmask.isNone || o.hasDest w) &&
  (match o with
   | .mma | .mwrT | .mst | .mscl | .rays | .launch | .tlpub | .svb => w.wmask.isNone && !w.zero
   | _ => true)

/-- The modifier checks, order 12 of R145. -/
def Op.modsOk (sd : Side) (o : Op) (w : Ins) : Bool :=
  w.mod.toNat &&& o.modMask == w.mod.toNat && w.xmod.toNat &&& o.xmodMask == w.xmod.toNat &&
  o.modOk sd w && w.rnd ≤ o.rndMax w && (!w.sat || o.satOk w) && (!w.ftz || o.ftzOk w)

/-- The names under which a word is rejected (05 R145). -/
inductive Reject where
  /-- Order 3: the length crosses the block boundary; ILLEN. -/
  | crossesBlock
  /-- Order 4: a control word that is no FILL, or a header off a clause start; ILLOP. -/
  | controlWord
  /-- Orders 4 and 5: no clause header, or one with a bad field; ILLOP. -/
  | noHeader
  /-- Order 6: OPC unassigned, or not accepted on this side; ILLOP. -/
  | opcode
  /-- Order 7: a length the opcode does not accept; ILLOP. -/
  | length
  /-- Order 8: GUARD, WMASK, POL or RND at a reserved value; ILLOP. -/
  | reservedField
  /-- Order 9: an operand code reserved, not allowed, outside the allotment, or an odd pair; ILLOP. -/
  | operand
  /-- Order 10: the uniform rule, or a write mask without a register destination; ILLOP. -/
  | uniform
  /-- Order 11: the FSEL rule; ILLOP. -/
  | fsel
  /-- Order 12: a modifier value the opcode does not define; ILLOP. -/
  | modifier
  /-- Fewer bytes than a word needs (the model's own: no clause ends so). -/
  | tooShort
  deriving DecidableEq, Repr

/-- The checks 6 to 12 of R145 on an instruction's fields, for an allotment of `regs` registers: the first that fails. -/
def Op.check (sd : Side) (regs : Nat) (o : Op) (w : Ins) : Option Reject :=
  if !o.onSide sd then some .opcode
  else if !o.lenOk w.len then some .length
  else if sd == .ctl && (w.guard.isSome || w.wmask.isSome) then some .reservedField
  else if !(w.d.inRegs regs && w.a.inRegs regs && w.b.inRegs regs && w.c.inRegs regs && o.opdsOk sd regs w) then some .operand
  else if !o.maskOk sd w then some .uniform
  else if w.fsel && !o.long w then some .fsel
  else if !o.modsOk sd w then some .modifier
  else none

end Sys2Proof
end

