-- ==== Sys2Proof/Decode.lean ====
section
/-! DEFINITION. The decoder (05 R122 to R145), total on any bytes and rejecting by name, and the encoder written from the
same tables. A word's trap class is `Reject.isLen`: ILLEN for a word that crosses its block, ILLOP for every other. -/

namespace Sys2Proof

/-- A clause header (05 R125); a set-flag of none is 15. -/
structure Header where
  yield : Bool
  blocks : Nat
  setA : Option Nat
  setB : Option Nat
  wait : Nat
  deriving DecidableEq, Repr

/-- What the decoder finds at an offset of a clause (05 R123, R124). -/
inductive Item where
  /-- A FILL word. -/
  | fill
  /-- An instruction and its size in bytes. -/
  | ins (i : Instr) (size : Nat)
  deriving DecidableEq, Repr

/-- ILLEN rather than ILLOP (05 R145). -/
def Reject.isLen : Reject → Bool
  | .crossesBlock => true
  | _ => false

/-- A field in which 0 to 11 are values and 15 is none (05 R125, R133, R134). -/
def optField (x : Nat) : Option (Option Nat) :=
  if x < 12 then some (some x) else if x == 15 then some none else none

/-- A word as a clause header. -/
def decodeHeader (sd : Side) (word : Nat) : Except Reject Header :=
  if bits word 3 0 != 4 || word / 2 ^ 27 != 0 then .error .noHeader else
  match optField (bits word 19 16), optField (bits word 23 20) with
  | some a, some b =>
    if sd == .ctl && (bits word 15 4 != 0 || a.isSome || b.isSome) then .error .noHeader
    else .ok { yield := bitAt word 26, blocks := bits word 25 24 + 1, setA := a, setB := b, wait := bits word 15 4 }
  | _, _ => .error .noHeader

def Op.ofCode (c : Nat) : Option Op := Op.all.find? fun o => o.code == c

/-- Rows of the table that share an OPC: told apart by length or by a MOD bit (06 R166, 07 R228, 10 R304). -/
def Op.refine (o : Op) (len : Len) (mod : BitVec 15) : Op :=
  match o with
  | .movi32 => if len == .l128 then .movi64 else .movi32
  | .pmovTov => if bitAt mod.toNat 0 then .pmovSel else .pmovTov
  | .mwr => if bitAt mod.toNat 5 then .mwrT else .mwr
  | o => o

/-- A field read as an operand, or kept as bits. -/
def decodeOpd (sd : Side) (raw : Bool) (c : Nat) : Option Opd := if raw then some (.raw c) else Opd.ofCode sd c

/-- The X32 of the 64-bit form (05 R134). -/
def x32Default : Nat := 0x3FFF

/-- Base word and extension as an instruction; `ext` is the whole extension. -/
def decodeOp (sd : Side) (regs : Nat) (len : Len) (base ext : Nat) : Except Reject (Op × Ins) :=
  match Op.ofCode (bits base 11 2) with
  | none => .error .opcode
  | some o₀ =>
    let mod := BitVec.ofNat 15 (base / 2 ^ 49)
    let o := o₀.refine len mod
    if !o.onSide sd then .error .opcode
    else if !o.lenOk len then .error .length
    else
      let lit := o.immExt || len == .l64
      let x := if lit then x32Default else ext % 2 ^ 32
      match optField (bits base 15 12), optField (bits x 13 10) with
      | some g, some m =>
        if bits x 15 14 ≥ 2 || bits x 18 16 ≥ 6 then .error .reservedField else
        match decodeOpd sd (o.rawD) (bits base 25 16), decodeOpd sd (o.rawAB) (bits base 35 26),
            decodeOpd sd (o.rawAB) (bits base 45 36), decodeOpd sd false (bits x 9 0) with
        | some d, some a, some b, some c =>
          let w : Ins :=
            { len := len, guard := g, retain := bits base 47 46, fsel := bitAt base 48
              d := d, a := a, b := b, c := c
              mod := mod, xmod := BitVec.ofNat 11 (x / 2 ^ 21)
              wmask := m, zero := bits x 15 14 == 1, rnd := bits x 18 16, sat := bitAt x 19, ftz := bitAt x 20
              imm := BitVec.ofNat 64 (if len == .l64 then 0 else if o.immExt then ext else ext / 2 ^ 32) }
          match o.check sd regs w with
          | some r => .error r
          | none => .ok (o, w)
        | _, _, _, _ => .error .operand
      | _, _ => .error .reservedField

/-- Size in bytes (05 R122). -/
def Len.size : Len → Nat
  | .l64 => 8
  | .l96 => 12
  | .l128 => 16

/-- The word at the head of `bytes`, with `room` bytes left in its fetch block (05 R123). -/
def decode (sd : Side) (regs room : Nat) (bytes : List Byte) : Except Reject Item :=
  if bytes.length < 8 then .error .tooShort else
  let base := leNat (bytes.take 8)
  let go (len : Len) : Except Reject Item :=
    if room < len.size then .error .crossesBlock
    else if bytes.length < len.size then .error .tooShort
    else match decodeOp sd regs len base (leNat ((bytes.drop 8).take (len.size - 8))) with
      | .error r => .error r
      | .ok (o, w) => .ok (.ins (Instr.ofOp o w) len.size)
  match base % 4 with
  | 0 => if base == 0 then .ok .fill else .error .controlWord
  | 1 => go .l64
  | 2 => go .l96
  | _ => go .l128

/-! The encoder. -/

def encOpt : Option Nat → Nat
  | some n => n
  | none => 15

def Len.code : Len → Nat
  | .l64 => 1
  | .l96 => 2
  | .l128 => 3

/-- The base word (05 R133). -/
def encodeBase (o : Op) (w : Ins) : Nat :=
  w.len.code + 2 ^ 2 * o.code + 2 ^ 12 * encOpt w.guard + 2 ^ 16 * w.d.code + 2 ^ 26 * w.a.code + 2 ^ 36 * w.b.code +
    2 ^ 46 * w.retain + 2 ^ 48 * boolNat w.fsel + 2 ^ 49 * w.mod.toNat

/-- The extension word X32 (05 R134). -/
def encodeX32 (w : Ins) : Nat :=
  w.c.code + 2 ^ 10 * encOpt w.wmask + 2 ^ 14 * boolNat w.zero + 2 ^ 16 * w.rnd + 2 ^ 19 * boolNat w.sat +
    2 ^ 20 * boolNat w.ftz + 2 ^ 21 * w.xmod.toNat

/-- The words of an instruction as the bytes in memory; none for a step of the device. -/
def encode (i : Instr) : List Byte :=
  match i.toOp with
  | none => []
  | some (o, w) =>
    leBytes 8 (encodeBase o w) ++
    (match w.len with
     | .l64 => []
     | .l96 => leBytes 4 (if o.immExt then w.imm.toNat else encodeX32 w)
     | .l128 => if o.immExt then leBytes 8 w.imm.toNat else leBytes 4 (encodeX32 w) ++ leBytes 4 w.imm.toNat)

/-- A clause header's word (05 R125). -/
def encodeHeader (h : Header) : Nat :=
  4 + 2 ^ 4 * h.wait + 2 ^ 16 * encOpt h.setA + 2 ^ 20 * encOpt h.setB + 2 ^ 24 * (h.blocks - 1) + 2 ^ 26 * boolNat h.yield

/-- The instruction whose words have the bits of `w`: the team's reading where there is one, else the control
thread's. -/
def decodeTableWord (nbits w : Nat) : Option Instr :=
  let bytes := leBytes 16 (w % 2 ^ nbits)
  match decode .team 512 32 bytes with
  | .ok (.ins i _) => some i
  | _ => match decode .ctl 512 32 bytes with
    | .ok (.ins i _) => some i
    | _ => none

end Sys2Proof
end

