-- ==== Sys2Proof/Machine/State.lean ====
section
/-! DEFINITION. The state of the machine, as plain data, and the machine right after reset. INVENTORY.md lists each piece with
the rule that names it. -/

namespace Sys2Proof.Machine

open Sys2Proof

/-! Memory. -/

/-- Every byte of storage, as (key, byte) pairs with keys strictly rising and no zero byte listed: an unlisted byte reads 0
(16 R448, 02 R36). Keys: a DRAM byte is its physical address, below 2^40 (01 R14); the other spaces have regions of 2^44
keys of their own (Ops). -/
abbrev Memory := List Host.Cell

/-! Why a step stops. -/

/-- A fault of the machine as a whole. Raised by every step after the module has lost power; safe: the hardware does
nothing either. -/
inductive Fault where
  /-- Raised by `step` once OVERTEMP_SHUTDOWN removed power (16 R446). Safe. -/
  | poweredOff
  deriving DecidableEq, Repr

/-- Why a step has no meaning. -/
inductive Refusal where
  /-- An instruction without a meaning yet; raised by its arm in `exec`. Safe. -/
  | notModelled (mnemonic : String)
  /-- An instruction that no agent of its side is about to issue: raised where `cur` names none, or one that cannot issue.
  Safe: such an issue does not happen. -/
  | noAgent
  deriving DecidableEq, Repr

/-! Teams. -/

/-- A clause that has been fetched: its address, header, bytes as fetched (05 R126), and the offset of the next word. -/
structure ClausePos where
  base : Nat
  hdr : Header
  bytes : List Byte
  off : Nat
  deriving DecidableEq, Repr

/-- Why a split is blocked (07 R197 and the chapters it names). -/
inductive Wait where
  /-- Not blocked. -/
  | none
  /-- WAITW, or the WAIT mask of the clause it would start (05 R127). -/
  | flags (mask : Nat)
  /-- BARWAIT on a phase (07 R230). -/
  | barrier (b phase : Nat)
  /-- CBAR: the record's address and the phase it waits to leave; `arrived` is false while a membership marked NEXT waits to
  arrive (07 R209). -/
  | cohort (addr phase : Nat) (arrived : Bool)
  /-- CBAR before the team has arrived (07 R202). -/
  | cohortTeam (addr : Nat)
  /-- DQPOP; the core keeps the order of the waiting ones (07 R213). -/
  | dqpop
  /-- SLEEP until a cycle of its core (07 R226). -/
  | sleep (til : Nat)
  /-- A fault record at Renweaz: the instruction issues again when it is resolved (02 R49). -/
  | fault (rec : Nat)
  /-- A faulting access while the fault queue is full: its kind, access and address, and TADDR if it becomes PAGE (02 R49). -/
  | faultFull (kind access va addr : Nat)
  /-- WINF or WINW (08 R245). -/
  | winf
  | winw
  /-- CCTL until the home slices have answered (08 R240). -/
  | cctl
  /-- RAYS until the outstanding counts allow it (13 R378). -/
  | rays
  /-- A claim of the matrix engine: accumulators or slots, and their mask (10 R280). -/
  | claim (acc : Bool) (mask : Nat)
  /-- MNEXT until the entry is read (10 R300). -/
  | mnext
  /-- An instruction that waits at issue for room: MSEND, an engine queue. -/
  | room
  /-- Engine operations that are to register or to be held (02 R57, 11 R316). -/
  | locks (ops : List Nat)
  deriving DecidableEq, Repr

/-- An entry of the split table in use (07 R189). `pc` is the clause to start; `clause` is the one it is inside. -/
structure Split where
  pc : Nat
  mask : TMask
  join : Option Nat
  quantum : Nat
  /-- QNT as the quantum began. -/
  limit : Nat
  yield : Bool
  clause : Option ClausePos
  wait : Wait
  deriving DecidableEq, Repr

/-- A join record (07 R189). -/
structure Join where
  rb : Nat
  pend : Nat
  mask : TMask
  outer : Option Nat
  deriving DecidableEq, Repr

/-- A record of the spill stack (07 R189). -/
structure Group where
  pc : Nat
  mask : TMask
  join : Option Nat
  deriving DecidableEq, Repr

/-- A membership of the cohort list (07 R189, R208). -/
structure Membership where
  addr : Nat
  next : Bool
  phase : Nat
  deriving DecidableEq, Repr

/-- A write of a register that a long-latency result will make. -/
inductive RegWrite where
  | v (t r : Nat) (x : W32)
  | s (r : Nat) (x : W32)
  | p (t n : Nat) (x : Bool)
  | k (r : Nat) (x : W64)
  /-- Eight bytes that an SRED or a LAUNCH has read at a remote address. -/
  | word (va : Nat) (x : W64)
  deriving DecidableEq, Repr

/-- Where an access goes once it is checked: the keys of its bytes in `mem`, or a remote address (16 R442). -/
inductive Place where
  | here (keys : List Nat)
  | remote (peer : Nat) (rcx : CtxId) (va n : Nat)
  deriving DecidableEq, Repr

/-- Where a result goes: a thread's v register, an s register, a k register, the words that an SRED or a LAUNCH reads. -/
inductive RegDst where
  | v (t r : Nat)
  | s (r : Nat)
  | k (r : Nat)
  | word (va : Nat)
  deriving DecidableEq, Repr

/-- One thread's access: its thread, its place, the data it writes (or an atomic's operand), the compare value, and the
first register of its result; `live` is false where the register takes 0 instead (POL zero), and `thru` is true where a
write goes through to DRAM (02 R51). Of a load that crosses a crumb boundary, the bytes of the lower crumb once they are read
(08 R238); of a store, the bits of its bytes that stay as they are (10 R295). -/
structure MemItem where
  tid : Nat
  place : Place
  data : Nat
  cmp : Nat
  dst : Option RegDst
  live : Bool
  thru : Bool := false
  got : List Byte := []
  keep : Nat := 0
  deriving DecidableEq, Repr

/-- What an access does (08 R238, R239). A load moves `count` elements of `size` bytes
into registers of `bits` bits each, sign-extended where `signed`. -/
inductive MemAct where
  | load (signed : Bool) (size count bits : Nat)
  | store
  | atomic (op : Nat) (t : DType) (ret : Bool)
  deriving DecidableEq, Repr

/-- Work that an agent has issued and that has not finished (05 R131, 02 R52). -/
inductive Work where
  /-- Accesses not yet performed, in thread order, and the register writes of those performed; `hint` is HINT. -/
  | mem (act : MemAct) (hint : Nat) (items : List MemItem) (ws : List RegWrite)
  /-- A remote load: items whose reply has not come, and the results so far (08 R244). -/
  | remote (signed : Bool) (size count bits : Nat) (items : List MemItem) (ws : List RegWrite)
  /-- Results that wait to be written, with the flags that enter TSR. -/
  | results (ws : List RegWrite) (fl : Nat)
  /-- CCTL: OP, split, threads with their crumbs, destination, write mask and policy (08 R240). -/
  | cctl (op entry : Nat) (items : List (Nat × Nat)) (d : Option Nat) (wm : TMask) (zero : Bool)
  /-- MRECV (08 R249). -/
  | mrecv (port d : Nat)
  /-- HITR: threads in order, destination, the threads whose write is enabled, policy zero, .w (13 R379). -/
  | hitr (ts : List Nat) (d : Nat) (wm : TMask) (zero : Bool) (wait : Bool)
  /-- A request at a filter engine, under its own name (12 R348). -/
  | filter
  /-- MSTAT until the team's earlier matrix operations have completed: selector and destination (10 R302). -/
  | mstat (sel d : Nat)
  deriving DecidableEq, Repr

/-- An issued, unfinished operation: its name, completion flag, work, and the registers it will write (operand codes). -/
structure Pend where
  id : Nat
  flag : Option Nat
  work : Work
  dst : List Nat
  deriving DecidableEq, Repr

/-! Engines: what a team, a control thread or a core holds of them. -/

/-- Who accesses, and what reach it has: its context, and the gang member whose allotments it names. -/
structure Reach where
  cx : CtxId
  gang : Nat
  member : Nat
  size : Nat
  /-- Bytes of the .s allotment. -/
  scratch : Nat
  /-- Bytes of a thread's private slice, and where the first slice of the team starts behind the .s allotment. -/
  priv : Nat
  privBase : Nat
  /-- A control thread, whose .s is its core's scratchpad (09 R259). -/
  ctl : Option Nat
  deriving DecidableEq, Repr

/-- A tensor layout record of the matrix engine, checked (10 R282, R283). -/
structure TileRec where
  base : Nat
  sbase : Nat
  nr : Nat
  nc : Nat
  ld : Nat
  ty : DType
  colMajor : Bool
  scaled : Bool
  roleB : Bool
  swz : Bool
  space : Space
  tr : Nat
  tc : Nat
  fillv : Nat
  swzm : Nat
  swzs : Nat
  len : Nat
  deriving DecidableEq, Repr

/-- STATE of a slot (10 R277). -/
inductive SlotState where
  | empty
  /-- The fetch that fills it. -/
  | filling (op : Nat)
  | full
  | faulted (va : Nat)
  deriving DecidableEq, Repr

/-- A slot: holder, state, tile description and contents. `tail` is the K-line, the point and the live count of the point that
holds the tensor's last element. -/
structure MSlot where
  holder : Option Nat
  st : SlotState
  ty : DType
  roleB : Bool
  scaled : Bool
  lines : Nat
  k : Nat
  tail : Option (Nat × Nat × Nat)
  image : List Byte
  fifo : List Byte
  deriving DecidableEq, Repr

/-- An accumulator: 256 words. -/
structure MAcc where
  holder : Option Nat
  words : List W32
  deriving DecidableEq, Repr

/-- A claim that waits: team slot and split entry; the split's wait says what it claims. -/
structure Claim where
  slot : Nat
  entry : Nat
  deriving DecidableEq, Repr

/-- A core's matrix engine (10 R277): what is not listed is free. -/
structure Matrix where
  slots : Tbl MSlot
  accs : Tbl MAcc
  claims : List Claim
  deriving DecidableEq, Repr

/-- A team's slots and accumulators, saved with its gang. -/
structure SavedMx where
  index : Nat
  slots : Tbl MSlot
  accs : Tbl MAcc
  deriving DecidableEq, Repr

/-- An entry the walker has read and not delivered: KIND 0 block, 1 row end, 2 list end, 3 the trap of its class and reason;
slots and pair of a block. -/
structure WEntry where
  kind : Nat
  cls : Nat
  reason : Nat
  slotA : Nat
  slotB : Nat
  pair : Nat
  deriving DecidableEq, Repr

/-- A block entry whose completion signal has not fired: its name, its walk, barrier, fetches not complete, bytes. -/
structure WSignal where
  name : Nat
  walk : Nat
  gang : Nat
  bar : Nat
  left : Nat
  bytes : Nat
  deriving DecidableEq, Repr

/-- A walk of the matrix engine (10 R277, R297 to R301). `state` is 1 active, 2 ended, 3 faulted. -/
structure Walk where
  id : Nat
  state : Nat
  list : Nat
  ah : Nat
  bh : Nat
  ntile : Nat
  ring : List Nat
  maxent : Nat
  bar : Nat
  /-- Base of the layout records, and whether the control thread issued MLIST. -/
  base : Nat
  byCtl : Bool
  /-- Entries read; a list end, a bad entry or an unmended fault has been met. -/
  read : Nat
  stopped : Bool
  next : Nat
  rows : Nat
  ready : List WEntry
  rot : Nat
  busy : List Nat
  last : Option Nat
  /-- Blocks from the restart point on whose signal has fired already: they post no bytes again after a restore. -/
  fired : Nat
  fault : Option Nat
  /-- Fetches that a save has abandoned, by the index of their entry. -/
  kept : List (Nat × Nat) := []
  deriving DecidableEq, Repr

/-- What the raster engine gave a pixel team (15 R421): its DRAW, triangle and tile, whether it has sent its packet, and v4 of
each covered thread as it was at creation. -/
structure PixelTeam where
  cmd : Nat
  tri : Nat
  tx : Nat
  ty : Nat
  sent : Bool
  depth : Tbl W32
  deriving DecidableEq, Repr

/-- A control thread's raster state (15 R417): the two addresses, the VALUEs of DEPTH, BLEND and CULL, and the scissor. -/
structure RasterState where
  surf : Nat
  pixk : Nat
  depth : Nat
  blend : Nat
  cull : Nat
  scissor : Nat
  scissorOn : Bool
  deriving DecidableEq, Repr

def RasterState.init : RasterState :=
  { surf := 0, pixk := 0, depth := 0, blend := 0, cull := 0, scissor := 0, scissorOn := false }

def Matrix.init : Matrix := { slots := [], accs := [], claims := [] }

/-- Why a team is held at an instruction boundary (07 R217, R220). -/
structure Stops where
  /-- Context fault handling. -/
  fault : Bool
  /-- The debugger, or BKPT without a handler. -/
  debug : Bool
  /-- One instruction may issue: single step. -/
  step : Bool
  /-- The debugger has written TPC during this stop: the team goes on there (07 R217, R219). -/
  toTpc : Bool := false
  deriving DecidableEq, Repr

/-- A resident or saved team (07 R189, R190). Tables list only what differs from the value at creation: registers and
predicates 0, random states the seed of 06 R185. -/
structure Team where
  gang : Nat
  member : Nat
  index : Nat
  /-- Linear index of its gang (%gang). -/
  lin : Nat
  threads : Nat
  /-- The launched mask (10 R279, 15 R421). -/
  launched : TMask
  alive : TMask
  /-- v registers, keyed 512 · thread + register. -/
  v : Tbl W32
  s : Tbl W32
  p : Tbl TMask
  rng : Tbl W64
  splits : Tbl Split
  joins : Tbl Join
  spill : List Group
  running : Option Nat
  last : Nat
  arrive : Tbl TMask
  cohMask : TMask
  cohAddr : Nat
  cohorts : List Membership
  /-- The CBAR or EXIT that completed the arrival mask: its split, place and executing threads; none of an EXIT (07 R209). -/
  cohSite : Option (Nat × ClausePos × TMask) := none
  role : Nat
  regs : Nat
  cls : Nat
  /-- ROLE's number, and the place of its wait among those of the core (07 R212). -/
  pendingRole : Option (Nat × Nat)
  /-- The pending role of the clause that a trap has interrupted. -/
  savedRole : Option (Nat × Nat) := none
  /-- That clause has a YIELD behind it. -/
  savedYield : Bool := false
  tvmask : W32
  tpc : W64
  tcause : W32
  taddr : W64
  tpcWritten : Bool
  saved : Option ClausePos
  handler : Option Nat
  qnt : W32
  fpc : W32
  tsr : W32
  tvb : W64
  lrb : W64
  /-- Completion flags w0 to w11. -/
  w : Tbl Nat
  pend : List Pend
  rpend : Nat
  rwin : Option W32
  /-- A WINF that has issued holds remote accesses while RPEND is not 0 (02 R66). -/
  winf : Bool := false
  /-- Hit queue, oldest first, eight words each (13 R371). -/
  hits : List (List W32)
  rays : Nat
  /-- CANDV verdicts on their way, handle and verdict, oldest first (13 R380). -/
  verdicts : List (W32 × Nat)
  /-- The model's own: the handles that the team's candidates have had, so that none names two candidates (13 R365). -/
  handed : List W32
  epoch : Nat
  /-- Flags of matrix operations that no MRD or MSTAT has shown yet (10 R292). -/
  mflags : Nat
  mreason : Nat
  mclass : Nat
  walk : Option Walk
  /-- Copy engine: the team's next sequence number, DONE, FAULTS, LASTSEQ (11 R326). -/
  copySeq : Nat
  copyDone : Nat
  copyFaults : Nat
  copyLast : Nat
  pixel : Option PixelTeam
  /-- The EXIT at which the team's last thread left, once it has (07 R225). -/
  leaving : Option Nat
  stops : Stops
  /-- Group time in ns, and core cycle, of the team's last issue (03 R93, 07 R200). -/
  lastIssue : Nat
  lastClk : Nat
  /-- Counts as class 3 for its next grant (07 R200). -/
  promoted : Bool
  deriving DecidableEq, Repr

/-! Cores and control threads. -/

/-- A control thread's state field (09 R257), with what it waits for. -/
inductive CtlMode where
  | free
  | running
  /-- Waiting in EQWAIT or KSLEEP until a cycle of its core; none is without limit (09 R266, R272). -/
  | eqwait (til : Option Nat)
  | ksleep (til : Nat)
  /-- Waiting for data of a KLD (09 R255). -/
  | load
  /-- Waiting for room; the instruction issues again. -/
  | wait
  /-- Waiting for engine operations to register or to be held (02 R57, 11 R316). -/
  | locks (ops : List Nat)
  | fault (rec : Nat)
  | faultFull (kind access va addr : Nat)
  | winf
  | winw
  /-- Stopped by a trap; true where it continues after the instruction (09 R272, R273). -/
  | stopped (after : Bool)
  /-- Held by a debugger. -/
  | held
  deriving DecidableEq, Repr

/-- A core's control thread (09 R253 to R257). -/
structure Ctl where
  owner : Option CtxId
  mode : CtlMode
  k : Tbl W64
  clrb : W64
  pc : Nat
  fa : Nat
  cause : Nat
  code : Nat
  clause : Option ClausePos
  pend : List Pend
  rpend : Nat
  rwin : Option W32
  winf : Bool := false
  raster : RasterState
  copySeq : Nat
  /-- Words of its parameter block, pointers or launch record that the instruction at hand has read from a peer, by address
  (09 R269, 14 R393). -/
  got : Tbl W64 := []
  step : Bool
  /-- How many programs have started here: it tells a late acknowledgement for an earlier one (08 R243). -/
  run : Nat := 0
  deriving DecidableEq, Repr

/-- An event record (09 R263), and the logical timestamp it carries (09 R275). -/
structure EventRec where
  tag : W64
  src : Nat
  status : Nat
  unit : Nat
  detail : W32
  ts : Nat := 0
  deriving DecidableEq, Repr

/-- A line of an L1 (02 R39, R53): the crumb, as a key of `mem` divided by 64, its 64 bytes, the timestamp of the store it shows,
the logical time its lease lasts to, and the cycle at which it was filled. -/
structure L1Line where
  crumb : Nat
  data : List Byte
  wts : Nat
  lease : Nat
  filled : Nat
  deriving DecidableEq, Repr

/-- A cached translation (02 R48): context, page of 64 KiB, the leaf entry found and its level. -/
structure TlbEntry where
  cx : CtxId
  page : Nat
  pte : Nat
  level : Nat
  deriving DecidableEq, Repr

/-- A core beside its teams (01 R12). -/
structure Core where
  ctl : Ctl
  /-- Decision queue, oldest first, with the context of each entry (09 R267). -/
  dq : List (CtxId × W64)
  /-- DQPOPs waiting, in issue order: team slot and entry (07 R213). -/
  dqWait : List (Nat × Nat)
  /-- Event queue, oldest first (09 R263). -/
  eq : List EventRec
  posted : Nat
  drops : Nat
  /-- Records that engines hold while the event queue is full, oldest first, with the context each is addressed to
  (01 R29). -/
  held : List (CtxId × EventRec)
  /-- Allotments of resident gangs: gang, base and length in 4 KiB units (02 R36). -/
  allot : List (Nat × Nat × Nat)
  spstep : Nat
  /-- Cycle counter (05 R138). -/
  clk : Nat
  /-- Logical clock (02 R53), and the lines of the L1, the one used last first (02 R39). -/
  lclk : Nat
  l1 : List L1Line
  /-- The core's 256-entry TLB (02 R48). -/
  tlb : List TlbEntry
  mx : Matrix
  epochs : Nat
  deriving DecidableEq, Repr

/-! Gangs and launches. -/

/-- A named barrier (07 R203). -/
structure Barrier where
  members : W64
  arrived : W64
  byteInit : Nat
  bytes : Int
  phase : W32
  deriving DecidableEq, Repr

/-- A flit and its destination: linear gang index and member (08 R247). -/
structure Flit where
  words : List W32
  gang : Nat
  member : Nat
  /-- Its logical timestamp (08 R250). -/
  ts : Nat := 0
  deriving DecidableEq, Repr

/-- A gang, placed or saved (01 R24, 03 R91). -/
structure Gang where
  launch : Nat
  lin : Nat
  size : Nat
  cores : List Nat
  bases : List Nat
  resident : Bool
  bars : Tbl Barrier
  /-- Message queues, keyed 4 · member + port (08 R246). -/
  tx : Tbl (List Flit)
  rx : Tbl (List Flit)
  mdrops : Tbl Nat
  /-- Teams of a saved gang (03 R91), and its saved slots and accumulators. -/
  saved : List Team
  savedMx : List SavedMx
  stopMode : Bool
  faultStop : Bool
  /-- Order of placement, for the choice of victims (03 R90). -/
  placed : Nat
  /-- Group time in ns at which it was saved, and at which its watchdog fired last (13 R376, 03 R93). -/
  savedAt : Nat
  lastFire : Nat
  /-- Chosen for pre-emption while remote loads of it are outstanding: it issues nothing (08 R244). -/
  toSave : Bool := false
  deriving DecidableEq, Repr

/-- A launch record (03 R86), with its role table (07 R211). -/
structure LaunchRec where
  code : Nat
  args : Nat
  gx : Nat
  gy : Nat
  gz : Nat
  threads : Nat
  regs : Nat
  gang : Nat
  teams : Nat
  prio : Nat
  coresident : Bool
  chip : Bool
  after : Bool
  scratch : Nat
  priv : Nat
  roles : List (Nat × Nat × Nat)
  lrb : W64
  tvb : W64
  qnt : Nat
  fpc : W32
  doneAddr : Nat
  doneVal : W64
  deriving DecidableEq, Repr

/-- Where a LAUNCH came from (09 R269, R271). -/
structure Issuer where
  cx : CtxId
  core : Nat
  near : Bool
  tag : W64
  deriving DecidableEq, Repr

/-- A launch that has been read and has not completed (03 R86, R87). -/
structure Launch where
  cx : CtxId
  queue : Nat
  index : Nat
  /-- The context whose queue it stands in (09 R271: a child launch belongs to its issuer's). -/
  qcx : CtxId
  /-- The launch taken from the queue before it (FLAGS.after, 03 R86). -/
  prev : Option Nat
  die : Nat
  record : LaunchRec
  issuer : Option Issuer
  nextGang : Nat
  retired : Nat
  /-- The fault record of its completion's stores, where one waits (03 R450); the DONEADDR store has been dropped. -/
  fault : Option Nat
  doneFailed : Bool
  /-- The DRAW whose pixel teams are its gangs (15 R420). -/
  draw : Option Nat
  deriving DecidableEq, Repr

/-- What the dispatcher has decided about the record at CONS while its write of the header waits on a fault (03 R450). -/
inductive HeadWrite where
  | fail (fstat : Nat)
  | take (r : LaunchRec)
  deriving DecidableEq, Repr

/-- A launch queue as Renweaz bound it: header address, dispatcher's die, the notes beside ring slots (03 R85, 09 R269),
the marks of 03 R450, and the launch taken from it last. -/
structure Queue where
  header : Nat
  die : Nat
  notes : Tbl Issuer
  passed : Bool
  fault : Option Nat
  todo : Option HeadWrite := none
  last : Option Nat := none
  deriving DecidableEq, Repr

/-! Tenancy. -/

/-- A partition (03 R67): the clusters, groups, Ethernet queue sets and heads it owns, and its encryption key. -/
structure Part where
  clusters : List Nat
  groups : List Nat
  qsets : List Nat
  heads : List Nat
  key : Nat
  frctl : W64
  misses : W32
  /-- Group time of the next deadline of the PERIOD timer, in ns (03 R89). -/
  deadline : Option Nat
  deriving DecidableEq, Repr

/-- A virtual device (03 R68, R93, 16 R442); WDT and CTO in ns, and its remote-error counter. -/
structure Vdev where
  part : Nat
  wdt : Nat
  cto : Nat
  remoteErr : Nat
  deriving DecidableEq, Repr

/-- An engine window (12 R328). -/
structure Window where
  base : Nat
  len : Nat
  stack : Nat
  bank : Bool
  deriving DecidableEq, Repr

/-- A context (02 R46, 12 R328, 16 R442). -/
structure Ctx where
  root : Nat
  windows : List Window
  remote : List RemoteWin
  /-- Chip-scratchpad allotment in 64 KiB units, by die (02 R36). -/
  chip : Tbl Nat
  queues : Tbl Queue
  isReset : Bool
  ecc : Nat
  deriving DecidableEq, Repr

/-- A notice that Renweaz posts to a virtual function (16 R444): its kind and its values. -/
structure Notice where
  kind : Nat
  words : List Nat
  deriving DecidableEq, Repr

/-! Arbiters. -/

/-- One slot of an arbiter (03 R72, R73); TOK and BTOK count in 1/(1024 · 2^F) tokens. -/
structure Slot where
  cfg : W64
  tok : Nat
  btok : Nat
  loanin : Nat
  byp : Nat
  deriving DecidableEq, Repr

/-- An arbiter's registers and pointers (03 R71, R73, R77). -/
structure Arb where
  slots : Tbl Slot
  slotmap : Tbl W64
  err : W64
  /-- Pool in 1/(1024 · 2^F) tokens. -/
  pool : Nat
  /-- Weighted round robin: slot, and loans taken there. -/
  wrr : Nat
  wrrUsed : Nat
  /-- Last virtual device of an idle grant, and last of each shared slot. -/
  lastVd : Nat
  lastIn : Tbl Nat
  /-- Grants of the last cycle: the virtual devices, and those of them granted beyond their own share, by a loan or idle. -/
  grants : List Nat
  beyond : List Nat
  deriving DecidableEq, Repr

/-! Caches, faults, locks. -/

/-- An L2 line's attributes (02 R40 to R42, R54; 03 R82). Its data is in `mem`. -/
structure Line where
  way : Nat
  /-- 0 evict-first, 1 normal, 2 evict-last. -/
  prio : Nat
  vd : Nat
  pin : Option CtxId
  lent : Bool
  /-- Fabric cycle of the last evict-last access. -/
  lastEl : Nat
  /-- The core that holds the line leased-exclusive. -/
  excl : Option Nat
  /-- A crumb of a compressed tile, whose home is that of the tile (15 R409). -/
  tile : Bool
  /-- DRAM does not hold its last store yet (02 R40). -/
  dirty : Bool := false
  /-- Logical write and read timestamps (02 R53). -/
  wts : Nat := 0
  rts : Nat := 0
  deriving DecidableEq, Repr

/-- A resident compressed tile (15 R409): 256 decoded bytes and a dirty bit for each crumb. -/
structure Tile where
  bytes : List Byte
  dirty : List Bool
  deriving DecidableEq, Repr

/-- A sealed region (02 R45). -/
structure SealRegion where
  base : Nat
  len : Nat
  isSealed : Bool
  /-- The SHA-256 digest that Renweaz computed as it sealed the region. -/
  digest : Nat := 0
  deriving DecidableEq, Repr

/-- Who waits on a fault record. -/
inductive Faulter where
  /-- A split of a team, by gang, index and entry. -/
  | team (gang index entry : Nat)
  | ctl (core : Nat)
  | op (id : Nat)
  /-- The walk of a team, by its gang and index. -/
  | walker (gang index : Nat)
  /-- A Leave at exit. -/
  | leave (gang index : Nat)
  /-- A cohort arrival of a team that an EXIT completed. -/
  | cohort (gang index : Nat)
  /-- The dispatcher at a queue's header (true) or at a record or role table. -/
  | queue (cx : CtxId) (q : Nat) (header : Bool)
  /-- The DONEADDR store of a launch, or the RETIRED write behind it. -/
  | launch (id : Nat)
  | raster (die cmd : Nat)
  deriving DecidableEq, Repr

/-- A fault record (02 R49) and who waits on it. -/
structure FaultRec where
  va : Nat
  cx : CtxId
  core : Nat
  slot : Nat
  kind : Nat
  access : Nat
  clk : Nat
  who : Faulter
  /-- Class, code and address of the trap if Renweaz delivers it. -/
  addr : Nat
  deriving DecidableEq, Repr

/-- The space a lock or an engine range lies in (02 R55). -/
inductive LockSpace where
  | global
  /-- A gang member's scratchpad, as 4 · gang + member: the allotment of one core. -/
  | scratch (n : Nat)
  | chip (die : Nat)
  deriving DecidableEq, Repr

/-- A range an engine operation reads or writes. -/
structure Range where
  space : LockSpace
  base : Nat
  len : Nat
  write : Bool
  deriving DecidableEq, Repr

/-- An entry of a range-lock table (02 R55). -/
structure Lock where
  part : Nat
  cx : CtxId
  range : Range
  op : Nat
  deriving DecidableEq, Repr

/-! Links (02 R62 to R65, 16 R441). -/

/-- Who sent a remote access: a team by its gang and index, or a core's control thread. -/
inductive OwnerRef where
  | team (gang index : Nat)
  /-- A core's control thread, in its run-th program. -/
  | ctl (core run : Nat)
  deriving DecidableEq, Repr

/-- A frame sent and not acknowledged: SEQ, KIND, destination context, items, window number of a marker, sender. -/
structure OutFrame where
  seq : Nat
  kind : Nat
  cx : CtxId
  items : List FkItem
  window : Nat
  who : Option OwnerRef
  deriving DecidableEq, Repr

/-- The streams with one peer: next SEQ to send, unacknowledged frames, SEQ expected, the latest close marker applied and
the latest own marker acknowledged (windows; none before the first), reads whose reply has not come, and whether the peer is
lost. -/
structure Stream where
  next : Nat
  unacked : List OutFrame
  expect : Nat
  markerIn : Option Nat
  markerAck : Option Nat
  reads : List (OwnerRef × Nat)
  lost : Bool
  deriving DecidableEq, Repr

/-! Engine operations (02 R55 to R61; 10, 11, 14, 15). -/

/-- A copy request (11 R310 to R312); `idx` are a GATHER's indices. -/
structure CopyReq where
  kind : Nat
  ssp : Space
  dsp : Space
  src : Nat
  dst : Nat
  rlen : Nat
  rows : Nat
  sstr : Nat
  dstr : Nat
  ety : DType
  swz : Bool
  swzm : Nat
  swzs : Nat
  frac : Nat
  sat : Bool
  rnd : Nat
  idx : List Nat
  deriving DecidableEq, Repr

/-- A fetch into a slot (10 R285): its record and tile, and the completion signal of the walk it serves. -/
structure Fetch where
  slot : Nat
  tile : TileRec
  row : Nat
  col : Nat
  walk : Option Nat
  /-- Abandoned with its gang's save: it holds its locks until its walk reads the entry again (02 R61, 10 R308). -/
  kept : Bool := false
  deriving DecidableEq, Repr

/-- A reduction (14 R392): the stack that runs it, and the destination crumbs, by number, not written yet. -/
structure SredReq where
  stack : Nat
  op : Nat
  ty : DType
  count : Nat
  srcs : List Nat
  dst : Nat
  flag : Nat
  fval : W64
  tag : W64
  left : List Nat
  deriving DecidableEq, Repr

inductive OpWork where
  /-- A copy request with its sequence number; `committed` is true once an ACCUM has added into its cells. -/
  | copy (r : CopyReq) (seq : Nat) (committed : Bool)
  | fetch (f : Fetch)
  | sred (r : SredReq)
  /-- The lock of an SMAC or a SACC (14 R398, R399). -/
  | bank
  /-- The lock of an RRESOLVE (15 R427). -/
  | resolve
  deriving DecidableEq, Repr

/-- An engine operation that takes part in range locking. `gang` and `index` name the team that issued it, or the team a
control-thread fetch or walk serves; `slot` stands in its records. -/
structure EngOp where
  cx : CtxId
  part : Nat
  core : Nat
  byCtl : Bool
  gang : Nat
  index : Nat
  slot : Nat
  reach : Reach
  ranges : List Range
  registered : Bool
  bar : Option (Nat × Nat)
  bytes : Nat
  began : Nat
  fault : Option Nat
  /-- It has passed CTO (03 R93). -/
  late : Bool := false
  work : OpWork
  deriving DecidableEq, Repr

/-! Filter engines (12). -/

/-- A texture record, checked (12 R331). -/
structure TexRec where
  base : Nat
  size : Nat
  w : Nat
  h : Nat
  fmt : Nat
  levels : Nat
  umode : Nat
  vmode : Nat
  sparse : Bool
  rmap : Nat
  fbmap : Nat
  deriving DecidableEq, Repr

/-- A level of a hash grid (12 R339). -/
structure GridLevel where
  res : Nat
  log2t : Nat
  scale : Nat
  off : Nat
  deriving DecidableEq, Repr

/-- A grid record, checked (12 R339). -/
structure GridRec where
  base : Nat
  size : Nat
  e8 : Bool
  nf : Nat
  levels : List GridLevel
  deriving DecidableEq, Repr

inductive FilterWork where
  /-- TEXS: .tri and the channels written. -/
  | texs (r : TexRec) (tri : Bool) (n : Nat)
  /-- RESQ: .tri and .mark. -/
  | resq (r : TexRec) (tri mark : Bool)
  /-- HGL from a first level on. -/
  | hgl (r : GridRec) (first : Nat)
  deriving DecidableEq, Repr

/-- A thread's three operands. -/
structure FilterArg where
  tid : Nat
  a : W32
  b : W32
  c : W32
  deriving DecidableEq, Repr

/-- A texel, an entry or a residency byte that a step in progress has read for a thread: its address, its size and its value, none
in a hole (12 R350). -/
structure Fetched where
  tid : Nat
  va : Nat
  n : Nat
  x : Option Nat
  deriving DecidableEq, Repr

/-- A request at a filter engine, under the name of its operation in the team's `pend` (12 R348, R349): the steps left, as wafer
and level, what has been read for them, the results so far, and the lowest hole read. -/
structure FilterReq where
  cx : CtxId
  stack : Nat
  core : Nat
  slot : Nat
  work : FilterWork
  args : List FilterArg
  d : Nat
  pred : Option Nat
  wm : TMask
  zero : Bool
  steps : List (Nat × Nat)
  got : List Fetched := []
  ws : List RegWrite
  hole : Option Nat
  late : Bool
  began : Nat
  deriving DecidableEq, Repr

/-! Traversal engines (13). -/

/-- STATE of a treelet table entry (13 R353). -/
inductive TreeletState where
  | absent | opened | closing | proofing
  deriving DecidableEq, Repr

/-- An entry of a treelet table, the cores whose TCLOSE waits for the drain (13 R353, R372), and the rays that were held as it
reached PROOFING (13 R382). QUEUED is counted from the rays. -/
structure Treelet where
  st : TreeletState
  base : Nat
  size : Nat
  version : W32
  closers : List Nat
  held : Nat := 0
  deriving DecidableEq, Repr

/-- A command held behind a TLPUB that waits for PROOFING, or while the core's records are held: 0 TCLOSE, 1 TLPUB, 2 TRSTAT
(13 R381, 01 R29). -/
structure TlCmd where
  cx : CtxId
  kind : Nat
  id : Nat
  base : Nat
  size : Nat
  deriving DecidableEq, Repr

/-- An item of S (13 R360): an inner node, or the triangles left of a leaf block; its rounded enter time. -/
structure VisitItem where
  va : Nat
  tris : Option Nat
  t : W32
  deriving DecidableEq, Repr

/-- A visit that waits at a candidate (13 R360, R365). -/
structure Visit where
  base : Nat
  size : Nat
  s : List VisitItem
  l : List Nat
  reads : Nat
  deriving DecidableEq, Repr

/-- A candidate: its handle, tr, PRIM and barycentrics. -/
structure Candidate where
  handle : W32
  t : W32
  prim : W32
  u : W32
  v : W32
  deriving DecidableEq, Repr

/-- The queue entry that a ray holds, from its arrival until it moves on or has posted its final record: an SRAM entry of its
device's quota, one of the reserve, or a place in the spill ring (13 R364, R366, R371). -/
inductive RayEntry where
  | none | quota | reserve | spilled
  deriving DecidableEq, Repr

/-- Where a ray is (13 R364 to R366, R371). -/
inductive RayPlace where
  /-- On its way to the stack of its treelet; forwarded from another stack. -/
  | flying (fwd : Bool)
  /-- In the queue of its treelet. -/
  | queued
  /-- Parked on a candidate, whose record has entered the hit queue. -/
  | parked (v : Visit) (c : Candidate) (posted : Bool)
  /-- Ended; its final record waits for room in the hit queue. -/
  | posting (words : List W32)
  deriving DecidableEq, Repr

/-- A ray (13 R359). PEND is listed from its top. `arrival` orders the rays of a queue; `began` is the time of issue in ns. -/
structure Ray where
  cx : CtxId
  gang : Nat
  index : Nat
  core : Nat
  slot : Nat
  epoch : Nat
  org : List W32
  dir : List W32
  tmin : W32
  tmax : W32
  tmax0 : W32
  rid : W32
  best : W32
  bu : W32
  bv : W32
  treelet : Nat
  pend : List Nat
  mask : Nat
  first : Bool
  opq : Bool
  held : Bool
  trunc : Bool
  hit : Bool
  age : Nat
  arrival : Nat
  began : Nat
  place : RayPlace
  entry : RayEntry := .none
  deriving DecidableEq, Repr

/-! Stack arithmetic engines (14). -/

/-- What a stack command does; `pc` is its channel in the stack. -/
inductive StackWork where
  | sred (op : Nat)
  | bank (pc : Nat)
  /-- SVB: entry and its 32 bytes as a number. -/
  | svb (pc entry data : Nat)
  /-- SMAC: row, start column, columns, entry or .bk, first accumulator, lock. -/
  | smac (pc row col n : Nat) (entry : Option Nat) (acc op : Nat)
  /-- SACC: destination, first accumulator, count, .clr, lock, and, once its bank step has read the accumulators, the crumbs not
  written yet, by number. -/
  | sacc (pc dst first count : Nat) (clr : Bool) (op : Nat) (left : Option (List (Nat × List Byte)))
  | exit (pc : Nat)
  deriving DecidableEq, Repr

/-- A command of a stack arithmetic engine, by name in issue order (14 R388, R389). -/
structure StackCmd where
  stack : Nat
  core : Nat
  cx : CtxId
  tag : W64
  silent : Bool
  begun : Bool
  /-- Its issuer has become free since. -/
  orphan : Bool
  late : Bool
  began : Nat
  work : StackWork
  deriving DecidableEq, Repr

/-- A session (14 R395): owner, SBANK's A, start of the timer in ns, the entries as 256-bit numbers (the same in every bank),
the accumulators keyed 64 · bank + accumulator, and, once it is to end, the SBEXIT that ends it (none: a forced exit). -/
structure Session where
  core : Nat
  cx : CtxId
  tag : W64
  began : Nat
  entries : Tbl Nat
  accs : Tbl W32
  ending : Option (Option Nat)
  /-- Its control thread has become free. -/
  orphan : Bool
  deriving DecidableEq, Repr

/-! Raster engines (15). -/

/-- A surface record (15 R406). -/
structure Surface where
  cbase : Nat
  dbase : Nat
  w : Nat
  h : Nat
  clearc : Nat
  cmp : Bool
  deriving DecidableEq, Repr

/-- A fragment of a packet: thread, colour, depth, and whether it has passed the depth test (15 R422, R423). -/
structure Fragment where
  tid : Nat
  colour : W32
  depth : W32
  passed : Bool
  deriving DecidableEq, Repr

/-- A packet that is not merged yet: its name, the team's earlier accesses and unacknowledged frames (peer and SEQ) that it follows,
and the fragments that its merge has not done (15 R422, R425). -/
structure Packet where
  id : Nat
  after : List Nat
  frames : List (Nat × Nat)
  frags : List Fragment
  deriving DecidableEq, Repr

/-- A pixel team of a DRAW that has not both retired and been merged: its gang while it lives, and its packet until it is
merged (15 R425). -/
structure PixelRec where
  tri : Nat
  tx : Nat
  ty : Nat
  gang : Option Nat
  packet : Option Packet
  deriving DecidableEq, Repr

/-- A DRAW that has begun: its surface, the launch its teams belong to, the triangle it has reached, the corners of it that have been
read (x, y and z of each), the tiles of it still to spawn (none before its set-up), its live teams in submission order, the packet
whose merge waits on a fault record, and, after a fault that Renweaz did not mend, its address. -/
structure DrawRun where
  surf : Surface
  launch : Nat
  tri : Nat
  corners : List W32
  tiles : Option (List (Nat × Nat))
  spawned : Nat
  live : List PixelRec
  fault : Option Nat
  ended : Option Nat
  deriving DecidableEq, Repr

inductive RasterWork where
  /-- Buffer, triangles, the state at issue, and what runs once the DRAW has begun. -/
  | draw (va n : Nat) (st : RasterState) (run : Option DrawRun)
  /-- A command that has finished: STATUS, TAG and DETAIL of its record, which waits for those of earlier commands. -/
  | done (status : Nat) (tag : W64) (detail : W32)
  /-- RCLEAR: record, .c and .d, depth; once begun its surface and the events done, those of colour first. -/
  | clear (va : Nat) (c d : Bool) (depth : W32) (run : Option (Surface × Nat))
  /-- RRESOLVE: the surface read at issue, .unc; the address that it has reached, and the tiles rewritten. -/
  | resolve (s : Surface) (unc : Bool) (reached count : Nat)
  /-- RSYNC: record and snapshot; once begun its surface, the tiles written back, and its progress: tiles passed, then snapshot crumbs
  stored. -/
  | sync (va b : Nat) (run : Option (Surface × Nat × Nat))
  deriving DecidableEq, Repr

/-- A raster command, by name in issue order (15 R431). -/
structure RasterCmd where
  die : Nat
  core : Nat
  cx : CtxId
  tag : W64
  late : Bool
  began : Nat
  work : RasterWork
  deriving DecidableEq, Repr

/-! Media and host (16). -/

/-- A frame on its way from a head: number, repeat, key frame; for a presented one its surface's address and bytes, and the pixels that
have been read (16 R436). -/
structure Frame where
  number : Nat
  again : Bool
  key : Bool
  base : Nat
  size : Nat
  pixels : List Byte
  deriving DecidableEq, Repr

/-- A virtual head (16 R435, R436): HDCFG, HDENC, HDPADDR, HDSTREAM, the counts of HDSTAT, the context it is assigned to, the
last SEQ taken, none before a frame has been presented, whether the black frame has been sent, the group time of the next
scan-out start in ns, inter frames since the last key frame, and frames not sent yet. -/
structure Head where
  cfg : W64
  enc : W64
  paddr : W64
  stream : W64
  frames : Nat
  repeats : Nat
  overs : Nat
  cx : Option CtxId
  lastSeq : Option Nat
  black : Bool
  nextStart : Nat
  sinceKey : Nat
  queue : List Frame
  deriving DecidableEq, Repr

/-- An Ethernet queue set: frames to send and frames received, oldest first, by queue (16 R440). -/
structure EthSet where
  tx : Tbl (List (List Byte))
  rx : Tbl (List (List Byte))
  deriving DecidableEq, Repr

/-- A MEMWR or MEMRD in progress: its request, and the crumbs moved (16 R444). -/
structure Transfer where
  tag : Nat
  cx : CtxId
  va : Nat
  len : Nat
  write : Bool
  moved : Nat
  deriving DecidableEq, Repr

/-- A function's mailbox response, staging buffer, signals of MSI-X vectors 0 and 1, and the transfer that keeps it busy
(16 R444). -/
structure Mailbox where
  status : Nat
  tag : Nat
  results : List Nat
  staging : List Host.Cell
  irq0 : Nat
  irq1 : Nat
  run : Option Transfer
  deriving DecidableEq, Repr

/-! The machine. -/

/-- What a turn of the agenda does (the model's own, log 1). -/
inductive Act where
  /-- The agent issues its next instruction. -/
  | agent (a : Agent)
  /-- A step of the device. -/
  | event (i : Instr)
  deriving DecidableEq, Repr

/-- A turn: what happens, and the time that passes first: cycles of named cores, of the fabric and stack clocks, and ns of
group time (log 3). -/
structure Turn where
  act : Act
  cycles : List (Nat × Nat)
  fab : Nat
  stk : Nat
  ns : Nat
  deriving DecidableEq, Repr

/-- What stands in a deferred queue (14 R401). -/
inductive Waiter where
  /-- An issued access of an agent, by the name of its operation. -/
  | op (who : Agent) (id : Nat)
  /-- What an agent reads to go on: a clause, a record, a block. -/
  | fetch (who : Agent)
  /-- An engine's operation, request, command or ray, by its name. -/
  | work (id : Nat)
  /-- A crumb of a reduction or of a SACC: its reads, or its packet. -/
  | crumb (op j : Nat)
  /-- The dispatcher at a queue. -/
  | queue (cx : CtxId) (q : Nat)
  /-- A display head. -/
  | head (n : Nat)
  /-- A frame of a peer: the peer and its SEQ. -/
  | peer (n seq : Nat)
  /-- A request at a function's mailbox. -/
  | host (fn : Nat)
  deriving DecidableEq, Repr

structure State where
  /-- Turns to come, first to last (log 1). -/
  agenda : List Turn
  /-- The agent that acts (log 1). -/
  cur : Option Agent
  /-- Counters of free values and of names (log 2). -/
  fresh : Nat
  nextId : Nat
  /-- Power (16 R446). -/
  powered : Bool
  fab : Nat
  stk : Nat
  ns : Nat
  mem : Memory
  /-- Resident teams, keyed 16 · core + slot. -/
  teams : Tbl Team
  /-- Cores that differ from reset. -/
  cores : Tbl Core
  gangs : Tbl Gang
  launches : Tbl Launch
  parts : Tbl Part
  vds : Tbl Vdev
  /-- Contexts, keyed 64 · vd + ctx. -/
  ctxs : Tbl Ctx
  /-- Dispatchers: queue last served by virtual device, keyed 128 · die + vd (03 R87). -/
  served : Tbl Nat
  /-- Arbiters, keyed by kind and number. -/
  arbs : Tbl Arb
  /-- WAYQ, keyed 16 · slice + slot (03 R80). -/
  wayqs : Tbl W64
  /-- Ways converted to chip scratchpad, by die, and ways of the sealed pool (02 R44, R45). -/
  convWays : Tbl Nat
  poolWays : Nat
  seals : Tbl SealRegion
  /-- Bypass counters, by virtual device (02 R43). -/
  bypass : Tbl Nat
  /-- L2 lines, by crumb number. -/
  lines : Tbl Line
  /-- Compressed tiles resident in the L2, by tile number (15 R409). -/
  tiles : Tbl Tile
  /-- The newest logical timestamp or lease handed out (02 R53, R60). -/
  lts : Nat
  /-- The shared TLB of each die, of 32,768 entries (02 R48). -/
  dieTlbs : Tbl (List TlbEntry)
  locks : List Lock
  /-- Engine operations, by name, in the order they entered their engines. -/
  ops : Tbl EngOp
  /-- Completion signals of walks that have not fired, in list order (10 R299). -/
  sigs : List WSignal
  /-- Fault queues: records in order, by name. -/
  faults : Tbl FaultRec
  /-- Current window number, %win (02 R62). -/
  win : Nat
  /-- Window length exponent, WTO and retransmit time in ns (02 R62, R65, 16 R441). -/
  winExp : Nat
  wto : Nat
  rto : Nat
  /-- Streams of the peers of the window group (16 R441). -/
  streams : Tbl Stream
  /-- Own index in the window group, and the step of the IEEE 1588 clock against ns (16 R441, R443). -/
  device : Nat
  ptp : Int
  /-- Last message timestamp of each port, in ns (16 R443). -/
  stamps : Tbl Nat
  /-- Notices waiting, by virtual function (16 R444). -/
  notices : Tbl (List Notice)
  /-- Requests at the filter engines, by name. -/
  filters : Tbl FilterReq
  /-- Treelet tables, keyed 65536 · (64 · vd + ctx) + id. -/
  treelets : Tbl Treelet
  /-- Traversal commands held back, keyed 16 · core + stack. -/
  tlq : Tbl (List TlCmd)
  /-- Rays, by name. -/
  rays : Tbl Ray
  /-- TRRING and TRQLIM, keyed 128 · stack + vd (13 R367). -/
  trring : Tbl W64
  trqlim : Tbl W64
  /-- Commands of the stack arithmetic engines, by name. -/
  scmds : Tbl StackCmd
  /-- Channels in bank mode, keyed 64 · stack + channel. -/
  sessions : Tbl Session
  /-- Deferred queues, keyed alike, oldest first (14 R401). -/
  deferred : Tbl (List Waiter)
  /-- Groups with PLAIN = 1, keyed 8 · stack + group (14 R403). -/
  plain : Tbl Bool
  /-- Raster commands, by name. -/
  rcmds : Tbl RasterCmd
  heads : Tbl Head
  eth : Tbl EthSet
  /-- FKETYPE of each port, where it differs from 0x88B5 (16 R441). -/
  fketype : Tbl W64
  /-- Mailboxes, by function: 0 physical, v + 1 virtual. -/
  mail : Tbl Mailbox
  /-- Islands that do not run at full rate (01 R32). -/
  islands : Tbl IslandMode
  /-- Event records and reports that went to Renweaz, oldest first (09 R265). -/
  toRenweaz : List (CtxId × EventRec)
  /-- Renweaz's digest did not match: the module stays in reset (16 R448). -/
  inReset : Bool
  deriving DecidableEq, Repr

/-! Values at creation and at reset. -/

def Ctl.init : Ctl :=
  { owner := none, mode := .free, k := [], clrb := 0, pc := 0, fa := 0, cause := 0, code := 0, clause := none, pend := []
    rpend := 0, rwin := none, raster := RasterState.init, copySeq := 0, step := false }

def Core.init : Core :=
  { ctl := Ctl.init, dq := [], dqWait := [], eq := [], posted := 0, drops := 0, held := [], allot := [], spstep := 0, clk := 0
    lclk := 0, l1 := [], tlb := [], mx := Matrix.init, epochs := 0 }

def Barrier.init : Barrier := { members := 0, arrived := 0, byteInit := 0, bytes := 0, phase := 0 }

def Ctx.init : Ctx :=
  { root := 0, windows := [], remote := [], chip := [], queues := [], isReset := false, ecc := 0 }

def Slot.init : Slot := { cfg := 0, tok := 0, btok := 0, loanin := 0, byp := 0 }

/-- Partition 0 owns every resource at reset (16 R448). -/
def Part.all : Part :=
  { clusters := List.range 96, groups := List.range 96, qsets := List.range 64, heads := List.range 128, key := 0, frctl := 0
    misses := 0, deadline := none }

/-- The machine right after reset (16 R448 and the reset columns of the register tables). -/
def State.reset : State :=
  { agenda := [], cur := none, fresh := 0, nextId := 0, powered := true, fab := 0, stk := 0, ns := 0, mem := [], teams := []
    cores := [], gangs := [], launches := [], parts := [(0, Part.all)], vds := [], ctxs := [], served := [], arbs := []
    wayqs := [], convWays := [], poolWays := 0, seals := [], bypass := [], lines := [], tiles := [], lts := 0, dieTlbs := [], locks := [], ops := []
    sigs := [], faults := []
    win := 0, winExp := 3, wto := 1000000, rto := 100000, streams := [], device := 0, ptp := 0, stamps := [], notices := []
    filters := [], treelets := [], tlq := [], rays := [], trring := [], trqlim := [], scmds := [], sessions := [], deferred := []
    plain := [], rcmds := [], heads := [], eth := [], fketype := [], mail := [], islands := [], toRenweaz := []
    inReset := false }

end Sys2Proof.Machine
end

