-- ==== Sys2Proof/Machine/Ops.lean ====
section
/-! DEFINITION. The named operations over state and memory: lookups, keys of memory, page walks, event records, fault
records, barriers, and taking an exception (07 R216 to R220, 09 R273). -/

namespace Sys2Proof.Machine

open Sys2Proof Host

/-! Lookups. A team lives in a slot of a core (01 R24). -/

def teamKey (core slot : Nat) : Nat := 16 * core + slot

def State.team? (s : State) (core slot : Nat) : Option Team := s.teams.get? (teamKey core slot)

def State.setTeam (s : State) (core slot : Nat) (t : Team) : State := { s with teams := s.teams.set (teamKey core slot) t }

def State.coreOf (s : State) (c : Nat) : Core := s.cores.get Core.init c

def State.setCore (s : State) (c : Nat) (x : Core) : State := { s with cores := s.cores.set c x }

def State.ctl (s : State) (c : Nat) : Ctl := (s.coreOf c).ctl

def State.setCtl (s : State) (c : Nat) (x : Ctl) : State := s.setCore c { s.coreOf c with ctl := x }

def State.gang? (s : State) (g : Nat) : Option Gang := s.gangs.get? g

def State.setGang (s : State) (n : Nat) (g : Gang) : State := { s with gangs := s.gangs.set n g }

def cxKey (c : CtxId) : Nat := 64 * c.vd + c.ctx

def State.ctx? (s : State) (c : CtxId) : Option Ctx := s.ctxs.get? (cxKey c)

def State.setCtx (s : State) (c : CtxId) (x : Ctx) : State := { s with ctxs := s.ctxs.set (cxKey c) x }

def State.launch? (s : State) (n : Nat) : Option Launch := s.launches.get? n

/-- The launch of a team. -/
def State.launchOf (s : State) (t : Team) : Option Launch :=
  match s.gang? t.gang with
  | some g => s.launch? g.launch
  | none => none

/-- The context of a team. -/
def State.teamCx (s : State) (t : Team) : Option CtxId := (s.launchOf t).map (·.cx)

/-- The partition of a context's virtual device. -/
def State.partOf (s : State) (c : CtxId) : Nat := match s.vds.get? c.vd with
  | some v => v.part
  | none => 0

/-- Takes a name. -/
def State.newId (s : State) : Nat × State := (s.nextId, { s with nextId := s.nextId + 1 })

/-- The n-th free number of this step (log 2): `fresh` moves on with every step. -/
def State.freeIx (s : State) (n : Nat) : Nat := 2 ^ 32 * s.fresh + n

/-- The core on which an agent runs. -/
def agentCore (a : Agent) : Nat :=
  match a with
  | .team c _ => c
  | .ctl c => c

def coreDie (core : Nat) : Nat := core / 96

def coreCluster (core : Nat) : Nat := core / 4

/-! Memory. -/

namespace Memory

/-- The byte at a key; an unlisted byte is 0 (16 R448, 02 R36). -/
def read : Memory → Nat → Byte
  | [], _ => 0
  | (k, b) :: r, a => if k == a then b else if a < k then 0 else Memory.read r a

/-- Writes a byte, in canonical form: keys strictly rising, no zero listed. -/
def write : Memory → Nat → Byte → Memory
  | [], a, b => if b = 0 then [] else [(a, b)]
  | (k, x) :: r, a, b =>
    if a < k then (if b = 0 then (k, x) :: r else (a, b) :: (k, x) :: r)
    else if k == a then (if b = 0 then r else (a, b) :: r)
    else (k, x) :: Memory.write r a b

/-- Every key above `lo`, strictly rising, and no zero byte. -/
def wfFrom : Option Nat → Memory → Bool
  | _, [] => true
  | lo, (k, b) :: r => (match lo with | some l => l < k | none => true) && b != 0 && wfFrom (some k) r

/-- The canonical form. -/
def wf (m : Memory) : Bool := wfFrom none m

def writes : Memory → List (Nat × Byte) → Memory
  | m, [] => m
  | m, (a, b) :: r => Memory.writes (m.write a b) r

/-- The bytes of a number, at the given keys. -/
def writeKeys (m : Memory) (keys : List Nat) (x : Nat) : Memory := m.writes (keys.zip (leBytes keys.length x))

def readKeys (m : Memory) (keys : List Nat) : Nat := leNat (keys.map m.read)

end Memory

/-- n keys from a first one. -/
def keysFrom (k n : Nat) : List Nat := (List.range n).map (k + ·)

/-- Regions of keys beyond DRAM: 2^44 keys each. Region 4n + 1 is the scratchpad allotment of gang member n, with the private
slices behind the .s allotment (log 15); region 4n + 3 a chip-scratchpad allotment; region 2 the decoded bytes of compressed
pages, by physical address. -/
def scratchKey (gang member off : Nat) : Nat := 2 ^ 44 * (4 * (4 * gang + member) + 1) + off

def chipKey (cx : CtxId) (die off : Nat) : Nat := 2 ^ 44 * (4 * (4 * cxKey cx + die) + 3) + off

def tileKey (pa : Nat) : Nat := 2 ^ 44 * 2 + pa

def isTileKey (k : Nat) : Bool := k / 2 ^ 44 == 2

/-- A little-endian number in DRAM. -/
def State.readPA (s : State) (pa n : Nat) : Nat := s.mem.readKeys (keysFrom pa n)

def State.writePA (s : State) (pa n x : Nat) : State :=
  { s with mem := s.mem.writeKeys (keysFrom pa n) x, lts := s.lts + 1 }

/-! Translation (02 R46 to R49). -/

/-- A leaf entry as found: the physical address of the byte and the entry's bits. -/
structure Leaf where
  pa : Nat
  sealed : Bool
  comp : Bool
  engine : Bool
  exec : Bool
  write : Bool
  deriving DecidableEq, Repr

/-- Fault kinds of 02 R49. -/
def kindAbsent : Nat := 1
def kindReadOnly : Nat := 2
def kindNoExec : Nat := 3
def kindBad : Nat := 4
def kindNoWindow : Nat := 5

/-- A level of the table: the shift and width of its index, the size of the table below, the size a leaf maps, and whether a
leaf may and must stand there. -/
structure Level where
  shift : Nat
  width : Nat
  next : Nat
  page : Nat
  mayLeaf : Bool
  mustLeaf : Bool

def levels : List Level :=
  [⟨39, 9, 2 ^ 12, 0, false, false⟩, ⟨30, 9, 2 ^ 12, 2 ^ 30, true, false⟩, ⟨21, 9, 2 ^ 8, 2 ^ 21, true, false⟩,
   ⟨16, 5, 0, 2 ^ 16, true, true⟩]

/-- ADDR as a physical address. -/
def pteAddr (e : Nat) : Nat := bits e 39 8 * 2 ^ 8

/-- The entry is bad at a level (02 R47). -/
def pteBad (l : Level) (e : Nat) : Bool :=
  bits e 63 40 != 0 || bitAt e 7 || (bitAt e 1 && !l.mayLeaf) || (!bitAt e 1 && l.mustLeaf) ||
  12 ≤ bits e 39 36 || (if bitAt e 1 then pteAddr e % l.page != 0 else pteAddr e % l.next != 0)

def leafOf (l : Level) (e va : Nat) : Leaf :=
  { pa := pteAddr e + va % l.page, sealed := bitAt e 6, comp := bitAt e 5, engine := bitAt e 4, exec := bitAt e 3
    write := bitAt e 2 }

/-- The address lies in a sealed region (02 R45). -/
def State.sealedPA (s : State) (pa : Nat) : Bool :=
  s.seals.any fun x => x.2.isSealed && x.2.base ≤ pa && pa < x.2.base + x.2.len

/-- The walker sets S in every mapping of a sealed region (02 R45). -/
def State.seal (s : State) (l : Leaf) : Leaf := { l with sealed := l.sealed || s.sealedPA l.pa }

/-- The page walk from a table down. -/
def walkFrom (s : State) (va : Nat) : List Level → Nat → Except Nat Leaf
  | [], _ => .error kindBad
  | l :: ls, table =>
    let e := s.readPA (table + 8 * bits va (l.shift + l.width - 1) l.shift) 8
    if !bitAt e 0 then .error kindAbsent
    else if pteBad l e then .error kindBad
    else if bitAt e 1 then .ok (s.seal (leafOf l e va))
    else walkFrom s va ls (pteAddr e)

/-- The entry of a page in a TLB. -/
def TlbEntry.isFor (x : TlbEntry) (cx : CtxId) (page : Nat) : Bool := x.cx == cx && x.page == page

/-- A translation of a page that a TLB holds: a core's, or a die's (02 R48). -/
def State.tlbEntry (s : State) (cx : CtxId) (page : Nat) : Option TlbEntry :=
  match s.dieTlbs.findSome? fun x => x.2.find? fun e => e.isFor cx page with
  | some e => some e
  | none => s.cores.findSome? fun x => x.2.tlb.find? fun e => e.isFor cx page

def State.tlbLeaf (s : State) (cx : CtxId) (va : Nat) : Option Leaf :=
  (s.tlbEntry cx (va / 2 ^ 16)).bind fun x => (levels[x.level]?).map fun l => s.seal (leafOf l x.pte va)

/-- The leaf entry that a walk finds, with its level. -/
def leafEntry (s : State) (va : Nat) : Nat → List Level → Nat → Option (Nat × Nat)
  | _, [], _ => none
  | i, l :: ls, table =>
    let e := s.readPA (table + 8 * bits va (l.shift + l.width - 1) l.shift) 8
    if !bitAt e 0 || pteBad l e then none
    else if bitAt e 1 then some (i, e)
    else leafEntry s va (i + 1) ls (pteAddr e)

def State.leafOf? (s : State) (cx : CtxId) (va : Nat) : Option (Nat × Nat) :=
  (s.ctx? cx).bind fun c => leafEntry s va 0 levels c.root

/-- The table entries that a walk reads, by address. -/
def walkReads (s : State) (va : Nat) : List Level → Nat → List Nat
  | [], _ => []
  | l :: ls, table =>
    let pa := table + 8 * bits va (l.shift + l.width - 1) l.shift
    let e := s.readPA pa 8
    if !bitAt e 0 || pteBad l e || bitAt e 1 then [pa] else pa :: walkReads s va ls (pteAddr e)

/-- The leaf that maps a virtual address of a context, or the fault kind. A translation that a TLB holds may be used until an
invalidation ends it, or may have left the TLB, so that the table is walked: where the two differ, the device may use either
(log 12). -/
def State.translate (s : State) (cx : CtxId) (va : Nat) : Except Nat Leaf :=
  match s.ctx? cx with
  | none => .error kindAbsent
  | some c =>
    let w := walkFrom s va levels c.root
    match s.tlbLeaf cx va with
    | some l => if w.toOption == some l then w else if Config.freeBool (s.freeIx (va / 2 ^ 16)) then .ok l else w
    | none => w

/-- The memory key of a translated byte: decoded pixels where the page is a compressed surface (15 R409). -/
def Leaf.key (l : Leaf) : Nat := if l.comp then tileKey l.pa else l.pa

/-- The remote window that holds a virtual address (08 R242, 16 R442). -/
def State.remoteOf (s : State) (cx : CtxId) (va : Nat) : Option RemoteWin :=
  match s.ctx? cx with
  | some c => c.remote.find? fun r => r.vbase ≤ va && va < r.vbase + r.len
  | none => none

/-! Range locks met by threads (02 R58). -/

/-- Two byte ranges share a crumb. -/
def crumbsMeet (a n b m : Nat) : Bool := 0 < n && 0 < m && a / 64 ≤ (b + m - 1) / 64 && b / 64 ≤ (a + n - 1) / 64

/-- The access meets a lock that its kind does not pass: a load passes read locks. -/
def State.lockHit (s : State) (cx : CtxId) (sp : LockSpace) (addr n : Nat) (store : Bool) : Bool :=
  s.locks.any fun l => l.cx == cx && l.range.space == sp && (l.range.write || store) && crumbsMeet l.range.base l.range.len addr n

/-! Event records (09 R263 to R265, 01 R29). -/

def State.postNotice (s : State) (vf kind : Nat) (words : List Nat) : State :=
  { s with notices := s.notices.set vf (s.notices.get [] vf ++ [{ kind := kind, words := words }]) }

/-- Notice kinds (16 R444, R446; 03 R450): context fault stop, KTRAP, launch queue passed over, DONEADDR store dropped, context
reset, peer lost, uncorrectable ECC error, island gated for its voltage (log 23). -/
def noticeTrap : Nat := 1
def noticeCtl : Nat := 2
def noticeQueue : Nat := 3
def noticeDone : Nat := 4
def noticeReset : Nat := 5
def noticePeer : Nat := 6
def noticeEcc : Nat := 7
def noticeIsland : Nat := 8

/-- The engine of this source and unit holds a record that the core's full event queue has not taken (01 R29). -/
def Core.holdsFor (c : Core) (src unit : Nat) : Bool := c.held.any fun x => x.2.src == src && x.2.unit == unit

/-- A record as it is posted: it carries a timestamp behind every access made before it (09 R275, R276). -/
def State.stamped (s : State) (r : EventRec) : EventRec := { r with ts := s.lts }

/-- A record goes to Renweaz. -/
def State.tellRenweaz (s : State) (cx : CtxId) (r : EventRec) : State := { s with toRenweaz := s.toRenweaz ++ [(cx, r)] }

/-- A record addressed to a core for a context: queued, held by its engine while the queue is full or an earlier record of the
engine is held, or dropped and counted; one with STATUS 2 to 6 goes to Renweaz then. -/
def State.postEvent (s : State) (core : Nat) (cx : CtxId) (r : EventRec) : State :=
  let c := s.coreOf core
  let r := s.stamped r
  if c.ctl.owner == some cx then
    if c.eq.length < 64 && !c.holdsFor r.src r.unit then
      s.setCore core { c with eq := c.eq ++ [r], posted := (c.posted + 1) % 2 ^ 16 }
    else s.setCore core { c with held := c.held ++ [(cx, r)] }
  else
    let s := if 2 ≤ r.status && r.status ≤ 6 then s.tellRenweaz cx r else s
    s.setCore core { c with drops := (c.drops + 1) % 2 ^ 16 }

/-- A watchdog or a timeout fires: the record is addressed to a core, and goes to Renweaz as well (03 R93). -/
def State.postFiring (s : State) (core : Nat) (cx : CtxId) (r : EventRec) : State :=
  let t := s.postEvent core cx r
  if (s.coreOf core).ctl.owner == some cx then t.tellRenweaz cx (s.stamped r) else t

/-- A record would leave its engine at once: it is queued, dropped, or goes to Renweaz. -/
def State.postsNow (s : State) (core : Nat) (cx : CtxId) (src unit : Nat) : Bool :=
  (s.coreOf core).ctl.owner != some cx || ((s.coreOf core).eq.length < 64 && !(s.coreOf core).holdsFor src unit)

/-! Fault records (02 R49). -/

/-- Records of a die's queue: those of its cores, and of the dispatcher and engines that named the die. -/
def FaultRec.die (r : FaultRec) : Nat := if r.core < 384 then coreDie r.core else r.slot / 2 ^ 8

/-- The die's queue holds fewer than 4,096 records. -/
def State.faultRoom (s : State) (die : Nat) : Bool := (s.faults.filter fun x => x.2.die == die).length < 4096

/-- Sends a record and names it. -/
def State.postFault (s : State) (r : FaultRec) : Nat × State :=
  let (id, s) := s.newId
  (id, { s with faults := s.faults.set id { r with clk := (s.coreOf r.core).clk } })

/-! Named barriers (07 R203 to R206). -/

def Gang.bar (g : Gang) (b : Nat) : Barrier := g.bars.get Barrier.init b

def Gang.setBar (g : Gang) (b : Nat) (x : Barrier) : Gang := { g with bars := g.bars.set b x }

/-- The engine member has arrived (07 R204). -/
def Barrier.engineIn (b : Barrier) : Bool := b.byteInit == 0 || b.bytes ≤ 0

/-- The barrier counts no one (07 R204, R205): it completes no phase (log 16). -/
def Barrier.idle (b : Barrier) : Bool := b.members == 0 && b.byteInit == 0

/-- Completes phases while they are complete (07 R205). -/
def Barrier.settle : Nat → Barrier → Barrier
  | 0, b => b
  | n + 1, b =>
    if !b.idle && b.arrived == b.members && b.engineIn then
      Barrier.settle n { b with
        phase := b.phase + 1
        arrived := 0
        bytes := if b.byteInit == 0 then 0 else b.byteInit + min b.bytes 0 }
    else b

/-- Enough rounds for every phase that surplus bytes can complete. -/
def Barrier.settled (b : Barrier) : Barrier := b.settle (b.bytes.natAbs + 2)

/-- BYTES is a signed field of 32 bits: a count beyond it is a free value (07 R203, log 74). -/
def Barrier.fit (x : Barrier) (free : Nat) : Barrier :=
  if -(2 ^ 31 : Int) ≤ x.bytes && x.bytes < 2 ^ 31 then x else { x with bytes := sx 32 free }

def State.updBar (s : State) (g b : Nat) (f : Barrier → Barrier) : State :=
  match s.gang? g with
  | some x => s.setGang g (x.setBar b ((f (x.bar b)).fit (Config.freeNat (s.freeIx b))).settled)
  | none => s

/-- An engine operation's bytes as its completion signal fires (07 R204). -/
def State.barBytes (s : State) (g b n : Nat) : State := s.updBar g b fun x => { x with bytes := x.bytes - n }

/-! Positions in a clause, and the end of a clause. -/

/-- The clause after this one (05 R128). -/
def ClausePos.next (c : ClausePos) : Nat := c.base + 32 * c.hdr.blocks

/-- Skips FILL words and padding (05 R123, R127). -/
def ClausePos.skip : Nat → ClausePos → ClausePos
  | 0, c => c
  | n + 1, c =>
    if c.off % 32 == 28 then ClausePos.skip n { c with off := c.off + 4 }
    else if c.off < 32 * c.hdr.blocks && leNat ((c.bytes.drop c.off).take 8) == 0 then
      ClausePos.skip n { c with off := c.off + 8 }
    else c

/-- The position `size` bytes on. -/
def ClausePos.advance (c : ClausePos) (size : Nat) : ClausePos := ClausePos.skip 24 { c with off := c.off + size }

def ClausePos.atEnd (c : ClausePos) : Bool := 32 * c.hdr.blocks ≤ c.off

/-- The split's turn is over (07 R198). -/
def Team.pass (t : Team) (e : Nat) : Team := if t.running == some e then { t with running := none, last := e } else t

/-- At a clause's end the running split passes when its quantum is used or it yields (07 R198). -/
def Team.clauseEnds (t : Team) (e : Nat) (yield : Bool) : Team :=
  match t.splits.get? e with
  | some p =>
    let t' := { t with splits := t.splits.set e { p with yield := false } }
    if yield || p.yield || p.limit ≤ p.quantum then t'.pass e else t'
  | none => t

/-- The split's clause is over; it stands before the clause of an address. -/
def Team.clauseDone (t : Team) (e next : Nat) (yield : Bool) : Team :=
  Team.clauseEnds { t with splits := t.splits.alter e fun p => { p with clause := none, pc := next } } e yield

/-- The split stands at a position it is to go on from: inside the clause, or behind its end. -/
def Team.standAt (t : Team) (e : Nat) (c : ClausePos) : Team :=
  if c.atEnd then t.clauseDone e c.next c.hdr.yield
  else { t with splits := t.splits.alter e fun p => { p with clause := some c } }

/-! Taking an exception (07 R216 to R220). -/

def clsILLOP : Nat := 0
def clsILLEN : Nat := 1
def clsALIGN : Nat := 2
def clsPAGE : Nat := 3
def clsPROT : Nat := 4
def clsRANGE : Nat := 5
def clsCONV : Nat := 6
def clsDESYNC : Nat := 7
def clsSLICE : Nat := 8
def clsSLOT : Nat := 9
def clsBAR : Nat := 10
def clsMLISTF : Nat := 11
def clsBKPT : Nat := 12
def clsTRAP : Nat := 13

/-- A trap: its class, TCAUSE.CODE and TADDR. -/
structure Trap where
  cls : Nat
  code : Nat
  addr : W64
  deriving DecidableEq, Repr

def Trap.mk0 (cls : Nat) : Trap := ⟨cls, 0, 0⟩

/-- AFTER of TCAUSE (07 R216). -/
def Trap.after (x : Trap) : Bool := x.cls == clsTRAP || x.cls == clsBKPT

/-- TCAUSE (07 R215). -/
def causeWord (inh after : Bool) (code split cls : Nat) : W32 :=
  BitVec.ofNat 32 (2 ^ 31 * boolNat inh + 2 ^ 30 * boolNat after + 2 ^ 16 * (code % 256) + 2 ^ 8 * (split % 16) + cls % 16)

def Team.inh (t : Team) : Bool := t.tcause.getLsbD 31

/-- The trapping instruction: where it stands, and the position after it. -/
structure TrapAt where
  core : Nat
  slot : Nat
  entry : Nat
  /-- Address of the instruction. -/
  pc : Nat
  /-- Position at which the split goes on: at the instruction, or after it where AFTER is 1; none inside no clause. -/
  resume : Option ClausePos
  deriving DecidableEq, Repr

/-- Handler entry: TPC, TCAUSE and TADDR are written, the clause position saved, INH set, and the split goes to TVB + 32k with
its whole mask. What its clause has still to do at its end, a ROLE or a YIELD, waits until it goes on. -/
def Team.enterHandler (t : Team) (x : Trap) (a : TrapAt) : Team :=
  let sp := t.splits.alter a.entry fun p =>
    { p with pc := (t.tvb.toNat + 32 * x.cls) % 2 ^ 64, clause := none, wait := .none, yield := false }
  { t with
    tpc := BitVec.ofNat 64 a.pc
    tcause := causeWord true x.after x.code a.entry x.cls
    taddr := x.addr
    saved := a.resume
    handler := some a.entry
    pendingRole := none
    savedRole := t.pendingRole
    savedYield := ((t.splits.get? a.entry).map (·.yield)).getD false
    tpcWritten := false
    splits := sp
    running := some a.entry }

/-- Context fault handling's part in the team: the same registers, INH as it was, and the team stopped (07 R217). -/
def Team.enterContextFault (t : Team) (x : Trap) (a : TrapAt) : Team :=
  { t with
    tpc := BitVec.ofNat 64 a.pc
    tcause := causeWord t.inh x.after x.code a.entry x.cls
    taddr := x.addr
    splits := t.splits.alter a.entry fun p => { p with clause := a.resume, wait := .none }
    stops := { t.stops with fault := true, toTpc := false } }

/-- A debug stop at BKPT without a handler (07 R216, R220): the split goes on after it. -/
def Team.enterDebugStop (t : Team) (a : TrapAt) : Team :=
  { t with
    splits := t.splits.alter a.entry fun p => { p with clause := a.resume, wait := .none }
    stops := { t.stops with debug := true } }

/-- Context fault handling of a team whose trap registers are written: the gang stops and Renweaz is told (07 R217). -/
def State.contextFault (s : State) (core slot : Nat) (t : Team) : State :=
  let s := s.setTeam core slot t
  let s := match s.gang? t.gang with
    | some g => s.setGang t.gang { g with faultStop := true }
    | none => s
  match s.teamCx t with
  | some cx => s.postNotice (cx.vd + 1) noticeTrap [core, slot, t.tcause.toNat, t.tpc.toNat, t.taddr.toNat]
  | none => s

/-- A team raises a trap (07 R216): its handler, a debug stop at a BKPT that has none, or context fault handling. -/
def State.raise (s : State) (t : Team) (x : Trap) (a : TrapAt) : State :=
  if bitAt t.tvmask.toNat x.cls && !t.inh then s.setTeam a.core a.slot (t.enterHandler x a)
  else if x.cls == clsBKPT && !bitAt t.tvmask.toNat x.cls then s.setTeam a.core a.slot (t.enterDebugStop a)
  else s.contextFault a.core a.slot (t.enterContextFault x a)

/-- The split goes on as TRET continues it (07 R219): at TPC as a branch target where it was written, else in its saved clause.
A YIELD of the clause that ends here ends the turn; a used quantum does only where the split stands between clauses
(07 R198). -/
def Team.resumeFrom (t : Team) (entry : Nat) (toTpc yield : Bool) (saved : Option ClausePos) : Team :=
  match (if toTpc then none else saved) with
  | none => t.clauseDone entry t.tpc.toNat yield
  | some c =>
    if c.atEnd then t.clauseDone entry c.next (yield || c.hdr.yield)
    else
      let t' := { t with splits := t.splits.alter entry fun p => { p with clause := some c, yield := t.savedYield } }
      if yield || ((t.splits.get? entry).map (·.yield)).getD false then t'.pass entry else t'

/-- The return from a handler (07 R219): INH clears, the other splits are released, and a ROLE of the interrupted clause is
pending again. `yield` is the YIELD of the clause that holds TRET. -/
def Team.leaveHandler (t : Team) (entry : Nat) (yield : Bool) : Team :=
  { t.resumeFrom entry t.tpcWritten yield t.saved with
    tcause := t.tcause &&& 0x7FFFFFFF
    handler := none
    saved := none
    tpcWritten := false
    pendingRole := match t.pendingRole with
      | some r => some r
      | none => t.savedRole
    savedRole := none
    savedYield := false }

/-- Any trap on the control thread stops it, before any effect of the instruction (09 R273). `resume` is where it goes on. -/
def State.raiseCtl (s : State) (core : Nat) (x : Trap) (pc : Nat) (resume : Option ClausePos) : State :=
  let c := s.ctl core
  let withAddr := x.cls == clsALIGN || x.cls == clsPAGE || x.cls == clsPROT || x.cls == clsRANGE || x.cls == clsSLICE
  let c' := { c with
    mode := .stopped (x.cls == clsTRAP)
    cause := x.cls
    code := if x.cls == clsTRAP || x.cls == clsBAR then x.code else 0
    pc := pc
    fa := if withAddr then x.addr.toNat % 2 ^ 48 else 0
    clause := resume }
  let s := s.setCtl core c'
  match c.owner with
  | some cx => if x.cls == clsTRAP then s.postNotice (cx.vd + 1) noticeCtl [core, x.code, pc] else s
  | none => s

end Sys2Proof.Machine
end

