-- ==== Sys2Proof/Machine/Cdc.lean ====
section
/-! DEFINITION. Colour-delta compression (15 R409 to R415): how a tile lies in DRAM, its decoded bytes, and reading and writing the
bytes at memory keys, through the tiles that are resident. -/

namespace Sys2Proof.Machine

open Sys2Proof

/-- The mode byte of the tile that holds a physical address (15 R410). -/
def modePA (pa : Nat) : Nat := pa / 2 ^ 33 * 2 ^ 33 + 0x1FE000000 + pa % 2 ^ 33 / 256

/-- U(w): 32-byte units of a delta stream (15 R412). -/
def deltaUnits (w : Nat) : Nat := ceilDiv (4 + ceilDiv (252 * w) 8) 32

/-- A channel of pixel p in 256 bytes. -/
def chan (bs : List Byte) (p c : Nat) : Nat := (bs.getD (4 * p + c) 0).toNat

/-- The pixels of a delta tile (15 R412). -/
def deltaPixels (w : Nat) (raw : List Byte) : List Byte :=
  let stream := leNat (raw.drop 4)
  (List.range 256).map fun i =>
    let base := (raw.getD (i % 4) 0).toNat
    if i < 4 then BitVec.ofNat 8 base
    else
      let k := (i - 4) * w
      BitVec.ofInt 8 (base + sx w (stream / 2 ^ k))

/-- The 64 pixels of a tile from its mode byte and its 256 bytes (15 R411, R413). -/
def decodeTile (mode : Nat) (raw : List Byte) : List Byte :=
  if mode == 0x40 then (List.range 256).map fun i => raw.getD (i % 4) 0
  else if bits mode 7 6 == 2 && mode % 8 == 0 && bits mode 5 3 < 6 then deltaPixels (bits mode 5 3 + 1) raw
  else raw

/-- The deltas of a tile, in stream order, as signed values. -/
def deltasOf (bs : List Byte) : List Int :=
  (List.range 252).map fun i => sx 8 ((chan bs (i / 4 + 1) (i % 4) + 256 - chan bs 0 (i % 4)) % 256)

/-- The narrowest width from 1 to 8 that every delta fits. -/
def deltaWidth (ds : List Int) : Nat :=
  ((List.range 8).map (· + 1)).find? (fun w => ds.all fun d => -(2 ^ (w - 1) : Nat) ≤ d && d < (2 ^ (w - 1) : Nat)) |>.getD 8

/-- A written-back tile: its mode byte and the bytes written (15 R414). -/
def encodeTile (bs : List Byte) : Nat × List Byte :=
  let ds := deltasOf bs
  let w := deltaWidth ds
  if w ≤ 6 then
    let stream := (ds.zipIdx).foldl (fun a x => a + wrap w x.1 * 2 ^ (x.2 * w)) 0
    (128 + 8 * (w - 1), bs.take 4 ++ leBytes (32 * deltaUnits w - 4) stream)
  else (0, bs)

/-- Bytes of DRAM. -/
def State.dram (s : State) (pa n : Nat) : List Byte := (keysFrom pa n).map s.mem.read

def State.writeDram (s : State) (pa : Nat) (bs : List Byte) : State :=
  { s with mem := s.mem.writes ((keysFrom pa bs.length).zip bs), lts := s.lts + 1 }

/-- The decoded bytes of a tile, by tile number (15 R413). -/
def State.tileBytes (s : State) (tile : Nat) : List Byte :=
  match s.tiles.get? tile with
  | some t => t.bytes
  | none => decodeTile (s.mem.read (modePA (256 * tile))).toNat (s.dram (256 * tile) 256)

/-- Writes a tile as raw bytes with mode 00. -/
def State.writeRaw (s : State) (tile : Nat) (bs : List Byte) : State :=
  (s.writeDram (256 * tile) bs).writeDram (modePA (256 * tile)) [0]

/-- Writes a resident tile back if a crumb of it is dirty; it stays resident and clean (15 R414). -/
def State.cleanTile (s : State) (tile : Nat) : State :=
  match s.tiles.get? tile with
  | some t =>
    if t.dirty.any id then
      let (mode, bs) := encodeTile t.bytes
      let s := (s.writeDram (256 * tile) bs).writeDram (modePA (256 * tile)) [BitVec.ofNat 8 mode]
      { s with tiles := s.tiles.set tile { t with dirty := [false, false, false, false] } }
    else s
  | none => s

/-- Makes a tile resident: the slice reads and decodes it (15 R413). -/
def State.fillTile (s : State) (tile : Nat) : State :=
  match s.tiles.get? tile with
  | some _ => s
  | none => { s with tiles := s.tiles.set tile { bytes := s.tileBytes tile, dirty := [false, false, false, false] } }

/-- One byte of a compressed tile written: a resident tile becomes dirty, a bypassed one is rewritten raw (15 R413, R415). -/
def State.writeTileByte (s : State) (pa : Nat) (b : Byte) : State :=
  match s.tiles.get? (pa / 256) with
  | some t =>
    let t' : Tile := { bytes := setAt t.bytes (pa % 256) b, dirty := setAt t.dirty (pa % 256 / 64) true }
    { s with tiles := s.tiles.set (pa / 256) t' }
  | none => s.writeRaw (pa / 256) (setAt (s.tileBytes (pa / 256)) (pa % 256) b)

/-- The physical address of a key of a compressed tile. -/
def tilePA (k : Nat) : Nat := k - 2 ^ 44 * 2

/-- Reads the byte at a key. -/
def State.readKey (s : State) (k : Nat) : Byte :=
  if isTileKey k then (s.tileBytes (tilePA k / 256)).getD (tilePA k % 256) 0 else s.mem.read k

def State.readKeys (s : State) (keys : List Nat) : Nat :=
  match keys with
  | [] => 0
  | k :: _ =>
    if isTileKey k then
      let tile := tilePA k / 256
      let bs := s.tileBytes tile
      leNat (keys.map fun k => if isTileKey k && tilePA k / 256 == tile then bs.getD (tilePA k % 256) 0 else s.readKey k)
    else leNat (keys.map s.readKey)

/-- Writes a byte at a key. -/
def State.writeKey (s : State) (k : Nat) (b : Byte) : State :=
  if isTileKey k then s.writeTileByte (tilePA k) b else { s with mem := s.mem.write k b }

/-- The physical address that a key of global memory names; none for the scratchpads. -/
def keyPA (k : Nat) : Option Nat :=
  if k < 2 ^ 40 then some k else if isTileKey k then some (tilePA k) else none

/-- The crumbs of global memory that keys lie in, by number. -/
def crumbNumbers (keys : List Nat) : List Nat := ((keys.filterMap keyPA).map (· / 64)).dedup

/-- A store takes a timestamp behind every lease that has been granted: the lines of its crumbs show it (02 R53). -/
def State.stampKeys (s : State) (keys : List Nat) : State :=
  { s with
    lts := s.lts + 1
    lines := (crumbNumbers keys).foldl (fun t c => t.alter c fun l => { l with wts := s.lts + 1, rts := s.lts + 1 }) s.lines }

/-- Writes a number's bytes at keys. -/
def State.writeKeys (s : State) (keys : List Nat) (x : Nat) : State :=
  ((keys.zip (leBytes keys.length x)).foldl (fun s y => s.writeKey y.1 y.2) s).stampKeys keys

/-- Writes bytes at keys. -/
def State.putKeys (s : State) (keys : List Nat) (bs : List Byte) : State :=
  ((keys.zip bs).foldl (fun s y => s.writeKey y.1 y.2) s).stampKeys keys

end Sys2Proof.Machine
end

