-- ==== Sys2Proof/Machine/Cache.lean ====
section
/-! DEFINITION. Homes of crumbs (01 R15, R16), arbiter lookup (03 R70, R71), and what an access does to the attributes of L1 and L2
lines (02 R39 to R43, R53, R54; 03 R80 to R82). The data itself is in `mem`. -/

namespace Sys2Proof.Machine

open Sys2Proof

/-! Where a crumb lives. -/

def stackOf (pa : Nat) : Nat := bits pa 39 36

def groupOf (pa : Nat) : Nat := bits pa 35 33

/-- Pseudo-channel within the stack (01 R15). -/
def channelOf (pa : Nat) : Nat := 8 * groupOf pa + (bits pa 8 6 ^^^ bits pa 11 9)

/-- Byte offset within the pseudo-channel. -/
def channelOffset (pa : Nat) : Nat := bits pa 32 9 * 64 + bits pa 5 0

/-- The home slice, 128 to a die (01 R16). -/
def sliceOf (pa : Nat) : Nat :=
  128 * (stackOf pa / 3) + (bits pa 12 6 ^^^ bits pa 19 13 ^^^ bits pa 26 20 ^^^ bits pa 33 27)

/-! Arbiters. -/

/-- Fraction bits of RATE and CAP (03 R70). -/
def arbF (kind : Nat) : Nat := if kind == 12 then 12 else if kind == 13 then 0 else 4

def arbCapacity (kind : Nat) : Nat :=
  match kind with
  | 1 | 3 => 32768
  | 4 => 39384
  | 5 => 26256
  | 6 => 64590
  | 7 => 6553
  | 11 => 1024
  | 12 => 12603
  | 13 => 39384
  | _ => 16384

def arbSlots (kind : Nat) : Nat := if kind == 1 then 8 else 16

def arbMaxCost (kind : Nat) : Nat :=
  match kind with
  | 8 | 10 => 64
  | 11 => 4
  | 13 => 9216
  | _ => 1

def arbPoolDepth (kind : Nat) : Nat := if kind == 13 then 16384 else 16

/-- One whole token in the units of TOK, BTOK and the pool. -/
def arbUnit (kind : Nat) : Nat := 1024 * 2 ^ arbF kind

def arbIx (k : ArbKey) : Nat := 65536 * k.kind + k.idx

/-- An arbiter's registers at module reset. -/
def Arb.init (kind : Nat) : Arb :=
  { slots := [], slotmap := [], err := 0, pool := 16 * arbUnit kind, wrr := 0, wrrUsed := 0, lastVd := 127, lastIn := []
    grants := [], beyond := [] }

def State.arb (s : State) (k : ArbKey) : Arb := (s.arbs.get? (arbIx k)).getD (Arb.init k.kind)

def State.setArb (s : State) (k : ArbKey) (a : Arb) : State := { s with arbs := s.arbs.set (arbIx k) a }

def Arb.slot (a : Arb) (n : Nat) : Slot := a.slots.get Slot.init n

def Arb.setSlot (a : Arb) (n : Nat) (x : Slot) : Arb := { a with slots := a.slots.set n x }

/-- The slot of a virtual device (03 R71). -/
def Arb.slotOf (kind : Nat) (a : Arb) (vd : Nat) : Nat :=
  let f := bits ((a.slotmap.get 0 (vd / 16)).toNat) (4 * (vd % 16) + 3) (4 * (vd % 16))
  if kind == 1 then min f 7 else f

/-- SLOTMAP names a slot for a virtual device. -/
def Arb.mapSlot (a : Arb) (vd n : Nat) : Arb :=
  let old := (a.slotmap.get 0 (vd / 16)).toNat
  let j := 4 * (vd % 16)
  { a with slotmap := a.slotmap.set (vd / 16) (BitVec.ofNat 64 (old - bits old (j + 3) j * 2 ^ j + n % 16 * 2 ^ j)) }

def Slot.valid (x : Slot) : Bool := x.cfg.getLsbD 63
def Slot.part (x : Slot) : Nat := bits x.cfg.toNat 59 56
def Slot.lend (x : Slot) : Nat := bits x.cfg.toNat 55 54
def Slot.borrow (x : Slot) : Nat := bits x.cfg.toNat 53 50
def Slot.cap (x : Slot) : Nat := bits x.cfg.toNat 47 32
def Slot.depth (x : Slot) : Nat := bits x.cfg.toNat 31 16
def Slot.rate (x : Slot) : Nat := bits x.cfg.toNat 15 0

/-! Way quotas. -/

def State.wayq (s : State) (slice slot : Nat) : Nat := (s.wayqs.get 0 (16 * slice + slot)).toNat

def wayMask (q : Nat) : Nat := bits q 15 0
def wayLend (q : Nat) : Bool := bitAt q 16
def wayPinLim (q : Nat) : Nat := bits q 23 20

/-- The slot of a virtual device at a slice. -/
def State.sliceSlot (s : State) (slice vd : Nat) : Nat := (s.arb ⟨2, slice⟩).slotOf 2 vd

/-- Ways converted to chip scratchpad on a slice's die, and ways of the sealed pool (02 R44, R45). -/
def State.waysConverted (s : State) (slice : Nat) : Nat := s.convWays.get 0 (slice / 128)

/-- A way that holds lines: it is not converted to chip scratchpad. -/
def State.wayUsable (s : State) (slice way : Nat) : Bool := way + s.waysConverted slice < 16

/-- Ways that belong to no valid slot and are neither converted nor in the sealed pool (03 R81). The pool holds the ways below
the converted ones (log 21). -/
def State.freeWay (s : State) (slice way : Nat) : Bool :=
  way + s.waysConverted slice + s.poolWays < 16 &&
  (List.range 16).all fun t => !(((s.arb ⟨2, slice⟩).slot t).valid && bitAt (wayMask (s.wayq slice t)) way)

/-! Lines. -/

/-- The home slice of a crumb: a compressed tile's crumbs share that of its first (15 R409). -/
def crumbSlice (tile : Bool) (crumb : Nat) : Nat := if tile then sliceOf (256 * (crumb / 4)) else sliceOf (64 * crumb)

/-- The lines of a set of a slice, with their crumbs. -/
def State.setLines (s : State) (slice set : Nat) : List (Nat × Line) :=
  s.lines.filter fun x => crumbSlice x.2.tile x.1 == slice && Config.setIndex x.1 == set

/-- The victim of R41 among lines: the lowest priority, then the oldest under pseudo-LRU (log 13). -/
def pickVictim (age : Nat → Nat) : List (Nat × Line) → Option (Nat × Line)
  | [] => none
  | x :: r => some (r.foldl (fun a b =>
      if b.2.prio < a.2.prio || (b.2.prio == a.2.prio && age a.2.way < age b.2.way) then b else a) x)

/-- Where a sealed line fills: a way of the sealed pool (02 R45). -/
def State.poolWay (s : State) (slice crumb : Nat) : Option (Nat × Option Nat × Bool) :=
  let set := s.setLines slice (Config.setIndex crumb)
  let pool (w : Nat) : Bool := w + s.waysConverted slice < 16 && 16 ≤ w + s.waysConverted slice + s.poolWays
  match (List.range 16).find? fun w => pool w && !set.any fun x => x.2.way == w with
  | some w => some (w, none, false)
  | none => (pickVictim (Config.lruAge (s.freeIx crumb)) (set.filter fun x => pool x.2.way && x.2.pin.isNone)).map fun x =>
      (x.2.way, some x.1, false)

/-- Where a miss of a virtual device fills: a way, the crumb that leaves it, and whether the line is lent (03 R82). Of several
lent lines the first by crumb is taken, and of several empty ways the lowest (log 13): the rule names no choice. -/
def State.fillWay (s : State) (slice crumb vd : Nat) : Option (Nat × Option Nat × Bool) :=
  if s.sealedPA (64 * crumb) then s.poolWay slice crumb else
  let slot := s.sliceSlot slice vd
  let arb := s.arb ⟨2, slice⟩
  let set := s.setLines slice (Config.setIndex crumb)
  let lines := set.filter fun x => x.2.pin.isNone
  let taken := set.map fun x => x.2.way
  let usable (w : Nat) := s.wayUsable slice w
  let own (w : Nat) := usable w && bitAt (wayMask (s.wayq slice slot)) w
  let lendable (w : Nat) := s.freeWay slice w || (List.range 16).any fun t =>
    t != slot && (arb.slot t).valid && usable w && bitAt (wayMask (s.wayq slice t)) w && wayLend (s.wayq slice t) &&
      ((arb.slot t).lend == 2 || ((arb.slot t).lend == 1 && (arb.slot t).part == (arb.slot slot).part))
  let empty (f : Nat → Bool) := (List.range 16).find? fun w => f w && !taken.contains w
  match empty own with
  | some w => some (w, none, false)
  | none =>
  match lines.find? fun x => own x.2.way && x.2.lent with
  | some x => some (x.2.way, some x.1, false)
  | none =>
  match pickVictim (Config.lruAge (s.freeIx crumb)) (lines.filter fun x => own x.2.way) with
  | some x => some (x.2.way, some x.1, false)
  | none =>
  if (arb.slot slot).borrow == 0 then none else
  match empty lendable with
  | some w => some (w, none, true)
  | none => (lines.find? fun x => lendable x.2.way && x.2.lent).map fun x => (x.2.way, some x.1, true)

/-- Priority after an access with HINT 0 none, 1 evict-first, 2 evict-last (02 R41). -/
def hitPrio (hint prio : Nat) : Nat := if hint == 2 then 2 else if hint == 1 && prio == 1 then 0 else prio

def fillPrio (hint : Nat) : Nat := if hint == 2 then 2 else if hint == 1 then 0 else 1

/-- Counts a bypassed miss (02 R43, 03 R73). -/
def State.countBypass (s : State) (slice vd : Nat) : State :=
  let k : ArbKey := ⟨2, slice⟩
  let a := s.arb k
  let n := a.slotOf 2 vd
  let s := s.setArb k (a.setSlot n { a.slot n with byp := ((a.slot n).byp + 1) % 2 ^ 16 })
  { s with bypass := s.bypass.set vd (s.bypass.get 0 vd + 1) }

/-- A line leaves the slice: a compressed tile is written back and leaves whole (15 R409). -/
def State.evictCrumb (s : State) (crumb : Nat) : State :=
  match s.lines.get? crumb with
  | none => s
  | some l =>
    if l.tile then
      let s := s.cleanTile (crumb / 4)
      { s with
        tiles := s.tiles.erase (crumb / 4)
        lines := s.lines.filter fun x => !(x.2.tile && x.1 / 4 == crumb / 4) }
    else { s with lines := s.lines.erase crumb }

/-- A line is filled in the way that R82 gives; none where there is none. -/
def State.fillLine (s : State) (vd hint : Nat) (tile : Bool) (crumb : Nat) : Option State :=
  (s.fillWay (crumbSlice tile crumb) crumb vd).map fun x =>
    let s := match x.2.1 with
      | some c => s.evictCrumb c
      | none => s
    { s with lines := s.lines.set crumb { way := x.1, prio := fillPrio hint, vd := vd, pin := none, lent := x.2.2
                                          lastEl := s.fab, excl := none, tile := tile, wts := s.lts, rts := s.lts } }

/-- A hit sets the priority (02 R41), and ends a leased-exclusive grant (R54). -/
def State.hitLine (s : State) (hint crumb : Nat) (l : Line) : State :=
  { s with lines := s.lines.set crumb { l with
      prio := hitPrio hint l.prio
      lastEl := if hint == 2 then s.fab else l.lastEl
      excl := none } }

/-- One crumb's access at its home slice, by a virtual device: a hit, a fill, or a bypass. `demand` is false for PRF. -/
def State.touchCrumb (s : State) (vd hint crumb : Nat) (demand : Bool) : State :=
  match s.lines.get? crumb with
  | some l => s.hitLine hint crumb l
  | none => match s.fillLine vd hint false crumb with
    | some s => s
    | none => if demand then s.countBypass (sliceOf (64 * crumb)) vd else s

/-- The four crumbs of a tile filled together. -/
def State.fillTileLines (s : State) (vd hint : Nat) : List Nat → Option State
  | [] => some s
  | c :: cs => match s.lines.get? c with
    | some l => State.fillTileLines (s.hitLine hint c l) vd hint cs
    | none => match s.fillLine vd hint true c with
      | some s => State.fillTileLines s vd hint cs
      | none => none

/-- An access to a crumb of a compressed tile: a hit, a fill of the whole tile, or a bypass (15 R409, R413, R415). -/
def State.touchTile (s : State) (vd hint crumb : Nat) (demand : Bool) : State :=
  let tile := crumb / 4
  match s.tiles.get? tile, s.lines.get? crumb with
  | some _, some l => s.hitLine hint crumb l
  | _, _ => match s.fillTileLines vd hint [4 * tile, 4 * tile + 1, 4 * tile + 2, 4 * tile + 3] with
    | some s => s.fillTile tile
    | none => if demand then s.countBypass (crumbSlice true crumb) vd else s

/-- The crumbs of an access's keys, and whether each is of a compressed tile. -/
def crumbsOf (keys : List Nat) : List (Nat × Bool) :=
  keys.foldl (fun l k => match keyPA k with
    | some pa => if l.any (fun x => x.1 == pa / 64) then l else l ++ [(pa / 64, isTileKey k)]
    | none => l) []

def State.touchAny (s : State) (vd hint : Nat) (demand : Bool) (x : Nat × Bool) : State :=
  if x.2 then s.touchTile vd hint x.1 demand else s.touchCrumb vd hint x.1 demand

/-- An access reaches its home slices. -/
def State.touch (s : State) (vd hint : Nat) (keys : List Nat) : State :=
  (crumbsOf keys).foldl (fun s c => s.touchAny vd hint true c) s

/-! Channels in bank mode (14 R395, R401). -/

/-- A pseudo-channel of the module, as a key of `sessions`. -/
def chanOf (pa : Nat) : Nat := 64 * stackOf pa + channelOf pa

/-- A channel is in bank mode, or its deferred queue is still to be served and another stands at its head: an access aimed at it
waits. -/
def State.barred (s : State) (w : Option Waiter) (ch : Nat) : Bool :=
  (s.sessions.get? ch).isSome || match s.deferred.get [] ch with
    | [] => false
    | x :: _ => some x != w

def State.inBank (s : State) (pa : Nat) : Bool := s.barred none (chanOf pa)

/-- Some channel may bar accesses. -/
def State.anyBank (s : State) : Bool := !s.sessions.isEmpty || !s.deferred.isEmpty

/-- The channels that an access reaches: it misses the L2, or writes through to DRAM. -/
def State.keysChans (s : State) (thru : Bool) (keys : List Nat) : List Nat :=
  (((crumbsOf keys).filter fun x => thru || (s.lines.get? x.1).isNone).map fun x => chanOf (64 * x.1)).dedup

/-- An access that waits for a channel. -/
def State.keysStuck (s : State) (thru : Bool) (keys : List Nat) : Bool :=
  s.anyBank && (s.keysChans thru keys).any (s.barred none)

/-- Enters the deferred queues of the channels that bar it, where there is room. None where nothing changes. -/
def State.deferAs (s : State) (w : Waiter) (chans : List Nat) : Option State :=
  let q := (chans.filter (s.barred (some w))).foldl (fun (q : Tbl (List Waiter)) k =>
    let l := q.get [] k
    if l.contains w || 64 ≤ l.length then q else q.set k (l ++ [w])) s.deferred
  if q = s.deferred then none else some { s with deferred := q }

/-- It stands in no deferred queue any more. -/
def State.undefer (s : State) (w : Waiter) : State :=
  if s.deferred.isEmpty then s
  else
    let q : Tbl (List Waiter) := s.deferred.map fun x => (x.1, x.2.filter (· != w))
    { s with deferred := q.filter fun x => !x.2.isEmpty }

/-- A step whose accesses reach the given channels: it enters the deferred queues of those that bar it, or is made. -/
def State.gate (s : State) (w : Waiter) (chans : List Nat) (f : State → Option State) : Option State :=
  if chans.any (s.barred (some w)) then s.deferAs w chans else f (s.undefer w)

def MemAct.writes (a : MemAct) : Bool :=
  match a with
  | .load .. => false
  | _ => true

/-- A page walk that needs a table entry of a channel in bank mode. -/
def State.walkStuck (s : State) (cx : CtxId) (va : Nat) : Bool :=
  s.anyBank && (s.tlbEntry cx (va / 65536)).isNone && match s.ctx? cx with
    | some c => (walkReads s va levels c.root).any fun pa => s.keysStuck false [pa]
    | none => false

/-- An issued operation that cannot take its place yet: an access of it waits for a channel in bank mode. -/
def State.pendStuck (s : State) (p : Pend) : Bool :=
  match p.work with
  | .mem act _ items _ => items.any fun x => match x.place with
    | .here keys => s.keysStuck (act.writes && x.thru) keys
    | .remote .. => false
  | _ => false

/-- Accesses of an agent wait for a channel in bank mode. -/
def State.stuck (s : State) (ps : List Pend) : Bool := s.anyBank && ps.any s.pendStuck

/-- A store leaves its lines dirty where they are write-back (02 R40, R51). -/
def State.dirtyKeys (s : State) (thru : Bool) (keys : List Nat) : State :=
  if thru then s
  else { s with lines := (crumbNumbers keys).foldl (fun t c => t.alter c fun l => { l with dirty := true }) s.lines }

/-! L1 (02 R39, R53). Its lines are named by the crumb of their keys, so that decoded pixels and the bytes as they lie keep apart. -/

/-- Who performs: the core whose L1 the access passes, and the virtual device it counts for. -/
structure Via where
  core : Nat
  vd : Nat
  hint : Nat

/-- Lines that the L1 holds beside the scratchpad: 768 − 64 · SPSTEP KiB (02 R37, R38). -/
def Core.l1Lines (c : Core) : Nat := (768 - 64 * c.spstep) * 16

/-- The line that a load may use: the core's logical clock lies within its lease, which no longer than 2,048 cycles outlives. -/
def Core.l1Hit (c : Core) (crumb : Nat) : Option L1Line :=
  c.l1.find? fun x => x.crumb == crumb && c.lclk ≤ x.lease && c.clk < x.filled + 2048

/-- The line used last stands first; what is beyond the size of the L1 has left it. -/
def Core.l1Put (c : Core) (x : L1Line) : Core := { c with l1 := (x :: c.l1.filter fun y => y.crumb != x.crumb).take c.l1Lines }

/-- The core's logical clock advances to a timestamp (02 R60, 09 R275). -/
def Core.advance (c : Core) (ts : Nat) : Core := { c with lclk := max c.lclk ts }

/-- A core synchronises with everything that has taken its place in the order. -/
def State.sync (s : State) (core : Nat) : State := s.setCore core ((s.coreOf core).advance s.lts)

/-- The L1s keep no line of some physical addresses. -/
def State.dropL1 (s : State) (f : Nat → Bool) : State :=
  { s with cores := s.cores.map fun x => (x.1, { x.2 with l1 := x.2.l1.filter fun y => !((keyPA (64 * y.crumb)).any f) }) }

/-- The slice grants a lease on a crumb, and the L1 keeps its bytes; a bypassed load leaves nothing (02 R43). -/
def State.grantLease (s : State) (core crumb pc : Nat) (data : List Byte) : State :=
  let c := s.coreOf core
  match s.lines.get? pc with
  | some l =>
    let lclk := max c.lclk l.wts
    let lease := max l.rts (lclk + Config.freeNat (s.freeIx crumb) % 2048)
    { s with lines := s.lines.set pc { l with rts := lease }, lts := max s.lts lease }.setCore core
      ({ c with lclk := lclk }.l1Put { crumb := crumb, data := data, wts := l.wts, lease := lease, filled := c.clk })
  | none => s.sync core

/-- A load of the bytes of one crumb: from the L1, or at the home slice. -/
def State.loadCrumb (s : State) (via : Via) (crumb : Nat) : State × List Byte :=
  let c := s.coreOf via.core
  match c.l1Hit crumb with
  | some x => (s.setCore via.core ({ c with lclk := max c.lclk x.wts }.l1Put x), x.data)
  | none =>
    let keys := keysFrom (64 * crumb) 64
    let s := s.touch via.vd via.hint keys
    let data := leBytes 64 (s.readKeys keys)
    (s.grantLease via.core crumb ((crumbNumbers keys).headD 0) data, data)

/-- The bytes of several crumbs, each loaded in turn. -/
def State.loadCrumbs (s : State) (via : Via) : List Nat → State × Tbl (List Byte)
  | [] => (s, [])
  | c :: cs =>
    let (s, d) := s.loadCrumb via c
    let (s, ds) := State.loadCrumbs s via cs
    (s, ds.set c d)

/-- A load at memory keys: through the L1 where they are of global memory, else from the SRAM that holds them (02 R39). -/
def State.loadKeys (s : State) (via : Via) (keys : List Nat) : State × Nat :=
  if (crumbNumbers keys).isEmpty then (s, s.readKeys keys)
  else
    let (s, ds) := s.loadCrumbs via ((keys.map (· / 64)).dedup)
    (s, leNat (keys.map fun k => (ds.get [] (k / 64)).getD (k % 64) 0))

/-- A store of a core at memory keys: it reaches its home slices, and the core's own L1 copies take the bytes on the way. -/
def State.storeKeys (s : State) (via : Via) (thru : Bool) (keys : List Nat) (x : Nat) : State :=
  let s := ((s.touch via.vd via.hint keys).writeKeys keys x).dirtyKeys thru keys
  if (crumbNumbers keys).isEmpty then s
  else
    let c := (s.coreOf via.core).advance s.lts
    let new := keys.zip (leBytes keys.length x)
    s.setCore via.core { c with l1 := c.l1.map fun y =>
      if (keys.map (· / 64)).contains y.crumb then
        { y with
          data := new.foldl (fun d z => if z.1 / 64 == y.crumb then setAt d (z.1 % 64) z.2 else d) y.data
          wts := s.lts
          lease := s.lts }
      else y }

/-! TLBs (02 R48). -/

/-- A TLB with one more entry; a full one gives up an entry that the spec does not name (log 13). -/
def tlbPut (cap victim : Nat) (e : TlbEntry) (l : List TlbEntry) : List TlbEntry :=
  let l := l.filter fun x => !x.isFor e.cx e.page
  (if l.length < cap then l else l.eraseIdx (victim % cap)) ++ [e]

/-- A translation that an access uses enters the TLBs of its core and die; where none holds it, the walker's reads of the table
reach their slices as ordinary loads. -/
def State.walkedOn (s : State) (die : Nat) (core : Option Nat) (cx : CtxId) (va : Nat) : State :=
  let page := va / 65536
  match s.tlbEntry cx page, s.leafOf? cx va, s.ctx? cx with
  | none, some (level, pte), some c =>
    let e : TlbEntry := { cx := cx, page := page, pte := pte, level := level }
    let s := (walkReads s va levels c.root).foldl (fun s pa => s.touch cx.vd 0 [pa]) s
    let s := match core with
      | some k => s.setCore k { s.coreOf k with tlb := tlbPut 256 (Config.freeNat (s.freeIx page)) e (s.coreOf k).tlb }
      | none => s
    { s with dieTlbs := s.dieTlbs.set die (tlbPut 32768 (Config.freeNat (s.freeIx (page + 1))) e (s.dieTlbs.get [] die)) }
  | _, _, _ => s

/-- A translation for a core. -/
def State.walked (s : State) (core : Nat) (cx : CtxId) (va : Nat) : State := s.walkedOn (coreDie core) (some core) cx va

/-- A translation for a unit of a die. -/
def State.walkedDie (s : State) (die : Nat) (cx : CtxId) (va : Nat) : State := s.walkedOn die none cx va

/-- The translations of several accesses. -/
def State.walkedAll (s : State) (core : Nat) (cx : CtxId) (vas : List Nat) : State :=
  ((vas.map (· / 65536)).dedup).foldl (fun s p => s.walked core cx (65536 * p)) s

/-- The TLBs give up every entry of a kind. -/
def State.dropTlb (s : State) (f : TlbEntry → Bool) : State :=
  { s with
    dieTlbs := s.dieTlbs.map fun x => (x.1, x.2.filter fun e => !f e)
    cores := s.cores.map fun x => (x.1, { x.2 with tlb := x.2.tlb.filter fun e => !f e }) }

/-- An atomic's line may be granted leased-exclusive to its core (02 R54, log 12). -/
def State.grantExcl (s : State) (core : Nat) (keys : List Nat) : State :=
  { s with lines := (crumbsOf keys).foldl (fun t x => t.alter x.1 fun l =>
      { l with excl := if Config.freeBool (s.freeIx x.1) then some core else none }) s.lines }

end Sys2Proof.Machine
end

