-- ==== Sys2Proof/Machine/Flags.lean ====
section
/-! DEFINITION. The sticky flags of a team's status word (04 R105, 06 R159), as a set of bits of TSR. -/

namespace Sys2Proof

/-- A set of flags: bit k of TSR. -/
abbrev Flags := Nat

namespace Flags

def none : Flags := 0
/-- Invalid. -/
def nv : Flags := 1
/-- Divide by zero. -/
def dz : Flags := 2
/-- Overflow. -/
def ovf : Flags := 4
/-- Underflow. -/
def unf : Flags := 8
/-- Inexact. -/
def nx : Flags := 16
/-- Matrix accumulator flushed. -/
def muf : Flags := 32
/-- Lattice shell overflow. -/
def lovf : Flags := 64
/-- A value was saturated or clamped. -/
def sat : Flags := 128

end Flags

/-- Both sets together. -/
def Flags.join (a b : Flags) : Flags := a ||| b

def Flags.when (c : Bool) (f : Flags) : Flags := if c then f else 0

/-- All flags of a list of results. -/
def Flags.all (l : List Flags) : Flags := l.foldl Flags.join 0

end Sys2Proof
end

