-- ==== Sys2Proof/Machine/Float.lean ====
section
/-! DEFINITION. Floating-point and integer element formats, exact values, and the one rounding of 04: R95 to R108. -/

namespace Sys2Proof

/-- How a format treats its all-ones exponent (04 R95). -/
inductive FmtKind where
  /-- IEEE 754 layout; `sig` says whether a NaN with top fraction bit 0 signals (R99). -/
  | ieee (sig : Bool)
  /-- E4M3: only S.1111.111 is a NaN, and there is no infinity. -/
  | e4m3
  /-- E2M1: no NaN and no infinity. -/
  | e2m1
  deriving DecidableEq, Repr

/-- A floating-point format (04 R95). -/
structure Fmt where
  ebits : Nat
  fbits : Nat
  bias : Nat
  kind : FmtKind
  deriving DecidableEq, Repr

namespace Fmt

def f64 : Fmt := ⟨11, 52, 1023, .ieee true⟩
def f32 : Fmt := ⟨8, 23, 127, .ieee true⟩
def f16 : Fmt := ⟨5, 10, 15, .ieee true⟩
def bf16 : Fmt := ⟨8, 7, 127, .ieee true⟩
def e4m3 : Fmt := ⟨4, 3, 7, .e4m3⟩
def e5m2 : Fmt := ⟨5, 2, 15, .ieee false⟩
def e2m1 : Fmt := ⟨2, 1, 1, .e2m1⟩

def width (f : Fmt) : Nat := f.ebits + f.fbits + 1

/-- The sign bit's weight. -/
def signBit (f : Fmt) (neg : Bool) : Nat := if neg then 2 ^ (f.ebits + f.fbits) else 0

/-- Exponent of the smallest normal. -/
def emin (f : Fmt) : Int := 1 - (f.bias : Int)

/-- The largest finite value as m · 2^e with m below 2^(fbits+1) (04 R95). -/
def maxFinite (f : Fmt) : Nat × Int :=
  match f.kind with
  | .ieee _ => (2 ^ (f.fbits + 1) - 1, (2 ^ f.ebits - 2 : Nat) - (f.bias : Int) - f.fbits)
  | .e4m3 => (14, 5)
  | .e2m1 => (3, 1)

/-- The canonical NaN (04 R99); +0 in E2M1 (R100). -/
def canonNaN (f : Fmt) : Nat :=
  match f.kind with
  | .ieee _ => (2 ^ f.ebits - 1) * 2 ^ f.fbits + 2 ^ (f.fbits - 1)
  | .e4m3 => 0x7F
  | .e2m1 => 0

def infBits (f : Fmt) (neg : Bool) : Nat := f.signBit neg + (2 ^ f.ebits - 1) * 2 ^ f.fbits

/-- FTZ acts on vector FP32 and FP64 only (04 R104). -/
def flushable (f : Fmt) : Bool := f == f32 || f == f64

end Fmt

/-- The format of a floating type; FP32 stands for the others. -/
def DType.fmt : DType → Fmt
  | .f64 => .f64
  | .f16 => .f16
  | .bf16 => .bf16
  | .e4m3 => .e4m3
  | .e5m2 => .e5m2
  | .e2m1 => .e2m1
  | _ => .f32

/-- An exact value: (−1)^neg · m · 2^e, an infinity, or a NaN. -/
inductive Val where
  | nan (signalling : Bool)
  | inf (neg : Bool)
  | num (neg : Bool) (m : Nat) (e : Int)
  deriving DecidableEq, Repr

namespace Val

def zero : Val := .num false 0 0

def isNaN : Val → Bool
  | .nan _ => true
  | _ => false

def isSig : Val → Bool
  | .nan s => s
  | _ => false

def isInf : Val → Bool
  | .inf _ => true
  | _ => false

def isZero : Val → Bool
  | .num _ m _ => m == 0
  | _ => false

def neg : Val → Bool
  | .inf n | .num n _ _ => n
  | .nan _ => false

def ofInt (x : Int) : Val := .num (decide (x < 0)) x.natAbs 0

/-- Times 2^k, exactly. -/
def scale (k : Int) : Val → Val
  | .num n m e => .num n m (e + k)
  | v => v

def negate : Val → Val
  | .num n m e => .num (!n) m e
  | .inf n => .inf (!n)
  | v => v

/-- Signed mantissa. -/
def mant : Val → Int
  | .num true m _ => -(m : Int)
  | .num false m _ => m
  | _ => 0

def exp : Val → Int
  | .num _ _ e => e
  | _ => 0

end Val

/-- 2^k for k of either sign, as a factor of numerator and denominator. -/
def pow2 (k : Int) : Nat := 2 ^ k.toNat

/-- A bit pattern as an exact value; `ftz` reads a subnormal as a zero of its sign (04 R95, R104). -/
def Fmt.read (f : Fmt) (ftz : Bool) (x : Nat) : Val :=
  let neg := bitAt x (f.ebits + f.fbits)
  let ex := bits x (f.ebits + f.fbits - 1) f.fbits
  let fr := x % 2 ^ f.fbits
  let finite : Val :=
    if ex == 0 then
      if ftz && f.flushable then .num neg 0 0 else .num neg fr (f.emin - f.fbits)
    else .num neg (fr + 2 ^ f.fbits) (ex - (f.bias : Int) - f.fbits)
  match f.kind with
  | .ieee sig =>
    if ex == 2 ^ f.ebits - 1 then
      if fr == 0 then .inf neg else .nan (sig && !bitAt fr (f.fbits - 1))
    else finite
  | .e4m3 => if x % 128 == 127 then .nan false else finite
  | .e2m1 => finite

/-- An element of a type as an exact value. E8 codewords are read by the lattice functions, never here. -/
def DType.read (t : DType) (ftz : Bool) (x : Nat) : Val :=
  if t.isFloat then t.fmt.read ftz (x % 2 ^ t.width)
  else if t.signed then .ofInt (sx t.width x)
  else .num false (x % 2 ^ t.width) 0

/-! Rounding. -/

/-- The five modes (04 R101). -/
inductive Mode where
  | rne | rtz | rup | rdn | sto
  deriving DecidableEq, Repr

def Mode.ofCode : Nat → Mode
  | 2 => .rtz
  | 3 => .rup
  | 4 => .rdn
  | 5 => .sto
  | _ => .rne

/-- The magnitude num/den rounded to an integer, and whether it was inexact (04 R101, R102). `n` is the 16 drawn bits. -/
def roundMag (mode : Mode) (n : Nat) (neg : Bool) (num den : Nat) : Nat × Bool :=
  let lo := num / den
  let rem := num % den
  if rem == 0 then (lo, false) else
  let up : Bool := match mode with
    | .rne => 2 * rem > den || (2 * rem == den && lo % 2 == 1)
    | .rtz => false
    | .rup => !neg
    | .rdn => neg
    | .sto => n < rem * 65536 / den
  (if up then lo + 1 else lo, true)

/-- m · 2^e over 2^q, rounded. -/
def roundAt (mode : Mode) (n : Nat) (neg : Bool) (m : Nat) (e q : Int) : Nat × Bool :=
  roundMag mode n neg (m * pow2 (e - q)) (pow2 (q - e))

/-- a · 2^i ≤ b · 2^j. -/
def leScaled (a : Nat) (i : Int) (b : Nat) (j : Int) : Bool := a * pow2 (i - j) ≤ b * pow2 (j - i)

/-- A magnitude r · 2^q that the format represents, as exponent and fraction fields. -/
def Fmt.pack (f : Fmt) (r : Nat) (q : Int) : Nat :=
  if r == 0 then 0 else
  let top := Nat.log2 r
  let e : Int := top + q
  if e < f.emin then r * pow2 (q - (f.emin - f.fbits))
  else
    let mant := if top ≤ f.fbits then r * 2 ^ (f.fbits - top) else r / 2 ^ (top - f.fbits)
    (e + f.bias).toNat * 2 ^ f.fbits + (mant - 2 ^ f.fbits)

def Fmt.maxBits (f : Fmt) (neg : Bool) : Nat := f.signBit neg + f.pack f.maxFinite.1 f.maxFinite.2

/-- The delivered result and flags of an overflow, or of an infinity in a format without one (04 R100, R103, R106). -/
def Fmt.overflow (f : Fmt) (mode : Mode) (sat neg : Bool) : Nat × Flags :=
  let away : Bool := match mode with
    | .rne | .sto => true
    | .rtz => false
    | .rup => !neg
    | .rdn => neg
  let fl := Flags.ovf ||| Flags.nx
  match f.kind with
  | .e2m1 => (f.maxBits neg, fl ||| Flags.sat)
  | .e4m3 => if !away then (f.maxBits neg, fl) else if sat then (f.maxBits neg, fl ||| Flags.sat) else (f.canonNaN, fl)
  | .ieee _ => if !away then (f.maxBits neg, fl) else if sat then (f.maxBits neg, fl ||| Flags.sat) else (f.infBits neg, fl)

/-- How an instruction rounds: its mode, SAT, and whether FTZ applies. -/
structure RCtl where
  mode : Mode
  sat : Bool
  ftz : Bool
  deriving DecidableEq, Repr

def RCtl.rne : RCtl := ⟨.rne, false, false⟩

/-- RoundFP: an exact value rounded once to a format, with the flags of 04 R105. -/
def roundFP (f : Fmt) (c : RCtl) (n : Nat) (v : Val) : Nat × Flags :=
  match v with
  | .nan s => (f.canonNaN, if f.kind == .e2m1 then Flags.nv else Flags.when s Flags.nv)
  | .inf neg =>
    match f.kind with
    | .ieee _ => if c.sat then (f.maxBits neg, Flags.sat) else (f.infBits neg, 0)
    | _ => f.overflow c.mode c.sat neg
  | .num neg m e =>
    if m == 0 then (f.signBit neg, 0) else
    let ex : Int := Nat.log2 m + e
    let q := max ex f.emin - f.fbits
    let (r, inexact) := roundAt c.mode n neg m e q
    if !leScaled r q f.maxFinite.1 f.maxFinite.2 then f.overflow c.mode c.sat neg else
    let tiny : Bool := ex < f.emin && inexact &&
      (roundAt c.mode n neg m e (ex - f.fbits)).1 < pow2 (f.emin - (ex - f.fbits))
    let fl := Flags.when inexact Flags.nx ||| Flags.when tiny Flags.unf
    if c.ftz && f.flushable && 0 < r && r < 2 ^ f.fbits then (f.signBit neg, fl ||| Flags.unf ||| Flags.nx)
    else (f.signBit neg + f.pack r q, fl)

/-- An exact value converted to an integer of w bits (04 R107); one that is clamped sets no inexact flag (log 19). -/
def roundInt (mode : Mode) (n w : Nat) (signed : Bool) (v : Val) : Nat × Flags :=
  let lo : Int := if signed then -(2 ^ (w - 1) : Nat) else 0
  let hi : Int := if signed then (2 ^ (w - 1) : Nat) - 1 else (2 ^ w : Nat) - 1
  match v with
  | .nan _ => (0, Flags.nv)
  | .inf neg => (wrap w (if neg then lo else hi), Flags.nv ||| Flags.sat)
  | .num neg m e =>
    let (r, inexact) := roundAt mode n neg m e 0
    let x : Int := if neg then -(r : Int) else r
    if x < lo then (wrap w lo, Flags.nv ||| Flags.sat)
    else if hi < x then (wrap w hi, Flags.nv ||| Flags.sat)
    else (wrap w x, Flags.when inexact Flags.nx)

/-! Exact arithmetic on values. The flags are the invalid flag of the operation and of signalling inputs. -/

/-- The sum of a list of exact values (04 R99, R105): one NaN rule, one infinity rule, and the sign of an exact zero. -/
def sumVals (mode : Mode) (l : List Val) : Val × Flags :=
  let fl := Flags.when (l.any Val.isSig) Flags.nv
  if l.any Val.isNaN then (.nan false, fl)
  else if l.any fun v => v.isInf then
    if (l.any fun v => v.isInf && v.neg) && (l.any fun v => v.isInf && !v.neg) then (.nan false, fl ||| Flags.nv)
    else (.inf (l.any fun v => v.isInf && v.neg), fl)
  else
    let e : Int := l.foldl (fun m v => min m v.exp) 0
    let s : Int := l.foldl (fun a v => a + v.mant * (pow2 (v.exp - e) : Nat)) 0
    if s == 0 then (.num (if l.all Val.neg && !l.isEmpty then true else l.any Val.neg && mode == .rdn) 0 0, fl)
    else (.num (decide (s < 0)) s.natAbs e, fl)

def mulVal (a b : Val) : Val × Flags :=
  let fl := Flags.when (a.isSig || b.isSig) Flags.nv
  match a, b with
  | .nan _, _ | _, .nan _ => (.nan false, fl)
  | .inf n, .inf k => (.inf (n != k), fl)
  | .inf n, .num k m _ => if m == 0 then (.nan false, fl ||| Flags.nv) else (.inf (n != k), fl)
  | .num k m _, .inf n => if m == 0 then (.nan false, fl ||| Flags.nv) else (.inf (n != k), fl)
  | .num n m e, .num k m' e' => (.num (n != k) (m * m') (e + e'), fl)

/-- a · b + c before rounding. -/
def fmaVal (mode : Mode) (a b c : Val) : Val × Flags :=
  let (p, fl) := mulVal a b
  let (s, fl') := sumVals mode [p, c]
  (s, fl ||| fl')

/-- 1/a with enough bits, and a sticky bit, that every rounding of a format of up to 64 bits is the rounding of the exact
quotient (06 R168). -/
def rcpVal (a : Val) : Val × Flags :=
  match a with
  | .nan s => (.nan false, Flags.when s Flags.nv)
  | .inf n => (.num n 0 0, 0)
  | .num n m e =>
    if m == 0 then (.inf n, Flags.dz) else
    let k := Nat.log2 m + 160
    let q := 2 ^ k / m
    let sticky := if 2 ^ k % m == 0 then 0 else 1
    (.num n (2 * q + sticky) (-e - k - 1), 0)

/-- √a likewise. -/
def sqrtVal (a : Val) : Val × Flags :=
  match a with
  | .nan s => (.nan false, Flags.when s Flags.nv)
  | .inf n => if n then (.nan false, Flags.nv) else (.inf false, 0)
  | .num n m e =>
    if m == 0 then (.num n 0 0, 0)
    else if n then (.nan false, Flags.nv)
    else
      let m' := m * 2 ^ (320 + (e % 2).toNat)
      let e' := e - 320 - e % 2
      let r := isqrt m'
      let sticky := if r * r == m' then 0 else 1
      (.num false (2 * r + sticky) (e' / 2 - 1), 0)

/-- Three-way comparison of values that are no NaNs, −0 equal to +0 (06 R162). -/
def cmpVal (a b : Val) : Ordering :=
  match a, b with
  | .inf n, .inf k => if n == k then .eq else if n then .lt else .gt
  | .inf n, _ => if n then .lt else .gt
  | _, .inf k => if k then .gt else .lt
  | a, b =>
    let e := min a.exp b.exp
    compare (a.mant * pow2 (a.exp - e)) (b.mant * pow2 (b.exp - e))

/-- The conditions of FSETP and DSETP (06 R162), by COND 0 to 7, and the invalid flag. -/
def fCond (cond : Nat) (a b : Val) : Bool × Flags :=
  let un := a.isNaN || b.isNaN
  let sig := Flags.when (a.isSig || b.isSig) Flags.nv
  let o := cmpVal a b
  match cond with
  | 0 => (!un && o == .eq, sig)
  | 1 => (un || o != .eq, sig)
  | 2 => (!un && o == .lt, sig ||| Flags.when un Flags.nv)
  | 3 => (!un && o != .gt, sig ||| Flags.when un Flags.nv)
  | 4 => (!un && o == .gt, sig ||| Flags.when un Flags.nv)
  | 5 => (!un && o != .lt, sig ||| Flags.when un Flags.nv)
  | 6 => (!un, sig)
  | _ => (un, sig)

/-- A value that a format represents, as its bits: nothing is rounded, and a NaN is canonical (06 R169). -/
def Fmt.exactBits (f : Fmt) (v : Val) : Nat := (roundFP f .rne 0 v).1

/-- FMIN and FMAX (06 R169): a NaN is missing, −0 is below +0, the result is one of the operands. -/
def minMax (f : Fmt) (isMax : Bool) (a b : Val) : Nat × Flags :=
  let fl := Flags.when (a.isSig || b.isSig) Flags.nv
  let less : Bool := match cmpVal a b with
    | .lt => true
    | .gt => false
    | .eq => a.neg && !b.neg
  let r := if a.isNaN then b else if b.isNaN then a else if less != isMax then a else b
  (f.exactBits r, fl)

/-- FCLASS's one-hot class (06 R170), read before any flush. -/
def classOf (f : Fmt) (x : Nat) : Nat :=
  match f.read false x with
  | .nan s => if s then 1 else 2
  | .inf n => if n then 4 else 512
  | .num n m _ =>
    let sub := bits x (f.ebits + f.fbits - 1) f.fbits == 0
    if m == 0 then (if n then 32 else 64)
    else if sub then (if n then 16 else 128)
    else if n then 8 else 256

/-- An exact integer in a type that wraps, or saturates under SAT (04 R97). -/
def fitInt (dst : DType) (sat : Bool) (y : Int) : Nat × Flags :=
  let lo : Int := if dst.signed then -(2 ^ (dst.width - 1) : Nat) else 0
  let hi : Int := if dst.signed then (2 ^ (dst.width - 1) : Nat) - 1 else (2 ^ dst.width : Nat) - 1
  if sat && y < lo then (wrap dst.width lo, Flags.sat)
  else if sat && hi < y then (wrap dst.width hi, Flags.sat)
  else (wrap dst.width y, 0)

/-- A conversion of one element between types 0 to 15 (04 R106, R107; 06 R173): the source pattern to the destination
pattern. Between identical floating types the value passes through; SAT replaces an infinity there too (04 R103). Between integers
widening is exact, and SAT acts where the destination is not wider (log 19). -/
def convert (src dst : DType) (c : RCtl) (n : Nat) (x : Nat) : Nat × Flags :=
  let v := src.read c.ftz x
  if dst.isFloat then roundFP dst.fmt c n v
  else if src.isFloat then roundInt c.mode n dst.width dst.signed v
  else fitInt dst (c.sat && dst.width ≤ src.width) v.mant

end Sys2Proof
end

