-- ==== Sys2Proof/Machine/Operands.lean ====
section
/-! DEFINITION. Operands: what each operand code reads and writes on a team (05 R137 to R141) and on the control thread (R140),
execution masks, write masks, random streams (06 R185), and the registers an instruction writes (05 R132). -/

namespace Sys2Proof.Machine

open Sys2Proof

/-- The threads of a mask, ascending. -/
def threadsOf (n : Nat) (m : TMask) : List Nat := (List.range n).filter fun t => m.getLsbD t

/-- A mask of one thread. -/
def bitMask (t : Nat) : TMask := BitVec.ofNat 1024 (2 ^ t)

/-- The mask of the threads of a list. -/
def maskOfList (l : List Nat) : TMask := l.foldl (fun m t => m ||| bitMask t) 0

/-- Threads 0 to n − 1. -/
def fullMask (n : Nat) : TMask := BitVec.ofNat 1024 (2 ^ n - 1)

/-! Registers of a team. -/

def Team.vreg (t : Team) (tid r : Nat) : W32 := t.v.get 0 (512 * tid + r)

def Team.setV (t : Team) (tid r : Nat) (x : W32) : Team := { t with v := t.v.put 0 (512 * tid + r) x }

def Team.sreg (t : Team) (r : Nat) : W32 := t.s.get 0 r

def Team.setS (t : Team) (r : Nat) (x : W32) : Team := { t with s := t.s.put 0 r x }

/-- Predicate n as a mask of threads. -/
def Team.preg (t : Team) (n : Nat) : TMask := t.p.get 0 n

def Team.setP (t : Team) (n : Nat) (m : TMask) : Team := { t with p := t.p.put 0 n m }

def Team.setPbit (t : Team) (tid n : Nat) (b : Bool) : Team :=
  t.setP n (if b then t.preg n ||| bitMask tid else t.preg n &&& ~~~ bitMask tid)

def Team.flag (t : Team) (i : Nat) : Nat := t.w.get 0 i

def Team.setFlag (t : Team) (i n : Nat) : Team := { t with w := t.w.put 0 i n }

/-- A set of completion flags is all zero (05 R127). -/
def Team.flagsZero (t : Team) (mask : Nat) : Bool := (List.range 12).all fun i => !bitAt mask i || t.flag i == 0

def Team.addTsr (t : Team) (f : Flags) : Team := { t with tsr := t.tsr ||| BitVec.ofNat 32 f }

def Team.applyWrite (t : Team) (x : RegWrite) : Team :=
  match x with
  | .v tid r y => t.setV tid r y
  | .s r y => t.setS r y
  | .p tid n b => t.setPbit tid n b
  | .k _ _ | .word _ _ => t

/-! Sources. -/

/-- A special of a team (05 R138). -/
def readSpecial (s : State) (core : Nat) (t : Team) (tid : Nat) (x : Special) : Nat :=
  match x with
  | .tid => tid
  | .wafer => tid / 32
  | .team => t.index
  | .gang => t.lin
  | .core => core
  | .cluster => coreCluster core
  | .die => coreDie core
  | .vd => match s.teamCx t with | some c => c.vd | none => 0
  | .ctx => match s.teamCx t with | some c => c.ctx | none => 0
  | .role => t.role
  | .clk => (s.coreOf core).clk % 2 ^ 32
  | .clkh => (s.coreOf core).clk / 2 ^ 32 % 2 ^ 32
  | .win => s.win % 2 ^ 32

/-- A 32-bit source of a thread. -/
def rd32 (s : State) (core : Nat) (t : Team) (tid : Nat) (x : Opd) : Nat :=
  match x with
  | .v n => (t.vreg tid n).toNat
  | .s n => (t.sreg n).toNat
  | .p n => boolNat ((t.preg n).getLsbD tid)
  | .sp y => readSpecial s core t tid y
  | .lit n => n
  | .z => 0
  | .k _ => 0
  | .raw _ => 0

/-- A 64-bit source: an even pair, or a value zero-extended. -/
def rd64 (s : State) (core : Nat) (t : Team) (tid : Nat) (x : Opd) : Nat :=
  match x with
  | .v n => (t.vreg tid n).toNat + 2 ^ 32 * (t.vreg tid (n + 1)).toNat
  | .s n => (t.sreg n).toNat + 2 ^ 32 * (t.sreg (n + 1)).toNat
  | x => rd32 s core t tid x

def rdW (s : State) (core : Nat) (t : Team) (wide : Bool) (tid : Nat) (x : Opd) : Nat :=
  if wide then rd64 s core t tid x else rd32 s core t tid x

/-- IMM32 where it stands for B: sign-extended in a 64-bit integer position (05 R135). -/
def immB (w : Ins) (wide : Bool) : Nat :=
  if wide then wrap 64 (sx 32 w.imm.toNat) else w.imm.toNat % 2 ^ 32

/-- Operand B, or the literal of the 128-bit form. -/
def rdB (s : State) (core : Nat) (t : Team) (w : Ins) (wide : Bool) (tid : Nat) : Nat :=
  if w.litB then immB w wide else rdW s core t wide tid w.b

/-- A 64-bit operand of the control thread (05 R140). -/
def rdK (s : State) (core : Nat) (x : Opd) : Nat :=
  let c := s.ctl core
  match x with
  | .k n => (c.k.get 0 n).toNat
  | .lit n => n
  | .sp y => match y with
    | .core => core
    | .cluster => coreCluster core
    | .die => coreDie core
    | .vd => match c.owner with | some o => o.vd | none => 0
    | .ctx => match c.owner with | some o => o.ctx | none => 0
    | .clk => (s.coreOf core).clk % 2 ^ 32
    | .clkh => (s.coreOf core).clk / 2 ^ 32 % 2 ^ 32
    | .win => s.win % 2 ^ 32
    | _ => 0
  | _ => 0

def Ctl.setK (c : Ctl) (r : Nat) (x : Nat) : Ctl := { c with k := c.k.put 0 r (BitVec.ofNat 64 x) }

/-- A write of a control-thread destination; z discards it. -/
def State.writeK (s : State) (core : Nat) (d : Opd) (x : Nat) : State :=
  match d with
  | .k r => s.setCtl core ((s.ctl core).setK r x)
  | _ => s

/-! Masks. -/

/-- The guard predicate; all threads where there is none (05 R141). -/
def Team.guardMask (t : Team) (w : Ins) : TMask :=
  match w.guard with
  | some n => t.preg n
  | none => BitVec.allOnes 1024

/-- The write-mask predicate; all threads where there is none. -/
def Team.writeMask (t : Team) (w : Ins) : TMask :=
  match w.wmask with
  | some n => t.preg n
  | none => BitVec.allOnes 1024

/-! Destinations. -/

/-- One thread's write of n registers from r: values where the write mask is 1, zeros under POL zero, else nothing (05 R141). -/
def Team.writeRun (t : Team) (wm : TMask) (zero : Bool) (tid r : Nat) (xs : List Nat) : Team :=
  if wm.getLsbD tid then
    (xs.zipIdx).foldl (fun t (x, i) => t.setV tid (r + i) (BitVec.ofNat 32 x)) t
  else if zero then
    (xs.zipIdx).foldl (fun t (_, i) => t.setV tid (r + i) 0) t
  else t

/-- A value as one register or as a pair, low half first. -/
def halves (wide : Bool) (x : Nat) : List Nat := if wide then [x % 2 ^ 32, x / 2 ^ 32 % 2 ^ 32] else [x % 2 ^ 32]

/-- The destination of a 32-bit or 64-bit result: per thread in a v register, once in an s register, nowhere in z. -/
def Team.writeD (t : Team) (w : Ins) (wide : Bool) (vals : List (Nat × Nat)) : Team :=
  match w.d with
  | .v r =>
    let wm := t.writeMask w
    vals.foldl (fun t (tid, x) => t.writeRun wm w.zero tid r (halves wide x)) t
  | .s r => match vals with
    | (_, x) :: _ => ((halves wide x).zipIdx).foldl (fun t (y, i) => t.setS (r + i) (BitVec.ofNat 32 y)) t
    | [] => t
  | _ => t

/-- One thread's write of a predicate under the write mask and policy. -/
def Team.writePbit (t : Team) (wm : TMask) (zero : Bool) (tid n : Nat) (b : Bool) : Team :=
  if wm.getLsbD tid then t.setPbit tid n b else if zero then t.setPbit tid n false else t

/-- A predicate destination. -/
def Team.writeP (t : Team) (w : Ins) (n : Nat) (vals : List (Nat × Bool)) : Team :=
  let wm := t.writeMask w
  vals.foldl (fun t (tid, b) => t.writePbit wm w.zero tid n b) t

/-- A compare pair: q and its complement (06 R162). -/
def Team.writePair (t : Team) (w : Ins) (n : Nat) (vals : List (Nat × Bool)) : Team :=
  let wm := t.writeMask w
  vals.foldl (fun t (tid, b) => (t.writePbit wm w.zero tid n b).writePbit wm w.zero tid (n + 1) (!b)) t

/-! Random streams (06 R185). -/

def seedOf (lin index tid : Nat) : W64 := BitVec.ofNat 64 (((lin * 64 + index) * 1024 + tid) * 0x9E3779B97F4A7C15)

def Team.rand (t : Team) (tid : Nat) : W64 := (t.rng.get? tid).getD (seedOf t.lin t.index tid)

def Team.setRand (t : Team) (tid : Nat) (x : W64) : Team := { t with rng := t.rng.set tid x }

/-- One step of a stream: the new state and Next32. -/
def next32 (old : W64) : W64 × W32 :=
  let new := old * 0x5851F42D4C957F2D + 0x14057B7EF767814F
  let x : W32 := (((old >>> 18) ^^^ old) >>> 27).setWidth 32
  let n := (old >>> 59).toNat
  (new, (x >>> n) ||| (x <<< ((32 - n) % 32)))

/-- n successive draws. -/
def drawMany : Nat → W64 → W64 × List W32
  | 0, st => (st, [])
  | n + 1, st =>
    let (st, x) := next32 st
    let (st, xs) := drawMany n st
    (st, x :: xs)

/-! Rounding control (05 R134, 06 R158). -/

def Team.mode (t : Team) (w : Ins) : Mode := Mode.ofCode (if w.rnd == 0 then t.fpc.toNat % 8 else w.rnd)

def Team.rctl (t : Team) (w : Ins) : RCtl := ⟨t.mode w, w.sat, t.fpc.getLsbD 3 || w.ftz⟩

/-! Registers that an instruction writes, as operand codes, for the writer's wait of 05 R132. -/

def codesFrom (c n : Nat) : List Nat := (List.range n).map (c + ·)

/-- How many registers a destination spans. -/
def dstSpan (o : Op) (w : Ins) (threads : Nat) : Nat :=
  match o with
  | .ld | .ldu => (memRegs w).getD 1
  | .atom => if (w.ty.getD .n8).width == 64 then 2 else 1
  | .call | .callx | .dqpop | .mnext | .movi64 | .lea | .dadd | .dmul | .dfma | .dmin | .dmax | .drcp => 2
  | .crr => if crWide (w.m 53 49) then 2 else 1
  | .mov | .sel | .and | .or | .xor | .andn | .not | .shl | .shr | .sar | .rot | .popc | .clz | .brev | .bfi | .shfl
  | .bcast => if w.mb 49 then 2 else 1
  | .iadd | .isub | .imul | .imulh | .imad | .imin | .imax | .bfe | .iabs | .ineg | .iaddc | .redux | .scan =>
    if w.wideT then 2 else 1
  | .cvt => if (w.ty.getD .n8).width == 64 then 2 else 1
  | .lqd => if w.ty == some .f16 then 4 else 8
  | .mrecv | .hitr => 8
  | .texs => 2 ^ w.m 50 49
  | .hgl => 4 * (w.m 56 53 + 1)
  | .resq => 2
  | .mrd => ceilDiv 256 threads
  | _ => 1

def dstCodes (o : Op) (w : Ins) (threads : Nat) : List Nat :=
  let main := match o, w.d with
    | .st, _ => []
    | .pmovSel, _ => []
    | _, .v r => codesFrom r (dstSpan o w threads)
    | _, .s r => codesFrom (0x200 + r) (dstSpan o w threads)
    | _, .p n => if o == .plop then [0x240 + n] else [0x240 + n, 0x241 + n]
    | _, _ => []
  match o with
  | .pmovSel => ((List.range 12).filter (bitAt (w.m 61 50))).map (0x240 + ·)
  | .iaddc => if w.xm 88 85 == 0 then main else (0x23F + w.xm 88 85) :: main
  | .texs | .resq => match w.c with
    | .p n => [0x240 + n, 0x241 + n] ++ main
    | _ => main
  | _ => main

end Sys2Proof.Machine
end

