-- ==== Sys2Proof/Machine/Issue.lean ====
section
/-! DEFINITION. How a team instruction issues (05 R127, R131, R132, R141, R145; 06 R157; 07 R198): the one wrapper around every
meaning of the team side, and the position, quantum and transfer operations it uses. -/

namespace Sys2Proof.Machine

open Sys2Proof Host

/-- The instruction about to issue: its team, running split and place. -/
structure Site where
  core : Nat
  slot : Nat
  entry : Nat
  team : Team
  split : Split
  pos : ClausePos

/-- Address of the instruction. -/
def Site.pc (si : Site) : Nat := si.pos.base + si.pos.off

/-- The team may issue: not stopped, or stepped once (07 R217, R220). -/
def Team.mayIssue (t : Team) : Bool := (!t.stops.fault && !t.stops.debug) || t.stops.step

/-- The gang holds its teams: gang-stop mode, context fault handling of another team, or remote loads that are to return before
it is saved (08 R244). -/
def State.gangHeld (s : State) (t : Team) : Bool :=
  match s.gang? t.gang with
  | some g => g.stopMode || g.faultStop || g.toSave
  | none => false

def State.teamRuns (s : State) (t : Team) : Bool := t.mayIssue && (t.stops.step || !s.gangHeld t)

/-- The running split of the acting team, inside a clause and not blocked. -/
def State.site? (s : State) : Option Site :=
  match s.cur with
  | some (.team core slot) =>
    match s.team? core slot with
    | some t =>
      if !s.teamRuns t then none else
      match t.running with
      | some e =>
        match t.splits.get? e with
        | some sp =>
          match sp.clause with
          | some pos => if sp.wait == .none then some { core := core, slot := slot, entry := e, team := t, split := sp, pos := pos }
              else none
          | none => none
        | none => none
      | none => none
    | none => none
  | _ => none

/-- What a meaning asks of the wrapper. -/
inductive Issue where
  /-- The instruction is done; the split goes on behind it. -/
  | done (s : State)
  /-- The meaning has placed the split itself. -/
  | flow (s : State)
  /-- A trap, precise at the instruction. -/
  | trap (x : Trap)
  /-- A trap that leaves something in the team: the reason of a matrix trap (10 R303). -/
  | trapWith (f : Team → Team) (x : Trap)
  /-- A failed translation: a record of this kind and access for this address goes to Renweaz, and the split waits. `addr` is
  TADDR if it becomes PAGE. -/
  | fault (kind access va addr : Nat)
  /-- The split blocks at the instruction (false) or behind it (true). -/
  | block (s : State) (w : Wait) (after : Bool)
  /-- The instruction waits at issue. -/
  | hold

/-- Counts an issue of the split (07 R198) and of the team (03 R93). -/
def Team.count (t : Team) (si : Site) (s : State) : Team :=
  { t with splits := t.splits.alter si.entry fun p => { p with quantum := p.quantum + 1 }
           lastIssue := s.ns
           lastClk := (s.coreOf si.core).clk
           promoted := false
           stops := if t.stops.step then { t.stops with step := false, debug := true } else t.stops }

/-- The split goes on behind an instruction of `size` bytes: inside its clause, or at the next one (05 R128, 07 R196). -/
def Team.stepOver (t : Team) (e : Nat) (pos : ClausePos) (size : Nat) : Team :=
  t.standAt e (pos.advance size)

/-- Blocks a split: its turn ends. -/
def Team.blockSplit (t : Team) (e : Nat) (w : Wait) : Team :=
  Team.pass { t with splits := t.splits.alter e fun p => { p with wait := w } } e

def State.updTeam (s : State) (core slot : Nat) (f : Team → Team) : State :=
  match s.team? core slot with
  | some t => s.setTeam core slot (f t)
  | none => s

/-- Where a trap of this instruction stands; it goes on behind it where AFTER is 1. -/
def Site.trapAt (si : Site) (after : Bool) (size : Nat) : TrapAt :=
  { core := si.core, slot := si.slot, entry := si.entry, pc := si.pc
    resume := some (if after then si.pos.advance size else si.pos) }

/-- The acting team raises a trap at this instruction. -/
def State.trapSite (s : State) (si : Site) (x : Trap) (size : Nat) : State :=
  s.raise (si.team.count si s) x (si.trapAt x.after size)

/-- Sends the fault record of a team's access, or waits while the queue is full (02 R49). -/
def State.faultSite (s : State) (si : Site) (kind access va addr : Nat) : State :=
  match s.teamCx si.team with
  | none => s
  | some cx =>
    if s.faultRoom (coreDie si.core) then
      let (id, s) := s.postFault { va := va, cx := cx, core := si.core, slot := si.slot, kind := kind, access := access, clk := 0
                                   who := .team si.team.gang si.team.index si.entry, addr := addr }
      s.updTeam si.core si.slot fun t => t.blockSplit si.entry (.fault id)
    else s.updTeam si.core si.slot fun t => t.blockSplit si.entry (.faultFull kind access va addr)

/-- The completion flag that FSEL selects (05 R131). -/
def Site.flagOf (si : Site) (w : Ins) : Option Nat := if w.fsel then si.pos.hdr.setB else si.pos.hdr.setA

/-- A destination is still pending from a long-latency instruction (05 R132). -/
def Team.pendingDst (t : Team) (codes : List Nat) : Bool := t.pend.any fun p => p.dst.any codes.contains

/-- The selected flag stands at 63 (05 R131). -/
def Site.flagFull (si : Site) (o : Op) (w : Ins) : Bool :=
  o.long w && match si.flagOf w with
    | some f => 63 ≤ si.team.flag f
    | none => false

/-- What WINW holds back in every split of its team (08 R245). -/
def afterWinw (o : Op) : Bool :=
  match o with
  | .ld | .st | .ldu | .atom | .red | .cctl | .msend | .mrecv | .cjoin | .cleave | .cbar | .dqpop | .cpkick | .mfetch | .mlist
  | .texs | .hgl | .resq | .rays | .pxout => true
  | _ => false

/-- What follows every access that its issuer made before: it waits while one of them waits for a channel in bank mode. -/
def afterAll (o : Op) : Bool :=
  match o with
  | .msend | .mrecv | .cjoin | .cleave | .cbar | .dqpop | .cpkick | .mfetch | .mlist | .mst | .texs | .hgl | .resq | .rays
  | .dqpush | .launch | .khalt | .tclose | .tlpub | .trstat | .sred | .sbank | .svb | .smac | .sacc | .sbexit | .draw
  | .rstate | .rclear | .rresolve | .rsync => true
  | _ => false

/-- A split of the team waits in WINF, or in WINW. -/
def Team.waitsIn (t : Team) (w : Wait) : Bool := t.splits.any fun x => x.2.wait == w

/-- The instruction is held at issue: a pending destination, a full flag, or a WINW of the team. -/
def Site.heldBack (si : Site) (o : Op) (w : Ins) (e : TMask) : Bool :=
  e != 0 && ((afterWinw o && si.team.waitsIn .winw) || si.team.pendingDst (dstCodes o w si.team.threads) || si.flagFull o w)

/-- Registers that an image of n words spans (R293). -/
def imageRegs (threads words : Nat) : Nat := ceilDiv words threads

/-- The registers of an image lie below the allotment. -/
def Team.imageFits (t : Team) (first words : Nat) : Bool := first + imageRegs t.threads words ≤ t.regs

/-- The 1 KiB image of MRD or MWR reaches past the allotment (10 R293). -/
def Team.imageBad (t : Team) (o : Op) (w : Ins) : Bool :=
  match o, w.d, w.a with
  | .mrd, .v d, _ => !t.imageFits d 256
  | .mwr, _, .v a => !t.imageFits a 256
  | _, _, _ => false

/-- The checks of 05 R145 that need the team or the clause: the allotment, and a set-flag for a long-latency instruction. -/
def Site.illegal (si : Site) (o : Op) (w : Ins) : Bool :=
  (o.check .team si.team.regs w).isSome || si.team.imageBad o w || (o.long w && (si.flagOf w).isNone)

/-- Execution mask (05 R141). -/
def Site.exec (si : Site) (w : Ins) : TMask := si.split.mask &&& si.team.guardMask w

/-- The instruction is over: the issue is counted and the split goes on behind it. -/
def State.retireIns (s : State) (si : Site) (size : Nat) : State :=
  s.updTeam si.core si.slot fun t => (t.count si s).stepOver si.entry si.pos size

/-- Carries out what a meaning asks. -/
def State.finish (s : State) (si : Site) (size : Nat) (r : Issue) : State :=
  match r with
  | .done s' => s'.retireIns si size
  | .flow s' => s'
  | .trap x => s.trapSite si x size
  | .trapWith f x => s.trapSite { si with team := f si.team } x size
  | .fault kind access va addr => s.faultSite si kind access va addr
  | .block s' w after =>
    s'.updTeam si.core si.slot fun t =>
      ((if after then (t.count si s).stepOver si.entry si.pos size else t).blockSplit si.entry w)
  | .hold => s

/-- One instruction of the acting team: checks at decode first (05 R145), then the waits at issue, then the empty mask (06 R157),
then the meaning. `closing` meanings run with an empty mask too: every thread goes to the next clause (07 R223). -/
def issueTeam (o : Op) (w : Ins) (s : State) (body : Site → TMask → Issue) : Outcome State Fault Refusal :=
  match s.site? with
  | none => .refused .noAgent
  | some si =>
    if si.illegal o w then .next (s.trapSite si (.mk0 clsILLOP) w.len.size)
    else if si.exec w != 0 && (si.heldBack o w (si.exec w) || (afterAll o && s.stuck si.team.pend)) then .next s
    else if si.exec w == 0 && !o.closing then .next (s.retireIns si w.len.size)
    else .next (s.finish si w.len.size (body si (si.exec w)))

/-! Transfers of control (07 R192, R193). -/

/-- The groups of a transfer: those that fall through first, then one for each target, by lowest thread. -/
def transferGroups (threads : Nat) (mask e : TMask) (next : Nat) (target : Nat → Nat) : List (Nat × TMask) :=
  let rest := mask &&& ~~~ e
  let byTarget := (threadsOf threads e).foldl
    (fun (l : List (Nat × TMask)) t =>
      if l.any (fun g => g.1 == target t) then
        l.map fun g => if g.1 == target t then (g.1, g.2 ||| bitMask t) else g
      else l ++ [(target t, bitMask t)]) []
  (if rest == 0 then [] else [(next, rest)]) ++ byTarget

/-- The join reference of the groups: a fresh record of BRD and BRXD, else the split's own, whose PEND rises. -/
def Team.joinRef (t : Team) (j : Option Nat) (rb : Option Nat) (n : Nat) : Option Nat × Team :=
  match rb, t.joins.free 32 with
  | some rb, some q => (some q, { t with joins := t.joins.set q { rb := rb, pend := n, mask := 0, outer := j } })
  | _, _ => match j with
    | some q => (some q, { t with joins := t.joins.alter q fun x => { x with pend := x.pend + (n - 1) } })
    | none => (none, t)

/-- Places the further groups: the lowest free entries, then the spill stack, the last group first. -/
def Team.placeGroups (t : Team) (j : Option Nat) : List (Nat × TMask) → Team
  | [] => t
  | (pc, m) :: gs =>
    match t.splits.free 16 with
    | some e =>
      Team.placeGroups { t with splits := t.splits.set e { pc := pc, mask := m, join := j, quantum := 0, limit := 0, yield := false
                                                           clause := none, wait := .none } } j gs
    | none => { t with spill := ((pc, m) :: gs).map (fun g => { pc := g.1, mask := g.2, join := j }) ++ t.spill }

/-- A split at entry e leaves its clause in the given groups. -/
def Team.transfer (t : Team) (e : Nat) (groups : List (Nat × TMask)) (rb : Option Nat) (yield : Bool) : Team :=
  match groups with
  | [] => t
  | [(pc, _)] => t.clauseDone e pc yield
  | (pc, m) :: rest =>
    let j₀ := (t.splits.get? e).bind (·.join)
    let (j, t) := t.joinRef j₀ rb groups.length
    let t := { t with splits := t.splits.alter e fun p => { p with mask := m, join := j } }
    (t.placeGroups j rest).clauseDone e pc yield

/-- A transfer by the acting split: counted, then made. -/
def State.transferTo (s : State) (si : Site) (e : TMask) (rb : Option Nat) (target : Nat → Nat) : State :=
  s.updTeam si.core si.slot fun t =>
    (t.count si s).transfer si.entry
      (transferGroups t.threads si.split.mask e si.pos.next target) rb si.pos.hdr.yield

end Sys2Proof.Machine
end

