-- ==== Sys2Proof/Machine/Access.lean ====
section
/-! DEFINITION. Accesses to the five spaces: reach, checks in the order of 08 R236, and performing issued accesses in the
total order (02 R34, R35, R49, R52, R58; 08 R235 to R239, R244). -/

namespace Sys2Proof.Machine

open Sys2Proof

/-- SPACE codes of 08 R233. -/
def spaceOf (c : Nat) : Space :=
  match c with
  | 0 => .g
  | 1 => .s
  | 2 => .c
  | 3 => .x
  | _ => .l

/-- An access kind with its number in a fault record (02 R49). -/
inductive Acc where
  | load | store | atomic | cctl
  deriving DecidableEq, Repr

def Acc.code : Acc → Nat
  | .load => 1
  | .store => 2
  | .atomic => 3
  | .cctl => 1

/-- The access writes. -/
def Acc.writes : Acc → Bool
  | .store | .atomic => true
  | _ => false

/-- What one thread wants: an exact effective address, a length and an alignment. `base` is the thread's ea, from which a further
point of an E8 access lies (08 R237). -/
structure Want where
  tid : Nat
  ea : Int
  len : Nat
  align : Nat
  base : Int := ea
  deriving DecidableEq, Repr

/-- Why an access is denied. -/
inductive Denied where
  | trap (x : Trap)
  | fault (kind va addr : Nat)
  deriving DecidableEq, Repr

/-- The reach of a team (02 R34, R36). -/
def State.reachOf (s : State) (t : Team) : Option Reach :=
  match s.gang? t.gang, s.launchOf t with
  | some g, some l =>
    some { cx := l.cx, gang := t.gang, member := t.member, size := g.size, scratch := l.record.scratch * 4096
           priv := l.record.priv * 16
           privBase := l.record.scratch * 4096 + (t.index % l.record.teams) * l.record.threads * l.record.priv * 16
           ctl := none }
  | _, _ => none

/-- The chip-scratchpad allotment of a context on a die, in bytes (02 R36). -/
def State.chipBytes (s : State) (cx : CtxId) (die : Nat) : Nat :=
  match s.ctx? cx with
  | some c => c.chip.get 0 die * 65536
  | none => 0

/-- The reach of a core's control thread (09 R259). -/
def ctlReach (core : Nat) (cx : CtxId) : Reach :=
  { cx := cx, gang := 0, member := 0, size := 0, scratch := 0, priv := 0, privBase := 0, ctl := some core }

/-- The allotment of a gang of the context that holds an offset of a core's scratchpad: gang, member, offset within it. -/
def State.allotAt (s : State) (core : Nat) (cx : CtxId) (a : Nat) : Option (Nat × Nat × Nat) :=
  ((s.coreOf core).allot.find? fun x => 4096 * x.2.1 ≤ a && a < 4096 * (x.2.1 + x.2.2)).bind fun x =>
    match s.gang? x.1 with
    | some g =>
      if ((s.launch? g.launch).map (·.cx)) == some cx then some (x.1, (g.cores.findIdx? (· == core)).getD 0, a - 4096 * x.2.1)
      else none
    | none => none

/-- Gang, member and offset of a .s address. -/
def State.scratchAt (s : State) (r : Reach) (a : Nat) : Option (Nat × Nat × Nat) :=
  match r.ctl with
  | some core => s.allotAt core r.cx a
  | none => some (r.gang, r.member, a)

/-- The lock space and offset of an address, where range locks can hold it (02 R55). -/
def State.lockPlace (s : State) (r : Reach) (sp : Space) (ea : Nat) : Option (LockSpace × Nat) :=
  match sp with
  | .g => some (.global, ea)
  | .s => (s.scratchAt r ea).map fun x => (.scratch (4 * x.1 + x.2.1), x.2.2)
  | .c => some (.scratch (4 * r.gang + bits ea 21 20), bits ea 19 0)
  | .x => some (.chip (bits ea 25 24), bits ea 23 0)
  | .l => none

/-- Bytes [ea, ea + n) lie wholly in reach (02 R34, 08 R235, 09 R259). -/
def State.inReach (s : State) (r : Reach) (sp : Space) (ea : Int) (n : Nat) : Bool :=
  let a := ea.toNat
  0 ≤ ea && match sp with
    | .g => a + n ≤ 2 ^ 48
    | .s => a < 2 ^ 32 && match r.ctl with
      | none => a + n ≤ r.scratch
      | some core => a + n ≤ 65536 * (s.coreOf core).spstep && (s.allotAt core r.cx a).isSome
    | .c => a < 2 ^ 22 && bits a 21 20 < r.size && bits a 19 0 + n ≤ r.scratch
    | .x => a < 2 ^ 26 && bits a 23 0 + n ≤ s.chipBytes r.cx (bits a 25 24)
    | .l => a < 2 ^ 32 && a + n ≤ r.priv

/-- The keys of an access outside .g. -/
def State.localKeys (s : State) (r : Reach) (sp : Space) (tid a n : Nat) : List Nat :=
  match sp with
  | .g => []
  | .s => match s.scratchAt r a with
    | some (g, m, off) => keysFrom (scratchKey g m off) n
    | none => []
  | .c => keysFrom (scratchKey r.gang (bits a 21 20) (bits a 19 0)) n
  | .x => keysFrom (chipKey r.cx (bits a 25 24) (bits a 23 0)) n
  | .l => keysFrom (scratchKey r.gang r.member (r.privBase + tid * r.priv + a)) n

/-- The leaves of the first and the last byte of a .g access. -/
def State.leaves (s : State) (cx : CtxId) (a n : Nat) : Except Nat (Leaf × Leaf) :=
  match s.translate cx a with
  | .error k => .error k
  | .ok l =>
    if a / 65536 == (a + n - 1) / 65536 then .ok (l, l)
    else match s.translate cx (a + n - 1) with
      | .error k => .error k
      | .ok l' => .ok (l, l')

/-- The keys of a translated access: those of its first page, then those of the next. -/
def leafKeys (a n : Nat) (l l' : Leaf) : List Nat :=
  let inFirst := min n (65536 - a % 65536)
  keysFrom l.key inFirst ++ keysFrom (l'.key + 1 - (n - inFirst)) (n - inFirst)

/-- The keys of n bytes from an address, page by page, for an engine or the dispatcher: the first fault kind and its address where
translation or permission fails. -/
def State.spanKeys (s : State) (cx : CtxId) (wr : Bool) : Nat → Nat → Nat → Except (Nat × Nat) (List Nat)
  | 0, _, _ => .ok []
  | fuel + 1, va, n =>
    if n == 0 then .ok [] else
    let here := min n (65536 - va % 65536)
    if 2 ^ 48 ≤ va then .error (kindAbsent, va) else
    match s.translate cx va with
    | .error k => .error (k, va)
    | .ok l =>
      if wr && (!l.write || l.sealed) then .error (kindReadOnly, va)
      else match State.spanKeys s cx wr fuel (va + here) (n - here) with
        | .error e => .error e
        | .ok ks => .ok (keysFrom l.key here ++ ks)

def State.span (s : State) (cx : CtxId) (va n : Nat) (wr : Bool) : Except (Nat × Nat) (List Nat) :=
  s.spanKeys cx wr (n / 65536 + 2) va n

/-- Sealed page (check 4): decided by the leaves that are found. -/
def State.sealedHit (s : State) (cx : CtxId) (a n : Nat) : Bool :=
  (match s.translate cx a with | .ok l => l.sealed | _ => false) ||
  (match s.translate cx (a + n - 1) with | .ok l => l.sealed | _ => false)

/-- Translation and the W permission (check 5): the fault kind where it fails. -/
def State.permKind (s : State) (cx : CtxId) (wr : Bool) (a n : Nat) : Option Nat :=
  match s.leaves cx a n with
  | .error k => some k
  | .ok (l, l') => if wr && !(l.write && l'.write) then some kindReadOnly else none

/-- The faulting address: the access's first byte, or the first on its second page where only that fails. -/
def State.faultVa (s : State) (cx : CtxId) (wr : Bool) (a n : Nat) : Nat :=
  match s.permKind cx wr a 1 with
  | some _ => a
  | none => alignDown (a + n - 1) 65536

def addrWord (ea : Int) : W64 := BitVec.ofInt 64 ea

/-- The first want, by thread index, that fails a check. -/
def firstBad (l : List Want) (bad : Want → Bool) : Option Want := l.find? bad

/-- A remote window is denied: an atomic kind or a cache control, a store to a read-only window, or a lost peer (08 R244, 02 R65,
16 R442). -/
def State.remoteDenied (s : State) (cx : CtxId) (acc : Acc) (a : Nat) : Bool :=
  match s.remoteOf cx a with
  | some r => acc == .atomic || acc == .cctl || (acc == .store && r.readOnly) ||
      (match s.streams.get? r.peer with | some st => st.lost | none => false)
  | none => false

/-- The place of a want that has passed every check. -/
def State.placeOf (s : State) (r : Reach) (sp : Space) (x : Want) : Place :=
  let a := x.ea.toNat
  match sp with
  | .g => match s.remoteOf r.cx a with
    | some w => .remote w.peer w.rctx (w.rbase + (a - w.vbase)) x.len
    | none => match s.leaves r.cx a x.len with
      | .ok (l, l') => .here (leafKeys a x.len l l')
      | .error _ => .here []
  | sp => .here (s.localKeys r sp x.tid a x.len)

/-- The checks of 08 R236, in their order, over all threads of an instruction; then each thread's place. -/
def State.check (s : State) (r : Reach) (sp : Space) (acc : Acc) (l : List Want) : Except Denied (List (Nat × Place)) :=
  let isRemote (x : Want) : Bool := sp == .g && (s.remoteOf r.cx x.ea.toNat).isSome
  let local' := l.filter fun x => !isRemote x
  let bad (cls : Nat) (x : Want) : Except Denied (List (Nat × Place)) := .error (.trap ⟨cls, 0, addrWord x.base⟩)
  match firstBad l fun x => x.ea % x.align != 0 with
  | some x => bad clsALIGN x
  | none =>
  match firstBad l fun x => !s.inReach r sp x.ea x.len with
  | some x => bad clsPROT x
  | none =>
  match firstBad l fun x => sp == .g && s.remoteDenied r.cx acc x.ea.toNat with
  | some x => bad clsPROT x
  | none =>
  match firstBad local' fun x => sp == .g && acc.writes && s.sealedHit r.cx x.ea.toNat x.len with
  | some x => bad clsPROT x
  | none =>
  match firstBad local' fun x => sp == .g && (s.permKind r.cx acc.writes x.ea.toNat x.len).isSome with
  | some x =>
    .error (.fault ((s.permKind r.cx acc.writes x.ea.toNat x.len).getD 0) (s.faultVa r.cx acc.writes x.ea.toNat x.len)
      x.base.toNat)
  | none =>
  match firstBad l fun x => acc != .cctl && !isRemote x && (match s.lockPlace r sp x.ea.toNat with
      | some (ls, a) => s.lockHit r.cx ls a x.len acc.writes
      | none => false) with
  | some x => bad clsRANGE x
  | none => .ok (l.map fun x => (x.tid, s.placeOf r sp x))

/-! Performing. -/

/-- The register j places of `bits` bits after a destination. -/
def RegDst.plus (d : RegDst) (j bits : Nat) : RegDst :=
  match d with
  | .v t r => .v t (r + j * (bits / 32))
  | .s r => .s (r + j * (bits / 32))
  | .k r => .k (r + j)
  | .word a => .word a

/-- Register writes of a result of `bits` bits. -/
def regWrites (d : RegDst) (bits x : Nat) : List RegWrite :=
  match d with
  | .v t r =>
    if bits == 64 then [.v t r (BitVec.ofNat 32 x), .v t (r + 1) (BitVec.ofNat 32 (x / 2 ^ 32))]
    else [.v t r (BitVec.ofNat 32 x)]
  | .s r =>
    if bits == 64 then [.s r (BitVec.ofNat 32 x), .s (r + 1) (BitVec.ofNat 32 (x / 2 ^ 32))]
    else [.s r (BitVec.ofNat 32 x)]
  | .k r => [.k r (BitVec.ofNat 64 x)]
  | .word a => [.word a (BitVec.ofNat 64 x)]

/-- A destination's writes; 0 where POL zero keeps the value from it. -/
def dstWrites (d : Option RegDst) (bits : Nat) (live : Bool) (x : Nat) : List RegWrite :=
  match d with
  | none => []
  | some r => regWrites r bits (if live then x else 0)

/-- The writes of a load's elements (08 R238). -/
def loadWrites (x : MemItem) (signed : Bool) (size count bits data : Nat) : List RegWrite :=
  (List.range count).flatMap fun j =>
    dstWrites (x.dst.map fun d => d.plus j bits) bits x.live
      (extend signed (8 * size) bits (data / 2 ^ (8 * size * j)))

/-- An atomic's new value (08 R239). -/
def atomicNew (op : Nat) (t : DType) (old b c : Nat) : Nat :=
  let w := t.width
  let sv (x : Nat) : Int := if t.signed then sx w x else (x % 2 ^ w : Nat)
  match op with
  | 0 =>
    if t.isFloat then (roundFP t.fmt .rne 0 (sumVals .rne [t.read false old, t.read false b]).1).1
    else (old + b) % 2 ^ w
  | 1 => if t.isFloat then (minMax t.fmt false (t.read false old) (t.read false b)).1 else if sv b < sv old then b else old
  | 2 => if t.isFloat then (minMax t.fmt true (t.read false old) (t.read false b)).1 else if sv old < sv b then b else old
  | 3 => old &&& b
  | 4 => old ||| b
  | 5 => old ^^^ b
  | 6 => b
  | 7 => if old == c then b else old
  | 8 => if b ≤ old then 0 else old + 1
  | _ => if old == 0 || b < old then b else old - 1

/-- The bytes of an access in the crumb of its first, and those beyond: only a point of E8L24 has such (08 R238). -/
def firstCrumb (keys : List Nat) : List Nat × List Nat :=
  let c := keys.headD 0 / 64
  (keys.filter fun k => k / 64 == c, keys.filter fun k => k / 64 != c)

/-- The bytes that a store leaves at some keys: those of its data, and the bits that stay. -/
def State.stored (s : State) (x : MemItem) (keys : List Nat) : Nat :=
  if x.keep == 0 then x.data else (s.readKeys keys &&& x.keep) ||| x.data

/-- One event of a local item: the state after it, what is left of the item, and its register writes. -/
def State.performItem (s : State) (via : Via) (act : MemAct) (x : MemItem) (keys : List Nat) :
    State × Option MemItem × List RegWrite :=
  let (k, rest) := firstCrumb keys
  match act with
  | .load sg n cnt b =>
    let (s, data) := s.loadKeys via k
    let got := x.got ++ leBytes k.length data
    if rest.isEmpty then (s, none, loadWrites x sg n cnt b (leNat got))
    else (s, some { x with place := .here rest, got := got }, [])
  | .store =>
    let s := s.storeKeys via x.thru k (s.stored x k)
    let left := { x with place := .here rest, data := x.data / 2 ^ (8 * k.length), keep := x.keep / 2 ^ (8 * k.length) }
    (s, if rest.isEmpty then none else some left, [])
  | .atomic op t ret =>
    let s := s.touch via.vd via.hint keys
    let old := s.readKeys keys
    let s := (s.writeKeys keys (atomicNew op t old x.data x.cmp)).dirtyKeys x.thru keys
    ((s.sync via.core).grantExcl via.core keys, none, if ret then dstWrites x.dst (8 * keys.length) x.live old else [])

/-- The next event of an operation: of its first local item, in thread order. Remote items are left to the transport. -/
def State.performFirst (s : State) (via : Via) (act : MemAct) : List MemItem → Option (State × List MemItem × List RegWrite)
  | [] => none
  | x :: xs =>
    match x.place with
    | .remote .. => (State.performFirst s via act xs).map fun y => (y.1, x :: y.2.1, y.2.2)
    | .here keys =>
      let (s, left, ws) := s.performItem via act x keys
      some (s, left.toList ++ xs, ws)

/-- Up to n events of an operation. -/
def State.performItems (via : Via) (act : MemAct) : Nat → State → List MemItem → List RegWrite → State × List MemItem × List RegWrite
  | 0, s, l, ws => (s, l, ws)
  | n + 1, s, l, ws =>
    match s.performFirst via act l with
    | some (s, l, new) => State.performItems via act n s l (ws ++ new)
    | none => (s, l, ws)

def MemItem.isRemote (x : MemItem) : Bool :=
  match x.place with
  | .remote .. => true
  | .here _ => false

/-- What an operation is once local accesses of it are left or all are performed: a finished store leaves nothing. -/
def Pend.after (p : Pend) (act : MemAct) (hint : Nat) (items : List MemItem) (ws : List RegWrite) : Option Pend :=
  if items.any fun x => !x.isRemote then some { p with work := .mem act hint items ws }
  else match act with
    | .load sg n cnt b => some { p with work := if items.isEmpty then .results ws 0 else .remote sg n cnt b items ws }
    | .store => none
    | .atomic _ _ ret => if ret then some { p with work := .results ws 0 } else none

/-- Up to n events of an issued operation take their place in the order now. -/
def State.performSome (s : State) (n core vd : Nat) (p : Pend) : State × Option Pend :=
  match p.work with
  | .mem act hint items ws =>
    let (s, items, ws) := State.performItems ⟨core, vd, hint⟩ act n s items ws
    (s, p.after act hint items ws)
  | _ => (s, some p)

def Pend.events (p : Pend) : Nat :=
  match p.work with
  | .mem _ _ items _ => 2 * items.length
  | _ => 0

/-- An issued operation's accesses all take their places. -/
def State.performPend (s : State) (core vd : Nat) (p : Pend) : State × Option Pend := s.performSome p.events core vd p

/-- Performs the accesses of a list, oldest first, up to one that waits for a channel in bank mode (14 R401). -/
def State.performAll (s : State) (core vd : Nat) : List Pend → State × List Pend
  | [] => (s, [])
  | p :: ps =>
    if s.pendStuck p then (s, p :: ps) else
    let (s, q) := s.performPend core vd p
    let (s, qs) := State.performAll s core vd ps
    (s, match q with | some q => q :: qs | none => qs)

/-- Performs the accesses up to the named operation, which is included. -/
def State.performTo (s : State) (core vd id : Nat) : List Pend → State × List Pend
  | [] => (s, [])
  | p :: ps =>
    if s.pendStuck p then (s, p :: ps) else
    let (s, q) := s.performPend core vd p
    let (s, qs) := if p.id == id then (s, ps) else State.performTo s core vd id ps
    (s, q.toList ++ qs)

/-- The next event of an agent up to the named operation: one access of the oldest that has one left. -/
def State.performNext (s : State) (core vd id : Nat) : List Pend → State × List Pend
  | [] => (s, [])
  | p :: ps =>
    if s.pendStuck p then (s, p :: ps)
    else if p.events == 0 && p.id != id then
      let (s, qs) := State.performNext s core vd id ps
      (s, p :: qs)
    else
      let (s, q) := s.performSome 1 core vd p
      (s, q.toList ++ ps)

def Pend.isMem (p : Pend) : Bool :=
  match p.work with
  | .mem .. => true
  | _ => false

/-- The virtual device of a team, and of a core's control thread. -/
def State.teamVd (s : State) (t : Team) : Nat := ((s.teamCx t).map (·.vd)).getD 0

def State.ctlVd (s : State) (core : Nat) : Nat := ((s.ctl core).owner.map (·.vd)).getD 0

/-- The acting team's issued accesses all take their place before what it does next (02 R52). -/
def State.drainTeam (s : State) (core slot : Nat) : State :=
  match s.team? core slot with
  | some t =>
    let (s, ps) := s.performAll core (s.teamVd t) t.pend
    s.updTeam core slot fun t => { t with pend := ps }
  | none => s

/-- The control thread's issued stores take their place. -/
def State.drainCtl (s : State) (core : Nat) : State :=
  let (s, ps) := s.performAll core (s.ctlVd core) (s.ctl core).pend
  s.setCtl core { s.ctl core with pend := ps }

/-- A write of this address goes through to DRAM (02 R51). -/
def State.throughAt (s : State) (cx : CtxId) (sp : Space) (ea : Int) : Bool :=
  sp == .g && match s.translate cx ea.toNat with
    | .ok l => l.engine && !l.comp
    | .error _ => false

/-- Writes of an engine, the sequencer or a peer reach their home slices: lines are touched, and the bytes are written; `thru` where
they go through to DRAM. -/
def State.engineWrite (s : State) (vd : Nat) (keys : List Nat) (bs : List Byte) (thru : Bool := false) : State :=
  ((s.touch vd 0 keys).putKeys keys bs).dirtyKeys thru keys

/-- The operations of a list up to the named one. -/
def pendsTo (id : Nat) (ps : List Pend) : List Pend := ps.take ((ps.findIdx fun p => p.id == id) + 1)

/-- The channels that an operation's accesses reach. -/
def State.pendChans (s : State) (p : Pend) : List Nat :=
  match p.work with
  | .mem act _ items _ => (items.flatMap fun x => match x.place with
      | .here keys => s.keysChans (act.writes && x.thru) keys
      | .remote .. => []).dedup
  | _ => []

/-- The oldest operation of an agent that waits for channels in bank mode enters their deferred queues, where there is room
(14 R401). None where nothing changes. -/
def State.deferPend (s : State) (who : Agent) (ps : List Pend) : Option State :=
  (ps.find? s.pendStuck).bind fun p => s.deferAs (.op who p.id) (s.pendChans p)

/-! Remote windows (08 R242 to R244, 16 R441). -/

def Stream.init : Stream :=
  { next := 0, unacked := [], expect := 0, markerIn := none, markerAck := none, reads := [], lost := false }

def State.stream (s : State) (peer : Nat) : Stream := s.streams.get Stream.init peer

def State.setStream (s : State) (peer : Nat) (x : Stream) : State := { s with streams := s.streams.set peer x }

/-- Frame kinds of 16 R441. -/
def fkWrite : Nat := 1
def fkRead : Nat := 2
def fkReadResp : Nat := 3
def fkAck : Nat := 4
def fkMarker : Nat := 5

/-- Sends a frame on the stream to a peer; it stays until it is acknowledged. -/
def State.sendFrame (s : State) (peer kind : Nat) (cx : CtxId) (items : List FkItem) (window : Nat) (who : Option OwnerRef) :
    State :=
  let st := s.stream peer
  s.setStream peer { st with
    next := (st.next + 1) % 2 ^ 32
    unacked := st.unacked ++ [{ seq := st.next, kind := kind, cx := cx, items := items, window := window, who := who }] }

/-- Sends the remote items of a store: one frame for each, in thread order. Gives the number sent. -/
def State.sendStores (s : State) (who : OwnerRef) : List MemItem → Nat × State
  | [] => (0, s)
  | x :: xs =>
    match x.place with
    | .here _ => State.sendStores s who xs
    | .remote peer cx va n =>
      let (k, s) := State.sendStores (s.sendFrame peer fkWrite cx [.write va (leBytes n x.data)] 0 (some who)) who xs
      (k + 1, s)

/-- Sends the remote items of a load, and notes the replies that are due. -/
def State.sendLoads (s : State) (who : OwnerRef) (id : Nat) : List MemItem → State
  | [] => s
  | x :: xs =>
    match x.place with
    | .here _ => State.sendLoads s who id xs
    | .remote peer cx va n =>
      let s := s.sendFrame peer fkRead cx [.read va n] 0 (some who)
      let st := s.stream peer
      State.sendLoads (s.setStream peer { st with reads := st.reads ++ [(who, id)] }) who id xs

/-- Puts an operation behind the team's others; a long-latency one increments its flag (05 R131). -/
def Team.enqueue (t : Team) (p : Pend) : Team :=
  let t := { t with pend := t.pend ++ [p] }
  match p.flag with
  | some f => t.setFlag f (t.flag f + 1)
  | none => t

end Sys2Proof.Machine
end

