-- ==== Sys2Proof/Machine/CtlIssue.lean ====
section
/-! DEFINITION. How a control-thread instruction issues (09 R255, R273; 05 R145): the one wrapper around every meaning of the
control thread, and the meanings of instructions that both sides accept. -/

namespace Sys2Proof.Machine

open Sys2Proof Host

/-- The instruction about to issue on a core's control thread. -/
structure CtlSite where
  core : Nat
  ctl : Ctl
  owner : CtxId
  pos : ClausePos

def CtlSite.pc (si : CtlSite) : Nat := si.pos.base + si.pos.off

/-- The acting control thread, running inside a clause. -/
def State.ctlSite? (s : State) : Option CtlSite :=
  match s.cur with
  | some (.ctl core) =>
    let c := s.ctl core
    match c.mode, c.owner, c.clause with
    | .running, some o, some pos => some { core := core, ctl := c, owner := o, pos := pos }
    | _, _, _ => none
  | _ => none

/-- What a meaning asks of the wrapper. -/
inductive CtlIssue where
  /-- The control thread goes on behind the instruction. -/
  | done (s : State)
  /-- It goes on at the clause of this address. -/
  | goto (s : State) (target : Nat)
  /-- Any trap, before any effect. -/
  | trap (x : Trap)
  /-- A trap whose reason a team's error record keeps (10 R305). -/
  | trapIn (s : State) (x : Trap)
  /-- A failed translation; `addr` is CTLFA if it becomes PAGE. -/
  | fault (kind access va addr : Nat)
  /-- It waits at the instruction (false), or behind it (true). -/
  | wait (s : State) (m : CtlMode) (after : Bool)
  /-- It has placed itself. -/
  | flow (s : State)

def State.onCtl (s : State) (core : Nat) (f : Ctl → Ctl) : State := s.setCtl core (f (s.ctl core))

/-- A debugger's single step ends (09 R273). -/
def Ctl.stepped (c : Ctl) : Ctl := if c.step then { c with step := false, mode := .held } else c

/-- The control thread stands behind an instruction of `size` bytes. -/
def Ctl.stepOver (c : Ctl) (pos : ClausePos) (size : Nat) : Ctl :=
  let p := pos.advance size
  let c := { c with got := [] }
  if p.atEnd then { c with clause := none, pc := pos.next } else { c with clause := some p, pc := p.base + p.off }

/-- A failed translation of the control thread: a record with team slot 0xFF, and it waits at the instruction (09 R259). -/
def State.faultCtl (s : State) (core : Nat) (cx : CtxId) (kind access va addr : Nat) : State :=
  if s.faultRoom (coreDie core) then
    let (id, s) := s.postFault { va := va, cx := cx, core := core, slot := 0xFF, kind := kind, access := access, clk := 0
                                 who := .ctl core, addr := addr }
    s.onCtl core fun c => { c with mode := .fault id }
  else s.onCtl core fun c => { c with mode := .faultFull kind access va addr }

/-- A trap at the instruction: the control thread stops. -/
def State.stopCtl (s : State) (si : CtlSite) (size : Nat) (x : Trap) : State :=
  (s.onCtl si.core fun c => { c with step := false, got := [] }).raiseCtl si.core x si.pc
    (some (if x.cls == clsTRAP then si.pos.advance size else si.pos))

def State.finishCtl (s : State) (si : CtlSite) (size : Nat) (r : CtlIssue) : State :=
  match r with
  | .done s' => s'.onCtl si.core fun c => (c.stepOver si.pos size).stepped
  | .goto s' t => s'.onCtl si.core fun c => { c with clause := none, pc := t }.stepped
  | .trap x => s.stopCtl si size x
  | .trapIn s' x => s'.stopCtl si size x
  | .fault kind access va addr => s.faultCtl si.core si.owner kind access va addr
  | .wait s' m after => s'.onCtl si.core fun c => { (if after then c.stepOver si.pos size else c) with mode := m }
  | .flow s' => s'

/-- One instruction of the acting control thread: the decode checks, then the meaning. -/
def issueCtl (o : Op) (w : Ins) (s : State) (body : CtlSite → CtlIssue) : Outcome State Fault Refusal :=
  match s.ctlSite? with
  | none => .refused .noAgent
  | some si =>
    if (o.check .ctl 512 w).isSome then .next (s.finishCtl si w.len.size (.trap (.mk0 clsILLOP)))
    else if afterAll o && s.stuck si.ctl.pend then .next s
    else .next (s.finishCtl si w.len.size (body si))

/-- An instruction that both sides accept (05 R144). -/
def issueBoth (o : Op) (w : Ins) (s : State) (team : Site → TMask → Issue) (ctl : CtlSite → CtlIssue) :
    Outcome State Fault Refusal :=
  match s.cur with
  | some (.ctl _) => issueCtl o w s ctl
  | _ => issueTeam o w s team

end Sys2Proof.Machine
end

