-- ==== Sys2Proof/Machine/Queues.lean ====
section
/-! DEFINITION. Launch queues in memory: headers and rings (03 R85), and the queue that a number names (03 R68). -/

namespace Sys2Proof.Machine

open Sys2Proof

/-- A queue header as it lies in memory (03 R85). -/
structure QHead where
  ring : Nat
  log2n : Nat
  enabled : Bool
  feed : Bool
  prod : Nat
  cons : Nat
  retired : Nat
  fidx : Nat
  fstat : Nat
  deriving DecidableEq, Repr

/-- Reads a header at its 64 keys. -/
def State.qhead (s : State) (hk : List Nat) : QHead :=
  let f (i n : Nat) := s.readKeys ((hk.drop i).take n)
  { ring := f 0 8, log2n := f 8 1, enabled := bitAt (f 9 1) 0, feed := bitAt (f 9 1) 1, prod := f 12 4, cons := f 16 4
    retired := f 20 4, fidx := f 24 4, fstat := f 28 1 }

/-- Writes a 32-bit field of a header. -/
def State.setQ32 (s : State) (hk : List Nat) (off x : Nat) : State := s.writeKeys ((hk.drop off).take 4) (x % 2 ^ 32)

/-- Writes FSTAT. -/
def State.setFstat (s : State) (hk : List Nat) (x : Nat) : State := s.writeKeys ((hk.drop 28).take 1) x

/-- The channels that an access of a queue's header reaches (03 R450). -/
def State.headChans (s : State) (cx : CtxId) (header : Nat) (hk : List Nat) : List Nat :=
  s.keysChans (s.throughAt cx .g header) hk

/-- A write of a queue's header reaches its home slice. -/
def State.headTouched (s : State) (cx : CtxId) (header : Nat) (hk : List Nat) : State :=
  (s.touch cx.vd 0 hk).dirtyKeys (s.throughAt cx .g header) hk

def offProd : Nat := 12
def offCons : Nat := 16
def offRetired : Nat := 20
def offFidx : Nat := 24

/-- Records between CONS and PROD. -/
def QHead.waiting (h : QHead) : Nat := (h.prod + 2 ^ 32 - h.cons) % 2 ^ 32

/-- Address of a ring slot. -/
def QHead.slotVa (h : QHead) (i : Nat) : Nat := h.ring + 128 * (i % 2 ^ h.log2n)

/-- A queue of a context, as Renweaz bound it. -/
def State.queue? (s : State) (cx : CtxId) (q : Nat) : Option Queue := (s.ctx? cx).bind fun c => c.queues.get? q

def State.setQueue (s : State) (cx : CtxId) (q : Nat) (x : Queue) : State :=
  match s.ctx? cx with
  | some c => s.setCtx cx { c with queues := c.queues.set q x }
  | none => s

/-- Queue q of a virtual device, with the context that owns its header (03 R68, R85). -/
def State.findQueue (s : State) (vd q : Nat) : Option (CtxId × Queue) :=
  (List.range 64).findSome? fun c => (s.queue? ⟨vd, c⟩ q).map fun x => (⟨vd, c⟩, x)

end Sys2Proof.Machine
end

