-- ==== Sys2Proof/Machine/Locks.lean ====
section
/-! DEFINITION. Range locks and the life of engine operations: registration, release, and what an operation that faults does
(02 R50, R55 to R61; 01 R28). -/

namespace Sys2Proof.Machine

open Sys2Proof

def State.setOp (s : State) (id : Nat) (o : EngOp) : State := { s with ops := s.ops.set id o }

def State.dropOp (s : State) (id : Nat) : State := { s with ops := s.ops.erase id }

/-! Conflicts and entries. -/

/-- Two ranges share a crumb of one space, and one of them is written. -/
def Range.clash (a b : Range) : Bool :=
  a.space == b.space && (a.write || b.write) && crumbsMeet a.base a.len b.base b.len

/-- A registered operation conflicts with this one (02 R59). -/
def State.conflicts (s : State) (id : Nat) (o : EngOp) : Bool :=
  s.locks.any fun l => l.op != id && l.cx == o.cx && o.ranges.any l.range.clash

/-- Entries that an operation registers. -/
def EngOp.entries (o : EngOp) : List Range := o.ranges.filter fun r => r.len != 0

/-- Every page of a range of global memory is sealed. -/
def State.sealedRange (s : State) (cx : CtxId) (r : Range) : Bool :=
  r.space == .global && r.len != 0 && (List.range ((r.base + r.len - 1) / 65536 - r.base / 65536 + 1)).all fun i =>
    match s.translate cx (alignDown r.base 65536 + 65536 * i) with
    | .ok l => l.sealed
    | .error _ => false

/-- The ranges that an operation locks: a range it reads in a sealed region registers no lock (02 R45). -/
def State.lockRanges (s : State) (cx : CtxId) (l : List Range) : List Range := l.filter fun r => r.write || !s.sealedRange cx r

def State.locksOf (s : State) (part : Nat) : Nat := (s.locks.filter fun l => l.part == part).length

/-- Too few of the partition's 256 entries are free (02 R55, R57). -/
def State.lacksEntries (s : State) (o : EngOp) : Bool := 256 < s.locksOf o.part + o.entries.length

/-- The operation was issued by this team or by this core's control thread. -/
def EngOp.sameIssuer (a b : EngOp) : Bool :=
  a.byCtl == b.byCtl && (if a.byCtl then a.core == b.core else a.gang == b.gang && a.index == b.index)

def OpWork.isCopy : OpWork → Bool
  | .copy .. => true
  | _ => false

def OpWork.isFetch : OpWork → Bool
  | .fetch _ => true
  | _ => false

/-- A copy request or a fetch waits without holding up its issuer while it conflicts, or while an earlier copy request of its
issuer is held (11 R316, 10 R286). -/
def State.heldOp (s : State) (id : Nat) (o : EngOp) : Bool :=
  !o.registered && (s.conflicts id o ||
    (o.work.isCopy && s.ops.any fun x => x.1 < id && !x.2.registered && x.2.work.isCopy && x.2.sameIssuer o && s.conflicts x.1 x.2))

/-- Operations that their issuer need not wait for any more (02 R57, 11 R316, 09 R255). -/
def State.opsSettled (s : State) (ids : List Nat) : Bool :=
  ids.all fun i => match s.ops.get? i with
    | some o => o.registered || ((o.work.isCopy || o.work.isFetch) && s.heldOp i o)
    | none => true

/-- The operation may act: the gang of its team, or of the team whose slot it fills, is resident. -/
def State.opLive (s : State) (o : EngOp) : Bool :=
  (o.byCtl && !o.work.isFetch) || match s.gang? o.gang with
    | some g => g.resident
    | none => false

/-- An earlier registration of the partition stalls for want of entries, and stalls every later one (02 R57). -/
def State.entryStall (s : State) (id : Nat) (o : EngOp) : Bool :=
  s.ops.any fun x => x.1 < id && x.2.part == o.part && !x.2.registered && s.opLive x.2 && !s.heldOp x.1 x.2 && s.lacksEntries x.2

/-- An access of the partition's agents waits for a channel in bank mode: registration waits for it (02 R57, 14 R401). -/
def State.partStuck (s : State) (part : Nat) : Bool :=
  s.anyBank &&
  ((s.teams.any fun x => s.stuck x.2.pend && match s.teamCx x.2 with
      | some cx => s.partOf cx == part
      | none => false) ||
   s.cores.any fun x => s.stuck x.2.ctl.pend && match x.2.ctl.owner with
      | some cx => s.partOf cx == part
      | none => false)

/-- Requests of a core that are registered and unfinished; those of a saved gang are with it (11 R324). -/
def State.copiesRunning (s : State) (core : Nat) : Nat :=
  (s.ops.filter fun x => x.2.core == core && x.2.work.isCopy && x.2.registered && s.opLive x.2).length

/-- Requests of a core that have not registered: its request queue. -/
def State.copyQueued (s : State) (core : Nat) : Nat :=
  (s.ops.filter fun x => x.2.core == core && x.2.work.isCopy && !x.2.registered && s.opLive x.2).length

/-- Rules of the copy engine for the next request to register: sequence order, queue order, and at most 8 at once (11 R316). -/
def State.copyMay (s : State) (id : Nat) (o : EngOp) : Bool :=
  !(s.ops.any fun x => x.1 < id && x.2.core == o.core && x.2.work.isCopy && !x.2.registered && s.opLive x.2 &&
      (x.2.sameIssuer o || !s.heldOp x.1 x.2)) &&
  s.copiesRunning o.core < 8

def State.mayRegister (s : State) (id : Nat) (o : EngOp) : Bool :=
  !o.registered && s.opLive o && !s.partStuck o.part && !s.conflicts id o && !s.lacksEntries o && !s.entryStall id o &&
  (!o.work.isCopy || s.copyMay id o)

/-! Registration (02 R57). -/

/-- Every issued access of the partition's agents takes its place before an entry is installed. -/
def State.drainPart (s : State) (part : Nat) : State :=
  let s := s.teams.foldl (fun s x => match s.teamCx x.2 with
    | some cx => if s.partOf cx == part then s.drainTeam (x.1 / 16) (x.1 % 16) else s
    | none => s) s
  s.cores.foldl (fun s x => match x.2.ctl.owner with
    | some cx => if s.partOf cx == part then s.drainCtl x.1 else s
    | none => s) s

/-- Installs an operation's entries. -/
def State.register (s : State) (id : Nat) (o : EngOp) : State :=
  let s := if o.entries.isEmpty then s else s.drainPart o.part
  { s with
    ops := s.ops.set id { o with registered := true }
    locks := s.locks ++ o.entries.map fun r => { part := o.part, cx := o.cx, range := r, op := id } }

/-- Registers an operation that may. -/
def State.tryRegister (s : State) (id : Nat) : State :=
  match s.ops.get? id with
  | some o => if s.mayRegister id o then s.register id o else s
  | none => s

/-- A new operation enters its engine, and registers at once where it may. -/
def State.enterOp (s : State) (o : EngOp) : Nat × State :=
  let (id, s) := s.newId
  (id, (s.setOp id { o with ranges := s.lockRanges o.cx o.ranges }).tryRegister id)

/-! Release (02 R60, 01 R28). -/

/-- A core of a partition. -/
def State.corePart (s : State) (part core : Nat) : Bool := (s.parts.get? part).any fun p => p.clusters.contains (coreCluster core)

/-- The operation takes a timestamp behind every access so far, its entries clear, and as each replica clears, the core's clock
advances to that timestamp. -/
def State.clearLocks (s : State) (id : Nat) : State :=
  let part := match s.ops.get? id with
    | some o => o.part
    | none => 0
  { s with
    lts := s.lts + 1
    locks := s.locks.filter fun l => l.op != id
    cores := s.cores.map fun x => (x.1, if s.corePart part x.1 then x.2.advance (s.lts + 1) else x.2) }

/-- An operation ends: locks clear, then its bytes leave its barrier, then it is gone. -/
def State.endOp (s : State) (id : Nat) (o : EngOp) : State :=
  let s := s.clearLocks id
  let s := match o.bar with
    | some (g, b) => s.barBytes g b o.bytes
    | none => s
  s.dropOp id

/-- An operation ends without a release: it was aborted (02 R61). -/
def State.abortOp (s : State) (id : Nat) : State := { s with locks := s.locks.filter fun l => l.op != id }.dropOp id

/-- An operation's access fails translation: a record with access 5, and the operation waits with its locks (02 R50). None while
the fault queue is full. -/
def State.opFault (s : State) (id : Nat) (o : EngOp) (kind va : Nat) : Option State :=
  if s.faultRoom (coreDie o.core) then
    let (f, s) := s.postFault { va := va, cx := o.cx, core := o.core, slot := 0xFF, kind := kind, access := 5, clk := 0
                                who := .op id, addr := va }
    some (s.setOp id { o with fault := some f })
  else none

/-- The record that Renweaz will not mend is gone from the queue. -/
def State.dropFault (s : State) (rec : Nat) : State := { s with faults := s.faults.erase rec }

/-! Teams by name. -/

/-- The core and slot where a gang's team of an index sits. -/
def State.whereTeam (s : State) (gang index : Nat) : Option (Nat × Nat × Team) :=
  (s.teams.find? fun x => x.2.gang == gang && x.2.index == index).map fun x => (x.1 / 16, x.1 % 16, x.2)

/-- Changes a team, resident or saved. -/
def State.updTeamRef (s : State) (gang index : Nat) (f : Team → Team) : State :=
  match s.whereTeam gang index with
  | some (core, slot, t) => s.setTeam core slot (f t)
  | none => match s.gang? gang with
    | some g => s.setGang gang { g with saved := g.saved.map fun (t : Team) => if t.index == index then f t else t }
    | none => s

def State.teamRef (s : State) (gang index : Nat) : Option Team :=
  match s.whereTeam gang index with
  | some (_, _, t) => some t
  | none => (s.gang? gang).bind fun g => g.saved.find? fun t => t.index == index

/-! Rows and ranges of engines. -/

/-- The keys of a row in a space: translated as the engine runs where the space is global. -/
def State.rowKeys (s : State) (r : Reach) (sp : Space) (a n : Nat) (wr : Bool) : Except (Nat × Nat) (List Nat) :=
  match sp with
  | .g => s.span r.cx a n wr
  | sp => .ok (s.localKeys r sp 0 a n)

/-- The smallest range of one lock space over rows; rows of several spaces give one range each. -/
def boundRanges (rows : List (LockSpace × Nat × Nat)) (write : Bool) : List Range :=
  rows.foldl (fun (l : List Range) x =>
    if l.any fun r => r.space == x.1 then
      l.map fun r => if r.space == x.1 then
          let lo := min r.base x.2.1
          { r with base := lo, len := max (r.base + r.len) (x.2.1 + x.2.2) - lo }
        else r
    else l ++ [{ space := x.1, base := x.2.1, len := x.2.2, write := write }]) []

/-- A range extended outward to multiples of 2^S (11 R317, 10 R286). -/
def Range.widen (r : Range) (s : Nat) : Range :=
  let lo := alignDown r.base (2 ^ s)
  { r with base := lo, len := alignUp (r.base + r.len) (2 ^ s) - lo }

/-- The swizzle (11 R319); in .c it acts on the offset within the member. -/
def swz (o m s : Nat) : Nat := o ^^^ ((o / 2 ^ s &&& m) * 16)

def swzAddr (sp : Space) (a m s : Nat) : Nat :=
  if sp == .c then alignDown a (2 ^ 20) + swz (a % 2 ^ 20) m s else swz a m s

end Sys2Proof.Machine
end

