-- ==== Sys2Proof/Machine/Sequencer.lean ====
section
/-! DEFINITION. The instructions of the team sequencer, 0x000 to 0x01E (07 R221 to R232, R213, R214, R219). -/

namespace Sys2Proof.Machine

open Sys2Proof Host

/-- The acting team in the state, changed by `f`. -/
def State.onTeam (s : State) (si : Site) (f : Team → Team) : State := s.updTeam si.core si.slot f

/-- A uniform source of the acting team (05 R139). -/
def State.uni (s : State) (si : Site) (x : Opd) : Nat := rd32 s si.core si.team 0 x

def State.uni64 (s : State) (si : Site) (x : Opd) : Nat := rd64 s si.core si.team 0 x

/-! Branches. -/

/-- The 20-bit block offset of A and B (05 R130). -/
def offsetAB (w : Ins) : Int := sx 20 (w.a.code + 1024 * w.b.code)

/-- Clause base + 32 · offset. -/
def blockTarget (base : Nat) (off : Int) : Nat := wrap 64 ((base : Int) + 32 * off)

/-- The reconvergence block of BRD and BRXD. -/
def rejoinOf (si : Site) (w : Ins) : Nat := blockTarget si.pos.base (sx 32 w.imm.toNat)

/-- A branch to per-thread targets; a target not on a block raises ALIGN for all (07 R223). -/
def branchTo (s : State) (si : Site) (e : TMask) (rb : Option Nat) (target : Nat → Nat) : Issue :=
  match (threadsOf si.team.threads e).find? fun t => target t % 32 != 0 with
  | some t => .trap ⟨clsALIGN, 0, BitVec.ofNat 64 (target t)⟩
  | none => .flow (s.transferTo si e rb target)

/-- The return address written to a call's destination (07 R224). -/
def linkTo (s : State) (si : Site) (w : Ins) (e : TMask) : State :=
  s.onTeam si fun t => t.writeD w true ((threadsOf t.threads e).map fun tid => (tid, si.pos.next))

def execNop (w : Ins) (s : State) : Outcome State Fault Refusal :=
  issueBoth .nop w s (fun _ _ => .done s) fun _ => .done s

def execBra (w : Ins) (s : State) : Outcome State Fault Refusal :=
  issueTeam .bra w s fun si e => .flow (s.transferTo si e none fun _ => blockTarget si.pos.base (offsetAB w))

def execBrd (w : Ins) (s : State) : Outcome State Fault Refusal :=
  issueTeam .brd w s fun si e =>
    .flow (s.transferTo si e (some (rejoinOf si w)) fun _ => blockTarget si.pos.base (offsetAB w))

def execBrx (w : Ins) (s : State) : Outcome State Fault Refusal :=
  issueTeam .brx w s fun si e => branchTo s si e none fun t => rd64 s si.core si.team t w.a

def execBrxd (w : Ins) (s : State) : Outcome State Fault Refusal :=
  issueTeam .brxd w s fun si e => branchTo s si e (some (rejoinOf si w)) fun t => rd64 s si.core si.team t w.a

def execCall (w : Ins) (s : State) : Outcome State Fault Refusal :=
  issueTeam .call w s fun si e =>
    .flow ((linkTo s si w e).transferTo si e none fun _ => blockTarget si.pos.base (offsetAB w))

def execCallx (w : Ins) (s : State) : Outcome State Fault Refusal :=
  issueTeam .callx w s fun si e => branchTo (linkTo s si w e) si e none fun t => rd64 s si.core si.team t w.a

def execRet (w : Ins) (s : State) : Outcome State Fault Refusal :=
  issueTeam .ret w s fun si e => branchTo s si e none fun t => rd64 s si.core si.team t w.a

/-! Arrival (07 R195). -/

/-- The split at entry e arrives at join record q with its mask: it ends, or it becomes the merged split at RB(q). -/
def Team.arriveAt (t : Team) (e q : Nat) : Team :=
  match t.splits.get? e, t.joins.get? q with
  | some p, some j =>
    let m := j.mask ||| p.mask
    if 1 < j.pend then
      Team.pass { t with joins := t.joins.set q { j with mask := m, pend := j.pend - 1 }, splits := t.splits.erase e } e
    else
      { t with
        joins := t.joins.erase q
        splits := t.splits.set e { p with mask := m, join := j.outer, pc := j.rb, clause := none } }
  | _, _ => t

/-- The arrivals before a split starts a clause, as often as join records name its address or its mask is empty. -/
def Team.arrivals : Nat → Team → Nat → Team
  | 0, t, _ => t
  | n + 1, t, e =>
    match t.splits.get? e with
    | none => t
    | some p =>
      match p.join with
      | none => if p.mask == 0 then Team.pass { t with splits := t.splits.erase e } e else t
      | some q =>
        match t.joins.get? q with
        | none => t
        | some j => if p.mask == 0 || p.pc == j.rb then Team.arrivals n (t.arriveAt e q) e else t

/-! Cohorts (07 R207 to R210). -/

/-- A cohort record (07 R207). -/
structure Cohort where
  members : W32
  next : W32
  arrived : W32
  phase : W32
  deriving DecidableEq, Repr

def readCohort (s : State) (keys : List Nat) : Cohort :=
  let f (i : Nat) := BitVec.ofNat 32 (s.readKeys ((keys.drop (4 * i)).take 4))
  { members := f 0, next := f 1, arrived := f 2, phase := f 3 }

/-- Every update writes zeros to bytes 16 to 63. -/
def writeCohort (s : State) (vd : Nat) (keys : List Nat) (c : Cohort) : State :=
  s.engineWrite vd keys
    (leBytes 64 (c.members.toNat + 2 ^ 32 * c.next.toNat + 2 ^ 64 * c.arrived.toNat + 2 ^ 96 * c.phase.toNat))

def Cohort.normalise (c : Cohort) : Cohort :=
  let c := if c.members == 0 && c.arrived == 0 then { c with members := c.next, next := 0 } else c
  let c := if 0 < c.arrived && c.members ≤ c.arrived then
      { members := c.members + c.next, next := 0, arrived := 0, phase := c.phase + 1 } else c
  if c.members == 0 && c.next == 0 then { members := 0, next := 0, arrived := 0, phase := 0 } else c

def Cohort.join (c : Cohort) : Cohort :=
  (if c.arrived == 0 then { c with members := c.members + 1 } else { c with next := c.next + 1 }).normalise

def Cohort.leave (c : Cohort) (m : Membership) : Cohort :=
  (if m.next && c.phase.toNat == m.phase then { c with next := c.next - 1 } else { c with members := c.members - 1 }).normalise

def Cohort.arrive (c : Cohort) : Cohort := ({ c with arrived := c.arrived + 1 } : Cohort).normalise

/-- The record's bytes, checked as one 64-byte atomic (07 R207). -/
def State.cohortKeys (s : State) (t : Team) (addr : Nat) : Except Denied (List Nat) :=
  match s.reachOf t with
  | none => .error (.trap ⟨clsPROT, 0, BitVec.ofNat 64 addr⟩)
  | some r =>
    match s.check r .g .atomic [{ tid := 0, ea := addr, len := 64, align := 64 }] with
    | .error (.fault k va a) =>
      .error (if k == kindReadOnly then .trap ⟨clsPROT, 0, BitVec.ofNat 64 addr⟩ else .fault k va a)
    | .error d => .error d
    | .ok ((_, .here keys) :: _) => .ok keys
    | .ok _ => .error (.trap ⟨clsPROT, 0, BitVec.ofNat 64 addr⟩)

/-- A denial as what the meaning asks for. -/
def Denied.issue (d : Denied) (acc : Nat) : Issue :=
  match d with
  | .trap x => .trap x
  | .fault k va addr => .fault k acc va addr

def barTrap (code : Nat) : Issue := .trap ⟨clsBAR, code, 0⟩

/-- The sequencer's access to a cohort record, once every access of the team before it has taken its place: it waits for a channel in
bank mode (14 R401). -/
def cohortAccess (s : State) (si : Site) (keys : List Nat) (body : State → Issue) : Issue :=
  let w : Waiter := .fetch (.team si.core si.slot)
  let chans := s.keysChans false keys
  if chans.any (s.barred (some w)) then .flow ((s.deferAs w chans).getD s)
  else body (((s.undefer w).drainTeam si.core si.slot).sync si.core)

def Team.member? (t : Team) (addr : Nat) : Option Membership := t.cohorts.find? fun m => m.addr == addr

def execCjoin (w : Ins) (s : State) : Outcome State Fault Refusal :=
  issueTeam .cjoin w s fun si _ =>
    let a := s.uni64 si w.a
    if (si.team.member? a).isSome || 4 ≤ si.team.cohorts.length then barTrap 4 else
    match s.cohortKeys si.team a with
    | .error d => d.issue 3
    | .ok keys => cohortAccess s si keys fun s =>
      let c := readCohort s keys
      let m : Membership := { addr := a, next := c.arrived != 0, phase := c.phase.toNat }
      .done ((writeCohort s (s.teamVd si.team) keys c.join).onTeam si fun t => { t with cohorts := t.cohorts ++ [m] })

def execCleave (w : Ins) (s : State) : Outcome State Fault Refusal :=
  issueTeam .cleave w s fun si _ =>
    let a := s.uni64 si w.a
    match si.team.member? a with
    | none => barTrap 5
    | some m =>
      match s.cohortKeys si.team a with
      | .error d => d.issue 3
      | .ok keys => cohortAccess s si keys fun s =>
        .done ((writeCohort s (s.teamVd si.team) keys ((readCohort s keys).leave m)).onTeam si fun t =>
          { t with cohorts := t.cohorts.filter fun m => m.addr != a })

/-- Splits that wait for the team's own arrival now wait for the phase. -/
def Team.cohortWaits (t : Team) (addr phase : Nat) (arrived : Bool) : Team :=
  { t with splits := t.splits.map fun x =>
      (x.1, if x.2.wait == .cohortTeam addr then { x.2 with wait := .cohort addr phase arrived } else x.2) }

/-- The team's arrival on the record whose arrival mask is complete (07 R209): made now, or once the phase it joined in has
passed. Gives the state and the wait of its splits. -/
def State.cohortArrive (s : State) (core slot : Nat) (t : Team) (addr : Nat) (keys : List Nat) : State × Wait :=
  let c := readCohort s keys
  let late := match t.member? addr with
    | some m => m.next && m.phase == c.phase.toNat
    | none => false
  let wt := Wait.cohort addr c.phase.toNat (!late)
  let s := if late then s else writeCohort s (s.teamVd t) keys c.arrive
  (s.updTeam core slot fun t => ({ t with cohMask := 0 }).cohortWaits addr c.phase.toNat (!late), wt)

def execCbar (w : Ins) (s : State) : Outcome State Fault Refusal :=
  issueTeam .cbar w s fun si e =>
    let a := s.uni64 si w.a
    let t := si.team
    if (t.member? a).isNone then barTrap 5
    else if t.cohMask != 0 && t.cohAddr != a then barTrap 3
    else if t.cohMask &&& e != 0 then barTrap 1
    else
      let m := t.cohMask ||| e
      if m &&& t.alive == t.alive then
        match s.cohortKeys t a with
        | .error d => d.issue 3
        | .ok keys => cohortAccess s si keys fun s =>
          let (s, wt) := s.cohortArrive si.core si.slot t a keys
          .block (s.onTeam si fun t => { t with cohSite := some (si.entry, si.pos, e) }) wt true
      else .block (s.onTeam si fun t => { t with cohMask := m, cohAddr := a }) (.cohortTeam a) true

/-! Named barriers (07 R202 to R206, R230). -/

def teamBit (t : Team) : W64 := BitVec.ofNat 64 (2 ^ t.index)

/-- The team arrives at a barrier: its bit is set and phases complete. -/
def State.barArrive (s : State) (t : Team) (b : Nat) : State :=
  s.updBar t.gang b fun x => { x with arrived := x.arrived ||| teamBit t }

/-- Arrivals of threads counted for the team (07 R202): the mask, and the arrival where it is complete. -/
def State.countArrive (s : State) (si : Site) (b : Nat) (e : TMask) : State :=
  let t := si.team
  let m := t.arrive.get 0 b ||| e
  if m &&& t.alive == t.alive then
    (s.onTeam si fun t => { t with arrive := t.arrive.erase b }).barArrive t b
  else s.onTeam si fun t => { t with arrive := t.arrive.set b m }

def State.bar (s : State) (t : Team) (b : Nat) : Barrier :=
  match s.gang? t.gang with
  | some g => g.bar b
  | none => Barrier.init

/-- The phase numbered a has completed (07 R230). -/
def phasePassed (phase : W32) (a : Nat) : Bool :=
  let d := (phase - BitVec.ofNat 32 a).toNat
  1 ≤ d && d < 2 ^ 31

/-- A split of the gang waits on a barrier: the phase it waits for has not completed (07 R197, R205). -/
def State.barWaiters (s : State) (g b : Nat) : Bool :=
  match s.gang? g with
  | some gg => s.teams.any fun x => x.2.gang == g && x.2.splits.any fun y => match y.2.wait with
      | .barrier c a => c == b && !phasePassed (gg.bar b).phase a
      | _ => false
  | none => false

def execBarinit (w : Ins) (s : State) : Outcome State Fault Refusal :=
  issueTeam .barinit w s fun si _ =>
    let n := w.m 52 49
    let b := s.bar si.team n
    let x := s.uni si w.b
    if b.arrived != 0 || b.bytes != (b.byteInit : Int) || s.barWaiters si.team.gang n then barTrap 6
    else if 2 ^ 24 ≤ x then barTrap 7
    else .done (s.updBar si.team.gang n fun b =>
      { b with members := BitVec.ofNat 64 (s.uni64 si w.a), byteInit := x, bytes := x, arrived := 0 })

def execBararr (w : Ins) (s : State) : Outcome State Fault Refusal :=
  issueTeam .bararr w s fun si e =>
    let n := w.m 52 49
    let b := s.bar si.team n
    let x := s.uni si w.b
    if si.team.arrive.get 0 n &&& e != 0 || b.arrived &&& teamBit si.team != 0 then barTrap 1
    else if b.members &&& teamBit si.team == 0 then barTrap 2
    else if 2 ^ 24 ≤ x then barTrap 7
    else
      let s := s.updBar si.team.gang n fun b => { b with bytes := b.bytes + x }
      let ph := (s.bar si.team n).phase
      .done ((s.countArrive si n e).onTeam si fun t => t.writeD w false [(0, ph.toNat)])

def execBarwait (w : Ins) (s : State) : Outcome State Fault Refusal :=
  issueTeam .barwait w s fun si _ =>
    let n := w.m 52 49
    let b := s.bar si.team n
    let a := s.uni si w.a
    if b.idle then barTrap 8
    else if phasePassed b.phase a then .done (s.sync si.core)
    else .block s (.barrier n a) false

def execBartest (w : Ins) (s : State) : Outcome State Fault Refusal :=
  issueTeam .bartest w s fun si e =>
    let n := w.m 52 49
    let b := s.bar si.team n
    if b.idle then barTrap 8 else
    let s := s.sync si.core
    if w.mb 53 then .done (s.onTeam si fun t => t.writeD w false [(0, b.phase.toNat)])
    else
      let q := phasePassed b.phase (s.uni si w.a)
      match w.d with
      | .p k => .done (s.onTeam si fun t => t.writePair w k ((threadsOf t.threads e).map fun tid => (tid, q)))
      | _ => .done s

/-! Ends of splits. -/

/-- The arrivals that an EXIT can complete: the barriers whose arrival mask now holds every live thread. -/
def Team.fullBars (t : Team) : List Nat :=
  (List.range 16).filter fun b => t.arrive.get 0 b != 0 && t.arrive.get 0 b &&& t.alive == t.alive

/-- Threads leave every mask of their team (07 R191). -/
def Team.removeThreads (t : Team) (e : TMask) : Team :=
  let cut (m : TMask) := m &&& ~~~ e
  { t with
    alive := cut t.alive
    splits := t.splits.map fun x => (x.1, { x.2 with mask := cut x.2.mask })
    joins := t.joins.map fun x => (x.1, { x.2 with mask := cut x.2.mask })
    spill := t.spill.map fun g => { g with mask := cut g.mask }
    arrive := t.arrive.map fun x => (x.1, cut x.2)
    cohMask := cut t.cohMask }

/-- Barrier arrivals completed by threads that left. -/
def State.exitBars (s : State) (core slot : Nat) (t : Team) : List Nat → State
  | [] => s
  | b :: bs =>
    State.exitBars ((s.updTeam core slot fun t => { t with arrive := t.arrive.erase b }).barArrive t b) core slot t bs

/-- A team that has exited leaves the barriers of its gang, which can complete phases (07 R206). -/
def State.leaveBars (s : State) (t : Team) : State :=
  (List.range 16).foldl (fun s b =>
    if (s.bar t b).members &&& teamBit t == 0 then s
    else s.updBar t.gang b fun x => { x with members := x.members &&& ~~~ teamBit t, arrived := x.arrived &&& ~~~ teamBit t }) s

/-- A split whose threads have all left arrives at once (07 R195). -/
def Team.arriveEmpty (t : Team) (e : Nat) : Team :=
  match t.splits.get? e with
  | some p => if p.mask == 0 then Team.arrivals 40 t e else t
  | none => t

/-- Drops a team's outstanding rays and their verdicts (13 R371). -/
def State.dropRays (s : State) (gang index : Nat) : State :=
  { s with rays := s.rays.filter fun x => !(x.2.gang == gang && x.2.index == index) }

/-- A team whose last thread has left: its rays are cancelled. -/
def State.teamExits (s : State) (core slot pc : Nat) (t : Team) : State :=
  (s.setTeam core slot { t with leaving := some pc, rays := 0, verdicts := [] }).dropRays t.gang t.index

/-- EXIT once any cohort arrival it completes is checked: `keys` are the record's where there is one. -/
def exitWith (s : State) (si : Site) (e : TMask) (keys : Option (List Nat)) : State :=
  let t := (si.team.removeThreads e).count si s
  let t := (t.clauseDone si.entry si.pos.next si.pos.hdr.yield).arriveEmpty si.entry
  let t := if keys.isSome then { t with cohSite := some (si.entry, si.pos, 0) } else t
  let s := if t.alive == 0 then s.teamExits si.core si.slot si.pc t else s.setTeam si.core si.slot t
  let s := if t.alive == 0 then s.leaveBars t else s.exitBars si.core si.slot t t.fullBars
  match keys with
  | some ks => (s.cohortArrive si.core si.slot t t.cohAddr ks).1
  | none => s

def execExit (w : Ins) (s : State) : Outcome State Fault Refusal :=
  issueTeam .exit w s fun si e =>
    let t := si.team.removeThreads e
    if t.alive != 0 && t.cohMask != 0 && t.cohMask &&& t.alive == t.alive then
      match s.cohortKeys si.team t.cohAddr with
      | .error d => d.issue 3
      | .ok keys => cohortAccess s si keys fun s => .flow (exitWith s si e (some keys))
    else .flow (exitWith s si e none)

def execSyncr (w : Ins) (s : State) : Outcome State Fault Refusal :=
  issueTeam .syncr w s fun si e =>
    .flow (s.onTeam si fun t =>
      let t := t.count si s
      match si.split.join with
      | none => t.clauseDone si.entry si.pos.next si.pos.hdr.yield
      | some q =>
        if e == si.split.mask then (t.arriveAt si.entry q).clauseEnds si.entry si.pos.hdr.yield
        else
          let t := { t with joins := t.joins.alter q fun j => { j with mask := j.mask ||| e }
                            splits := t.splits.alter si.entry fun p => { p with mask := p.mask &&& ~~~ e } }
          t.clauseDone si.entry si.pos.next si.pos.hdr.yield)

/-! Waiting. -/

def execYield (w : Ins) (s : State) : Outcome State Fault Refusal :=
  issueTeam .yield w s fun si _ =>
    .done (s.onTeam si fun t => { t with splits := t.splits.alter si.entry fun p => { p with yield := true } })

def execWaitw (w : Ins) (s : State) : Outcome State Fault Refusal :=
  issueTeam .waitw w s fun si _ =>
    if si.team.flagsZero (w.m 60 49) then .done s else .block s (.flags (w.m 60 49)) false

def execSleep (w : Ins) (s : State) : Outcome State Fault Refusal :=
  issueTeam .sleep w s fun si _ => .block s (.sleep ((s.coreOf si.core).clk + s.uni si w.a)) true

/-! Traps. -/

def execTrap (w : Ins) (s : State) : Outcome State Fault Refusal :=
  issueTeam .trap w s fun _ _ => .trap ⟨clsTRAP, w.m 56 49, 0⟩

def execBkpt (w : Ins) (s : State) : Outcome State Fault Refusal :=
  issueTeam .bkpt w s fun _ _ => .trap (.mk0 clsBKPT)

def execTvec (w : Ins) (s : State) : Outcome State Fault Refusal :=
  issueTeam .tvec w s fun si _ =>
    let b : W32 := BitVec.ofNat 32 (2 ^ w.m 52 49)
    .done (s.onTeam si fun t => { t with tvmask := if w.mb 53 then t.tvmask ||| b else t.tvmask &&& ~~~ b })

def execTret (w : Ins) (s : State) : Outcome State Fault Refusal :=
  issueTeam .tret w s fun si e =>
    if e == 0 then .flow (s.transferTo si e none fun _ => 0)
    else if !si.team.inh then .trap (.mk0 clsILLOP)
    else if si.team.tpcWritten && si.team.tpc.toNat % 32 != 0 then .trap ⟨clsALIGN, 0, si.team.tpc⟩
    else .flow (s.onTeam si fun t => (t.count si s).leaveHandler si.entry si.pos.hdr.yield)

/-! Predicates (07 R228). -/

def execPlop (w : Ins) (s : State) : Outcome State Fault Refusal :=
  issueTeam .plop w s fun si e =>
    let r (t : Nat) (x : Opd) := boolNat (rd32 s si.core si.team t x != 0)
    match w.d with
    | .p n => .done (s.onTeam si fun tm => tm.writeP w n ((threadsOf tm.threads e).map fun t =>
        (t, bitAt (w.m 56 49) (4 * r t w.a + 2 * r t w.b + r t w.c))))
    | _ => .done s

def execPmovTov (w : Ins) (s : State) : Outcome State Fault Refusal :=
  issueTeam .pmovTov w s fun si e =>
    .done (s.onTeam si fun tm => tm.writeD w false ((threadsOf tm.threads e).map fun t =>
      (t, maskOf 12 fun i => (si.team.preg i).getLsbD t)))

def execPmovSel (w : Ins) (s : State) : Outcome State Fault Refusal :=
  issueTeam .pmovSel w s fun si e =>
    let m := w.m 61 50
    .done (s.onTeam si fun tm => (threadsOf tm.threads e).foldl (fun tm t =>
      let a := rd32 s si.core si.team t w.a
      ((List.range 12).filter (bitAt m)).foldl (fun tm i => tm.setPbit t i (bitAt a i)) tm) tm)

/-- The answer of VOTE over the executing threads (07 R228). -/
def voteAnswer (mode : Nat) (vals : List Nat) : Bool :=
  match mode with
  | 0 => vals.all (· != 0)
  | 1 => vals.any (· != 0)
  | _ => vals.all fun x => x == vals.headD 0

def execVote (w : Ins) (s : State) : Outcome State Fault Refusal :=
  issueTeam .vote w s fun si e =>
    let ts := threadsOf si.team.threads e
    let a (t : Nat) := rd32 s si.core si.team t w.a
    let mode := w.m 50 49
    if mode == 3 then
      .done (s.onTeam si fun tm => tm.writeD w false (ts.map fun t =>
        (t, maskOf 32 fun i => ts.contains (t / 32 * 32 + i) && a (t / 32 * 32 + i) != 0)))
    else
      let q := voteAnswer mode (ts.map a)
      match w.d with
      | .p n => .done (s.onTeam si fun tm => tm.writePair w n (ts.map fun t => (t, q)))
      | _ => .done (s.onTeam si fun tm => tm.writeD w false (ts.map fun t => (t, boolNat q)))

/-! Roles, the decision queue, control registers. -/

def execRole (w : Ins) (s : State) : Outcome State Fault Refusal :=
  issueTeam .role w s fun si e =>
    let t := si.team
    let n := w.m 51 49
    match s.launchOf t with
    | none => .trap (.mk0 clsILLOP)
    | some l =>
      if l.record.roles.length ≤ n then .trap (.mk0 clsILLOP)
      else if 1 < t.splits.length || !t.joins.isEmpty || !t.spill.isEmpty || e != t.alive then .trap (.mk0 clsCONV)
      else
        .done (s.onTeam si fun t => { t with pendingRole := some (n, 0) })

/-- The oldest decision-queue entry of a context, and the queue without it (09 R268). -/
def takeEntry (cx : CtxId) : List (CtxId × W64) → Option (W64 × List (CtxId × W64))
  | [] => none
  | (c, x) :: r => if c == cx then some (x, r) else (takeEntry cx r).map fun y => (y.1, (c, x) :: y.2)

/-- The waiting DQPOPs of a core that belong to a context, in issue order. -/
def State.dqLine (s : State) (core : Nat) (cx : CtxId) : List (Nat × Nat) :=
  (s.coreOf core).dqWait.filter fun x => match s.team? core x.1 with
    | some t => s.teamCx t == some cx
    | none => false

/-- A DQPOP of this split may take its entry now: no other of its context waits before it. -/
def State.dqTurn (s : State) (core slot entry : Nat) (cx : CtxId) : Bool :=
  match s.dqLine core cx with
  | [] => true
  | x :: _ => x == (slot, entry)

def execDqpop (w : Ins) (s : State) : Outcome State Fault Refusal :=
  issueTeam .dqpop w s fun si _ =>
    let c := s.coreOf si.core
    let me := (si.slot, si.entry)
    match s.teamCx si.team with
    | none => .hold
    | some cx =>
      match (if s.dqTurn si.core si.slot si.entry cx then takeEntry cx c.dq else none) with
      | some (x, rest) =>
        let s := s.drainTeam si.core si.slot
        let c := s.coreOf si.core
        let s := (s.setCore si.core { c with dq := rest, dqWait := c.dqWait.filter (· != me) }).sync si.core
        .done (s.onTeam si fun t => t.writeD w true [(0, x.toNat)])
      | none =>
        let s := if c.dqWait.contains me then s else s.setCore si.core { c with dqWait := c.dqWait ++ [me] }
        .block s .dqpop false

/-- SPLITS (07 R215). -/
def Team.splitsWord (t : Team) : Nat := 2 ^ 26 * t.joins.length + 2 ^ 21 * t.splits.length + t.spill.length

/-- Flags of matrix operations that no completed MRD or MSTAT has shown. -/
def Team.openFlags (t : Team) : Flags :=
  t.pend.foldl (fun m p => match p.work with | .results _ fl => m ||| fl | _ => m) t.mflags

/-- TSR as CRR reads it: each of those flags may be there or not (10 R292, log 12). -/
def State.tsrSeen (s : State) (t : Team) : W32 :=
  t.tsr ||| BitVec.ofNat 32 (maskOf 8 fun i => bitAt t.openFlags i && Config.freeBool (s.freeIx i))

/-- A control register's value (07 R214). -/
def State.controlReg (s : State) (t : Team) (n : Nat) : Nat :=
  match n with
  | 0 => t.qnt.toNat
  | 1 => t.fpc.toNat
  | 2 => (s.tsrSeen t).toNat
  | 3 => t.tvb.toNat
  | 4 => t.lrb.toNat
  | 5 => t.tvmask.toNat
  | 6 => t.tpc.toNat
  | 7 => t.tcause.toNat
  | 8 => t.taddr.toNat
  | _ => t.splitsWord

def execCrr (w : Ins) (s : State) : Outcome State Fault Refusal :=
  issueTeam .crr w s fun si _ =>
    let n := w.m 53 49
    .done (s.onTeam si fun t =>
      -- a flag that has been seen stays (04 R105)
      let t := if n == 2 then { t with tsr := s.tsrSeen si.team } else t
      t.writeD w (crWide n) [(0, s.controlReg si.team n)])

/-- FPC as written: an RND of 0, 6 or 7 leaves the field (06 R158). -/
def fpcWrite (old : W32) (x : Nat) : W32 :=
  let r := x % 8
  BitVec.ofNat 32 (8 * boolNat (bitAt x 3) + (if 1 ≤ r && r ≤ 5 then r else old.toNat % 8))

/-- A write of a control register (07 R214, R215; 06 R158, R159). -/
def Team.writeControl (t : Team) (n x : Nat) : Team :=
  match n with
  | 0 => let q := x % 2 ^ 13
    if 1 ≤ q && q ≤ 4096 then { t with qnt := BitVec.ofNat 32 q } else t
  | 1 => { t with fpc := fpcWrite t.fpc x }
  | 2 => { t with tsr := BitVec.ofNat 32 (x % 256) }
  | 3 => { t with tvb := BitVec.ofNat 64 (x / 2 ^ 9 * 2 ^ 9 % 2 ^ 48) }
  | 4 => { t with lrb := BitVec.ofNat 64 x }
  | 5 => { t with tvmask := BitVec.ofNat 32 (x % 2 ^ 14) }
  | 6 => if t.inh then { t with tpc := BitVec.ofNat 64 x, tpcWritten := true } else t
  | _ => t

def execCrw (w : Ins) (s : State) : Outcome State Fault Refusal :=
  issueTeam .crw w s fun si _ =>
    let n := w.m 53 49
    .done (s.onTeam si fun t => t.writeControl n (if crWide n then s.uni64 si w.a else s.uni si w.a))

end Sys2Proof.Machine
end

