-- ==== Sys2Proof/Machine/SeqEvents.lean ====
section
/-! DEFINITION. What the team sequencer does between instructions: starting clauses, choosing splits, ends of waits, cohort phases
and roles (05 R123 to R129; 07 R194 to R200, R209, R210, R212, R226). -/

namespace Sys2Proof.Machine

open Sys2Proof Host

/-- A step of the device: its next state; where its rule does not let it happen now, it does not happen, and nothing changes
(log 1). -/
def enabled (s : State) (r : Option State) : Outcome State Fault Refusal := .next (r.getD s)

/-! Choosing a split (07 R194, R197, R198). -/

/-- Spill records move into free entries, the top record into the lowest. -/
def Team.refill : Nat → Team → Team
  | 0, t => t
  | n + 1, t =>
    match t.spill, t.splits.free 16 with
    | g :: rest, some e =>
      Team.refill n { t with
        spill := rest
        splits := t.splits.set e { pc := g.pc, mask := g.mask, join := g.join, quantum := 0, limit := 0, yield := false
                                   clause := none, wait := .none } }
    | _, _ => t

/-- The agent's remote stores are acknowledged (08 R245). -/
def winfOver (rpend : Nat) : Bool := rpend == 0

/-- The device has begun window RWIN + 2 (08 R245). -/
def winwOver (rwin : Option W32) (win : Nat) : Bool :=
  match rwin with
  | none => true
  | some r => let d := (win + 2 ^ 32 - r.toNat) % 2 ^ 32
    2 ≤ d && d < 2 ^ 31

/-- A blocked split may go on. The waits that events end are not over; those that issue again to test are. -/
def State.waitOver (s : State) (core slot : Nat) (t : Team) (e : Nat) (w : Wait) : Bool :=
  match w with
  | .none => true
  | .flags m => t.flagsZero m
  | .barrier b ph => phasePassed (s.bar t b).phase ph
  | .cohort .. | .cohortTeam _ | .sleep _ | .fault _ | .faultFull .. | .cctl | .claim .. => false
  | .dqpop => match s.teamCx t with
    | some cx => s.dqTurn core slot e cx && (takeEntry cx (s.coreOf core).dq).isSome
    | none => false
  | .winf => winfOver t.rpend
  | .winw => winwOver t.rwin s.win
  | .locks ids => s.opsSettled ids
  | .mnext => match t.walk with
    | some w => w.state != 1 || !w.ready.isEmpty
    | none => true
  | .rays | .room => true

/-- The split at entry e may run: not blocked, and no other split holds the handler. -/
def State.ready (s : State) (core slot : Nat) (t : Team) (e : Nat) : Bool :=
  match t.splits.get? e with
  | some p => s.waitOver core slot t e p.wait && (match t.handler with | some h => h == e | none => true)
  | none => false

/-- The next ready entry after the last split to run. -/
def State.nextReady (s : State) (core slot : Nat) (t : Team) : Option Nat :=
  ((List.range 16).map fun i => (t.last + 1 + i) % 16).find? (s.ready core slot t)

/-- A chosen split begins a quantum of QNT; a YIELD of the clause it stands in still ends its turn. -/
def Team.choose (t : Team) (e : Nat) : Team :=
  { t with running := some e
           splits := t.splits.alter e fun p =>
             { p with quantum := 0, limit := t.qnt.toNat, yield := p.yield && p.clause.isSome, wait := .none } }

/-- The running split may pass: there is none, or it stands at a clause's end with its quantum used. -/
def Team.mayPass (t : Team) : Bool :=
  match t.running with
  | none => true
  | some e => match t.splits.get? e with
    | some p => p.clause.isNone && p.limit ≤ p.quantum
    | none => true

/-- The next ready split takes its turn; with none ready the team waits. -/
def State.switchSplit (s : State) (core slot : Nat) (t : Team) : State :=
  let t := match t.running with
    | some e => t.pass e
    | none => t
  let t := t.refill 16
  match s.nextReady core slot t with
  | some e => s.setTeam core slot (t.choose e)
  | none => s.setTeam core slot t

def execQuantumExpiry (core slot : Nat) (s : State) : Outcome State Fault Refusal :=
  enabled s <| match s.team? core slot with
    | some t => if s.teamRuns t && t.leaving.isNone && t.mayPass then some (s.switchSplit core slot t) else none
    | none => none

/-! Starting a clause (05 R126 to R129). -/

/-- Why a clause does not start. -/
inductive NoClause where
  | trap (x : Trap)
  | fault (kind va : Nat)
  /-- The fetch waits for channels in bank mode (14 R396). -/
  | wait (chans : List Nat)
  deriving DecidableEq, Repr

/-- The side of an agent's instructions (05 R121). -/
def agentSide (a : Agent) : Side :=
  match a with
  | .team .. => .team
  | .ctl _ => .ctl

/-- A fetched block: its bytes. -/
def State.fetchBlock (s : State) (who : Agent) (cx : CtxId) (va : Nat) : Except NoClause (List Byte) :=
  if s.walkStuck cx va then .error (.wait []) else
  match s.translate cx va with
  | .error k => .error (.fault k va)
  | .ok l =>
    if !l.exec then .error (.fault kindNoExec va)
    else if (s.keysChans false (keysFrom l.key 32)).any (s.barred (some (.fetch who))) then
      .error (.wait (s.keysChans false (keysFrom l.key 32)))
    else .ok ((keysFrom l.key 32).map s.readKey)

/-- n consecutive blocks: their bytes, or why the first that fails does. -/
def State.fetchBlocks (s : State) (who : Agent) (cx : CtxId) (va : Nat) : Nat → Except NoClause (List Byte)
  | 0 => .ok []
  | n + 1 =>
    match s.fetchBlock who cx va with
    | .error e => .error e
    | .ok b => match State.fetchBlocks s who cx (va + 32) n with
      | .error e => .error e
      | .ok bs => .ok (b ++ bs)

/-- The clause at an address: its header, and every block as fetched now. An address outside the context's space raises
PROT (log 18). -/
def State.fetchClause (s : State) (who : Agent) (cx : CtxId) (pc : Nat) : Except NoClause ClausePos :=
  if 2 ^ 48 ≤ pc then .error (.trap ⟨clsPROT, 0, BitVec.ofNat 64 pc⟩) else
  match s.fetchBlock who cx pc with
  | .error e => .error e
  | .ok b =>
    match decodeHeader (agentSide who) (leNat (b.take 8)) with
    | .error _ => .error (.trap (.mk0 clsILLOP))
    | .ok h =>
      if 2 ^ 48 < pc + 32 * h.blocks then .error (.trap ⟨clsPROT, 0, BitVec.ofNat 64 (2 ^ 48)⟩) else
      match s.fetchBlocks who cx (pc + 32) (h.blocks - 1) with
      | .error e => .error e
      | .ok bs => .ok { base := pc, hdr := h, bytes := b ++ bs, off := 8 }

/-- A trap of a split that stands between clauses, precise at the address it would start. -/
def State.trapBetween (s : State) (core slot e : Nat) (t : Team) (pc : Nat) (x : Trap) : State :=
  s.raise t x { core := core, slot := slot, entry := e, pc := pc, resume := none }

/-- A fetch that fails translation: a record with access 4, and the split waits at the clause (05 R126, 02 R49). -/
def State.fetchFault (s : State) (core slot e : Nat) (t : Team) (cx : CtxId) (kind va : Nat) : State :=
  let s := s.setTeam core slot t
  if s.faultRoom (coreDie core) then
    let (id, s) := s.postFault { va := va, cx := cx, core := core, slot := slot, kind := kind, access := 4, clk := 0
                                 who := .team t.gang t.index e, addr := va }
    s.updTeam core slot fun t => t.blockSplit e (.fault id)
  else s.updTeam core slot fun t => t.blockSplit e (.faultFull kind 4 va va)

/-- The split starts the clause: it checks WAIT once, and stands at the first word. -/
def Team.beginClause (t : Team) (e : Nat) (c : ClausePos) : Team :=
  if !t.flagsZero c.hdr.wait then t.blockSplit e (.flags c.hdr.wait)
  else
    let c := ClausePos.skip 24 c
    if c.atEnd then t.clauseDone e c.next c.hdr.yield
    else { t with splits := t.splits.alter e fun p => { p with clause := some c } }

/-- The running split, after its arrivals, starts the clause at its PC. -/
def State.startClause (s : State) (core slot e : Nat) (t : Team) : State :=
  let t := Team.arrivals 40 t e
  match t.running, t.splits.get? e, s.teamCx t with
  | some _, some p, some cx =>
    match s.fetchClause (.team core slot) cx p.pc with
    | .error (.trap x) => s.trapBetween core slot e t p.pc x
    | .error (.fault k va) => s.fetchFault core slot e t cx k va
    | .error (.wait chans) => (s.deferAs (.fetch (.team core slot)) chans).getD s
    | .ok c =>
      ((s.undefer (.fetch (.team core slot))).walkedAll core cx [p.pc, p.pc + 32 * c.hdr.blocks - 1]).setTeam core slot
        (t.beginClause e c)
  | _, _, _ => s.setTeam core slot t

def execClauseStart (core slot : Nat) (s : State) : Outcome State Fault Refusal :=
  enabled s <| match s.team? core slot with
    | some t => match t.running with
      | some e => match t.splits.get? e with
        | some p =>
          if s.teamRuns t && t.leaving.isNone && t.pendingRole.isNone && p.clause.isNone && p.wait == .none then
            some (s.startClause core slot e t)
          else none
        | none => none
      | none => none
    | none => none

/-! Ends of waits. -/

def execSleepExpiry (core slot entry : Nat) (s : State) : Outcome State Fault Refusal :=
  enabled s <| match s.team? core slot with
    | some t => match t.splits.get? entry with
      | some p => match p.wait with
        | .sleep til =>
          if til ≤ (s.coreOf core).clk then
            some (s.setTeam core slot { t with splits := t.splits.set entry { p with wait := .none } })
          else none
        | _ => none
      | none => none
    | none => none

/-- A team that has requested for 1,024 cycles counts as class 3 for its next grant (07 R200). -/
def execIssueStarvationPromote (core slot : Nat) (s : State) : Outcome State Fault Refusal :=
  enabled s <| match s.team? core slot with
    | some t =>
      if s.teamRuns t && t.running.isSome && t.lastClk + 1024 ≤ (s.coreOf core).clk then
        some (s.setTeam core slot { t with promoted := true })
      else none
    | none => none

/-! Cohort phases (07 R209). -/

/-- The keys of a cohort record, for a load by the sequencer. -/
def State.cohortLook (s : State) (t : Team) (addr : Nat) : Option (List Nat) :=
  match s.teamCx t with
  | some cx => match s.leaves cx addr 64 with
    | .ok (l, l') => some (leafKeys addr 64 l l')
    | .error _ => none
  | none => none

/-- The cohort that splits of the team wait on. -/
def Team.cohortWait (t : Team) : Option (Nat × Nat × Bool) :=
  t.splits.findSome? fun x => match x.2.wait with
    | .cohort a ph arrived => some (a, ph, arrived)
    | _ => none

/-- Splits waiting on a cohort that has moved on become ready. -/
def Team.cohortReady (t : Team) : Team :=
  { t with splits := t.splits.map fun x => (x.1, match x.2.wait with
      | .cohort .. => { x.2 with wait := .none }
      | _ => x.2) }

/-- Splits that waited to arrive wait for the phase in which the team has now arrived. -/
def Team.cohortRearm (t : Team) (addr phase : Nat) : Team :=
  { t with splits := t.splits.map fun x => (x.1, match x.2.wait with
      | .cohort .. => { x.2 with wait := .cohort addr phase true }
      | _ => x.2) }

/-- The arrival that a membership counted in NEXT made late meets a check that fails: the CBAR that completed the mask has had
no effect, so that its split stands at it again and the others wait for the team. -/
def Team.undoArrival (t : Team) (addr entry : Nat) (pos : ClausePos) (e : TMask) : Team :=
  { t with
    cohMask := t.alive &&& ~~~ e
    cohAddr := addr
    cohSite := none
    splits := t.splits.map fun x => (x.1,
      if x.1 == entry then { x.2 with wait := .none, clause := some pos }
      else match x.2.wait with
        | .cohort .. => { x.2 with wait := .cohortTeam addr }
        | _ => x.2) }

/-- Context fault handling of a late arrival that an EXIT completed: TPC holds the address of the EXIT, AFTER is 1. -/
def State.exitArrivalFault (s : State) (core slot entry pc : Nat) (t : Team) (x : Trap) : State :=
  s.contextFault core slot { t with
    tpc := BitVec.ofNat 64 pc
    tcause := causeWord t.inh true x.code entry x.cls
    taddr := x.addr
    stops := { t.stops with fault := true, toTpc := false } }

/-- The late arrival fails: at its CBAR, or, where an EXIT completed the mask, in context fault handling, after which it is made
again (as 07 R210 has it for a Leave). -/
def State.lateArrivalFails (s : State) (core slot addr : Nat) (t : Team) (d : Denied) : Option State :=
  match t.cohSite, s.teamCx t with
  | some (entry, pos, e), some cx =>
    if e == 0 then
      if t.stops.fault || s.faults.any fun f => f.2.who == .cohort t.gang t.index then none else
      match d with
      | .trap x => some (s.exitArrivalFault core slot entry (pos.base + pos.off) t x)
      | .fault k va a =>
        if !s.faultRoom (coreDie core) then none
        else some (s.postFault { va := va, cx := cx, core := core, slot := slot, kind := k, access := 3, clk := 0
                                 who := .cohort t.gang t.index, addr := a }).2
    else
      let t := t.undoArrival addr entry pos e
      let site : TrapAt := { core := core, slot := slot, entry := entry, pc := pos.base + pos.off, resume := some pos }
      match d with
      | .trap x => some (s.raise t x site)
      | .fault k va a =>
        let s := s.setTeam core slot t
        if s.faultRoom (coreDie core) then
          let (id, s) := s.postFault { va := va, cx := cx, core := core, slot := slot, kind := k, access := 3, clk := 0
                                       who := .team t.gang t.index entry, addr := a }
          some (s.updTeam core slot fun t => t.blockSplit entry (.fault id))
        else some (s.updTeam core slot fun t => t.blockSplit entry (.faultFull k 3 va a))
  | _, _ => none

/-- The sequencer sees that PHASE has changed: the splits go on, or a team that waited to arrive arrives now. -/
def execCohortPhaseSeen (core slot : Nat) (s : State) : Outcome State Fault Refusal :=
  enabled s <| match s.team? core slot with
    | some t => match t.cohortWait with
      | some (addr, ph, arrived) => match s.cohortLook t addr with
        | some keys => s.gate (.fetch (.team core slot)) (s.keysChans false keys) fun s =>
          let c := readCohort s keys
          if c.phase.toNat == ph then none
          else if arrived then some ((s.setTeam core slot t.cohortReady).sync core)
          else match s.cohortKeys t addr with
            | .ok keys => some ((writeCohort s (s.teamVd t) keys c.arrive).setTeam core slot (t.cohortRearm addr c.phase.toNat))
            | .error d => s.lateArrivalFails core slot addr t d
        | none => none
      | none => none
    | none => none

/-! Leaving cohorts at exit (07 R210). -/

/-- Context fault handling of a Leave at exit: TPC holds the address of the EXIT, AFTER is 1. -/
def State.leaveFault (s : State) (core slot pc : Nat) (t : Team) (x : Trap) : State :=
  s.contextFault core slot { t with
    tpc := BitVec.ofNat 64 pc
    tcause := causeWord t.inh true x.code t.last x.cls
    taddr := x.addr
    stops := { t.stops with fault := true } }

/-- A record of this team's Leave is at Renweaz. -/
def State.leaveWaits (s : State) (t : Team) : Bool := s.faults.any fun f => f.2.who == .leave t.gang t.index

def execCohortLeaveAtExit (core slot : Nat) (s : State) : Outcome State Fault Refusal :=
  enabled s <| match s.team? core slot with
    | some t => match t.leaving, t.cohorts with
      | some pc, m :: rest =>
        if t.stops.fault || s.leaveWaits t then none else
        match s.cohortKeys t m.addr with
        | .ok keys => s.gate (.fetch (.team core slot)) (s.keysChans false keys) fun s =>
          let s := (s.drainTeam core slot).sync core
          let s := writeCohort s (s.teamVd t) keys ((readCohort s keys).leave m)
          some (s.updTeam core slot fun t => { t with cohorts := rest })
        | .error (.trap x) => if x.cls == clsRANGE then none else some (s.leaveFault core slot pc t x)
        | .error (.fault k va _) =>
          if !s.faultRoom (coreDie core) then none
          else match s.teamCx t with
            | some cx =>
              some (s.postFault { va := va, cx := cx, core := core, slot := slot, kind := k, access := 3, clk := 0
                                  who := .leave t.gang t.index, addr := m.addr }).2
            | none => none
      | _, _ => none
    | none => none

/-! Roles (07 R212). -/

/-- Registers that the teams of a core hold. -/
def State.regsUsed (s : State) (core : Nat) : Nat :=
  ((List.range 16).map fun i => match s.team? core i with
    | some t => t.threads * t.regs
    | none => 0).sum

/-- Registers of a core: 262,144 of 32 bits (01 R12). -/
def coreRegs : Nat := 262144

/-- A growth that began earlier waits on the core. -/
def State.growthBefore (s : State) (core slot ticket : Nat) : Bool :=
  (List.range 16).any fun i => i != slot && match s.team? core i with
    | some t => match t.pendingRole with
      | some (_, k) => 0 < k && k < ticket
      | none => false
    | none => false

/-- The registers at and above the new count are lost; those gained read 0. -/
def Team.setRegs (t : Team) (n : Nat) : Team := { t with regs := n, v := t.v.filter fun x => x.1 % 512 < n }

/-- The team in its new role, at ENTRY with all its live threads. -/
def Team.enterRole (t : Team) (n entry regs cls : Nat) : Team :=
  let t := t.setRegs regs
  { t with
    role := n
    cls := cls
    pendingRole := none
    handler := t.handler.map fun _ => 0
    joins := []
    spill := []
    splits := [(0, { pc := entry, mask := t.alive, join := none, quantum := 0, limit := t.qnt.toNat, yield := false
                     clause := none, wait := .none })]
    running := some 0 }

/-- The team stands between clauses in every split. -/
def Team.between (t : Team) : Bool := t.splits.all fun x => x.2.clause.isNone

def execRoleSwitch (core slot : Nat) (s : State) : Outcome State Fault Refusal :=
  enabled s <| match s.team? core slot with
    | some t => match t.pendingRole, s.launchOf t with
      | some (n, k), some l =>
        match l.record.roles[n]? with
        | some (entry, regs, cls) =>
          if !s.teamRuns t || !t.between || t.leaving.isSome || !t.flagsZero 0xFFF then none
          else if regs ≤ t.regs then some (s.setTeam core slot (t.enterRole n entry regs cls))
          else if s.regsUsed core + t.threads * (regs - t.regs) ≤ coreRegs &&
              !s.growthBefore core slot (if k == 0 then s.nextId + 1 else k) then
            some (s.setTeam core slot (t.enterRole n entry regs cls))
          else if k == 0 then
            let (id, s) := s.newId
            some (s.setTeam core slot { t with pendingRole := some (n, id + 1) })
          else none
        | none => none
      | _, _ => none
    | none => none

end Sys2Proof.Machine
end

