-- ==== Sys2Proof/Machine/MemoryOps.lean ====
section
/-! DEFINITION. The instructions of the memory access engine, 0x100 to 0x10B, and what completes them (08 R233 to R251; 05 R131;
02 R41, R42, R53). -/

namespace Sys2Proof.Machine

open Sys2Proof Host

/-! Addresses. -/

def memSpace (w : Ins) : Space := spaceOf (w.m 63 61)

def memHint (w : Ins) : Nat := w.m 60 59

/-- The signed byte offset of the 128-bit form (05 R135). -/
def memOffset (w : Ins) : Int := if w.len == .l128 then sx 32 w.imm.toNat else 0

/-- A thread's effective address: base, index where the instruction has one, and offset, exactly (08 R235). -/
def effAddr (s : State) (si : Site) (w : Ins) (sp : Space) (indexed : Bool) (t : Nat) : Int :=
  (rdW s si.core si.team (sp == .g) t w.a : Int) + (if indexed then sx 32 (rd32 s si.core si.team t w.b) else 0) + memOffset w

/-- Element size in bytes. -/
def elemBytes (w : Ins) : Nat := (w.ty.getD .n8).width / 8

/-- Elements of a load or store. -/
def elemCount (w : Ins) : Nat := 2 ^ w.m 55 54

/-- Registers of an element. -/
def elemRegs (w : Ins) : Nat := if elemBytes w == 8 then 2 else 1

/-- Accesses of one thread: one for each point of an E8 type, else one (08 R237). -/
def memParts (w : Ins) : Nat := if isE8ty w.ty then elemCount w else 1

/-- Elements of one access. -/
def partElems (w : Ins) : Nat := elemCount w / memParts w

/-- What a thread's load or store asks of the checks, in the order of its accesses (08 R237). -/
def memWants (w : Ins) (ea : Int) (t : Nat) : List Want :=
  let n := elemBytes w * partElems w
  (List.range (memParts w)).map fun j => { tid := t, ea := ea + n * j, len := n, align := n, base := ea }

/-- The threads' accesses, in thread order. -/
def memAsks (s : State) (si : Site) (w : Ins) (ts : List Nat) : List Want :=
  ts.flatMap fun t => memWants w (effAddr s si w (memSpace w) true t) t

def Team.owner (t : Team) : OwnerRef := .team t.gang t.index

/-- A WINF of the team holds its remote accesses (02 R66, 08 R245). -/
def Team.winfHolds (t : Team) : Bool := t.waitsIn .winf || (t.winf && t.rpend != 0)

/-- A remote access that a WINF holds waits at issue. -/
def winfHolds (si : Site) (items : List MemItem) : Bool := items.any MemItem.isRemote && si.team.winfHolds

/-- A local access of the instruction needs a page-table entry in a channel in bank mode. -/
def State.walksStuck (s : State) (cx : CtxId) (sp : Space) (wants : List Want) : Bool :=
  sp == .g && wants.any fun x => (s.remoteOf cx x.ea.toNat).isNone && s.walkStuck cx x.ea.toNat

/-- The translations that an instruction's accesses use. -/
def State.walkedFor (s : State) (core : Nat) (cx : CtxId) (sp : Space) (wants : List Want) : State :=
  if sp == .g then
    s.walkedAll core cx ((wants.filter fun x => (s.remoteOf cx x.ea.toNat).isNone).map fun x => x.ea.toNat)
  else s

/-- The checks of an instruction over its threads, then its meaning on the places found. -/
def checked (s : State) (si : Site) (sp : Space) (acc : Acc) (wants : List Want)
    (body : State → List (Nat × Place) → Issue) : Issue :=
  match s.reachOf si.team with
  | none => .hold
  | some r =>
    if s.walksStuck r.cx sp wants then .hold else
    match s.check r sp acc wants with
    | .error (.trap x) => .trap x
    | .error (.fault k va addr) => .fault k acc.code va addr
    | .ok places => body (s.walkedFor si.core r.cx sp wants) places

/-! Loads and stores (08 R237, R238). -/

/-- The destination of a thread's load: none where its write is masked and the policy keeps. -/
def loadDst (si : Site) (w : Ins) (t : Nat) : Option RegDst × Bool :=
  let on := (si.team.writeMask w).getLsbD t
  match w.d with
  | .v r => (if on || w.zero then some (.v t r) else none, on)
  | .s r => (some (.s r), true)
  | _ => (none, true)

/-- The items of a load: the accesses of a thread fill its registers in turn. -/
def loadItems (w : Ins) (si : Site) (places : List (Nat × Place)) : List MemItem :=
  (places.zipIdx).map fun x =>
    let d := loadDst si w x.1.1
    { tid := x.1.1, place := x.1.2, data := 0, cmp := 0, dst := d.1.map fun r => r.plus (x.2 % memParts w) (32 * elemRegs w)
      live := d.2 }

/-- Issues a load of checked places. -/
def issueLoad (o : Op) (w : Ins) (si : Site) (s : State) (places : List (Nat × Place)) : Issue :=
  let items := loadItems w si places
  if winfHolds si items then .hold else
  let (id, s) := s.newId
  let s := s.sendLoads si.team.owner id items
  let act := MemAct.load ((w.ty.getD .n8).signed) (elemBytes w) (partElems w) (32 * elemRegs w)
  .done (s.onTeam si fun t => t.enqueue
    { id := id, flag := si.flagOf w, work := .mem act (memHint w) items [], dst := dstCodes o w t.threads })

def execLd (w : Ins) (s : State) : Outcome State Fault Refusal :=
  issueTeam .ld w s fun si e =>
    checked s si (memSpace w) .load (memAsks s si w (threadsOf si.team.threads e)) (issueLoad .ld w si)

def execLdu (w : Ins) (s : State) : Outcome State Fault Refusal :=
  issueTeam .ldu w s fun si e =>
    checked s si (memSpace w) .load (memAsks s si w ((threadsOf si.team.threads e).take 1)) (issueLoad .ldu w si)

/-- The bytes a thread stores, as a number: its elements, the first lowest. -/
def storeData (s : State) (si : Site) (w : Ins) (t : Nat) : Nat :=
  let n := elemBytes w
  let r := elemRegs w
  ((List.range (elemCount w)).map fun j =>
    let x := match w.d with
      | .v d => rdW s si.core si.team (r == 2) t (.v (d + j * r))
      | .s d => rdW s si.core si.team (r == 2) t (.s (d + j * r))
      | d => rd32 s si.core si.team t d
    x % 2 ^ (8 * n) * 2 ^ (8 * n * j)).sum

/-- A write of this address by the team goes through to DRAM. -/
def throughItem (s : State) (si : Site) (sp : Space) (ea : Int) : Bool :=
  match s.teamCx si.team with
  | some cx => s.throughAt cx sp ea
  | none => false

/-- Sends and enqueues a store's items; remote ones count in RPEND and RWIN (08 R243, R244). -/
def issueStore (s : State) (si : Site) (hint : Nat) (act : MemAct) (items : List MemItem) : Issue :=
  if winfHolds si items then .hold else
  let (id, s) := s.newId
  let (sent, s) := s.sendStores si.team.owner items
  .done (s.onTeam si fun t =>
    let t := t.enqueue { id := id, flag := none, work := .mem act hint (items.filter fun x => !x.isRemote) [], dst := [] }
    if sent == 0 then t
    else { t with rpend := t.rpend + sent, rwin := some (BitVec.ofNat 32 s.win), winf := false })

/-- The items of a store: the accesses of a thread take its elements in turn. -/
def storeItems (s : State) (si : Site) (w : Ins) (wants : List Want) (places : List (Nat × Place)) : List MemItem :=
  let part := 8 * elemBytes w * partElems w
  ((wants.zip places).zipIdx).map fun x =>
    { tid := x.1.2.1, place := x.1.2.2, data := storeData s si w x.1.2.1 / 2 ^ (part * (x.2 % memParts w)) % 2 ^ part
      cmp := 0, dst := none, live := true, thru := throughItem s si (memSpace w) x.1.1.ea }

def execSt (w : Ins) (s : State) : Outcome State Fault Refusal :=
  issueTeam .st w s fun si e =>
    let wants := memAsks s si w (threadsOf si.team.threads e)
    checked s si (memSpace w) .store wants fun s' places =>
      issueStore s' si (memHint w) .store (storeItems s si w wants places)

/-! Atomics and reductions (08 R239). -/

/-- The items of an atomic: each thread's operand and compare value. -/
def atomItems (s : State) (si : Site) (w : Ins) (places : List (Nat × Place)) : List MemItem :=
  let wide := (w.ty.getD .n8).width == 64
  places.map fun x =>
    let d := loadDst si w x.1
    { tid := x.1, place := x.2, data := rdW s si.core si.team wide x.1 w.b, cmp := rdW s si.core si.team wide x.1 w.c
      dst := d.1, live := d.2
      thru := throughItem s si (memSpace w) (effAddr s si w (memSpace w) false x.1) }

/-- What an atomic asks of the checks: n bytes, aligned to n. -/
def atomWant (w : Ins) (ea : Int) (t : Nat) : Want :=
  { tid := t, ea := ea, len := elemBytes w, align := elemBytes w }

def execAtom (w : Ins) (s : State) : Outcome State Fault Refusal :=
  issueTeam .atom w s fun si e =>
    let sp := memSpace w
    checked s si sp .atomic ((threadsOf si.team.threads e).map fun t => atomWant w (effAddr s si w sp false t) t) fun s' places =>
      let act := MemAct.atomic (w.m 58 54) (w.ty.getD .n32) (w.d != .z)
      if w.d == .z then issueStore s' si (memHint w) act (atomItems s si w places)
      else
        let (id, s') := s'.newId
        .done (s'.onTeam si fun t => t.enqueue
          { id := id, flag := si.flagOf w, work := .mem act (memHint w) (atomItems s si w places) []
            dst := dstCodes .atom w t.threads })

def execRed (w : Ins) (s : State) : Outcome State Fault Refusal :=
  issueTeam .red w s fun si e =>
    let sp := memSpace w
    checked s si sp .atomic ((threadsOf si.team.threads e).map fun t => atomWant w (effAddr s si w sp false t) t) fun s' places =>
      issueStore s' si (memHint w) (.atomic (w.m 58 54) (w.ty.getD .n32) false) (atomItems s si w places)

/-! Prefetch and cache control (08 R240, R241). -/

/-- The key of a thread's byte that PRF may ask for: mapped, local, not write-locked. -/
def State.prefetchKey (s : State) (r : Reach) (ea : Int) : Option Nat :=
  let a := ea.toNat
  if !(s.inReach r .g ea 1) || (s.remoteOf r.cx a).isSome || s.lockHit r.cx .global a 1 false then none
  else match s.translate r.cx a with
    | .ok l => some l.key
    | .error _ => none

/-- The core fills its L1 with the crumbs of keys that stand in the L2. -/
def State.prefetchL1 (s : State) (core : Nat) (keys : List Nat) : State :=
  ((keys.map (· / 64)).dedup).foldl (fun s c =>
    let ks := keysFrom (64 * c) 64
    let line := (crumbNumbers ks).headD 0
    if (s.lines.get? line).isSome then s.grantLease core c line (leBytes 64 (s.readKeys ks)) else s) s

def execPrf (w : Ins) (s : State) : Outcome State Fault Refusal :=
  issueTeam .prf w s fun si e =>
    match s.reachOf si.team with
    | none => .done s
    | some r =>
      let keys := (threadsOf si.team.threads e).filterMap fun t => s.prefetchKey r (effAddr s si w .g true t)
      let s' := (crumbsOf keys).foldl (fun s c => s.touchAny r.cx.vd (memHint w) false c) s
      .done (if w.mb 54 then s'.prefetchL1 si.core keys else s')

def execCctl (w : Ins) (s : State) : Outcome State Fault Refusal :=
  issueTeam .cctl w s fun si e =>
    checked s si .g .cctl
      ((threadsOf si.team.threads e).map fun t => { tid := t, ea := effAddr s si w .g true t, len := 1, align := 1 })
      fun s places =>
        let items := places.filterMap fun x => match x.2 with
          | .here (k :: _) => some (x.1, k)
          | _ => none
        let (id, s) := s.newId
        let d := match w.d with
          | .p n => some n
          | _ => none
        .block (s.onTeam si fun t => t.enqueue
          { id := id, flag := none, work := .cctl (w.m 51 49) si.entry items d (t.writeMask w) w.zero, dst := [] }) .cctl true

/-- Pins of a set: all of them, and one virtual device's. -/
def pinsIn (ls : List (Nat × Line)) (vd : Option Nat) : Nat :=
  (ls.filter fun x => match x.2.pin, vd with
    | some c, some v => c.vd == v
    | some _, none => true
    | none, _ => false).length

/-- A way of the device's guaranteed ways for a pinned line: an empty one, a lent line's, or a victim's (02 R42). -/
def State.pinWay (s : State) (crumb vd : Nat) : Option (Nat × Option Nat) :=
  let slice := sliceOf (64 * crumb)
  let mask := wayMask (s.wayq slice (s.sliceSlot slice vd))
  let own (w : Nat) : Bool := s.wayUsable slice w && bitAt mask w
  let ls := (s.setLines slice (Config.setIndex crumb)).filter fun x => x.1 != crumb && own x.2.way
  let taken := ls.map fun x => x.2.way
  match (List.range 16).find? fun w => own w && !taken.contains w with
  | some w => some (w, none)
  | none => match (ls.filter fun x => x.2.pin.isNone).find? fun x => x.2.lent with
    | some x => some (x.2.way, some x.1)
    | none => (pickVictim (Config.lruAge (s.freeIx crumb)) (ls.filter fun x => x.2.pin.isNone)).map fun x => (x.2.way, some x.1)

/-- The pin limits of 02 R42 forbid one more pin of this device in the crumb's set. -/
def State.pinForbidden (s : State) (cx : CtxId) (pa : Nat) : Bool :=
  let slice := sliceOf pa
  let q := s.wayq slice (s.sliceSlot slice cx.vd)
  let ls := s.setLines slice (Config.setIndex (pa / 64))
  wayMask q == 0 || 14 ≤ pinsIn ls none + s.waysConverted slice + s.poolWays || wayPinLim q ≤ pinsIn ls (some cx.vd) ||
    s.sealedPA pa

/-- Where a pinned line goes: the way it has if that is guaranteed, else one of pinWay. -/
def State.pinPlace (s : State) (cx : CtxId) (crumb : Nat) : Option (Nat × Option Nat) :=
  let slice := sliceOf (64 * crumb)
  match s.lines.get? crumb with
  | some l =>
    if s.wayUsable slice l.way && bitAt (wayMask (s.wayq slice (s.sliceSlot slice cx.vd))) l.way then some (l.way, none)
    else s.pinWay crumb cx.vd
  | none => s.pinWay crumb cx.vd

/-- CCTL.pin on a crumb: whether this device's pin stands after it (08 R240, 02 R42). -/
def State.pinCrumb (s : State) (cx : CtxId) (pa : Nat) : Bool × State :=
  let crumb := pa / 64
  let refused : Bool × State := (false, s.touchCrumb cx.vd 2 crumb true)
  match (s.lines.get? crumb).bind (·.pin) with
  | some c => if c.vd == cx.vd then (true, s) else refused
  | none =>
    if s.pinForbidden cx pa then refused else
    match s.pinPlace cx crumb with
    | none => refused
    | some (way, out) =>
      let prio := match s.lines.get? crumb with
        | some l => l.prio
        | none => 1
      let s := match out with
        | some c => s.evictCrumb c
        | none => s
      let old := (s.lines.get? crumb).getD { way := way, prio := prio, vd := cx.vd, pin := none, lent := false
                                             lastEl := s.fab, excl := none, tile := false, wts := s.lts
                                             rts := s.lts }
      (true, { s with lines := s.lines.set crumb { old with way := way, prio := prio, vd := cx.vd, pin := some cx, lent := false
                                                            lastEl := s.fab, excl := none } })

/-- One thread's CCTL at the home slice, on the line of a key: q, and the state after it. A pin of a compressed tile is refused
(15 R409). -/
def State.cctlKey (s : State) (cx : CtxId) (op k : Nat) : Bool × State :=
  match keyPA k with
  | none => (false, s)
  | some pa => match op with
    | 1 => if isTileKey k then (false, s.touchTile cx.vd 2 (pa / 64) true) else s.pinCrumb cx pa
    | 2 => match s.lines.get? (pa / 64) with
      | some l => if (l.pin.map (·.vd)) == some cx.vd then (false, { s with lines := s.lines.set (pa / 64) { l with pin := none } })
          else (false, s)
      | none => (false, s)
    | _ => match s.lines.get? (pa / 64) with
      | some l => if l.pin.isSome then (false, s) else (false, s.evictCrumb (pa / 64))
      | none => (false, s)

/-- The threads of a CCTL in order: their q's. -/
def State.cctlAll (s : State) (cx : CtxId) (op : Nat) : List (Nat × Nat) → List (Nat × Bool) × State
  | [] => ([], s)
  | (t, k) :: r =>
    let (q, s) := s.cctlKey cx op k
    let (qs, s) := State.cctlAll s cx op r
    ((t, q) :: qs, s)

/-- The home slices have answered the team's oldest CCTL: its split goes on. -/
def execCctlAnswer (core slot : Nat) (s : State) : Outcome State Fault Refusal :=
  enabled s <| match s.team? core slot with
    | some t =>
      match t.pend.find? fun p => match p.work with | .cctl .. => true | _ => false, s.teamCx t with
      | some p, some cx =>
        if s.stuck t.pend then s.deferPend (.team core slot) t.pend else
        match p.work with
        | .cctl op entry items d wm zero =>
          let (qs, s) := (s.drainTeam core slot).cctlAll cx op items
          some (s.updTeam core slot fun t =>
            let t := { t with
              pend := t.pend.filter fun x => x.id != p.id
              splits := t.splits.alter entry fun sp => { sp with wait := .none } }
            match d with
            | some n => qs.foldl (fun t x => (t.writePbit wm zero x.1 n x.2).writePbit wm zero x.1 (n + 1) (!x.2)) t
            | none => t)
        | _ => none
      | _, _ => none
    | none => none

/-! Windows (08 R245). -/

/-- WINF with remote stores outstanding either blocks its split until they are acknowledged, or only holds the later remote
accesses; the spec says both (08 R245, 02 R66; log 73). -/
def execWinf (w : Ins) (s : State) : Outcome State Fault Refusal :=
  issueBoth .winf w s
    (fun si _ =>
      if winfOver si.team.rpend then .done s
      else if Config.freeBool (s.freeIx 0) then .done (s.onTeam si fun t => { t with winf := true })
      else .block s .winf false)
    (fun si =>
      if winfOver si.ctl.rpend then .done s
      else if Config.freeBool (s.freeIx 0) then .done (s.onCtl si.core fun c => { c with winf := true })
      else .wait s .winf false)

def execWinw (w : Ins) (s : State) : Outcome State Fault Refusal :=
  issueBoth .winw w s
    (fun si _ => if winwOver si.team.rwin s.win then .done (s.onTeam si fun t => { t with rwin := none })
      else .block s .winw false)
    (fun si => if winwOver si.ctl.rwin s.win then .done (s.onCtl si.core fun c => { c with rwin := none })
      else .wait s .winw false)

/-! Message ports (08 R246 to R250). -/

def portOf (w : Ins) : Nat := w.m 50 49

def Gang.txq (g : Gang) (member port : Nat) : List Flit := g.tx.get [] (4 * member + port)

def Gang.rxq (g : Gang) (member port : Nat) : List Flit := g.rx.get [] (4 * member + port)

/-- Gangs of a launch. -/
def LaunchRec.gangs (r : LaunchRec) : Nat := r.gx * r.gy * r.gz

def execMsend (w : Ins) (s : State) : Outcome State Fault Refusal :=
  issueTeam .msend w s fun si _ =>
    match s.gang? si.team.gang, s.launchOf si.team, w.a with
    | some g, some l, .s a =>
      let dst := s.uni64 si w.b
      let member := bits dst 33 32
      if dst / 2 ^ 34 != 0 || g.size ≤ member || l.record.gangs ≤ dst % 2 ^ 32 then .trap ⟨clsPROT, 0, BitVec.ofNat 64 dst⟩
      else if 8 ≤ (g.txq si.team.member (portOf w)).length then .hold
      else
        -- the accesses made before MSEND come first (08 R250)
        let s := s.drainTeam si.core si.slot
        let f : Flit := { words := (List.range 8).map fun i => si.team.sreg (a + i), gang := dst % 2 ^ 32, member := member
                          ts := s.lts }
        .done (s.setGang si.team.gang { g with
          tx := g.tx.set (4 * si.team.member + portOf w) (g.txq si.team.member (portOf w) ++ [f]) })
    | _, _, _ => .hold

/-- The MRECVs of a gang member that wait on a port, oldest first: team place, name, first register. -/
def State.receivers (s : State) (gang member port : Nat) : List (Nat × Nat × Nat) :=
  let all := s.teams.flatMap fun x =>
    if x.2.gang == gang && x.2.member == member then x.2.pend.filterMap fun p => match p.work with
      | .mrecv q d => if q == port then some (x.1, p.id, d) else none
      | _ => none
    else []
  all.insertionSort fun a b => a.2.1 ≤ b.2.1

/-- Gives a flit to a waiting MRECV: its words are results now, and the core's clock advances to its timestamp (08 R250). -/
def State.giveFlit (s : State) (key id d : Nat) (f : Flit) : State :=
  let s := s.setCore (key / 16) ((s.coreOf (key / 16)).advance f.ts)
  { s with teams := s.teams.alter key fun t => { t with pend := t.pend.map fun p =>
      if p.id == id then { p with work := .results ((f.words.zipIdx).map fun x => .s (d + x.2) x.1) 0 } else p } }

/-- Flits in a receive queue go to the MRECVs that wait, the oldest to the oldest (08 R249). -/
def State.matchFlits (s : State) (gang member port : Nat) : Nat → State
  | 0 => s
  | n + 1 =>
    match s.gang? gang with
    | some g => match g.rxq member port, s.receivers gang member port with
      | f :: fs, (key, id, d) :: _ =>
        State.matchFlits ((s.setGang gang { g with rx := g.rx.set (4 * member + port) fs }).giveFlit key id d f)
          gang member port n
      | _, _ => s
    | none => s

def execMrecv (w : Ins) (s : State) : Outcome State Fault Refusal :=
  issueTeam .mrecv w s fun si _ =>
    match w.d with
    | .s d =>
      let (id, s) := (s.drainTeam si.core si.slot).newId
      let s := s.onTeam si fun t => t.enqueue
        { id := id, flag := si.flagOf w, work := .mrecv (portOf w) d, dst := dstCodes .mrecv w t.threads }
      .done (s.matchFlits si.team.gang si.team.member (portOf w) 8)
    | _ => .hold

/-- MPOLL's status word (08 R249). -/
def State.mpollWord (s : State) (t : Team) (port : Nat) : Nat :=
  match s.gang? t.gang with
  | some g =>
    2 ^ 16 * g.mdrops.get 0 (4 * t.member + port) + 2 ^ 8 * boolNat (!(s.receivers t.gang t.member port).isEmpty) +
      2 ^ 4 * (g.txq t.member port).length + (g.rxq t.member port).length
  | none => 0

def execMpoll (w : Ins) (s : State) : Outcome State Fault Refusal :=
  issueTeam .mpoll w s fun si _ =>
    .done (s.onTeam si fun t => t.writeD w false [(0, s.mpollWord si.team (portOf w))])

/-- The oldest flit of a send queue reaches its destination queue, or is dropped (08 R247, R248). -/
def execFlitDeliver (gang member port : Nat) (s : State) : Outcome State Fault Refusal :=
  enabled s <| match s.gang? gang with
    | some g => match g.txq member port with
      | f :: rest =>
        let k := 4 * member + port
        let sent (s : State) : State := match s.gang? gang with
          | some g => s.setGang gang { g with tx := g.tx.set k rest }
          | none => s
        let drop : State := match (sent s).gang? gang with
          | some g => (sent s).setGang gang { g with mdrops := g.mdrops.set k ((g.mdrops.get 0 k + 1) % 2 ^ 16) }
          | none => sent s
        match s.gangs.find? fun x => x.2.launch == g.launch && x.2.lin == f.gang with
        | some (dg, d) =>
          if !d.resident || 8 ≤ (d.rxq f.member port).length then none
          else
            let s := sent s
            match s.gang? dg with
            | some d => some ((s.setGang dg { d with
                rx := d.rx.set (4 * f.member + port) (d.rxq f.member port ++ [f]) }).matchFlits dg f.member port 8)
            | none => none
        | none =>
          match s.launch? g.launch with
          | some l => if f.gang < l.nextGang then some drop else none
          | none => some drop
      | [] => none
    | none => none

/-! Completion (05 R131, R132; 02 R53). -/

/-- The operation's results are written, its flag drops, and its flags enter TSR. -/
def Team.land (t : Team) (p : Pend) (ws : List RegWrite) (fl : Nat) : Team :=
  let t := ws.foldl Team.applyWrite { t with pend := t.pend.filter fun x => x.id != p.id }
  let t := match p.flag with
    | some f => t.setFlag f (t.flag f - 1)
    | none => t
  t.addTsr fl

/-- The register that a write writes, as an operand code. -/
def RegWrite.code (x : RegWrite) : Nat :=
  match x with
  | .v _ r _ => r
  | .s r _ => 0x200 + r
  | .p _ n _ => 0x240 + n
  | .k r _ => r
  | .word _ _ => 0x3FF

/-- The writes an item will make, whatever their values. -/
def MemItem.toWrite (x : MemItem) (act : MemAct) : List RegWrite :=
  match act with
  | .load sg n cnt b => loadWrites x sg n cnt b 0
  | .store => []
  | .atomic _ t ret => if ret then dstWrites x.dst (if t.width == 64 then 64 else 32) x.live 0 else []

/-- The writes that an operation has ready, and those that are still to come. -/
def Pend.writes (p : Pend) : List RegWrite × List RegWrite :=
  match p.work with
  | .mem act _ items ws => (ws, items.flatMap fun x => x.toWrite act)
  | .remote sg n cnt b items ws => (ws, items.flatMap fun x => loadWrites x sg n cnt b 0)
  | .results ws _ => (ws, [])
  | _ => ([], [])

/-- An operation with other writes ready. -/
def Pend.withWrites (p : Pend) (ws : List RegWrite) : Pend :=
  match p.work with
  | .mem act hint items _ => { p with work := .mem act hint items ws }
  | .remote sg n cnt b items _ => { p with work := .remote sg n cnt b items ws }
  | .results _ fl => { p with work := .results ws fl }
  | _ => p

/-- Some of an operation's registers are written before it completes: the writes of the named places among those ready. A
register that it will not write again holds back no writer any longer (05 R132). -/
def Team.landPart (t : Team) (p : Pend) (part : List Nat) : Team :=
  let (ready, later) := p.writes
  let now := ((ready.zipIdx).filter fun x => part.contains x.2).map (·.1)
  let rest := ((ready.zipIdx).filter fun x => !part.contains x.2).map (·.1)
  let p' := { p.withWrites rest with dst := p.dst.filter fun c => (rest ++ later).any fun x => x.code == c }
  now.foldl Team.applyWrite { t with pend := t.pend.map fun q => if q.id == p.id then p' else q }

/-- HITR takes its records: the oldest go to its threads in order, the rest get the empty record (13 R379). -/
def Team.takeHits (t : Team) (ts : List Nat) (d : Nat) (wm : TMask) (zero : Bool) : List RegWrite × Team :=
  let empty : List W32 := [0, 0, 0, 0, 0, 0, 0xFF, 0]
  let l := (ts.zipIdx).map fun x => (x.1, t.hits.getD x.2 empty)
  (l.flatMap fun x => (x.2.zipIdx).flatMap fun y =>
      if wm.getLsbD x.1 then [.v x.1 (d + y.2) y.1] else if zero then [.v x.1 (d + y.2) 0] else [],
    { t with hits := t.hits.drop ts.length })

/-- A HITR that need not wait reaches the hit queue (13 R379). -/
def Team.reachHits (t : Team) (id : Nat) : Team :=
  match t.pend.find? fun p => p.id == id with
  | some p => match p.work with
    | .hitr ts d wm zero wait =>
      if wait && t.hits.isEmpty && t.rays != 0 then t else
      let (ws, t) := t.takeHits ts d wm zero
      { t with pend := t.pend.map fun q => if q.id == id then { q with work := .results ws 0 } else q }
    | _ => t
  | none => t

/-! MSTAT's word, taken once the team's earlier matrix operations have completed (10 R302). -/

def State.mx (s : State) (core : Nat) : Matrix := (s.coreOf core).mx

def Matrix.held? (m : Matrix) (team n : Nat) : Option MSlot :=
  match m.slots.get? n with
  | some x => if x.holder == some team then some x else none
  | none => none

def Matrix.acc? (m : Matrix) (team n : Nat) : Option MAcc :=
  match m.accs.get? n with
  | some x => if x.holder == some team then some x else none
  | none => none

/-- STATE and NEXT of the team's walk. -/
def Team.walkWord (t : Team) : Nat :=
  match t.walk with
  | some w => 2 ^ 30 * w.state + w.next % 2 ^ 24
  | none => 0

def State.mstatWord (s : State) (core slot : Nat) (t : Team) (sel : Nat) : Nat :=
  let m := s.mx core
  match sel with
  | 0 => maskOf 32 fun n => (m.held? slot n).isSome
  | 1 => maskOf 16 fun n => (m.acc? slot n).isSome
  | 2 => t.walkWord
  | _ => 2 ^ 8 * t.mreason + t.mclass

/-- A fetch that the team issued before the named operation is in flight. -/
def State.matrixBusy (s : State) (t : Team) (op : Nat) : Bool :=
  s.ops.any fun x => x.1 < op && x.2.gang == t.gang && x.2.index == t.index && !x.2.byCtl && match x.2.work with
    | .fetch f => f.walk.isNone
    | _ => false

/-- An MSTAT whose team has no earlier fetch in flight takes its word. -/
def State.reachMstat (s : State) (core slot op : Nat) : State :=
  match s.team? core slot with
  | some t =>
    if s.matrixBusy t op then s
    else s.setTeam core slot { t with pend := t.pend.map fun p => match p.work with
      | .mstat sel d =>
        if p.id == op then { p with work := .results [.s d (BitVec.ofNat 32 (s.mstatWord core slot t sel))] 0 } else p
      | _ => p }
  | none => s

/-- The named operation of a team as it stands, with its results so far. -/
def State.pendOf (s : State) (core slot op : Nat) : Option Pend :=
  (s.team? core slot).bind fun t => t.pend.find? fun p => p.id == op

/-- A long-latency operation of a team completes, once every access of it has been made; or the next access up to it is made and
some of its registers are written: those of the named places in its list. -/
def execLongLatencyComplete (core slot op : Nat) (part : Option (List Nat)) (s : State) : Outcome State Fault Refusal :=
  enabled s <| match s.team? core slot with
    | some t =>
      if !t.pend.any fun p => p.id == op && p.flag.isSome then none
      else if s.stuck (pendsTo op t.pend) then s.deferPend (.team core slot) t.pend else
      match part with
      | none =>
        let (s, ps) := s.performTo core (s.teamVd t) op t.pend
        let s := (s.updTeam core slot fun t => { t with pend := ps }.reachHits op).reachMstat core slot op
        match s.pendOf core slot op with
        | some p => match p.work with
          | .results ws fl => some (s.updTeam core slot fun t => t.land p ws fl)
          | _ => none
        | none => none
      | some l =>
        let (s, ps) := s.performNext core (s.teamVd t) op t.pend
        let s := s.updTeam core slot fun t => { t with pend := ps }
        match s.pendOf core slot op with
        | some p => some (s.updTeam core slot fun t => t.landPart p l)
        | none => some s
    | none => none

/-- A store or an atomic without a result. -/
def Pend.isStore (p : Pend) : Bool :=
  match p.work with
  | .mem .store _ _ _ => true
  | .mem (.atomic _ _ ret) _ _ _ => !ret
  | _ => false

/-- The next access of an agent, up to its oldest store, is accepted at its home: each thread's is an event of its own
(02 R52, R53). -/
def execStoreComplete (who : Agent) (s : State) : Outcome State Fault Refusal :=
  enabled s <| match who with
    | .team core slot => match s.team? core slot with
      | some t => match t.pend.find? Pend.isStore with
        | some p =>
          if s.stuck (pendsTo p.id t.pend) then s.deferPend who t.pend else
          let (s, ps) := s.performNext core (s.teamVd t) p.id t.pend
          some (s.updTeam core slot fun t => { t with pend := ps })
        | none => none
      | none => none
    | .ctl core => match (s.ctl core).pend.find? Pend.isStore with
      | some p =>
        if s.stuck (pendsTo p.id (s.ctl core).pend) then s.deferPend who (s.ctl core).pend else
        let (s, ps) := s.performNext core (s.ctlVd core) p.id (s.ctl core).pend
        some (s.onCtl core fun c => { c with pend := ps })
      | none => none

/-! Caches (02 R41, R53). -/

def execEvictLastExpiry (crumb : Nat) (s : State) : Outcome State Fault Refusal :=
  enabled s <| match s.lines.get? crumb with
    | some l =>
      if l.prio == 2 && l.lastEl + 65536 ≤ s.fab then some { s with lines := s.lines.set crumb { l with prio := 1 } } else none
    | none => none

/-- A core's logical clock passes the leases it holds, and its L1 keeps no line (02 R53). -/
def execLeaseExpiry (core : Nat) (s : State) : Outcome State Fault Refusal :=
  let c := s.coreOf core
  let top := c.l1.foldl (fun m x => max m (x.lease + 1)) c.lclk
  .next (s.setCore core { c with lclk := top, l1 := [] })

end Sys2Proof.Machine
end

