-- ==== Sys2Proof/Machine/Control.lean ====
section
/-! DEFINITION. The control thread's instructions, 0x140 to 0x14E, and what ends its waits (09 R252 to R276). -/

namespace Sys2Proof.Machine

open Sys2Proof Host

/-! Start and stop (09 R253, R254). -/

/-- Records that engines hold for a core enter its event queue while there is room (01 R29). -/
def State.postHeld (s : State) (core : Nat) : Nat → State
  | 0 => s
  | n + 1 =>
    let c := s.coreOf core
    match c.held with
    | (cx, r) :: rest =>
      if c.ctl.owner == some cx then
        if c.eq.length < 64 then
          State.postHeld (s.setCore core { c with held := rest, eq := c.eq ++ [r], posted := (c.posted + 1) % 2 ^ 16 }) core n
        else s
      else State.postHeld ((s.setCore core { c with held := rest }).postEvent core cx r) core n
    | [] => s

/-- Fault records on which a control thread waits are withdrawn with it. -/
def State.dropCtlFaults (s : State) (core : Nat) : State := { s with faults := s.faults.filter fun x => x.2.who != .ctl core }

/-- The control thread becomes free: its stores complete, its event queue is emptied, its fault record is withdrawn, and held
records are dropped and counted as 09 R265 says. -/
def State.freeCtl (s : State) (core : Nat) : State :=
  let s := (s.drainCtl core).dropCtlFaults core
  let cmds : Tbl StackCmd := s.scmds.map fun x => (x.1, if x.2.core == core then { x.2 with orphan := true } else x.2)
  let sess : Tbl Session := s.sessions.map fun x => (x.1, if x.2.core == core then { x.2 with orphan := true } else x.2)
  let s := { s with scmds := cmds, sessions := sess }
  let c := s.coreOf core
  let s := s.setCore core { c with
    eq := []
    held := []
    ctl := { c.ctl with owner := none, mode := .free, clause := none, pend := [], step := false, raster := RasterState.init } }
  c.held.foldl (fun s x => s.postEvent core x.1 x.2) s

/-- The state of a control thread as a program starts (09 R253, 15 R417); CAUSE, CODE and FA read 0 again (log 22). A program that
Renweaz restarts gives up what the earlier one waited for (09 R273). -/
def State.startCtl (s : State) (core : Nat) (cx : CtxId) (entry arg : Nat) : State :=
  let s := (s.drainCtl core).dropCtlFaults core
  let c := s.coreOf core
  s.setCore core { c with
    ctl := { Ctl.init with owner := some cx, mode := .running, pc := entry, copySeq := c.ctl.copySeq
                           run := c.ctl.run + 1 }.setK 0 arg
    eq := []
    posted := 0
    drops := 0
    dq := c.dq.filter fun x => x.1 == cx }

/-! Loads and stores (09 R259, R260). -/

/-- ea = kA + (B << SH) mod 2^64. -/
def kAddr (s : State) (si : CtlSite) (w : Ins) : Nat :=
  (rdK s si.core w.a + rdK s si.core w.b * 2 ^ w.m 56 54) % 2 ^ 64

/-- A WINF holds the control thread's remote accesses (02 R66, 08 R245). -/
def Ctl.winfHolds (c : Ctl) (p : Place) : Bool :=
  match p with
  | .remote .. => c.winf && c.rpend != 0
  | .here _ => false

/-- The one access of a KLD or KST, checked. -/
def kChecked (s : State) (si : CtlSite) (w : Ins) (acc : Acc) (body : State → Place → CtlIssue) : CtlIssue :=
  let n := (w.ty.getD .n8).width / 8
  let sp := spaceOf (w.m 63 61)
  let wants : List Want := [{ tid := 0, ea := kAddr s si w, len := n, align := n }]
  if s.walksStuck si.owner sp wants then .wait s .wait false else
  match s.check (ctlReach si.core si.owner) sp acc wants with
  | .error (.trap x) => .trap x
  | .error (.fault k va addr) => .fault k acc.code va addr
  | .ok ((_, p) :: _) => if si.ctl.winfHolds p then .wait s .wait false else body (s.walkedFor si.core si.owner sp wants) p
  | .ok [] => .done s

def CtlSite.ref (si : CtlSite) : OwnerRef := .ctl si.core si.ctl.run

/-- Puts an operation behind the control thread's others. -/
def Ctl.enqueue (c : Ctl) (p : Pend) : Ctl := { c with pend := c.pend ++ [p] }

def execKld (w : Ins) (s : State) : Outcome State Fault Refusal :=
  issueCtl .kld w s fun si =>
    kChecked s si w .load fun s p =>
      let t := w.ty.getD .n8
      let dst := match w.d with
        | .k r => some (RegDst.k r)
        | _ => none
      let item : MemItem := { tid := 0, place := p, data := 0, cmp := 0, dst := dst, live := true }
      let (id, s) := s.newId
      let s := s.sendLoads si.ref id [item]
      .wait (s.onCtl si.core fun c => c.enqueue
        { id := id, flag := none, work := .mem (.load t.signed (t.width / 8) 1 64) 0 [item] [], dst := [] }) .load true

def execKst (w : Ins) (s : State) : Outcome State Fault Refusal :=
  issueCtl .kst w s fun si =>
    kChecked s si w .store fun s p =>
      let n := (w.ty.getD .n8).width / 8
      let item : MemItem :=
        { tid := 0, place := p, data := rdK s si.core w.d % 2 ^ (8 * n), cmp := 0, dst := none, live := true
          thru := s.throughAt si.owner (spaceOf (w.m 63 61)) (kAddr s si w) }
      let (id, s) := s.newId
      let (sent, s) := s.sendStores si.ref [item]
      .done (s.onCtl si.core fun c =>
        if sent == 0 then c.enqueue { id := id, flag := none, work := .mem .store 0 [item] [], dst := [] }
        else { c with rpend := c.rpend + sent, rwin := some (BitVec.ofNat 32 s.win), winf := false })

/-- Writes of k registers. -/
def Ctl.applyWrite (c : Ctl) (x : RegWrite) : Ctl :=
  match x with
  | .k r y => c.setK r y.toNat
  | .word a y => { c with got := c.got.set a y }
  | _ => c

def RegWrite.isWord (x : RegWrite) : Bool :=
  match x with
  | .word _ _ => true
  | _ => false

/-- The data of a KLD arrive: the load and every store before it take their place, and kD is written. The words of an SRED or a
LAUNCH arrive alike, and it goes on. -/
def execKldDataArrive (core : Nat) (s : State) : Outcome State Fault Refusal :=
  enabled s <|
    if (s.ctl core).mode != .load then none
    else if s.stuck (s.ctl core).pend then s.deferPend (.ctl core) (s.ctl core).pend else
    let s := s.drainCtl core
    match (s.ctl core).pend with
    | p :: rest => match p.work with
      | .results ws _ =>
        some (s.onCtl core fun c =>
          let c := { (ws.foldl Ctl.applyWrite c) with pend := rest, mode := .running }
          if ws.any RegWrite.isWord then c else c.stepped)
      | _ => none
    | [] => none

/-! Transfers (09 R261, R262). -/

/-- COND of KBR. -/
def kCond (cond a b : Nat) : Bool :=
  let x := sx 64 a
  let y := sx 64 b
  match cond with
  | 0 => a == b
  | 1 => a != b
  | 2 => x < y
  | 3 => x ≤ y
  | 4 => y < x
  | 5 => y ≤ x
  | 6 => a < b
  | _ => b ≤ a

def execKbr (w : Ins) (s : State) : Outcome State Fault Refusal :=
  issueCtl .kbr w s fun si =>
    if kCond (w.m 52 49) (rdK s si.core w.a) (rdK s si.core w.b) then
      .goto s (blockTarget si.pos.base (sx 20 (w.d.code + 1024 * w.m 62 53)))
    else .goto s si.pos.next

def execKjmp (w : Ins) (s : State) : Outcome State Fault Refusal :=
  issueCtl .kjmp w s fun si => .goto s (blockTarget si.pos.base (offsetAB w))

/-- KJX and KRET: an address off a block, or outside the space, traps with CTLFA. -/
def kIndirect (s : State) (si : CtlSite) (w : Ins) : CtlIssue :=
  let a := rdK s si.core w.a
  if a % 32 != 0 then .trap ⟨clsALIGN, 0, BitVec.ofNat 64 a⟩
  else if 2 ^ 48 ≤ a then .trap ⟨clsPROT, 0, BitVec.ofNat 64 a⟩
  else .goto s a

def execKjx (w : Ins) (s : State) : Outcome State Fault Refusal := issueCtl .kjx w s fun si => kIndirect s si w

def execKret (w : Ins) (s : State) : Outcome State Fault Refusal := issueCtl .kret w s fun si => kIndirect s si w

def execKcall (w : Ins) (s : State) : Outcome State Fault Refusal :=
  issueCtl .kcall w s fun si => .goto (s.writeK si.core w.d si.pos.next) (blockTarget si.pos.base (offsetAB w))

/-! The event queue (09 R263 to R266, R275). -/

/-- Word 1 of an event record. -/
def EventRec.word1 (r : EventRec) : Nat :=
  2 ^ 60 * (r.src % 16) + 2 ^ 48 * (r.status % 256) + 2 ^ 32 * (r.unit % 2 ^ 16) + r.detail.toNat

def execEqpop (w : Ins) (s : State) : Outcome State Fault Refusal :=
  issueCtl .eqpop w s fun si =>
    let c := s.coreOf si.core
    match w.d, c.eq with
    | .k d, r :: rest =>
      let s := s.setCore si.core { c.advance r.ts with eq := rest }
      .done (s.onCtl si.core fun c => (c.setK d r.tag.toNat).setK (d + 1) r.word1)
    | .k d, [] => .done (s.onCtl si.core fun c => (c.setK d 0).setK (d + 1) 0)
    | _, _ => .done s

def execEqwait (w : Ins) (s : State) : Outcome State Fault Refusal :=
  issueCtl .eqwait w s fun si =>
    let c := s.coreOf si.core
    let n := rdK s si.core w.a % 2 ^ 32
    if !c.eq.isEmpty then .done s
    else .wait s (.eqwait (if n == 0 then none else some (c.clk + n))) true

def execEqwaitTimeout (core : Nat) (s : State) : Outcome State Fault Refusal :=
  enabled s <|
    let c := s.coreOf core
    match c.ctl.mode with
    | .eqwait (some til) =>
      if til ≤ c.clk then some (s.onCtl core fun c => { c with mode := .running }.stepped) else none
    | _ => none

/-! The decision queue (09 R267). -/

def execDqpush (w : Ins) (s : State) : Outcome State Fault Refusal :=
  issueCtl .dqpush w s fun si =>
    if 256 ≤ (s.coreOf si.core).dq.length then .wait s .wait false
    else
      let x := rdK s si.core w.a
      let s := s.drainCtl si.core
      let c := s.coreOf si.core
      .done (s.setCore si.core { c with dq := c.dq ++ [(si.owner, BitVec.ofNat 64 x)] })

/-! LAUNCH (09 R269). -/

/-- A LAUNCH that appends nothing: its record is posted at once. -/
def launchRefused (s : State) (si : CtlSite) (tag detail : Nat) : CtlIssue :=
  .done (s.postEvent si.core si.owner { tag := BitVec.ofNat 64 tag, src := 1, status := 3, unit := coreDie si.core
                                        detail := BitVec.ofNat 32 detail })

/-- The append: the record, PROD and the dispatcher's note, in one event. -/
def launchAppend (s : State) (qcx : CtxId) (q : Nat) (qu : Queue) (h : QHead) (hk rk : List Nat) (bs : List Byte)
    (note : Issuer) : State :=
  let s := (s.putKeys rk bs).setQ32 hk offProd (h.prod + 1)
  s.setQueue qcx q { qu with notes := qu.notes.set (h.prod % 2 ^ h.log2n) note, passed := false }

/-- An instruction of the control thread whose own accesses reach channels: it waits in their deferred queues while they bar it. -/
def kGate (s : State) (si : CtlSite) (chans : List Nat) (body : State → CtlIssue) : CtlIssue :=
  let w : Waiter := .fetch (.ctl si.core)
  if chans.any (s.barred (some w)) then .flow ((s.deferAs w chans).getD s) else body (s.undefer w)

/-- The accesses of a read of n bytes as KLDs make it: words of eight bytes (09 R259, 14 R393). -/
def ctlWants (a n align : Nat) : List Want :=
  (List.range (n / 8)).map fun i => { tid := 0, ea := a + 8 * i, len := 8, align := if i == 0 then align else 8, base := a }

/-- The words of a read: local ones through the core's L1, remote ones as they have arrived. -/
def State.ctlTake (s : State) (si : CtlSite) : List (Want × Place) → State × List Byte
  | [] => (s, [])
  | (x, p) :: r =>
    let (s, d) := match p with
      | .here keys => s.loadKeys ⟨si.core, si.owner.vd, 0⟩ keys
      | .remote .. => (s, (si.ctl.got.get 0 x.ea.toNat).toNat)
    let (s, bs) := State.ctlTake s si r
    (s, leBytes 8 d ++ bs)

/-- The remote words of a read that have not arrived. -/
def CtlSite.missing (si : CtlSite) (l : List (Want × Place)) : List MemItem :=
  (l.filter fun x => MemItem.isRemote { tid := 0, place := x.2, data := 0, cmp := 0, dst := none, live := true } &&
      (si.ctl.got.get? x.1.ea.toNat).isNone).map fun x =>
    { tid := 0, place := x.2, data := 0, cmp := 0, dst := some (.word x.1.ea.toNat), live := true }

/-- The thread sends loads for remote words and waits for them at the instruction. -/
def State.ctlSend (s : State) (si : CtlSite) (items : List MemItem) : CtlIssue :=
  if items.any fun x => si.ctl.winfHolds x.place then .wait s .wait false else
  let (id, s) := s.newId
  .wait ((s.sendLoads si.ref id items).onCtl si.core fun c => c.enqueue
    { id := id, flag := none, work := .remote false 8 1 64 items [], dst := [] }) .load false

def Place.keys (p : Place) : List Nat :=
  match p with
  | .here ks => ks
  | .remote .. => []

/-- A read of the control thread as KLDs make it: the bytes, or what it comes to instead. -/
def State.ctlBytes (s : State) (si : CtlSite) (a n align : Nat) : Except CtlIssue (State × List Byte) :=
  let wants := ctlWants a n align
  let w : Waiter := .fetch (.ctl si.core)
  if s.walksStuck si.owner .g wants then .error (.wait s .wait false) else
  match s.check (ctlReach si.core si.owner) .g .load wants with
  | .error (.trap x) => .error (.trap x)
  | .error (.fault k va addr) => .error (.fault k 1 va addr)
  | .ok places =>
    let l := wants.zip (places.map (·.2))
    let chans := s.keysChans false (l.flatMap fun x => x.2.keys)
    match si.missing l with
    | [] =>
      if chans.any (s.barred (some w)) then .error (.wait ((s.deferAs w chans).getD s) .wait false)
      else .ok (((s.undefer w).walkedFor si.core si.owner .g wants).ctlTake si l)
    | items => .error (s.ctlSend si items)

def execLaunch (w : Ins) (s : State) : Outcome State Fault Refusal :=
  issueCtl .launch w s fun si =>
    let a := rdK s si.core w.a
    let b := rdK s si.core w.b
    let tag := rdK s si.core w.c
    if a % 128 != 0 then .trap ⟨clsALIGN, 0, BitVec.ofNat 64 a⟩
    else if 16 ≤ b then .trap ⟨clsPROT, 0, BitVec.ofNat 64 b⟩
    else match s.findQueue si.owner.vd b with
    | none => launchRefused s si tag 0
    | some (qcx, qu) =>
      let s := s.drainCtl si.core
      match s.span qcx qu.header 64 false with
      | .error (k, va) => .fault k 1 va va
      | .ok hk =>
        let h := s.qhead hk
        if !h.enabled || !h.feed then launchRefused s si tag 0
        else if w.mb 49 && qu.die != coreDie si.core then launchRefused s si tag 1
        else if h.waiting == 2 ^ h.log2n then .wait s .wait false
        else match s.ctlBytes si a 128 128 with
        | .error r => r
        | .ok (s, bs) =>
          match s.span qcx qu.header 64 true, s.span qcx (h.slotVa h.prod) 128 true with
          | .error (k, va), _ | _, .error (k, va) => .fault k 2 va va
          | .ok hk, .ok rk =>
            kGate s si (s.keysChans false (hk ++ rk)) fun s =>
            .done (launchAppend s qcx b qu h hk rk bs
              { cx := si.owner, core := si.core, near := w.mb 49, tag := BitVec.ofNat 64 tag })

/-! Waiting, halting, traps, core registers (09 R256, R257, R272). -/

def execKsleep (w : Ins) (s : State) : Outcome State Fault Refusal :=
  issueCtl .ksleep w s fun si =>
    let n := rdK s si.core w.a % 2 ^ 32
    if n == 0 then .done s else .wait s (.ksleep ((s.coreOf si.core).clk + n)) true

def execKsleepExpiry (core : Nat) (s : State) : Outcome State Fault Refusal :=
  enabled s <|
    let c := s.coreOf core
    match c.ctl.mode with
    | .ksleep til => if til ≤ c.clk then some (s.onCtl core fun c => { c with mode := .running }.stepped) else none
    | _ => none

def execKhalt (w : Ins) (s : State) : Outcome State Fault Refusal :=
  issueCtl .khalt w s fun si => .flow (s.freeCtl si.core)

def execKtrap (w : Ins) (s : State) : Outcome State Fault Refusal :=
  issueCtl .ktrap w s fun _ => .trap ⟨clsTRAP, w.m 56 49, 0⟩

/-- STATE of CTLSTAT (09 R257). -/
def CtlMode.code (m : CtlMode) : Nat :=
  match m with
  | .free => 0
  | .running | .held => 1
  | .stopped _ => 3
  | _ => 2

/-- SPALLOC: 4 KiB units allotted to gangs (02 R38). -/
def Core.spalloc (c : Core) : Nat := (c.allot.map fun x => x.2.2).sum

/-- DQPOPs of a context that wait on a core. -/
def State.waiters (s : State) (core : Nat) (cx : CtxId) : Nat := (s.dqLine core cx).length

/-- A core register as KCSR reads it. -/
def State.coreReg (s : State) (core : Nat) (n : Nat) : Nat :=
  let c := s.coreOf core
  let own := c.ctl.owner.getD ⟨0, 0⟩
  match n with
  | 0 => 2 ^ 56 * (c.ctl.code % 256) + 2 ^ 52 * (c.ctl.cause % 16) + 2 ^ 16 * own.vd + 2 ^ 8 * own.ctx + c.ctl.mode.code
  | 1 => 2 ^ 48 * c.drops + 2 ^ 32 * c.posted + c.eq.length
  | 2 => 2 ^ 48 * s.waiters core own + (c.dq.filter fun x => x.1 == own).length
  | 3 => 2 ^ 8 * c.spalloc + 2 ^ 4 * c.spstep
  | 4 => c.ctl.clrb.toNat
  | 5 => c.ctl.pc % 2 ^ 48
  | _ => c.ctl.fa

/-- CLRB as written: [63:48] and [5:0] are written as zero. -/
def clrbOf (x : Nat) : W64 := BitVec.ofNat 64 (x % 2 ^ 48 / 64 * 64)

def execKcsr (w : Ins) (s : State) : Outcome State Fault Refusal :=
  issueCtl .kcsr w s fun si =>
    let n := w.m 56 49
    let s := s.sync si.core
    let x := if n == 5 then si.pc else s.coreReg si.core n
    let a := rdK s si.core w.a
    let s := s.writeK si.core w.d x
    .done (if w.mb 57 then s.onCtl si.core fun c => { c with clrb := clrbOf a } else s)

end Sys2Proof.Machine
end

