-- ==== Sys2Proof/Machine/Fabric.lean ====
section
/-! DEFINITION. The fabric (01 R20 to R22): routers, what attaches to them, the path of a packet, and the arbiters on it. The
arbiters are counted here too (01 R10; 03 R70). -/

namespace Sys2Proof.Machine

open Sys2Proof

/-- A router of a compute die: one of 7 rows by 10 columns (R20). -/
structure Router where
  die : Nat
  row : Nat
  col : Nat
  deriving DecidableEq, Repr

/-! Attachments (R20, R21). -/

/-- The router that carries a cluster, by its global number. -/
def clusterRouter (cluster : Nat) : Router := ⟨cluster / 24, 3, 2 + cluster % 24 / 4⟩

/-- The row and column of slice router n of a die, in row-major order past (3, 2) to (3, 7). -/
def sliceSpot (n : Nat) : Nat × Nat :=
  if n < 32 then (n / 10, n % 10) else if n < 34 then (3, n - 24) else ((n + 6) / 10, (n + 6) % 10)

/-- The router that carries a slice, by its global number: two slices to a router. -/
def sliceRouter (slice : Nat) : Router :=
  ⟨slice / 128, (sliceSpot (slice % 128 / 2)).1, (sliceSpot (slice % 128 / 2)).2⟩

/-- The lane group of a stack port that a pseudo-channel of the stack uses. -/
def laneOf (channel : Nat) : Nat := channel % 10

/-- The router at which a stack's port carries a pseudo-channel. -/
def stackRouter (stack channel : Nat) : Router := ⟨stack / 3, 2 * (stack % 3), laneOf channel⟩

/-- The row of the links from a die to the die k places on, k = 1 to 3. -/
def peerRow (k : Nat) : Nat := if k == 1 then 1 else if k == 2 then 5 else 6

/-- The routers of a die's hub link. -/
def hubRouters (die : Nat) : List Router := [⟨die, 3, 1⟩, ⟨die, 3, 8⟩, ⟨die, 3, 9⟩]

/-- The router of a die's raster engine and dispatcher. -/
def rasterRouter (die : Nat) : Router := ⟨die, 3, 0⟩

/-! Paths (R22). -/

/-- One hop: along a row, along a column, or across the lane group of a column to another die. -/
inductive Hop where
  | row (r : Router) (col : Nat)
  | column (r : Router) (row : Nat)
  | cross (r : Router) (die : Nat)
  deriving DecidableEq, Repr

/-- Where a hop ends: a crossing arrives in the same column, at the peer's row for links to the die it comes from. -/
def Hop.dest (h : Hop) : Router :=
  match h with
  | .row r c => { r with col := c }
  | .column r w => { r with row := w }
  | .cross r d => ⟨d, peerRow ((r.die + 4 - d) % 4), r.col⟩

def rowHop (r : Router) (col : Nat) : List Hop := if r.col == col then [] else [.row r col]

def columnHop (r : Router) (row : Nat) : List Hop := if r.row == row then [] else [.column r row]

/-- Within a die: along the source row, then along the destination column. -/
def dieRoute (a b : Router) : List Hop := rowHop a b.col ++ columnHop { a with col := b.col } b.row

/-- The path of a packet. -/
def route (a b : Router) : List Hop :=
  if a.die == b.die then dieRoute a b
  else
    let link : Router := { a with row := peerRow ((b.die + 4 - a.die) % 4) }
    columnHop a link.row ++ [.cross link b.die] ++ dieRoute (Hop.cross link b.die).dest b

/-- From a core to the home slice of a physical address. -/
def routeToHome (core pa : Nat) : List Hop := route (clusterRouter (coreCluster core)) (sliceRouter (sliceOf pa))

/-- From the home slice to the stack port, on a miss. -/
def routeToStack (pa : Nat) : List Hop := route (sliceRouter (sliceOf pa)) (stackRouter (stackOf pa) (channelOf pa))

/-! The arbiters on a path. -/

/-- The port of a router for a hop within its die: 0 to 8 to the other columns, 9 to 14 to the other rows. -/
def portTo (own other base : Nat) : Nat := base + if other < own then other else other - 1

/-- The arbiter that a hop passes: a router link port, or a lane group to another die. -/
def Hop.arb (h : Hop) : ArbKey :=
  match h with
  | .row r c => ⟨3, 15 * (70 * r.die + 10 * r.row + r.col) + portTo r.col c 0⟩
  | .column r w => ⟨3, 15 * (70 * r.die + 10 * r.row + r.col) + portTo r.row w 9⟩
  | .cross r d => ⟨4, 30 * r.die + 10 * ((d + 4 - r.die) % 4 - 1) + r.col⟩

/-- The arbiters that a core's access passes on its way to its home slice. -/
def arbsToHome (core pa : Nat) : List ArbKey := (routeToHome core pa).map Hop.arb ++ [⟨2, sliceOf pa⟩]

/-- The arbiters that a miss passes beyond the slice. -/
def arbsToStack (pa : Nat) : List ArbKey :=
  (routeToStack pa).map Hop.arb ++
    [⟨6, 20 * stackOf pa + 2 * laneOf (channelOf pa)⟩, ⟨7, 64 * stackOf pa + channelOf pa⟩]

/-- The dies that a packet passes. -/
def routeDies (a b : Router) : List Nat := (a.die :: (route a b).map fun h => h.dest.die).dedup

/-- How many arbiters of each kind the module has (R10, R20; log 72): cores; slices; 15 link ports of 280 routers; 10 lane groups to
each of 3 dies; 3 hub lane groups of a die, and 10 of a stack port, in each direction; controllers; three engines of a base die;
copy, raster and dispatcher; encoders; Ethernet queue sets. -/
def arbCount (kind : Nat) : Nat :=
  match kind with
  | 1 | 9 => 384
  | 2 => 512
  | 3 => 4200
  | 4 => 120
  | 5 => 24
  | 6 => 240
  | 7 => 768
  | 8 => 36
  | 10 | 11 => 4
  | 12 => 8
  | 13 => 64
  | _ => 0

end Sys2Proof.Machine
end

