-- ==== Sys2Proof/Machine/Arbiters.lean ====
section
/-! DEFINITION. Arbiters: grants, loans and refills, and the register blocks of arbiters, way quotas and frame controllers
(03 R69 to R81, R89; 00 R7). -/

namespace Sys2Proof.Machine

open Sys2Proof Host

/-! Grants (R76, R77). Tokens count in units of 1/(1024 · 2^F). -/

/-- The slot that a request competes under. -/
def ArbReq.under (kind : Nat) (a : Arb) (r : ArbReq) : Nat := r.slot.getD (a.slotOf kind r.vd)

/-- The next number after n, of 128 in a ring, that satisfies f. -/
def nextOf {α : Type} (n : Nat) (f : Nat → Option α) : Option α :=
  ((List.range 128).map fun i => (n + 1 + i) % 128).findSome? f

/-- The team that a core issue arbiter picks: the highest class, and round robin by team slot within it (07 R200). -/
def pickTeam (last : Nat) (reqs : List ArbReq) : Option ArbReq :=
  let top := (reqs.map (·.cls)).foldl max 0
  nextOf last fun i => reqs.find? fun r => r.team == i && r.cls == top

/-- The head request of a slot: its virtual devices take turns; at a core issue arbiter its teams do. -/
def Arb.headOf (kind : Nat) (a : Arb) (reqs : List ArbReq) (n : Nat) : Option ArbReq :=
  if kind == 1 then pickTeam (a.lastIn.get 127 n) (reqs.filter fun r => ArbReq.under kind a r == n)
  else nextOf (a.lastIn.get 127 n) fun v => reqs.find? fun r => r.vd == v && ArbReq.under kind a r == n

/-- Valid slots with a pending request, with that request. -/
def Arb.pending (kind : Nat) (a : Arb) (reqs : List ArbReq) : List (Nat × ArbReq) :=
  (List.range (arbSlots kind)).filterMap fun n =>
    if (a.slot n).valid then (a.headOf kind reqs n).map fun r => (n, r) else none

/-- Of slots that can pay, the one with the most tokens; the lowest number on a tie. -/
def Arb.richest (a : Arb) : List (Nat × ArbReq) → Option (Nat × ArbReq)
  | [] => none
  | x :: r => some (r.foldl (fun y z => if (a.slot y.1).tok < (a.slot z.1).tok then z else y) x)

/-- A lender exists for a slot. -/
def Arb.lends (kind : Nat) (a : Arb) (busy : List Nat) (n cost : Nat) : Bool :=
  cost ≤ a.pool || (List.range (arbSlots kind)).any fun t => t != n && (a.slot t).valid && !busy.contains t &&
    ((a.slot t).lend == 2 || ((a.slot t).lend == 1 && (a.slot t).part == (a.slot n).part))

/-- The borrower that the weighted round robin takes, and the pointer after it. -/
def Arb.borrower (kind : Nat) (a : Arb) (l : List (Nat × ArbReq)) : Option ((Nat × ArbReq) × Nat × Nat) :=
  let n := arbSlots kind
  match l.find? fun x => x.1 == a.wrr && a.wrrUsed < (a.slot x.1).borrow with
  | some x => some (x, a.wrr, a.wrrUsed + 1)
  | none => ((List.range n).map fun i => (a.wrr + 1 + i) % n).findSome? fun k =>
      (l.find? fun x => x.1 == k).map fun x => (x, k, 1)

/-- The turn of a request's device, or of its team at a core issue arbiter. -/
def ArbReq.turn (kind : Nat) (r : ArbReq) : Nat := if kind == 1 then r.team else r.vd

def Arb.served (a : Arb) (n turn : Nat) : Arb := { a with lastIn := a.lastIn.set n turn }

def Arb.grantOwn (kind : Nat) (a : Arb) (x : Nat × ArbReq) : Arb :=
  let c := x.2.cost * arbUnit kind
  (a.setSlot x.1 { a.slot x.1 with tok := (a.slot x.1).tok - c }).served x.1 (ArbReq.turn kind x.2)

def Arb.grantLoan (kind : Nat) (a : Arb) (x : Nat × ArbReq) (wrr used : Nat) : Arb :=
  let c := x.2.cost * arbUnit kind
  let y := a.slot x.1
  let a := (a.setSlot x.1 { y with btok := y.btok - c, loanin := (y.loanin + 1) % 2 ^ 16 }).served x.1 (ArbReq.turn kind x.2)
  { a with pool := if c ≤ a.pool then a.pool - c else a.pool, wrr := wrr, wrrUsed := used }

/-- An idle grant of a device: to its request, or to the team that a core issue arbiter picks among the device's. -/
def Arb.grantIdle (kind : Nat) (a : Arb) (reqs : List ArbReq) (r : ArbReq) : Arb × ArbReq :=
  let a := { a with lastVd := r.vd }
  if kind == 1 then
    let n := 16 + r.vd
    let mine := reqs.filter fun x => x.vd == r.vd && !(a.slot (ArbReq.under kind a x)).valid
    let x := (pickTeam (a.lastIn.get 127 n) mine).getD r
    (a.served n x.team, x)
  else (a, r)

/-- One grant opportunity: the arbiter after it, the request granted, and whether it was an own grant. -/
def Arb.grant (kind : Nat) (a : Arb) (reqs : List ArbReq) : Arb × Option (ArbReq × Bool) :=
  let p := a.pending kind reqs
  let u := arbUnit kind
  match a.richest (p.filter fun x => x.2.cost * u ≤ (a.slot x.1).tok) with
  | some x => (a.grantOwn kind x, some (x.2, true))
  | none =>
    let busy := p.map (·.1)
    match a.borrower kind (p.filter fun x => 0 < (a.slot x.1).borrow && x.2.cost * u ≤ (a.slot x.1).btok &&
        a.lends kind busy x.1 (x.2.cost * u)) with
    | some (x, w, n) => (a.grantLoan kind x w n, some (x.2, false))
    | none =>
      match nextOf a.lastVd fun v => reqs.find? fun r => r.vd == v && !(a.slot (ArbReq.under kind a r)).valid with
      | some r =>
        let (a, r) := a.grantIdle kind reqs r
        (a, some (r, false))
      | none => (a, none)

/-- Up to n grants, with the requests granted; a granted request leaves. -/
def Arb.grantsN (kind : Nat) : Nat → Arb → List ArbReq → Arb × List ArbReq
  | 0, a, _ => (a, [])
  | n + 1, a, reqs =>
    match a.grant kind reqs with
    | (a, some (r, own)) =>
      let a := { a with grants := a.grants ++ [r.vd], beyond := if own then a.beyond else a.beyond ++ [r.vd] }
      let (a, l) := Arb.grantsN kind n a (reqs.erase r)
      (a, r :: l)
    | (a, none) => (a, [])

/-! Refill (R75). -/

/-- The sum of RATE over valid slots. -/
def Arb.sumRate (kind : Nat) (a : Arb) : Nat :=
  ((List.range (arbSlots kind)).map fun n => if (a.slot n).valid then (a.slot n).rate else 0).sum

def Slot.refill (kind : Nat) (x : Slot) : Slot :=
  if x.valid then
    { x with tok := min (x.tok + x.rate) (x.depth * arbUnit kind), btok := min (x.btok + x.cap) (x.depth * arbUnit kind) }
  else x

def Arb.refill (kind : Nat) (a : Arb) : Arb :=
  { a with
    slots := a.slots.map fun x => (x.1, x.2.refill kind)
    pool := min (a.pool + (arbCapacity kind - a.sumRate kind)) (arbPoolDepth kind * arbUnit kind) }

/-- Grant opportunities in a cycle. R76 gives kinds 1 and 3 two, and says nothing of the others: those whose full rate is above one
token a cycle have as many as that rate takes (log 72). -/
def arbGrants (kind : Nat) : Nat :=
  match kind with
  | 1 | 3 | 5 => 2
  | 4 => 3
  | 6 => 4
  | _ => 1

/-- The arbiter exists (01 R10, R20). -/
def arbOk (k : ArbKey) : Bool := k.idx < arbCount k.kind

/-- The class that a team counts as at its core's issue arbiter (07 R200). -/
def Team.issueClass (t : Team) : Nat := if t.promoted then 3 else t.cls

/-- ISLOT of a virtual device's partition (R90). -/
def State.islot (s : State) (vd : Nat) : Option Nat :=
  ((s.vds.get? vd).bind fun v => s.parts.get? v.part).map fun p => bits p.frctl.toNat 59 57

/-- The request of a resident team whose running split stands at an instruction: one token, under the slot of its device, or under
ISLOT where its class is 3 (R90, 07 R200, 06 R154). -/
def State.issueReq (s : State) (core i : Nat) : Option ArbReq :=
  match s.team? core i with
  | some t =>
    let inside := match t.running.bind fun e => t.splits.get? e with
      | some p => p.clause.isSome && p.wait == .none
      | none => false
    if s.teamRuns t && inside then
      some { vd := s.teamVd t, slot := if t.cls == 3 then s.islot (s.teamVd t) else none, cost := 1, team := i
             cls := t.issueClass }
    else none
  | none => none

/-- A request that can stand at an arbiter: a team's, at a core issue arbiter. -/
def State.arbReqOk (s : State) (k : ArbKey) (r : ArbReq) : Bool :=
  if k.kind == 1 then r.team < 16 && s.issueReq k.idx r.team == some r
  else r.vd < 128 && 1 ≤ r.cost && r.cost ≤ arbMaxCost k.kind && r.slot.isNone

/-- Teams that have been granted no longer wait (07 R200). -/
def State.granted (s : State) (k : ArbKey) (l : List ArbReq) : State :=
  if k.kind == 1 then
    l.foldl (fun s r => s.updTeam k.idx r.team fun t => { t with promoted := false, lastClk := (s.coreOf k.idx).clk }) s
  else s

/-- A cycle of an arbiter's clock: its grants among the requests at its port, then the refill. -/
def execArbiterCycle (arb : ArbKey) (reqs : List ArbReq) (s : State) : Outcome State Fault Refusal :=
  enabled s <|
    if !arbOk arb || !reqs.all (s.arbReqOk arb) then none else
    let (a, l) := Arb.grantsN arb.kind (arbGrants arb.kind) { s.arb arb with grants := [], beyond := [] } reqs
    some ((s.setArb arb (a.refill arb.kind)).granted arb l)

/-! BKCFG (R72, R74, R79). -/

/-- The register without its reserved bits. -/
def bkcfgOf (x : W64) : W64 := x &&& 0x8FFCFFFFFFFFFFFF

/-- Marks a refused write in ARBERR. -/
def Arb.refuse (a : Arb) (slot bit : Nat) : Arb :=
  { a with err := (a.err &&& 0xF) ||| BitVec.ofNat 64 (2 ^ bit) ||| BitVec.ofNat 64 (2 ^ 12 * slot) }

/-- ARBERR bits of a BKCFG write that breaks the admission limit. -/
def Arb.bkcfgBad (kind : Nat) (a : Arb) (n : Nat) (x : Slot) : List Nat :=
  (if arbCapacity kind < (a.setSlot n x).sumRate kind then [0] else []) ++ (if x.lend == 3 then [1] else []) ++
  (if x.valid && x.depth < arbMaxCost kind then [2] else [])

/-- The slot after a write: a bucket starts empty as VALID is set, and is cut to DEPTH. -/
def Slot.configure (kind : Nat) (x : Slot) (cfg : W64) : Slot :=
  let y := { x with cfg := cfg }
  let keep := x.valid && y.valid
  { y with tok := if keep then min x.tok (y.depth * arbUnit kind) else 0
           btok := if keep then min x.btok (y.depth * arbUnit kind) else 0 }

/-- A write of BKCFG: whether it was accepted. -/
def State.writeBkcfg (s : State) (k : ArbKey) (n : Nat) (value : W64) : Bool × State :=
  let a := s.arb k
  let x := (a.slot n).configure k.kind (bkcfgOf value)
  let bad := a.bkcfgBad k.kind n x
  if bad.isEmpty then (true, s.setArb k (a.setSlot n x))
  else (false, s.setArb k (bad.foldl (fun a b => a.refuse n b) a))

def execBkcfgWrite (arb : ArbKey) (slot : Nat) (value : W64) (s : State) : Outcome State Fault Refusal :=
  enabled s <| if arbOk arb && slot < arbSlots arb.kind then some (s.writeBkcfg arb slot value).2 else none

/-! WAYQ (R80, R81). -/

def wayqOf (x : W64) : W64 := x &&& 0xF1FFFF

/-- A way mask that no slot may hold: it meets another valid slot's, a converted way or a way of the sealed pool. -/
def State.wayqBad (s : State) (slice slot mask : Nat) : Bool :=
  ((List.range 16).any fun t => t != slot && ((s.arb ⟨2, slice⟩).slot t).valid && wayMask (s.wayq slice t) &&& mask != 0) ||
  (List.range 16).any fun w => bitAt mask w && 16 ≤ w + s.waysConverted slice + s.poolWays

def State.writeWayq (s : State) (slice slot : Nat) (value : W64) : Bool × State :=
  if s.wayqBad slice slot (wayMask value.toNat) then
    (false, s.setArb ⟨2, slice⟩ ((s.arb ⟨2, slice⟩).refuse slot 3))
  else (true, { s with wayqs := s.wayqs.set (16 * slice + slot) (wayqOf value) })

def execWayqWrite (slice slot : Nat) (value : W64) (s : State) : Outcome State Fault Refusal :=
  enabled s <| if slice < 512 && slot < 16 then some (s.writeWayq slice slot value).2 else none

/-! Frame controllers (R89). -/

def Head.en (h : Head) : Bool := h.cfg.getLsbD 63

/-- The lowest-numbered enabled head of a partition. -/
def State.frameHead (s : State) (p : Part) : Option (Nat × Head) :=
  s.heads.find? fun x => p.heads.contains x.1 && x.2.en

def frPeriod (x : W64) : Nat := bits x.toNat 39 0
def frLead (x : W64) : Nat := bits x.toNat 55 40

/-- The group time in ns of a partition's next deadline. -/
def State.nextDeadline (s : State) (p : Part) : Option Nat :=
  match s.frameHead p with
  | some (_, h) => some h.nextStart
  | none => p.deadline

/-- FRSTAT as it reads. -/
def State.frstat (s : State) (p : Part) : Nat :=
  2 ^ 32 * p.misses.toNat + match s.nextDeadline p with
    | some d => (d - s.ns) / 1000 % 2 ^ 32
    | none => 0

/-- A write of FRCTL restarts the PERIOD timer. -/
def State.writeFrctl (s : State) (part : Nat) (p : Part) (value : W64) : State :=
  let v := value &&& 0x8EFFFFFFFFFFFFFF
  let n := frPeriod v
  { s with parts := s.parts.set part { p with frctl := v, deadline := if n == 0 then none else some (s.ns + n) } }

def execFrctlWrite (part : Nat) (value : W64) (s : State) : Outcome State Fault Refusal :=
  enabled s <| (s.parts.get? part).map fun p => s.writeFrctl part p value

/-! Registers as they read (R7, R73). -/

/-- ARBINFO, BKSTAT and ARBPOOL as they read. -/
def State.arbinfo (s : State) (k : ArbKey) : Nat :=
  2 ^ 56 * k.kind + 2 ^ 52 * arbF k.kind + 2 ^ 48 * (arbSlots k.kind - 1) + 2 ^ 32 * arbMaxCost k.kind +
    2 ^ 16 * (s.arb k).sumRate k.kind + arbCapacity k.kind

def State.bkstat (s : State) (k : ArbKey) (n : Nat) : Nat :=
  let x := (s.arb k).slot n
  2 ^ 48 * x.loanin + 2 ^ 32 * (x.btok / arbUnit k.kind) + 2 ^ 16 * (x.tok / arbUnit k.kind) + x.byp

def State.arbpool (s : State) (k : ArbKey) : Nat := 2 ^ 16 * ((s.arb k).pool / arbUnit k.kind) + arbPoolDepth k.kind

def Head.init : Head :=
  { cfg := 0, enc := 0, paddr := 0, stream := 0, frames := 0, repeats := 0, overs := 0, cx := none, lastSeq := none, black := false
    nextStart := 0, sinceKey := 0, queue := [] }

def State.head (s : State) (n : Nat) : Head := s.heads.get Head.init n

def State.updHead (s : State) (n : Nat) (f : Head → Head) : State := { s with heads := s.heads.set n (f (s.head n)) }

end Sys2Proof.Machine
end

