-- ==== Sys2Proof/Machine/CopyEngine.lean ====
section
/-! DEFINITION. The copy engine: requests, CPKICK, registration, moving bytes, fixed-point cells, completion and CPSTAT
(11 R310 to R327). -/

namespace Sys2Proof.Machine

open Sys2Proof Host

/-! The request (R310 to R312). -/

/-- A parsed request with its barrier and TEAM fields. -/
structure CopySlot where
  req : CopyReq
  bar : Nat
  team : Nat
  deriving DecidableEq, Repr

/-- ETYPE of an ACCUM or FINAL. -/
def accType (c : Nat) : Option DType :=
  match c with
  | 6 => some .i32
  | 9 => some .f32
  | 10 => some .f16
  | 11 => some .bf16
  | _ => none

def copyType (kind c : Nat) : Option DType :=
  if kind == 4 || kind == 5 then accType c
  else match c with
    | 0 => some .n8
    | 16 => some .e8l16
    | 17 => some .e8l24
    | 18 => some .e8l32
    | _ => none

/-- Bytes of an element of an ACCUM or FINAL; 1 for the other kinds. -/
def CopyReq.elem (r : CopyReq) : Nat := if r.kind == 4 || r.kind == 5 then r.ety.width / 8 else 1

def CopyReq.bytes (r : CopyReq) : Nat := r.rows * r.rlen

/-- Limits of R311 and R312 that the fields must keep. -/
def CopyReq.ok (r : CopyReq) (gswz : Bool) : Bool :=
  (if r.kind == 4 || r.kind == 5 then r.frac ≤ 95 else r.frac == 0) &&
  (if r.kind == 5 then r.rnd < 5 else r.rnd == 0 && !r.sat) &&
  (!gswz || r.kind == 3) &&
  (if r.swz then 5 ≤ r.swzs && r.swzs ≤ 19 && r.swzm * 16 < 2 ^ r.swzs && (r.dsp == .s || r.dsp == .c) && r.dst % 16 == 0 &&
      r.rlen % 16 == 0
    else r.swzs == 0 && r.swzm == 0) &&
  0 < r.rlen && 0 < r.rows && r.bytes ≤ 2 ^ 24 && (r.kind != 3 || r.rows ≤ 30) && r.rlen % r.elem == 0 &&
  (r.kind != 4 || r.bytes ≤ 8192)

/-- A 32-byte slot as a request; none where it is malformed. -/
def parseCopy (bs : List Byte) : Option CopySlot :=
  let f (i : Nat) := leNat ((bs.drop (8 * i)).take 8)
  let c := f 0
  let kind := bits c 3 0
  if bits c 63 49 != 0 || bitAt c 31 || kind == 0 || 6 < kind || 3 < bits c 13 11 || 3 < bits c 10 8 ||
      (kind == 6 && bits c 10 8 != 0) then none
  else match copyType kind (bits c 18 14) with
  | none => none
  | some t =>
    let g := f 3
    let r : CopyReq :=
      { kind := kind, ssp := spaceOf (bits c 10 8), dsp := spaceOf (bits c 13 11), src := f 1, dst := f 2
        rlen := bits g 15 0, rows := bits g 31 16, sstr := bits g 47 32, dstr := bits g 63 48, ety := t
        swz := kind == 2 || (kind == 3 && bitAt c 19), swzm := bits c 43 36, swzs := bits c 48 44
        frac := bits c 30 24, sat := bitAt c 23, rnd := bits c 22 20, idx := [] }
    if r.ok (bitAt c 19) then some { req := r, bar := bits c 7 4, team := bits c 35 32 } else none

/-- Source rows as address and length. -/
def CopyReq.srcRows (r : CopyReq) : List (Nat × Nat) :=
  if r.kind == 6 then [] else (List.range r.rows).map fun i =>
    (r.src + 16 * r.sstr * (if r.kind == 3 then r.idx.getD i 0 else i), if r.kind == 5 then 16 * (r.rlen / r.elem) else r.rlen)

/-- Destination rows as address and length, before the swizzle. -/
def CopyReq.dstRows (r : CopyReq) : List (Nat × Nat) :=
  (List.range r.rows).map fun i => (r.dst + 16 * r.dstr * i, if r.kind == 4 then 16 * (r.rlen / r.elem) else r.rlen)

/-- Destination rows as the bytes are really written. -/
def CopyReq.dstPieces (r : CopyReq) : List (Nat × Nat) :=
  if r.swz then r.dstRows.flatMap fun x => (List.range (x.2 / 16)).map fun c => (swzAddr r.dsp (x.1 + 16 * c) r.swzm r.swzs, 16)
  else r.dstRows

/-! The checks of R314. -/

/-- A row in its lock space. -/
def State.rowPlace (s : State) (r : Reach) (sp : Space) (x : Nat × Nat) : Option (LockSpace × Nat × Nat) :=
  (s.lockPlace r sp x.1).map fun y => (y.1, y.2, x.2)

/-- A row lies outside its reach: check 5. -/
def State.rowOut (s : State) (r : Reach) (byCtl : Bool) (sp : Space) (x : Nat × Nat) : Bool :=
  !(s.inReach r sp x.1 x.2) || (byCtl && (sp == .s || sp == .c))

/-- Some page of a row is sealed: check 6. -/
def State.rowSealed (s : State) (cx : CtxId) (x : Nat × Nat) : Bool :=
  (List.range (x.2 / 65536 + 2)).any fun i =>
    let a := if i == 0 then x.1 else alignDown x.1 65536 + 65536 * i
    a < x.1 + x.2 && match s.translate cx a with
      | .ok l => l.sealed
      | .error _ => false

/-- Two placed rows share a byte. -/
def bytesMeet (a b : LockSpace × Nat × Nat) : Bool :=
  a.1 == b.1 && a.2.1 < b.2.1 + b.2.2 && b.2.1 < a.2.1 + a.2.2

def trapAddr (cls a : Nat) : Trap := ⟨cls, 0, BitVec.ofNat 64 a⟩

/-- The named barrier takes no part in any phase: check 10 (07 R204). -/
def State.barDead (s : State) (g b : Nat) : Bool :=
  match s.gang? g with
  | some x => (x.bar b).members == 0 && (x.bar b).byteInit == 0
  | none => true

/-- An address, a row start or a length that is no multiple of the point size: check 8. -/
def CopyReq.split (r : CopyReq) : Option Nat :=
  let b := r.ety.width / 8
  if !r.ety.isE8 then none else
  let as := (if r.kind == 6 then [] else [r.src]) ++ [r.dst] ++ r.srcRows.map (·.1) ++ r.dstRows.map (·.1)
  match as.find? fun a => a % b != 0 with
  | some a => some a
  | none => if r.rlen % b != 0 then some r.dst else none

/-- Elements or cells off their alignment: check 9. -/
def CopyReq.offAlign (r : CopyReq) : Option Nat :=
  if r.kind != 4 && r.kind != 5 then none else
  let sa := if r.kind == 4 then r.elem else 16
  let da := if r.kind == 4 then 16 else r.elem
  match (r.srcRows.map (·.1)).find? fun a => a % sa != 0 with
  | some a => some a
  | none => (r.dstRows.map (·.1)).find? fun a => a % da != 0

/-- Bytes that the request writes meet bytes that it reads: check 7. -/
def State.copyOverlap (s : State) (re : Reach) (r : CopyReq) : Bool :=
  let src := r.srcRows.filterMap (s.rowPlace re r.ssp)
  r.dstPieces.any fun d => match s.rowPlace re r.dsp d with
    | some p => src.any (bytesMeet p)
    | none => false

/-- Checks 5 to 10 of one request: the first that fails. The table gives SLICE the address as TADDR, while 07 R214 and 09 R257 keep
TADDR and CTLFA 0 for it: the device may do either (log 65). -/
def State.copyTrap (s : State) (re : Reach) (byCtl : Bool) (gang : Nat) (c : CopySlot) : Option Trap :=
  let r := c.req
  match r.srcRows.find? (s.rowOut re byCtl r.ssp) with
  | some x => some (trapAddr clsPROT x.1)
  | none =>
  match r.dstRows.find? (s.rowOut re byCtl r.dsp) with
  | some x => some (trapAddr clsPROT x.1)
  | none =>
  match (if r.dsp == .g then r.dstRows.find? (s.rowSealed re.cx) else none) with
  | some x => some (trapAddr clsPROT x.1)
  | none =>
  if s.copyOverlap re r then some (trapAddr clsPROT r.dst) else
  match r.split with
  | some a => some (trapAddr clsSLICE (if Config.freeBool (s.freeIx 0) then a else 0))
  | none =>
  match r.offAlign with
  | some a => some (trapAddr clsALIGN a)
  | none => if s.barDead gang c.bar then some ⟨clsBAR, 9, 0⟩ else none

/-- Lock ranges of a request (R317). -/
def State.copyRanges (s : State) (re : Reach) (r : CopyReq) : List Range :=
  let src := r.srcRows.filterMap (s.rowPlace re r.ssp)
  let dst := boundRanges (r.dstRows.filterMap (s.rowPlace re r.dsp)) true
  (if r.kind == 3 then src.map fun x => { space := x.1, base := x.2.1, len := x.2.2, write := false }
   else boundRanges src false) ++
  (if r.swz then dst.map (Range.widen · r.swzs) else dst)

/-! CPKICK (R313 to R316, R327). -/

/-- Who kicks: what its requests carry. -/
structure Kicker where
  core : Nat
  cx : CtxId
  byCtl : Bool
  gang : Nat
  index : Nat
  slot : Nat
  reach : Reach

def Kicker.who (k : Kicker) : Agent := if k.byCtl then .ctl k.core else .team k.core k.slot

/-- The gang whose barrier a request names: the team's own, or that of the team in slot TEAM of the context (R327). -/
def State.kickGang (s : State) (k : Kicker) (c : CopySlot) : Option Nat :=
  if !k.byCtl then (if c.team == 0 then some k.gang else none)
  else match s.team? k.core c.team with
    | some t => if s.teamCx t == some k.cx then some t.gang else none
    | none => none

/-- The requests of the slots, each taken through its checks before the next; `at` is the address of the first slot. -/
def State.parseKick (s : State) (k : Kicker) : Nat → Nat → List Byte → Except Trap (List (CopySlot × Nat))
  | 0, _, _ => .ok []
  | fuel + 1, a, bs =>
    if bs.isEmpty then .ok [] else
    match parseCopy (bs.take 32) with
    | none => .error (trapAddr clsPROT a)
    | some c =>
      let extra := if c.req.kind == 3 then ceilDiv c.req.rows 8 else 0
      let rest := bs.drop 32
      if rest.length < 32 * extra then .error (trapAddr clsPROT a) else
      let c := { c with req := { c.req with
        idx := if c.req.kind == 3 then (List.range c.req.rows).map fun i => leNat ((rest.drop (4 * i)).take 4) else [] } }
      match s.kickGang k c with
      | none => .error (trapAddr clsPROT a)
      | some g =>
        match s.copyTrap k.reach k.byCtl g c with
        | some x => .error x
        | none => match State.parseKick s k fuel (a + 32 * (extra + 1)) (rest.drop (32 * extra)) with
          | .error x => .error x
          | .ok l => .ok ((c, g) :: l)

/-- The requests enter the queue in slot order, and register where they may. Gives their names. -/
def State.enterCopies (s : State) (k : Kicker) (seq : Nat) : List (CopySlot × Nat) → List Nat × State
  | [] => ([], s)
  | (c, g) :: rest =>
    let (id, s) := s.enterOp
      { cx := k.cx, part := s.partOf k.cx, core := k.core, byCtl := k.byCtl, gang := k.gang, index := k.index, slot := k.slot
        reach := k.reach, ranges := s.copyRanges k.reach c.req, registered := false, bar := some (g, c.bar)
        bytes := c.req.bytes, began := s.ns, fault := none, work := .copy c.req seq false }
    let (ids, s) := State.enterCopies s k ((seq + 1) % 2 ^ 16) rest
    (id :: ids, s)

/-- What a CPKICK finds: a trap, a fault, no room, or its requests. -/
inductive Kick where
  | trap (x : Trap)
  | fault (kind va addr : Nat)
  | full
  /-- The slots lie in channels in bank mode. -/
  | wait (chans : List Nat)
  | ok (l : List (CopySlot × Nat))

/-- The slots are read as one load and taken through the checks. -/
def State.kick (s : State) (k : Kicker) (sp : Space) (a b : Nat) : Kick :=
  if b == 0 || 16 < b then .trap (trapAddr clsPROT a)
  else if a % 32 != 0 then .trap (trapAddr clsALIGN a)
  else match s.check k.reach sp .load [{ tid := 0, ea := a, len := 32 * b, align := 1 }] with
  | .error (.trap x) => .trap x
  | .error (.fault kd va addr) => .fault kd va addr
  | .ok ((_, .here keys) :: _) =>
    let chans := s.keysChans false keys
    if chans.any (s.barred (some (.fetch k.who))) then .wait chans else
    match s.parseKick k 17 a (keys.map s.readKey) with
    | .error x => .trap x
    | .ok l => if 64 < s.copyQueued k.core + l.length then .full else .ok l
  | .ok _ => .trap (trapAddr clsPROT a)

def execCpkick (w : Ins) (s : State) : Outcome State Fault Refusal :=
  issueBoth .cpkick w s
    (fun si _ =>
      match s.reachOf si.team with
      | none => .hold
      | some r =>
        let k : Kicker := { core := si.core, cx := r.cx, byCtl := false, gang := si.team.gang, index := si.team.index
                            slot := si.slot, reach := r }
        let s := s.drainTeam si.core si.slot
        match s.kick k .s (s.uni si w.a) (s.uni si w.b) with
        | .trap x => .trap x
        | .fault kd va addr => .fault kd 1 va addr
        | .full => .block s .room false
        | .wait chans => .flow ((s.deferAs (.fetch k.who) chans).getD s)
        | .ok l =>
          let s := s.undefer (.fetch k.who)
          let (ids, s) := s.enterCopies k si.team.copySeq l
          let s := s.onTeam si fun t => { t with copySeq := (t.copySeq + l.length) % 2 ^ 16 }
          if s.opsSettled ids then .done s else .block s (.locks ids) true)
    (fun si =>
      let k : Kicker := { core := si.core, cx := si.owner, byCtl := true, gang := 0, index := 0, slot := 0xFF
                          reach := ctlReach si.core si.owner }
      let s := s.drainCtl si.core
      match s.kick k .g (rdK s si.core w.a) (rdK s si.core w.b) with
      | .trap x => .trap x
      | .fault kd va addr => .fault kd 1 va addr
      | .full => .wait s .wait false
      | .wait chans => .flow ((s.deferAs (.fetch k.who) chans).getD s)
      | .ok l =>
        let s := s.undefer (.fetch k.who)
        let (ids, s) := s.enterCopies k si.ctl.copySeq l
        let s := s.onCtl si.core fun c => { c with copySeq := (c.copySeq + l.length) % 2 ^ 16 }
        if s.opsSettled ids then .done s else .wait s (.locks ids) true)

/-- A queued or held request registers its locks (R316). -/
def execCopyRegister (op : Nat) (s : State) : Outcome State Fault Refusal :=
  enabled s <| match s.ops.get? op with
    | some o => if o.work.isCopy && s.mayRegister op o then some (s.register op o) else none
    | none => none

/-! Moving bytes (R318, R319). -/

/-- The keys of rows, or the first fault. -/
def State.rowsKeys (s : State) (r : Reach) (sp : Space) (wr : Bool) : List (Nat × Nat) → Except (Nat × Nat) (List Nat)
  | [] => .ok []
  | (a, n) :: rest =>
    match s.rowKeys r sp a n wr with
    | .error e => .error e
    | .ok ks => match State.rowsKeys s r sp wr rest with
      | .error e => .error e
      | .ok l => .ok (ks ++ l)

/-- The bytes that a FILL writes: byte j mod 8 of the pattern in every row. -/
def CopyReq.fillBytes (r : CopyReq) : List Byte :=
  (List.range r.rows).flatMap fun _ => (List.range r.rlen).map fun j => BitVec.ofNat 8 (r.src / 2 ^ (8 * (j % 8)))

/-! Fixed-point cells (R320 to R322). -/

/-- ACCUM of one element into a cell. -/
def cellAdd (frac : Nat) (t : DType) (cell x : Nat) : Nat :=
  let cell := cell % 2 ^ 125
  match t.read false x with
  | .nan _ => cell ||| 2 ^ 120
  | .inf false => cell ||| 2 ^ 121
  | .inf true => cell ||| 2 ^ 122
  | .num neg m e =>
    let r := (roundAt .rne 0 neg m (e + frac) 0).1
    let n : Int := if neg then -(r : Int) else r
    if (2 ^ 95 : Int) ≤ n then cell ||| 2 ^ 123
    else if n < -(2 ^ 95 : Int) then cell ||| 2 ^ 124
    else bits cell 124 120 * 2 ^ 120 + wrap 120 (sx 120 cell + n)

/-- FINAL of one cell. -/
def cellFinal (t : DType) (frac rnd : Nat) (sat : Bool) (cell : Nat) : Nat :=
  let nan := bitAt cell 120
  let pinf := bitAt cell 121
  let ninf := bitAt cell 122
  let ovfp := bitAt cell 123
  let ovfn := bitAt cell 124
  let c : RCtl := ⟨Mode.ofCode rnd, sat, false⟩
  let sum := sx 120 cell
  let out (v : Val) : Nat := if t.isFloat then (roundFP t.fmt c 0 v).1 else (roundInt c.mode 0 t.width true v).1
  let over' (neg : Bool) : Nat :=
    if t.isFloat then (t.fmt.overflow c.mode sat neg).1 else (roundInt c.mode 0 t.width true (.inf neg)).1
  if nan || ((pinf || ovfp) && (ninf || ovfn)) then out (.nan false)
  else if pinf then out (.inf false)
  else if ninf then out (.inf true)
  else if ovfp then over' false
  else if ovfn then over' true
  else if (2 ^ 95 : Int) ≤ sum then over' false
  else if sum < -(2 ^ 95 : Int) then over' true
  else out (if sum == 0 then Val.zero else (Val.ofInt sum).scale (-(frac : Int)))

/-- Cuts a list into pieces of n. -/
def chunks {α : Type} (n : Nat) : Nat → List α → List (List α)
  | 0, _ => []
  | fuel + 1, l => if l.isEmpty then [] else l.take n :: chunks n fuel (l.drop n)

/-- ACCUM: element by element into the cells at their keys. -/
def State.accumInto (s : State) (vd : Nat) (r : CopyReq) (src : List Byte) (dk : List Nat) : State :=
  ((chunks r.elem src.length src).zip (chunks 16 dk.length dk)).foldl (fun s x =>
    (s.touch vd 0 x.2).putKeys x.2 (leBytes 16 (cellAdd r.frac r.ety (s.readKeys x.2) (leNat x.1)))) s

/-- FINAL of cells. -/
def finalBytes (r : CopyReq) (src : List Byte) : List Byte :=
  (chunks 16 src.length src).flatMap fun c => leBytes r.elem (cellFinal r.ety r.frac r.rnd r.sat (leNat c))

/-- The bytes a request writes. -/
def State.copyData (s : State) (r : CopyReq) (sk : List Nat) : List Byte :=
  match r.kind with
  | 5 => finalBytes r (sk.map s.readKey)
  | 6 => r.fillBytes
  | _ => sk.map s.readKey

/-- The source and destination keys of a request, translated now. -/
def State.copyKeys (s : State) (re : Reach) (r : CopyReq) : Except (Nat × Nat) (List Nat × List Nat) :=
  match s.rowsKeys re r.ssp false r.srcRows with
  | .error e => .error e
  | .ok sk => match s.rowsKeys re r.dsp true r.dstPieces with
    | .error e => .error e
    | .ok dk => .ok (sk, dk)

/-- Undefined bytes for a list of keys (log 11). -/
def State.scribble (s : State) (keys : List Nat) : State :=
  s.putKeys keys (keys.map fun k => Config.freeByte (s.freeIx k))

/-- The keys of the destination rows that translate; the engine may have reached any of them. -/
def State.copyReached (s : State) (re : Reach) (r : CopyReq) : List Nat :=
  if r.kind == 4 then [] else r.dstPieces.flatMap fun x => match s.rowKeys re r.dsp x.1 x.2 true with
    | .ok ks => ks
    | .error _ => []

/-- The translations that a request's rows use. -/
def State.copyWalked (s : State) (core : Nat) (re : Reach) (r : CopyReq) : State :=
  let of (sp : Space) (l : List (Nat × Nat)) := if sp == .g then l.flatMap fun x => [x.1, x.1 + x.2 - 1] else []
  s.walkedAll core re.cx (of r.ssp r.srcRows ++ of r.dsp r.dstRows)

/-! Completion (R321, R323). -/

/-- Counts a finished request of a team for CPSTAT; a fault with its sequence number. -/
def State.countCopy (s : State) (o : EngOp) (seq : Nat) (faulted : Bool) : State :=
  if o.byCtl then s else
  s.updTeamRef o.gang o.index fun t =>
    let t := { t with copyDone := (t.copyDone + 1) % 256 }
    if faulted then { t with copyFaults := (t.copyFaults + 1) % 2 ^ 16, copyLast := seq } else t

/-- A running request: registered, its gang resident, and no fault of it at Renweaz. -/
def State.copyRuns (s : State) (o : EngOp) : Bool := o.registered && s.opLive o && o.fault.isNone

/-- An ACCUM's commit: its rounded addends go into the cells in one step. A fault of the gather phase changes no cell. -/
def execAccumCommit (op : Nat) (s : State) : Outcome State Fault Refusal :=
  enabled s <| match s.ops.get? op with
    | some o => match o.work with
      | .copy r seq false =>
        if r.kind != 4 || !s.copyRuns o then none
        else match s.copyKeys o.reach r with
          | .error (k, va) => s.opFault op o k va
          | .ok (sk, dk) =>
            s.gate (.work op) (s.keysChans false sk ++ s.keysChans true dk) fun s =>
            some (((s.copyWalked o.core o.reach r).accumInto o.cx.vd r (sk.map s.readKey) dk).setOp op
              { o with work := .copy r seq true })
      | _ => none
    | none => none

/-- A request's writes complete, and it ends; a row that does not translate posts a fault record instead, and the destination is
undefined until the request completes (02 R50). -/
def State.finishCopy (s : State) (op : Nat) (o : EngOp) : Option State :=
  match o.work with
  | .copy r seq committed =>
    if !s.copyRuns o then none
    else if r.kind == 4 then (if committed then some ((s.endOp op o).countCopy o seq false) else none)
    else match s.copyKeys o.reach r with
      | .error (k, va) => (s.scribble (s.copyReached o.reach r)).opFault op o k va
      | .ok (sk, dk) =>
        s.gate (.work op) (s.keysChans false sk ++ s.keysChans true dk) fun s =>
        let s := s.copyWalked o.core o.reach r
        some (((s.engineWrite o.cx.vd dk (s.copyData r sk)).endOp op o).countCopy o seq false)
  | _ => none

def execCopyFinish (op : Nat) (s : State) : Outcome State Fault Refusal :=
  enabled s <| match s.ops.get? op with
    | some o => s.finishCopy op o
    | none => none

/-- Renweaz does not mend a request's fault: it ends, with undefined bytes in the rows it reached, its bytes leave the barrier,
and a record with STATUS 2 is posted (R323). -/
def execCopyFaultUnmended (op : Nat) (s : State) : Outcome State Fault Refusal :=
  enabled s <| match s.ops.get? op with
    | some o => match o.work, o.fault with
      | .copy r seq _, some f =>
        let va := match s.faults.get? f with
          | some x => x.va
          | none => 0
        let s := (s.dropFault f).scribble (s.copyReached o.reach r)
        let s := (s.endOp op o).countCopy o seq true
        some (s.postEvent o.core o.cx { tag := BitVec.ofNat 64 va, src := 2, status := 2, unit := o.core
                                        detail := BitVec.ofNat 32 (2 ^ 16 * o.slot + seq) })
      | _, _ => none
    | none => none

/-! CPSTAT (R326). -/

/-- The team's requests, by whether they have registered. -/
def State.copyCount (s : State) (t : Team) (registered : Bool) : Nat :=
  (s.ops.filter fun x => x.2.work.isCopy && !x.2.byCtl && x.2.gang == t.gang && x.2.index == t.index &&
    x.2.registered == registered).length

def State.cpstatWord (s : State) (t : Team) (sel : Bool) : Nat :=
  if sel then 2 ^ 16 * t.copyFaults + t.copyLast
  else 2 ^ 16 * s.copyCount t false + 2 ^ 8 * s.copyCount t true + t.copyDone

/-- A long-latency instruction whose result is known at issue: it is written as it completes. -/
def issueResults (o : Op) (w : Ins) (s : State) (si : Site) (ws : List RegWrite) (fl : Nat) : Issue :=
  let (id, s) := s.newId
  .done (s.onTeam si fun t => t.enqueue
    { id := id, flag := si.flagOf w, work := .results ws fl, dst := dstCodes o w t.threads })

def execCpstat (w : Ins) (s : State) : Outcome State Fault Refusal :=
  issueTeam .cpstat w s fun si _ =>
    match w.d with
    | .s d => issueResults .cpstat w s si [.s d (BitVec.ofNat 32 (s.cpstatWord si.team (w.mb 49)))] 0
    | _ => .done s

end Sys2Proof.Machine
end

