-- ==== Sys2Proof/Machine/Lattice.lean ====
section
/-! DEFINITION. The E8 lattice format: codewords, the quantiser and the scale choice (04 R110 to R115, 06 R176 to R180). -/

namespace Sys2Proof

/-- Decode8 (04 R111), with b bytes to a point; coordinates in half units. -/
def decode8 (b c : Nat) : List Int :=
  let z := (List.range 7).map fun i => sx b (c / 2 ^ (i * b + 1))
  let s := z.foldl (· + ·) 0
  let z7 := 2 * sx (b - 1) (c / 2 ^ (7 * b + 1)) + s % 2
  (z ++ [z7]).map fun x => 2 * x + (c % 2 : Nat)

/-- Encode8 (04 R111). -/
def encode8 (b : Nat) (h : Nat) (z : List Int) : Nat :=
  let low := (List.range 7).foldl (fun a i => a + wrap b (z.getD i 0) * 2 ^ (i * b + 1)) h
  let p := ((z.take 7).foldl (· + ·) 0) % 2
  low + wrap (b - 1) ((z.getD 7 0 - p) / 2) * 2 ^ (7 * b + 1)

/-- A coordinate of the quantiser: a multiple of a common power of two, or an infinity. -/
inductive Coord where
  | fin (x : Int)
  | inf (neg : Bool)
  deriving DecidableEq, Repr

/-- Nearest integer to x / 2^k, ties to even (04 R113). -/
def roundEven (k : Nat) (x : Int) : Int :=
  let d : Int := (2 ^ k : Nat)
  let q := x / d
  let r := 2 * (x % d)
  if r > d || (r == d && q % 2 == 1) then q + 1 else q

/-- |u − r| in units of 2^−k; none is infinite. -/
def Coord.dist (k : Nat) (u : Coord) (r : Int) : Option Nat :=
  match u with
  | .fin x => some (x - r * (2 ^ k : Nat)).natAbs
  | .inf _ => none

/-- a < b where none is infinite. -/
def distLt : Option Nat → Option Nat → Bool
  | some a, some b => a < b
  | some _, none => true
  | none, _ => false

/-- Sign of u − r. -/
def Coord.side (k : Nat) (u : Coord) (r : Int) : Ordering :=
  match u with
  | .fin x => compare x (r * (2 ^ k : Nat))
  | .inf n => if n then .lt else .gt

/-- The first index of a list of indices whose key no other key beats. -/
def pickBest (beats : Option Nat → Option Nat → Bool) (key : Nat → Option Nat) : List Nat → Option Nat
  | [] => none
  | i :: is => some (is.foldl (fun j m => if beats (key m) (key j) then m else j) i)

/-- FixParity (04 R113). -/
def fixParity (k : Nat) (lo hi : Int) (u : List Coord) (r : List Int) : List Int :=
  let ui (i : Nat) := u.getD i (.fin 0)
  let ri (i : Nat) := r.getD i 0
  let cand := (List.range 8).filter fun i =>
    match (ui i).side k (ri i) with
    | .eq => true
    | .gt => ri i < hi
    | .lt => lo < ri i
  let key (i : Nat) := (ui i).dist k (ri i)
  match pickBest (fun a b => distLt b a) key cand with
  | some j =>
    let d : Int := match (ui j).side k (ri j) with
      | .gt => 1
      | .lt => -1
      | .eq => if ri j < hi then 1 else -1
    setAt r j (ri j + d)
  | none =>
    match pickBest distLt key (List.range 8) with
    | some j => setAt r j (if ri j == hi then ri j - 1 else ri j + 1)
    | none => r

/-- One coset of the quantiser: rounded coordinates, squared error (none is infinite), and whether a coordinate left the
box. -/
def coset (k : Nat) (lo hi : Int) (h : Nat) (w : List Coord) : List Int × Option Nat × Bool :=
  let u := w.map fun c => match c with
    | .fin x => Coord.fin (x - ((h * 2 ^ (k - 1) : Nat) : Int))
    | c => c
  let n := u.map fun c => match c with
    | .fin x => roundEven k x
    | .inf neg => if neg then lo - 1 else hi + 1
  let out := n.any fun x => x < lo || hi < x
  let r := n.map fun x => min (max x lo) hi
  let r := if (r.foldl (· + ·) 0) % 2 == 1 then fixParity k lo hi u r else r
  let err := ((List.range 8).map fun i => (u.getD i (.fin 0)).dist k (r.getD i 0)).foldl
    (fun a d => match a, d with | some a, some d => some (a + d * d) | _, _ => none) (some 0)
  (r, err, out)

/-- LQ8Point (04 R113): codeword and flags, from eight values, X8 code e and live count. -/
def lq8Point (b : Nat) (v : List Val) (e live : Nat) : Nat × Flags :=
  if e == 255 then (0, Flags.nv) else
  let v' := (List.range 8).map fun i => if i < live then v.getD i .zero else .zero
  let fl := Flags.when (v'.any Val.isNaN) Flags.nv
  let scaled := v'.map fun x => match x with
    | .nan _ => Val.zero
    | x => x.scale (127 - (e : Int))
  let emin : Int := scaled.foldl (fun m x => min m x.exp) (-1)
  let k := emin.natAbs
  let w := scaled.map fun x => match x with
    | .inf n => Coord.inf n
    | x => Coord.fin (x.mant * pow2 (x.exp - emin))
  let lo : Int := -(2 ^ (b - 1) : Nat)
  let hi : Int := (2 ^ (b - 1) : Nat) - 1
  let (r0, e0, o0) := coset k lo hi 0 w
  let (r1, e1, o1) := coset k lo hi 1 w
  if distLt e1 e0 then (encode8 b 1 r1, fl ||| Flags.when o1 Flags.lovf)
  else (encode8 b 0 r0, fl ||| Flags.when o0 Flags.lovf)

/-- The live count of an operand: values above 8 act as 8 (06 R176). -/
def liveCount (x : Nat) : Nat := min x 8

/-- Decoded coordinates as exact values under X8 code e, tails zero (04 R112). -/
def decodePoint (b c e live : Nat) : List Val :=
  (List.range 8).map fun i =>
    if i < live then (Val.ofInt ((decode8 b c).getD i 0)).scale ((e : Int) - 128) else .zero

/-- m ≤ hm · 2^(e−127) for a magnitude m. -/
def scaleFits (hm : Nat) (m : Val) (e : Nat) : Bool :=
  match m with
  | .num _ a x => leScaled a x hm ((e : Int) - 127)
  | _ => false

/-- LQSCALE's code for the largest magnitude of a list of live values (06 R178). -/
def lqScale (b : Nat) (l : List Val) : Nat × Flags :=
  if l.any Val.isNaN then (255, Flags.nv)
  else if l.all Val.isZero then (0, 0)
  else
    let hm := 2 ^ (b - 1) - 1
    match (List.range 255).find? fun e => l.all fun v => scaleFits hm v e with
    | some e => (e, 0)
    | none => (254, Flags.sat)

end Sys2Proof
end

