-- ==== Sys2Proof/Machine/Tiles.lean ====
section
/-! DEFINITION. Tensor layout records and tile images of the matrix engine (10 R282 to R287). -/

namespace Sys2Proof

/-! Types of a tile (10 R283). -/

/-- Types of a tile. -/
def DType.isTile (t : DType) : Bool := t.isFloat || t.isE8

/-- Bits that one element takes in memory and in an image: b for an E8 point of b bytes and eight elements. -/
def DType.elemBits (t : DType) : Nat :=
  match t with
  | .e8l16 => 2
  | .e8l24 => 3
  | .e8l32 => 4
  | t => t.width

/-- A type that may be SCALED. -/
def DType.mayScale (t : DType) : Bool := t == .e4m3 || t == .e5m2 || t == .e2m1 || t.isE8

/-- Alignment of BASE. -/
def DType.baseAlign (t : DType) : Nat := if t.isE8 then t.elemBits else if t.elemBits < 8 then 1 else t.elemBits / 8

end Sys2Proof

namespace Sys2Proof.Machine

open Sys2Proof

/-- Why a matrix instruction traps: class and reason of R303, or another trap, or a failed translation. -/
inductive MxBad where
  | mx (cls reason : Nat)
  | trap (x : Trap)
  | fault (kind va addr : Nat)
  /-- A record lies in a channel in bank mode: the state after its reader has entered the deferred queue. -/
  | wait (s : State)

/-! Layout records (R282, R283). -/

/-- Limits of shape, size, and scaled or E8 types that a record and a shape word share. -/
def shapeOk (t : DType) (tr tc : Nat) (scaled : Bool) : Bool :=
  t.isTile && tr % 16 == 0 && tc % 16 == 0 && 16 ≤ tr && 16 ≤ tc && tr ≤ 2048 && tc ≤ 2048 &&
  tr * tc * t.elemBits ≤ 65536 && (!scaled || t.mayScale)

/-- Lines, and the contiguous extent. -/
def TileRec.lines (t : TileRec) : Nat := if t.colMajor then t.nc else t.nr
def TileRec.extent (t : TileRec) : Nat := if t.colMajor then t.nr else t.nc

/-- SWZMASK under SWZ (11 R319). -/
def swzOk (m : Nat) : Bool :=
  m / 2 ^ 13 == 0 && 5 ≤ bits m 12 8 && bits m 12 8 ≤ 19 && bits m 7 0 * 16 < 2 ^ bits m 12 8

def TileRec.ok (t : TileRec) (swzmask : Nat) : Bool :=
  t.base % t.ty.baseAlign == 0 && (t.scaled || t.sbase == 0) &&
  1 ≤ t.nr && t.nr < 2 ^ 31 && 1 ≤ t.nc && t.nc < 2 ^ 31 &&
  shapeOk t.ty t.tr t.tc t.scaled && (!t.scaled || t.ld % 32 == 0) &&
  (if t.ty.isE8 then t.ld % 8 == 0 && t.extent % 8 == 0 && 0 < t.len && t.len ≤ (t.lines - 1) * t.ld + t.extent
   else t.len == 0) &&
  (!t.swz || ((t.space == .s || t.space == .c) && swzOk swzmask))

/-- A record from its 64 bytes; none where it is bad. -/
def parseTile (bs : List Byte) : Option TileRec :=
  let f (i n : Nat) := leNat ((bs.drop i).take n)
  match DType.ofCode (f 28 1) with
  | none => none
  | some ty =>
    let fl := f 29 1
    let t : TileRec :=
      { base := f 0 8, sbase := f 8 8, nr := f 16 4, nc := f 20 4, ld := f 24 4, ty := ty, colMajor := bitAt fl 0
        scaled := bitAt fl 1, roleB := bitAt fl 2, swz := bitAt fl 3, space := spaceOf (f 30 1), tr := f 32 2, tc := f 34 2
        fillv := f 36 4, swzm := bits (f 40 4) 7 0, swzs := bits (f 40 4) 12 8, len := f 48 8 }
    if fl / 16 == 0 && f 30 1 < 4 && f 31 1 == 0 && f 44 4 == 0 && f 56 8 == 0 && t.ok (f 40 4) then some t else none

/-- Further limits of a record used as an operand: role and direction. -/
def TileRec.operandOk (t : TileRec) : Bool :=
  !(t.ty.isE8 && t.roleB) && (!(t.scaled || t.ty.isE8) || t.colMajor == t.roleB)

/-- K-lines of a tile, and elements of one. -/
def TileRec.kLines (t : TileRec) : Nat := if t.roleB then t.tc else t.tr
def TileRec.k (t : TileRec) : Nat := if t.roleB then t.tr else t.tc

/-- The tile image's size S in bytes. -/
def TileRec.size (t : TileRec) : Nat := t.tr * t.tc * t.ty.elemBits / 8

/-- A 64-byte record, read with one load by an agent of this reach. -/
def State.readRecord (s : State) (who : Waiter) (r : Reach) (a : Nat) : Except MxBad (List Byte) :=
  let wants : List Want := [{ tid := 0, ea := a, len := 64, align := 64 }]
  if s.walksStuck r.cx .g wants then .error (.wait s) else
  match s.check r .g .load wants with
  | .error (.trap x) => .error (.trap x)
  | .error (.fault k va addr) => .error (.fault k va addr)
  | .ok ((_, .here keys) :: _) =>
    let chans := s.keysChans false keys
    if chans.any (s.barred (some who)) then .error (.wait ((s.deferAs who chans).getD s)) else .ok (keys.map s.readKey)
  | .ok _ => .error (.trap (trapAddr clsPROT a))

/-- The record of a handle. -/
def State.readTile (s : State) (who : Waiter) (r : Reach) (base h : Nat) : Except MxBad TileRec :=
  match s.readRecord who r (base + 64 * h) with
  | .error e => .error e
  | .ok bs => match parseTile bs with
    | some t => .ok t
    | none => .error (.mx clsDESYNC 19)

/-- Its reader has the record: it stands in no deferred queue, and the translation has entered the TLBs. -/
def State.recordRead (s : State) (who : Waiter) (core : Nat) (cx : CtxId) (base h : Nat) : State :=
  (s.undefer who).walked core cx (base + 64 * h)

/-- The record as an operand (R283, R285). -/
def State.readOperand (s : State) (who : Waiter) (r : Reach) (base h : Nat) : Except MxBad TileRec :=
  match s.readTile who r base h with
  | .error e => .error e
  | .ok t =>
    if !t.operandOk then .error (.mx clsDESYNC 19)
    else if t.scaled && t.k % 32 != 0 then .error (.mx clsDESYNC 20)
    else .ok t

/-! What a tile reads (R285). -/

/-- Lines of the tile along the non-contiguous direction, and its length along the other. -/
def TileRec.tileLines (t : TileRec) : Nat := if t.colMajor then t.tc else t.tr
def TileRec.tileLen (t : TileRec) : Nat := if t.colMajor then t.tr else t.tc

/-- The tile's origin: line and position in the line. -/
def TileRec.originLine (t : TileRec) (row col : Nat) : Nat := if t.colMajor then t.tc * col else t.tr * row
def TileRec.originPos (t : TileRec) (row col : Nat) : Nat := if t.colMajor then t.tr * row else t.tc * col

/-- For each line of the tile: the linear index of its first element, and how many of its elements lie inside the tensor. -/
def TileRec.runs (t : TileRec) (row col : Nat) : List (Nat × Nat) :=
  (List.range t.tileLines).map fun a =>
    let line := t.originLine row col + a
    let pos := t.originPos row col
    (line * t.ld + pos, if line < t.lines then min t.tileLen (t.extent - pos) else 0)

/-- First byte and byte count of a run. -/
def TileRec.runSpan (t : TileRec) (x : Nat × Nat) : Nat × Nat :=
  let w := t.ty.elemBits
  (t.base + x.1 * w / 8, ceilDiv ((x.1 + x.2) * w) 8 - x.1 * w / 8)

/-- The tile's element spans in memory. -/
def TileRec.spans (t : TileRec) (row col : Nat) : List (Nat × Nat) :=
  ((t.runs row col).filter fun x => 0 < x.2).map t.runSpan

/-- The linear index of element (i, j) of the tile, where it lies inside the tensor. -/
def TileRec.index (t : TileRec) (row col i j : Nat) : Option Nat :=
  let r := t.tr * row + i
  let c := t.tc * col + j
  if r < t.nr && c < t.nc then some (if t.colMajor then c * t.ld + r else r * t.ld + c) else none

/-- The addresses of the scale bytes, in FIFO order; none outside the tensor. -/
def TileRec.scaleAddrs (t : TileRec) (row col : Nat) : List (Option Nat) :=
  if !t.scaled then [] else
  (List.range t.kLines).flatMap fun l => (List.range (t.k / 32)).map fun m =>
    (if t.roleB then t.index row col (32 * m) l else t.index row col l (32 * m)).map fun li => t.sbase + li / 32

/-- An unswizzled address as it is read. -/
def TileRec.at (t : TileRec) (a : Nat) : Nat := if t.swz then swzAddr t.space a t.swzm t.swzs else a

/-- Every byte address that the tile reads, swizzled. -/
def TileRec.bytes (t : TileRec) (row col : Nat) : List Nat :=
  ((t.spans row col).flatMap fun x => keysFrom x.1 x.2).map t.at ++ ((t.scaleAddrs row col).filterMap id).map t.at

/-- The lowest address outside the reach, for the spaces that are not translated. -/
def State.tileOut (s : State) (re : Reach) (t : TileRec) (row col : Nat) : Option Nat :=
  if t.space == .g then none else
  ((t.bytes row col).filter fun (a : Nat) => !s.inReach re t.space (a : Int) 1).foldl
    (fun m a => some (match m with | some b => min a b | none => a)) none

/-- The bounding range of spans, as ranges of lock spaces: .c and .x addresses are cut at their members and dies. -/
def State.boundLocks (s : State) (re : Reach) (sp : Space) (l : List (Nat × Nat)) : List Range :=
  match l with
  | [] => []
  | x :: xs =>
    let lo := xs.foldl (fun m y => min m y.1) x.1
    let hi := xs.foldl (fun m y => max m (y.1 + y.2)) (x.1 + x.2)
    let cut (n : Nat) := ((List.range 4).map fun i => (max lo (i * n), min hi ((i + 1) * n))).filter fun y => y.1 < y.2
    let parts : List (Nat × Nat) := match sp with
      | .c => cut (2 ^ 20)
      | .x => cut (2 ^ 24)
      | _ => [(lo, hi)]
    parts.filterMap fun y =>
      (s.lockPlace re sp y.1).map fun p => { space := p.1, base := p.2, len := y.2 - y.1, write := false }

/-- Read-locks of a fetch (R286). -/
def State.tileLocks (s : State) (re : Reach) (t : TileRec) (row col : Nat) : List Range :=
  let l := s.boundLocks re t.space (t.spans row col) ++
    s.boundLocks re t.space (((t.scaleAddrs row col).filterMap id).map fun a => (a, 1))
  if t.swz then l.map (Range.widen · t.swzs) else l

/-- The keys of n bytes from an unswizzled address. -/
def State.tileKeys (s : State) (re : Reach) (t : TileRec) (a n : Nat) : Except (Nat × Nat) (List Nat) :=
  if t.swz then .ok ((keysFrom a n).flatMap fun b => s.localKeys re t.space 0 (t.at b) 1)
  else s.rowKeys re t.space a n false

/-- Keys of several spans, or the first fault. -/
def State.tileSpansKeys (s : State) (re : Reach) (t : TileRec) : List (Nat × Nat) → Except (Nat × Nat) (List (List Nat))
  | [] => .ok []
  | (a, n) :: rest =>
    match s.tileKeys re t a n with
    | .error e => .error e
    | .ok ks => match State.tileSpansKeys s re t rest with
      | .error e => .error e
      | .ok l => .ok (ks :: l)

/-- The translations that a fetch uses. -/
def State.tileWalked (s : State) (core : Nat) (re : Reach) (t : TileRec) (row col : Nat) : State :=
  if t.space != .g then s
  else s.walkedAll core re.cx (((t.spans row col).flatMap fun x => [x.1, x.1 + x.2 - 1]) ++ (t.scaleAddrs row col).filterMap id)

/-! The image (R284, R285). -/

/-- The fill code of the element at place k of its K-line: FILLV, or its part of the whole codeword. -/
def TileRec.fill (t : TileRec) (k : Nat) : Nat :=
  let w := t.ty.elemBits
  if t.ty.isE8 then t.fillv / 2 ^ (w * (k % 8)) % 2 ^ w else t.fillv % 2 ^ w

/-- The codes of a K-line packed from the low bits upwards (04 R98). -/
def packCodes (w : Nat) : List Nat → Nat
  | [] => 0
  | x :: xs => x + 2 ^ w * packCodes w xs

/-- A line of the tile as a number whose digits are its element codes, and how many are inside. -/
def TileRec.lineCode (t : TileRec) (x : Nat × Nat) (bs : List Byte) : Nat × Nat :=
  (leNat bs / 2 ^ (x.1 * t.ty.elemBits % 8), x.2)

/-- The K-lines of a tile from its lines. -/
def TileRec.image (t : TileRec) (lines : List (Nat × Nat)) : List Byte :=
  let w := t.ty.elemBits
  (List.range t.kLines).flatMap fun l =>
    leBytes (t.k * w / 8) (packCodes w ((List.range t.k).map fun k =>
      let (a, c) := if t.roleB == t.colMajor then (l, k) else (k, l)
      let x := lines.getD a (0, 0)
      if c < x.2 then x.1 / 2 ^ (w * c) % 2 ^ w else t.fill k))

/-- The point that holds the tensor's last element, where the tile holds it: K-line, point of the line, live positions. -/
def TileRec.tailOf (t : TileRec) (row col : Nat) : Option (Nat × Nat × Nat) :=
  if !t.ty.isE8 then none else
  let p := (t.len - 1) / 8 * 8
  ((List.range t.kLines).flatMap fun l => (List.range (t.k / 8)).map fun q => (l, q)).findSome? fun x =>
    if (if t.roleB then t.index row col (8 * x.2) x.1 else t.index row col x.1 (8 * x.2)) == some p
    then some (x.1, x.2, t.len - p) else none

/-- A filled slot. -/
structure Filled where
  image : List Byte
  fifo : List Byte
  keys : List Nat

/-- A fetch of a tile as memory stands: image and scales, or the first byte that does not translate. -/
def State.fetchTile (s : State) (re : Reach) (t : TileRec) (row col : Nat) : Except (Nat × Nat) Filled :=
  let runs := t.runs row col
  match s.tileSpansKeys re t (runs.map fun x => if x.2 == 0 then (0, 0) else t.runSpan x) with
  | .error e => .error e
  | .ok lk =>
    let sa := t.scaleAddrs row col
    match s.tileSpansKeys re t (sa.map fun (a : Option Nat) => match a with | some a => (a, 1) | none => ((0, 0) : Nat × Nat)) with
    | .error e => .error e
    | .ok sk =>
      let lines := (runs.zip lk).map fun x => t.lineCode x.1 (x.2.map s.readKey)
      .ok { image := t.image lines
            fifo := sk.map fun ks => match ks with | k :: _ => s.readKey k | [] => 127
            keys := lk.flatten ++ sk.flatten }

end Sys2Proof.Machine
end

