-- ==== Sys2Proof/Machine/MatrixEngine.lean ====
section
/-! DEFINITION. The matrix engine: claims, fetches into slots, MMA, and moves between registers, slots and memory
(10 R277 to R296, R302 to R309). -/

namespace Sys2Proof.Machine

open Sys2Proof Host

/-! Slots and accumulators (R277). -/

def State.setMx (s : State) (core : Nat) (m : Matrix) : State := s.setCore core { s.coreOf core with mx := m }

def MSlot.fresh (slot : Nat) : MSlot :=
  { holder := some slot, st := .empty, ty := .f32, roleB := false, scaled := false, lines := 0, k := 0, tail := none
    image := [], fifo := [] }

/-- +0 in every element. -/
def zeroAcc : List W32 := List.replicate 256 0

/-- The walk has entries to deliver: a faulted one ends with the trap of its last (log 50). -/
def Walk.active (w : Walk) : Bool := w.state == 1 || (w.state == 3 && !w.ready.isEmpty)

/-- A slot of the ring of the team's active walk. -/
def Team.inRing (t : Team) (n : Nat) : Bool :=
  match t.walk with
  | some w => w.active && w.ring.contains n
  | none => false

/-! Traps (R303). -/

/-- The team's error record after a SLOT, DESYNC or MLISTF trap. -/
def Team.noteMx (cls reason : Nat) (t : Team) : Team := { t with mclass := cls, mreason := reason }

def MxBad.issue (e : MxBad) : Issue :=
  match e with
  | .mx cls r => .trapWith (Team.noteMx cls r) (.mk0 cls)
  | .trap x => .trap x
  | .fault k va addr => .fault k 1 va addr
  | .wait s => .flow s

def slotBad (r : Nat) : MxBad := .mx clsSLOT r

def desync (r : Nat) : MxBad := .mx clsDESYNC r

/-- A check of a list fails: the first that does. -/
def firstFail : List (Bool × MxBad) → Option MxBad
  | [] => none
  | (ok, e) :: rest => if ok then firstFail rest else some e

/-- A matrix instruction of a team: the collective mask (R279), then its meaning. -/
def issueMx (o : Op) (w : Ins) (s : State) (body : Site → Except MxBad Issue) : Outcome State Fault Refusal :=
  issueTeam o w s fun si e =>
    if e != si.team.launched then .trap (.mk0 clsCONV)
    else match body si with
      | .ok r => r
      | .error e => e.issue

/-! Claims and releases (R280, R281). -/

/-- The units of a mask. -/
def unitsOf (mask : Nat) : List Nat := (List.range 32).filter (bitAt mask)

def Matrix.isFree (m : Matrix) (acc : Bool) (n : Nat) : Bool := if acc then (m.accs.get? n).isNone else (m.slots.get? n).isNone

/-- The units pass to the team, slots EMPTY and accumulators +0. -/
def Matrix.take (m : Matrix) (team : Nat) (acc : Bool) (units : List Nat) : Matrix :=
  if acc then { m with accs := units.foldl (fun t n => t.set n { holder := some team, words := zeroAcc }) m.accs }
  else { m with slots := units.foldl (fun t n => t.set n (MSlot.fresh team)) m.slots }

/-- A released unit is free at once, but a slot that a fetch still fills only when the fetch completes. -/
def Matrix.drop (m : Matrix) (acc : Bool) (units : List Nat) : Matrix :=
  if acc then { m with accs := units.foldl (fun t n => t.erase n) m.accs }
  else { m with slots := units.foldl (fun t n => match t.get? n with
      | some x => match x.st with
        | .filling _ => t.set n { x with holder := none }
        | _ => t.erase n
      | none => t) m.slots }

def claimUnits (o : Op) (acc : Bool) (w : Ins) (s : State) : Outcome State Fault Refusal :=
  issueMx o w s fun si =>
    let a := s.uni si w.a
    let m := s.mx si.core
    let units := unitsOf a
    if acc && 2 ^ 16 ≤ a then .error (slotBad 1)
    else if units.any fun n => if acc then (m.acc? si.slot n).isSome else (m.held? si.slot n).isSome then .error (slotBad 2)
    else if units.isEmpty then .ok (.done s)
    else if m.claims.isEmpty && units.all (m.isFree acc) then .ok (.done (s.setMx si.core (m.take si.slot acc units)))
    else .ok (.block (s.setMx si.core { m with claims := m.claims ++ [{ slot := si.slot, entry := si.entry }] }) (.claim acc a)
      true)

def execTclaim (w : Ins) (s : State) : Outcome State Fault Refusal := claimUnits .tclaim false w s

def execAclaim (w : Ins) (s : State) : Outcome State Fault Refusal := claimUnits .aclaim true w s

def releaseUnits (o : Op) (acc : Bool) (w : Ins) (s : State) : Outcome State Fault Refusal :=
  issueMx o w s fun si =>
    let a := s.uni si w.a
    let m := s.mx si.core
    let units := unitsOf a
    if acc && 2 ^ 16 ≤ a then .error (slotBad 1)
    else if units.any fun n => if acc then (m.acc? si.slot n).isNone else (m.held? si.slot n).isNone then .error (slotBad 3)
    else if !acc && units.any si.team.inRing then .error (slotBad 7)
    else .ok (.done (s.setMx si.core (m.drop acc units)))

def execTrels (w : Ins) (s : State) : Outcome State Fault Refusal := releaseUnits .trels false w s

def execArels (w : Ins) (s : State) : Outcome State Fault Refusal := releaseUnits .arels true w s

/-- What the split at an entry of a team slot claims. -/
def State.claimOf (s : State) (core : Nat) (c : Claim) : Option (Bool × Nat) :=
  (s.team? core c.slot).bind fun t => (t.splits.get? c.entry).bind fun p => match p.wait with
    | .claim acc mask => some (acc, mask)
    | _ => none

/-- The oldest claim that waits on a core is granted once every unit it names is free. -/
def execClaimGrant (core : Nat) (s : State) : Outcome State Fault Refusal :=
  enabled s <|
    let m := s.mx core
    match m.claims with
    | c :: rest => match s.claimOf core c with
      | some (acc, mask) =>
        if (unitsOf mask).all (m.isFree acc) then
          some ((s.setMx core { m.take c.slot acc (unitsOf mask) with claims := rest }).updTeam core c.slot fun t =>
            { t with splits := t.splits.alter c.entry fun p => { p with wait := .none } })
        else none
      | none => some (s.setMx core { m with claims := rest })
    | [] => none

/-! Fetches (R285 to R287). -/

/-- A slot's fill begins: the fetch enters the engine with its locks, and the slot is FILLING. Gives the fetch's name. -/
def State.startFetch (s : State) (core slot : Nat) (t : Team) (re : Reach) (byCtl : Bool) (bar : Option (Nat × Nat))
    (f : Fetch) : Nat × State :=
  let (id, s) := s.enterOp
    { cx := re.cx, part := s.partOf re.cx, core := core, byCtl := byCtl, gang := t.gang, index := t.index, slot := slot
      reach := re, ranges := s.tileLocks re f.tile f.row f.col, registered := false, bar := bar, bytes := f.tile.size
      began := s.ns, fault := none, work := .fetch f }
  let m := s.mx core
  (id, s.setMx core { m with slots := m.slots.alter f.slot fun x => { x with st := .filling id } })

/-- Tile coordinates of MFETCH, field by field (R285). -/
def fetchCoords (imm a : Nat) : Nat × Nat :=
  ((bits imm 15 0 + bits a 15 0) % 2 ^ 16, (bits imm 31 16 + bits a 31 16) % 2 ^ 16)

/-- Checks 2 to 4 of an MFETCH whose slot the team holds, then its start: the fetch's name and the state after it. -/
def State.fetchInto (s : State) (who : Waiter) (core slot : Nat) (t : Team) (reader : Reach) (base h : Nat) (byCtl : Bool)
    (n bar : Nat) (at' : Nat × Nat) : Except MxBad (Nat × State) :=
  match s.readOperand who reader base h, s.reachOf t with
  | .error e, _ => .error e
  | .ok _, none => .error (.trap (.mk0 clsPROT))
  | .ok tile, some re =>
    match s.tileOut re tile at'.1 at'.2 with
    | some a => .error (.trap (trapAddr clsPROT a))
    | none =>
      if s.barDead t.gang bar then .error (.trap ⟨clsBAR, 9, 0⟩)
      else .ok ((s.recordRead who core re.cx base h).startFetch core slot t re byCtl (some (t.gang, bar))
        { slot := n, tile := tile, row := at'.1, col := at'.2, walk := none })

/-- The team whose slot a control-thread MFETCH names: a resident team of the owning context. -/
def State.slotTeam (s : State) (core n : Nat) (cx : CtxId) : Option (Nat × Team) :=
  match (s.mx core).slots.get? n with
  | some x => match x.holder with
    | some slot => match s.team? core slot with
      | some t => if s.teamCx t == some cx then some (slot, t) else none
      | none => none
    | none => none
  | none => none

/-- A matrix trap of the control thread: the reason of SLOT and MLISTF goes to the error record of the holding team (R305). -/
def MxBad.ctlIssue (e : MxBad) (s : State) (core : Nat) (slot : Option Nat) : CtlIssue :=
  match e with
  | .mx cls r => match slot with
    | some n => if cls == clsDESYNC then .trap (.mk0 cls) else .trapIn (s.updTeam core n (Team.noteMx cls r)) (.mk0 cls)
    | none => .trap (.mk0 cls)
  | .trap x => .trap x
  | .fault k va addr => .fault k 1 va addr
  | .wait s => .flow s

def execMfetch (w : Ins) (s : State) : Outcome State Fault Refusal :=
  let n := w.m 57 53
  let bar := w.m 52 49
  issueBoth .mfetch w s
    (fun si e =>
      if e != si.team.launched then .trap (.mk0 clsCONV)
      else if ((s.mx si.core).held? si.slot n).isNone then (slotBad 4).issue
      else if si.team.inRing n then (slotBad 7).issue
      else match s.reachOf si.team with
        | none => .hold
        | some re =>
          let s' := s.drainTeam si.core si.slot
          match s'.fetchInto (.fetch (.team si.core si.slot)) si.core si.slot si.team re si.team.lrb.toNat (s.uni si w.b) false n bar
              (fetchCoords w.imm.toNat (s.uni si w.a)) with
          | .error e => e.issue
          | .ok (id, s') => if s'.opsSettled [id] then .done s' else .block s' (.locks [id]) true)
    (fun si =>
      match s.slotTeam si.core n si.owner with
      | none => (slotBad 4).ctlIssue s si.core none
      | some (slot, t) =>
        if t.inRing n then (slotBad 7).ctlIssue s si.core (some slot)
        else
          let s' := s.drainCtl si.core
          match s'.fetchInto (.fetch (.ctl si.core)) si.core slot t (ctlReach si.core si.owner) si.ctl.clrb.toNat (rdK s si.core w.b) true n bar
              (fetchCoords w.imm.toNat (rdK s si.core w.a)) with
          | .error e => e.ctlIssue s si.core (some slot)
          | .ok (id, s') => if s'.opsSettled [id] then .done s' else .wait s' (.locks [id]) true)

/-- Completion signals that may fire: no tile of theirs is open, and no earlier one of their walk is (R299). -/
def State.fireSignals (s : State) : Nat → State
  | 0 => s
  | n + 1 =>
    match s.sigs.find? fun x => x.left == 0 && !(s.sigs.any fun y => y.walk == x.walk && y.name < x.name) with
    | some x =>
      let s := { s with sigs := s.sigs.filter fun y => y.name != x.name }
      State.fireSignals (s.barBytes x.gang x.bar x.bytes) n
    | none => s

/-- One tile of a walk's block has completed. -/
def State.signal (s : State) (name : Option Nat) : State :=
  match name with
  | some k =>
    let l : List WSignal := s.sigs.map fun x => if x.name == k then { x with left := x.left - 1 } else x
    { s with sigs := l }.fireSignals l.length
  | none => s

/-- A fetch leaves its slot: with contents or FAULTED where the slot still waits for it, and free where the team has released
it. -/
def State.endFill (s : State) (core id n : Nat) (f : MSlot → MSlot) : State :=
  let m := s.mx core
  match m.slots.get? n with
  | some x =>
    if x.st != .filling id then s
    else if x.holder.isNone then s.setMx core { m with slots := m.slots.erase n }
    else s.setMx core { m with slots := m.slots.set n (f x) }
  | none => s

/-- A fetch ends for its slot, on its core, or among the units that are saved with its team. -/
def State.endFillOf (s : State) (id : Nat) (o : EngOp) (n : Nat) (f : MSlot → MSlot) : State :=
  match s.gang? o.gang with
  | some g =>
    if g.resident then s.endFill o.core id n f
    else s.setGang o.gang { g with savedMx := g.savedMx.map fun (x : SavedMx) =>
      if x.index == o.index then { x with slots := x.slots.alter n fun y => if y.st == .filling id then f y else y } else x }
  | none => s.endFill o.core id n f

/-- A registered fetch reads its tile, clears its locks, makes the slot FULL and posts its bytes; a byte that does not translate
posts a fault record instead. -/
def State.finishFetch (s : State) (id : Nat) (o : EngOp) (f : Fetch) : Option State :=
  if !o.registered || !s.opLive o || o.fault.isSome || f.kept then none
  else match s.fetchTile o.reach f.tile f.row f.col with
    | .error (k, va) => s.opFault id o k va
    | .ok x =>
      s.gate (.work id) (s.keysChans false x.keys) fun s =>
      let s := (s.tileWalked o.core o.reach f.tile f.row f.col).touch o.cx.vd 0 x.keys
      let t := f.tile
      let s := s.endFill o.core id f.slot fun y => { y with
        st := .full
        ty := t.ty
        roleB := t.roleB
        scaled := t.scaled
        lines := t.kLines
        k := t.k
        tail := t.tailOf f.row f.col
        image := x.image
        fifo := x.fifo }
      some ((s.endOp id o).signal f.walk)

def execFetchComplete (op : Nat) (s : State) : Outcome State Fault Refusal :=
  enabled s <| match s.ops.get? op with
    | some o => match o.work with
      | .fetch f => s.finishFetch op o f
      | _ => none
    | none => none

/-- Renweaz does not mend a fetch's fault: the slot is FAULTED, the locks clear, the bytes are posted, and so is a record with
SRC 3 and STATUS 2. -/
def execFetchFaultUnmended (op : Nat) (s : State) : Outcome State Fault Refusal :=
  enabled s <| match s.ops.get? op with
    | some o => match o.work, o.fault with
      | .fetch f, some rec =>
        let va := match s.faults.get? rec with
          | some x => x.va
          | none => 0
        let s := (s.dropFault rec).endFillOf op o f.slot fun y => { y with st := .faulted va }
        let s := (s.endOp op o).signal f.walk
        some (s.postEvent o.core o.cx { tag := BitVec.ofNat 64 va, src := 3, status := 2, unit := o.core
                                        detail := BitVec.ofNat 32 (2 ^ 8 * o.slot + f.slot) })
      | _, _ => none
    | none => none

/-! MMA (R288 to R292). -/

/-- G of a pair of types, and whether it accumulates in FP64; none where the pair is not accepted. -/
def mmaGroup (a b : DType) : Option (Nat × Bool) :=
  let fp8 (t : DType) := t == .e4m3 || t == .e5m2
  if a == .f64 && b == .f64 then some (1, true)
  else if a == .f32 && b == .f32 then some (4, false)
  else if (a == .f16 && b == .f16) || (a == .bf16 && b == .bf16) then some (16, false)
  else if fp8 a && fp8 b then some (32, false)
  else if a == .e2m1 && b == .e2m1 then some (64, false)
  else if a.isE8 && b == .f16 then some (32, false)
  else if a.isE8 && fp8 b then some (64, false)
  else none

/-- Scale bytes of a slot for its K-line l: code 127 where it is not scaled. -/
def MSlot.scaleAt (x : MSlot) (l m : Nat) : Nat := if x.scaled then (x.fifo.getD (l * (x.k / 32) + m) 127).toNat else 127

/-- A value under an X8 scale code: code 255 makes a NaN of it (04 R109). -/
def scaleVal (v : Val) (e : Nat) : Val := if e == 255 then .nan false else v.scale ((e : Int) - 127)

/-- The values of K-line l of a slot, with their scales. -/
def MSlot.line (x : MSlot) (l : Nat) : List Val :=
  let w := x.ty.elemBits
  let code := leNat ((x.image.drop (l * x.k * w / 8)).take (x.k * w / 8))
  if x.ty.isE8 then
    (List.range (x.k / 8)).flatMap fun q =>
      let live := match x.tail with
        | some (tl, tq, n) => if tl == l && tq == q then n else 8
        | none => 8
      let e := x.scaleAt l (q / 4)
      if e == 255 then List.replicate 8 (.nan false)
      else decodePoint w (code / 2 ^ (8 * w * q) % 2 ^ (8 * w)) e live
  else (List.range x.k).map fun k => scaleVal (x.ty.read false (code / 2 ^ (w * k) % 2 ^ w)) (x.scaleAt l (k / 32))

/-- One group's sum added to an accumulator value and rounded; a flushed FP32 result sets MUF (R290, 04 R104, R116, R117). -/
def accStep (f : Fmt) (acc : Nat) (ps : List (Val × Flags)) : Nat × Flags :=
  let (sum, fl) := sumVals .rne (ps.map (·.1))
  let fl := fl ||| Flags.all (ps.map (·.2)) ||| Flags.when sum.isNaN Flags.nv
  let (v, fl') := sumVals .rne [f.read false acc, sum]
  let (r, fr) := roundFP f .rne 0 v
  let sub := f == Fmt.f32 && bits r 30 23 == 0 && r % 2 ^ 23 != 0
  (if sub then r / 2 ^ 31 * 2 ^ 31 else r, (fl ||| fl' ||| fr) &&& (Flags.nv ||| Flags.ovf) ||| Flags.when sub Flags.muf)

/-- One output element: groups of G consecutive k, ascending. -/
def accElement (f : Fmt) (g : Nat) : Nat → List Val → List Val → Nat → Nat × Flags
  | 0, _, _, acc => (acc, 0)
  | n + 1, as, bs, acc =>
    if as.isEmpty then (acc, 0) else
    let (r, fl) := accStep f acc (((as.take g).zip (bs.take g)).map fun x => mulVal x.1 x.2)
    let (r', fl') := accElement f g n (as.drop g) (bs.drop g) r
    (r', fl ||| fl')

/-- The 256 results of an MMA over panels of 16 K-lines. -/
def mmaTile (f : Fmt) (g k : Nat) (as bs : List (List Val)) (acc : Nat → Nat) : List (Nat × Flags) :=
  (as.zipIdx).flatMap fun a => (bs.zipIdx).map fun b => accElement f g (ceilDiv k g) a.1 b.1 (acc (16 * a.2 + b.2))

/-- Element e of a pair of accumulators as FP64 bits. -/
def pairElem (lo hi : List W32) (e : Nat) : Nat :=
  let get (n : Nat) := if n < 256 then (lo.getD n 0).toNat else (hi.getD (n - 256) 0).toNat
  get (2 * e) + 2 ^ 32 * get (2 * e + 1)

def wordsOf64 (l : List Nat) : List W32 := l.flatMap fun x => [BitVec.ofNat 32 x, BitVec.ofNat 32 (x / 2 ^ 32)]

/-- The slot's FIFO count fits its tile (R288). -/
def MSlot.fifoOk (x : MSlot) : Bool := x.fifo.length == (if x.scaled then x.lines * (x.k / 32) else 0)

def MSlot.isEmpty (x : MSlot) : Bool := x.st == .empty

def MSlot.isFilling (x : MSlot) : Bool :=
  match x.st with
  | .filling _ => true
  | _ => false

def MSlot.faultedAt (x : MSlot) : Option Nat :=
  match x.st with
  | .faulted va => some va
  | _ => none

/-- Checks of R291 from order 4 on, for slots that the team holds. -/
def mmaBad (m : Matrix) (team n pa pb : Nat) (x y : MSlot) : Option MxBad :=
  let pair := mmaGroup x.ty y.ty
  let wide := match pair with
    | some (_, d) => d
    | none => false
  firstFail [
    (!x.isEmpty && !y.isEmpty, slotBad 5), (!x.isFilling && !y.isFilling, slotBad 6),
    (x.faultedAt.isNone, .trap (trapAddr clsPAGE (x.faultedAt.getD 0))),
    (y.faultedAt.isNone, .trap (trapAddr clsPAGE (y.faultedAt.getD 0))),
    (!x.roleB && y.roleB && pair.isSome, desync 18), (x.k == y.k, desync 17),
    (16 * pa + 15 < x.lines && 16 * pb + 15 < y.lines, desync 22),
    (!wide || (n % 2 == 0 && (m.acc? team (n + 1)).isSome), slotBad 8),
    (x.fifoOk && y.fifoOk, desync 16)]

/-- The accumulators after an MMA, and its flags. -/
def Matrix.mma (m : Matrix) (n pa pb : Nat) (x y : MSlot) : Matrix × Flags :=
  let as := (List.range 16).map fun i => x.line (16 * pa + i)
  let bs := (List.range 16).map fun j => y.line (16 * pb + j)
  let words (k : Nat) := match m.accs.get? k with
    | some a => a.words
    | none => zeroAcc
  let put (m : Matrix) (k : Nat) (ws : List W32) : Matrix := { m with accs := m.accs.alter k fun a => { a with words := ws } }
  match mmaGroup x.ty y.ty with
  | some (g, true) =>
    let r := mmaTile .f64 g x.k as bs (pairElem (words n) (words (n + 1)))
    let ws := wordsOf64 (r.map (·.1))
    (put (put m n (ws.take 256)) (n + 1) (ws.drop 256), Flags.all (r.map (·.2)))
  | some (g, false) =>
    let r := mmaTile .f32 g x.k as bs fun e => ((words n).getD e 0).toNat
    (put m n (r.map fun e => BitVec.ofNat 32 e.1), Flags.all (r.map (·.2)))
  | none => (m, 0)

def execMma (w : Ins) (s : State) : Outcome State Fault Refusal :=
  issueMx .mma w s fun si =>
    let a := s.uni si w.a
    let b := s.uni si w.b
    let c := s.uni si w.c
    let m := s.mx si.core
    let n := bits c 3 0
    if 32 ≤ a || 32 ≤ b || bits c 7 4 != 0 || bits c 15 12 != 0 || 2 ^ 20 ≤ c then .error (slotBad 1)
    else match m.held? si.slot a, m.held? si.slot b, m.acc? si.slot n with
      | some x, some y, some _ =>
        match mmaBad m si.slot n (bits c 11 8) (bits c 19 16) x y with
        | some e => .error e
        | none =>
          let (m', fl) := m.mma n (bits c 11 8) (bits c 19 16) x y
          .ok (.done ((s.setMx si.core m').onTeam si fun t => { t with mflags := t.mflags ||| fl }))
      | _, _, _ => .error (slotBad 4)

/-! Moves between accumulators, slots and registers (R293, R294). -/

def execMzero (w : Ins) (s : State) : Outcome State Fault Refusal :=
  issueMx .mzero w s fun si =>
    let a := s.uni si w.a
    let m := s.mx si.core
    if 16 ≤ a then .error (slotBad 1)
    else match m.acc? si.slot a with
      | some x => .ok (.done (s.setMx si.core { m with accs := m.accs.set a { x with words := zeroAcc } }))
      | none => .error (slotBad 4)

def illop : MxBad := .trap (.mk0 clsILLOP)

/-- Word o of the team image order stands in register first + r of thread t. -/
def imageWords (t : Team) (first n : Nat) : List W32 :=
  (List.range n).map fun o => t.vreg (o % t.threads) (first + o / t.threads)

/-- Results of a matrix instruction, with the flags that it shows (R292). -/
def mxResults (o : Op) (w : Ins) (s : State) (si : Site) (ws : List RegWrite) : Issue :=
  issueResults o w (s.onTeam si fun t => { t with mflags := 0 }) si ws si.team.mflags

def execMrd (w : Ins) (s : State) : Outcome State Fault Refusal :=
  issueMx .mrd w s fun si =>
    let a := s.uni si w.a
    let t := si.team
    match w.d with
    | .v d =>
      if 16 ≤ a then .error (slotBad 1)
      else match (s.mx si.core).acc? si.slot a with
        | some x => .ok (mxResults .mrd w s si ((x.words.zipIdx).map fun y =>
            .v (y.2 % t.threads) (d + y.2 / t.threads) y.1))
        | none => .error (slotBad 4)
    | _ => .error illop

def execMwr (w : Ins) (s : State) : Outcome State Fault Refusal :=
  issueMx .mwr w s fun si =>
    let b := s.uni si w.b
    let m := s.mx si.core
    match w.a with
    | .v a =>
      if 16 ≤ b then .error (slotBad 1)
      else match m.acc? si.slot b with
        | some x => .ok (.done (s.setMx si.core { m with accs := m.accs.set b { x with words := imageWords si.team a 256 } }))
        | none => .error (slotBad 4)
    | _ => .error illop

/-- The shape word of MWR.t: TR, TC, ROLE, SCALED; none where it or the type breaks R283. -/
def shapeWord (ty : DType) (c : Nat) : Option (Nat × Nat × Bool × Bool) :=
  let tr := 16 * bits c 7 0
  let tc := 16 * bits c 15 8
  let roleB := bitAt c 16
  let sc := bitAt c 17
  let k := if roleB then tr else tc
  if 2 ^ 18 ≤ c || !shapeOk ty tr tc sc || (ty.isE8 && roleB) || (sc && k % 32 != 0) then none else some (tr, tc, roleB, sc)

/-- The slot of a slot word, held and outside the ring of the active walk. -/
def State.slotFor (s : State) (si : Site) (n : Nat) : Except MxBad MSlot :=
  if 32 ≤ n then .error (slotBad 1)
  else match (s.mx si.core).held? si.slot n with
    | none => .error (slotBad 4)
    | some x => if si.team.inRing n then .error (slotBad 7) else .ok x

def State.setSlot (s : State) (core n : Nat) (x : MSlot) : State :=
  let m := s.mx core
  s.setMx core { m with slots := m.slots.set n x }

def execMwrT (w : Ins) (s : State) : Outcome State Fault Refusal :=
  issueMx .mwrT w s fun si =>
    let n := s.uni si w.b
    let ty := w.ty.getD .n8
    match s.slotFor si n, w.a with
    | .error e, _ => .error e
    | .ok x, .v a =>
      match shapeWord ty (s.uni si w.c) with
      | none => .error (desync 20)
      | some (tr, tc, roleB, sc) =>
        let words := tr * tc * ty.elemBits / 32
        if !si.team.imageFits a words then .error illop
        else .ok (.done (s.setSlot si.core n { x with
          st := .full
          ty := ty
          roleB := roleB
          scaled := sc
          lines := if roleB then tc else tr
          k := if roleB then tr else tc
          tail := none
          image := (imageWords si.team a words).flatMap fun y => leBytes 4 y.toNat
          fifo := [] }))
    | .ok _, _ => .error illop

def execMscl (w : Ins) (s : State) : Outcome State Fault Refusal :=
  issueMx .mscl w s fun si =>
    let n := s.uni si w.b
    let c := s.uni si w.c
    match s.slotFor si n, w.a with
    | .error e, _ => .error e
    | .ok x, .v a =>
      match firstFail [(!x.isEmpty, slotBad 5), (!x.isFilling, slotBad 6),
          (x.faultedAt.isNone, .trap (trapAddr clsPAGE (x.faultedAt.getD 0))),
          (0 < c && x.fifo.length + c ≤ 1024, desync 21), (si.team.imageFits a (ceilDiv c 4), illop)] with
      | some e => .error e
      | none =>
        let bs := (imageWords si.team a (ceilDiv c 4)).flatMap fun y => leBytes 4 y.toNat
        .ok (.done (s.setSlot si.core n { x with fifo := x.fifo ++ bs.take c }))
    | .ok _, _ => .error illop

/-! MST (R295, R296). -/

/-- A piece that MST stores: address, bytes, value, and which of its bits change. -/
structure MstPiece where
  addr : Nat
  len : Nat
  data : Nat
  mask : Nat

/-- The elements of the store's tile inside the tensor, as (i, j) and linear index. -/
def TileRec.inside (t : TileRec) (row col : Nat) : List (Nat × Nat × Nat) :=
  (List.range 256).filterMap fun e => (t.index row col (e / 16) (e % 16)).map fun li => (e / 16, e % 16, li)

/-- An element as MST rounds it under its scale code; only invalid, overflow and SAT count. -/
def mstElem (t : TileRec) (c : RCtl) (v : Val) (e : Nat) : Nat × Flags :=
  if t.scaled && e == 255 then (t.ty.fmt.canonNaN, Flags.nv)
  else
    let (r, fl) := roundFP t.ty.fmt c 0 (if t.scaled then v.scale (127 - (e : Int)) else v)
    (r, fl &&& (Flags.nv ||| Flags.ovf ||| Flags.sat))

/-- An element's piece. -/
def TileRec.piece (t : TileRec) (li x : Nat) : MstPiece :=
  let w := t.ty.elemBits
  let sh := li * w % 8
  { addr := t.base + li * w / 8, len := ceilDiv w 8, data := x * 2 ^ sh, mask := (2 ^ w - 1) * 2 ^ sh }

/-- The pieces of a store and its flags: elements, or whole E8 points. `v` gives the accumulator's values, `sc` the scale code of
a linear index. -/
def mstPieces (t : TileRec) (c : RCtl) (row col : Nat) (v : Nat → Nat → Val) (sc : Nat → Nat) : List (MstPiece × Flags) :=
  let l := t.inside row col
  if t.ty.isE8 then
    let b := t.ty.elemBits
    (l.filter fun x => x.2.2 % 8 == 0).map fun x =>
      let vs := (List.range 8).map fun k => if t.colMajor then v (x.1 + k) x.2.1 else v x.1 (x.2.1 + k)
      let (p, fl) := lq8Point b vs (if t.scaled then sc x.2.2 else 127) (min 8 (t.len - x.2.2))
      ({ addr := t.base + b * (x.2.2 / 8), len := b, data := p, mask := 2 ^ (8 * b) - 1 }, fl &&& Flags.nv)
  else l.map fun x =>
    let (r, fl) := mstElem t c (v x.1 x.2.1) (sc x.2.2)
    (t.piece x.2.2 r, fl)

/-- The record, types and pair of an MST (R295). -/
def mstBad (t : TileRec) (wide : Bool) : Option MxBad :=
  firstFail [(t.tr == 16 && t.tc == 16, desync 20),
    (if wide then t.ty == .f64 || t.ty == .f32 else t.ty != .f64, desync 18)]

/-- Positions of E8 points that the tile would split: none under R283, since extents and origins are whole points. -/
def TileRec.splitsPoint (t : TileRec) (row col : Nat) : Bool :=
  t.ty.isE8 && (t.runs row col).any fun x => x.1 % 8 != 0 || x.2 % 8 != 0

/-- The scale codes of the elements, by linear index div 32. -/
def State.mstScales (s : State) (re : Reach) (t : TileRec) (row col : Nat) : Except MxBad (List (Nat × Nat)) :=
  if !t.scaled then .ok [] else
  let bl : List Nat := ((t.inside row col).map fun x => x.2.2 / 32).dedup
  match s.check re t.space .load (bl.map fun (b : Nat) => { tid := 0, ea := ((t.sbase + b : Nat) : Int), len := 1, align := 1 }) with
  | .error (.trap x) => .error (.trap x)
  | .error (.fault k va addr) => .error (.fault k va addr)
  | .ok places => .ok ((bl.zip places).map fun x => (x.1, match x.2.2 with
      | .here (k :: _) => (s.readKey k).toNat
      | _ => Config.freeNat (s.freeIx x.1) % 256))

/-- A byte that MST changes: its address, its new bits, and which they are. -/
structure MstByte where
  addr : Nat
  data : Nat
  mask : Nat

/-- The bytes of the pieces, in ascending address; two 4-bit elements of one byte are joined. -/
def mstBytes (l : List MstPiece) : List MstByte :=
  let all := l.flatMap fun p => (List.range p.len).map fun i =>
    (⟨p.addr + i, p.data / 2 ^ (8 * i) % 256, p.mask / 2 ^ (8 * i) % 256⟩ : MstByte)
  (all.insertionSort fun x y => x.addr ≤ y.addr).foldr (fun x r => match r with
    | y :: ys => if x.addr == y.addr then { y with data := y.data ||| x.data, mask := y.mask ||| x.mask } :: ys else x :: r
    | [] => [x]) []

/-- Cuts the bytes where a store ends: at the end of a crumb, and, in a remote window, at a gap or after 16 bytes (02 R63). -/
def mstStores (remote : Nat → Bool) (l : List MstByte) : List (List MstByte) :=
  l.foldr (fun x r => match r with
    | (y :: ys) :: rest =>
      if x.addr / 64 == y.addr / 64 && !(remote x.addr || remote y.addr) then (x :: y :: ys) :: rest
      else if remote x.addr && remote y.addr && x.addr + 1 == y.addr && x.addr / 16 == y.addr / 16 then (x :: y :: ys) :: rest
      else [x] :: r
    | _ => [x] :: r) []

/-- One store of MST. Where it goes to a remote window, the bits of a byte that it leaves alone are those of the peer's memory,
which this device does not know (log 77). -/
def State.mstItem (s : State) (si : Site) (re : Reach) (sp : Space) (l : List MstByte) : MemItem :=
  let join (f : MstByte → Nat) : Nat := leNat (l.map fun x => BitVec.ofNat 8 (f x))
  let keep := join fun x => 255 - x.mask
  let a : Nat := (l.head?.map (·.addr)).getD 0
  match s.placeOf re sp { tid := 0, ea := a, len := l.length, align := 1 } with
  | .remote p cx va n =>
    { tid := 0, place := .remote p cx va n, data := join (·.data) ||| (Config.freeNat (s.freeIx a) &&& keep), cmp := 0, dst := none
      live := true }
  | .here _ =>
    { tid := 0, data := join (·.data), cmp := 0, dst := none, live := true, keep := keep, thru := throughItem s si sp a
      place := .here (l.flatMap fun x => match s.placeOf re sp { tid := 0, ea := x.addr, len := 1, align := 1 } with
        | .here ks => ks
        | .remote .. => []) }

/-- The stores of MST, one for each crumb, in ascending address order. -/
def State.mstItems (s : State) (si : Site) (re : Reach) (sp : Space) (l : List MstPiece) : List MemItem :=
  (mstStores (fun a => sp == .g && (s.remoteOf re.cx a).isSome) (mstBytes l)).map (s.mstItem si re sp)

/-- Rounding of MST: stochastic rounding acts as RNE (R295). -/
def mstCtl (t : Team) (w : Ins) : RCtl :=
  ⟨match t.mode w with | .sto => .rne | m => m, w.sat, false⟩

def execMst (w : Ins) (s : State) : Outcome State Fault Refusal :=
  issueMx .mst w s fun si =>
    let a := s.uni si w.a
    let c := s.uni si w.c
    let wide := w.mb 49
    let m := s.mx si.core
    let acc (n : Nat) := ((m.acc? si.slot n).map (·.words)).getD zeroAcc
    match firstFail [(a < 16, slotBad 1), ((m.acc? si.slot a).isSome, slotBad 4),
        (!wide || (a % 2 == 0 && (m.acc? si.slot (a + 1)).isSome), slotBad 8)], s.reachOf si.team with
    | some e, _ => .error e
    | none, none => .ok .hold
    | none, some re =>
      let who : Waiter := .fetch (.team si.core si.slot)
      let s := s.drainTeam si.core si.slot
      match s.readTile who re si.team.lrb.toNat (s.uni si w.b) with
      | .error e => .error e
      | .ok t =>
        let row := bits c 15 0
        let col := bits c 31 16
        match mstBad t wide, s.mstScales re t row col with
        | some e, _ => .error e
        | none, .error e => .error e
        | none, .ok sc =>
          if t.splitsPoint row col then .error (.trap (.mk0 clsSLICE)) else
          let v (i j : Nat) : Val :=
            if wide then Fmt.f64.read false (pairElem (acc a) (acc (a + 1)) (16 * i + j))
            else Fmt.f32.read false ((acc a).getD (16 * i + j) 0).toNat
          let code (li : Nat) := ((sc.find? fun x => x.1 == li / 32).map (·.2)).getD 127
          let ps := (mstPieces t (mstCtl si.team w) row col v code).insertionSort fun x y => x.1.addr ≤ y.1.addr
          let wants : List Want := ps.map fun x => { tid := 0, ea := x.1.addr, len := x.1.len, align := 1 }
          if s.walksStuck re.cx t.space wants then .ok .hold else
          match s.check re t.space .store wants with
          | .error (.trap x) => .error (.trap x)
          | .error (.fault k va addr) => .ok (.fault k 2 va addr)
          | .ok _ =>
            let s := (s.recordRead who si.core re.cx si.team.lrb.toNat (s.uni si w.b)).walkedFor si.core re.cx t.space wants
            .ok (issueStore (s.onTeam si fun t => t.addTsr (Flags.all (ps.map (·.2)))) si 0 .store
              (s.mstItems si re t.space (ps.map (·.1))))

/-! MSTAT (R302). -/

def execMstat (w : Ins) (s : State) : Outcome State Fault Refusal :=
  issueMx .mstat w s fun si =>
    match w.d with
    | .s d =>
      if s.matrixBusy si.team s.nextId then
        let (id, s) := s.newId
        .ok (.done (s.onTeam si fun t => t.enqueue
          { id := id, flag := si.flagOf w, work := .mstat (w.m 50 49) d, dst := dstCodes .mstat w t.threads }))
      else .ok (mxResults .mstat w s si [.s d (BitVec.ofNat 32 (s.mstatWord si.core si.slot si.team (w.m 50 49)))])
    | _ => .ok (.done s)

/-! Exit, pre-emption and restore (R308, R309). -/

/-- The slots that abandoned or aborted fetches were to fill are free, where no team holds them. -/
def State.dropFills (s : State) (ids : List Nat) : State :=
  { s with cores := s.cores.map fun x => (x.1, { x.2 with mx := { x.2.mx with slots := x.2.mx.slots.filter fun y =>
      !(y.2.holder.isNone && match y.2.st with
        | .filling id => ids.contains id
        | _ => false) } }) }

/-- The fetches of a team. -/
def State.fetchesOf (s : State) (gang index : Nat) : List Nat :=
  (s.ops.filter fun x => x.2.work.isFetch && x.2.gang == gang && x.2.index == index).map (·.1)

/-- A team's units are released: at its exit, or when it is killed. -/
def State.mxRelease (s : State) (core slot : Nat) : State :=
  let m := s.mx core
  let mine (h : Option Nat) := h == some slot
  let m := m.drop false ((m.slots.filter fun x => mine x.2.holder).map (·.1))
  let m := m.drop true ((m.accs.filter fun x => mine x.2.holder).map (·.1))
  s.setMx core { m with claims := m.claims.filter fun c => c.slot != slot }

/-- The units of a team as they are saved, and the core without them. A slot that the team has released while a fetch still fills
it is free: the fetch restarts elsewhere (R308). -/
def State.mxSave (s : State) (core slot gang index : Nat) : SavedMx × State :=
  let s := s.dropFills (s.fetchesOf gang index)
  let m := s.mx core
  let mine (h : Option Nat) := h == some slot
  ({ index := index, slots := m.slots.filter fun x => mine x.2.holder, accs := m.accs.filter fun x => mine x.2.holder },
   s.setMx core { slots := m.slots.filter fun x => !mine x.2.holder, accs := m.accs.filter fun x => !mine x.2.holder
                  claims := m.claims.filter fun c => c.slot != slot })

/-- The numbers of saved units are free on a core. -/
def State.mxRoom (s : State) (core : Nat) (x : SavedMx) : Bool :=
  let m := s.mx core
  (x.slots.all fun y => m.isFree false y.1) && x.accs.all fun y => m.isFree true y.1

/-- The splits of a team that wait on claims. -/
def Team.claimers (t : Team) : List Nat :=
  (t.splits.filter fun x => match x.2.wait with | .claim .. => true | _ => false).map (·.1)

/-- Saved units come back, and the team's claims wait again. -/
def State.mxRestore (s : State) (core slot : Nat) (t : Team) (x : SavedMx) : State :=
  let m := s.mx core
  s.setMx core
    { slots := x.slots.foldl (fun l y => l.set y.1 { y.2 with holder := some slot }) m.slots
      accs := x.accs.foldl (fun l y => l.set y.1 { y.2 with holder := some slot }) m.accs
      claims := m.claims ++ t.claimers.map fun e => { slot := slot, entry := e } }

end Sys2Proof.Machine
end

