-- ==== Sys2Proof/Machine/FilterEngine.lean ====
section
/-! DEFINITION. The filter engine: engine windows, texture and grid records, sampling, TEXS, HGL, RESQ, and the steps of a request
(12 R328 to R351). -/

namespace Sys2Proof.Machine

open Sys2Proof Host

/-! Engine windows (R328, R329). -/

/-- The window of a context that holds every one of some ranges. -/
def State.windowOf (s : State) (cx : CtxId) (l : List (Nat × Nat)) : Option Window :=
  (s.ctx? cx).bind fun c => c.windows.find? fun w => l.all fun x => w.base ≤ x.1 && x.1 + x.2 ≤ w.base + w.len

/-- C of a page as the window table knows it: as it is mapped, or, until the invalidation, as a translation still has it. -/
def State.pageCmp (s : State) (cx : CtxId) (va : Nat) : Bool :=
  (match s.leafOf? cx va with
    | some (_, e) => bitAt e 5
    | none => false) ||
  match s.tlbLeaf cx va with
  | some l => l.comp && Config.freeBool (s.freeIx (va / 65536))
  | none => false

/-- CMP of a window: a mapped page of it has C = 1. -/
def State.windowCmp (s : State) (cx : CtxId) (w : Window) : Bool :=
  (List.range (w.len / 65536)).any fun i => s.pageCmp cx (w.base + 65536 * i)

/-- Every mapped page of some ranges has E = 1 (02 R50). -/
def State.engPages (s : State) (cx : CtxId) (l : List (Nat × Nat)) : Bool :=
  l.all fun x => (List.range (ceilDiv (x.1 + x.2) 65536 - x.1 / 65536)).all fun i =>
    match s.translate cx (65536 * (x.1 / 65536 + i)) with
    | .ok l => l.engine
    | .error _ => true

/-- A base-die engine's read beneath the L2: the number at a virtual address, none at a hole (R330, R349). -/
def State.engRead (s : State) (cx : CtxId) (va n : Nat) : Option Nat :=
  match s.translate cx va with
  | .ok l => some (s.readPA l.pa n)
  | .error _ => none

/-- An engine's read for a thread: what it has read before, or what it reads now, with the physical address. -/
def State.engLook (s : State) (cx : CtxId) (got : List Fetched) (tid va n : Nat) : Option (Nat × List Nat) :=
  match got.find? fun g => g.tid == tid && g.va == va && g.n == n with
  | some g => g.x.map fun x => (x, [])
  | none => match s.translate cx va with
    | .ok l => some (s.readPA l.pa n, [l.pa])
    | .error _ => none

/-- How a step's part for a thread reads: n bytes at an address, none in a hole. -/
abbrev Look := Nat → Nat → Option (Nat × List Nat)

/-! Records (R331, R332, R339). -/

def TexRec.texel (r : TexRec) : Nat := if r.fmt == 1 then 8 else 4

def TexRec.wd (r : TexRec) (m : Nat) : Nat := max 1 (r.w / 2 ^ m)
def TexRec.ht (r : TexRec) (m : Nat) : Nat := max 1 (r.h / 2 ^ m)

/-- Bytes of a row of level m. -/
def TexRec.pitch (r : TexRec) (m : Nat) : Nat := alignUp (r.wd m * r.texel) 64

/-- Where level m starts. -/
def TexRec.off (r : TexRec) : Nat → Nat
  | 0 => 0
  | m + 1 => alignUp (r.off m + r.pitch m * r.ht m) 256

/-- Residency tiles, and the ranges of the footprint. -/
def TexRec.tiles (r : TexRec) : Nat := ceilDiv r.size 65536

def TexRec.ranges (r : TexRec) : List (Nat × Nat) :=
  (r.base, r.size) :: if r.sparse then [(r.rmap, ceilDiv r.tiles 8), (r.fbmap, ceilDiv r.tiles 8)] else []

def TexRec.ok (r : TexRec) : Bool :=
  r.base % 256 == 0 && 1 ≤ r.w && r.w ≤ 16384 && 1 ≤ r.h && r.h ≤ 16384 && r.fmt < 4 &&
  1 ≤ r.levels && r.levels ≤ 1 + Nat.log2 (max r.w r.h) && r.umode < 3 && r.vmode < 3 &&
  (if r.sparse then r.rmap % 8 == 0 && r.fbmap % 8 == 0 else r.rmap == 0 && r.fbmap == 0) &&
  r.off (r.levels - 1) + r.pitch (r.levels - 1) * r.ht (r.levels - 1) ≤ r.size

/-- A texture record from its 64 bytes; none where it is bad. -/
def parseTex (bs : List Byte) : Option TexRec :=
  let f (i n : Nat) := leNat ((bs.drop i).take n)
  let fl := f 22 1
  let r : TexRec :=
    { base := f 0 8, size := f 8 8, w := f 16 2, h := f 18 2, fmt := f 20 1, levels := f 21 1, umode := bits fl 1 0
      vmode := bits fl 3 2, sparse := bitAt fl 4, rmap := f 24 8, fbmap := f 32 8 }
  if fl / 32 == 0 && f 23 1 == 0 && f 40 24 == 0 && r.ok then some r else none

/-- Bytes of an entry. -/
def GridRec.entry (r : GridRec) : Nat := if r.e8 then 2 else 16

/-- The header of a grid record, and NL; none where a field of it is bad. -/
def parseGrid (bs : List Byte) : Option (GridRec × Nat) :=
  let f (i n : Nat) := leNat ((bs.drop i).take n)
  let nl := f 16 1
  let nf := f 18 1
  if f 0 8 % 64 == 0 && 1 ≤ nl && nl ≤ 16 && f 17 1 < 2 && 1 ≤ nf && nf ≤ 8 && f 19 45 == 0 then
    some ({ base := f 0 8, size := f 8 8, e8 := f 17 1 == 1, nf := nf, levels := [] }, nl)
  else none

/-- A level entry; none where it is bad. -/
def parseLevel (r : GridRec) (bs : List Byte) : Option GridLevel :=
  let f (i n : Nat) := leNat ((bs.drop i).take n)
  let l : GridLevel := { res := f 0 4, log2t := f 4 1, scale := f 5 1, off := f 8 8 }
  if 1 ≤ l.res && l.res < 2 ^ 20 && 4 ≤ l.log2t && l.log2t ≤ 24 && (r.e8 || l.scale == 0) && f 6 2 == 0 && l.off % 64 == 0 &&
      l.off + 2 ^ l.log2t * r.entry ≤ r.size then some l else none

/-! Sampling (R333 to R338). -/

/-- An FP32 operand as an exact value; NaN is +0. -/
def coordVal (x : W32) : Val :=
  match Fmt.f32.read false x.toNat with
  | .nan _ => .zero
  | v => v

/-- RoundInt, ties to even, clamped. -/
def clampRound (lo hi : Int) (v : Val) : Int :=
  match v with
  | .nan _ => 0
  | .inf n => if n then lo else hi
  | .num n m e =>
    let r : Int := (roundAt .rne 0 n m e 0).1
    max lo (min hi (if n then -r else r))

/-- What a step has met: holes read, tiles found non-resident, and the physical addresses it read. -/
structure Seen where
  holes : List Nat
  miss : List Nat
  pas : List Nat
  deriving DecidableEq, Repr

def Seen.none : Seen := { holes := [], miss := [], pas := [] }

def Seen.and (a b : Seen) : Seen := { holes := a.holes ++ b.holes, miss := a.miss ++ b.miss, pas := a.pas ++ b.pas }

def Seen.all (l : List Seen) : Seen := l.foldl Seen.and Seen.none

/-- L of R333, and from it m0 and fl. -/
def TexRec.level (r : TexRec) (tri : Bool) (lod : W32) : Nat × Nat :=
  let l := (clampRound 0 (256 * (r.levels - 1 : Nat)) ((coordVal lod).scale 8)).toNat
  let m := l / 256
  (m, if !tri || m + 1 == r.levels then 0 else l % 256)

/-- X or Y on an axis of extent n. -/
def texPos (n : Nat) (x : W32) : Int :=
  clampRound (-(2 ^ 25 : Nat)) (2 ^ 25 : Nat)
    (sumVals .rne [(mulVal (coordVal x) (.num false n 8)).1, .ofInt (-128)]).1

/-- The address mode: the coordinate read, none for a border texel. -/
def texWrap (mode n : Nat) (c : Int) : Option Nat :=
  match mode with
  | 0 => some (max 0 (min ((n : Int) - 1) c)).toNat
  | 1 => some (c % n).toNat
  | _ => if 0 ≤ c && c < n then some c.toNat else none

/-- The corners of level m that are read: weight and texel. -/
def TexRec.corners (r : TexRec) (m : Nat) (u v : W32) : List (Nat × Nat × Nat) :=
  let x := texPos (r.wd m) u
  let y := texPos (r.ht m) v
  let fx := (x % 256).toNat
  let fy := (y % 256).toNat
  let at' (wt : Nat) (dx dy : Int) : List (Nat × Nat × Nat) :=
    if wt == 0 then [] else
    match texWrap r.umode (r.wd m) (x / 256 + dx), texWrap r.vmode (r.ht m) (y / 256 + dy) with
    | some a, some b => [(wt, a, b)]
    | _, _ => []
  at' ((256 - fx) * (256 - fy)) 0 0 ++ at' (fx * (256 - fy)) 1 0 ++ at' ((256 - fx) * fy) 0 1 ++ at' (fx * fy) 1 1

/-- The address of a texel. -/
def TexRec.addr (r : TexRec) (m x y : Nat) : Nat := r.base + r.off m + y * r.pitch m + x * r.texel

/-- A tile's bit of the residency map. -/
def TexRec.resident (r : TexRec) (look : Look) (j : Nat) : Bool × Seen :=
  if !r.sparse then (true, .none) else
  let a := r.rmap + j / 8
  match look a 1 with
  | some (x, pas) => (bitAt x (j % 8), { Seen.none with pas := pas })
  | none => (false, { Seen.none with holes := [a] })

/-- A texel as a number; none where its tile is not resident. `read` is false for RESQ, which reads no texel. -/
def TexRec.read (r : TexRec) (look : Look) (read : Bool) (a : Nat) : Option Nat × Seen :=
  let j := (a - r.base) / 65536
  let (res, seen) := r.resident look j
  if !res then (none, { seen with miss := [j] })
  else if !read then (some 0, seen)
  else match look a r.texel with
    | some (x, pas) => (some x, { seen with pas := seen.pas ++ pas })
    | none => (some 0, { seen with holes := seen.holes ++ [a] })

/-- The read corners of level m with their texels. -/
def TexRec.sampleLevel (r : TexRec) (look : Look) (read : Bool) (u v : W32) (m : Nat) : List (Nat × Nat) × Seen :=
  let l := (r.corners m u v).map fun x => (x.1, r.read look read (r.addr m x.2.1 x.2.2))
  (l.filterMap fun x => x.2.1.map fun y => (x.1, y), Seen.all (l.map (·.2.2)))

/-- Channels of a texture. -/
def TexRec.chans (r : TexRec) : Nat := if r.fmt == 2 then 2 else if r.fmt == 3 then 1 else 4

/-- num / den as a value, with a sticky bit below any rounding. -/
def ratVal (num den : Nat) : Val :=
  .num false (2 * (num * 2 ^ 160 / den) + boolNat (num * 2 ^ 160 % den != 0)) (-161)

def f32Of (v : Val) : Nat := (roundFP .f32 .rne 0 v).1

/-- a · x + b, rounded once to FP32. -/
def f32Fma (a : Val) (x b : Nat) : Nat := f32Of (fmaVal .rne a (Fmt.f32.read false x) (Fmt.f32.read false b)).1

/-- A channel of a float texel in FP32. -/
def TexRec.chanF (r : TexRec) (c x : Nat) : Nat :=
  if r.fmt == 3 then x % 2 ^ 32 else f32Of (Fmt.f16.read false (x / 2 ^ (16 * c) % 2 ^ 16))

/-- One filtered channel in FP32 (R335, R336). -/
def TexRec.filter (r : TexRec) (tri : Bool) (fl : Nat) (l0 l1 : List (Nat × Nat)) (c : Nat) : Nat :=
  if r.fmt == 0 then
    let sum (l : List (Nat × Nat)) : Nat := (l.map fun x => x.1 * (x.2 / 2 ^ (8 * c) % 256)).sum
    if tri then f32Of (ratVal ((256 - fl) * sum l0 + fl * sum l1) (255 * 2 ^ 24)) else f32Of (ratVal (sum l0) (255 * 2 ^ 16))
  else
    let q (l : List (Nat × Nat)) : Nat := l.foldl (fun q x => f32Fma (.num false x.1 (-16)) (r.chanF c x.2) q) 0
    if !tri then q l0
    else
      let o := f32Of (mulVal (.num false (256 - fl) (-8)) (Fmt.f32.read false (q l0))).1
      if fl == 0 then o else f32Fma (.num false fl (-8)) (q l1) o

/-- The four channels delivered (R337). -/
def TexRec.deliver (r : TexRec) (f : Nat → Nat) : List Nat :=
  match r.fmt with
  | 2 => [f 0, f 1, 0, 0x3F800000]
  | 3 => [f 0, 0, 0, 0x3F800000]
  | _ => [f 0, f 1, f 2, f 3]

/-- A thread's TEXS: four channels, and what it met. -/
def TexRec.texs (r : TexRec) (look : Look) (tri : Bool) (x : FilterArg) : List Nat × Seen :=
  let (m, fl) := r.level tri x.c
  let (l0, s0) := r.sampleLevel look true x.a x.b m
  let (l1, s1) := if fl == 0 then ([], Seen.none) else r.sampleLevel look true x.a x.b (m + 1)
  (r.deliver (r.filter tri fl l0 l1), s0.and s1)

/-- A thread's RESQ. -/
def TexRec.resqSeen (r : TexRec) (look : Look) (tri : Bool) (x : FilterArg) : Seen :=
  let (m, fl) := r.level tri x.c
  let s0 := (r.sampleLevel look false x.a x.b m).2
  if fl == 0 then s0 else s0.and (r.sampleLevel look false x.a x.b (m + 1)).2

/-! Hash grids (R340 to R342, 04 R119). -/

/-- F on an axis. -/
def gridPos (n : Nat) (x : W32) : Nat :=
  (clampRound 0 ((n : Int) * 65536 - 1) (mulVal (coordVal x) (.num false n 16)).1).toNat

/-- The corners read: the weight in FP32 and the entry's index. -/
def GridLevel.corners (l : GridLevel) (x : FilterArg) : List (Nat × Nat) :=
  let n := l.res
  let f := [gridPos n x.a, gridPos n x.b, gridPos n x.c]
  let axis (i b : Nat) : Nat := if b == 1 then f.getD i 0 % 65536 else 65536 - f.getD i 0 % 65536
  (List.range 8).filterMap fun k =>
    let b := [k % 2, k / 2 % 2, k / 4]
    let wt := axis 0 (b.getD 0 0) * axis 1 (b.getD 1 0) * axis 2 (b.getD 2 0)
    if wt == 0 then none else
    let c (i : Nat) : Nat := f.getD i 0 / 65536 + b.getD i 0
    let ix := if (n + 1) ^ 3 ≤ 2 ^ l.log2t then c 0 + (n + 1) * (c 1 + (n + 1) * c 2)
      else ((c 0 ^^^ (c 1 * 0x5C4F2A3D % 2 ^ 32) ^^^ (c 2 * 0x3B7E91C5 % 2 ^ 32)) % 2 ^ 32) % 2 ^ l.log2t
    some (f32Of (.num false wt (-48)), ix)

/-- Feature n of an entry in FP32. -/
def GridRec.feature (r : GridRec) (l : GridLevel) (x n : Nat) : Nat :=
  if r.nf ≤ n then 0
  else if !r.e8 then f32Of (Fmt.f16.read false (x / 2 ^ (16 * n) % 2 ^ 16))
  else if l.scale == 255 then Fmt.f32.canonNaN
  else f32Of ((decodePoint 2 x l.scale 8).getD n .zero)

/-- A thread's level: four registers of two FP16 features, and what it met. -/
def GridRec.hgl (r : GridRec) (look : Look) (l : GridLevel) (x : FilterArg) : List Nat × Seen :=
  let es := (l.corners x).map fun c =>
    let a := r.base + l.off + r.entry * c.2
    match look a r.entry with
    | some (y, pas) => (c.1, some y, { Seen.none with pas := pas })
    | none => (c.1, none, { Seen.none with holes := [a] })
  let feat (n : Nat) : Nat :=
    let acc := es.foldl (fun q e => f32Fma (Fmt.f32.read false e.1) (match e.2.1 with | some y => r.feature l y n | none => 0) q) 0
    (roundFP .f16 .rne 0 (Fmt.f32.read false acc)).1
  ((List.range 4).map fun j => feat (2 * j) + 2 ^ 16 * feat (2 * j + 1), Seen.all (es.map (·.2.2)))

/-! Checks at issue (R347). -/

/-- What the checks give: a trap, a fault record, or the result. -/
abbrev Checked (α : Type) := Except Denied α

def ftrap {α : Type} (cls a : Nat) : Checked α := .error (.trap (trapAddr cls a))

/-- The bytes of a record load; traps, and a fault that becomes PAGE, name the record address. -/
def State.recLoad (s : State) (re : Reach) (ra a n : Nat) : Checked (List Byte) :=
  match s.check re .g .load [{ tid := 0, ea := a, len := n, align := 1 }] with
  | .error (.trap x) => .error (.trap { x with addr := BitVec.ofNat 64 ra })
  | .error (.fault k va _) => .error (.fault k va ra)
  | .ok ((_, .here keys) :: _) => .ok (keys.map s.readKey)
  | .ok _ => ftrap clsPROT ra

/-- Checks 1 to 3 of the header. -/
def State.recHead (s : State) (re : Reach) (ra : Nat) : Checked (List Byte) :=
  if ra % 64 != 0 then ftrap clsALIGN ra
  else if 2 ^ 48 < ra + 64 then ftrap clsPROT ra
  else s.recLoad re ra ra 64

/-- Checks 6 and 7: the footprint's window. -/
def State.footprint (s : State) (cx : CtxId) (base : Nat) (l : List (Nat × Nat)) : Checked Window :=
  match s.windowOf cx l with
  | none => .error (.fault kindNoWindow base base)
  | some w =>
    if !s.engPages cx l then .error (.fault kindNoWindow base base)
    else if s.windowCmp cx w then ftrap clsPROT base else .ok w

def State.texRecord (s : State) (re : Reach) (ra : Nat) : Checked (TexRec × Window) :=
  match s.recHead re ra with
  | .error e => .error e
  | .ok bs => match parseTex bs with
    | none => ftrap clsPROT ra
    | some r => (s.footprint re.cx r.base r.ranges).map fun w => (r, w)

/-- The grid record and its levels, for COUNT levels from FIRST. -/
def State.gridRecord (s : State) (re : Reach) (ra first count : Nat) : Checked (GridRec × Window) :=
  match s.recHead re ra with
  | .error e => .error e
  | .ok bs => match parseGrid bs with
    | none => ftrap clsPROT ra
    | some (r, nl) => match s.recLoad re ra (ra + 64) (16 * nl) with
      | .error e => .error e
      | .ok es =>
        let ls := (List.range nl).filterMap fun i => parseLevel r ((es.drop (16 * i)).take 16)
        if ls.length != nl then ftrap clsPROT ra
        else if nl < first + count then ftrap clsPROT ra
        else
          let r := { r with levels := ls }
          (s.footprint re.cx r.base [(r.base, r.size)]).map fun w => (r, w)

/-! Issue (R344 to R346, R348). -/

/-- A request enters the engine of the window's stack; its steps are one a wafer, for each of `levels` levels. -/
def sendFilter (o : Op) (w : Ins) (s : State) (si : Site) (e : TMask) (cx : CtxId) (win : Window) (work : FilterWork) (levels : Nat) :
    Issue :=
  let ts := threadsOf si.team.threads e
  let reg (i t : Nat) : W32 := match w.b with
    | .v b => si.team.vreg t (b + i)
    | _ => 0
  let wafers : List Nat := (ts.map fun t => t / 32).dedup
  let (id, s) := s.newId
  let q : FilterReq :=
    { cx := cx, stack := win.stack, core := si.core, slot := si.slot, work := work
      args := ts.map fun t => { tid := t, a := reg 0 t, b := reg 1 t, c := reg 2 t }
      d := match w.d with | .v d => d | _ => 0
      pred := match w.c with | .p n => some n | _ => none
      wm := si.team.writeMask w, zero := w.zero
      steps := (List.range levels).flatMap fun l => wafers.map fun f => (f, l)
      ws := [], hole := none, late := false, began := s.ns }
  .done ({ s with filters := s.filters.set id q }.onTeam si fun t => t.enqueue
    { id := id, flag := si.flagOf w, work := .filter, dst := dstCodes o w t.threads })

/-- The checks of an instruction, then its request. -/
def issueFilter (o : Op) (w : Ins) (s : State) (check : State → Reach → Nat → Checked (FilterWork × Window)) (levels : Nat) :
    Outcome State Fault Refusal :=
  issueTeam o w s fun si e =>
    match s.reachOf si.team with
    | none => .hold
    | some re =>
      let s' := s.drainTeam si.core si.slot
      match check s' re (s.uni64 si w.a) with
      | .error (.trap x) => .trap x
      | .error (.fault k va addr) => .fault k (if k == kindNoWindow then 5 else 1) va addr
      | .ok (work, win) => sendFilter o w s' si e re.cx win work levels

def execTexs (w : Ins) (s : State) : Outcome State Fault Refusal :=
  issueFilter .texs w s (fun s re ra => (s.texRecord re ra).map fun x => (.texs x.1 (w.mb 51) (2 ^ w.m 50 49), x.2)) 1

def execHgl (w : Ins) (s : State) : Outcome State Fault Refusal :=
  let first := w.m 52 49
  let count := w.m 56 53 + 1
  issueFilter .hgl w s (fun s re ra => (s.gridRecord re ra first count).map fun x => (.hgl x.1 first, x.2)) count

def execResq (w : Ins) (s : State) : Outcome State Fault Refusal :=
  issueFilter .resq w s (fun s re ra => (s.texRecord re ra).map fun x => (.resq x.1 (w.mb 51) (w.mb 52), x.2)) 1

/-! Steps (R338, R348, R349). -/

/-- A thread's results as register writes under the write mask and policy. -/
def FilterReq.writes (q : FilterReq) (t r : Nat) (xs : List Nat) : List RegWrite :=
  if q.wm.getLsbD t then (xs.zipIdx).map fun x => .v t (r + x.2) (BitVec.ofNat 32 x.1)
  else if q.zero then (xs.zipIdx).map fun x => .v t (r + x.2) 0
  else []

/-- A thread's predicate pair. -/
def FilterReq.predWrites (q : FilterReq) (t : Nat) (b : Bool) : List RegWrite :=
  match q.pred with
  | none => []
  | some n =>
    if q.wm.getLsbD t then [.p t n b, .p t (n + 1) (!b)] else if q.zero then [.p t n false, .p t (n + 1) false] else []

/-- One thread's part of a step: its writes, what it met, and the tiles it marks. -/
def State.filterThread (s : State) (q : FilterReq) (level : Nat) (x : FilterArg) : List RegWrite × Seen × List Nat :=
  let look := s.engLook q.cx q.got x.tid
  match q.work with
  | .texs r tri n =>
    let (cs, seen) := r.texs look tri x
    (q.writes x.tid q.d (cs.take n) ++ q.predWrites x.tid seen.miss.isEmpty, seen, seen.miss)
  | .resq r tri mark =>
    let seen := r.resqSeen look tri x
    let low := seen.miss.foldl min 0xFFFFFFFF
    (q.writes x.tid q.d [boolNat seen.miss.isEmpty, low] ++ q.predWrites x.tid seen.miss.isEmpty, seen,
      if mark then seen.miss else [])
  | .hgl r first =>
    match r.levels[first + level]? with
    | some l =>
      let (xs, seen) := r.hgl look l x
      (q.writes x.tid (q.d + 4 * level) xs, seen, [])
    | none => ([], .none, [])

/-- The physical address of a tile's byte in the feedback bitmap. -/
def State.feedbackPA (s : State) (q : FilterReq) (j : Nat) : Option Nat :=
  let fb := match q.work with
    | .texs r _ _ | .resq r _ _ => r.fbmap
    | .hgl .. => 0
  match s.translate q.cx (fb + j / 8) with
  | .ok l => some l.pa
  | .error _ => none

/-- Sets a tile's feedback bit: one atomic OR of a byte at its memory controller. -/
def State.setFeedback (s : State) (q : FilterReq) (j : Nat) : State :=
  match s.feedbackPA q j with
  | some pa => { s.writeDram pa [s.mem.read pa ||| BitVec.ofNat 8 (2 ^ (j % 8))] with lines := s.lines.erase (pa / 64) }
  | none => s

/-- The lower of two holes. -/
def lowerHole (h : Option Nat) (l : List Nat) : Option Nat :=
  l.foldl (fun m a => some (match m with | some b => min a b | none => a)) h

/-- Results of the threads of a step, joined. -/
def joinStep (l : List (List RegWrite × Seen × List Nat)) : List RegWrite × Seen × List Nat :=
  (l.flatMap (·.1), Seen.all (l.map (·.2.1)), l.flatMap (·.2.2))

/-- The sizes of what a request reads at an address. -/
def FilterWork.reads (w : FilterWork) (va n : Nat) : Bool :=
  let inside (l : List (Nat × Nat)) : Bool := l.any fun x => x.1 ≤ va && va + n ≤ x.1 + x.2
  match w with
  | .texs r _ _ | .resq r _ _ => (n == r.texel || n == 1) && inside r.ranges
  | .hgl r _ => n == r.entry && inside [(r.base, r.size)]

/-- The request's fetches follow every access that its team made before: those take their place now. None while one of them waits
for a channel in bank mode, whose queue it then enters. -/
def State.afterEarlier (s : State) (id : Nat) (q : FilterReq) (f : State → Option State) : Option State :=
  match s.team? q.core q.slot with
  | some t =>
    if s.stuck (pendsTo id t.pend) then s.deferPend (.team q.core q.slot) t.pend else
    let (s, ps) := s.performTo q.core q.cx.vd id t.pend
    f (s.updTeam q.core q.slot fun t => { t with pend := ps })
  | none => none

/-- One fetch of a request: what a thread reads of an address, before the step that uses it ends (R350). -/
def State.filterFetch (s : State) (id : Nat) (q : FilterReq) (tid va n : Nat) : Option State :=
  if q.work.reads va n && !(q.got.any fun g => g.tid == tid && g.va == va && g.n == n) then
    s.afterEarlier id q fun s =>
      let x := s.engLook q.cx [] tid va n
      s.gate (.work id) ((x.map (·.2)).getD [] |>.map chanOf) fun s =>
        some { s with filters := s.filters.set id { q with
          got := q.got ++ [{ tid := tid, va := va, n := n, x := x.map (·.1) }] } }
  else none

/-- One packet at one level, the n-th of those left: the engine orders the steps of a request as it likes. -/
def State.filterStep (s : State) (id : Nat) (q : FilterReq) (n : Nat) : Option State :=
  match q.steps[n]? with
  | some (wf, level) =>
    s.afterEarlier id q fun s =>
      let (ws, seen, marks) := joinStep ((q.args.filter fun x => x.tid / 32 == wf).map (s.filterThread q level))
      s.gate (.work id) ((seen.pas ++ marks.filterMap (s.feedbackPA q)).map chanOf) fun s =>
        let s := marks.foldl (fun s j => s.setFeedback q j) s
        some { s with filters := s.filters.set id { q with
          steps := q.steps.eraseIdx n
          ws := q.ws ++ ws
          hole := lowerHole q.hole seen.holes } }
  | none => none

/-- A step of a request ends, or one of its fetches is made. -/
def execFilterStep (stack : Nat) (act : FilterAct) (s : State) : Outcome State Fault Refusal :=
  enabled s <| match s.filters.get? act.req with
    | some q =>
      if q.stack != stack then none
      else match act.fetch with
        | some (tid, va, len) => s.filterFetch act.req q tid va len
        | none => s.filterStep act.req q act.n
    | none => none

/-- The last step of a request has ended: a record for its holes is posted, and then its results are on their way to the
registers. -/
def execFilterRequestDone (stack req : Nat) (s : State) : Outcome State Fault Refusal :=
  enabled s <| match s.filters.get? req with
    | some q =>
      if q.stack != stack || !q.steps.isEmpty || (q.hole.isSome && !s.postsNow q.core q.cx 4 stack) then none else
      let s := { s with filters := s.filters.erase req }
      let s := match q.hole with
        | some a => s.postEvent q.core q.cx { tag := BitVec.ofNat 64 a, src := 4, status := 2, unit := stack
                                              detail := BitVec.ofNat 32 (2 ^ 8 * q.slot + 1) }
        | none => s
      some (s.updTeam q.core q.slot fun t => { t with pend := t.pend.map fun p =>
        if p.id == req then { p with work := .results q.ws 0 } else p })
    | none => none

/-- The requests of a killed team stop; their results are discarded (R351). -/
def State.dropFilters (s : State) (core slot : Nat) : State :=
  { s with filters := s.filters.filter fun x => !(x.2.core == core && x.2.slot == slot) }

end Sys2Proof.Machine
end

