-- ==== Sys2Proof/Machine/Tables.lean ====
section
/-! DEFINITION. Page tables as Renweaz keeps them: their entries and leaves, and what it may write into them (02 R46 to R50; 03 R67;
12 R328, R329). -/

namespace Sys2Proof.Machine

open Sys2Proof Host

/-- A leaf entry with its level, and the physical address of the entry. -/
def leafWhere (s : State) (va : Nat) : Nat → List Level → Nat → Option (Nat × Nat × Nat)
  | _, [], _ => none
  | i, l :: ls, table =>
    let at' := table + 8 * bits va (l.shift + l.width - 1) l.shift
    let e := s.readPA at' 8
    if !bitAt e 0 || pteBad l e then none
    else if bitAt e 1 then some (i, e, at')
    else leafWhere s va (i + 1) ls (pteAddr e)

def State.leafWhere? (s : State) (cx : CtxId) (va : Nat) : Option (Nat × Nat × Nat) :=
  (s.ctx? cx).bind fun c => leafWhere s va 0 levels c.root

/-- Bytes that a leaf of a level maps. -/
def leafBytes (level : Nat) : Nat := match levels[level]? with
  | some l => l.page
  | none => 0

/-- The entries of a page table that are not zero. -/
def State.entriesAt (s : State) (table n : Nat) : List Nat :=
  ((s.mem.filterMap fun x => if table ≤ x.1 && x.1 < table + 8 * n then some ((x.1 - table) / 8) else none).dedup).map fun i =>
    s.readPA (table + 8 * i) 8

/-- The leaves below a page table: each entry, with the bytes it maps. -/
def State.leavesBelow (s : State) : List Level → Nat → List (Nat × Nat)
  | [], _ => []
  | l :: ls, table => ((s.entriesAt table (2 ^ l.width)).filter fun e => bitAt e 0 && !pteBad l e).flatMap fun e =>
    if bitAt e 1 then [(e, l.page)] else State.leavesBelow s ls (pteAddr e)

/-- A partition owns the pseudo-channel group of a physical address. -/
def Part.ownsPA (p : Part) (pa : Nat) : Bool := p.groups.contains (8 * stackOf pa + groupOf pa)

/-- The 64 KiB pages of a window. -/
def windowPages (base len : Nat) : List Nat := (List.range (len / 65536)).map fun i => base + 65536 * i

/-- Where the window that a filter request reads lies: its texture or grid. -/
def FilterWork.at (w : FilterWork) : Nat :=
  match w with
  | .texs r _ _ => r.base
  | .resq r _ _ => r.base
  | .hgl r _ => r.base

/-- Filter requests that have passed their issue checks read a window. -/
def State.windowRead (s : State) (cx : CtxId) (w : Window) : Bool :=
  s.filters.any fun x => x.2.cx == cx && w.base ≤ x.2.work.at && x.2.work.at < w.base + w.len

/-- A filter request that has passed its issue checks reads a window that meets a virtual range (12 R329). -/
def State.filterReads (s : State) (cx : CtxId) (base len : Nat) : Bool :=
  (s.ctx? cx).any fun c => c.windows.any fun w => w.base < base + len && base < w.base + w.len && s.windowRead cx w

/-- Memory of a pseudo-channel group that lies below its mode store (15 R410). -/
def belowModes (pa len : Nat) : Bool := pa % 2 ^ 33 + len ≤ 0x1FE000000

/-- The tables of a context keep the rules: every leaf lies in its partition's groups or in a sealed region (03 R67), none on a
mode store (15 R410), and every mapped page of a window has E = 1 and lies on the window's stack (12 R328). -/
def State.tablesGood (s : State) (cx : CtxId) (c : Ctx) : Bool :=
  (s.parts.get? (s.partOf cx)).any fun p =>
    ((s.leavesBelow levels c.root).all fun y =>
      (p.ownsPA (pteAddr y.1) || s.sealedPA (pteAddr y.1)) && belowModes (pteAddr y.1) y.2) &&
    c.windows.all fun w => (windowPages w.base w.len).all fun va => match s.leafWhere? cx va with
      | some x => bitAt x.2.1 4 && stackOf (pteAddr x.2.1) == w.stack && p.ownsPA (pteAddr x.2.1)
      | none => true

/-- Page-table words that Renweaz writes. -/
def State.writePtes (s : State) (ptes : List (Nat × Nat)) : State := ptes.foldl (fun s x => s.writePA x.1 8 x.2) s

/-- A window that a filter request reads gets CMP by these words. -/
def State.cmpComes (s s' : State) : Bool :=
  s.ctxs.any fun x => x.2.windows.any fun w =>
    let cx : CtxId := ⟨x.1 / 64, x.1 % 64⟩
    s.windowRead cx w && !s.windowCmp cx w && s'.windowCmp cx w

/-- Renweaz maps memory as the rules of partitions and windows allow; an update that sets CMP waits for the filter requests on its
window (12 R329). What the TLBs hold stays until an invalidation (02 R48). -/
def State.remap (s : State) (ptes : List (Nat × Nat)) : Option State :=
  let s' := s.writePtes ptes
  if (s'.ctxs.all fun x => s'.tablesGood ⟨x.1 / 64, x.1 % 64⟩ x.2) && !s.cmpComes s' then some s' else none

end Sys2Proof.Machine
end

