-- ==== Sys2Proof/Machine/Visit.lean ====
section
/-! DEFINITION. One visit of a ray to a treelet: nodes, leaf blocks, the box test and the triangle test, decided exactly
(13 R356 to R362, R376). -/

namespace Sys2Proof.Machine

open Sys2Proof

/-! Exact fractions. -/

/-- n / d with d positive. -/
structure Frac where
  n : Int
  d : Nat
  deriving DecidableEq, Repr

def fracOf (v : Val) : Frac := { n := v.mant * (pow2 v.exp : Nat), d := pow2 (-v.exp) }

def Frac.le (a b : Frac) : Bool := a.n * b.d ≤ b.n * a.d

def Frac.lt (a b : Frac) : Bool := a.n * b.d < b.n * a.d

def Frac.max (a b : Frac) : Frac := if a.le b then b else a

def Frac.min (a b : Frac) : Frac := if a.le b then a else b

def Frac.sub (a b : Frac) : Frac := { n := a.n * b.d - b.n * a.d, d := a.d * b.d }

/-- a / b for b not 0. -/
def Frac.div (a b : Frac) : Frac :=
  if b.n < 0 then { n := -(a.n * b.d), d := a.d * b.n.natAbs } else { n := a.n * b.d, d := a.d * b.n.natAbs }

/-- RoundFP(x, FP32, RNE). -/
def Frac.round (x : Frac) : W32 :=
  let k := Nat.log2 x.d + 100
  let m := x.n.natAbs * 2 ^ k
  BitVec.ofNat 32 (f32Of (.num (decide (x.n < 0)) (2 * (m / x.d) + boolNat (m % x.d != 0)) (-(k : Int) - 1)))

def w32Val (x : W32) : Val := Fmt.f32.read false x.toNat

/-- a > b as FP32 values. -/
def f32Gt (a b : W32) : Bool := cmpVal (w32Val a) (w32Val b) == .gt

def f32Lt (a b : W32) : Bool := cmpVal (w32Val a) (w32Val b) == .lt

def f32Finite (x : W32) : Bool := !(w32Val x).isNaN && !(w32Val x).isInf

/-! Reading (R360, R369, R376). -/

/-- The bytes at an address, with the physical addresses read; the first address in a hole where there is one. -/
def State.engBytes (s : State) (cx : CtxId) (va n : Nat) : Except Nat (List Byte × List Nat) :=
  match s.span cx va n false with
  | .error (_, a) => .error a
  | .ok _ => match s.leaves cx va n with
    | .ok (l, l') =>
      let first := min n (65536 - va % 65536)
      .ok (s.dram l.pa first ++ s.dram (l'.pa + 1 - (n - first)) (n - first), [l.pa, l'.pa])
    | .error _ => .error va

/-- Bytes at an offset of a list, as a number. -/
def field (bs : List Byte) (i n : Nat) : Nat := leNat ((bs.drop i).take n)

def word32 (bs : List Byte) (i : Nat) : W32 := BitVec.ofNat 32 (field bs i 4)

/-! Nodes (R356, R357). -/

/-- The kind of child c and its reference. -/
def nodeKind (bs : List Byte) (c : Nat) : Nat := bits (field bs 16 2) (2 * c + 1) (2 * c)

def nodeChild (bs : List Byte) (c : Nat) : Nat := field bs (24 + 4 * c) 4

def nodePresent (bs : List Byte) (c : Nat) : Bool := bitAt (field bs 15 1) c

/-- qlo and qhi of child c on axis a. -/
def nodeQ (bs : List Byte) (c a : Nat) : Nat × Nat := (field bs (56 + 6 * c + a) 1, field bs (59 + 6 * c + a) 1)

/-- A present child is well formed in a treelet of this size. -/
def childOk (bs : List Byte) (size c : Nat) : Bool :=
  let r := nodeChild bs c
  ((List.range 3).all fun a => (nodeQ bs c a).1 ≤ (nodeQ bs c a).2) &&
  match nodeKind bs c with
  | 0 => r < 2 ^ 11 && 128 * (r + 1) ≤ size
  | 1 => bits r 15 14 == 0 && r < 2 ^ 20 && 16 * bits r 13 0 + 48 * (bits r 19 16 + 1) ≤ size
  | 2 => r < 2 ^ 16
  | _ => false

def nodeOk (bs : List Byte) (size : Nat) : Bool :=
  ((List.range 3).all fun a => f32Finite (word32 bs (4 * a)) && field bs (12 + a) 1 != 255) &&
  field bs 18 6 == 0 && field bs 104 24 == 0 && (List.range 8).all fun c => !nodePresent bs c || childOk bs size c

/-- A bound of child c on axis a: ORIG + q · 2^(E − 127). -/
def nodeBound (bs : List Byte) (a q : Nat) : Frac :=
  fracOf (sumVals .rne [w32Val (word32 bs (4 * a)), .num false q ((field bs (12 + a) 1 : Int) - 127)]).1

/-! The box test (R361). -/

/-- The interval that an axis admits: none where it admits no t; no bounds where it admits every t. -/
def axisAdmits (o d : W32) (lo hi : Frac) : Option (Option (Frac × Frac)) :=
  let o := fracOf (w32Val o)
  let d := fracOf (w32Val d)
  if d.n == 0 then (if lo.le o && o.le hi then some none else none)
  else
    let a := (lo.sub o).div d
    let b := (hi.sub o).div d
    some (some (a.min b, a.max b))

/-- The enter time of a child's box, where the ray enters it. -/
def Ray.enters (r : Ray) (bs : List Byte) (c : Nat) : Option Frac :=
  let axes := (List.range 3).map fun a =>
    let q := nodeQ bs c a
    axisAdmits (r.org.getD a 0) (r.dir.getD a 0) (nodeBound bs a q.1) (nodeBound bs a q.2)
  if axes.any Option.isNone then none else
  let l := axes.filterMap fun x => x.bind id
  let e := l.foldl (fun m x => m.max x.1) (fracOf (w32Val r.tmin))
  if (l.all fun x => e.le x.2) && !f32Gt e.round r.tmax then some e else none

/-- Present children that the ray enters, farthest first; on a tie the higher index first. -/
def Ray.children (r : Ray) (bs : List Byte) : List (Nat × Frac) :=
  (((List.range 8).filter (nodePresent bs)).filterMap fun c => (r.enters bs c).map fun e => (c, e)).insertionSort fun x y =>
    y.2.lt x.2 || (y.2.le x.2 && y.1 ≤ x.1)

/-! The triangle test (R358, R362). -/

def triOk (bs : List Byte) : Bool :=
  ((List.range 9).all fun i => f32Finite (word32 bs (4 * i))) && field bs 36 4 != 2 ^ 32 - 1 && field bs 41 1 < 2 &&
  field bs 42 6 == 0

/-- A value as an integer over 2^e. -/
def overExp (e : Int) (v : Val) : Int := v.mant * (pow2 (v.exp - e) : Nat)

abbrev Vec := Int × Int × Int

def Vec.sub (a b : Vec) : Vec := (a.1 - b.1, a.2.1 - b.2.1, a.2.2 - b.2.2)

/-- The determinant of three columns. -/
def det3 (a b c : Vec) : Int :=
  a.1 * (b.2.1 * c.2.2 - b.2.2 * c.2.1) - a.2.1 * (b.1 * c.2.2 - b.2.2 * c.1) + a.2.2 * (b.1 * c.2.1 - b.2.1 * c.1)

/-- t, u and v of the ray and a triangle, over one positive denominator. -/
def Ray.solve (r : Ray) (bs : List Byte) : Option (Int × Int × Int × Nat) :=
  let vs := (List.range 9).map fun i => w32Val (word32 bs (4 * i))
  let all := vs ++ r.org.map w32Val ++ r.dir.map w32Val
  let e : Int := all.foldl (fun m v => min m v.exp) 0
  let vec (l : List Val) (i : Nat) : Vec :=
    (overExp e (l.getD i .zero), overExp e (l.getD (i + 1) .zero), overExp e (l.getD (i + 2) .zero))
  let v0 := vec vs 0
  let e1 := (vec vs 3).sub v0
  let e2 := (vec vs 6).sub v0
  let o := (vec (r.org.map w32Val) 0).sub v0
  let d := Vec.sub (0, 0, 0) (vec (r.dir.map w32Val) 0)
  let det := det3 d e1 e2
  let sg : Int := if det < 0 then -1 else 1
  if det == 0 then none else some (sg * det3 o e1 e2, sg * det3 d o e2, sg * det3 d e1 o, det.natAbs)

/-- A triangle that the ray strikes acceptably, as a candidate without handle, and whether it is OPAQUE. -/
def Ray.test (r : Ray) (bs : List Byte) : Option (Candidate × Bool) :=
  match r.solve bs with
  | none => none
  | some (t, u, v, d) =>
    let prim := word32 bs 36
    let tr := (Frac.mk t d).round
    if u < 0 || v < 0 || (d : Int) < u + v || (Frac.mk t d).lt (fracOf (w32Val r.tmin)) || r.mask &&& field bs 40 1 == 0 then none
    else if f32Lt tr r.tmax || (!f32Gt tr r.tmax && prim.toNat < (if r.hit then r.best.toNat else 2 ^ 32 - 1)) then
      some ({ handle := 0, t := tr, prim := prim, u := (Frac.mk u d).round, v := (Frac.mk v d).round }, bitAt (field bs 41 1) 0)
    else none

/-- Acceptance (R362, step 5). -/
def Ray.accept (r : Ray) (c : Candidate) : Ray := { r with tmax := c.t, best := c.prim, bu := c.u, bv := c.v, hit := true }

/-! The visit (R360). -/

/-- How a visit leaves its treelet, or stops. -/
inductive VisitEnd where
  /-- S is empty: the links found, in order. -/
  | links (l : List Nat)
  /-- The ray has ended by an acceptance. -/
  | hit
  /-- An error of R376: its STATUS, and the hole's address. -/
  | error (status addr : Nat)
  | candidate (v : Visit) (c : Candidate)

/-- What a visit leaves: the ray, its end, and the physical addresses read. -/
structure Visited where
  ray : Ray
  out : VisitEnd
  pas : List Nat

/-- The items that a node's children add to S, the nearest on top, and the links. -/
def nodeItems (base : Nat) (bs : List Byte) (h : List (Nat × Frac)) : List VisitItem × List Nat :=
  h.foldl (fun (x : List VisitItem × List Nat) c =>
    let r := nodeChild bs c.1
    match nodeKind bs c.1 with
    | 0 => ({ va := base + 128 * r, tris := none, t := c.2.round } :: x.1, x.2)
    | 1 => ({ va := base + 16 * bits r 13 0, tris := some (bits r 19 16 + 1), t := c.2.round } :: x.1, x.2)
    | _ => (x.1, x.2 ++ [r])) ([], [])

/-- A visit goes on until it ends or stops. A leaf block that has begun is not tested against TMAX again: its item enters at 0. -/
def State.visitGo (s : State) : Nat → Ray → Visit → List Nat → Visited
  | 0, r, _, pas => { ray := r, out := .error 2 0, pas := pas }
  | n + 1, r, v, pas =>
    match v.s with
    | [] => { ray := r, out := .links v.l, pas := pas }
    | x :: rest =>
      let v := { v with s := rest }
      if f32Gt x.t r.tmax then State.visitGo s n r v pas else
      match x.tris with
      | some 0 => State.visitGo s n r v pas
      | some (k + 1) =>
        let v := { v with s := { va := x.va + 48, tris := some k, t := 0 } :: rest }
        match s.engBytes r.cx x.va 48 with
        | .error a => { ray := r, out := .error 3 a, pas := pas }
        | .ok (bs, ps) =>
          if !triOk bs then { ray := r, out := .error 2 0, pas := ps ++ pas } else
          match r.test bs with
          | none => State.visitGo s n r v (ps ++ pas)
          | some (c, opaque') =>
            if opaque' || r.opq then
              if r.first then { ray := r.accept c, out := .hit, pas := ps ++ pas }
              else State.visitGo s n (r.accept c) v (ps ++ pas)
            else { ray := r, out := .candidate v c, pas := ps ++ pas }
      | none =>
        if 4096 ≤ v.reads then { ray := r, out := .error 2 0, pas := pas } else
        match s.engBytes r.cx x.va 128 with
        | .error a => { ray := r, out := .error 3 a, pas := pas }
        | .ok (bs, ps) =>
          if !nodeOk bs v.size then { ray := r, out := .error 2 0, pas := ps ++ pas } else
          let (items, links) := nodeItems v.base bs (r.children bs)
          if 64 < items.length + rest.length then { ray := r, out := .error 2 0, pas := ps ++ pas }
          else State.visitGo s n r { v with s := items ++ rest, l := v.l ++ links, reads := v.reads + 1 } (ps ++ pas)

/-- Enough rounds for 4,096 nodes of eight children with 16 triangles each. -/
def visitFuel : Nat := 600000

/-- A visit from its start: the root node, entered at TMIN. -/
def State.visit (s : State) (r : Ray) (base size : Nat) : Visited :=
  s.visitGo visitFuel r { base := base, size := size, s := [{ va := base, tris := none, t := r.tmin }], l := [], reads := 0 } []

/-- A visit goes on after a verdict (R365). -/
def State.resume (s : State) (r : Ray) (v : Visit) (c : Candidate) (verdict : Nat) : Visited :=
  match verdict with
  | 0 => s.visitGo visitFuel r v []
  | 1 => if r.first then { ray := r.accept c, out := .hit, pas := [] } else s.visitGo visitFuel (r.accept c) v []
  | _ => { ray := r.accept c, out := .hit, pas := [] }

end Sys2Proof.Machine
end

