-- ==== Sys2Proof/Machine/Traversal.lean ====
section
/-! DEFINITION. The traversal engines: treelet tables, RAYS, HITR, CANDV, the queues and rounds, hit records, TCLOSE, TLPUB and
TRSTAT (13 R352 to R355, R359, R363 to R385). -/

namespace Sys2Proof.Machine

open Sys2Proof Host

/-! Treelet tables (R352 to R354). -/

def tlStack (id : Nat) : Nat := id / 4096

def tlValid (id : Nat) : Bool := tlStack id < 12

def tlKey (cx : CtxId) (id : Nat) : Nat := 65536 * cxKey cx + id

def Treelet.init : Treelet := { st := .absent, base := 0, size := 0, version := 0, closers := [] }

def State.treelet (s : State) (cx : CtxId) (id : Nat) : Treelet := s.treelets.get Treelet.init (tlKey cx id)

def State.setTreelet (s : State) (cx : CtxId) (id : Nat) (t : Treelet) : State :=
  { s with treelets := s.treelets.put Treelet.init (tlKey cx id) t }

def TreeletState.code (x : TreeletState) : Nat :=
  match x with
  | .absent => 0
  | .opened => 1
  | .closing => 2
  | .proofing => 3

def State.setRay (s : State) (id : Nat) (r : Ray) : State := { s with rays := s.rays.set id r }

def State.dropRay (s : State) (id : Nat) : State := { s with rays := s.rays.erase id }

/-- The ray waits in the queue of its treelet. -/
def Ray.queued (r : Ray) : Bool :=
  match r.place with
  | .queued => true
  | _ => false

def Ray.parkedAt (r : Ray) (cx : CtxId) (id : Nat) : Bool :=
  r.cx == cx && r.treelet == id && match r.place with
    | .parked .. => true
    | _ => false

/-- QUEUED of an entry. -/
def State.queuedAt (s : State) (cx : CtxId) (id : Nat) : Nat :=
  (s.rays.filter fun x => x.2.cx == cx && x.2.treelet == id && x.2.queued).length

/-- A visit of the treelet is in progress: a ray is parked in it. -/
def State.visited (s : State) (cx : CtxId) (id : Nat) : Bool := s.rays.any fun x => x.2.parkedAt cx id

/-- Entries of a stack that are in use. -/
def State.tlUsed (s : State) (stack : Nat) : Nat :=
  (s.treelets.filter fun x => tlStack (x.1 % 65536) == stack && x.2.st != .absent).length

/-! Hit queues (R370, R371). -/

def Ray.flags (r : Ray) : Nat :=
  boolNat r.first + 2 * boolNat r.opq + 4 * boolNat r.held + 8 * boolNat r.trunc + 16 * boolNat r.hit

/-- A record's eight words. -/
def Ray.words (r : Ray) (kind status : Nat) (t prim u v handle : W32) : List W32 :=
  [r.rid, t, prim, u, v, handle, BitVec.ofNat 32 (2 ^ 16 * r.flags + 2 ^ 8 * status + kind), BitVec.ofNat 32 r.treelet]

def Ray.hitWords (r : Ray) : List W32 :=
  if r.hit then r.words 0 0 r.tmax r.best r.bu r.bv 0 else r.words 1 0 r.tmax0 0xFFFFFFFF 0 0 0

def Ray.errorWords (r : Ray) (status : Nat) : List W32 := r.words 3 status 0 0xFFFFFFFF 0 0 0

def Ray.candWords (r : Ray) (c : Candidate) : List W32 := r.words 2 0 c.t c.prim c.u c.v c.handle

/-- Posts what a ray has to post, where its team's hit queue has room: its final record, which ends it, or its candidate. -/
def State.postRay (s : State) (id : Nat) : State :=
  match s.rays.get? id with
  | none => s
  | some r => match s.teamRef r.gang r.index with
    | none => s.dropRay id
    | some t =>
      if 64 ≤ t.hits.length then s else
      match r.place with
      | .posting ws =>
        (s.dropRay id).updTeamRef r.gang r.index fun t => { t with hits := t.hits ++ [ws], rays := t.rays - 1 }
      | .parked v c false =>
        (s.setRay id { r with place := .parked v c true }).updTeamRef r.gang r.index fun t =>
          { t with hits := t.hits ++ [r.candWords c] }
      | _ => s

/-- A ray ends with this record. -/
def State.endRay (s : State) (id : Nat) (r : Ray) (ws : List W32) : State :=
  (s.setRay id { r with place := .posting ws }).postRay id

/-- A ray ends with an error; errors 3 and 5 also post an event record (R376). -/
def State.errorRay (s : State) (id : Nat) (r : Ray) (status addr : Nat) : State :=
  let stack := tlStack r.treelet
  let s := match status with
    | 3 => s.postEvent r.core r.cx { tag := BitVec.ofNat 64 addr, src := 5, status := 2, unit := stack
                                     detail := BitVec.ofNat 32 (2 ^ 8 * r.slot + 1) }
    | 5 => s.postFiring r.core r.cx { tag := r.rid.setWidth 64, src := 5, status := 4, unit := stack
                                      detail := BitVec.ofNat 32 (2 ^ 8 * r.slot + 1) }
    | _ => s
  s.endRay id r (r.errorWords status)

/-! Arrival and queues (R366, R375). -/

def State.rqlim (s : State) (stack vd : Nat) : Nat := bits (s.trqlim.get 0 (128 * stack + vd)).toNat 49 32

def State.raylim (s : State) (stack vd : Nat) : Nat := bits (s.trqlim.get 0 (128 * stack + vd)).toNat 23 0

/-- Rays in a stack's SRAM: those of a virtual device under its quota, and those in the reserve. A parked ray and one whose final
record waits keep their entries. -/
def State.sramRays (s : State) (stack vd : Nat) : Nat :=
  (s.rays.filter fun x => tlStack x.2.treelet == stack && x.2.cx.vd == vd && x.2.entry == .quota).length

def State.reserveRays (s : State) (stack : Nat) : Nat :=
  (s.rays.filter fun x => tlStack x.2.treelet == stack && x.2.entry == .reserve).length

/-- The entry that an arriving ray takes. -/
def State.queueEntry (s : State) (stack vd : Nat) (fwd : Bool) : RayEntry :=
  if s.sramRays stack vd < s.rqlim stack vd then .quota
  else if fwd && s.reserveRays stack < 4096 then .reserve
  else .spilled

/-- A ray arrives at the stack of its treelet; the entry that it held before is free. -/
def State.arrive (s : State) (id : Nat) (r : Ray) (fwd : Bool) : State :=
  let r := { r with entry := .none }
  let s := s.setRay id r
  if !tlValid r.treelet then s.errorRay id r 1 0 else
  match (s.treelet r.cx r.treelet).st with
  | .absent => s.errorRay id r 1 0
  | st =>
    let (n, s) := s.newId
    s.setRay id { r with
      place := .queued
      entry := s.queueEntry (tlStack r.treelet) r.cx.vd fwd
      age := 0
      arrival := n
      held := r.held || st != .opened }

def execRayArrive (ray : Nat) (s : State) : Outcome State Fault Refusal :=
  enabled s <| match s.rays.get? ray with
    | some r => match r.place with
      | .flying fwd => some (s.arrive ray r fwd)
      | _ => none
    | none => none

/-- The oldest of some rays by their arrival. -/
def oldestRay (l : List (Nat × Ray)) : Option (Nat × Ray) :=
  match l with
  | [] => none
  | x :: xs => some (xs.foldl (fun a b => if b.2.arrival < a.2.arrival then b else a) x)

/-- The oldest spilled ray of a virtual device returns to the SRAM. -/
def execSpillRefill (stack vd : Nat) (s : State) : Outcome State Fault Refusal :=
  enabled s <|
    if s.rqlim stack vd ≤ s.sramRays stack vd then none else
    (oldestRay (s.rays.filter fun x =>
        tlStack x.2.treelet == stack && x.2.cx.vd == vd && x.2.queued && x.2.entry == .spilled)).map fun x =>
      s.setRay x.1 { x.2 with entry := .quota }

/-! Rounds (R363, R365, R368). -/

/-- PEND after a visit's links: at most four, the bottom ones dropped. Listed from the top. -/
def Ray.push (r : Ray) (links : List Nat) : Ray :=
  let p := links.foldl (fun p x => x :: p) r.pend
  { r with pend := p.take 4, trunc := r.trunc || 4 < p.length }

/-- A handle that no earlier candidate of the team has had, and the state with it noted. -/
def State.freshHandle (s : State) (id : Nat) (r : Ray) : W32 × State :=
  let h := Config.freeNat (s.freeIx id)
  let used : List W32 := ((s.teamRef r.gang r.index).map fun (t : Team) => t.handed).getD []
  let i := ((List.range (used.length + 1)).find? fun (i : Nat) => !used.contains (BitVec.ofNat 32 (h + i))).getD 0
  let x := BitVec.ofNat 32 (h + i)
  (x, s.updTeamRef r.gang r.index fun t => { t with handed := x :: t.handed })

/-- What a visit's end does to its ray. -/
def State.leaveVisit (s : State) (id : Nat) (v : Visited) : State :=
  match v.out with
  | .hit => s.endRay id v.ray v.ray.hitWords
  | .error st a => s.errorRay id v.ray st a
  | .candidate w c =>
    let f := s.freshHandle id v.ray
    (f.2.setRay id { v.ray with place := .parked w { c with handle := f.1 } false }).postRay id
  | .links l =>
    let r := v.ray.push l
    match r.pend with
    | [] => s.endRay id r r.hitWords
    | t :: rest =>
      let r' := { r with treelet := t, pend := rest }
      if tlStack t == tlStack r.treelet then s.arrive id r' false else s.setRay id { r' with place := .flying true, entry := .none }

/-- The channels that a visit reads. -/
def Visited.chans (v : Visited) : List Nat := (v.pas.map chanOf).dedup

/-- A ray of a chosen treelet is visited, refilled first where it is spilled (log 78); it stays queued where the visit waits for a
channel in bank mode. -/
def State.visitRay (s : State) (id : Nat) (r : Ray) : State :=
  let t := s.treelet r.cx r.treelet
  let r := if r.entry == .spilled then { r with entry := .quota } else r
  let s := s.setRay id r
  let v := s.visit r t.base t.size
  (s.gate (.work id) v.chans fun s => some (s.leaveVisit id v)).getD s

/-- Rays that a virtual device has ready on a stack. -/
def State.readyRays (s : State) (stack vd : Nat) : List (Nat × Ray) :=
  s.rays.filter fun x => tlStack x.2.treelet == stack && x.2.cx.vd == vd && x.2.queued &&
    (s.treelet x.2.cx x.2.treelet).st == .opened

/-- The ready ray that has waited longest, among those of 8 rounds and more. -/
def starved (l : List (Nat × Ray)) : Option (Nat × Ray) :=
  match l.filter fun x => 8 ≤ x.2.age with
  | [] => none
  | x :: xs => some (xs.foldl (fun a b =>
      if a.2.age < b.2.age || (a.2.age == b.2.age && b.2.arrival < a.2.arrival) then b else a) x)

/-- The treelet with the most queued rays; ties go to the lowest id. -/
def fullest (l : List (Nat × Ray)) : Option (CtxId × Nat) :=
  let keys : List (CtxId × Nat) := (l.map fun x => (x.2.cx, x.2.treelet)).dedup
  let count (k : CtxId × Nat) : Nat := (l.filter fun x => (x.2.cx, x.2.treelet) == k).length
  match keys with
  | [] => none
  | x :: xs => some (xs.foldl (fun a b =>
      if count a < count b || (count a == count b && (b.2 < a.2 || (b.2 == a.2 && b.1.ctx < a.1.ctx))) then b else a) x)

/-- The treelet of a round. -/
def chooseTreelet (l : List (Nat × Ray)) : Option (CtxId × Nat) :=
  match starved l with
  | some x => some (x.2.cx, x.2.treelet)
  | none => fullest l

/-- A round: up to 64 rays of the chosen treelet are visited, oldest first; the other ready rays age. -/
def execTraversalRound (stack vd : Nat) (s : State) : Outcome State Fault Refusal :=
  enabled s <|
    let l := s.readyRays stack vd
    (chooseTreelet l).map fun k =>
      let mine := (l.filter fun x => (x.2.cx, x.2.treelet) == k).insertionSort fun a b => a.2.arrival ≤ b.2.arrival
      let taken := mine.take 64
      let s := l.foldl (fun s x => if taken.any fun y => y.1 == x.1 then s else s.setRay x.1 { x.2 with age := x.2.age + 1 }) s
      taken.foldl (fun s x => s.visitRay x.1 x.2) s

/-- The ray of a team that is parked on a candidate, by its handle. -/
def State.parkedRay (s : State) (gang index : Nat) (h : W32) : Option (Nat × Ray × Visit × Candidate) :=
  s.rays.findSome? fun x => if x.2.gang == gang && x.2.index == index then
      match x.2.place with
      | .parked v c true => if c.handle == h then some (x.1, x.2, v, c) else none
      | _ => none
    else none

/-- The next verdict of a team reaches its ray: a ray parked on another candidate, or none, takes no notice of it (R365). The team
may be saved: its parked rays go on (R385). -/
def execCandidateVerdict (gang index : Nat) (s : State) : Outcome State Fault Refusal :=
  enabled s <| match s.teamRef gang index with
    | some t => match t.verdicts with
      | (h, verdict) :: rest =>
        let taken (s : State) : State := s.updTeamRef gang index fun t => { t with verdicts := rest }
        match s.parkedRay gang index h with
        | some (id, r, v, c) =>
          let x := s.resume r v c verdict
          s.gate (.work id) x.chans fun s => some ((taken s).leaveVisit id x)
        | none => some (taken s)
      | [] => none
    | none => none

/-- A ray of the team waits for room in its hit queue. -/
def Ray.waitsPost (r : Ray) : Bool :=
  match r.place with
  | .posting _ => true
  | .parked _ _ posted => !posted
  | _ => false

/-- An engine posts a record that waited for room. -/
def execHitRecordPost (core slot : Nat) (s : State) : Outcome State Fault Refusal :=
  enabled s <| match s.team? core slot with
    | some t =>
      if 64 ≤ t.hits.length then none else
      (s.rays.find? fun x => x.2.gang == t.gang && x.2.index == t.index && x.2.waitsPost).map fun x => s.postRay x.1
    | none => none

/-! RAYS, HITR, CANDV (R378 to R380). -/

/-- One thread's ray. -/
def rayOf (s : State) (si : Site) (w : Ins) (cx : CtxId) (root t : Nat) : Ray :=
  let b := match w.b with
    | .v b => b
    | _ => 0
  let f (i : Nat) : W32 := si.team.vreg t (b + i)
  { cx := cx, gang := si.team.gang, index := si.team.index, core := si.core, slot := si.slot, epoch := si.team.epoch
    org := [f 0, f 1, f 2], dir := [f 3, f 4, f 5], tmin := f 6, tmax := f 7, tmax0 := f 7
    rid := match w.c with
      | .v c => si.team.vreg t c
      | _ => BitVec.ofNat 32 t
    best := 0xFFFFFFFF, bu := 0, bv := 0, treelet := root, pend := []
    mask := 255 - w.m 56 49, first := w.mb 57, opq := w.mb 58, held := false, trunc := false, hit := false
    age := 0, arrival := 0, began := s.ns, place := .flying false }

/-- A bad ray at issue. -/
def Ray.bad (r : Ray) : Bool :=
  let lo := w32Val r.tmin
  let hi := w32Val r.tmax
  !(r.org.all f32Finite) || !(r.dir.all f32Finite) || (r.dir.all fun x => (w32Val x).isZero) ||
  lo.isNaN || lo.isInf || (lo.neg && !lo.isZero) || hi.isNaN || cmpVal lo hi == .gt

/-- Sends rays in thread order; a bad one's record enters the hit queue. -/
def State.sendRays (s : State) (si : Site) : List Ray → State
  | [] => s
  | r :: rs =>
    let (id, s) := s.newId
    let s := s.onTeam si fun t => { t with rays := t.rays + 1 }
    State.sendRays (if r.bad then s.endRay id r (r.errorWords 6) else s.setRay id r) si rs

def execRays (w : Ins) (s : State) : Outcome State Fault Refusal :=
  issueTeam .rays w s fun si e =>
    let a := s.uni si w.a
    if 2 ^ 16 ≤ a || !tlValid a then .trap (.mk0 clsPROT)
    else match s.teamCx si.team with
      | none => .hold
      | some cx =>
        let rs := (threadsOf si.team.threads e).map (rayOf s si w cx a)
        let n := (rs.filter fun r => !r.bad).length
        if 0 < n && (4096 < si.team.rays + n ||
            s.raylim (tlStack a) cx.vd < (s.rays.filter fun x => x.2.cx.vd == cx.vd).length + n) then .block s .rays false
        else .done ((s.drainTeam si.core si.slot).sendRays si rs)

def execHitr (w : Ins) (s : State) : Outcome State Fault Refusal :=
  issueTeam .hitr w s fun si e =>
    match w.d with
    | .v d =>
      let (id, s) := s.newId
      .done (s.onTeam si fun t => t.enqueue
        { id := id, flag := si.flagOf w
          work := .hitr (threadsOf t.threads e) d (t.writeMask w) w.zero (w.mb 49), dst := dstCodes .hitr w t.threads })
    | _ => .done s

def execCandv (w : Ins) (s : State) : Outcome State Fault Refusal :=
  issueTeam .candv w s fun si e =>
    let ts := threadsOf si.team.threads e
    let vs := ts.map fun t => (BitVec.ofNat 32 (rd32 s si.core si.team t w.a), rd32 s si.core si.team t w.b)
    match vs.find? fun x => 2 < x.2 with
    | some x => .trap ⟨clsPROT, 0, BitVec.ofNat 64 x.2⟩
    | none => .done (s.onTeam si fun t => { t with verdicts := t.verdicts ++ vs })

/-! TCLOSE, TLPUB, TRSTAT (R354, R355, R372, R373, R381, R382). -/

/-- A record of a traversal command. -/
def State.tlRecord (s : State) (core : Nat) (cx : CtxId) (id status : Nat) (tag : W64) (detail : Nat) : State :=
  s.postEvent core cx { tag := tag, src := 5, status := status, unit := tlStack id, detail := BitVec.ofNat 32 detail }

/-- Rays that wait for a treelet are held. -/
def State.holdRays (s : State) (cx : CtxId) (id : Nat) : State :=
  { s with rays := s.rays.map fun x =>
      (x.1, if x.2.cx == cx && x.2.treelet == id && x.2.queued then { x.2 with held := true } else x.2) }

def State.tclose (s : State) (core : Nat) (cx : CtxId) (id : Nat) : State :=
  let t := s.treelet cx id
  let tag := BitVec.ofNat 64 id
  match t.st with
  | .absent => s.tlRecord core cx id 3 tag 1
  | .proofing => s.tlRecord core cx id 0 tag t.held
  | .closing => s.setTreelet cx id { t with closers := t.closers ++ [core] }
  | .opened =>
    let s := s.holdRays cx id
    if s.visited cx id then s.setTreelet cx id { t with st := .closing, closers := [core] }
    else (s.setTreelet cx id { t with st := .proofing, held := s.queuedAt cx id }).tlRecord core cx id 0 tag (s.queuedAt cx id)

/-- The limits of R355. -/
def State.tlRange (s : State) (cx : CtxId) (id base size : Nat) : Bool :=
  base % 128 == 0 && size % 128 == 0 && 128 ≤ size && size ≤ 262144 &&
  match s.windowOf cx [(base, size)] with
  | some w => w.stack == tlStack id && s.engPages cx [(base, size)]
  | none => false

/-- A publication: held rays become ready with their ages at 0. -/
def State.publish (s : State) (core : Nat) (cx : CtxId) (id base size : Nat) (t : Treelet) : State :=
  let s := s.setTreelet cx id { t with st := .opened, base := base, size := size, version := t.version + 1, held := 0 }
  let l : Tbl Ray := s.rays.map fun x =>
    (x.1, if x.2.cx == cx && x.2.treelet == id && x.2.queued then { x.2 with age := 0 } else x.2)
  { s with rays := l }.tlRecord core cx id 0 (BitVec.ofNat 64 id) (t.version + 1).toNat

/-- A retirement: held rays end with STATUS 1. -/
def State.retire (s : State) (core : Nat) (cx : CtxId) (id : Nat) (t : Treelet) : State :=
  let l := s.rays.filter fun x => x.2.cx == cx && x.2.treelet == id && x.2.queued
  let s := s.setTreelet cx id { t with st := .absent, base := 0, size := 0, held := 0 }
  (l.foldl (fun s x => s.errorRay x.1 x.2 1 0) s).tlRecord core cx id 0 (BitVec.ofNat 64 id) t.version.toNat

/-- TLPUB on an entry that is not CLOSING. -/
def State.tlpub (s : State) (core : Nat) (cx : CtxId) (id base size : Nat) : State :=
  let t := s.treelet cx id
  let refuse (r : Nat) : State := s.tlRecord core cx id 3 (BitVec.ofNat 64 id) r
  match t.st with
  | .opened | .closing => refuse 2
  | .absent =>
    if size == 0 then refuse 1
    else if !s.tlRange cx id base size then refuse 3
    else if 16384 ≤ s.tlUsed (tlStack id) then refuse 4
    else s.publish core cx id base size t
  | .proofing =>
    if size == 0 then s.retire core cx id t
    else if !s.tlRange cx id base size then refuse 3
    else s.publish core cx id base size t

def State.trstat (s : State) (core : Nat) (cx : CtxId) (id : Nat) : State :=
  let t := s.treelet cx id
  s.tlRecord core cx id 0 (BitVec.ofNat 64 (2 ^ 48 * (t.version.toNat % 2 ^ 16) + t.base))
    (2 ^ 30 * t.st.code + min (s.queuedAt cx id) (2 ^ 24 - 1))

/-- The command must wait: a TLPUB for PROOFING, or any while the engine holds a record for the core (01 R29). -/
def State.tlWaits (s : State) (core : Nat) (c : TlCmd) : Bool :=
  (s.coreOf core).holdsFor 5 (tlStack c.id) || (c.kind == 1 && (s.treelet c.cx c.id).st == .closing)

def State.tlAct (s : State) (core : Nat) (c : TlCmd) : State :=
  match c.kind with
  | 0 => s.tclose core c.cx c.id
  | 1 => s.tlpub core c.cx c.id c.base c.size
  | _ => s.trstat core c.cx c.id

/-- Held commands of an issuer to an engine take effect in order, as far as they may. -/
def State.tlRun (s : State) (core stack : Nat) : Nat → State
  | 0 => s
  | n + 1 =>
    match s.tlq.get [] (16 * core + stack) with
    | c :: rest =>
      if s.tlWaits core c then s
      else State.tlRun ({ s with tlq := s.tlq.put [] (16 * core + stack) rest }.tlAct core c) core stack n
    | [] => s

def State.tlRunAll (s : State) (core stack : Nat) : State := s.tlRun core stack (s.tlq.get [] (16 * core + stack)).length

/-- A command of a control thread: at once, or behind those that wait. -/
def issueTreelet (o : Op) (w : Ins) (s : State) (kind : Nat) : Outcome State Fault Refusal :=
  issueCtl o w s fun si =>
    let id := rdK s si.core w.a
    if 2 ^ 16 ≤ id || !tlValid id then .trap ⟨clsPROT, 0, BitVec.ofNat 64 id⟩
    else
      let c : TlCmd := { cx := si.owner, kind := kind, id := id, base := rdK s si.core w.b, size := rdK s si.core w.c }
      let s := s.drainCtl si.core
      let k := 16 * si.core + tlStack id
      let s := { s with tlq := s.tlq.set k (s.tlq.get [] k ++ [c]) }
      .done (s.tlRunAll si.core (tlStack id))

def execTclose (w : Ins) (s : State) : Outcome State Fault Refusal := issueTreelet .tclose w s 0

def execTlpub (w : Ins) (s : State) : Outcome State Fault Refusal := issueTreelet .tlpub w s 1

def execTrstat (w : Ins) (s : State) : Outcome State Fault Refusal := issueTreelet .trstat w s 2

/-- The last visit in progress of a CLOSING treelet has ended: it is PROOFING, and the TCLOSEs that waited complete. -/
def execTreeletDrainDone (cx : CtxId) (treelet : Nat) (s : State) : Outcome State Fault Refusal :=
  enabled s <|
    let t := s.treelet cx treelet
    if t.st != .closing || s.visited cx treelet then none else
    let s := s.setTreelet cx treelet { t with st := .proofing, closers := [], held := s.queuedAt cx treelet }
    let s := t.closers.foldl (fun s c => s.tlRecord c cx treelet 0 (BitVec.ofNat 64 treelet) (s.queuedAt cx treelet)) s
    let keys : List Nat := s.tlq.map (·.1)
    some (keys.foldl (fun s k => if k % 16 == tlStack treelet then s.tlRunAll (k / 16) (k % 16) else s) s)

/-! Registers (R367). -/

/-- A write of TRRING and TRQLIM of a virtual device on a base die: refused as a whole through ARBERR.RATEREF. -/
def State.writeTrq (s : State) (stack vd : Nat) (ring qlim : Option W64) : Bool × State :=
  let k := 128 * stack + vd
  let r : W64 := ring.getD (s.trring.get 0 k) &&& 0x000000FFFFFFFFFF
  let q : W64 := qlim.getD (s.trqlim.get 0 k) &&& 0x0003FFFF00FFFFFF
  let others := ((s.trqlim.filter fun x => x.1 / 128 == stack && x.1 != k).map fun x => bits x.2.toNat 49 32).sum
  let rsize := bits r.toNat 15 0
  let raylim := bits q.toNat 23 0
  let outside := ring.isSome && bits r.toNat 39 36 != stack
  if 126976 < others + bits q.toNat 49 32 || rsize * 1024 < raylim || outside then
    let key : ArbKey := ⟨8, 3 * stack + 1⟩
    let a := s.arb key
    (false, s.setArb key { a with
      err := BitVec.ofNat 64 (2 ^ 12 * a.slotOf 8 vd) ||| (a.err &&& 0xF) ||| 1 })
  else (true, { s with trring := s.trring.set k r, trqlim := s.trqlim.set k q })

def rangesMeet (a n b m : Nat) : Bool := a < b + m && b < a + n

/-- No partition owns the group of a physical address. -/
def State.unowned (s : State) (pa : Nat) : Bool := !s.parts.any fun x => x.2.ownsPA pa

/-- A range of physical memory that exists, in groups that no partition owns. -/
def State.unownedRange (s : State) (base len : Nat) : Bool :=
  stackOf (base + len - 1) < 12 && base + len ≤ 2 ^ 40 &&
  (List.range ((base + len - 1) / 2 ^ 33 + 1 - base / 2 ^ 33)).all fun i => s.unowned ((base / 2 ^ 33 + i) * 2 ^ 33)

/-- A spill ring of a stack as a device may have it: 64 KiB aligned, in an unowned group of the stack, apart from the rings of other
devices (R367). -/
def State.ringFits (s : State) (stack vd base units : Nat) : Bool :=
  base % 65536 == 0 && units < 65536 && stackOf base == stack && stackOf (base + 65536 * units - 1) == stack &&
  s.unownedRange base (65536 * units) &&
  !s.trring.any fun x => x.1 / 128 == stack && x.1 % 128 != vd && bits x.2.toNat 15 0 != 0 &&
    rangesMeet (bits x.2.toNat 39 16 * 65536) (65536 * bits x.2.toNat 15 0) base (65536 * units)

/-- The ring that a TRRING value names fits; without a ring there is nothing to fit. -/
def State.ringWordFits (s : State) (stack vd : Nat) (ring : Option W64) : Bool :=
  ring.all fun r => bits r.toNat 15 0 == 0 || s.ringFits stack vd (bits r.toNat 39 16 * 65536) (bits r.toNat 15 0)

/-- Renweaz writes the registers on the terms of R367: it names no ring that does not fit. -/
def execTrqlimWrite (stack vd : Nat) (ring qlim : Option W64) (s : State) : Outcome State Fault Refusal :=
  enabled s <|
    if stack < 12 && vd < 128 && s.ringWordFits stack vd ring then some (s.writeTrq stack vd ring qlim).2 else none

end Sys2Proof.Machine
end

