-- ==== Sys2Proof/Machine/StackArith.lean ====
section
/-! DEFINITION. The stack arithmetic engines: banks and columns, commands and their refusals, reductions, all-bank mode, and
the deferred queue (14 R387 to R405). -/

namespace Sys2Proof.Machine

open Sys2Proof Host

/-! Addresses (R387, R390). -/

/-- The physical address of byte o of a channel of a stack. -/
def bankPA (stack pc o : Nat) : Nat :=
  stack * 2 ^ 36 + pc / 8 * 2 ^ 33 + bits o 29 6 * 2 ^ 9 + (pc % 8 ^^^ bits o 8 6) * 2 ^ 6 + bits o 5 0

/-- The physical address of a byte of a mapped window page: one with E = 1 (02 R50). -/
def State.windowPA (s : State) (cx : CtxId) (va : Nat) : Option Nat :=
  match s.windowOf cx [(va, 1)], s.translate cx va with
  | some _, .ok l => if l.engine then some l.pa else none
  | _, _ => none

/-- A channel address: its stack and channel. -/
def State.channelAt (s : State) (cx : CtxId) (va : Nat) : Option (Nat × Nat) :=
  (s.windowPA cx va).map fun pa => (stackOf pa, channelOf pa)

/-- An address in each page of a range. -/
def rangePages (va n : Nat) : List Nat :=
  (List.range ((va + n - 1) / 65536 + 1 - va / 65536)).map fun i => if i == 0 then va else (va / 65536 + i) * 65536

/-- Every byte of a range lies in a mapped window page. -/
def State.inWindows (s : State) (cx : CtxId) (va n : Nat) : Bool := (rangePages va n).all fun a => (s.windowPA cx a).isSome

/-- The stacks of a range's mapped pages. -/
def State.rangeStacks (s : State) (cx : CtxId) (va n : Nat) : List Nat :=
  (rangePages va n).filterMap fun a => match s.translate cx a with
    | .ok l => some (stackOf l.pa)
    | .error _ => none

/-! Commands (R388 to R391). -/

def StackWork.pc (x : StackWork) : Option Nat :=
  match x with
  | .sred _ => none
  | .bank pc | .svb pc _ _ | .smac pc _ _ _ _ _ _ | .sacc pc _ _ _ _ _ _ | .exit pc => some pc

/-- DETAIL [15:8] of a command's records. -/
def State.stackUnit (s : State) (x : StackWork) : Nat :=
  match x with
  | .sred op => match s.ops.get? op with
    | some o => match o.work with
      | .sred r => r.srcs.length
      | _ => 0
    | none => 0
  | x => x.pc.getD 0

/-- A record of the engine. -/
def State.stackRecord (s : State) (core : Nat) (cx : CtxId) (tag : W64) (unit status reason hi : Nat) : State :=
  s.postEvent core cx { tag := tag, src := 6, status := status, unit := unit, detail := BitVec.ofNat 32 (2 ^ 8 * hi + reason) }

def State.dropStack (s : State) (id : Nat) : State := { s with scmds := s.scmds.erase id }

/-- A command completes: its record, unless it is silent. -/
def State.doneStack (s : State) (id : Nat) (c : StackCmd) : State :=
  let hi := s.stackUnit c.work
  let s := s.dropStack id
  if c.silent then s else s.stackRecord c.core c.cx c.tag c.stack 0 0 hi

/-- A command is refused as it begins: its lock clears without a release, then the record. -/
def State.refuseStack (s : State) (id : Nat) (c : StackCmd) (reason : Nat) : State :=
  let s := match c.work with
    | .smac _ _ _ _ _ _ op | .sacc _ _ _ _ _ op _ => s.abortOp op
    | _ => s
  (s.dropStack id).stackRecord c.core c.cx c.tag c.stack 3 reason (c.work.pc.getD 0)

def sessKey (stack pc : Nat) : Nat := 64 * stack + pc

/-- The session of a channel that this command may act on. -/
def State.session? (s : State) (c : StackCmd) (pc : Nat) : Option Session :=
  match s.sessions.get? (sessKey c.stack pc) with
  | some x => if x.core == c.core && x.cx == c.cx && x.orphan == c.orphan && x.ending.isNone then some x else none
  | none => none

def State.setSession (s : State) (stack pc : Nat) (x : Session) : State :=
  { s with sessions := s.sessions.set (sessKey stack pc) x }

def State.opRegistered (s : State) (op : Nat) : Bool :=
  match s.ops.get? op with
  | some o => o.registered
  | none => false

/-- The next command of an issuer to begin at an engine. -/
def State.nextStack (s : State) (core stack : Nat) : Option (Nat × StackCmd) :=
  s.scmds.find? fun x => x.2.core == core && x.2.stack == stack && !x.2.begun

/-- An earlier command of the same channel has not completed, or the engine holds a record for the core that this command is to
post to (R389, 01 R29). -/
def State.stackHeld (s : State) (id : Nat) (c : StackCmd) : Bool :=
  (!c.silent && (s.coreOf c.core).holdsFor 6 c.stack) ||
  match c.work.pc with
  | some pc => s.scmds.any fun x => x.1 < id && x.2.core == c.core && x.2.stack == c.stack && x.2.work.pc == some pc
  | none => false

def State.beginStack (s : State) (id : Nat) (c : StackCmd) : State :=
  { s with scmds := s.scmds.set id { c with begun := true } }

/-- What a command does as its turn comes: the state after it, or none where it waits. -/
def State.stackTurn (s : State) (id : Nat) (c : StackCmd) : Option State :=
  match c.work with
  | .sred op => if s.opRegistered op then some (s.beginStack id c) else none
  | .bank pc => if (s.sessions.get? (sessKey c.stack pc)).isSome then some (s.refuseStack id c 6) else none
  | .svb pc n data => match s.session? c pc with
    | some x => some ((s.setSession c.stack pc { x with entries := x.entries.put 0 n data }).doneStack id c)
    | none => some (s.refuseStack id c 7)
  | .smac pc _ _ _ _ _ op | .sacc pc _ _ _ _ op _ =>
    if !s.opRegistered op then none else
    match s.session? c pc with
    | some _ => some (s.beginStack id c)
    | none => some (s.refuseStack id c 7)
  | .exit pc => match s.session? c pc with
    | some x => some ((s.setSession c.stack pc { x with ending := some (some id) }).beginStack id c)
    | none => some (s.refuseStack id c 7)

/-- Commands of one issuer to one engine begin in issue order, as far as they may. -/
def State.stackRun (s : State) (core stack : Nat) : Nat → State
  | 0 => s
  | n + 1 =>
    match s.nextStack core stack with
    | none => s
    | some (id, c) =>
      if s.stackHeld id c then s else
      match s.stackTurn id c with
      | some s => State.stackRun s core stack n
      | none => s

def State.stackRunOn (s : State) (core stack : Nat) : State := s.stackRun core stack (s.scmds.length + 1)

/-- Every issuer's commands. -/
def State.stackRunAll (s : State) : State :=
  let l : List (Nat × Nat) := (s.scmds.map fun x => (x.2.core, x.2.stack)).dedup
  l.foldl (fun s x => s.stackRunOn x.1 x.2) s

/-! Issue (R388, R391 to R393, R396 to R400). -/

/-- The engine's queue is full. -/
def State.stackFull (s : State) (stack : Nat) : Bool := 1024 ≤ (s.scmds.filter fun x => x.2.stack == stack).length

/-- An engine operation of a control thread that holds a stack command's locks. -/
def stackOp (s : State) (si : CtlSite) (ranges : List Range) (work : OpWork) : EngOp :=
  { cx := si.owner, part := s.partOf si.owner, core := si.core, byCtl := true, gang := 0, index := 0, slot := 0xFF
    reach := ctlReach si.core si.owner, ranges := ranges, registered := false, bar := none, bytes := 0, began := s.ns, fault := none
    work := work }

/-- A command enters its engine, behind its lock's registration. -/
def enterStack (s : State) (si : CtlSite) (stack : Nat) (tag : W64) (silent : Bool) (work : StackWork) (op : Option Nat) :
    CtlIssue :=
  let (id, s) := s.newId
  let c : StackCmd :=
    { stack := stack, core := si.core, cx := si.owner, tag := tag, silent := silent, begun := false, orphan := false, late := false
      began := s.ns, work := work }
  let s := { s with scmds := s.scmds.set id c }.stackRunOn si.core stack
  match op with
  | some k => if s.opsSettled [k] then .done s else .wait s (.locks [k]) true
  | none => .done s

/-- A refusal at issue. -/
def refuseIssue (s : State) (si : CtlSite) (tag : W64) (unit reason hi : Nat) : CtlIssue :=
  .done (s.stackRecord si.core si.owner tag unit 3 reason hi)

/-- A command on a channel: its refusals at issue, then its place in the queue. `work` gives the work of a channel, or the
reason of a refusal. -/
def issueBank (o : Op) (w : Ins) (s : State) (silent : Bool)
    (work : State → CtlSite → Nat → Nat → Except Nat (StackWork × Option (List Range))) : Outcome State Fault Refusal :=
  issueCtl o w s fun si =>
    let s := s.drainCtl si.core
    let a := rdK s si.core w.a
    let tag := BitVec.ofNat 64 a
    match s.channelAt si.owner a with
    | none => refuseIssue s si tag 0xFFFF (if o == .sacc && rdK s si.core w.b % 64 != 0 then 8 else 3) 0
    | some (stack, pc) =>
      match work s si stack pc with
      | .error r => refuseIssue s si tag stack r pc
      | .ok (x, lock) =>
        if s.stackFull stack then .wait s .wait false else
        match lock with
        | none => enterStack s si stack tag silent x none
        | some l =>
          let (op, s) := s.enterOp (stackOp s si l .bank)
          let x := match x with
            | .smac pc row col n e acc _ => .smac pc row col n e acc op
            | .sacc pc d f n c _ _ => .sacc pc d f n c op none
            | x => x
          enterStack s si stack tag silent x (some op)

def groupKey (stack pc : Nat) : Nat := 8 * stack + pc / 8

def execSbank (w : Ins) (s : State) : Outcome State Fault Refusal :=
  issueBank .sbank w s false fun s _ stack pc =>
    if s.plain.get false (groupKey stack pc) then .ok (.bank pc, none) else .error 5

def execSvb (w : Ins) (s : State) : Outcome State Fault Refusal :=
  issueBank .svb w s (w.mb 60) fun s si _ pc =>
    let n := rdK s si.core w.c
    let k (i : Nat) : Nat := match w.b with
      | .k b => rdK s si.core (.k (b + i))
      | _ => 0
    if 15 < n then .error 8
    else .ok (.svb pc n (k 0 + 2 ^ 64 * k 1 + 2 ^ 128 * k 2 + 2 ^ 192 * k 3), none)

/-- The aligned 128 KiB that hold an address are mapped under the bank option (R400). -/
def State.bankMapped (s : State) (cx : CtxId) (va : Nat) : Bool :=
  let a := alignDown va (2 ^ 17)
  match s.windowOf cx [(a, 2 ^ 17)], s.translate cx a, s.translate cx (a + 65536) with
  | some x, .ok l, .ok l' => x.bank && l.pa % 2 ^ 17 == 0 && l'.pa == l.pa + 65536
  | _, _, _ => false

def execSmac (w : Ins) (s : State) : Outcome State Fault Refusal :=
  issueBank .smac w s (w.mb 60) fun s si _ pc =>
    let a := rdK s si.core w.a
    let b := rdK s si.core w.b
    let acc := w.m 59 54
    let o := channelOffset ((s.windowPA si.owner a).getD 0)
    let col := bits o 9 5
    if !s.bankMapped si.owner a then .error 3
    else if bits o 13 10 != 0 || bits o 4 0 != 0 || 32 ≤ b || 32 < col + b + 1 || 64 < acc + b + 1 then .error 8
    else .ok (.smac pc (bits o 29 14) col (b + 1) (if w.mb 53 then none else some (w.m 52 49)) acc 0,
      some [{ space := .global, base := alignDown a (2 ^ 17), len := 2 ^ 17, write := false }])

/-- Some crumb of a range lies in a channel. -/
def State.meetsChannel (s : State) (cx : CtxId) (va n stack pc : Nat) : Bool :=
  (List.range (n / 64)).any fun i => s.channelAt cx (va + 64 * i) == some (stack, pc)

def execSacc (w : Ins) (s : State) : Outcome State Fault Refusal :=
  issueBank .sacc w s (w.mb 62) fun s si stack pc =>
    let d := rdK s si.core w.b
    let n := w.m 60 55 + 1
    if d % 64 != 0 then .error 8
    else if !s.inWindows si.owner d (64 * n) then .error 3
    else if s.meetsChannel si.owner d (64 * n) stack pc then .error 9
    else .ok (.sacc pc d (w.m 54 49) n (w.mb 61) 0 none, some [{ space := .global, base := d, len := 64 * n, write := true }])

def execSbexit (w : Ins) (s : State) : Outcome State Fault Refusal :=
  issueBank .sbexit w s false fun _ _ _ pc => .ok (.exit pc, none)

/-! SRED (R392 to R394). -/

/-- A parameter block. -/
structure SredBlock where
  op : Nat
  fmt : Nat
  nsrc : Nat
  byte3 : Nat
  count : Nat
  sptr : Nat
  dst : Nat
  flag : Nat
  fval : Nat
  tag : Nat
  rest : Nat

def parseSred (bs : List Byte) : SredBlock :=
  { op := field bs 0 1, fmt := field bs 1 1, nsrc := field bs 2 1, byte3 := field bs 3 1, count := field bs 4 4
    sptr := field bs 8 8, dst := field bs 16 8, flag := field bs 24 8, fval := field bs 32 8, tag := field bs 40 8
    rest := field bs 48 16 }

def sredType (fmt : Nat) : DType := if fmt == 0 then .f32 else if fmt == 1 then .f16 else .bf16

def SredBlock.bytes (b : SredBlock) : Nat := b.count * ((sredType b.fmt).width / 8)

/-- The block's own fields. -/
def SredBlock.ok (b : SredBlock) : Bool :=
  b.op < 3 && b.fmt < 3 && 2 ≤ b.nsrc && b.nsrc ≤ 16 && b.byte3 == 0 && 1 ≤ b.count && b.count ≤ 2 ^ 28 && b.bytes ≤ 2 ^ 30 &&
  b.sptr % 8 == 0 && b.dst % 64 == 0 && b.flag % 8 == 0 && b.rest == 0

/-- Two byte ranges overlap without being the same. -/
def partOverlap (a b n : Nat) : Bool := a != b && a < b + n && b < a + n

/-- Steps 5 to 7 of R393: the stack, or the reason of a refusal with its UNIT. The stack of source 0 is that of its first byte; where
that is not mapped no stack can be named. -/
def State.sredPlace (s : State) (cx : CtxId) (b : SredBlock) (srcs : List Nat) : Except (Nat × Nat) Nat :=
  let n := b.bytes
  match s.rangeStacks cx (srcs.headD 0) 1 with
  | k :: _ =>
    if srcs.any fun a => (s.rangeStacks cx a n).any (· != k) then .error (2, k)
    else if !((srcs ++ [b.dst]).all fun a => s.inWindows cx a n) || (b.flag != 0 && !s.inWindows cx b.flag 8) then .error (3, k)
    else if srcs.any fun a => partOverlap a b.dst n then .error (4, k)
    else .ok k
  | [] => .error (3, 0xFFFF)

def execSred (w : Ins) (s : State) : Outcome State Fault Refusal :=
  issueCtl .sred w s fun si =>
    let s := s.drainCtl si.core
    match s.ctlBytes si (rdK s si.core w.a) 64 64 with
    | .error r => r
    | .ok (s, bs) =>
      let b := parseSred bs
      let tag := BitVec.ofNat 64 b.tag
      if !b.ok then refuseIssue s si tag 0xFFFF 1 b.nsrc
      else match s.ctlBytes si b.sptr (8 * b.nsrc) 8 with
      | .error r => r
      | .ok (s, ps) =>
        let srcs := (List.range b.nsrc).map fun i => field ps (8 * i) 8
        if srcs.any fun a => a % 64 != 0 then refuseIssue s si tag 0xFFFF 1 b.nsrc
        else match s.sredPlace si.owner b srcs with
        | .error (r, unit) => refuseIssue s si tag unit r b.nsrc
        | .ok stack =>
          if s.stackFull stack then .wait s .wait false else
          let req : SredReq :=
            { stack := stack, op := b.op, ty := sredType b.fmt, count := b.count, srcs := srcs, dst := b.dst, flag := b.flag
              fval := BitVec.ofNat 64 b.fval, tag := tag, left := List.range (ceilDiv b.bytes 64) }
          let rg (wr : Bool) (a : Nat) : Range := { space := .global, base := a, len := b.bytes, write := wr }
          let (op, s) := s.enterOp (stackOp s si (srcs.map (rg false) ++ [rg true b.dst]) (.sred req))
          enterStack s si stack tag false (.sred op) (some op)

/-- One round of the tree of 04 R118. -/
def treePairs (f : Nat → Nat → Nat) : List Nat → List Nat
  | a :: b :: r => f a b :: treePairs f r
  | l => l

def treeRounds (f : Nat → Nat → Nat) : Nat → List Nat → List Nat
  | 0, l => l
  | n + 1, l => treeRounds f n (treePairs f l)

/-- The tree's result: five rounds leave one of up to 16 items. -/
def treeOf (f : Nat → Nat → Nat) (l : List Nat) : Nat := (treeRounds f 5 l).headD 0

/-- A node on FP32 values. -/
def sredNode (op a b : Nat) : Nat :=
  let x := Fmt.f32.read false a
  let y := Fmt.f32.read false b
  if op == 0 then f32Of (sumVals .rne [x, y]).1 else (minMax .f32 (op == 1) x y).1

/-- One element of the destination. -/
def SredReq.elem (r : SredReq) (vals : List Nat) : Nat :=
  let l := vals.map fun x => f32Of (r.ty.read false x)
  (roundFP r.ty.fmt .rne 0 (Fmt.f32.read false (treeOf (sredNode r.op) l))).1

/-- An engine's write beneath the L2: the home slice drops its copy; in a page with C = 1 the tile's pixels become undefined
(02 R51, 15 R416, log 11). -/
def State.engWrite (s : State) (l : Leaf) (bs : List Byte) : State :=
  if l.comp then
    let tile := l.pa / 256
    let s := { s with
      tiles := s.tiles.erase tile
      lines := s.lines.filter fun x => x.1 / 4 != tile }
    s.writeRaw tile ((List.range 256).map fun i => Config.freeByte (s.freeIx (256 * tile + i)))
  else { s.writeDram l.pa bs with lines := s.lines.erase (l.pa / 64) }

/-- Addresses that a step reads and writes: the sources' crumbs and the destination's. -/
def SredReq.crumbVas (r : SredReq) (j : Nat) : List Nat := r.srcs.map (· + 64 * j) ++ [r.dst + 64 * j]

/-- Bytes of destination crumb j. -/
def SredReq.crumbLen (r : SredReq) (j : Nat) : Nat := min 64 (r.count * (r.ty.width / 8) - 64 * j)

/-- The values a step writes. -/
def State.sredBytes (s : State) (cx : CtxId) (r : SredReq) (j : Nat) : List Byte :=
  let sz := r.ty.width / 8
  let cs := r.srcs.map fun a => (s.engRead cx (a + 64 * j) 64).getD 0
  (List.range (r.crumbLen j / sz)).flatMap fun e => leBytes sz (r.elem (cs.map fun c => c / 2 ^ (8 * sz * e) % 2 ^ (8 * sz)))

/-- The command of an operation has begun. -/
def State.opBegun (s : State) (op : Nat) : Bool := s.scmds.any fun x => x.2.begun && x.2.work == .sred op

/-- The channels of some virtual addresses that are mapped. -/
def State.vaChans (s : State) (cx : CtxId) (vas : List Nat) : List Nat :=
  (vas.filterMap fun a => match s.translate cx a with
    | .ok l => some (chanOf l.pa)
    | .error _ => none).dedup

/-- The first of some addresses that does not translate, and why: the operation waits on a fault record (02 R50). -/
def State.stepFault (s : State) (op : Nat) (o : EngOp) (vas : List Nat) : Option (Option State) :=
  (vas.findSome? fun a => match s.translate o.cx a with
    | .ok _ => none
    | .error k => some (k, a)).map fun x => if o.fault.isSome then none else s.opFault op o x.1 x.2

/-- A step: one destination crumb, by its number in the destination. -/
def execSredStep (op crumb : Nat) (s : State) : Outcome State Fault Refusal :=
  enabled s <| match s.ops.get? op with
    | some o => match o.work with
      | .sred r =>
        if !r.left.contains crumb || !s.opBegun op then none else
        match s.stepFault op o (r.crumbVas crumb), s.translate o.cx (r.dst + 64 * crumb) with
        | some f, _ => f
        | none, .ok l => s.gate (.crumb op crumb) (s.vaChans o.cx (r.crumbVas crumb)) fun s =>
          some ((s.engWrite l (s.sredBytes o.cx r crumb)).setOp op { o with
            work := .sred { r with left := r.left.filter (· != crumb) } })
        | none, .error _ => none
      | _ => none
    | none => none

/-- The keys of a flag, where there is one. -/
def State.flagKeys (s : State) (cx : CtxId) (va : Nat) : List Nat :=
  if va == 0 then [] else
  match s.span cx va 8 false with
  | .ok keys => keys
  | .error _ => []

/-- The name of the stack command that an operation serves. -/
def State.stackOf? (s : State) (op : Nat) : Option (Nat × StackCmd) :=
  s.scmds.find? fun x => match x.2.work with
    | .sred k | .smac _ _ _ _ _ _ k | .sacc _ _ _ _ _ k _ => k == op
    | _ => false

/-- Every write has completed: the locks clear; then the flag is stored through its home slice, which waits for its channel, and
the record is posted. -/
def execSredComplete (op : Nat) (s : State) : Outcome State Fault Refusal :=
  enabled s <| match s.ops.get? op, s.stackOf? op with
    | some o, some (id, c) => match o.work with
      | .sred r =>
        if !r.left.isEmpty || !c.begun then none else
        let s := if s.locks.any fun l => l.op == op then s.clearLocks op else s
        let keys := s.flagKeys o.cx r.flag
        some ((s.gate (.work op) (s.keysChans true keys) fun s =>
          let s := if keys.isEmpty then s else s.engineWrite o.cx.vd keys (leBytes 8 r.fval.toNat) true
          some (((s.doneStack id c).dropOp op).stackRunOn c.core c.stack)).getD s)
      | _ => none
    | _, _ => none

/-! All-bank mode (R395 to R400). -/

/-- Channels of a stack in bank mode. -/
def State.banksOn (s : State) (stack : Nat) : Nat := (s.sessions.filter fun x => x.1 / 64 == stack).length

/-- An SBANK that waits for its channel. -/
def State.bankWaits (s : State) (stack : Nat) (x : Nat × StackCmd) : Bool :=
  match x.2.work with
  | .bank _ => x.2.stack == stack && !x.2.begun && !s.stackHeld x.1 x.2 &&
      (s.nextStack x.2.core stack).map (·.1) == some x.1
  | _ => false

/-- The next SBANK of a stack puts its channel into bank mode, with entries and accumulators at +0 and its timer at 0. -/
def execSbankEnter (stack : Nat) (s : State) : Outcome State Fault Refusal :=
  enabled s <|
    if 32 ≤ s.banksOn stack then none else
    match s.scmds.find? (s.bankWaits stack) with
    | some (id, c) => match c.work with
      | .bank pc =>
        if (s.sessions.get? (sessKey stack pc)).isSome then some ((s.refuseStack id c 6).stackRunOn c.core stack)
        else if !(s.deferred.get [] (sessKey stack pc)).isEmpty then none
        else
          let x : Session := { core := c.core, cx := c.cx, tag := c.tag, began := s.ns, entries := [], accs := [], ending := none
                               orphan := c.orphan }
          some (((s.setSession stack pc x).doneStack id c).stackRunOn c.core stack)
      | _ => none
    | none => none

/-- The 16 FP16 values of a 256-bit number. -/
def halfVals (x : Nat) : List Val := (List.range 16).map fun j => Fmt.f16.read false (x / 2 ^ (16 * j) % 2 ^ 16)

/-- ACC + s, rounded once. -/
def macOne (acc : W32) (w x : List Val) : W32 :=
  BitVec.ofNat 32 (f32Of (sumVals .rne (w32Val acc :: (w.zip x).map fun y => (mulVal y.1 y.2).1)).1)

/-- The accumulators after an SMAC. -/
def State.macAccs (s : State) (stack pc row col n : Nat) (entry : Option Nat) (acc : Nat) (x : Session) : Tbl W32 :=
  (List.range 16).foldl (fun t b => (List.range n).foldl (fun (t : Tbl W32) i =>
    let w := halfVals (s.readPA (bankPA stack pc (2 ^ 14 * row + 2 ^ 10 * b + 32 * (col + i))) 32)
    let e := halfVals (x.entries.get 0 (entry.getD b))
    t.put 0 (64 * b + acc + i) (macOne (t.get 0 (64 * b + acc + i)) w e)) t) x.accs

/-- The banks have read an SMAC's last column: its lock clears. -/
def execSmacBanksDone (op : Nat) (s : State) : Outcome State Fault Refusal :=
  enabled s <| match s.scmds.get? op with
    | some c => match c.work with
      | .smac pc row col n entry acc lock =>
        if !c.begun then none else
        match s.sessions.get? (sessKey c.stack pc) with
        | some x =>
          let s := s.setSession c.stack pc { x with accs := s.macAccs c.stack pc row col n entry acc x }
          some ((((s.clearLocks lock).dropOp lock).doneStack op c).stackRunOn c.core c.stack)
        | none => none
      | _ => none
    | none => none

/-- The crumb that accumulator index i of every bank fills. -/
def Session.crumb (x : Session) (i : Nat) : List Byte := (List.range 16).flatMap fun b => leBytes 4 (x.accs.get 0 (64 * b + i)).toNat

/-- Accumulators first to first + n − 1 of every bank at +0. -/
def Session.clear (x : Session) (first n : Nat) : Session :=
  { x with accs := x.accs.filter fun y => y.1 % 64 < first || first + n ≤ y.1 % 64 }

def State.setStack (s : State) (id : Nat) (c : StackCmd) : State := { s with scmds := s.scmds.set id c }

/-- One crumb of a SACC is written: a reduction packet, which waits for its channel. -/
def State.saccCrumb (s : State) (c : StackCmd) (lock i va : Nat) (bs : List Byte) (next : State → State) : Option State :=
  match (s.ops.get? lock).bind fun o => s.stepFault lock o [va], s.translate c.cx va with
  | some f, _ => f
  | none, .ok l => s.gate (.crumb lock i) [chanOf l.pa] fun s => some (next (s.engWrite l bs))
  | none, .error _ => none

/-- A step of a SACC: its bank step, which reads the accumulators; then a crumb of its writes, and with the last its lock clears
and its record is posted (R388, R399). -/
def State.stepSacc (s : State) (id : Nat) (c : StackCmd) : Option State :=
  match c.work with
  | .sacc pc d first n clr lock left =>
    if !c.begun then none else
    let setLeft (s : State) (l : List (Nat × List Byte)) : State :=
      s.setStack id { c with work := .sacc pc d first n clr lock (some l) }
    match left, s.sessions.get? (sessKey c.stack pc) with
    | none, some x =>
      let s := setLeft s ((List.range n).map fun i => (i, x.crumb (first + i)))
      some (if clr then s.setSession c.stack pc (x.clear first n) else s)
    | some ((i, bs) :: rest), _ => s.saccCrumb c lock i (d + 64 * i) bs fun s =>
      if rest.isEmpty then (((s.clearLocks lock).dropOp lock).doneStack id c).stackRunOn c.core c.stack else setLeft s rest
    | _, _ => none
  | _ => none

/-- A session ends by force, once its timer reaches 50 µs (R402). -/
def execSessionTimeout (stack pc : Nat) (s : State) : Outcome State Fault Refusal :=
  enabled s <| match s.sessions.get? (sessKey stack pc) with
    | some x =>
      if x.ending.isSome || s.ns < x.began + 50000 then none
      else some ((s.setSession stack pc { x with ending := some none }).stackRunAll)
    | none => none

/-! The deferred queue (R401). -/

/-- The unfinished operations of an agent. -/
def State.agentPends (s : State) (who : Agent) : List Pend :=
  match who with
  | .team core slot => match s.team? core slot with
    | some t => t.pend
    | none => []
  | .ctl core => (s.ctl core).pend

/-- Performs a queued access, with those of its agent before it. The other queues do not bar it: it has waited its turn. -/
def State.serveOne (s : State) (who : Agent) (id : Nat) : State :=
  let waiting := s.deferred
  let s := { s with deferred := [] }
  let s := match who with
    | .team core slot => match s.team? core slot with
      | some t =>
        let (s, ps) := s.performTo core (s.teamVd t) id t.pend
        s.updTeam core slot fun t => { t with pend := ps }
      | none => s
    | .ctl core =>
      let (s, ps) := s.performTo core (s.ctlVd core) id (s.ctl core).pend
      s.onCtl core fun c => { c with pend := ps }
  { s with deferred := waiting }

/-- A packet of a DRAW that is not merged yet, by its name. -/
def RasterWork.hasPacket (id : Nat) (w : RasterWork) : Bool :=
  match w with
  | .draw _ _ _ (some r) => r.live.any fun p => p.packet.any fun q => q.id == id
  | _ => false

/-- What waits in a queue still is to be done. -/
def State.waiterLive (s : State) (w : Waiter) : Bool :=
  match w with
  | .op who id => (s.agentPends who).any fun p => p.id == id
  | .work id => (s.ops.get? id).isSome || (s.filters.get? id).isSome || (s.rays.get? id).isSome || (s.scmds.get? id).isSome ||
      (s.rcmds.get? id).isSome || (s.launches.get? id).isSome ||
      s.teams.any fun x => x.2.walk.any fun w => w.id == id
  | .crumb op _ => (s.ops.get? op).isSome || s.rcmds.any fun x => x.2.work.hasPacket op
  | .fetch (.team core slot) => (s.team? core slot).isSome
  | .fetch (.ctl core) => (s.ctl core).owner.isSome
  | .queue cx q => (s.queue? cx q).isSome
  | .head n => (s.heads.get? n).any fun h => h.cfg.getLsbD 63
  | .peer n _ => (s.streams.get? n).isSome
  | .host fn => fn ≤ 128

/-- What an agent, the dispatcher, a head or a peer is to read again by its own step, and may have given up meanwhile. -/
def Waiter.soft (w : Waiter) : Bool :=
  match w with
  | .fetch _ | .queue .. | .head _ | .peer .. | .host _ => true
  | .op .. | .work _ | .crumb .. => false

/-- The oldest entry of a channel's queue is served: an access takes its place, unless another channel still holds it; what is not
to be done any more leaves, and where `all` is true what may have been given up. An engine or an agent that is to act itself does so
by its own step. -/
def State.serveHead (s : State) (all : Bool) (ch : Nat) : Option State :=
  match s.deferred.get [] ch with
  | [] => none
  | w :: rest =>
    let popped : State := { s with deferred := s.deferred.put [] ch rest }
    match w with
    | .op who id => match (s.agentPends who).find? fun p => p.id == id with
      | some p => if (s.pendChans p).any fun c => (s.sessions.get? c).isSome then some popped else some ((s.undefer w).serveOne who id)
      | none => some popped
    | w => if s.waiterLive w && !(all && w.soft) then none else some popped

/-- The queue is served in arrival order, up to an entry that acts by its own step. -/
def State.serveQueue (s : State) (ch : Nat) : Nat → State
  | 0 => s
  | n + 1 => match s.serveHead false ch with
    | some s => State.serveQueue s ch n
    | none => s

/-- A command of the channel is in progress. -/
def State.bankBusy (s : State) (stack pc : Nat) : Bool :=
  s.scmds.any fun x => x.2.stack == stack && x.2.work.pc == some pc && x.2.begun && match x.2.work with
    | .exit _ => false
    | _ => true

/-- A session is over: an SBEXIT or a forced exit ends it, or its control thread is free and the thread's commands are done. -/
def State.sessionOver (s : State) (stack pc : Nat) (x : Session) : Bool :=
  !s.bankBusy stack pc && (x.ending.isSome ||
    (x.orphan && !s.scmds.any fun y => y.2.core == x.core && y.2.stack == stack && y.2.orphan && y.2.work.pc == some pc))

/-- The channel leaves bank mode, and serves its queue. -/
def State.leaveBank (s : State) (stack pc : Nat) : State :=
  let ch := sessKey stack pc
  { s with sessions := s.sessions.erase ch }.serveQueue ch (s.deferred.get [] ch).length

/-- Bank mode ends: the queue is served in arrival order, and the record of the SBEXIT or of the forced exit is posted. Out of bank
mode, what is left of the queue is served. -/
def execDeferredQueueServe (stack pc : Nat) (s : State) : Outcome State Fault Refusal :=
  enabled s <| match s.sessions.get? (sessKey stack pc) with
    | some x =>
      if !s.sessionOver stack pc x then none else
      let s := s.leaveBank stack pc
      let s := match x.ending with
        | some (some id) => match s.scmds.get? id with
          | some c => s.doneStack id c
          | none => s
        | _ => s.stackRecord x.core x.cx x.tag stack 4 10 pc
      some s.stackRunAll
    | none => s.serveHead true (sessKey stack pc)

/-! Zeros over a group (03 R84), and GRPCFG (R403). -/

/-- Renweaz has replaced the bytes of a physical range: no L1 keeps what it held before. -/
def State.replaced (s : State) (base n : Nat) : State :=
  { s with lts := s.lts + 1 }.dropL1 fun pa => base ≤ pa && pa < base + n

/-- Nothing of a group is in the caches any more: its tiles are written back, and its lines leave. -/
def State.flushGroup (s : State) (base : Nat) : State :=
  let here (crumb : Nat) : Bool := base ≤ 64 * crumb && 64 * crumb < base + 2 ^ 33
  (((s.lines.filter fun x => here x.1).map (·.1)).foldl (fun s c => s.evictCrumb c) s).replaced base (2 ^ 33)

/-- Zeros over a group's 8 GiB, mode store included. -/
def State.zeroGroup (s : State) (base : Nat) : State :=
  { s with mem := s.mem.filter fun x => match keyPA x.1 with
      | some pa => !(base ≤ pa && pa < base + 2 ^ 33)
      | none => true }.replaced base (2 ^ 33)

/-- GRPCFG of a group as it reads. -/
def State.grpcfg (s : State) (stack group : Nat) : Nat :=
  2 ^ 16 * maskOf 8 (fun q => (s.sessions.get? (sessKey stack (8 * group + q))).isSome) +
    boolNat (s.plain.get false (8 * stack + group))

/-- PLAIN of a group takes a value; where it changes, Renweaz writes zeros over the group. -/
def State.setPlain (s : State) (stack group : Nat) (on : Bool) : State :=
  let base := stack * 2 ^ 36 + group * 2 ^ 33
  let s' := { s with plain := s.plain.put false (8 * stack + group) on }
  if s.plain.get false (8 * stack + group) == on then s' else (s'.flushGroup base).zeroGroup base

/-- A write of PLAIN is ignored while a channel of the group is in bank mode or a deferred queue of it holds an entry. -/
def State.writeGrpcfg (s : State) (stack group : Nat) (value : W64) : State :=
  if (List.range 8).any fun q => (s.sessions.get? (sessKey stack (8 * group + q))).isSome ||
      !(s.deferred.get [] (sessKey stack (8 * group + q))).isEmpty then s
  else s.setPlain stack group (value.getLsbD 0)

def execGrpcfgWrite (stack group : Nat) (value : W64) (s : State) : Outcome State Fault Refusal :=
  enabled s <| if stack < 12 && group < 8 then some (s.writeGrpcfg stack group value) else none

/-! Held records (01 R29). -/

/-- An engine posts the records it held, oldest first, once EQPOP has made room or nothing of them is left to post; then the
commands that waited for that go on. -/
def execHeldEventPost (core : Nat) (s : State) : Outcome State Fault Refusal :=
  enabled s <|
    let c := s.coreOf core
    let s := if 64 ≤ c.eq.length then s else s.postHeld core c.held.length
    some ((List.range 12).foldl (fun s k => (s.tlRunAll core k).stackRunOn core k) s)

end Sys2Proof.Machine
end

