-- ==== Sys2Proof/Machine/Walker.lean ====
section
/-! DEFINITION. The block-sparse walker of the matrix engine (10 R297 to R301, R305, R308, R309). -/

namespace Sys2Proof.Machine

open Sys2Proof Host

def mlistf (r : Nat) : MxBad := .mx clsMLISTF r

/-! The descriptor (R297). -/

structure WalkDesc where
  list : Nat
  ah : Nat
  bh : Nat
  ntile : Nat
  team : Nat
  byte15 : Nat
  ring : Nat
  maxent : Nat
  rest : Nat
  deriving DecidableEq, Repr

def parseWalk (bs : List Byte) : WalkDesc :=
  let f (i n : Nat) := leNat ((bs.drop i).take n)
  { list := f 0 8, ah := f 8 2, bh := f 10 2, ntile := f 12 2, team := f 14 1, byte15 := f 15 1, ring := f 16 4
    maxent := f 20 4, rest := f 24 40 }

/-- The descriptor's limits for a team in this slot. -/
def WalkDesc.ok (d : WalkDesc) (m : Matrix) (slot : Nat) : Bool :=
  let n := (unitsOf d.ring).length
  d.list % 8 == 0 && d.list < 2 ^ 48 && d.byte15 == 0 && d.rest == 0 && 2 ≤ n && n ≤ 16 && n % 2 == 0 &&
  ((unitsOf d.ring).all fun k => (m.held? slot k).isSome) && 1 ≤ d.maxent && d.maxent ≤ 2 ^ 24

/-- The descriptor, read with one load. -/
def State.readWalk (s : State) (who : Waiter) (r : Reach) (a : Nat) : Except MxBad WalkDesc := (s.readRecord who r a).map parseWalk

def Team.walkActive (t : Team) : Bool :=
  match t.walk with
  | some w => w.active
  | none => false

/-- Starts a walk of a team from a descriptor: its limits, the barrier, and the two records. -/
def State.startWalk (s : State) (who : Waiter) (core slot : Nat) (t : Team) (reader : Reach) (base bar : Nat) (byCtl : Bool) (d : WalkDesc) :
    Except MxBad State :=
  if !d.ok (s.mx core) slot then .error (mlistf 34)
  else if s.barDead t.gang bar then .error (.trap ⟨clsBAR, 9, 0⟩)
  else match s.readOperand who reader base d.ah, s.readOperand who reader base d.bh with
    | .error e, _ => .error e
    | _, .error e => .error e
    | .ok _, .ok _ =>
      let (id, s) := ((s.recordRead who core reader.cx base d.ah).walked core reader.cx (base + 64 * d.bh)).newId
      let w : Walk :=
        { id := id, state := 1, list := d.list, ah := d.ah, bh := d.bh, ntile := d.ntile, ring := unitsOf d.ring
          maxent := d.maxent, bar := bar, base := base, byCtl := byCtl, read := 0, stopped := false, next := 0, rows := 0
          ready := [], rot := 0, busy := [], last := none, fired := 0, fault := none }
      .ok (s.updTeam core slot fun t => { t with walk := some w })

def execMlist (w : Ins) (s : State) : Outcome State Fault Refusal :=
  let bar := w.m 52 49
  issueBoth .mlist w s
    (fun si e =>
      if e != si.team.launched then .trap (.mk0 clsCONV)
      else if si.team.walkActive then (mlistf 32).issue
      else match s.reachOf si.team with
        | none => .hold
        | some re =>
          let s' := s.drainTeam si.core si.slot
          let who : Waiter := .fetch (.team si.core si.slot)
          match s'.readWalk who re (s.uni64 si w.a) with
          | .error e => e.issue
          | .ok d =>
            if d.team != 0 then (mlistf 34).issue
            else match s'.startWalk who si.core si.slot si.team re si.team.lrb.toNat bar false d with
              | .error e => e.issue
              | .ok s' => .done s')
    (fun si =>
      let s' := s.drainCtl si.core
      let re := ctlReach si.core si.owner
      let who : Waiter := .fetch (.ctl si.core)
      match s'.readWalk who re (rdK s si.core w.a) with
      | .error e => e.ctlIssue s si.core none
      | .ok d =>
        match (if d.team < 16 then s.team? si.core d.team else none) with
        | none => (mlistf 34).ctlIssue s si.core none
        | some t =>
          if s.teamCx t != some si.owner then (mlistf 34).ctlIssue s si.core none
          else if t.walkActive then (mlistf 32).ctlIssue s si.core (some d.team)
          else match s'.startWalk who si.core d.team t re si.ctl.clrb.toNat bar true d with
            | .error e => e.ctlIssue s si.core (some d.team)
            | .ok s' => .done s')

/-! Entries (R298, R299). -/

def Walk.push (w : Walk) (x : WEntry) (stop : Bool) : Walk :=
  { w with ready := w.ready ++ [x], read := w.read + 1, stopped := stop, state := if x.kind == 3 then 3 else w.state }

/-- Entries that carry no pair. -/
def WEntry.plain (kind : Nat) : WEntry := { kind := kind, cls := 0, reason := 0, slotA := 0, slotB := 0, pair := 0 }

def WEntry.bad (cls reason : Nat) : WEntry := { kind := 3, cls := cls, reason := reason, slotA := 0, slotB := 0, pair := 0 }

/-- What the walker finds at its read cursor. -/
inductive Found where
  /-- A row end, the list end, or an entry whose delivery traps; the walk stops where the flag is set. -/
  | entry (x : WEntry) (stop : Bool)
  | block (bidx bcol : Nat) (a b : TileRec)
  /-- A read that fails translation. -/
  | fault (kind va : Nat)
  /-- A read that waits for channels in bank mode. -/
  | wait (chans : List Nat)

/-- The record of a walker's handle: one that has gone bad is found at delivery. -/
def State.walkRecord (s : State) (who : Waiter) (reader : Reach) (base h : Nat) : Except Found TileRec :=
  match s.readOperand who reader base h with
  | .ok t => .ok t
  | .error (.wait _) => .error (.wait [])
  | .error (.fault k va _) => .error (.fault k va)
  | .error (.mx cls r) => .error (.entry (.bad cls r) true)
  | .error (.trap _) => .error (.entry (.bad clsDESYNC 19) true)

/-- A block entry against its records: bad, or its two tiles. -/
def State.walkBlock (s : State) (re reader : Reach) (w : Walk) (bidx bcol : Nat) : Found :=
  match s.walkRecord (.work w.id) reader w.base w.ah, s.walkRecord (.work w.id) reader w.base w.bh with
  | .error f, _ => f
  | _, .error f => f
  | .ok a, .ok b =>
    if a.nr ≤ a.tr * bidx || b.nr ≤ b.tr * bcol || a.tc != b.tr || (s.tileOut re a bidx 0).isSome ||
        (s.tileOut re b bcol w.ntile).isSome then .entry (.bad clsMLISTF 35) true
    else .block bidx bcol a b

/-- The next entry, read now. -/
def State.walkRead (s : State) (re reader : Reach) (w : Walk) : Found :=
  if w.maxent ≤ w.read then .entry (.plain 2) true else
  let va := w.list + 8 * w.read
  match s.span re.cx va 8 false with
  | .error (k, va) => .fault k va
  | .ok keys =>
    let chans := s.keysChans false keys
    if chans.any (s.barred (some (.work w.id))) then .wait chans else
    let e := s.readKeys keys
    let kind := bits e 63 62
    if kind == 3 || (kind == 0 && bits e 61 48 != 0) || (kind != 0 && bits e 61 0 != 0) then .entry (.bad clsMLISTF 35) true
    else if kind == 0 then s.walkBlock re reader w (bits e 47 24) (bits e 23 0)
    else .entry (.plain kind) (kind == 2)

/-- Slots of pair k: the A slot and the B slot. -/
def Walk.pairSlots (w : Walk) (k : Nat) : Nat × Nat := (w.ring.getD (2 * k) 0, w.ring.getD (2 * k + 1) 0)

/-- The fetches that a save left of the entry at the read cursor give up their locks: it is read again. -/
def State.dropKept (s : State) (core slot : Nat) (w : Walk) : State × Walk :=
  let s := ((w.kept.filter fun x => x.1 ≤ w.read).map (·.2)).foldl State.abortOp s
  let w := { w with kept := w.kept.filter fun x => w.read < x.1 }
  (s.updTeam core slot fun t => { t with walk := some w }, w)

/-- Both tiles of a block are fetched into the next pair, and its completion signal waits for them. -/
def State.walkFetch (s : State) (core slot : Nat) (t : Team) (w : Walk) (re : Reach) (bidx bcol : Nat) (a b : TileRec) : State :=
  let p := w.pairSlots w.rot
  let (name, s) := s.newId
  let again := w.fired != 0
  let sig : WSignal :=
    { name := name, walk := w.id, gang := t.gang, bar := w.bar, left := 2, bytes := if again then 0 else a.size + b.size }
  let s := { s with sigs := s.sigs ++ [sig] }
  let (_, s) := s.startFetch core slot t re w.byCtl none { slot := p.1, tile := a, row := bidx, col := 0, walk := some name }
  let (_, s) := s.startFetch core slot t re w.byCtl none { slot := p.2, tile := b, row := bcol, col := w.ntile, walk := some name }
  let x : WEntry := { kind := 0, cls := 0, reason := 0, slotA := p.1, slotB := p.2, pair := w.rot }
  let w' : Walk := { w.push x false with
    rot := (w.rot + 1) % (w.ring.length / 2)
    busy := w.busy ++ [w.rot]
    fired := w.fired - 1 }
  s.updTeam core slot fun t => { t with walk := some w' }

/-- An entry read that fails: a record, and the walker waits (R301). -/
def State.walkFault (s : State) (core slot : Nat) (t : Team) (w : Walk) (re : Reach) (k va : Nat) : Option State :=
  if s.faultRoom (coreDie core) then
    let (id, s) := s.postFault { va := va, cx := re.cx, core := core, slot := 0xFF, kind := k, access := 5, clk := 0
                                 who := .walker t.gang t.index, addr := va }
    some (s.updTeam core slot fun t => { t with walk := some { w with fault := some id } })
  else none

/-- Records are read through LRB by the team, or through CLRB where the control thread started the walk. -/
def Walk.reader (w : Walk) (core : Nat) (re : Reach) : Reach := if w.byCtl then ctlReach core re.cx else re

/-- The walker of a team reads its next entry, and starts a block's fetches once its pair is free. -/
def execWalkerEntryRead (core slot : Nat) (s : State) : Outcome State Fault Refusal :=
  enabled s <| match s.team? core slot with
    | some t => match t.walk, s.reachOf t with
      | some w, some re =>
        let who : Waiter := .work w.id
        if w.state != 1 || w.stopped || w.fault.isSome || t.leaving.isSome then none
        else match s.walkRead re (w.reader core re) w with
          | .fault k va => s.walkFault core slot t w re k va
          | .wait chans => s.deferAs who chans
          | .entry x stop =>
            let (s, w) := ((s.undefer who).walked core re.cx (w.list + 8 * w.read)).dropKept core slot w
            some (s.updTeam core slot fun t => { t with walk := some (w.push x stop) })
          | .block bidx bcol a b =>
            if w.busy.contains w.rot then none
            else
              let (s, w) := ((s.undefer who).walked core re.cx (w.list + 8 * w.read)).dropKept core slot w
              some (s.walkFetch core slot t w re bidx bcol a b)
      | _, _ => none
    | none => none

/-- Renweaz resolves the fault of an entry read: it mends the mapping, and the entry is read again, or the walk is faulted. -/
def execWalkerFaultResolve (core slot : Nat) (mend : Option (List (Nat × Nat))) (s : State) : Outcome State Fault Refusal :=
  enabled s <| match s.team? core slot with
    | some t => match t.walk with
      | some w => match w.fault with
        | some rec =>
          let w := { w with fault := none }
          match mend with
          | some ptes => ((s.dropFault rec).remap ptes).map fun s => s.updTeam core slot fun t => { t with walk := some w }
          | none => some ((s.dropFault rec).updTeam core slot fun t => { t with walk := some (w.push (.bad clsMLISTF 36) true) })
        | none => none
      | none => none
    | none => none

/-! MNEXT (R300). -/

/-- The pair of the entry delivered last is free again. -/
def Walk.freeLast (w : Walk) : Walk :=
  match w.last with
  | some p => { w with busy := w.busy.filter (· != p), last := none }
  | none => w

/-- The words that deliver an entry. -/
def WEntry.words (x : WEntry) (rows : Nat) : W32 × W32 :=
  (BitVec.ofNat 32 (2 ^ 30 * x.kind + 2 ^ 8 * x.slotB + x.slotA), BitVec.ofNat 32 rows)

/-- The walk after an entry is delivered. -/
def Walk.deliver (w : Walk) (x : WEntry) : Walk :=
  { w with
    ready := w.ready.drop 1
    next := w.next + 1
    rows := if x.kind == 1 then w.rows + 1 else w.rows
    last := if x.kind == 0 then some x.pair else none
    state := if x.kind == 2 then 2 else w.state }

def execMnext (w : Ins) (s : State) : Outcome State Fault Refusal :=
  issueMx .mnext w s fun si =>
    match si.team.walk, w.d with
    | some k, .s d =>
      if !k.active then .error (mlistf 33)
      else
        let k := k.freeLast
        match k.ready with
        | [] => .ok (.block (s.onTeam si fun t => { t with walk := some k }) .mnext false)
        | x :: _ =>
          if x.kind == 3 then
            .ok (.trapWith (fun t => Team.noteMx x.cls x.reason { t with walk := some { k with ready := [] } }) (.mk0 x.cls))
          else
            let (a, b) := x.words k.rows
            .ok (.done (s.onTeam si fun t => ({ t with walk := some (k.deliver x) }.setS d a).setS (d + 1) b))
    | _, _ => .error (mlistf 33)

/-! Exit and pre-emption (R308, R309). -/

/-- A walk abandoned at its restart point, from which it will read again. Its undelivered fetches move no more data; those that
have registered keep their locks until their entry is read again (02 R61, 03 R92). -/
def State.walkAbandon (s : State) (core slot : Nat) : State :=
  match s.team? core slot with
  | some t => match t.walk with
    | some w =>
      if !w.active then s else
      let blocks := (w.ready.zipIdx).filter fun x => x.1.kind == 0
      let mine := s.sigs.filter fun x => x.walk == w.id
      let open' := mine.drop (mine.length - min mine.length blocks.length)
      let at' := (open'.zip (blocks.drop (blocks.length - open'.length))).map fun x => (x.1.name, w.next + x.2.2)
      let of (f : Fetch) : Option Nat := f.walk.bind fun k => (at'.find? fun x => x.1 == k).map (·.2)
      let ids := s.ops.filterMap fun x => match x.2.work with
        | .fetch f => (of f).map fun n => (n, x.1, x.2.registered)
        | _ => none
      let s' := ((ids.filter fun x => !x.2.2).map fun x => x.2.1).foldl State.abortOp s
      let s' := match w.fault with
        | some rec => s'.dropFault rec
        | none => s'
      let kept := (ids.filter fun x => x.2.2).map fun x => (x.1, x.2.1)
      let ops : Tbl EngOp := s'.ops.map fun x => (x.1, match x.2.work with
        | .fetch f => if kept.any fun y => y.2 == x.1 then { x.2 with fault := none, work := .fetch { f with kept := true } } else x.2
        | _ => x.2)
      let w' := { w with
        state := 1
        read := w.next
        ready := []
        stopped := false
        fault := none
        rot := (w.rot + w.ring.length / 2 * blocks.length - blocks.length) % (w.ring.length / 2)
        busy := match w.last with | some p => [p] | none => []
        fired := w.fired + (blocks.length - open'.length)
        kept := w.kept ++ kept }
      { s' with
        ops := ops
        faults := s'.faults.filter fun x => !(kept.any fun y => x.2.who == Faulter.op y.2)
        sigs := s'.sigs.filter fun x => !(open'.any fun y => y.name == x.name) }.updTeam core slot fun t => { t with walk := some w' }
    | none => s
  | none => s

/-- A team's walk ends as the team exits: what a save had left of it gives up its locks, and its fetches in flight complete
(R309). -/
def State.walkEnd (s : State) (core slot : Nat) : State :=
  match s.team? core slot with
  | some t => match t.walk with
    | some w =>
      let s := (w.kept.map (·.2)).foldl State.abortOp s
      match w.fault with
      | some rec => s.dropFault rec
      | none => s
    | none => s
  | none => s

end Sys2Proof.Machine
end

