-- ==== Sys2Proof/Machine/Faults.lean ====
section
/-! DEFINITION. Fault records at Renweaz and their resolution, invalidations of translations, and late registration of range locks
(02 R48 to R50, R57). The dispatcher's and the raster engine's faults continue in their own files. -/

namespace Sys2Proof.Machine

open Sys2Proof Host

/-! A faulting agent that found the queue full (R49). -/

/-- The split of a team that waits for a free record. -/
def Team.fullWait (t : Team) : Option (Nat × Nat × Nat × Nat × Nat) :=
  t.splits.findSome? fun x => match x.2.wait with
    | .faultFull k a va addr => some (x.1, k, a, va, addr)
    | _ => none

/-- The record of an agent that waited for one. -/
def State.postWaiting (s : State) (who : Agent) : Option State :=
  match who with
  | .team core slot => match s.team? core slot with
    | some t => match t.fullWait, s.teamCx t with
      | some (e, k, a, va, addr), some cx =>
        let (id, s) := s.postFault { va := va, cx := cx, core := core, slot := slot, kind := k, access := a, clk := 0
                                     who := .team t.gang t.index e, addr := addr }
        some (s.updTeam core slot fun t => { t with splits := t.splits.alter e fun p => { p with wait := .fault id } })
      | _, _ => none
    | none => none
  | .ctl core =>
    let c := s.ctl core
    match c.mode, c.owner with
    | .faultFull k a va addr, some cx =>
      let (id, s) := s.postFault { va := va, cx := cx, core := core, slot := 0xFF, kind := k, access := a, clk := 0
                                   who := .ctl core, addr := addr }
      some (s.onCtl core fun c => { c with mode := .fault id })
    | _, _ => none

def execFaultRecordPost (who : Agent) (s : State) : Outcome State Fault Refusal :=
  enabled s <| if s.faultRoom (coreDie (agentCore who)) then s.postWaiting who else none

/-! Mending (R49, R50). -/

/-- The waiter of a mended fault replays. -/
def State.replay (s : State) (who : Faulter) : State :=
  match who with
  | .team g i e => s.updTeamRef g i fun t => { t with splits := t.splits.alter e fun p => { p with wait := .none } }
  | .ctl core => s.onCtl core fun c => { c with mode := .running }
  | .op id => { s with ops := s.ops.alter id fun o => { o with fault := none } }
  | .walker g i => s.updTeamRef g i fun t => { t with walk := t.walk.map fun w => { w with fault := none } }
  | .queue cx q _ => match s.queue? cx q with
    | some x => s.setQueue cx q { x with fault := none }
    | none => s
  | .leave .. | .cohort .. | .launch _ | .raster .. => s

/-- A record is resolved by mending: the mapping changes as it may, and the waiter goes on. -/
def State.mend (s : State) (rec : Nat) (f : FaultRec) (ptes : List (Nat × Nat)) : Option State :=
  ((s.dropFault rec).remap ptes).map fun s => s.replay f.who

/-! PAGE (R49, 07 R216, 09 R273, 07 R210). -/

/-- A team's split that waits on the record raises PAGE; a saved team waits for its restore. -/
def State.pageTeam (s : State) (rec g i e addr : Nat) : Option State :=
  match s.whereTeam g i with
  | some (core, slot, t) => match t.splits.get? e with
    | some p =>
      if p.wait != .fault rec then none else
      let at' : TrapAt := { core := core, slot := slot, entry := e
                            pc := match p.clause with | some c => c.base + c.off | none => p.pc
                            resume := p.clause }
      some ((s.dropFault rec).raise t (trapAddr clsPAGE addr) at')
    | none => none
  | none => none

def execPageDeliver (rec : Nat) (s : State) : Outcome State Fault Refusal :=
  enabled s <| match s.faults.get? rec with
    | some f => match f.who with
      | .team g i e => s.pageTeam rec g i e f.addr
      | .ctl core =>
        let c := s.ctl core
        if c.mode == .fault rec then some ((s.dropFault rec).raiseCtl core (trapAddr clsPAGE f.addr) c.pc c.clause) else none
      | .leave g i => match s.whereTeam g i with
        | some (core, slot, t) => match t.leaving with
          | some pc => some ((s.dropFault rec).leaveFault core slot pc t (trapAddr clsPAGE f.addr))
          | none => none
        | none => none
      | .cohort g i => match s.whereTeam g i with
        | some (core, slot, t) => match t.cohSite with
          | some (entry, pos, _) =>
            some ((s.dropFault rec).exitArrivalFault core slot entry (pos.base + pos.off) t (trapAddr clsPAGE f.addr))
          | none => none
        | none => none
      | _ => none
    | none => none

/-! Invalidation (R48). -/

/-- Every access of the context's agents that has been translated takes its place. -/
def State.drainCx (s : State) (cx : CtxId) : State :=
  let s := s.teams.foldl (fun s x => if s.teamCx x.2 == some cx then s.drainTeam (x.1 / 16) (x.1 % 16) else s) s
  s.cores.foldl (fun s x => if x.2.ctl.owner == some cx then s.drainCtl x.1 else s) s

/-- An access of the context waits for a channel in bank mode. -/
def State.cxStuck (s : State) (cx : CtxId) : Bool :=
  (s.teams.any fun x => s.teamCx x.2 == some cx && s.stuck x.2.pend) ||
  s.cores.any fun x => x.2.ctl.owner == some cx && s.stuck x.2.ctl.pend

/-- The cached translations of a range are gone. -/
def State.invalidate (s : State) (cx : CtxId) (base len : Nat) : State :=
  s.dropTlb fun x => x.cx == cx && base < (x.page + 1) * 65536 && x.page * 65536 < base + len

def execTranslationInvalidate (cx : CtxId) (base len : Nat) (s : State) : Outcome State Fault Refusal :=
  enabled s <| if (s.ctx? cx).isNone || s.cxStuck cx then none else some ((s.drainCx cx).invalidate cx base len)

/-! Registration behind a conflict or for want of entries (R57, R59). -/

def execLockRegister (op : Nat) (s : State) : Outcome State Fault Refusal :=
  enabled s <| match s.ops.get? op with
    | some o => if s.mayRegister op o then some (s.register op o).stackRunAll else none
    | none => none

end Sys2Proof.Machine
end

