-- ==== Sys2Proof/Machine/Placing.lean ====
section
/-! DEFINITION. Teams and gangs as they are created, and whether and where a gang fits (01 R24; 02 R36 to R38; 03 R87; 07 R190). -/

namespace Sys2Proof.Machine

open Sys2Proof

/-! Creation (07 R190). -/

/-- A split entry at a clause, with a fresh quantum. -/
def Split.fresh (pc : Nat) (mask : TMask) (qnt : Nat) : Split :=
  { pc := pc, mask := mask, join := none, quantum := 0, limit := qnt, yield := false, clause := none, wait := .none }

def Stops.none : Stops := { fault := false, debug := false, step := false }

/-- A team of a gang as it is created, with the threads of `mask` alive. -/
def Team.fresh (r : LaunchRec) (gang lin member index : Nat) (mask : TMask) : Team :=
  { gang := gang, member := member, index := index, lin := lin, threads := r.threads, launched := mask, alive := mask
    v := [], s := [], p := [], rng := []
    splits := [(0, Split.fresh r.code mask r.qnt)]
    joins := [], spill := [], running := none, last := 15
    arrive := [], cohMask := 0, cohAddr := 0, cohorts := []
    role := 0, regs := r.regs, cls := r.prio, pendingRole := none
    tvmask := 0, tpc := 0, tcause := 0, taddr := 0, tpcWritten := false, saved := none, handler := none
    qnt := BitVec.ofNat 32 r.qnt, fpc := r.fpc, tsr := 0, tvb := r.tvb, lrb := r.lrb
    w := [], pend := [], rpend := 0, rwin := none, hits := [], rays := 0, verdicts := [], handed := [], epoch := 0
    mflags := 0, mreason := 0, mclass := 0, walk := none
    copySeq := 0, copyDone := 0, copyFaults := 0, copyLast := 0
    pixel := none, leaving := none, stops := Stops.none, lastIssue := 0, lastClk := 0, promoted := false }

/-! Room on a core. -/

/-- Scratchpad units of 4 KiB that a gang of the record needs on each core (02 R36). -/
def LaunchRec.units (r : LaunchRec) : Nat :=
  ceilDiv (r.scratch * 4096 + r.teams * r.threads * r.priv * 16) 4096

/-- Free team slots of a core, ascending. -/
def State.freeSlots (s : State) (core : Nat) : List Nat := (List.range 16).filter fun i => (s.team? core i).isNone

/-- The units [b, b + n) lie in the scratchpad and meet no allotment. -/
def Core.roomAt (c : Core) (b n : Nat) : Bool :=
  b + n ≤ 160 && c.allot.all fun x => b + n ≤ x.2.1 || x.2.1 + x.2.2 ≤ b || n == 0 || x.2.2 == 0

/-- Somewhere in the scratchpad n units are free. -/
def Core.hasRoom (c : Core) (n : Nat) : Bool := (List.range 161).any fun b => c.roomAt b n

/-- A role growth waits on the core: it is served before a new gang is placed (07 R212). -/
def State.growthWaits (s : State) (core : Nat) : Bool := s.growthBefore core 16 (s.nextId + 1)

/-- TEAMS, registers and scratchpad of one core are free for a gang with this many registers a thread (01 R24). -/
def State.coreFits (s : State) (r : LaunchRec) (regs core : Nat) : Bool :=
  r.teams ≤ (s.freeSlots core).length && s.regsUsed core + regs ≤ coreRegs && (s.coreOf core).hasRoom r.units &&
  !s.growthWaits core

/-- 64 KiB steps up to the last unit that an allotment holds (02 R37). -/
def Core.stepsUsed (c : Core) : Nat := (c.allot.map fun x => ceilDiv (x.2.1 + x.2.2) 16).foldl max 0

/-- A gang's allotment is made: the carve-out grows where it must, and the L1 lines in the SRAM given up are gone. Which lines
those are the spec does not say (log 13): `keep` says of each whether it stays, and no more stay than the L1 still holds. -/
def Core.allotTo (c : Core) (gang base units : Nat) (keep : Nat → Bool) : Core :=
  let c := { c with allot := c.allot ++ [(gang, base, units)] }
  if c.spstep < c.stepsUsed then
    let c := { c with spstep := c.stepsUsed }
    { c with l1 := (c.l1.filter fun x => keep x.crumb).take c.l1Lines }
  else c

/-- A gang's allotment ends; whole steps behind the last one that is held return to L1. -/
def Core.release (c : Core) (gang : Nat) : Core :=
  let c := { c with allot := c.allot.filter fun x => x.1 != gang }
  { c with spstep := c.stepsUsed }

/-- Teams take the lowest free slots of a core, in order (01 R24). -/
def State.seat (s : State) (core : Nat) : List Team → State
  | [] => s
  | t :: ts =>
    match s.freeSlots core with
    | slot :: _ =>
      let c := s.coreOf core
      let t := { t with lastIssue := s.ns, lastClk := c.clk, epoch := c.epochs }
      State.seat (((s.setCore core { c with epochs := (c.epochs + 1) % 2 ^ 16 }).sync core).setTeam core slot t) core ts
    | [] => s

/-- A gang's teams and allotments on its cores, core by core. -/
def State.seatGang (s : State) (gang units : Nat) (teams : Nat → List Team) : Nat → List (Nat × Nat) → State
  | _, [] => s
  | m, (core, base) :: rest =>
    let s := s.setCore core ((s.coreOf core).allotTo gang base units fun c => Config.freeBool (s.freeIx c))
    State.seatGang (s.seat core (teams m)) gang units teams (m + 1) rest

/-- The steps that an allotment of n units takes at the least: it lies within the steps in use where it fits there, else as low as
it can (02 R37). -/
def Core.stepsFor (c : Core) (n : Nat) : Nat :=
  let ends := ((List.range 161).filter fun b => c.roomAt b n).map fun b => ceilDiv (b + n) 16
  max c.spstep (ends.foldl min 10)

/-- The cores and bases can take a gang of the record, and grow no carve-out further than it needs: the dispatcher's choice of places
is one it may make. -/
def State.placesOk (s : State) (r : LaunchRec) (cores bases : List Nat) : Bool :=
  cores.length == r.gang && bases.length == r.gang &&
  (cores.zip bases).all fun x =>
    (s.coreOf x.1).roomAt x.2 r.units && ceilDiv (x.2 + r.units) 16 ≤ (s.coreOf x.1).stepsFor r.units

def Gang.fresh (launch lin : Nat) (r : LaunchRec) (cores bases : List Nat) (placed : Nat) : Gang :=
  { launch := launch, lin := lin, size := r.gang, cores := cores, bases := bases, resident := true, bars := [], tx := [], rx := []
    mdrops := [], saved := [], savedMx := [], stopMode := false, faultStop := false, placed := placed
    savedAt := 0, lastFire := 0 }

/-- The next gang of a launch is placed on the given cores, with its teams created. -/
def State.placeNew (s : State) (launch : Nat) (cores bases : List Nat) : State :=
  match s.launch? launch with
  | none => s
  | some l =>
    let (id, s) := s.newId
    let r := l.record
    let s := s.setGang id (Gang.fresh launch l.nextGang r cores bases id)
    let s := { s with launches := s.launches.set launch { l with nextGang := l.nextGang + 1 } }
    s.seatGang id r.units (fun m => (List.range r.teams).map fun i =>
      Team.fresh r id l.nextGang m (r.teams * m + i) (fullMask r.threads)) 0 (cores.zip bases)

end Sys2Proof.Machine
end

