-- ==== Sys2Proof/Machine/Dispatcher.lean ====
section
/-! DEFINITION. The dispatcher: reading launch records, placing and retiring gangs, completing launches, and its faults
(01 R24; 02 R36, R37; 03 R85 to R88, R450; 07 R206, R211, R225; 09 R269 to R271). -/

namespace Sys2Proof.Machine

open Sys2Proof Host

/-! Launch records (R86, 07 R211). -/

/-- A record's role-table address and entry count. -/
structure RoleTable where
  addr : Nat
  count : Nat

def isVa (x : Nat) : Bool := x < 2 ^ 48

/-- CODE or ENTRY: a block address. -/
def isBlock (x : Nat) : Bool := x < 2 ^ 48 && x % 32 == 0

def regsOk (n : Nat) : Bool := 8 ≤ n && n ≤ 512 && n % 8 == 0

/-- The fields of a record as they lie. -/
def recordOf (bs : List Byte) : LaunchRec × RoleTable :=
  let f := field bs
  ({ code := f 0 8, args := f 8 8, gx := f 16 4, gy := f 20 4, gz := f 24 4, threads := f 28 2, regs := f 30 2
     gang := 2 ^ bits (f 32 1) 1 0, teams := f 33 1, prio := bits (f 34 1) 1 0
     coresident := bitAt (f 35 1) 0, chip := bitAt (f 35 1) 1, after := bitAt (f 35 1) 2
     scratch := f 36 2, priv := f 38 2, roles := [], lrb := BitVec.ofNat 64 (f 56 8)
     tvb := BitVec.ofNat 64 (f 64 8 / 2 ^ 9 * 2 ^ 9), qnt := if f 72 2 == 0 then 64 else f 72 2
     fpc := fpcWrite 1 (f 76 4), doneAddr := f 88 8, doneVal := BitVec.ofNat 64 (f 96 8) },
   { addr := f 48 8, count := f 40 1 })

/-- The limits of R86 on the raw bytes. -/
def rawOk (bs : List Byte) : Bool :=
  let f := field bs
  isBlock (f 0 8) && isVa (f 8 8) && f 32 1 < 3 && f 34 1 < 4 && f 35 1 < 8 && f 40 1 ≤ 8 && f 41 7 == 0 && isVa (f 48 8) &&
  (if f 40 1 == 0 then f 48 8 == 0 else f 48 8 % 16 == 0) && isVa (f 56 8) && isVa (f 64 8) && f 72 2 ≤ 4096 && f 74 2 == 0 &&
  f 80 8 == 0 && isVa (f 88 8) && f 88 8 % 8 == 0 && f 104 8 == 0 && f 112 8 == 0 && f 120 8 == 0

/-- The limits of R86 on the numbers. -/
def LaunchRec.ok (r : LaunchRec) : Bool :=
  let dim (n : Nat) := 1 ≤ n && n ≤ 16777215
  dim r.gx && dim r.gy && dim r.gz && r.gangs < 2 ^ 32 && 32 ≤ r.threads && r.threads ≤ 1024 && r.threads % 32 == 0 &&
  regsOk r.regs && 1 ≤ r.teams && r.teams ≤ 16 && r.scratch ≤ 160 && r.priv ≤ 256 &&
  r.teams * r.threads * r.regs ≤ coreRegs && r.scratch * 4096 + r.teams * r.threads * r.priv * 16 ≤ 655360

/-- A record and its role table; none where it is bad. -/
def parseRecord (bs : List Byte) : Option (LaunchRec × RoleTable) :=
  let x := recordOf bs
  if rawOk bs && x.1.ok then some x else none

/-- The entries of a role table; none where one is bad, or takes too many registers. -/
def parseRoles (r : LaunchRec) (bs : List Byte) : Nat → Option (List (Nat × Nat × Nat))
  | 0 => some []
  | n + 1 =>
    let e := bs.take 16
    if isBlock (field e 0 8) && regsOk (field e 8 2) && field e 10 1 < 4 && field e 11 5 == 0 &&
        r.teams * r.threads * field e 8 2 ≤ coreRegs then
      (parseRoles r (bs.drop 16) n).map fun l => (field e 0 8, field e 8 2, field e 10 1) :: l
    else none

/-! Room. -/

/-- Clusters of a partition on a die. -/
def State.dieClusters (s : State) (part die : Nat) : List Nat :=
  match s.parts.get? part with
  | some p => p.clusters.filter fun c => c / 24 == die
  | none => []

/-- Gangs of a record that one empty core holds a part of. -/
def LaunchRec.perCore (r : LaunchRec) : Nat :=
  min (16 / r.teams) (min (coreRegs / (r.teams * r.threads * r.regs)) (if r.units == 0 then 16 else 160 / r.units))

/-- All gangs of the launch could be resident at once with no other work (R88; 09 R270). -/
def State.couldFit (s : State) (r : LaunchRec) (part die : Nat) (note : Option Issuer) : Bool :=
  let cs := s.dieClusters part die
  match note.filter (·.near) with
  | some i => cs.contains (coreCluster i.core) && r.gangs ≤ r.perCore
  | none => r.gangs ≤ cs.length * (4 / r.gang) * r.perCore

/-! Faults of the dispatcher (R450). -/

/-- A record with access 5, team slot 0xFF and %core 0xFFFF; none while the die's queue is full. -/
def State.dispFault (s : State) (die : Nat) (cx : CtxId) (kind va : Nat) (who : Faulter) : Option (Nat × State) :=
  if s.faultRoom die then
    some (s.postFault { va := va, cx := cx, core := 0xFFFF, slot := 256 * die + 0xFF, kind := kind, access := 5, clk := 0
                        who := who, addr := va })
  else none

/-- An access of a queue's header (true) or of its records fails. -/
def State.queueFault (s : State) (cx : CtxId) (q : Nat) (qu : Queue) (header : Bool) (kind va : Nat) : Option State :=
  (s.dispFault qu.die cx kind va (.queue cx q header)).map fun x => x.2.setQueue cx q { qu with fault := some x.1 }

/-! Reading records (R85). -/

/-- DETAIL of a LAUNCH record. -/
def launchDetail (index fstat : Nat) : W32 := BitVec.ofNat 32 (2 ^ 8 * (index % 2 ^ 24) + fstat)

def State.launchRecord (s : State) (i : Issuer) (die index status fstat : Nat) : State :=
  s.postEvent i.core i.cx { tag := i.tag, src := 1, status := status, unit := die, detail := launchDetail index fstat }

/-- FSTAT is set, with FIDX, and CONS passes the record. -/
def State.failHead (s : State) (cx : CtxId) (q : Nat) (qu : Queue) (fstat : Nat) : Option State :=
  match s.span cx qu.header 64 true with
  | .error (k, va) => s.queueFault cx q { qu with todo := some (.fail fstat) } true k va
  | .ok hk =>
    let h := s.qhead hk
    let slot := h.cons % 2 ^ h.log2n
    let s := s.headTouched cx qu.header hk
    let s := ((s.setQ32 hk offFidx h.cons).setFstat hk fstat).setQ32 hk offCons (h.cons + 1)
    let s := s.setQueue cx q { qu with notes := qu.notes.erase slot, fault := none, todo := none }
    match qu.notes.get? slot with
    | some i => some (s.launchRecord i qu.die h.cons 7 fstat)
    | none => some s

/-- The context of a launch: its issuer's, or that of the queue (09 R271). -/
def launchCx (cx : CtxId) (note : Option Issuer) : CtxId := (note.map (·.cx)).getD cx

/-- The record is good: CONS passes it, and the launch stands at the head of its queue. -/
def State.takeHead (s : State) (cx : CtxId) (q : Nat) (qu : Queue) (r : LaunchRec) : Option State :=
  match s.span cx qu.header 64 true with
  | .error (k, va) => s.queueFault cx q { qu with todo := some (.take r) } true k va
  | .ok hk =>
    let h := s.qhead hk
    let slot := h.cons % 2 ^ h.log2n
    let note := qu.notes.get? slot
    let (id, s) := ((s.headTouched cx qu.header hk).setQ32 hk offCons (h.cons + 1)).newId
    let s := s.setQueue cx q { qu with notes := qu.notes.erase slot, fault := none, todo := none, last := some id }
    let l : Launch :=
      { cx := launchCx cx note, queue := q, index := h.cons, qcx := cx, prev := qu.last, die := qu.die, record := r
        issuer := note, nextGang := 0, retired := 0, fault := none, doneFailed := false, draw := none }
    some { s with launches := s.launches.set id l }

/-- A read record with its roles: it is taken, or can never fit. -/
def State.admitHead (s : State) (cx : CtxId) (q : Nat) (qu : Queue) (h : QHead) (r : LaunchRec) : Option State :=
  let note := qu.notes.get? (h.cons % 2 ^ h.log2n)
  if (r.chip && s.chipBytes (launchCx cx note) qu.die == 0) || (r.coresident && !s.couldFit r (s.partOf cx) qu.die note) then
    s.failHead cx q qu 2
  else s.takeHead cx q qu r

/-- An access of the dispatcher to a queue or what it names reads its slices: the bytes, once no channel bars it (14 R396). -/
def State.queueRead (s : State) (cx : CtxId) (q : Nat) (qu : Queue) (va : Nat) (keys : List Nat)
    (f : State → List Byte → Option State) : Option State :=
  s.gate (.queue cx q) (s.keysChans false keys) fun s =>
    let s := (s.walkedDie qu.die cx va).touch cx.vd 0 keys
    f s (keys.map s.readKey)

/-- The record at CONS is read and checked, with its role table. -/
def State.readHead (s : State) (cx : CtxId) (q : Nat) (qu : Queue) (h : QHead) : Option State :=
  match s.span cx (h.slotVa h.cons) 128 false with
  | .error (k, va) => s.queueFault cx q qu false k va
  | .ok keys => s.queueRead cx q qu (h.slotVa h.cons) keys fun s bs =>
    match parseRecord bs with
    | none => s.failHead cx q qu 1
    | some (r, tab) =>
      if tab.count == 0 then s.admitHead cx q qu h r else
      match s.span cx tab.addr (16 * tab.count) false with
      | .error (k, va) => s.queueFault cx q qu false k va
      | .ok ks => s.queueRead cx q qu tab.addr ks fun s bs =>
        match parseRoles r bs tab.count with
        | none => s.failHead cx q qu 1
        | some l => s.admitHead cx q qu h { r with roles := l }

/-- The record at CONS is a LAUNCH whose record the dispatcher could not post now: it holds one for that core (01 R29). -/
def State.issuerHeld (s : State) (qu : Queue) (h : QHead) : Bool :=
  (qu.notes.get? (h.cons % 2 ^ h.log2n)).any fun i => (s.coreOf i.core).holdsFor 1 qu.die

/-- The launch at the head of a queue, while gangs of it are not placed. -/
def State.headOf (s : State) (cx : CtxId) (q : Nat) : Option (Nat × Launch) :=
  s.launches.find? fun x => x.2.qcx == cx && x.2.queue == q && x.2.draw.isNone && x.2.nextGang < x.2.record.gangs

def execLaunchRecordRead (cx : CtxId) (queue : Nat) (s : State) : Outcome State Fault Refusal :=
  enabled s <| match s.queue? cx queue with
    | some qu =>
      if qu.passed || qu.fault.isSome || (s.headOf cx queue).isSome then none else
      match s.span cx qu.header 64 false with
      | .error (k, va) => s.queueFault cx queue qu true k va
      | .ok hk => s.gate (.queue cx queue) (s.headChans cx qu.header hk) fun s =>
        let h := s.qhead hk
        match qu.todo with
        | some (.fail fstat) => s.failHead cx queue qu fstat
        | some (.take r) => s.takeHead cx queue qu r
        | none =>
          if !h.enabled || h.fstat != 0 || h.waiting == 0 || s.issuerHeld qu h then none
          else ((s.walkedDie qu.die cx qu.header).touch cx.vd 0 hk).readHead cx queue qu h
    | none => none

/-! Choosing places (R87, R88; 09 R270). -/

/-- The first element with the least value. -/
def leastBy {α : Type} (f : α → Nat) : List α → Option α
  | [] => none
  | x :: r => some (r.foldl (fun a b => if f b < f a then b else a) x)

/-- The sets of cores of a cluster that a gang of a size takes. -/
def coreSets (size c : Nat) : List (List Nat) :=
  match size with
  | 1 => [[4 * c], [4 * c + 1], [4 * c + 2], [4 * c + 3]]
  | 2 => [[4 * c, 4 * c + 1], [4 * c + 2, 4 * c + 3]]
  | _ => [[4 * c, 4 * c + 1, 4 * c + 2, 4 * c + 3]]

/-- A cluster island that is gated runs nothing (01 R32). -/
def State.gatedCluster (s : State) (c : Nat) : Bool := s.islands.get .full c == .gated

/-- Clusters on which a launch's gangs may stand. -/
def State.launchClusters (s : State) (l : Launch) : List Nat :=
  (s.dieClusters (s.partOf l.cx) l.die).filter fun c => !s.gatedCluster c

/-- A set of cores can take a gang of the launch now. -/
def State.setFits (s : State) (l : Launch) (set : List Nat) : Bool :=
  (match l.issuer.filter (·.near) with | some i => set.contains i.core | none => true) &&
  set.all (s.coreFits l.record (l.record.teams * l.record.threads * l.record.regs))

def State.gangsIn (s : State) (c : Nat) : Nat := (s.gangs.filter fun x => x.2.resident && x.2.cores.any fun k => coreCluster k == c).length

def State.teamsOn (s : State) (set : List Nat) : Nat := (set.map fun k => 16 - (s.freeSlots k).length).sum

/-- The cores that the launch's next gang takes: the cluster with the fewest resident gangs, then the set with the fewest teams. -/
def State.chooseCores (s : State) (l : Launch) : Option (List Nat) :=
  let sets (c : Nat) := (coreSets l.record.gang c).filter (s.setFits l)
  (leastBy s.gangsIn ((s.launchClusters l).filter fun c => !(sets c).isEmpty)).bind fun c => leastBy s.teamsOn (sets c)

/-- The lowest place for an allotment. -/
def Core.firstRoom (c : Core) (n : Nat) : Nat := ((List.range 161).find? fun b => c.roomAt b n).getD 0

/-- The next gang of a launch is placed, at these bases or, where none are given, at the lowest. -/
def State.placeNext (s : State) (id : Nat) (bases : Option (List Nat)) : Option State :=
  match s.launch? id with
  | none => none
  | some l => (s.chooseCores l).bind fun cores =>
    let bs := bases.getD (cores.map fun k => (s.coreOf k).firstRoom l.record.units)
    if s.placesOk l.record cores bs then some (s.placeNew id cores bs) else none

/-- n gangs one after another. -/
def State.placeMany (s : State) (id size : Nat) : Nat → Option (List Nat) → Option State
  | 0, _ => some s
  | n + 1, bs => match s.placeNext id (bs.map (·.take size)) with
    | some s => State.placeMany s id size n (bs.map (·.drop size))
    | none => none

/-- A launch that waits to be placed whole, and so holds its partition's clusters on its die (R88). -/
def Launch.holds (l : Launch) : Bool := l.record.coresident && l.draw.isNone && l.nextGang == 0

/-- The launches that hold the clusters on which a launch's gangs would stand. -/
def State.holders (s : State) (l : Launch) : Tbl Launch :=
  s.launches.filter fun x => x.2.holds && x.2.die == l.die && s.partOf x.2.cx == s.partOf l.cx

/-- The clusters are held for a co-resident launch against this one (R88). Of two that hold, the one read first is placed first
(log 79). -/
def State.heldFor (s : State) (id : Nat) (l : Launch) : Bool :=
  l.record.prio < 3 && (s.holders l).any fun x => x.1 != id && (!l.holds || x.1 < id)

/-- A saved gang of the same or a higher class waits to be restored on the die (R91). While a launch holds the clusters, only class 3
is restored there, so that it waits for no other (log 79). -/
def State.savedFirst (s : State) (l : Launch) : Bool :=
  s.gangs.any fun x => !x.2.resident && match s.launch? x.2.launch with
    | some y => y.die == l.die && s.partOf y.cx == s.partOf l.cx && l.record.prio ≤ y.record.prio &&
        (!l.holds || y.record.prio == 3)
    | none => false

/-- FLAGS.after: the previous launch of the queue has not retired. -/
def State.afterWaits (s : State) (l : Launch) : Bool := l.record.after && l.prev.any fun p => (s.launch? p).isSome

/-- The launch may place now, room aside. -/
def State.mayPlace (s : State) (id : Nat) (l : Launch) : Bool :=
  l.fault.isNone && !s.afterWaits l && !(l.record.chip && s.chipBytes l.cx l.die == 0) && !s.heldFor id l && !s.savedFirst l

/-- A queue head that can be placed now. -/
def State.placeable (s : State) (id : Nat) (l : Launch) : Bool :=
  l.draw.isNone && l.nextGang < l.record.gangs && s.mayPlace id l &&
  if l.record.coresident then (s.placeMany id l.record.gang l.record.gangs none).isSome else (s.chooseCores l).isSome

/-- Of a virtual device's heads, the highest class; then the next queue after the one served last. -/
def pickHead (last : Nat) (l : List (Nat × Launch)) : Option (Nat × Launch) :=
  leastBy (fun x => 16 * (3 - x.2.record.prio) + (x.2.queue + 15 - last) % 16) l

/-- The dispatcher's choice among heads under its KIND 11 arbiter, and the state after the grant. -/
def State.dispatchPick (s : State) (die : Nat) (heads : List (Nat × Launch)) : Option (Nat × Launch × State) :=
  let best (vd : Nat) := pickHead (s.served.get 15 (128 * die + vd)) (heads.filter fun x => x.2.cx.vd == vd)
  let reqs : List ArbReq := ((heads.map fun x => x.2.cx.vd).dedup).filterMap fun v =>
    (best v).map fun x => { vd := v, slot := none, cost := x.2.record.gang }
  match (s.arb ⟨11, die⟩).grant 11 reqs with
  | (a, some (r, _)) => (best r.vd).map fun x => (x.1, x.2, s.setArb ⟨11, die⟩ a)
  | (_, none) => none

def State.noteServed (s : State) (l : Launch) : State := { s with served := s.served.set (128 * l.die + l.cx.vd) l.queue }

/-- The queue head that the dispatcher of a die serves next. -/
def State.nextHead (s : State) (die : Nat) : Option (Nat × Launch × State) :=
  s.dispatchPick die (s.launches.filter fun x => x.2.die == die && s.placeable x.1 x.2)

def execGangPlace (die : Nat) (bases : List Nat) (s : State) : Outcome State Fault Refusal :=
  enabled s <| match s.nextHead die with
    | some (id, l, s) => if l.record.coresident then none else (s.placeNext id (some bases)).map fun s => s.noteServed l
    | none => none

/-- Every gang of a co-resident launch is placed in one step (R88). -/
def execCoresidentPlace (cx : CtxId) (queue : Nat) (bases : List Nat) (s : State) : Outcome State Fault Refusal :=
  enabled s <| match s.headOf cx queue with
    | some (id, l) => match s.nextHead l.die with
      | some (id', _, s) =>
        if id' != id || !l.record.coresident then none
        else (s.placeMany id l.record.gang l.record.gangs (some bases)).map fun s => s.noteServed l
      | none => none
    | none => none

/-! Retiring (07 R206, R225; 01 R24, 02 R37). -/

/-- A team's operations have ended but for stores. -/
def Team.onlyStores (t : Team) : Bool := t.pend.all Pend.isStore

/-- A team whose threads have all exited retires: flags zero, stores performed, every Leave made; its units, walk and hit queue end
with it. A ring slot that a fetch of its walk still fills is free once that has completed (10 R309). -/
def execTeamRetire (core slot : Nat) (s : State) : Outcome State Fault Refusal :=
  enabled s <| match s.team? core slot with
    | some t =>
      if t.leaving.isNone || !t.cohorts.isEmpty || !t.flagsZero 0xFFF || !t.onlyStores || t.stops.fault || s.stuck t.pend then none
      else
        let s := ((s.drainTeam core slot).walkEnd core slot).mxRelease core slot
        some { s with teams := s.teams.erase (teamKey core slot) }
    | none => none

/-- An operation keeps a gang from retiring: it names one of its barriers (07 R206), or it runs for a team of it. -/
def EngOp.keepsGang (o : EngOp) (id : Nat) : Bool :=
  (o.bar.any fun b => b.1 == id) || ((!o.byCtl || o.work.isFetch) && o.gang == id)

/-- Nothing of a gang is left on its cores or in the engines. -/
def State.gangDone (s : State) (id : Nat) (g : Gang) : Bool :=
  g.resident && !(s.teams.any fun x => x.2.gang == id) && (g.tx.all fun x => x.2.isEmpty) &&
  !(s.ops.any fun x => x.2.keepsGang id) &&
  !(s.sigs.any fun x => x.gang == id)

/-- The gang's allotments end, and it is gone with its scratchpad. -/
def State.dropGang (s : State) (id : Nat) (g : Gang) : State :=
  let s := g.cores.foldl (fun s k => s.setCore k ((s.coreOf k).release id)) s
  { s with
    gangs := s.gangs.erase id
    mem := s.mem.filter fun c => !((List.range g.size).any fun m => scratchKey id m 0 ≤ c.1 && c.1 < scratchKey id m (2 ^ 44)) }

/-! Completing a launch (R86, R450; 09 R271). -/

/-- The channels that a launch's last stores reach: DONEADDR, and its queue's header. -/
def State.doneChans (s : State) (l : Launch) : List Nat :=
  let at' (va n : Nat) := match s.span l.qcx va n true with
    | .ok keys => s.headChans l.qcx va keys
    | .error _ => []
  (if l.record.doneAddr == 0 then [] else at' l.record.doneAddr 8) ++
    match s.queue? l.qcx l.queue with
    | some qu => at' qu.header 64
    | none => []

/-- The DONEADDR store, an access of the queue's context (R450): a fault waits at Renweaz. None while the fault queue holds it
up. -/
def State.storeDone (s : State) (id : Nat) (l : Launch) : Option (Bool × State) :=
  if l.record.doneAddr == 0 then some (true, s) else
  match s.span l.qcx l.record.doneAddr 8 true with
  | .error (k, va) => (s.dispFault l.die l.qcx k va (.launch id)).map fun x =>
      (false, { x.2 with launches := x.2.launches.set id { l with fault := some x.1 } })
  | .ok keys =>
    some (true, (s.walkedDie l.die l.qcx l.record.doneAddr).engineWrite l.qcx.vd keys (leBytes 8 l.record.doneVal.toNat)
      (s.throughAt l.qcx .g l.record.doneAddr))

/-- The launch's record or notice, and its end. -/
def State.endLaunch (s : State) (id : Nat) (l : Launch) : State :=
  let s := { s with launches := s.launches.erase id }
  match l.issuer with
  | some i => s.launchRecord i l.die l.index (if l.doneFailed then 2 else 0) 0
  | none => if l.doneFailed then s.postNotice (l.qcx.vd + 1) noticeDone [l.queue, l.index] else s

/-- RETIRED is incremented, and the launch ends. -/
def State.countRetired (s : State) (id : Nat) (l : Launch) : Option State :=
  match s.queue? l.qcx l.queue with
  | none => some (s.endLaunch id l)
  | some qu => match s.span l.qcx qu.header 64 true with
    | .error (k, va) => (s.dispFault l.die l.qcx k va (.launch id)).map fun x =>
        { x.2 with launches := x.2.launches.set id { l with fault := some x.1, record := { l.record with doneAddr := 0 } } }
    | .ok hk => some (((s.headTouched l.qcx qu.header hk).setQ32 hk offRetired ((s.qhead hk).retired + 1)).endLaunch id l)

/-- The last gang has retired: DONEVAL, RETIRED, the LAUNCH record, in this order. -/
def State.completeLaunch (s : State) (id : Nat) (l : Launch) : Option State :=
  match s.storeDone id l with
  | some (true, s) => s.countRetired id l
  | some (false, s) => some s
  | none => none

/-- A retired pixel team leaves its DRAW (15 R420). -/
def RasterWork.teamGone (gang : Nat) (w : RasterWork) : RasterWork :=
  match w with
  | .draw va n st (some r) =>
    let live : List PixelRec := r.live.map fun (p : PixelRec) => if p.gang == some gang then { p with gang := none } else p
    .draw va n st (some { r with live := live.filter fun p => p.gang.isSome || p.packet.isSome })
  | w => w

def State.pixelGone (s : State) (gang : Nat) : State :=
  { s with rcmds := s.rcmds.map fun (x : Nat × RasterCmd) => (x.1, { x.2 with work := x.2.work.teamGone gang }) }

/-- A gang retires. -/
def State.retireGang (s : State) (id : Nat) (g : Gang) : Option State :=
  let s := s.dropGang id g
  match s.launch? g.launch with
  | none => some s
  | some l =>
    let l := { l with retired := l.retired + 1 }
    let s := { s with launches := s.launches.set g.launch l }
    if l.draw.isSome then some (s.pixelGone id)
    else if l.retired == l.record.gangs then s.completeLaunch g.launch l
    else some s

/-- The channels that a gang's retirement reaches: those of its launch's completion, where it is the last. -/
def State.retireChans (s : State) (g : Gang) : List Nat :=
  match s.launch? g.launch with
  | some l => if l.draw.isNone && l.retired + 1 == l.record.gangs then s.doneChans l else []
  | none => []

def execGangRetire (gang : Nat) (s : State) : Outcome State Fault Refusal :=
  enabled s <| match s.gang? gang with
    | some g =>
      if s.gangDone gang g then s.gate (.work g.launch) (s.retireChans g) fun s => s.retireGang gang g else none
    | none => none

/-! Resolving faults (02 R49, 03 R450). -/

/-- The stores of a launch that waited on a record are made again, once no channel bars them. -/
def State.completeAgain (s : State) (id : Nat) (l : Launch) : Option State :=
  s.gate (.work id) (s.doneChans l) fun s => { s with launches := s.launches.set id l }.completeLaunch id l

/-- Renweaz mends a mapping, and the waiter replays; a launch's stores are made again at once. -/
def execFaultMend (rec : Nat) (ptes : List (Nat × Nat)) (s : State) : Outcome State Fault Refusal :=
  enabled s <| match s.faults.get? rec with
    | some f => match f.who with
      | .raster _ _ => none
      | .launch id => (s.mend rec f ptes).bind fun s' => match s'.launch? id with
        | some l =>
          if (s'.doneChans l).any (s'.barred (some (.work id))) then s.deferAs (.work id) (s'.doneChans l)
          else s'.completeAgain id { l with fault := none }
        | none => some s'
      | _ => s.mend rec f ptes
    | none => none

/-- The queue is passed over, with a notice. -/
def State.passQueue (s : State) (cx : CtxId) (q : Nat) : State :=
  match s.queue? cx q with
  | some qu => (s.setQueue cx q { qu with passed := true, fault := none, todo := none }).postNotice (cx.vd + 1) noticeQueue [q]
  | none => s

/-- Renweaz does not mend a fault of the dispatcher: the queue is passed over, or takes FSTAT 3, or the store is dropped. -/
def execDispatchFaultResolve (rec : Nat) (s : State) : Outcome State Fault Refusal :=
  enabled s <| match s.faults.get? rec with
    | some f =>
      let s := s.dropFault rec
      match f.who with
      | .queue cx q true => some (s.passQueue cx q)
      | .queue cx q false => (s.queue? cx q).bind fun qu => s.failHead cx q { qu with fault := none } 3
      | .launch id => match s.launch? id with
        | some l =>
          if l.record.doneAddr == 0 then some ((s.passQueue l.qcx l.queue).endLaunch id { l with fault := none })
          else s.countRetired id { l with fault := none, doneFailed := true, record := { l.record with doneAddr := 0 } }
        | none => some s
      | _ => none
    | none => none

end Sys2Proof.Machine
end

