-- ==== Sys2Proof/Machine/Preempt.lean ====
section
/-! DEFINITION. Gang pre-emption and restore, the frame class, and the progress watchdog (01 R30; 03 R89 to R93; 08 R251, 10 R308,
11 R324, 13 R385). -/

namespace Sys2Proof.Machine

open Sys2Proof Host

/-! Saving (R91, R92). -/

/-- An operation that a saved team may hold: a waiting MRECV or HITR.w, or a store, which completes on its own. -/
def Pend.maySave (p : Pend) : Bool :=
  p.isStore || match p.work with
    | .mrecv .. => true
    | .hitr _ _ _ _ wait => wait
    | _ => false

def OpWork.committed (w : OpWork) : Bool :=
  match w with
  | .copy _ _ c => c
  | _ => false

/-- What the dispatcher waits for has ended: results on their way, and an ACCUM in its commit phase. -/
def State.saveReady (s : State) (gang : Nat) : Bool :=
  (s.teams.all fun x => x.2.gang != gang || (x.2.pend.all Pend.maySave && !s.stuck x.2.pend)) &&
  !(s.ops.any fun x => !x.2.byCtl && x.2.gang == gang && x.2.work.committed)

/-- A wait as it is saved: a sleep by what is left of it. -/
def Wait.save (w : Wait) (clk : Nat) : Wait :=
  match w with
  | .sleep til => .sleep (til - clk)
  | w => w

def Wait.load (w : Wait) (clk : Nat) : Wait :=
  match w with
  | .sleep left => .sleep (left + clk)
  | w => w

def Team.mapWaits (t : Team) (f : Wait → Wait) : Team :=
  { t with splits := t.splits.map fun (x : Nat × Split) => (x.1, { x.2 with wait := f x.2.wait }) }

/-- A ROLE growth starts its wait again after a restore (07 R232). -/
def Team.ungrow (t : Team) : Team :=
  { t with pendingRole := t.pendingRole.map fun x => (x.1, 0), savedRole := t.savedRole.map fun x => (x.1, 0) }

/-- One team is saved with its units. -/
def State.saveTeam (s : State) (gang core slot : Nat) : State :=
  let s := (s.drainTeam core slot).walkAbandon core slot
  match s.team? core slot, s.gang? gang with
  | some t, some g =>
    let (mx, s) := s.mxSave core slot gang t.index
    let c := s.coreOf core
    let s := s.setCore core { c with dqWait := c.dqWait.filter fun x => x.1 != slot }
    let t := (t.mapWaits fun w => w.save c.clk).ungrow
    { s with teams := s.teams.erase (teamKey core slot) }.setGang gang
      { g with saved := g.saved ++ [t], savedMx := g.savedMx ++ [mx] }
  | _, _ => s

/-- The gang's copy requests that run are abandoned: their destinations are undefined until they have run again (02 R50). -/
def State.abandonCopies (s : State) (gang : Nat) : State :=
  (s.ops.filter fun x => x.2.gang == gang && !x.2.byCtl && x.2.registered && x.2.work.isCopy).foldl (fun s x =>
    match x.2.work with
    | .copy r _ _ => s.scribble (s.copyReached x.2.reach r)
    | _ => s) s

/-- A gang is saved, and its cores are free. -/
def State.saveGang (s : State) (gang : Nat) (g : Gang) : State :=
  let slots := (s.teams.filter fun x => x.2.gang == gang).map (·.1)
  let s := s.abandonCopies gang
  let s := slots.foldl (fun s k => s.saveTeam gang (k / 16) (k % 16)) s
  let s := g.cores.foldl (fun s k => s.setCore k ((s.coreOf k).release gang)) s
  match s.gang? gang with
  | some g => s.setGang gang { g with resident := false, cores := [], bases := [], savedAt := s.ns, toSave := false }
  | none => s

/-- The gangs that move together with one: all of a co-resident launch (R88), else it alone. -/
def State.together (s : State) (gang : Nat) (g : Gang) (resident : Bool) : List (Nat × Gang) :=
  match s.launch? g.launch with
  | some l =>
    if l.record.coresident && l.draw.isNone then s.gangs.filter fun x => x.2.launch == g.launch && x.2.resident == resident
    else [(gang, g)]
  | none => [(gang, g)]

/-- A resident gang is saved now, with those that move with it; none where one is not ready. -/
def State.preemptNow (s : State) (gang : Nat) (g : Gang) : Option State :=
  let l := s.together gang g true
  if g.resident && l.all fun x => s.saveReady x.1 then some (l.foldl (fun s x => s.saveGang x.1 x.2) s) else none

/-- Gangs chosen for pre-emption issue nothing more (08 R244). None where they have been chosen before. -/
def State.chooseToSave (s : State) (l : Tbl Gang) : Option State :=
  if l.all fun x => x.2.toSave then none
  else some (l.foldl (fun s x => s.setGang x.1 { x.2 with toSave := true }) s)

/-- A resident gang is pre-empted: saved where it is ready, with those that move with it, else chosen to be. -/
def State.preempt (s : State) (gang : Nat) (g : Gang) : Option State :=
  match s.preemptNow gang g with
  | some s => some s
  | none => if g.resident then s.chooseToSave (s.together gang g true) else none

def execGangPreempt (gang : Nat) (s : State) : Outcome State Fault Refusal :=
  enabled s <| (s.gang? gang).bind (s.preempt gang)

/-! Restore (R91, 09 R270). -/

/-- The saved teams of a member. -/
def Gang.savedOf (g : Gang) (m : Nat) : List Team := g.saved.filter fun t => t.member == m

/-- A team's copy requests, registered or not. -/
def State.copiesOf (s : State) (gang : Nat) (ts : List Team) (registered : Bool) : Nat :=
  (s.ops.filter fun x => x.2.work.isCopy && !x.2.byCtl && x.2.gang == gang && x.2.registered == registered &&
    ts.any fun t => t.index == x.2.index).length

/-- The copy engine of a core has room for the requests of saved teams (11 R315, R316; log 76). -/
def State.copyRoom (s : State) (gang core : Nat) (ts : List Team) : Bool :=
  s.copyQueued core + s.copiesOf gang ts false ≤ 64 && s.copiesRunning core + s.copiesOf gang ts true ≤ 8

/-- A core can take the saved teams of a member. -/
def State.coreTakes (s : State) (gang : Nat) (g : Gang) (units m core base : Nat) : Bool :=
  let ts := g.savedOf m
  ts.length ≤ (s.freeSlots core).length && s.regsUsed core + (ts.map fun t => t.threads * t.regs).sum ≤ coreRegs &&
  (s.coreOf core).roomAt base units && !s.growthWaits core && s.copyRoom gang core ts &&
  g.savedMx.all fun x => !(ts.any fun t => t.index == x.index) || s.mxRoom core x

/-- The cores are a place for gangs of the launch. -/
def State.restorable (s : State) (l : Launch) (cores : List Nat) : Bool :=
  (s.launchClusters l).any (fun c => (coreSets l.record.gang c).contains cores) &&
  match l.issuer.filter (·.near) with
  | some i => cores.contains i.core
  | none => true

/-- The lowest free slot takes a saved team. -/
def State.reseat (s : State) (core : Nat) (g : Gang) : List Team → State
  | [] => s
  | t :: ts =>
    match s.freeSlots core with
    | slot :: _ =>
      let clk := (s.coreOf core).clk
      let t := { t.mapWaits (fun w => w.load clk) with lastIssue := s.ns, lastClk := clk }
      let waits := (t.splits.filter fun x => x.2.wait == .dqpop).map fun x => (slot, x.1)
      let c := s.coreOf core
      let s := ((s.setCore core { c with dqWait := c.dqWait ++ waits }).sync core).setTeam core slot t
      let s := match g.savedMx.find? fun x => x.index == t.index with
        | some x => s.mxRestore core slot t x
        | none => s
      let rays := s.rays.map fun (x : Nat × Ray) =>
        (x.1, if x.2.gang == t.gang && x.2.index == t.index then
          { x.2 with core := core, slot := slot, began := x.2.began + (s.ns - g.savedAt) } else x.2)
      let ops := s.ops.map fun (x : Nat × EngOp) =>
        (x.1, if x.2.gang == t.gang && x.2.index == t.index && (!x.2.byCtl || x.2.work.isFetch) then
          { x.2 with core := core, slot := slot, began := x.2.began + (s.ns - g.savedAt) } else x.2)
      State.reseat { s with rays := rays, ops := ops } core g ts
    | [] => s

/-- The members of a gang come back, core by core; none where one does not fit. -/
def State.restoreCores (s : State) (gang : Nat) (g : Gang) (units : Nat) : Nat → List (Nat × Nat) → Option State
  | _, [] => some s
  | m, (core, base) :: rest =>
    if !s.coreTakes gang g units m core base then none else
    let s := s.setCore core ((s.coreOf core).allotTo gang base units fun c => Config.freeBool (s.freeIx c))
    State.restoreCores (s.reseat core g (g.savedOf m)) gang g units (m + 1) rest

def State.restoreGang (s : State) (gang : Nat) (g : Gang) (l : Launch) (cores bases : List Nat) : Option State :=
  if cores.length != g.size || bases.length != g.size || !s.restorable l cores then none else
  (s.restoreCores gang g l.record.units 0 (cores.zip bases)).map fun s =>
    s.setGang gang { g with resident := true, cores := cores, bases := bases, saved := [], savedMx := [] }

/-- Gangs restored one after another, each with its cores and bases. -/
def State.restoreAll (s : State) (l : Launch) : List (Nat × Gang) → List Nat → List Nat → Option State
  | [], _, _ => some s
  | (id, g) :: rest, cores, bases =>
    match s.restoreGang id g l (cores.take g.size) (bases.take g.size) with
    | some s => State.restoreAll s l rest (cores.drop g.size) (bases.drop g.size)
    | none => none

/-- The clusters are held for a launch against restores of classes 0 to 2 (R88). -/
def State.restoreHeld (s : State) (l : Launch) : Bool := l.record.prio < 3 && !(s.holders l).isEmpty

/-- A saved gang is restored; a co-resident launch comes back whole, with the lists of cores and bases of its gangs in order. -/
def execGangRestore (gang : Nat) (cores bases : List Nat) (s : State) : Outcome State Fault Refusal :=
  enabled s <| match s.gang? gang with
    | some g => match s.launch? g.launch with
      | some l =>
        if g.resident || s.restoreHeld l then none else s.restoreAll l (s.together gang g false) cores bases
      | none => none
    | none => none

/-! The frame class (R89, R90). -/

/-- A DRAW that has a covered tile to spawn, and the launch of its teams. -/
def RasterWork.spawns (w : RasterWork) : Option Nat :=
  match w with
  | .draw _ _ _ (some r) => if (r.tiles.getD []).isEmpty then none else some r.launch
  | _ => none

/-- The launch has a gang that waits unplaced; one that FLAGS.after holds back does not count (log 80). -/
def State.gangWaits (s : State) (id : Nat) (l : Launch) : Bool :=
  if l.draw.isSome then s.rcmds.any fun x => x.2.work.spawns == some id
  else l.nextGang < l.record.gangs && !s.afterWaits l

/-- A class-3 gang of a partition that waits unplaced, on a die if one is named. -/
def State.frameWaiting (s : State) (part : Nat) (die : Option Nat) : List (Nat × Launch) :=
  s.launches.filter fun x => x.2.record.prio == 3 && s.partOf x.2.cx == part && s.gangWaits x.1 x.2 &&
    (match die with | some d => x.2.die == d | none => true)

/-- A deadline of the PERIOD timer. -/
def execFrameDeadline (part : Nat) (s : State) : Outcome State Fault Refusal :=
  enabled s <| match s.parts.get? part with
    | some p => match s.frameHead p, p.deadline with
      | none, some d =>
        if s.ns < d then none else
        let missed := !(s.frameWaiting part none).isEmpty
        some { s with parts := s.parts.set part { p with
          deadline := some (d + frPeriod p.frctl)
          misses := if missed then p.misses + 1 else p.misses } }
      | _, _ => none
    | none => none

/-- Deadline pre-emption is on: EN is 1, and the next deadline is at most LEAD away. -/
def State.framePressed (s : State) (p : Part) : Bool :=
  p.frctl.getLsbD 63 && match s.nextDeadline p with
    | some d => (d - s.ns) / 1000 ≤ frLead p.frctl
    | none => false

/-- The next victim on a die: the lowest class, then the gang placed last; never class 3. -/
def State.victim (s : State) (part die : Nat) : Option (Nat × Gang) :=
  let l := s.gangs.filterMap fun x => match s.launch? x.2.launch with
    | some l => if x.2.resident && l.die == die && s.partOf l.cx == part && l.record.prio < 3 then some (l.record.prio, x) else none
    | none => none
  match l with
  | [] => none
  | a :: r => some (r.foldl (fun a b => if b.1 < a.1 || (b.1 == a.1 && a.2.2.placed < b.2.2.placed) then b else a) a).2

/-- Gangs of a launch that wait; of a DRAW, the team of the tile it has reached. -/
def Launch.waiting (l : Launch) : Nat := if l.draw.isSome then 1 else l.record.gangs - l.nextGang

/-- The waiting frame gangs of a die would all fit now. -/
def State.framesFit (s : State) (l : Tbl Launch) : Bool :=
  (l.foldl (fun (r : Option State) x => r.bind fun s => s.placeMany x.1 x.2.record.gang x.2.waiting none) (some s)).isSome

/-- The dispatcher pre-empts a victim while the waiting frame gangs do not all fit. -/
def execFramePreempt (part die : Nat) (s : State) : Outcome State Fault Refusal :=
  enabled s <| match s.parts.get? part with
    | some p =>
      if s.framePressed p && !s.framesFit (s.frameWaiting part (some die)) then
        (s.victim part die).bind fun x => s.preempt x.1 x.2
      else none
    | none => none

/-! The progress watchdog (R93, R264, R265). -/

def State.wdtOf (s : State) (cx : CtxId) : Nat :=
  match s.vds.get? cx.vd with
  | some v => v.wdt
  | none => 2000000000

/-- A firing goes to the core whose LAUNCH the gang came from and to Renweaz; to Renweaz alone where a host-fed queue held it. -/
def State.fireWatchdog (s : State) (l : Launch) (g : Gang) : State :=
  let r : EventRec := { tag := BitVec.ofNat 64 g.lin, src := 8, status := 6, unit := g.cores.headD 0, detail := 0 }
  match l.issuer with
  | some i => s.postFiring i.core i.cx r
  | none => s.tellRenweaz l.cx (s.stamped r)

/-- No team of the gang has issued for WDT; a debugger's stop counts as no progress (07 R220), but while the gang is held stopped by
context fault handling the watchdog is suspended (07 R217). -/
def execProgressWatchdog (gang : Nat) (s : State) : Outcome State Fault Refusal :=
  enabled s <| match s.gang? gang with
    | some g => match s.launch? g.launch with
      | some l =>
        let ts := s.teams.filter fun x => x.2.gang == gang
        let idle (at' : Nat) := at' + s.wdtOf l.cx ≤ s.ns
        if !g.resident || g.faultStop || ts.isEmpty || !idle g.lastFire || !(ts.all fun x => idle x.2.lastIssue) then none else
        some ((s.setGang gang { g with lastFire := s.ns }).fireWatchdog l g)
      | none => none
    | none => none

end Sys2Proof.Machine
end

