-- ==== Sys2Proof/Machine/Raster.lean ====
section
/-! DEFINITION. The raster engine: surfaces, coverage, raster state, and the issue of raster commands and of PXOUT
(15 R406 to R408, R417 to R419, R422, R426 to R431). -/

namespace Sys2Proof.Machine

open Sys2Proof Host

/-! Surfaces (R406 to R408). -/

/-- A surface record from its 64 bytes; none where it is bad. -/
def parseSurface (bs : List Byte) : Option Surface :=
  let f := field bs
  let r : Surface := { cbase := f 0 8, dbase := f 8 8, w := f 16 2, h := f 18 2, clearc := f 20 4, cmp := bitAt (f 24 1) 0 }
  if r.cbase % 256 == 0 && r.dbase % 256 == 0 && 1 ≤ r.w && r.w ≤ 16384 && 1 ≤ r.h && r.h ≤ 16384 &&
      f 24 1 < 2 && f 25 39 == 0 then some r
  else none

def Surface.tw (r : Surface) : Nat := ceilDiv r.w 8
def Surface.th (r : Surface) : Nat := ceilDiv r.h 8
def Surface.tiles (r : Surface) : Nat := r.tw * r.th

/-- Address of a tile of the colour surface, and of the depth surface. -/
def Surface.ctile (r : Surface) (tx ty : Nat) : Nat := r.cbase + 256 * (ty * r.tw + tx)
def Surface.dtile (r : Surface) (tx ty : Nat) : Nat := r.dbase + 256 * (ty * r.tw + tx)

/-- Every page of n bytes is mapped with this C, and lies in no sealed region. -/
def State.pagesAre (s : State) (cx : CtxId) (va n : Nat) (comp : Bool) : Bool :=
  (List.range ((va + n - 1) / 65536 + 1 - va / 65536)).all fun i =>
    let a := (va / 65536 + i) * 65536
    a < 2 ^ 48 && match s.translate cx a with
      | .ok l => l.comp == comp && !l.sealed && !s.sealedPA l.pa
      | .error _ => false

/-- The surface agrees with its pages (R408). -/
def State.surfaceOk (s : State) (cx : CtxId) (r : Surface) : Bool :=
  s.pagesAre cx r.cbase (256 * r.tiles) r.cmp && (r.dbase == 0 || s.pagesAre cx r.dbase (256 * r.tiles) false)

/-! Triangles (R418, R419). Coordinates are integers in units of 2^e, with e negative. -/

/-- A vertex: its position and its depth. -/
structure Vertex where
  x : W32
  y : W32
  z : W32

def Vertex.finite (v : Vertex) : Bool := f32Finite v.x && f32Finite v.y && f32Finite v.z

/-- The corners of a triangle from its 48 bytes: x, y and z of each. -/
def parseTriangle (bs : List Byte) : List W32 := [0, 4, 8, 16, 20, 24, 32, 36, 40].map (word32 bs)

def vertices (l : List W32) : List Vertex :=
  (List.range 3).map fun i => { x := l.getD (3 * i) 0, y := l.getD (3 * i + 1) 0, z := l.getD (3 * i + 2) 0 }

/-- A value as an integer in units of 2^e, for e at most its exponent. -/
def unitsOf2 (e : Int) (v : Val) : Int := v.mant * (pow2 (v.exp - e) : Nat)

/-- A triangle ready for coverage: the unit's exponent, the corners, and the area. -/
structure Tri where
  e : Int
  xs : List Int
  ys : List Int
  zs : List W32
  area : Int

def Tri.x (t : Tri) (i : Nat) : Int := t.xs.getD (i % 3) 0
def Tri.y (t : Tri) (i : Nat) : Int := t.ys.getD (i % 3) 0

/-- A triangle that is not discarded, under CULL. -/
def setupTri (cull : Nat) (l : List Vertex) : Option Tri :=
  if !(l.all Vertex.finite) then none else
  let vals := l.flatMap fun v => [w32Val v.x, w32Val v.y]
  let e : Int := vals.foldl (fun m v => min m v.exp) (-1)
  let t : Tri := { e := e, xs := l.map fun v => unitsOf2 e (w32Val v.x), ys := l.map fun v => unitsOf2 e (w32Val v.y)
                   zs := l.map fun v => v.z, area := 0 }
  let a := (t.x 1 - t.x 0) * (t.y 2 - t.y 0) - (t.x 2 - t.x 0) * (t.y 1 - t.y 0)
  if a == 0 || (cull == 1 && 0 < a) || (cull == 2 && a < 0) then none else some { t with area := a }

/-- A pixel centre in the unit: (2p + 1) · 2^(−e − 1). -/
def Tri.centre (t : Tri) (p : Nat) : Int := (2 * p + 1) * (pow2 (-t.e - 1) : Nat)

/-- Edge value i at a pixel centre. -/
def Tri.edge (t : Tri) (i : Nat) (qx qy : Int) : Int :=
  let (x1, y1) := (t.x (i + 1), t.y (i + 1))
  let (x2, y2) := (t.x (i + 2), t.y (i + 2))
  (x1 - qx) * (y2 - qy) - (x2 - qx) * (y1 - qy)

/-- Edge i is owned. -/
def Tri.owns (t : Tri) (i : Nat) : Bool :=
  let dx := t.area.sign * (t.x (i + 2) - t.x (i + 1))
  let dy := t.area.sign * (t.y (i + 2) - t.y (i + 1))
  0 < dy || (dy == 0 && dx < 0)

/-- The rectangle that a DRAW may cover: the surface, and the scissor where it is on. -/
def drawRect (r : Surface) (st : RasterState) : Nat × Nat × Nat × Nat :=
  if st.scissorOn then
    (bits st.scissor 15 0, bits st.scissor 31 16, min r.w (bits st.scissor 47 32), min r.h (bits st.scissor 63 48))
  else (0, 0, r.w, r.h)

/-- The triangle covers a pixel. -/
def Tri.covers (t : Tri) (rect : Nat × Nat × Nat × Nat) (x y : Nat) : Bool :=
  let (x0, y0, x1, y1) := rect
  x0 ≤ x && x < x1 && y0 ≤ y && y < y1 &&
  (List.range 3).all fun i =>
    let e := t.area.sign * t.edge i (t.centre x) (t.centre y)
    0 < e || (e == 0 && t.owns i)

/-- The covered threads of a tile. -/
def Tri.tileMask (t : Tri) (rect : Nat × Nat × Nat × Nat) (tx ty : Nat) : List Nat :=
  (List.range 64).filter fun i => t.covers rect (8 * tx + i % 8) (8 * ty + i / 8)

/-- Pixels that a span of coordinates in the unit can hold, cut to [lo, hi). -/
def Tri.pixels (t : Tri) (l : List Int) (lo hi : Nat) : Nat × Nat :=
  let one : Int := (pow2 (-t.e) : Nat)
  let a := l.foldl min (l.headD 0)
  let b := l.foldl max (l.headD 0)
  (max lo ((a / one).toNat), min hi ((b / one).toNat + 1))

/-- The tiles with a covered pixel, ty and then tx ascending (R420). -/
def Tri.tiles (t : Tri) (rect : Nat × Nat × Nat × Nat) : List (Nat × Nat) :=
  let (x0, y0, x1, y1) := rect
  let (ax, bx) := t.pixels t.xs x0 x1
  let (ay, by') := t.pixels t.ys y0 y1
  if bx ≤ ax || by' ≤ ay then [] else
  (List.range (ceilDiv by' 8 - ay / 8)).flatMap fun j => (List.range (ceilDiv bx 8 - ax / 8)).filterMap fun i =>
    let tx := ax / 8 + i
    let ty := ay / 8 + j
    if (t.tileMask rect tx ty).isEmpty then none else some (tx, ty)

/-- λ1, λ2 and z at a covered pixel (R419). -/
def Tri.attrs (t : Tri) (x y : Nat) : W32 × W32 × W32 :=
  let e (i : Nat) : Int := t.edge i (t.centre x) (t.centre y)
  let ratio (n : Int) : Frac := Frac.div { n := n, d := 1 } { n := t.area, d := 1 }
  let zs := t.zs.map w32Val
  let ez : Int := zs.foldl (fun m v => min m v.exp) 0
  let n : Int := ((zs.zipIdx).map fun v => e v.2 * unitsOf2 ez v.1).sum
  let z := ratio n
  ((ratio (e 1)).round, (ratio (e 2)).round, Frac.round { n := z.n * (pow2 ez : Nat), d := z.d * pow2 (-ez) })

/-! Commands (R429 to R431). -/

/-- DETAIL: a reason and a count. -/
def rasterDetail (reason count : Nat) : W32 := BitVec.ofNat 32 (2 ^ 8 * (count % 2 ^ 24) + reason)

/-- A command has finished. -/
def State.rasterDone (s : State) (id : Nat) (c : RasterCmd) (status : Nat) (tag : W64) (reason count : Nat) : State :=
  { s with rcmds := s.rcmds.set id { c with work := .done status tag (rasterDetail reason count) } }

/-- The records of finished commands that no earlier command of their core holds back. -/
def State.settleRaster (s : State) (core : Nat) : Nat → State
  | 0 => s
  | n + 1 => match s.rcmds.find? fun x => x.2.core == core with
    | some (id, c) => match c.work with
      | .done status tag detail =>
        State.settleRaster ({ s with rcmds := s.rcmds.erase id }.postEvent core c.cx
          { tag := tag, src := 7, status := status, unit := c.die, detail := detail }) core n
      | _ => s
    | none => s

def State.settleRasterOn (s : State) (core : Nat) : State := s.settleRaster core s.rcmds.length

/-- A command finishes, and its record is posted in its issuer's order. -/
def State.finishRaster (s : State) (id : Nat) (c : RasterCmd) (status : Nat) (tag : W64) (reason count : Nat) : State :=
  (s.rasterDone id c status tag reason count).settleRasterOn c.core

/-- A command of a control thread, under a name. -/
def rasterCmd (s : State) (si : CtlSite) (a : Nat) (work : RasterWork) : RasterCmd :=
  { die := coreDie si.core, core := si.core, cx := si.owner, tag := BitVec.ofNat 64 a, late := false, began := s.ns, work := work }

def State.enterRaster (s : State) (si : CtlSite) (a : Nat) (work : RasterWork) : State :=
  let (id, s) := s.newId
  { s with rcmds := s.rcmds.set id (rasterCmd s si a work) }.settleRasterOn si.core

/-- The raster state after one item is set; none where the item, its VALUE or its A is not allowed (R417). -/
def RasterState.write (r : RasterState) (item value : Nat) (k : Bool) (a : Nat) : Option RasterState :=
  match item with
  | 0 => if value == 0 && (!k || a % 64 == 0) then some { r with surf := a } else none
  | 1 => if value == 0 && (!k || a % 128 == 0) then some { r with pixk := a } else none
  | 2 => if value < 32 && !k then some { r with depth := value } else none
  | 3 => if value < 64 && value % 4 != 3 && !k then some { r with blend := value } else none
  | 4 => if value < 3 && !k then some { r with cull := value } else none
  | 5 => if value < 2 && k then some { r with scissor := a, scissorOn := value == 1 } else none
  | _ => none

def execRstate (w : Ins) (s : State) : Outcome State Fault Refusal :=
  issueCtl .rstate w s fun si =>
    let a := rdK s si.core w.a
    let imm := w.imm.toNat
    match si.ctl.raster.write (bits imm 31 28) (bits imm 27 0) w.a.isK a with
    | some r =>
      let s := s.onCtl si.core fun c => { c with raster := r }
      .done (s.enterRaster si a (.done 0 (BitVec.ofNat 64 a) 0))
    | none => .done (s.enterRaster si a (.done 3 (BitVec.ofNat 64 a) (rasterDetail 4 0)))

def execDraw (w : Ins) (s : State) : Outcome State Fault Refusal :=
  issueCtl .draw w s fun si =>
    let s := s.drainCtl si.core
    let a := rdK s si.core w.a
    .done (s.enterRaster si a (.draw a (rdK s si.core w.b) si.ctl.raster none))

def execRclear (w : Ins) (s : State) : Outcome State Fault Refusal :=
  issueCtl .rclear w s fun si =>
    if (!w.mb 49 && !w.mb 50) || (!w.mb 50 && w.b != .z) then .trap (.mk0 clsILLOP) else
    let s := s.drainCtl si.core
    let a := rdK s si.core w.a
    .done (s.enterRaster si a (.clear a (w.mb 49) (w.mb 50) (BitVec.ofNat 32 (rdK s si.core w.b)) none))

def execRsync (w : Ins) (s : State) : Outcome State Fault Refusal :=
  issueCtl .rsync w s fun si =>
    let s := s.drainCtl si.core
    let a := rdK s si.core w.a
    .done (s.enterRaster si a (.sync a (rdK s si.core w.b) none))

/-- The range that RRESOLVE locks: the colour range, under .unc whole pages (R427). -/
def resolveRange (r : Surface) (unc : Bool) : Range :=
  let n := 256 * r.tiles
  if unc then
    { space := .global, base := alignDown r.cbase 65536, len := alignUp (r.cbase + n) 65536 - alignDown r.cbase 65536, write := true }
  else { space := .global, base := r.cbase, len := n, write := true }

/-- A refusal at issue: its record keeps the issuer's order. -/
def refuseRaster (s : State) (si : CtlSite) (a reason : Nat) : CtlIssue :=
  .done (s.enterRaster si a (.done 3 (BitVec.ofNat 64 a) (rasterDetail reason 0)))

def execRresolve (w : Ins) (s : State) : Outcome State Fault Refusal :=
  issueCtl .rresolve w s fun si =>
    let s := s.drainCtl si.core
    let a := rdK s si.core w.a
    match s.ctlBytes si a 64 64 with
    | .error r => r
    | .ok (s, bs) => match parseSurface bs with
      | none => refuseRaster s si a 1
      | some r =>
        if !r.cmp then refuseRaster s si a 1
        else if !s.surfaceOk si.owner r then refuseRaster s si a 2
        else
          let (op, s) := s.enterOp (stackOp s si [resolveRange r (w.mb 49)] .resolve)
          let s := { s with rcmds := s.rcmds.set op (rasterCmd s si a (.resolve r (w.mb 49) 0 0)) }
          if s.opsSettled [op] then .done s else .wait s (.locks [op]) true

/-! PXOUT (R422). -/

/-- A packet joins its team's entry in its DRAW; one of a triangle that a fault left undrawn is dropped. -/
def RasterWork.addPacket (gang : Nat) (q : Packet) (w : RasterWork) : RasterWork :=
  match w with
  | .draw va n st (some r) =>
    let live : List PixelRec := r.live.map fun (p : PixelRec) =>
      if p.gang == some gang && !(r.ended.isSome && r.tri ≤ p.tri) then { p with packet := some q } else p
    .draw va n st (some { r with live := live })
  | w => w

/-- The fragments of the executing threads. -/
def fragmentsOf (s : State) (si : Site) (w : Ins) (t : Team) (px : PixelTeam) (e : TMask) : List Fragment :=
  (threadsOf t.threads e).map fun i =>
    { tid := i, colour := BitVec.ofNat 32 (rd32 s si.core t i w.a)
      depth := match w.b with
        | .v n => t.vreg i n
        | _ => px.depth.get 0 i
      passed := false }

/-- An access of the operation has not completed: it has no place in the order yet, or its reply has not come. -/
def Pend.unplaced (p : Pend) : Bool :=
  match p.work with
  | .mem .. | .remote .. => true
  | _ => false

/-- The team's accesses that have not completed. -/
def Team.unplaced (t : Team) : List Nat := (t.pend.filter Pend.unplaced).map (·.id)

/-- The team's store frames that are not acknowledged: peer and SEQ. -/
def State.unackedFrames (s : State) (who : OwnerRef) : List (Nat × Nat) :=
  s.streams.flatMap fun x => (x.2.unacked.filter fun f => f.kind == fkWrite && f.who == some who).map fun f => (x.1, f.seq)

/-- PXOUT completes at issue; the core holds the packet until the team's earlier accesses have completed. -/
def execPxout (w : Ins) (s : State) : Outcome State Fault Refusal :=
  issueTeam .pxout w s fun si e =>
    match si.team.pixel with
    | none => .trap ⟨clsPROT, 0, 0⟩
    | some px =>
      if px.sent then .trap ⟨clsPROT, 0, 0⟩
      else
        let (id, s) := s.newId
        let q : Packet :=
          { id := id, after := si.team.unplaced, frames := s.unackedFrames si.team.owner, frags := fragmentsOf s si w si.team px e }
        let s := s.updTeam si.core si.slot fun t => { t with pixel := some { px with sent := true } }
        .done { s with rcmds := s.rcmds.alter px.cmd fun (c : RasterCmd) =>
          { c with work := c.work.addPacket si.team.gang q } }

end Sys2Proof.Machine
end

