-- ==== Sys2Proof/Machine/RasterRun.lean ====
section
/-! DEFINITION. How a DRAW runs: its start, triangle set-up, pixel teams, merges, faults and completion (15 R418 to R425, R430
to R434). -/

namespace Sys2Proof.Machine

open Sys2Proof Host

/-! Accesses of the engine. -/

/-- Why an access of the engine does not go through: a failed translation or permission, or channels in bank mode, in whose deferred
queues it waits. -/
inductive RasterStop where
  | fault (kind va : Nat)
  | wait (who : Waiter) (chans : List Nat)
  deriving DecidableEq, Repr

/-- An access of the engine, which waits in a deferred queue as `who`: its keys, once no channel bars it. -/
def State.rasterKeys (s : State) (who : Waiter) (die : Nat) (cx : CtxId) (va n : Nat) (wr : Bool) :
    Except RasterStop (State × List Nat) :=
  match s.span cx va n wr with
  | .error (k, va) => .error (.fault k va)
  | .ok keys =>
    let chans := s.keysChans (wr && s.throughAt cx .g va) keys
    if chans.any (s.barred (some who)) then .error (.wait who chans)
    else .ok ((s.undefer who).walkedDie die cx va, keys)

/-- A read of the engine: the bytes. -/
def State.rasterRead (s : State) (who : Waiter) (die : Nat) (cx : CtxId) (va n : Nat) : Except RasterStop (State × List Byte) :=
  (s.rasterKeys who die cx va n false).map fun x => (x.1.touch cx.vd 0 x.2, x.2.map x.1.readKey)

/-- A write of the engine at keys from an address on. -/
def State.rasterWrite (s : State) (cx : CtxId) (va : Nat) (keys : List Nat) (bs : List Byte) : State :=
  s.engineWrite cx.vd keys bs (s.throughAt cx .g va)

/-- An access did not go through: the command waits on a fault record, or for the channels. -/
def State.rasterStop (s : State) (id : Nat) (c : RasterCmd) (e : RasterStop) : Option State :=
  match e with
  | .fault k va => (s.dispFault c.die c.cx k va (.raster c.die id)).map fun x => x.2
  | .wait who chans => s.deferAs who chans

/-- A fault record of the command waits at Renweaz. -/
def State.rasterWaits (s : State) (id : Nat) (c : RasterCmd) : Bool := s.faults.any fun x => x.2.who == .raster c.die id

def State.setRaster (s : State) (id : Nat) (c : RasterCmd) (w : RasterWork) : State :=
  { s with rcmds := s.rcmds.set id { c with work := w } }

/-- A command is refused as it begins. -/
def State.refuseRun (s : State) (id : Nat) (c : RasterCmd) (reason : Nat) : Option State :=
  some (s.finishRaster id c 3 c.tag reason 0)

/-! Starting (R420, R430, R431). -/

/-- The pixel launch record: GRIDX to GRIDZ and DONEADDR are ignored, and the grid is the surface's tiles. -/
def pixelRecord (r : Surface) (bs : List Byte) : Option LaunchRec :=
  let one := leBytes 4 1
  let bs := bs.take 16 ++ one ++ one ++ one ++ (bs.drop 28).take 60 ++ leBytes 8 0 ++ bs.drop 96
  match parseRecord bs with
  | some (l, tab) =>
    if l.threads == 64 && l.gang == 1 && l.teams == 1 && !l.coresident && tab.count == 0 then
      some { l with gx := r.tw, gy := r.th, gz := 1, after := false }
    else none
  | none => none

/-- No earlier command of the issuer holds a DRAW back, nor a held record (01 R29). -/
def State.mayBeginDraw (s : State) (id : Nat) (c : RasterCmd) : Bool :=
  !(s.coreOf c.core).holdsFor 7 c.die && !s.rcmds.any fun x => x.1 < id && x.2.core == c.core && match x.2.work with
    | .clear .. | .resolve .. | .sync .. => true
    | _ => false

/-- The DRAW passes to its next triangle. -/
def DrawRun.nextTri (r : DrawRun) : DrawRun := { r with tri := r.tri + 1, corners := [], tiles := none }

/-- A DRAW whose records are good starts: its launch stands for its pixel teams. -/
def State.startDraw (s : State) (id : Nat) (c : RasterCmd) (va n : Nat) (st : RasterState) (r : Surface) (l : LaunchRec) : State :=
  let (lid, s) := s.newId
  let launch : Launch :=
    { cx := c.cx, queue := 0, index := 0, qcx := c.cx, prev := none, die := c.die, record := l, issuer := none, nextGang := 0, retired := 0, fault := none
      doneFailed := false, draw := some id }
  let run : DrawRun :=
    { surf := r, launch := lid, tri := 0, corners := [], tiles := none, spawned := 0, live := [], fault := none, ended := none }
  { s with launches := s.launches.set lid launch }.setRaster id c (.draw va n st (some run))

/-- The kernel's part of the checks: the pixel launch record, clusters, triangle count and buffer. -/
def State.beginKernel (s : State) (id : Nat) (c : RasterCmd) (va n : Nat) (st : RasterState) (r : Surface) : Option State :=
  if st.pixk == 0 then s.refuseRun id c 3 else
  match s.rasterRead (.work id) c.die c.cx st.pixk 128 with
  | .error e => s.rasterStop id c e
  | .ok (s, bs) => match pixelRecord r bs with
    | none => s.refuseRun id c 3
    | some l =>
      if (s.dieClusters (s.partOf c.cx) c.die).isEmpty || (l.chip && s.chipBytes c.cx c.die == 0) then s.refuseRun id c 3
      else if n == 0 || 65536 < n || va % 16 != 0 then s.refuseRun id c 5
      else some (s.startDraw id c va n st r l)

/-- A DRAW begins: its records are read and checked, the surface first. -/
def State.beginDraw (s : State) (id : Nat) (c : RasterCmd) (va n : Nat) (st : RasterState) : Option State :=
  if st.surf == 0 then s.refuseRun id c 1 else
  match s.rasterRead (.work id) c.die c.cx st.surf 64 with
  | .error e => s.rasterStop id c e
  | .ok (s, bs) => match parseSurface bs with
    | none => s.refuseRun id c 1
    | some r =>
      if !s.surfaceOk c.cx r || (bitAt st.depth 3 && r.dbase == 0) then s.refuseRun id c 2
      else s.beginKernel id c va n st r

/-- The DRAW once the corners of its triangle have been read: a triangle without a covered tile is passed. -/
def DrawRun.setUp (r : DrawRun) (st : RasterState) : DrawRun :=
  match setupTri st.cull (vertices r.corners) with
  | some t =>
    let tiles := t.tiles (drawRect r.surf st)
    if tiles.isEmpty then r.nextTri else { r with tiles := some tiles }
  | none => r.nextTri

/-- The next vertex of the DRAW's triangle is read; with the third the triangle is set up. -/
def State.readVertex (s : State) (id : Nat) (c : RasterCmd) (va n : Nat) (st : RasterState) (r : DrawRun) : Option State :=
  match s.rasterRead (.work id) c.die c.cx (va + 48 * r.tri + 16 * (r.corners.length / 3)) 16 with
  | .error e => s.rasterStop id c e
  | .ok (s, bs) =>
    let r := { r with corners := r.corners ++ [0, 4, 8].map (word32 bs) }
    some (s.setRaster id c (.draw va n st (some (if r.corners.length < 9 then r else r.setUp st))))

/-- A DRAW goes on by one event that needs no pixel team: its start, or a vertex. None where nothing changes. -/
def State.advanceDraw (s : State) (id : Nat) : Option State :=
  match s.rcmds.get? id with
  | some c =>
    if s.rasterWaits id c then none else
    match c.work with
    | .draw va n st none => if s.mayBeginDraw id c then s.beginDraw id c va n st else none
    | .draw va n st (some r) =>
      if r.ended.isSome || r.tiles.isSome || n ≤ r.tri then none else s.readVertex id c va n st r
    | _ => none
  | none => none

/-! Pixel teams (R420, R421). -/

/-- A covered pixel's registers and depth: v0 to v4 of its thread. -/
def pixelRegs (t : Tri) (tx ty i : Nat) : List (Nat × W32) :=
  let x := 8 * tx + i % 8
  let y := 8 * ty + i / 8
  let (l1, l2, z) := t.attrs x y
  [(0, BitVec.ofNat 32 x), (1, BitVec.ofNat 32 y), (2, l1), (3, l2), (4, z)]

/-- The pixel team of a tile. -/
def pixelTeam (t : Tri) (l : LaunchRec) (rect : Nat × Nat × Nat × Nat) (cmd gang lin tri va tx ty : Nat) : Team :=
  let cov := t.tileMask rect tx ty
  let team := Team.fresh l gang lin 0 0 (maskOfList cov)
  let regs := cov.map fun i => (i, pixelRegs t tx ty i)
  let team := regs.foldl (fun (m : Team) x => x.2.foldl (fun (m : Team) y => m.setV x.1 y.1 y.2) m) team
  let half (x k : Nat) : W32 := BitVec.ofNat 32 (x / 2 ^ (32 * k))
  let a := va + 48 * tri
  let team := [(0, half tri 0), (2, half a 0), (3, half a 1), (4, half l.args 0), (5, half l.args 1)].foldl
    (fun (m : Team) (y : Nat × W32) => m.setS y.1 y.2) team
  { team with pixel := some { cmd := cmd, tri := tri, tx := tx, ty := ty, sent := false
                              depth := regs.map fun x => (x.1, (x.2.getD 4 (4, 0)).2) } }

/-- The DRAW behind the tile it has just spawned. -/
def DrawRun.spawn (r : DrawRun) (gang tx ty : Nat) (rest : List (Nat × Nat)) : DrawRun :=
  let p : PixelRec := { tri := r.tri, tx := tx, ty := ty, gang := some gang, packet := none }
  let r := { r with live := r.live ++ [p], spawned := r.spawned + 1 }
  if rest.isEmpty then r.nextTri else { r with tiles := some rest }

/-- One pixel team is placed as a gang of one core, its allotment at a base. -/
def State.placePixel (s : State) (id : Nat) (c : RasterCmd) (l : Launch) (base : Nat) : Option State :=
  match c.work with
  | .draw va n st (some r) => match r.tiles, setupTri st.cull (vertices r.corners), s.chooseCores l with
    | some ((tx, ty) :: rest), some t, some [core] =>
      if !s.placesOk l.record [core] [base] then none else
      let lin := ty * r.surf.tw + tx
      let (gid, s) := s.newId
      let s := s.setGang gid (Gang.fresh r.launch lin l.record [core] [base] gid)
      let s := { s with launches := s.launches.set r.launch { l with nextGang := l.nextGang + 1 } }
      let team := pixelTeam t l.record (drawRect r.surf st) id gid lin r.tri va tx ty
      let s := s.seatGang gid l.record.units (fun _ => [team]) 0 [(core, base)]
      some (s.setRaster id c (.draw va n st (some (r.spawn gid tx ty rest))))
    | _, _, _ => none
  | _ => none

def RasterWork.liveTeams (w : RasterWork) : Nat :=
  match w with
  | .draw _ _ _ (some r) => (r.live.filter fun p => p.gang.isSome).length
  | _ => 0

/-- Pixel teams of a die that are placed and not retired. -/
def State.pixelTeams (s : State) (die : Nat) : Nat :=
  ((s.rcmds.filter fun x => x.2.die == die).map fun x => x.2.work.liveTeams).sum

/-- Launches of DRAWs that have a team to place now. -/
def State.pixelHeads (s : State) (die : Nat) : List (Nat × Launch) :=
  s.launches.filter fun x => x.2.die == die && match x.2.draw with
    | some id => match s.rcmds.get? id with
      | some c => c.work.spawns == some x.1 && !s.rasterWaits id c && s.mayPlace x.1 x.2 && (s.chooseCores x.2).isSome
      | none => false
    | none => false

def State.drawsOf (s : State) (die : Nat) : List Nat := (s.rcmds.filter fun x => x.2.die == die).map (·.1)

/-- The dispatcher of the die places the next pixel team; where it can place none, its first DRAW that can goes on by one event. -/
def execPixelTeamSpawn (die base : Nat) (s : State) : Outcome State Fault Refusal :=
  enabled s <|
    let placed := if 4096 ≤ s.pixelTeams die then none else
      (s.dispatchPick die (s.pixelHeads die)).bind fun (_, l, s) =>
        l.draw.bind fun id => (s.rcmds.get? id).bind fun c => s.placePixel id c l base
    placed.orElse fun _ => (s.drawsOf die).findSome? s.advanceDraw

/-! The merge (R423 to R425). -/

/-- The memory that a tile lies in: its physical address, or where it is not mapped its context and address. -/
def State.tileName (s : State) (cx : CtxId) (va : Nat) : Nat × Nat :=
  match s.translate cx va with
  | .ok l => (0, l.pa)
  | .error _ => (1 + cxKey cx, va)

/-- Tiles that an entry's packet reaches: of colour, and of depth under the depth test. -/
def State.tilesOf (s : State) (cx : CtxId) (st : RasterState) (r : DrawRun) (p : PixelRec) : List (Nat × Nat) :=
  s.tileName cx (r.surf.ctile p.tx p.ty) :: if bitAt st.depth 3 then [s.tileName cx (r.surf.dtile p.tx p.ty)] else []

/-- A team of the gang, resident or saved, has not sent its packet. -/
def State.stillSends (s : State) (gang : Nat) : Bool :=
  let waits (t : Team) : Bool := match t.pixel with
    | some p => !p.sent
    | none => false
  (s.teams.any fun x => x.2.gang == gang && waits x.2) || match s.gang? gang with
    | some g => g.saved.any waits
    | none => false

/-- An entry whose packet is to be merged, or may still come, shares a tile. -/
def State.entryBlocks (s : State) (tiles : List (Nat × Nat)) (cx : CtxId) (st : RasterState) (r : DrawRun) (p : PixelRec) : Bool :=
  (p.packet.isSome || match p.gang with | some g => s.stillSends g | none => false) && (s.tilesOf cx st r p).any tiles.contains

/-- A range of a context holds the tile. -/
def State.holdsTile (s : State) (cx : CtxId) (base n : Nat) (t : Nat × Nat) : Bool :=
  (List.range ((base + n - 1) / 65536 + 1 - base / 65536)).any fun i =>
    let lo := max base ((base / 65536 + i) * 65536)
    let hi := min (base + n) ((base / 65536 + i + 1) * 65536)
    let x := s.tileName cx lo
    x.1 == t.1 && x.2 ≤ t.2 && t.2 < x.2 + (hi - lo)

/-- The surface that a DRAW writes holds the tile. -/
def State.surfaceHolds (s : State) (cx : CtxId) (st : RasterState) (r : Surface) (t : Nat × Nat) : Bool :=
  s.holdsTile cx r.cbase (256 * r.tiles) t || (bitAt st.depth 3 && s.holdsTile cx r.dbase (256 * r.tiles) t)

/-- An earlier DRAW may still merge into one of these tiles. -/
def State.drawBlocks (s : State) (tiles : List (Nat × Nat)) (c : RasterCmd) : Bool :=
  match c.work with
  | .draw _ _ _ none => true
  | .draw _ n st (some r) =>
    (r.ended.isNone && (r.tiles.isSome || r.tri < n) && tiles.any (s.surfaceHolds c.cx st r.surf)) ||
      r.live.any (s.entryBlocks tiles c.cx st r)
  | _ => false

/-- An earlier packet, in submission order, is still to be merged. Virtual devices share no memory. -/
def State.mergeWaits (s : State) (id : Nat) (c : RasterCmd) (st : RasterState) (r : DrawRun) (p : PixelRec) : Bool :=
  let tiles := s.tilesOf c.cx st r p
  (s.rcmds.any fun x => x.1 < id && x.2.die == c.die && x.2.cx.vd == c.cx.vd && s.drawBlocks tiles x.2) ||
  r.live.any fun q => q.tri < p.tri && s.entryBlocks tiles c.cx st r q

/-- The core still holds the packet: an access of its team from before it has not completed. A lost peer is not waited for. -/
def State.packetHeld (s : State) (q : Packet) : Bool :=
  let waits (t : Team) : Bool := t.unplaced.any q.after.contains
  (s.teams.any fun x => waits x.2) || (s.gangs.any fun g => g.2.saved.any waits) ||
  s.streams.any fun x => !x.2.lost && x.2.unacked.any fun f => q.frames.contains (x.1, f.seq)

/-- FUNC holds for (z, d). -/
def depthFunc (f : Nat) (z d : W32) : Bool :=
  let a := w32Val z
  let b := w32Val d
  let o := cmpVal a b
  f == 7 || (!a.isNaN && !b.isNaN && match f with
    | 1 => o == .lt
    | 2 => o == .eq
    | 3 => o != .gt
    | 4 => o == .gt
    | 5 => o != .eq
    | 6 => o != .lt
    | _ => false)

/-- One channel under MODE: source, stored value, source alpha. -/
def blendChan (mode : Nat) (isAlpha : Bool) (s t a : Nat) : Nat :=
  match mode with
  | 1 => if isAlpha then a + (t * (255 - a) + 127) / 255 else (s * a + t * (255 - a) + 127) / 255
  | 2 => min 255 (s + t)
  | _ => s

/-- A pixel's four bytes after a passing fragment. -/
def blendPixel (blend : Nat) (colour : W32) (old : List Byte) : List Byte :=
  let ch (x c : Nat) : Nat := bits x (8 * c + 7) (8 * c)
  (List.range 4).map fun c =>
    let t := (old.getD c 0).toNat
    if bitAt blend (2 + c) then BitVec.ofNat 8 t
    else BitVec.ofNat 8 (blendChan (blend % 4) (c == 3) (ch colour.toNat c) t (ch colour.toNat 3))

/-- Puts the four bytes of a pixel into a tile. -/
def putPixel (bs : List Byte) (i : Nat) (x : List Byte) : List Byte := bs.take (4 * i) ++ x ++ bs.drop (4 * i + 4)

/-- The fragment lies in the crumb at a place of its tile. -/
def Fragment.inCrumb (f : Fragment) (place : Nat) : Bool := f.tid / 16 == place % 4

/-- One fragment at a crumb, after the depth test of a depth crumb or the update of a colour crumb: the crumb's bytes, and the fragment
where its merge has more to do. -/
def mergeFragment (st : RasterState) (place : Nat) (bs : List Byte) (f : Fragment) : List Byte × Option Fragment :=
  let i := f.tid % 16
  if place < 4 then (putPixel bs i (blendPixel st.blend f.colour ((bs.drop (4 * i)).take 4)), none)
  else if depthFunc (st.depth % 8) f.depth (word32 bs (4 * i)) then
    (if bitAt st.depth 4 then putPixel bs i (leBytes 4 f.depth.toNat) else bs, some { f with passed := true })
  else (bs, none)

/-- The fragments of a packet at a crumb: its bytes, and what is left of the packet. -/
def mergeCrumb (st : RasterState) (place : Nat) (x : List Byte × List Fragment) (f : Fragment) : List Byte × List Fragment :=
  if f.inCrumb place then
    let y := mergeFragment st place x.1 f
    (y.1, x.2 ++ y.2.toList)
  else (x.1, x.2 ++ [f])

/-- The packet may merge at the place: a depth crumb under the depth test, before the colour crumb of its pixels. -/
def Packet.mayMerge (q : Packet) (st : RasterState) (place : Nat) : Bool :=
  place < 8 && q.frags.any fun f =>
    f.inCrumb place && (if place < 4 then f.passed || !bitAt st.depth 3 else bitAt st.depth 3 && !f.passed)

/-- Address of the crumb at a place of an entry's tiles. -/
def Surface.crumb (r : Surface) (p : PixelRec) (place : Nat) : Nat :=
  (if place < 4 then r.ctile p.tx p.ty else r.dtile p.tx p.ty) + 64 * (place % 4)

/-- One event of a packet's merge: the crumb is read, and written where it changes; what is left of the packet. -/
def State.mergeAt (s : State) (who : Waiter) (die : Nat) (cx : CtxId) (va : Nat) (st : RasterState) (place : Nat) (fr : List Fragment) :
    Except RasterStop (State × List Fragment) :=
  match s.rasterRead who die cx va 64 with
  | .error e => .error e
  | .ok (s, old) =>
    let x := fr.foldl (mergeCrumb st place) (old, [])
    if old == x.1 then .ok (s, x.2) else
    match s.rasterKeys who die cx va 64 true with
    | .error e => .error e
    | .ok (s, keys) => .ok (s.rasterWrite cx va keys x.1, x.2)

/-- The name of an entry's packet. -/
def PixelRec.packetId (p : PixelRec) : Option Nat := p.packet.map Packet.id

/-- The DRAW with what is left of a packet; a team that has retired leaves with its packet. -/
def DrawRun.setPacket (r : DrawRun) (packet : Nat) (fr : List Fragment) : DrawRun :=
  let live : List PixelRec := r.live.map fun (p : PixelRec) =>
    if p.packetId == some packet then
      { p with packet := if fr.isEmpty then none else p.packet.map fun q => { q with frags := fr } }
    else p
  { r with live := live.filter fun p => p.gang.isSome || p.packet.isSome }

/-- The DRAW that holds a packet, with its entry. -/
def State.packetOf (s : State) (die packet : Nat) : Option (Nat × RasterCmd × DrawRun × PixelRec) :=
  s.rcmds.findSome? fun x => match x.2.work with
    | .draw _ _ _ (some r) =>
      if x.2.die == die then (r.live.find? fun p => p.packetId == some packet).map fun p => (x.1, x.2, r, p) else none
    | _ => none

def execPxoutMerge (die : Nat) (crumb : PacketCrumb) (s : State) : Outcome State Fault Refusal :=
  enabled s <| match s.packetOf die crumb.packet with
    | some (id, c, r, p) => match c.work, p.packet with
      | .draw va n st _, some q =>
        if s.rasterWaits id c || s.packetHeld q || s.mergeWaits id c st r p || !q.mayMerge st crumb.place then none else
        match s.mergeAt (.crumb crumb.packet crumb.place) die c.cx (r.surf.crumb p crumb.place) st crumb.place q.frags with
        | .ok (s, fr) => some (s.setRaster id c (.draw va n st (some (r.setPacket crumb.packet fr))))
        | .error (.wait who chans) => s.deferAs who chans
        | .error e =>
          let w : RasterWork := .draw va n st (some { r with fault := some crumb.packet })
          (s.setRaster id c w).rasterStop id { c with work := w } e
      | _, _ => none
    | none => none

/-! Completion and faults (R431, R432). -/

/-- Every team of the DRAW has been spawned, merged and retired. -/
def RasterWork.drawDone (w : RasterWork) : Option DrawRun :=
  match w with
  | .draw _ n _ (some r) => if (r.ended.isSome || (r.tiles.isNone && n ≤ r.tri)) && r.live.isEmpty then some r else none
  | _ => none

/-- A DRAW completes; one that cannot yet goes on by one event that needs no pixel team. -/
def execDrawComplete (die cmd : Nat) (s : State) : Outcome State Fault Refusal :=
  enabled s <| match s.rcmds.get? cmd with
    | some c => if c.die != die then none else match c.work.drawDone with
      | some r =>
        if s.rasterWaits cmd c then none else
        let s := { s with launches := s.launches.erase r.launch }
        match r.ended with
        | some va => some (s.finishRaster cmd c 2 (BitVec.ofNat 64 va) 0 r.spawned)
        | none => some (s.finishRaster cmd c 0 c.tag 0 r.spawned)
      | none => s.advanceDraw cmd
    | none => none

/-- A fault of a DRAW that Renweaz does not mend: triangles behind it are not drawn, and their packets are dropped. -/
def DrawRun.endAt (r : DrawRun) (va : Nat) : DrawRun :=
  let bad := match r.fault with
    | some q => r.live.find? fun (p : PixelRec) => p.packetId == some q
    | none => none
  let first := match bad with
    | some p => p.tri + 1
    | none => r.tri
  let live : List PixelRec := r.live.map fun (p : PixelRec) =>
    if first ≤ p.tri || (p.packet.isSome && p.packetId == r.fault) then { p with packet := none } else p
  { r with ended := some va, tri := first, corners := [], tiles := none, fault := none
           live := live.filter fun p => p.gang.isSome || p.packet.isSome }

/-- Tiles of the surface that a clear has cleared after so many events: one a tile where compressed colour is cleared, four else. -/
def clearCount (r : Surface) (c : Bool) (k : Nat) : Nat :=
  if c then min (if r.cmp then k else k / 4) r.tiles else k / 4

/-- A command's fault is not mended. -/
def State.endRaster (s : State) (id va : Nat) (c : RasterCmd) : State :=
  let tag := BitVec.ofNat 64 va
  match c.work with
  | .draw _ _ _ none => s.finishRaster id c 2 tag 0 0
  | .draw a n st (some r) => s.setRaster id c (.draw a n st (some (r.endAt va)))
  | .done .. => s
  | .clear _ cl _ _ run => s.finishRaster id c 2 tag 0 (match run with | some (r, k) => clearCount r cl k | none => 0)
  | .resolve _ _ _ count => ((match s.ops.get? id with | some o => s.endOp id o | none => s).finishRaster id c 2 tag 0 count)
  | .sync _ _ run => s.finishRaster id c 2 tag 0 (match run with | some (_, k, _) => k | none => 0)

def RasterWork.clearFault (w : RasterWork) : RasterWork :=
  match w with
  | .draw va n st (some r) => .draw va n st (some { r with fault := none })
  | w => w

/-- Renweaz resolves a fault of the engine: by mending the mapping, or not. -/
def execRasterFaultResolve (rec : Nat) (mend : Option (List (Nat × Nat))) (s : State) : Outcome State Fault Refusal :=
  enabled s <| match s.faults.get? rec with
    | some f => match f.who with
      | .raster _ id =>
        match mend with
        | some ptes => (s.mend rec f ptes).map fun s =>
            { s with rcmds := s.rcmds.alter id fun (c : RasterCmd) => { c with work := c.work.clearFault } }
        | none =>
          let s := s.dropFault rec
          match s.rcmds.get? id with
          | some c => some (s.endRaster id f.va c)
          | none => some s
      | _ => none
    | none => none

end Sys2Proof.Machine
end

