-- ==== Sys2Proof/Machine/Compress.lean ====
section
/-! DEFINITION. Clearing, resolving and synchronising surfaces, fills and write-backs of compressed tiles, and changes of a page's
C bit (15 R409 to R414, R426 to R428, R449). -/

namespace Sys2Proof.Machine

open Sys2Proof Host

/-- A command of the engine begins and acts: it is the first of its issuer, the engine holds no record for its core (01 R29), and no
fault of it waits. -/
def State.rasterFirst (s : State) (id : Nat) (c : RasterCmd) : Bool :=
  (s.rcmds.find? fun x => x.2.core == c.core).map (·.1) == some id && !(s.coreOf c.core).holdsFor 7 c.die && !s.rasterWaits id c

/-- The channels of a tile's DRAM and of its mode byte. -/
def tileChans (pa : Nat) : List Nat := (chanOf (modePA pa) :: (List.range 4).map fun i => chanOf (pa / 256 * 256 + 64 * i)).dedup

/-- A channel of a tile is in bank mode. -/
def State.tileStuck (s : State) (pa : Nat) : Bool := s.anyBank && (tileChans pa).any (s.barred none)

/-- A surface record that a command reads as it begins. -/
def State.readSurface (s : State) (id : Nat) (c : RasterCmd) (va : Nat) : Except RasterStop (State × Option Surface) :=
  (s.rasterRead (.work id) c.die c.cx va 64).map fun x => (x.1, if va % 64 == 0 then parseSurface x.2 else none)

/-! RCLEAR (R426). -/

/-- The clear event of a compressed tile: its lines are dropped and its mode is fast clear. -/
def State.clearEvent (s : State) (pa clearc : Nat) : State :=
  let s := (s.writeDram (pa / 256 * 256) (leBytes 4 clearc)).writeDram (modePA pa) [0x40]
  { s with
    tiles := s.tiles.erase (pa / 256)
    lines := s.lines.filter fun x => x.1 / 4 != pa / 256 }

/-- Four bytes in every pixel of a tile, one store for each crumb. -/
def State.fillCrumbs (s : State) (cx : CtxId) (va : Nat) (keys : List Nat) (x : Nat) : State :=
  let bs := (List.replicate 16 (leBytes 4 x)).flatten
  (List.range 4).foldl (fun s i => s.rasterWrite cx va ((keys.drop (64 * i)).take 64) bs) s

/-- A tile of a compressed colour surface is cleared by one event at its home slice. -/
def State.clearTile (s : State) (id : Nat) (c : RasterCmd) (va x : Nat) : Except RasterStop State :=
  match s.rasterKeys (.work id) c.die c.cx va 256 true with
  | .error e => .error e
  | .ok (s, keys) =>
    let pa := (keyPA (keys.headD 0)).getD 0
    if !isTileKey (keys.headD 0) then .ok (s.fillCrumbs c.cx va keys x)
    else if (tileChans pa).any (s.barred (some (.work id))) then .error (.wait (.work id) (tileChans pa))
    else .ok ((s.undefer (.work id)).clearEvent pa x)

/-- A crumb of a surface is cleared by an ordinary store. -/
def State.clearCrumb (s : State) (id : Nat) (c : RasterCmd) (va x : Nat) : Except RasterStop State :=
  match s.rasterKeys (.work id) c.die c.cx va 64 true with
  | .error e => .error e
  | .ok (s, keys) => .ok (s.rasterWrite c.cx va keys (List.replicate 16 (leBytes 4 x)).flatten)

/-- Events that clear the colour of a surface. -/
def Surface.colourEvents (r : Surface) : Nat := if r.cmp then r.tiles else 4 * r.tiles

/-- Event k of a clear, colour first. -/
def State.clearStep (s : State) (id : Nat) (c : RasterCmd) (r : Surface) (cl : Bool) (depth k : Nat) : Except RasterStop State :=
  if cl && k < r.colourEvents then
    if r.cmp then s.clearTile id c (r.cbase + 256 * k) r.clearc else s.clearCrumb id c (r.cbase + 64 * k) r.clearc
  else s.clearCrumb id c (r.dbase + 64 * (if cl then k - r.colourEvents else k)) depth

/-- The next event of a clear; with the last it completes. -/
def State.runClear (s : State) (id : Nat) (c : RasterCmd) (va : Nat) (cl dp : Bool) (depth : W32) (r : Surface) (k : Nat) :
    Option State :=
  match s.clearStep id c r cl depth.toNat k with
  | .ok s =>
    if (if cl then r.colourEvents else 0) + (if dp then 4 * r.tiles else 0) ≤ k + 1 then
      some (s.finishRaster id c 0 c.tag 0 (clearCount r cl (k + 1)))
    else some (s.setRaster id c (.clear va cl dp depth (some (r, k + 1))))
  | .error e => s.rasterStop id c e

def State.beginClear (s : State) (id : Nat) (c : RasterCmd) (va : Nat) (cl dp : Bool) (depth : W32) : Option State :=
  match s.readSurface id c va with
  | .error e => s.rasterStop id c e
  | .ok (s, none) => s.refuseRun id c 1
  | .ok (s, some r) =>
    if !s.surfaceOk c.cx r || (dp && r.dbase == 0) then s.refuseRun id c 2
    else some (s.setRaster id c (.clear va cl dp depth (some (r, 0))))

/-! RSYNC (R428). -/

def State.tileDirty (s : State) (pa : Nat) : Bool :=
  match s.tiles.get? (pa / 256) with
  | some t => t.dirty.any id
  | none => false

/-- The mode byte of tile i in the snapshot; 0 for a surface with CMP = 0. -/
def State.modeOf (s : State) (cx : CtxId) (r : Surface) (i : Nat) : Byte :=
  if !r.cmp then 0 else
  match s.translate cx (r.cbase + 256 * i) with
  | .ok l => s.mem.read (modePA l.pa)
  | .error _ => 0

/-- First byte and length of crumb k of n bytes at b. -/
def chunkOf (b n k : Nat) : Nat × Nat :=
  let lo := if k == 0 then b else (b / 64 + k) * 64
  (lo, min (b + n) ((b / 64 + k + 1) * 64) - lo)

/-- The next dirty tile of the colour range, from one on: its index and its physical number. -/
def State.dirtyFrom (s : State) (cx : CtxId) (r : Surface) (k : Nat) : Option (Nat × Nat) :=
  (List.range r.tiles).findSome? fun i =>
    if i < k || !r.cmp then none else
    match s.translate cx (r.cbase + 256 * i) with
    | .ok l => if l.comp && s.tileDirty l.pa then some (i, l.pa / 256) else none
    | .error _ => none

/-- Crumb k of the snapshot is stored. -/
def State.syncCrumb (s : State) (id : Nat) (c : RasterCmd) (r : Surface) (b k : Nat) : Except RasterStop State :=
  let (lo, n) := chunkOf b r.tiles k
  match s.rasterKeys (.work id) c.die c.cx lo n true with
  | .error e => .error e
  | .ok (s, keys) => .ok (s.rasterWrite c.cx lo keys ((List.range n).map fun i => s.modeOf c.cx r (lo - b + i)))

/-- The next event of an RSYNC that has begun: a dirty tile is written back, a crumb of the snapshot is stored, or it completes. -/
def State.runSync (s : State) (id : Nat) (c : RasterCmd) (va b : Nat) (r : Surface) (count k : Nat) : Option State :=
  match s.dirtyFrom c.cx r k with
  | some (i, t) => s.gate (.work id) (tileChans (256 * t)) fun s =>
      some ((s.cleanTile t).setRaster id c (.sync va b (some (r, count + 1, i + 1))))
  | none =>
    let j := k - r.tiles
    if b == 0 || b + r.tiles ≤ (chunkOf b r.tiles j).1 then some (s.finishRaster id c 0 c.tag 0 count) else
    match s.syncCrumb id c r b j with
    | .error e => s.rasterStop id c e
    | .ok s => some (s.setRaster id c (.sync va b (some (r, count, r.tiles + j + 1))))

def State.beginSync (s : State) (id : Nat) (c : RasterCmd) (va b : Nat) : Option State :=
  if va == 0 then if b == 0 then some (s.finishRaster id c 0 c.tag 0 0) else s.refuseRun id c 6 else
  match s.readSurface id c va with
  | .error e => s.rasterStop id c e
  | .ok (s, none) => s.refuseRun id c 1
  | .ok (s, some r) =>
    if !s.surfaceOk c.cx r then s.refuseRun id c 2 else some (s.setRaster id c (.sync va b (some (r, 0, 0))))

/-! Rewriting tiles as raw (R427, R449). -/

/-- The physical address lies in one of these ranges. -/
def inRanges (rs : List (Nat × Nat)) (pa : Nat) : Bool := rs.any fun r => r.1 ≤ pa && pa < r.1 + r.2

/-- The tile whose mode byte lies at a physical address. -/
def tileOfMode (pa : Nat) : Option Nat :=
  if 0x1FE000000 ≤ pa % 2 ^ 33 && pa < 2 ^ 40 then some (pa / 2 ^ 33 * 2 ^ 25 + (pa % 2 ^ 33 - 0x1FE000000)) else none

/-- Tiles of ranges that are resident and dirty, or whose mode byte is not 0x00. -/
def State.encodedTiles (s : State) (rs : List (Nat × Nat)) : List Nat :=
  let dirty := (s.tiles.filter fun x => x.2.dirty.any id && inRanges rs (256 * x.1)).map (·.1)
  dirty ++ s.mem.filterMap fun x => match tileOfMode x.1 with
    | some t => if inRanges rs (256 * t) && !dirty.contains t then some t else none
    | none => none

/-- The channels of those tiles. -/
def State.encodedChans (s : State) (rs : List (Nat × Nat)) : List Nat :=
  ((s.encodedTiles rs).flatMap fun t => tileChans (256 * t)).dedup

/-- Every line of the ranges is dropped. -/
def State.dropLines (s : State) (rs : List (Nat × Nat)) : State :=
  { s with
    tiles := s.tiles.filter fun x => !inRanges rs (256 * x.1)
    lines := s.lines.filter fun x => !inRanges rs (64 * x.1) }.dropL1 (inRanges rs)

/-- The encoded tiles of the ranges are written raw, with mode 0x00, and the lines dropped. -/
def State.rawRanges (s : State) (rs : List (Nat × Nat)) : State :=
  ((s.encodedTiles rs).foldl (fun s t => s.writeRaw t (s.tileBytes t)) s).dropLines rs

/-- Compressed parts of a virtual range, page by page, as physical ranges; the first address that is not mapped. -/
def State.compRanges (s : State) (cx : CtxId) (base len : Nat) : Except Nat (List (Nat × Nat)) :=
  (List.range ((base + len - 1) / 65536 + 1 - base / 65536)).foldl (fun (r : Except Nat (List (Nat × Nat))) i =>
    let lo := max base ((base / 65536 + i) * 65536)
    let hi := min (base + len) ((base / 65536 + i + 1) * 65536)
    match r, s.translate cx lo with
    | .error e, _ => .error e
    | .ok _, .error _ => .error lo
    | .ok rs, .ok l => .ok (if l.comp then rs ++ [(l.pa, hi - lo)] else rs)) (.ok [])

/-- The leaves with C = 1 that map a range: level, entry and its address. -/
def State.compLeaves (s : State) (cx : CtxId) (base len : Nat) : List (Nat × Nat × Nat) :=
  ((List.range ((base + len - 1) / 65536 + 1 - base / 65536)).filterMap fun i =>
    match s.leafWhere? cx ((base / 65536 + i) * 65536) with
    | some x => if bitAt x.2.1 5 then some x else none
    | none => none).dedup

/-- Sets or clears C in a leaf entry. -/
def State.setCbit (s : State) (x : Nat × Nat × Nat) (on : Bool) : State :=
  let e := if on then x.2.1 ||| 32 else x.2.1 - (if bitAt x.2.1 5 then 32 else 0)
  s.writePA x.2.2 8 e

/-- The physical range that a leaf maps. -/
def leafRange (x : Nat × Nat × Nat) : Nat × Nat := (pteAddr x.2.1, leafBytes x.1)

/-- The first tile of a virtual range, at an address or behind it, that is to be written raw: its address and its physical number. -/
def State.encodedFrom (s : State) (cx : CtxId) (base len reached : Nat) : Option (Nat × Nat) :=
  (List.range ((base + len - 1) / 65536 + 1 - base / 65536)).findSome? fun i =>
    let lo := max base ((base / 65536 + i) * 65536)
    let hi := min (base + len) ((base / 65536 + i + 1) * 65536)
    match s.translate cx lo with
    | .ok l =>
      if !l.comp then none else
      (((s.encodedTiles [(l.pa, hi - lo)]).map fun t => (lo + (256 * t - l.pa), t)).filter fun x => reached ≤ x.1).foldl
        (fun m x => match m with
          | some y => if x.1 < y.1 then some x else m
          | none => some x) none
    | .error _ => none

/-- RRESOLVE ends: tiles that are encoded again are written raw, every line is dropped, and under .unc the leaves' C is cleared, with
the keys of FLAGS. -/
def State.finishResolve (s : State) (id : Nat) (c : RasterCmd) (count : Nat) (rs : List (Nat × Nat)) (leaves : List (Nat × Nat × Nat))
    (flags : List Nat) : State :=
  let n := (s.encodedTiles rs).length
  let s := s.rawRanges rs
  let s := leaves.foldl (fun s x => s.setCbit x false) s
  let s := if flags.isEmpty then s else s.rasterWrite c.cx (c.tag.toNat + 24) flags [0]
  let s := match s.ops.get? id with
    | some o => s.endOp id o
    | none => s
  s.finishRaster id c 0 c.tag 0 (count + n)

/-- Every tile has been rewritten: RRESOLVE ends. -/
def State.endResolve (s : State) (id : Nat) (c : RasterCmd) (g : Range) (unc : Bool) (count : Nat) (rs : List (Nat × Nat)) :
    Option State :=
  if !unc then s.gate (.work id) (s.encodedChans rs) fun s => some (s.finishResolve id c count rs [] [])
  else match s.rasterKeys (.work id) c.die c.cx (c.tag.toNat + 24) 1 true with
  | .error e => s.rasterStop id c e
  | .ok (s, keys) =>
    if s.cxStuck c.cx then none else
    let s := s.drainCx c.cx
    let leaves := s.compLeaves c.cx g.base g.len
    let rs := leaves.map leafRange
    s.gate (.work id) (s.encodedChans rs) fun s =>
      some ((s.finishResolve id c count rs leaves keys).invalidate c.cx g.base g.len)

/-- The next event of an RRESOLVE whose locks stand: a tile is written raw and its lines dropped, or it ends. -/
def State.runResolve (s : State) (id : Nat) (c : RasterCmd) (r : Surface) (unc : Bool) (reached count : Nat) : Option State :=
  let g := resolveRange r unc
  match s.compRanges c.cx g.base g.len with
  | .error va => s.rasterStop id c (.fault kindAbsent va)
  | .ok rs => match s.encodedFrom c.cx g.base g.len reached with
    | some (va, t) => s.gate (.work id) (tileChans (256 * t)) fun s =>
        some ((s.rawRanges [(256 * t, 256)]).setRaster id c (.resolve r unc (va + 256) (count + 1)))
    | none => s.endResolve id c g unc count rs

/-- RCLEAR, RSYNC or RRESOLVE acts as its turn comes. -/
def State.runRaster (s : State) (id : Nat) (c : RasterCmd) : Option State :=
  if !s.rasterFirst id c then none else
  match c.work with
  | .clear va cl dp depth none => s.beginClear id c va cl dp depth
  | .clear va cl dp depth (some (r, k)) => s.runClear id c va cl dp depth r k
  | .sync va b none => s.beginSync id c va b
  | .sync va b (some (r, n, k)) => s.runSync id c va b r n k
  | .resolve r unc at' n => if s.opRegistered id then s.runResolve id c r unc at' n else none
  | .draw .. | .done .. => none

/-! Fills and write-backs on their own (R409, R413, R414). -/

/-- A virtual device with a page of C = 1 at the physical address. -/
def State.compVd (s : State) (pa : Nat) : Option Nat :=
  (s.ctxs.find? fun x => (s.leavesBelow levels x.2.root).any fun y =>
    bitAt y.1 5 && pteAddr y.1 ≤ pa && pa < pteAddr y.1 + y.2).map fun x => x.1 / 64

def execCdcTileFill (pa : Nat) (s : State) : Outcome State Fault Refusal :=
  enabled s <|
    if (s.tiles.get? (pa / 256)).isSome || s.tileStuck pa then none else
    (s.compVd pa).bind fun vd =>
      (s.fillTileLines vd 0 [pa / 256 * 4, pa / 256 * 4 + 1, pa / 256 * 4 + 2, pa / 256 * 4 + 3]).map fun s => s.fillTile (pa / 256)

/-- A resident tile is evicted: written back where it is dirty. -/
def execCdcWriteback (pa : Nat) (s : State) : Outcome State Fault Refusal :=
  enabled s <|
    if (s.tiles.get? (pa / 256)).isNone || (s.tileDirty pa && s.tileStuck pa) then none else
    let s := s.cleanTile (pa / 256)
    some { s with
      tiles := s.tiles.erase (pa / 256)
      lines := s.lines.filter fun x => !(x.2.tile && x.1 / 4 == pa / 256) }

/-! The C bit (R449). -/

/-- Mode bytes of ranges are set to 0x00. -/
def State.zeroModes (s : State) (rs : List (Nat × Nat)) : State :=
  { s with
    lts := s.lts + 1
    mem := s.mem.filter fun x => match tileOfMode x.1 with
      | some t => !inRanges rs (256 * t)
      | none => true }

/-- Renweaz changes C of the leaf that maps a 64 KiB page of a context. -/
def execPageCChange (cx : CtxId) (page : Nat) (setC : Bool) (s : State) : Outcome State Fault Refusal :=
  enabled s <| if s.cxStuck cx then none else
    let s := s.drainCx cx
    match s.leafWhere? cx (page * 65536) with
    | some x =>
      if bitAt x.2.1 5 == setC || (setC && s.filterReads cx (alignDown (page * 65536) (leafBytes x.1)) (leafBytes x.1)) then none else
      let rs := [leafRange x]
      if (s.encodedTiles rs).any fun t => s.tileStuck (256 * t) then none else
      let s := if setC then (s.dropLines rs).zeroModes rs else s.rawRanges rs
      let base := alignDown (page * 65536) (leafBytes x.1)
      some ((s.setCbit x setC).invalidate cx base (leafBytes x.1))
    | none => none

end Sys2Proof.Machine
end

