-- ==== Sys2Proof/Machine/Finish.lean ====
section
/-! DEFINITION. How engine operations finish, command timeouts, ways converted to chip scratchpad, and voltage and frequency islands
(01 R28, R32, R33; 02 R42, R44, R60; 03 R93; 16 R446). -/

namespace Sys2Proof.Machine

open Sys2Proof Host

/-! Release (01 R28, 02 R60). -/

/-- An operation that moves data finishes, by its engine's own rule. -/
def State.finishOp (s : State) (id : Nat) (o : EngOp) : Option State :=
  match o.work with
  | .copy .. => s.finishCopy id o
  | .fetch f => s.finishFetch id o f
  | .sred _ | .resolve => none
  | .bank => match s.stackOf? id with
    | some (k, c) => s.stepSacc k c
    | none => none

/-- An engine operation completes its writes, clears its locks, signals, and posts its record. SRED and SMAC have steps of
their own. -/
def execEngineOpRelease (op : Nat) (s : State) : Outcome State Fault Refusal :=
  enabled s <| match s.rcmds.get? op with
    | some c => s.runRaster op c
    | none => match s.scmds.get? op with
      | some c => s.stepSacc op c
      | none => match s.ops.get? op with
        | some o => s.finishOp op o
        | none => none

/-! Command timeouts (03 R93; 12 R349, 13 R376, 14 R391, 15 R432). -/

/-- CTO of a context's virtual device, in ns. -/
def State.ctoOf (s : State) (cx : CtxId) : Nat := match s.vds.get? cx.vd with
  | some v => v.cto
  | none => 10000000

/-- A command that began then has passed CTO. -/
def State.past (s : State) (cx : CtxId) (began : Nat) : Bool := began + s.ctoOf cx < s.ns

/-- A word of a record that the spec leaves open (log 14). -/
def State.freeWord (s : State) (n : Nat) : W64 := BitVec.ofNat 64 (Config.freeNat (s.freeIx n))

/-- A copy request or a fetch has passed CTO. -/
def State.opTimeout (s : State) (id : Nat) (o : EngOp) : Option State :=
  let post (src detail : Nat) : State :=
    (s.setOp id { o with late := true }).postFiring o.core o.cx
      { tag := s.freeWord 0, src := src, status := 4, unit := o.core, detail := BitVec.ofNat 32 detail }
  if o.late || !s.past o.cx o.began || !s.opLive o then none else
  match o.work with
  | .copy _ seq _ => some (post 2 (2 ^ 16 * o.slot + seq))
  | .fetch f => some (post 3 (2 ^ 8 * o.slot + f.slot))
  | _ => none

def State.filterTimeout (s : State) (stack req : Nat) (q : FilterReq) : Option State :=
  if q.late || q.stack != stack || !s.past q.cx q.began then none else
  some ({ s with filters := s.filters.set req { q with late := true } }.postFiring q.core q.cx
    { tag := s.freeWord 0, src := 4, status := 4, unit := stack, detail := (s.freeWord 1).setWidth 32 })

/-- A ray whose flight has passed CTO ends; the time pauses while its gang is saved. -/
def State.rayTimeout (s : State) (id : Nat) (r : Ray) : Option State :=
  match r.place with
  | .posting _ => none
  | _ => match s.gang? r.gang with
    | some g => if g.resident && s.past r.cx r.began then some (s.errorRay id r 5 0) else none
    | none => none

def State.rasterTimeout (s : State) (die cmd : Nat) (c : RasterCmd) : Option State :=
  if c.late || c.die != die || !s.past c.cx c.began then none else
  match c.work with
  | .done .. => none
  | _ => some ({ s with rcmds := s.rcmds.set cmd { c with late := true } }.postFiring c.core c.cx
      { tag := c.tag, src := 7, status := 4, unit := c.die, detail := rasterDetail 0 (Config.freeNat (s.freeIx 0)) })

def State.stackTimeout (s : State) (stack id : Nat) (c : StackCmd) : Option State :=
  if c.late || c.stack != stack || !s.past c.cx c.began then none else
  some ({ s with scmds := s.scmds.set id { c with late := true } }.postFiring c.core c.cx
    { tag := c.tag, src := 6, status := 4, unit := c.stack, detail := BitVec.ofNat 32 (2 ^ 8 * s.stackUnit c.work) })

/-- A command past CTO: its record, once; the command runs on, but for a ray, which ends. -/
def execCommandTimeout (cmd : CmdRef) (s : State) : Outcome State Fault Refusal :=
  enabled s <| match cmd with
    | .op id => (s.ops.get? id).bind (s.opTimeout id)
    | .filter stack req => (s.filters.get? req).bind (s.filterTimeout stack req)
    | .ray id => (s.rays.get? id).bind (s.rayTimeout id)
    | .raster die id => (s.rcmds.get? id).bind (s.rasterTimeout die id)
    | .stackCmd stack id => (s.scmds.get? id).bind (s.stackTimeout stack id)

/-! Chip scratchpad (02 R42, R44). -/

/-- 64 KiB units of a die's chip scratchpad that one converted way gives. -/
def unitsPerWay : Nat := 64

/-- Units of chip scratchpad allotted on a die. -/
def State.chipUnits (s : State) (die : Nat) : Nat := (s.ctxs.map fun x => x.2.chip.get 0 die).sum

/-- The lines of a die, with their crumbs. -/
def State.dieLines (s : State) (die : Nat) : List (Nat × Line) := s.lines.filter fun x => crumbSlice x.2.tile x.1 / 128 == die

/-- Pinned lines of a line's set. -/
def State.setPins (s : State) (x : Nat × Line) : Nat :=
  ((s.setLines (crumbSlice x.2.tile x.1) (Config.setIndex x.1)).filter fun y => y.2.pin.isSome).length

/-- The conversion would leave a set over the pin bound. -/
def State.overPinned (s : State) (die ways : Nat) : Bool :=
  (s.dieLines die).any fun x => x.2.pin.isSome && 14 < s.setPins x + ways + s.poolWays

/-- A pinned line moves to another way of its set, whose line leaves. -/
def State.movePin (s : State) (ways crumb : Nat) : State :=
  match s.lines.get? crumb with
  | some l =>
    let set := s.setLines (crumbSlice l.tile crumb) (Config.setIndex crumb)
    match (List.range (16 - ways)).find? fun w => !set.any fun x => x.2.way == w && x.2.pin.isSome with
    | some w =>
      let s := (set.filter fun x => x.2.way == w).foldl (fun s x => s.evictCrumb x.1) s
      { s with lines := s.lines.set crumb { l with way := w } }
    | none => s
  | none => s

/-- Context and die of a byte of a chip-scratchpad allotment. -/
def chipHome (k : Nat) : Option (Nat × Nat) :=
  if k / 2 ^ 44 % 4 == 3 then some (k / 2 ^ 44 / 16, k / 2 ^ 44 / 4 % 4) else none

/-- Chip-scratchpad allotments read as zero from now on: those of contexts and dies that satisfy f. -/
def State.zeroChip (s : State) (f : Nat → Nat → Bool) : State :=
  { s with
    lts := s.lts + 1
    mem := s.mem.filter fun x => match chipHome x.1 with
      | some (c, d) => !f c d
      | none => true }

/-- Units of chip scratchpad that a context, by its key, holds on a die. -/
def State.chipOf (s : State) (c die : Nat) : Nat := match s.ctxs.get? c with
  | some x => x.chip.get 0 die
  | none => 0

/-- Ways of every slice of a die are converted, or returned: their lines leave, pins move, and what no allotment holds is zero. -/
def execWayConvert (die ways : Nat) (s : State) : Outcome State Fault Refusal :=
  enabled s <|
    let gone := (s.dieLines die).filter fun x => 16 ≤ x.2.way + ways
    if 4 ≤ die || 4 < ways || s.overPinned die ways || unitsPerWay * ways < s.chipUnits die ||
        (gone.any fun x => x.2.tile && s.tileDirty (64 * x.1) && s.tileStuck (64 * x.1)) then none else
    let pinned := gone.filter fun x => x.2.pin.isSome
    let s := (gone.filter fun x => x.2.pin.isNone).foldl (fun s x => s.evictCrumb x.1) s
    let s := pinned.foldl (fun s x => s.movePin ways x.1) s
    some ({ s with convWays := s.convWays.put 0 die ways }.zeroChip fun c d => d == die && s.chipOf c d == 0)

/-! Islands (01 R32, R33; 16 R446). -/

def State.gated (s : State) (island : Nat) : Bool := s.islands.get .full island == .gated

/-- A line whose last store DRAM does not hold. -/
def State.lineDirty (s : State) (x : Nat × Line) : Bool := if x.2.tile then s.tileDirty (64 * x.1) else x.2.dirty

/-- A die's fabric may be gated: every cluster of the die is, and its slices hold no dirty line and no chip scratchpad. -/
def State.fabricIdle (s : State) (die : Nat) : Bool :=
  ((List.range 24).all fun c => s.gated (24 * die + c)) && !(s.dieLines die).any s.lineDirty && s.chipUnits die == 0

/-- An island may take a mode: islands 0 to 95 are clusters, 96 to 99 die fabrics, 100 to 111 base dies, 112 to 115 raster front
ends, 116 to 119 media blocks, 120 to 127 Ethernet blocks. -/
def State.mayGate (s : State) (island : Nat) (mode : IslandMode) : Bool :=
  island < 128 && (mode != .gated || !(96 ≤ island && island < 100) || s.fabricIdle (island - 96))

def State.setIsland (s : State) (island : Nat) (mode : IslandMode) : State :=
  { s with islands := s.islands.put .full island mode }

def execIslandGate (island : Nat) (mode : IslandMode) (s : State) : Outcome State Fault Refusal :=
  enabled s <| if s.mayGate island mode then some (s.setIsland island mode) else none

/-- The clocks of islands that run at full rate are lowered. -/
def State.lowerIslands (s : State) (l : List Nat) : State :=
  l.foldl (fun s i => if s.islands.get .full i == .full then s.setIsland i .lowered else s) s

/-- The islands of a compute die: its clusters, its fabric and its raster front end. -/
def dieIslands (die : Nat) : List Nat := (List.range 24).map (24 * die + ·) ++ [96 + die, 112 + die]

/-- A die point above 100 °C: the die's clocks are lowered. -/
def execThermalThrottle (die : Nat) (s : State) : Outcome State Fault Refusal :=
  enabled s <| if 4 ≤ die then none else some (s.lowerIslands (dieIslands die))

/-- A die point above 110 °C, or no coolant flow: power is removed. -/
def execOvertempShutdown (s : State) : Outcome State Fault Refusal := enabled s (some { s with powered := false })

/-- A core issue arbiter of a cluster has last granted beyond a device's guaranteed rate. -/
def State.clusterBeyond (s : State) (c : Nat) : Bool := (List.range 4).any fun m => !(s.arb ⟨1, 4 * c + m⟩).beyond.isEmpty

/-- Clusters that run at full rate. -/
def State.fullClusters (s : State) : List Nat := (List.range 96).filter fun c => s.islands.get .full c == .full

/-- Module power above its limit: ck.core is lowered, first on the islands whose virtual devices exceed their guaranteed rate. -/
def execPowerLimit (s : State) : Outcome State Fault Refusal :=
  let first := s.fullClusters.filter s.clusterBeyond
  enabled s (some (s.lowerIslands (if first.isEmpty then s.fullClusters else first)))

/-- An island's voltage outside its band: it is gated and reported. -/
def execVoltageFault (island : Nat) (s : State) : Outcome State Fault Refusal :=
  enabled s <| if 128 ≤ island then none else some ((s.setIsland island .gated).postNotice 0 noticeIsland [island])

end Sys2Proof.Machine
end

