-- ==== Sys2Proof/Machine/Media.lean ====
section
/-! DEFINITION. Display heads, encoders, and the frames they send (16 R435 to R439; 03 R89, R90). -/

namespace Sys2Proof.Machine

open Sys2Proof Host

/-! Ethernet queue sets (16 R440). -/

def State.ethSet (s : State) (q : Nat) : EthSet := s.eth.get { tx := [], rx := [] } q

def State.setEth (s : State) (q : Nat) (x : EthSet) : State := { s with eth := s.eth.set q x }

/-- A frame enters a transmit queue. -/
def State.transmit (s : State) (qset queue : Nat) (f : List Byte) : State :=
  let x := s.ethSet qset
  s.setEth qset { x with tx := x.tx.set queue (x.tx.get [] queue ++ [f]) }

/-! HDCFG (R435). -/

def hdW (c : W64) : Nat := bits c.toNat 12 0
def hdH (c : W64) : Nat := bits c.toNat 25 13
def hdPeriod (c : W64) : Nat := bits c.toNat 45 29
def hdTrlog (c : W64) : Nat := bits c.toNat 53 51
def hdEncmask (c : W64) : Nat := bits c.toNat 61 54

/-- The register without its reserved bits. -/
def hdcfgOf (x : W64) : W64 := x &&& 0xFFF83FFFE3FFFFFF

/-- Every field within its limits. -/
def hdcfgInLimits (c : W64) : Bool :=
  let n := popCount 8 (hdEncmask c)
  1 ≤ n && n ≤ 4 && hdTrlog c ≤ 6 && 4000 ≤ hdPeriod c && hdPeriod c ≤ 100000 &&
  64 ≤ hdH c && hdH c ≤ 4320 && hdH c % 8 == 0 && 64 ≤ hdW c && hdW c ≤ 7680 && hdW c % 8 == 0

/-- Each encoder named has a valid slot of its KIND 12 arbiter for the head's virtual device. -/
def State.encodersOk (s : State) (h : Head) (c : W64) : Bool :=
  match h.cx with
  | some cx => (List.range 8).all fun e =>
      let a := s.arb ⟨12, e⟩
      !bitAt (hdEncmask c) e || (a.slot (a.slotOf 12 cx.vd)).valid
  | none => false

/-- The write is accepted: EN is 0 after it, or the fields are good and do not change while EN is 1. -/
def State.hdcfgOk (s : State) (h : Head) (c : W64) : Bool :=
  !c.getLsbD 63 || (hdcfgInLimits c && s.encodersOk h c && (!h.en || h.cfg == c))

/-! Packets (R438). -/

/-- Two bytes, the more significant first. -/
def be16 (x : Nat) : List Byte := [BitVec.ofNat 8 (x / 256), BitVec.ofNat 8 x]

/-- Bytes written into a list from a position on. -/
def patch (bs : List Byte) (i : Nat) (x : List Byte) : List Byte := bs.take i ++ x ++ bs.drop (i + x.length)

/-- The ones' complement sum of 16-bit words, an odd last byte padded with zero. -/
def onesSum : List Byte → Nat
  | a :: b :: r => 256 * a.toNat + b.toNat + onesSum r
  | [a] => 256 * a.toNat
  | [] => 0

/-- The Internet checksum of a sum. -/
def inetChecksum (n : Nat) : Nat :=
  let f (n : Nat) := n / 65536 + n % 65536
  65535 - f (f (f n))

/-- The UDP checksum as it is sent: 0xFFFF where it comes out as 0. -/
def udpChecksum (n : Nat) : Nat := if inetChecksum n == 0 then 65535 else inetChecksum n

/-- UDP length and checksum of a packet whose UDP header stands at u; `pseudo` is the sum of the addresses. -/
def fillUdp (bs : List Byte) (u pseudo : Nat) : List Byte :=
  let n := bs.length - u
  let bs := patch (patch bs (u + 4) (be16 n)) (u + 6) (be16 0)
  patch bs (u + 6) (be16 (udpChecksum (pseudo + 17 + n + onesSum (bs.drop u))))

/-- The device's fields of a packet: IP lengths, the IPv4 header checksum, and UDP length and checksum (log 24). -/
def fillHeaders (bs : List Byte) : List Byte :=
  let at' (i : Nat) : Nat := 256 * (bs.getD i 0).toNat + (bs.getD (i + 1) 0).toNat
  let ip := if at' 12 == 0x8100 then 18 else 14
  let kind := at' (ip - 2)
  if kind == 0x0800 then
    let n := 4 * ((bs.getD ip 0).toNat % 16)
    let bs := patch (patch bs (ip + 2) (be16 (bs.length - ip))) (ip + 10) (be16 0)
    let bs := patch bs (ip + 10) (be16 (inetChecksum (onesSum ((bs.drop ip).take n))))
    fillUdp bs (ip + n) (onesSum ((bs.drop (ip + 12)).take 8))
  else if kind == 0x86DD then
    let bs := patch bs (ip + 4) (be16 (bs.length - ip - 40))
    fillUdp bs (ip + 40) (onesSum ((bs.drop (ip + 8)).take 32))
  else bs

/-- Bytes of a context's memory, through the L2; undefined where they are not mapped (log 11). -/
def State.mediaRead (s : State) (cx : CtxId) (va n : Nat) : List Byte :=
  match s.span cx va n false with
  | .ok keys => keys.map s.readKey
  | .error _ => (List.range n).map fun i => Config.freeByte (s.freeIx (va + i))

/-- The channels that such a read reaches. -/
def State.mediaChans (s : State) (cx : CtxId) (va n : Nat) : List Nat :=
  match s.span cx va n false with
  | .ok keys => s.keysChans false keys
  | .error _ => []

/-- The template of a head's packets. -/
def State.template (s : State) (cx : CtxId) (h : Head) : List Byte :=
  s.mediaRead cx (bits h.stream.toNat 47 7 * 128) (bits h.stream.toNat 59 52)

/-- The stream header of packet i. -/
def streamHeader (f : Frame) (i : Nat) (last : Bool) (row : Nat) : List Byte :=
  leBytes 4 f.number ++ leBytes 2 i ++
    [BitVec.ofNat 8 (boolNat last + 2 * boolNat f.again + 4 * boolNat f.key), BitVec.ofNat 8 row]

/-- Bytes of a frame's OBU data: what the encoders make of it is free (log 25). -/
def State.obuBytes (s : State) (head : Nat) : Nat := 1 + Config.freeNat (s.freeIx (1000 + head))

/-- Packet i of a frame. -/
def State.packet (s : State) (cx : CtxId) (h : Head) (f : Frame) (size i : Nat) : List Byte :=
  let n := min 8192 (size - 8192 * i)
  let row := Config.freeNat (s.freeIx (4096 + i)) % 2 ^ hdTrlog h.cfg
  fillHeaders (s.template cx h ++ streamHeader f i (size ≤ 8192 * (i + 1)) row ++
    (List.range n).map fun j => Config.freeByte (s.freeIx (2 ^ 20 + 8192 * i + j)))

/-- The queue set of a head's partition that its packets leave on: the lowest-numbered (log 26). -/
def State.headQset (s : State) (cx : CtxId) : Option Nat :=
  (s.parts.get? (s.partOf cx)).bind fun p => (List.range 64).find? p.qsets.contains

/-- The first n packets of a frame leave, in index order. -/
def State.sendPackets (s : State) (cx : CtxId) (h : Head) (f : Frame) (size n qset : Nat) : State :=
  (List.range n).foldl (fun x i => x.transmit qset (bits h.stream.toNat 63 60) (s.packet cx h f size i)) s

/-- The frame a head is sending ends early: the packets up to a tile-row boundary, free which, have left (R439). -/
def State.endFrame (s : State) (head : Nat) : State :=
  let h := s.head head
  match h.queue, h.cx with
  | f :: _, some cx =>
    let size := s.obuBytes head
    let n := Config.freeNat (s.freeIx (2000 + head)) % ceilDiv size 8192
    let s := match s.headQset cx with
      | some q => s.sendPackets cx h f size n q
      | none => s
    s.updHead head fun h => { h with queue := [] }
  | _, _ => s.updHead head fun h => { h with queue := [] }

/-! Reading a presented surface (R436). -/

/-- A head's reads fill lines of the L2 as other reads do (15 R413). -/
def State.mediaTouch (s : State) (cx : CtxId) (va n : Nat) : State :=
  match s.span cx va n false with
  | .ok keys => s.touch cx.vd 0 keys
  | .error _ => s

/-- Every crumb of the frame's surface has been read. -/
def Frame.isRead (f : Frame) : Bool := f.size ≤ f.pixels.length

/-- A crumb joins the oldest frame that is not read to its end. -/
def addPixels (bs : List Byte) : List Frame → List Frame
  | [] => []
  | f :: fs => if f.isRead then f :: addPixels bs fs else { f with pixels := f.pixels ++ bs } :: fs

/-- The head reads the next crumb of the oldest frame that is not read to its end. -/
def State.readCrumb (s : State) (head : Nat) (cx : CtxId) : Option State :=
  ((s.head head).queue.find? fun f => !f.isRead).bind fun f =>
    let va := f.base + f.pixels.length
    s.gate (.head head) (s.mediaChans cx va 64) fun s =>
      some ((s.mediaTouch cx va 64).updHead head fun h => { h with queue := addPixels (s.mediaRead cx va 64) h.queue })

/-- The oldest frame of a head leaves whole, and counts. -/
def State.sendFrameOf (s : State) (head : Nat) (cx : CtxId) (f : Frame) (rest : List Frame) : Option State :=
  let h := s.head head
  (s.headQset cx).bind fun q =>
    s.gate (.head head) (s.mediaChans cx (bits h.stream.toNat 47 7 * 128) (bits h.stream.toNat 59 52)) fun s =>
    let size := s.obuBytes head
    let late := 1024 * bits h.enc.toNat 47 32 < size
    some ((s.sendPackets cx h f size (ceilDiv size 8192) q).updHead head fun h => { h with
      queue := rest
      frames := (h.frames + 1) % 2 ^ 32
      repeats := if f.again then (h.repeats + 1) % 2 ^ 16 else h.repeats
      overs := if late then (h.overs + 1) % 2 ^ 16 else h.overs })

/-- The oldest frame of a head is sent, once its surface has been read. -/
def execEncodeFrameSend (head : Nat) (s : State) : Outcome State Fault Refusal :=
  enabled s <| match (s.head head).queue, (s.head head).cx with
    | f :: rest, some cx => if f.isRead then s.sendFrameOf head cx f rest else s.readCrumb head cx
    | _, _ => none

/-! Enabling and disabling (R435, R436, R89). -/

/-- EN becomes 1: no SEQ is held, and the first scan-out start comes PERIOD later. -/
def Head.enable (h : Head) (c : W64) (ns : Nat) : Head :=
  { h with
    cfg := c
    lastSeq := none
    black := false
    sinceKey := 0
    queue := []
    nextStart := ns + 1000 * hdPeriod c }

/-- EN becomes 0: the frame in progress ends, and the last SEQ and frame are dropped. -/
def State.disableHead (s : State) (head : Nat) (c : W64) : State :=
  (s.endFrame head).updHead head fun h => { h with cfg := c, lastSeq := none, black := false }

/-- The PERIOD timer of a partition goes on where its last enabled head has gone. -/
def State.restartPeriod (s : State) (head : Nat) : State :=
  let parts : Tbl Part := s.parts.map fun x =>
    if x.2.heads.contains head && (s.frameHead x.2).isNone then
      let n := frPeriod x.2.frctl
      (x.1, { x.2 with deadline := x.2.deadline.map fun d => if d ≤ s.ns && 0 < n then d + ((s.ns - d) / n + 1) * n else d })
    else x
  { s with parts := parts }

/-- A write of HDCFG: whether it was accepted. -/
def State.writeHdcfg (s : State) (head : Nat) (value : W64) : Bool × State :=
  let h := s.head head
  let c := hdcfgOf value
  if !s.hdcfgOk h c then (false, s)
  else if c.getLsbD 63 then (true, if h.en then s else s.updHead head fun h => h.enable c s.ns)
  else if h.en then (true, (s.disableHead head c).restartPeriod head)
  else (true, s.updHead head fun h => { h with cfg := c })

def execHdcfgWrite (head : Nat) (value : W64) (s : State) : Outcome State Fault Refusal :=
  enabled s <| if head < 128 then some (s.writeHdcfg head value).2 else none

/-! Scan-out (R436). -/

/-- The surface that a present word names, where its record is good and has the head's size. -/
def State.presented (s : State) (cx : CtxId) (h : Head) (word : Nat) : Option Surface :=
  match s.span cx (bits word 47 6 * 64) 64 false with
  | .ok keys => (parseSurface (keys.map s.readKey)).filter fun r => r.w == hdW h.cfg && r.h == hdH h.cfg
  | .error _ => none

/-- The present word as the head reads it; none where its page is not mapped. -/
def State.presentWord (s : State) (cx : CtxId) (h : Head) : Option Nat :=
  match s.span cx (bits h.paddr.toNat 47 3 * 8) 8 false with
  | .ok keys => some (s.readKeys keys)
  | .error _ => none

/-- What a scan-out start presents: a SEQ that differs from the last one taken, and its surface. -/
def State.newFrame (s : State) (cx : CtxId) (h : Head) : Option (Nat × Surface) :=
  (s.presentWord cx h).bind fun w =>
    if h.lastSeq == some (bits w 63 48) then none else (s.presented cx h w).map fun r => (bits w 63 48, r)

/-- The next presented frame is a key frame. -/
def Head.keyDue (h : Head) : Bool :=
  (h.lastSeq.isNone && !h.black) || (bits h.enc.toNat 31 16 != 0 && bits h.enc.toNat 31 16 ≤ h.sinceKey)

/-- A head's frame at a scan-out start: presented; else a repeat, the first of them before any presented frame a black key
frame. -/
def State.scanFrame (s : State) (cx : CtxId) (h : Head) : Head :=
  let n := (h.frames + h.queue.length) % 2 ^ 32
  match s.newFrame cx h with
  | some (seq, r) =>
    let f : Frame := { number := n, again := false, key := h.keyDue, base := r.cbase, size := 256 * r.tiles, pixels := [] }
    { h with lastSeq := some seq, sinceKey := if h.keyDue then 0 else h.sinceKey + 1, queue := h.queue ++ [f] }
  | none =>
    let f : Frame := { number := n, again := true, key := h.lastSeq.isNone && !h.black, base := 0, size := 0, pixels := [] }
    { h with black := h.black || h.lastSeq.isNone, queue := h.queue ++ [f] }

/-- A deadline of the frame class that falls on a repeat of the partition's lowest-numbered enabled head is a miss. -/
def State.missAt (s : State) (head : Nat) : State :=
  let parts : Tbl Part := s.parts.map fun x =>
    if (s.frameHead x.2).map (·.1) == some head then (x.1, { x.2 with misses := x.2.misses + 1 }) else x
  { s with parts := parts }

/-- The channels that a scan-out start reads: the present word and the surface record. -/
def State.scanChans (s : State) (cx : CtxId) (h : Head) : List Nat :=
  s.mediaChans cx (bits h.paddr.toNat 47 3 * 8) 8 ++ match s.presentWord cx h with
    | some w => s.mediaChans cx (bits w 47 6 * 64) 64
    | none => []

/-- The present word and the surface record are read. -/
def State.scanTouch (s : State) (cx : CtxId) (h : Head) : State :=
  let s := s.mediaTouch cx (bits h.paddr.toNat 47 3 * 8) 8
  match s.presentWord cx h with
  | some w => s.mediaTouch cx (bits w 47 6 * 64) 64
  | none => s

/-- A scan-out start that is due; before it, the head reads on. -/
def execScanOutStart (head : Nat) (s : State) : Outcome State Fault Refusal :=
  enabled s <|
    let h := s.head head
    match h.cx with
    | some cx =>
      if !h.en || s.ns < h.nextStart then s.readCrumb head cx else
      s.gate (.head head) (s.scanChans cx h) fun s =>
        let h' := s.scanFrame cx h
        let s := if (s.newFrame cx h).isNone then s.missAt head else s
        some ((s.scanTouch cx h).updHead head fun _ => { h' with nextStart := h.nextStart + 1000 * hdPeriod h.cfg })
    | none => none

end Sys2Proof.Machine
end

