-- ==== Sys2Proof/Machine/Reset.lean ====
section
/-! DEFINITION. Resets: of a context, a virtual function, the physical function and the module, and memory errors (03 R94; 01 R30;
02 R61; 07 R225; 09 R254; 10 R309; 11 R324; 12 R351; 13 R386; 14 R402, R405; 15 R433; 16 R446, R448). -/

namespace Sys2Proof.Machine

open Sys2Proof Host

/-! Launch queues (R94 step 1, R85). -/

/-- Every queued record of a queue takes FSTAT 4, and the LAUNCHes they came from their records. -/
def State.abortQueue (s : State) (cx : CtxId) (q : Nat) (qu : Queue) : State :=
  match s.span cx qu.header 64 true with
  | .error _ => s.setQueue cx q { qu with notes := [], fault := none, todo := none }
  | .ok hk =>
    let h := s.qhead hk
    let s := s.setQueue cx q { qu with notes := [], fault := none, todo := none }
    if h.waiting == 0 then s else
    let s := (((s.headTouched cx qu.header hk).setQ32 hk offFidx (h.prod + 2 ^ 32 - 1)).setFstat hk 4).setQ32 hk offCons h.prod
    let size := 2 ^ h.log2n
    qu.notes.foldl (fun s x =>
      s.launchRecord x.2 qu.die (h.cons + (x.1 + size - h.cons % size) % size) 7 4) s

def State.abortQueues (s : State) (cx : CtxId) : State :=
  match s.ctx? cx with
  | some c => c.queues.foldl (fun s x => s.abortQueue cx x.1 x.2) s
  | none => s

/-! Teams, gangs, launches, control threads (R94 step 2). -/

def State.launchIs (s : State) (cx : CtxId) (launch : Nat) : Bool := (s.launch? launch).any fun l => l.cx == cx

/-- One team is killed, without saving. -/
def State.killTeam (s : State) (core slot : Nat) (t : Team) : State :=
  let s := (s.mxRelease core slot).dropRays t.gang t.index
  let s := s.dropFilters core slot
  let c := s.coreOf core
  let s := s.setCore core { c with dqWait := c.dqWait.filter fun x => x.1 != slot }
  { s with teams := s.teams.erase (teamKey core slot) }

/-- The context's gangs are gone, resident and saved, with their launches; a LAUNCH of another context learns of it. -/
def State.killGangs (s : State) (cx : CtxId) : State :=
  let ts := s.teams.filter fun x => s.teamCx x.2 == some cx
  let gs := s.gangs.filter fun x => s.launchIs cx x.2.launch
  let ls := s.launches.filter fun x => x.2.cx == cx
  let s := ts.foldl (fun s x => s.killTeam (x.1 / 16) (x.1 % 16) x.2) s
  let s := gs.foldl (fun s x => s.dropGang x.1 x.2) s
  let s := { s with
    sigs := s.sigs.filter fun x => !gs.any fun g => g.1 == x.gang
    launches := s.launches.filter fun x => x.2.cx != cx }
  ls.foldl (fun s x => match x.2.issuer with
    | some i => s.launchRecord i x.2.die x.2.index 1 0
    | none => s) s

/-- A core's control thread, killed: free, with nothing in its registers. -/
def Core.dropCtl (c : Core) : Core :=
  { c with posted := 0, drops := 0, ctl := { Ctl.init with copySeq := c.ctl.copySeq, run := c.ctl.run } }

/-- The context's control threads are free: the records that its reset has posted to them are gone with their event queues
(09 R254). -/
def State.killCtls (s : State) (cx : CtxId) : State :=
  (s.cores.filter fun x => x.2.ctl.owner == some cx).foldl (fun s x =>
    let s := s.freeCtl x.1
    s.setCore x.1 (s.coreOf x.1).dropCtl) s

/-! Commands (R94 step 3). -/

/-- Undefined bytes in n bytes of a context, as far as they are mapped (log 11). -/
def State.scribbleVa (s : State) (cx : CtxId) (va n : Nat) : State :=
  match s.span cx va n false with
  | .ok keys => s.scribble keys
  | .error _ => s

/-- What an aborted operation leaves in memory: an operation that had begun leaves its destination undefined. -/
def State.abortWrites (s : State) (o : EngOp) : State :=
  if !o.registered then s else
  match o.work with
  | .copy r _ _ => s.scribble (r.dstPieces.flatMap fun x => match s.rowKeys o.reach r.dsp x.1 x.2 true with
      | .ok ks => ks
      | .error _ => [])
  | .sred r => s.scribbleVa o.cx r.dst (r.count * (r.ty.width / 8))
  | .bank | .resolve => o.ranges.foldl (fun s r => if r.write then s.scribbleVa o.cx r.base r.len else s) s
  | .fetch _ => s

/-- The record of an aborted command (R30). -/
def State.abortRecord (s : State) (core : Nat) (cx : CtxId) (tag : W64) (src unit : Nat) : State :=
  s.postEvent core cx { tag := tag, src := src, status := 1, unit := unit, detail := 0 }

def State.abortOps (s : State) (cx : CtxId) : State :=
  (s.ops.filter fun x => x.2.cx == cx).foldl (fun s x =>
    let s := (s.abortWrites x.2).abortOp x.1
    match x.2.work with
    | .copy .. => s.abortRecord x.2.core cx 0 2 x.2.core
    | .fetch _ => (s.dropFills [x.1]).abortRecord x.2.core cx 0 3 x.2.core
    | _ => s) s

/-- The TCLOSEs of a context that wait for a drain: core and treelet (13 R386). -/
def State.closersOf (s : State) (cx : CtxId) : List (Nat × Nat) :=
  (s.treelets.filter fun x => x.1 / 65536 == cxKey cx).flatMap fun x => x.2.closers.map fun k => (k, x.1 % 65536)

/-- The stack, raster and traversal commands of the context end with STATUS 1. -/
def State.abortCommands (s : State) (cx : CtxId) : State :=
  let sc := s.scmds.filter fun x => x.2.cx == cx
  let rc := s.rcmds.filter fun x => x.2.cx == cx
  let tl : List (Nat × TlCmd) := s.tlq.flatMap fun x => (x.2.filter fun c => c.cx == cx).map fun c => (x.1, c)
  let q : Tbl (List TlCmd) := s.tlq.map fun x => (x.1, x.2.filter fun c => c.cx != cx)
  let s := { s with
    scmds := s.scmds.filter fun x => x.2.cx != cx
    rcmds := s.rcmds.filter fun x => x.2.cx != cx
    tlq := q.filter fun x => !x.2.isEmpty }
  let s := sc.foldl (fun s x => s.abortRecord x.2.core cx x.2.tag 6 x.2.stack) s
  let s := rc.foldl (fun s x => s.abortRecord x.2.core cx x.2.tag 7 x.2.die) s
  let s := tl.foldl (fun s x => s.abortRecord (x.1 / 16) cx (BitVec.ofNat 64 x.2.id) 5 (x.1 % 16)) s
  (s.closersOf cx).foldl (fun s x => s.abortRecord x.1 cx (BitVec.ofNat 64 x.2) 5 (tlStack x.2)) s

/-- Sessions of the context end, and what waited behind them is served. -/
def State.endSessions (s : State) (cx : CtxId) : State :=
  (s.sessions.filter fun x => x.2.cx == cx).foldl (fun s x => s.leaveBank (x.1 / 64) (x.1 % 64)) s

/-! What the context holds (R94 step 4). -/

/-- What waited for the context leaves the deferred queues. -/
def State.dropDeferred (s : State) (cx : CtxId) : State :=
  let stays (w : Waiter) : Bool := s.waiterLive w && match w with
    | .queue c _ => c != cx
    | .head n => (s.head n).cx != some cx
    | _ => true
  let q : Tbl (List Waiter) := s.deferred.map fun x => (x.1, x.2.filter stays)
  { s with deferred := q.filter fun x => !x.2.isEmpty }

/-- Decision-queue entries, held records, pins, locks, fault records, translations, treelets, rays, windows and frames. -/
def State.dropHeld (s : State) (cx : CtxId) : State :=
  let cores : Tbl Core := s.cores.map fun x =>
    (x.1, { x.2 with dq := x.2.dq.filter (fun y => y.1 != cx), held := x.2.held.filter fun y => y.1 != cx })
  let lines : Tbl Line := s.lines.map fun x => (x.1, if x.2.pin == some cx then { x.2 with pin := none } else x.2)
  let s := (s.heads.filter fun x => x.2.cx == some cx).foldl (fun s x => s.endFrame x.1) s
  let s := { s with
    cores := cores
    lines := lines
    locks := s.locks.filter fun l => l.cx != cx
    faults := s.faults.filter fun x => x.2.cx != cx
    treelets := s.treelets.filter fun x => x.1 / 65536 != cxKey cx
    rays := s.rays.filter fun x => x.2.cx != cx
    filters := s.filters.filter fun x => x.2.cx != cx }.dropTlb fun e => e.cx == cx
  match s.ctx? cx with
  | some c => s.setCtx cx { c with windows := [], isReset := true }
  | none => s

/-- A context is reset alone. None while an access of it waits for another context's session. -/
def State.resetContext (s : State) (cx : CtxId) : Option State :=
  if (s.ctx? cx).isNone then none else
  let s := (s.abortQueues cx).endSessions cx
  if s.cxStuck cx then none else
  let s := (((s.drainCx cx).killGangs cx).abortOps cx).abortCommands cx
  let s := ((s.killCtls cx).dropHeld cx).dropDeferred cx
  some (s.stackRunAll.postNotice (cx.vd + 1) noticeReset [cx.ctx])

def execContextReset (cx : CtxId) (s : State) : Outcome State Fault Refusal := enabled s (s.resetContext cx)

/-- The contexts of a virtual device. -/
def State.contextsOf (s : State) (vd : Nat) : List CtxId :=
  (s.ctxs.filter fun x => x.1 / 64 == vd).map fun x => ⟨x.1 / 64, x.1 % 64⟩

def State.resetAll (s : State) : List CtxId → Option State
  | [] => some s
  | c :: cs => (s.resetContext c).bind fun s => State.resetAll s cs

/-- A function-level reset of virtual function v + 1: its mailbox, and the contexts of virtual device v (16 R448). -/
def execVfFlr (vf : Nat) (s : State) : Outcome State Fault Refusal :=
  enabled s <| if vf == 0 || 128 < vf then none else { s with mail := s.mail.erase vf }.resetAll (s.contextsOf (vf - 1))

/-- An error that ECC corrects is counted; another resets the context that read it (16 R446). -/
def execEccError (cx : CtxId) (corrected : Bool) (s : State) : Outcome State Fault Refusal :=
  enabled s <| match s.ctx? cx with
    | some c =>
      if corrected then some (s.setCtx cx { c with ecc := c.ecc + 1 })
      else (s.resetContext cx).map fun s => s.postNotice (cx.vd + 1) noticeEcc [cx.ctx]
    | none => none

/-! The module (16 R448). -/

/-- Bring-up: the state after reset, with the model's own turns, counters and time. -/
def State.bringUp (s : State) : State :=
  { State.reset with agenda := s.agenda, fresh := s.fresh, nextId := s.nextId, fab := s.fab, stk := s.stk, ns := s.ns }

/-- Power is applied; Renweaz's digest may not match, which holds the module in reset. -/
def execPowerGood (digestOk : Bool) (s : State) : Outcome State Fault Refusal :=
  enabled s (some { s.bringUp with inReset := !digestOk })

def execPfReset (s : State) : Outcome State Fault Refusal := enabled s (some s.bringUp)

end Sys2Proof.Machine
end

