-- ==== Sys2Proof/Machine/Links.lean ====
section
/-! DEFINITION. Windows between devices, the Fakalvo transport, the IEEE 1588 clock and the Ethernet queue sets (02 R62 to R66;
08 R243, R244; 16 R440 to R443). -/

namespace Sys2Proof.Machine

open Sys2Proof Host

/-! Peers. -/

/-- The peers of the window group that are not lost. -/
def State.peers (s : State) : List (Nat × Stream) := s.streams.filter fun x => !x.2.lost

def State.peer? (s : State) (peer : Nat) : Option Stream := (s.streams.get? peer).filter fun x => !x.lost

/-- An item from a peer: 1 to 16 bytes at an address of the context's space. -/
def itemSpan (s : State) (cx : CtxId) (va n : Nat) (wr : Bool) : Option (List Nat) :=
  if n == 0 || 16 < n then none else
  match s.span cx va n wr with
  | .ok keys => some keys
  | .error _ => none

/-- A failed store from a peer is dropped and counted (R442). -/
def State.remoteError (s : State) (cx : CtxId) : State :=
  { s with vds := s.vds.alter cx.vd fun (v : Vdev) => { v with remoteErr := v.remoteErr + 1 } }

/-- A translation for a peer's access, at the hub: in the shared TLB of die 0 (log 12). -/
def State.walkedPeer (s : State) (cx : CtxId) (va : Nat) : State := s.walkedDie 0 cx va

/-- A store from a peer takes its place. -/
def State.applyWrite (s : State) (cx : CtxId) (va : Nat) (data : List Byte) : State :=
  match itemSpan s cx va data.length true with
  | some keys => (s.walkedPeer cx va).engineWrite cx.vd keys data (s.throughAt cx .g va)
  | none => s.remoteError cx

/-- A load from a peer takes its place: the item of its reply. -/
def State.applyRead (s : State) (cx : CtxId) (va n : Nat) : FkItem × State :=
  match itemSpan s cx va n false with
  | some keys => (.resp (keys.map s.readKey) false, (s.walkedPeer cx va).touch cx.vd 0 keys)
  | none => (.resp [] true, s)

/-- The channels that an item's access reaches. -/
def State.itemChans (s : State) (cx : CtxId) (x : FkItem) : List Nat :=
  match x with
  | .write va data => match itemSpan s cx va data.length true with
    | some keys => s.keysChans (s.throughAt cx .g va) keys
    | none => []
  | .read va n => match itemSpan s cx va n false with
    | some keys => s.keysChans false keys
    | none => []
  | .resp .. => []

/-! Owners of remote accesses (R243, R244; 01 R30). -/

/-- The agent's count of stores that are not acknowledged falls by one. -/
def State.acked (s : State) (who : OwnerRef) : State :=
  match who with
  | .team g i => s.updTeamRef g i fun t => { t with rpend := t.rpend - 1 }
  | .ctl core run => s.onCtl core fun c => if c.run == run then { c with rpend := c.rpend - 1 } else c

/-- The first item of a remote load that waits for this peer takes its value. -/
def Pend.reply (p : Pend) (peer data : Nat) : Pend :=
  match p.work with
  | .remote sg n cnt b items ws =>
    let mine (x : MemItem) : Bool := match x.place with
      | .remote q _ _ _ => q == peer
      | .here _ => false
    match items.find? mine with
    | some x =>
      let rest := items.erase x
      let ws := ws ++ loadWrites x sg n cnt b data
      { p with work := if rest.isEmpty then .results ws 0 else .remote sg n cnt b rest ws }
    | none => p
  | _ => p

def replyTo (ps : List Pend) (id peer data : Nat) : List Pend := ps.map fun p => if p.id == id then p.reply peer data else p

/-- A reply reaches the load of its agent; one for an agent that is gone is dropped. None while the load itself waits. -/
def State.deliverReply (s : State) (who : OwnerRef) (id peer data : Nat) : Option State :=
  match who with
  | .team g i => match s.whereTeam g i with
    | some (core, slot, t) =>
      if s.stuck (pendsTo id t.pend) then none else
      let (s, ps) := s.performTo core (s.teamVd t) id t.pend
      some (s.updTeam core slot fun t => { t with pend := replyTo ps id peer data })
    | none => some s
  | .ctl core run =>
    if (s.ctl core).run != run then some s
    else if s.stuck (s.ctl core).pend then none else
    let s := s.drainCtl core
    some (s.onCtl core fun c => { c with pend := replyTo c.pend id peer data })

/-! Frames (R441). -/

/-- The peer's acknowledgement: every frame up to that SEQ was applied. -/
def State.takeAck (s : State) (peer ack : Nat) : State :=
  let st := s.stream peer
  match st.unacked.findIdx? fun f => f.seq == ack with
  | none => s
  | some k =>
    let done := st.unacked.take (k + 1)
    let marks := done.filter fun f => f.kind == fkMarker
    let s := s.setStream peer { st with
      unacked := st.unacked.drop (k + 1)
      markerAck := match marks.getLast? with
        | some f => some f.window
        | none => st.markerAck }
    done.foldl (fun s f => match f.kind == fkWrite, f.who with
      | true, some w => s.acked w
      | _, _ => s) s

/-- The items of a frame reach memory together: the frame waits for every channel that one of them needs. -/
def State.gateFrame (s : State) (frame : FkFrame) (f : State → Option State) : Option State :=
  s.gate (.peer frame.peer frame.seq) (frame.items.flatMap (s.itemChans frame.dst)).dedup f

/-- A frame is accepted where it is the next of its stream; the rest are discarded. `body` applies its items, in order. -/
def State.receive (s : State) (f : FkFrame) (body : State → Option State) : Option State :=
  match s.peer? f.peer with
  | some st =>
    if f.version != 1 then some s
    else if f.seq != st.expect then some s
    else s.gateFrame f fun s => (body (s.takeAck f.peer f.ack)).map fun s =>
      let st := s.stream f.peer
      s.setStream f.peer { st with expect := (st.expect + 1) % 2 ^ 32 }
  | none => none

/-- The items of a WRITE frame. -/
def State.applyWrites (s : State) (cx : CtxId) : List FkItem → Option State
  | [] => some s
  | .write va data :: r => State.applyWrites (s.applyWrite cx va data) cx r
  | _ :: _ => none

/-- The items of a READ frame, and the items of its reply. -/
def State.applyReads (s : State) (cx : CtxId) : List FkItem → Option (List FkItem × State)
  | [] => some ([], s)
  | .read va n :: r =>
    let x := s.applyRead cx va n
    (State.applyReads x.2 cx r).map fun y => (x.1 :: y.1, y.2)
  | _ :: _ => none

/-- The items of a READRESP frame, for the oldest loads of the stream that wait. -/
def State.applyReplies (s : State) (peer : Nat) : List FkItem → Option State
  | [] => some s
  | .resp data failed :: r =>
    let st := s.stream peer
    match st.reads with
    | (who, id) :: rest =>
      ((s.setStream peer { st with reads := rest }).deliverReply who id peer (if failed then 0 else leNat data)).bind fun s =>
        State.applyReplies s peer r
    | [] => State.applyReplies s peer r
  | _ :: _ => none

def execFakalvoWrite (frame : FkFrame) (s : State) : Outcome State Fault Refusal :=
  enabled s (s.receive frame fun s => s.applyWrites frame.dst frame.items)

def execFakalvoRead (frame : FkFrame) (s : State) : Outcome State Fault Refusal :=
  enabled s (s.receive frame fun s => (s.applyReads frame.dst frame.items).map fun x =>
    x.2.sendFrame frame.peer fkReadResp frame.dst x.1 0 none)

def execFakalvoReadresp (frame : FkFrame) (s : State) : Outcome State Fault Refusal :=
  enabled s (s.receive frame fun s => s.applyReplies frame.peer frame.items)

/-- An ACK takes no place in the stream's order. -/
def execFakalvoAck (frame : FkFrame) (s : State) : Outcome State Fault Refusal :=
  enabled s ((s.peer? frame.peer).map fun _ => if frame.version == 1 then s.takeAck frame.peer frame.ack else s)

/-- A close marker: every store before it has been applied. -/
def execFakalvoMarker (frame : FkFrame) (s : State) : Outcome State Fault Refusal :=
  enabled s (s.receive frame fun s =>
    some (s.setStream frame.peer { s.stream frame.peer with markerIn := some frame.window }))

/-- Every unacknowledged frame is sent again, as it was. -/
def execFakalvoRetransmit (peer : Nat) (s : State) : Outcome State Fault Refusal :=
  enabled s ((s.peer? peer).bind fun st => if st.unacked.isEmpty then none else some s)

/-- One remote access of a peer takes effect: a store is applied, a load is answered (02 R63). No frame's SEQ is 2³², which names
its place in a deferred queue. -/
def execRemoteApply (peer : Nat) (cx : CtxId) (item : FkItem) (s : State) : Outcome State Fault Refusal :=
  enabled s <| (s.peer? peer).bind fun _ => s.gate (.peer peer (2 ^ 32)) (s.itemChans cx item) fun s => match item with
    | .write va data => some (s.applyWrite cx va data)
    | .read va n =>
      let x := s.applyRead cx va n
      some (x.2.sendFrame peer fkReadResp cx [x.1] 0 none)
    | .resp .. => none

/-! Windows (02 R62, R64, R65). -/

/-- Group time in ns (16 R443). -/
def State.groupTime (s : State) : Nat := ((s.ns : Int) + s.ptp).toNat

/-- L in ns. -/
def State.winLen (s : State) : Nat := 2 ^ s.winExp * 1000

/-- Both markers of a window have come, or there is no such window. -/
def Stream.closed (st : Stream) (win : Nat) : Bool :=
  win == 0 || ((match st.markerIn with | some n => win ≤ n + 1 | none => false) &&
    match st.markerAck with | some n => win ≤ n + 1 | none => false)

/-- The device begins the next window, and sends its close marker for the last. -/
def execWindowAdvance (s : State) : Outcome State Fault Refusal :=
  enabled s <|
    if s.groupTime < (s.win + 1) * s.winLen || !(s.peers.all fun x => x.2.closed s.win) then none else
    let s := s.peers.foldl (fun s x => s.sendFrame x.1 fkMarker ⟨0, 0⟩ [] s.win none) s
    some { s with win := s.win + 1 }

/-- The first window whose marker from the peer, or whose acknowledgement of the own marker, is missing. -/
def Stream.missing (st : Stream) : Nat :=
  let next (x : Option Nat) : Nat := match x with
    | some n => n + 1
    | none => 0
  min (next st.markerIn) (next st.markerAck)

/-- Where an agent runs, and its context. -/
def State.ownerAt (s : State) (who : OwnerRef) : Option (Nat × CtxId) :=
  match who with
  | .team g i => (s.whereTeam g i).bind fun x => (s.teamCx x.2.2).map fun cx => (x.1, cx)
  | .ctl core run => if (s.ctl core).run == run then (s.ctl core).owner.map fun cx => (core, cx) else none

/-- WINWs that wait complete. -/
def State.releaseWinw (s : State) : State :=
  let teams : Tbl Team := s.teams.map fun x => (x.1, if x.2.waitsIn .winw then { x.2 with rwin := none } else x.2)
  let cores : Tbl Core := s.cores.map fun x =>
    (x.1, if x.2.ctl.mode == .winw then { x.2 with ctl := { x.2.ctl with rwin := none } } else x.2)
  { s with teams := teams, cores := cores }

/-- Loads that wait for a lost peer complete with 0. -/
def State.failReads (s : State) (peer : Nat) : List (OwnerRef × Nat) → Option State
  | [] => some s
  | (who, id) :: r => (s.deliverReply who id peer 0).bind fun s => State.failReads s peer r

/-- A peer is lost, WTO after group time (N + 2) · L for a window N whose markers are missing. -/
def execPeerLost (peer : Nat) (s : State) : Outcome State Fault Refusal :=
  enabled s <| (s.peer? peer).bind fun st =>
    let n := st.missing
    if s.groupTime < (n + 2) * s.winLen + s.wto then none else
    let owners := ((st.reads.map (·.1) ++ st.unacked.filterMap fun f => f.who).filterMap s.ownerAt).dedup
    let vds := ((s.ctxs.filter fun x => x.2.remote.any fun r => r.peer == peer).map fun x => x.1 / 64).dedup
    let s := s.setStream peer { st with lost := true, reads := [] }
    (s.failReads peer st.reads).map fun s =>
      let s := owners.foldl (fun s x => s.postEvent x.1 x.2
        { tag := BitVec.ofNat 64 n, src := 9, status := 5, unit := peer, detail := 0 }) s.releaseWinw
      vds.foldl (fun s v => s.postNotice (v + 1) noticePeer [peer]) s

/-! The clock and the ports (16 R440, R443). -/

/-- An IEEE 1588 message: its timestamp at the port, and the servo's correction of the clock, if any. -/
def execPtpMessage (port : Nat) (offset : Option Int) (s : State) : Outcome State Fault Refusal :=
  enabled s <| if 8 ≤ port then none else
    let s := { s with stamps := s.stamps.set port s.groupTime }
    match offset with
    | some d => some { s with ptp := s.ptp + d }
    | none => some s

/-- FKETYPE of a port. -/
def State.fkType (s : State) (port : Nat) : Nat := (s.fketype.get 0x88B5 port).toNat

/-- EtherType of a frame, behind an IEEE 802.1Q tag where it has one; network byte order. -/
def etherType (f : List Byte) : Nat :=
  let at' (i : Nat) : Nat := 256 * (f.getD i 0).toNat + (f.getD (i + 1) 0).toNat
  if at' 12 == 0x8100 then at' 16 else at' 12

/-- A frame enters a receive queue of a queue set, or the oldest frame of a transmit queue leaves. Fakalvo frames go to the
transport. -/
def execEthernetFrame (qset queue : Nat) (rx : Option (List Byte)) (s : State) : Outcome State Fault Refusal :=
  enabled s <| if 64 ≤ qset || 16 ≤ queue then none else
    let x := s.ethSet qset
    match rx with
    | some f =>
      if f.length < 14 || 9216 < f.length || etherType f == s.fkType (qset / 8) then none
      else some (s.setEth qset { x with rx := x.rx.set queue (x.rx.get [] queue ++ [f]) })
    | none => match x.tx.get [] queue with
      | _ :: rest => some (s.setEth qset { x with tx := x.tx.put [] queue rest })
      | [] => none

end Sys2Proof.Machine
end

