-- ==== Sys2Proof/Machine/Registers.lean ====
section
/-! DEFINITION. Registers as software writes them (00 R7), core registers as Renweaz reaches them (09 R256), and the settings that
Renweaz makes within their ranges (16 R447; 02 R45, R62, R65; 03 R93; 16 R441), with a stopped team's registers for a debugger
(07 R217). -/

namespace Sys2Proof.Machine

open Sys2Proof Host

/-- WDT is 1 ms to 16 s, in ns (03 R93). -/
def wdtFits (wdt : Nat) : Bool := 1000000 ≤ wdt && wdt ≤ 16000000000

/-- CTO is 0.1 ms to 1 s, in ns (03 R93). -/
def ctoFits (cto : Nat) : Bool := 100000 ≤ cto && cto ≤ 1000000000

/-! A stopped team (07 R217, R220). -/

/-- The team is stopped: by itself, or with its gang. -/
def State.teamStopped (s : State) (t : Team) : Bool :=
  t.stops.fault || t.stops.debug || match s.gang? t.gang with
    | some g => g.stopMode || g.faultStop
    | none => false

/-- The team has the register. -/
def Team.hasReg (t : Team) (reg : TeamReg) : Bool :=
  match reg with
  | .v i r => i < t.threads && r < t.regs
  | .s r => r < 64
  | .p i n => i < t.threads && n < 12
  | .control n => n < 10

/-- TPC as a debugger writes it: a team in context fault handling goes on there, as TRET would have it (07 R219). -/
def Team.debugTpc (t : Team) (x : Nat) : Team :=
  { t with tpc := BitVec.ofNat 64 x, stops := { t.stops with toTpc := t.stops.toTpc || t.stops.fault } }

/-- A debugger writes a register of the team or of its trap state; SPLITS and INH stay as they are (log 81). -/
def Team.debugWrite (t : Team) (reg : TeamReg) (x : Nat) : Team :=
  match reg with
  | .v i r => t.setV i r (BitVec.ofNat 32 x)
  | .s r => t.setS r (BitVec.ofNat 32 x)
  | .p i n => t.setPbit i n (bitAt x 0)
  | .control 6 => t.debugTpc x
  | .control 7 => { t with tcause := (t.tcause &&& 0x80000000) ||| (BitVec.ofNat 32 x &&& 0x40FF0F0F) }
  | .control 8 => { t with taddr := BitVec.ofNat 64 x }
  | .control n => t.writeControl n x

def State.writeTeamReg (s : State) (core slot : Nat) (reg : TeamReg) (x : Nat) : Option State :=
  (s.team? core slot).bind fun t =>
    if s.teamStopped t && t.hasReg reg then some (s.setTeam core slot (t.debugWrite reg x)) else none

/-! The sealed pool (02 R45). -/

/-- The pool would leave a set over the pin bound, or take a way of a valid slot's WAYMASK (02 R42, 03 R81). -/
def State.poolBad (s : State) (n : Nat) : Bool :=
  (s.lines.any fun x => x.2.pin.isSome && 14 < s.setPins x + s.waysConverted (crumbSlice x.2.tile x.1) + n) ||
  s.wayqs.any fun x => ((s.arb ⟨2, x.1 / 16⟩).slot (x.1 % 16)).valid && (List.range 16).any fun w =>
    bitAt (wayMask x.2.toNat) w && w + s.waysConverted (x.1 / 16) < 16 && 16 ≤ w + s.waysConverted (x.1 / 16) + n

/-- The sealed pool takes 0 to 2 ways of every slice: lines of the ways that it takes or gives up leave. -/
def State.setPool (s : State) (n : Nat) : Option State :=
  if 2 < n || s.poolBad n then none else
  let gone := s.lines.filter fun x =>
    let top := x.2.way + s.waysConverted (crumbSlice x.2.tile x.1)
    top < 16 && 16 ≤ top + max n s.poolWays && top + min n s.poolWays < 16
  if gone.any fun x => x.2.tile && s.tileDirty (64 * x.1) && s.tileStuck (64 * x.1) then none else
  let pinned := gone.filter fun x => x.2.pin.isSome
  let s := (gone.filter fun x => x.2.pin.isNone).foldl (fun s x => s.evictCrumb x.1) s
  let s := pinned.foldl (fun s x => s.movePin (s.waysConverted (crumbSlice x.2.tile x.1) + n) x.1) s
  some { s with poolWays := n }

/-! The window group (02 R62, 16 R441). -/

/-- A device enters the group, or leaves it: a group holds at most 64, and one that leaves has nothing outstanding. -/
def State.setPeer (s : State) (index : Nat) (inGroup : Bool) : Option State :=
  if 64 ≤ index || index == s.device then none
  else match s.streams.get? index with
    | some st =>
      if !inGroup then (if st.lost || (st.reads.isEmpty && st.unacked.isEmpty) then some { s with streams := s.streams.erase index } else none)
      else some (if st.lost then s.setStream index Stream.init else s)
    | none => if inGroup && s.streams.length < 63 then some (s.setStream index Stream.init) else none

/-! Registers (00 R7). -/

/-- A write by the access column: read-write fields are set, W1C bits cleared where 1 is written, the rest is ignored. Settings and
a team's registers have writes of their own. -/
def State.writeReg (s : State) (reg : RegRef) (value : W64) : State :=
  match reg with
  | .slotmap k n => s.setArb k { s.arb k with slotmap := (s.arb k).slotmap.set n value }
  | .arberr k => s.setArb k { s.arb k with err := (s.arb k).err &&& ~~~ (value &&& 0xF) }
  | .hdenc h => s.updHead h fun x => { x with enc := value &&& 0x0000FFFFFFFFFFFF }
  | .hdpaddr h => s.updHead h fun x => { x with paddr := value &&& 0x0000FFFFFFFFFFF8 }
  | .hdstream h => s.updHead h fun x => { x with stream := value &&& 0xFFF0FFFFFFFFFF80 }
  | .fketype p => { s with fketype := s.fketype.put 0x88B5 p (value &&& 0xFFFF) }
  | .coreReg c n => if n == 4 then s.onCtl c fun x => { x with clrb := clrbOf value.toNat } else s
  | .arbinfo _ | .arbpool _ | .bkstat _ _ | .frstat _ | .hdstat _ | .carve _ => s
  | .winExp | .wto | .rto | .ownIndex | .peer _ | .poolWays | .wdt _ | .cto _ | .team .. => s

/-- The register exists. -/
def regOk (reg : RegRef) : Bool :=
  match reg with
  | .slotmap k n => arbOk k && n < 8
  | .arberr k | .arbinfo k | .arbpool k => arbOk k
  | .bkstat k n => arbOk k && n < arbSlots k.kind
  | .frstat p => p < 16
  | .hdenc h | .hdpaddr h | .hdstream h | .hdstat h => h < 128
  | .fketype p => p < 8
  | .carve c => c < 384
  | .coreReg c n => c < 384 && n < 7
  | .winExp | .wto | .rto | .ownIndex | .peer _ | .poolWays | .wdt _ | .cto _ | .team .. => true

/-- A write of a setting, of a time in ns, within its range; the hardware takes no other value. -/
def State.writeAny (s : State) (reg : RegRef) (value : W64) : Option State :=
  let x := value.toNat
  let vdev (vd : Nat) (ok : Bool) (f : Vdev → Vdev) : Option State :=
    if ok && (s.vds.get? vd).isSome then some { s with vds := s.vds.alter vd f } else none
  match reg with
  | .winExp => if x ≤ 6 then some { s with winExp := x } else none
  | .wto => if 100000 ≤ x && x ≤ 100000000 then some { s with wto := x } else none
  | .rto => if 10000 ≤ x && x ≤ 10000000 then some { s with rto := x } else none
  | .ownIndex => if x < 64 && (s.streams.get? x).isNone then some { s with device := x } else none
  | .peer i => s.setPeer i (x != 0)
  | .poolWays => s.setPool x
  | .wdt vd => vdev vd (wdtFits x) fun v => { v with wdt := x }
  | .cto vd => vdev vd (ctoFits x) fun v => { v with cto := x }
  | .team core slot r => s.writeTeamReg core slot r x
  | reg => some (s.writeReg reg value)

def execRegisterWrite (reg : RegRef) (value : W64) (s : State) : Outcome State Fault Refusal :=
  enabled s <| if regOk reg then s.writeAny reg value else none

end Sys2Proof.Machine
end

