-- ==== Sys2Proof/Machine/Mailbox.lean ====
section
/-! DEFINITION. The mailbox of each function, and the commands of virtual functions (16 R444 to R446; 03 R85; 09 R252, R254;
12 R328; 14 R400, R405; 13 R354). -/

namespace Sys2Proof.Machine

open Sys2Proof Host

/-! Requests and responses (R444). A request other than MEMWR and MEMRD is served in one step (log 27). -/

def Mailbox.init : Mailbox := { status := 0, tag := 0, results := [], staging := [], irq0 := 0, irq1 := 0, run := none }

def State.mailbox (s : State) (fn : Nat) : Mailbox := s.mail.get Mailbox.init fn

/-- MBSTAT.BUSY of a virtual function: a request to it is ignored. -/
def State.busy (s : State) (fn : Nat) : Bool := fn != 0 && (s.mailbox fn).run.isSome

/-- STATUS of a response: done, refused, not allowed on this function. -/
def stDone : Nat := 0
def stRefused : Nat := 1
def stNotAllowed : Nat := 3

/-- A response, with its signal on vector 0. -/
def State.respond (s : State) (fn tag status : Nat) (results : List Nat) : State :=
  let m := s.mailbox fn
  { s with mail := s.mail.set fn { m with status := status, tag := tag % 2 ^ 32, results := results, irq0 := m.irq0 + 1 } }

/-- What a command answers: its STATUS, its results, and the state. -/
structure Reply where
  status : Nat
  results : List Nat
  st : State

def State.done (s : State) : Reply := ⟨stDone, [], s⟩

def State.refuse (s : State) : Reply := ⟨stRefused, [], s⟩

/-- What comes of a request: its answer, or a state in which it stays busy. -/
inductive Asked where
  | reply (r : Reply)
  | deferred (s : State)

/-- The state that a request leaves. -/
def Asked.answer (x : Asked) (fn tag : Nat) : State :=
  match x with
  | .reply r => r.st.respond fn tag r.status r.results
  | .deferred s => s

/-- A request that reaches these channels: it goes on, or is deferred; none where it waits and nothing changes (14 R401). -/
def State.askChans (s : State) (fn : Nat) (chans : List Nat) (f : State → Asked) : Option Asked :=
  let w : Waiter := .host fn
  if chans.any (s.barred (some w)) then (s.deferAs w chans).map .deferred else some (f (s.undefer w))

/-- A command of virtual functions, run for a virtual device; none while it waits. -/
def vfAsk (fn tag : Nat) (s : State) (run : Nat → Option Asked) : Outcome State Fault Refusal :=
  enabled s <|
    if 128 < fn then none
    else if fn == 0 then some (s.respond fn tag stNotAllowed [])
    else (run (fn - 1)).map fun x => x.answer fn tag

/-- A command of virtual functions that a busy mailbox ignores. -/
def vfCommand (fn tag : Nat) (s : State) (run : Nat → Option Asked) : Outcome State Fault Refusal :=
  vfAsk fn tag s fun vd => if s.busy fn then none else run vd

/-- A command of virtual functions that reaches no channel. -/
def vfPlain (fn tag : Nat) (s : State) (run : Nat → Option Reply) : Outcome State Fault Refusal :=
  vfCommand fn tag s fun vd => (run vd).map .reply

/-- A command of the physical function. -/
def pfAsk (fn tag : Nat) (s : State) (run : Option Asked) : Outcome State Fault Refusal :=
  enabled s <|
    if 128 < fn || s.busy fn then none
    else if fn != 0 then some (s.respond fn tag stNotAllowed [])
    else run.map fun x => x.answer fn tag

/-- A command of the physical function that is answered at once, or waits as it is. -/
def pfCommand (fn tag : Nat) (s : State) (run : Option Reply) : Outcome State Fault Refusal := pfAsk fn tag s (run.map .reply)

/-- The context is one of the virtual device's. -/
def State.ownsCtx (s : State) (vd : Nat) (cx : CtxId) : Bool := cx.vd == vd && (s.ctx? cx).isSome

/-! Launch queues (03 R85, R450). -/

/-- A request for a queue of the virtual device: refused where there is none. The dispatcher reads the header again at each one,
also at one that is refused because the header cannot be written (R450). A request that is made has the keys of the header. -/
def State.queueRequest (s : State) (fn vd : Nat) (cx : CtxId) (q : Nat) (f : State → List Nat → Reply) : Option Asked :=
  if !s.ownsCtx vd cx then some (.reply s.refuse) else
  match s.queue? cx q with
  | none => some (.reply s.refuse)
  | some qu =>
    let again (s : State) : State := s.setQueue cx q { qu with passed := false }
    match s.span cx qu.header 64 true with
    | .error _ => some (.reply (again s).refuse)
    | .ok hk => s.askChans fn (s.headChans cx qu.header hk) fun s => .reply (f (again (s.headTouched cx qu.header hk)) hk)

/-- PROD of a queue that control threads feed is refused (09 R269). -/
def execProd (fn tag : Nat) (cx : CtxId) (queue value : Nat) (s : State) : Outcome State Fault Refusal :=
  vfCommand fn tag s fun vd => s.queueRequest fn vd cx queue fun s hk =>
    if (s.qhead hk).feed then s.refuse else (s.setQ32 hk offProd value).done

def execFclr (fn tag : Nat) (cx : CtxId) (queue : Nat) (s : State) : Outcome State Fault Refusal :=
  vfCommand fn tag s fun vd => s.queueRequest fn vd cx queue fun s hk => (s.setFstat hk 0).done

/-! Control programs (09 R252, R254). -/

/-- The core lies in a cluster of a context's partition. -/
def State.coreIn (s : State) (cx : CtxId) (core : Nat) : Bool :=
  core < 384 && (s.parts.get? (s.partOf cx)).any fun p => p.clusters.contains (coreCluster core)

def execCtlstart (fn tag : Nat) (cx : CtxId) (core entry arg : Nat) (s : State) : Outcome State Fault Refusal :=
  vfPlain fn tag s fun vd => some <|
    if !s.ownsCtx vd cx || !s.coreIn cx core || (s.ctl core).mode != .free || entry % 32 != 0 || 2 ^ 48 ≤ entry then s.refuse
    else (s.startCtl core cx entry (arg % 2 ^ 64)).done

/-- A control thread of the virtual device stops, once its stores can take their place. -/
def execCtlstop (fn tag core : Nat) (s : State) : Outcome State Fault Refusal :=
  vfPlain fn tag s fun vd => match (s.ctl core).owner with
    | some cx =>
      if cx.vd != vd then some s.refuse
      else if s.stuck (s.ctl core).pend then none
      else some (s.freeCtl core).done
    | none => some s.refuse

/-! Engine windows (12 R328, 14 R400). -/

/-- A page of a window: a hole, or in a group of the stack that the partition owns. -/
def State.windowPage (s : State) (p : Part) (cx : CtxId) (stack va : Nat) : Bool :=
  match s.leafWhere? cx va with
  | some x => let pa := pteAddr x.2.1 + va % leafBytes x.1; stackOf pa == stack && p.ownsPA pa
  | none => true

/-- The physical page of a virtual one. -/
def State.pagePA (s : State) (cx : CtxId) (va : Nat) : Option Nat :=
  (s.leafWhere? cx va).map fun x => pteAddr x.2.1 + va % leafBytes x.1

/-- An aligned 128 KiB of a window with the bank option maps one aligned 128 KiB, or nothing. -/
def State.bankRun (s : State) (cx : CtxId) (va : Nat) : Bool :=
  match s.pagePA cx va, s.pagePA cx (va + 65536) with
  | some a, some b => a % 2 ^ 17 == 0 && b == a + 65536
  | none, none => true
  | _, _ => false

/-- The request's range is a window's, wholly in groups of one stack that the context's partition owns. -/
def State.windowFits (s : State) (cx : CtxId) (base len stack : Nat) (bank : Bool) : Bool :=
  base % 65536 == 0 && len % 65536 == 0 && 0 < len && base + len ≤ 2 ^ 48 && stack < 12 &&
  (match s.parts.get? (s.partOf cx) with
   | some p => (windowPages base len).all (s.windowPage p cx stack)
   | none => false) &&
  (!bank || (base % 2 ^ 17 == 0 && len % 2 ^ 17 == 0 &&
    (List.range (len / 2 ^ 17)).all fun i => s.bankRun cx (base + 2 ^ 17 * i)))

/-- Lines of a physical range are clean. -/
def State.cleanRange (s : State) (base n : Nat) : State :=
  { s with lines := s.lines.map fun x =>
      (x.1, if base ≤ 64 * x.1 && 64 * x.1 < base + n && !x.2.tile then { x.2 with dirty := false } else x.2) }

/-- Sets or clears E in the leaf that maps an address; as it is set, dirty lines of the leaf are written back. -/
def State.setEbit (s : State) (cx : CtxId) (on : Bool) (va : Nat) : State :=
  match s.leafWhere? cx va with
  | some x =>
    let e := x.2.1 - (if bitAt x.2.1 4 then 16 else 0) + (if on then 16 else 0)
    let s := s.writePA x.2.2 8 e
    if on then s.cleanRange (pteAddr x.2.1) (leafBytes x.1) else s
  | none => s

def execWinopen (fn tag : Nat) (cx : CtxId) (base len stack : Nat) (bank : Bool) (s : State) : Outcome State Fault Refusal :=
  vfPlain fn tag s fun vd => some <|
    match s.ctx? cx with
    | some c =>
      if cx.vd != vd || !s.windowFits cx base len stack bank || 64 ≤ c.windows.length ||
          c.windows.any fun w => w.base < base + len && base < w.base + w.len then s.refuse
      else
        let s := s.setCtx cx { c with windows := c.windows ++ [{ base := base, len := len, stack := stack, bank := bank }] }
        ((windowPages base len).foldl (fun s va => s.setEbit cx true va) s).done
    | none => s.refuse

/-- A treelet of the window is not ABSENT. -/
def State.windowTreelets (s : State) (cx : CtxId) (w : Window) : Bool :=
  s.treelets.any fun x => x.1 / 65536 == cxKey cx && x.2.st != .absent && w.base ≤ x.2.base && x.2.base < w.base + w.len

/-- A stack command whose memory lies in the window has not completed. -/
def State.windowNamed (s : State) (cx : CtxId) (w : Window) : Bool :=
  s.ops.any fun x => x.2.cx == cx && (match x.2.work with | .sred _ | .bank => true | _ => false) &&
    x.2.ranges.any fun r => r.space == .global && r.base < w.base + w.len && w.base < r.base + r.len

/-- The pages of a leaf lie in no window of the context. -/
def State.leafUnwindowed (s : State) (cx : CtxId) (c : Ctx) (va : Nat) : Bool :=
  match s.leafWhere? cx va with
  | some x =>
    let n := leafBytes x.1
    let b := alignDown va n
    !c.windows.any fun w => w.base < b + n && b < w.base + w.len
  | none => false

def execWinclose (fn tag : Nat) (cx : CtxId) (base : Nat) (s : State) : Outcome State Fault Refusal :=
  vfPlain fn tag s fun vd => match s.ctx? cx with
    | some c => match c.windows.find? fun w => w.base == base with
      | some w =>
        if cx.vd != vd || s.windowTreelets cx w then some s.refuse
        else if s.windowNamed cx w || s.windowRead cx w then none
        else
          let c := { c with windows := c.windows.erase w }
          let s := s.setCtx cx c
          some ((windowPages w.base w.len).foldl (fun s va => if s.leafUnwindowed cx c va then s.setEbit cx false va else s) s).done
      | none => some s.refuse
    | none => some s.refuse

/-! Memory (R444). -/

/-- The keys of a transfer of at most 32 KiB in the context's own memory; none where it is refused (log 28). -/
def State.hostSpan (s : State) (vd : Nat) (cx : CtxId) (va n : Nat) (wr : Bool) : Option (List Nat) :=
  if !s.ownsCtx vd cx || 32768 < n || (s.remoteOf cx va).isSome then none else
  match s.span cx va n wr with
  | .ok keys => some keys
  | .error _ => none

/-- The staging buffer holds these bytes from a place on. -/
def State.stage (s : State) (fn at' : Nat) (bs : List Byte) : State :=
  let m := s.mailbox fn
  { s with mail := s.mail.set fn { m with staging := Memory.writes m.staging (((List.range bs.length).map (at' + ·)).zip bs) } }

/-- n bytes of the staging buffer from a place on. -/
def State.staged (s : State) (fn at' n : Nat) : List Byte :=
  (List.range n).map fun i => Memory.read (s.mailbox fn).staging (at' + i)

/-- What keeps the mailbox busy. -/
def State.setRun (s : State) (fn : Nat) (x : Option Transfer) : State :=
  let m := s.mailbox fn
  { s with mail := s.mail.set fn { m with run := x } }

/-- First byte and length of the next crumb of a transfer. -/
def Transfer.crumb (x : Transfer) : Nat × Nat := chunkOf x.va x.len x.moved

/-- The access of the next crumb, at its keys. -/
def State.moveBytes (s : State) (fn : Nat) (x : Transfer) (keys : List Nat) : State :=
  let (lo, n) := x.crumb
  let s := s.walkedPeer x.cx lo
  if x.write then s.engineWrite x.cx.vd keys (s.staged fn (lo - x.va) n) (s.throughAt x.cx .g lo)
  else (s.touch x.cx.vd 0 keys).stage fn (lo - x.va) (keys.map s.readKey)

/-- A transfer moves its next crumb, as one access in the total order; with the last it is answered. It waits behind a lock. -/
def State.moveCrumb (s : State) (fn vd : Nat) (x : Transfer) : Option Asked :=
  let (lo, n) := x.crumb
  match s.hostSpan vd x.cx lo n x.write with
  | none => some (.reply (s.setRun fn none).refuse)
  | some keys =>
    if s.lockHit x.cx .global lo n x.write then none
    else s.askChans fn (s.keysChans (x.write && s.throughAt x.cx .g lo) keys) fun s =>
      let s := s.moveBytes fn x keys
      if x.va + x.len ≤ lo + n then .reply (s.setRun fn none).done
      else .deferred (s.setRun fn (some { x with moved := x.moved + 1 }))

/-- MEMWR or MEMRD: it is refused, or keeps the mailbox busy until its crumbs are moved; another request meanwhile is ignored. -/
def State.transfer (s : State) (fn vd : Nat) (x : Transfer) (data : List Byte) : Option Asked :=
  match (s.mailbox fn).run with
  | some y => if y == { x with moved := y.moved } then s.moveCrumb fn vd y else none
  | none => match s.hostSpan vd x.cx x.va x.len x.write with
    | none => some (.reply s.refuse)
    | some _ =>
      let s := s.stage fn 0 data
      if x.len == 0 then some (.reply s.done) else some (.deferred (s.setRun fn (some x)))

def execMemwr (fn tag : Nat) (cx : CtxId) (va : Nat) (data : List Byte) (s : State) : Outcome State Fault Refusal :=
  vfAsk fn tag s fun vd =>
    s.transfer fn vd { tag := tag, cx := cx, va := va, len := data.length, write := true, moved := 0 } data

def execMemrd (fn tag : Nat) (cx : CtxId) (va len : Nat) (s : State) : Outcome State Fault Refusal :=
  vfAsk fn tag s fun vd => s.transfer fn vd { tag := tag, cx := cx, va := va, len := len, write := false, moved := 0 } []

/-! Notices and monitors (R444, R446; 02 R43). -/

/-- A command that every function may give. -/
def anyCommand (fn tag : Nat) (s : State) (r : Reply) : Outcome State Fault Refusal :=
  enabled s <| if 128 < fn || s.busy fn then none else some (r.st.respond fn tag r.status r.results)

def execGetnote (fn tag : Nat) (s : State) : Outcome State Fault Refusal :=
  anyCommand fn tag s <| match s.notices.get [] fn with
    | n :: rest => ⟨stDone, n.kind :: n.words, { s with notices := s.notices.put [] fn rest }⟩
    | [] => s.refuse

/-- Temperature and voltage of an island, free (log 7), and to a virtual function its bypass counter (02 R43). -/
def execMonitor (fn tag island : Nat) (s : State) : Outcome State Fault Refusal :=
  anyCommand fn tag s <|
    if 128 ≤ island then s.refuse
    else ⟨stDone, [Config.freeNat (s.freeIx (2 * island)), Config.freeNat (s.freeIx (2 * island + 1))] ++
      (if fn == 0 then [] else [s.bypass.get 0 (fn - 1)]), s⟩

/-! Heads (R435). -/

/-- A register of a head is written: whether it was accepted. -/
def State.writeHead (s : State) (head : Nat) (reg : HeadReg) (value : W64) : Bool × State :=
  match reg with
  | .cfg => s.writeHdcfg head value
  | .enc => (true, s.writeReg (.hdenc head) value)
  | .paddr => (true, s.writeReg (.hdpaddr head) value)
  | .stream => (true, s.writeReg (.hdstream head) value)

def execHeadcfg (fn tag head : Nat) (reg : HeadReg) (value : W64) (s : State) : Outcome State Fault Refusal :=
  vfPlain fn tag s fun vd => some <|
    match (s.head head).cx with
    | some cx =>
      if cx.vd != vd || 128 ≤ head then s.refuse
      else
        let (ok, s) := s.writeHead head reg value
        if ok then s.done else s.refuse
    | none => s.refuse

/-! The capability list (R445). -/

/-- The records of a function's capability list, as IDs with their words: module counts (01 R10, in the order of its table: compute
dies, clusters, cores, L2 slices, stacks, pseudo-channels of a stack, base dies, hub dies), the rates of ck.core, ck.fab and ck.stk,
Ethernet queue sets of its partition, AV1 options, heads assigned to it, Fakalvo version and group index (log 29). -/
def State.capabilities (s : State) (fn : Nat) : List (Nat × List Nat) :=
  let qsets := match s.vds.get? (fn - 1) with
    | some v => match s.parts.get? v.part with
      | some p => if fn == 0 then [] else p.qsets
      | none => []
    | none => []
  let heads := (s.heads.filter fun x => match x.2.cx with
    | some cx => cx.vd + 1 == fn
    | none => false).map (·.1)
  let rate (i : Nat) : Nat := Config.freeNat (s.freeIx i)
  [(1, [4, 96, 384, 512, 12, 64, 12, 1]), (2, [rate 0, rate 1, rate 2]), (3, qsets), (4, []), (5, heads), (6, [1, s.device])]

/-- The chain of records: each begins with its ID, its version 1, and the offset of the next, in 8-byte units from the list's start,
0 for none; its words follow, of 8 bytes each (log 29). -/
def chainBytes : Nat → List (Nat × List Nat) → List Byte
  | _, [] => []
  | at', (id, ws) :: rest =>
    let next := at' + 1 + ws.length
    leBytes 4 (id + 2 ^ 16 + 2 ^ 24 * (if rest.isEmpty then 0 else next)) ++ leBytes 4 0 ++ ws.flatMap (leBytes 8) ++
      chainBytes next rest

/-- The response area of a function: STATUS, TAG and results, of 8 bytes each (log 29). -/
def Mailbox.response (m : Mailbox) : List Byte := leBytes 2 m.status ++ leBytes 2 0 ++ leBytes 4 m.tag ++ m.results.flatMap (leBytes 8)

/-- A byte of a function's BAR0 as the host reads it: the response, MBSTAT, the capability list and the staging buffer; every other
byte reads 0 (R444, R445). -/
def State.bar0 (s : State) (fn off : Nat) : Byte :=
  let m := s.mailbox fn
  if 0x40 ≤ off && off < 0x80 then m.response.getD (off - 0x40) 0
  else if off == 0x88 then BitVec.ofNat 8 (boolNat m.run.isSome)
  else if 0x100 ≤ off && off < 0x8000 then (chainBytes 0 (s.capabilities fn)).getD (off - 0x100) 0
  else if 0x8000 ≤ off && off < 0x10000 then Memory.read m.staging (off - 0x8000)
  else 0

end Sys2Proof.Machine
end

