-- ==== Sys2Proof/Machine/Debug.lean ====
section
/-! DEFINITION. What Renweaz does for a debugger through the physical function (07 R217, R220; 09 R273). -/

namespace Sys2Proof.Machine

open Sys2Proof Host

/-- A control thread stops at the next instruction boundary: at once while it runs, else when its wait has ended. -/
def Ctl.debugStop (c : Ctl) : Option Ctl :=
  match c.mode with
  | .free => none
  | .running => some { c with mode := .held, step := false }
  | .held | .stopped _ => some c
  | _ => some { c with step := true }

/-- A held or stopped control thread goes on, for one instruction where `step` is set. -/
def Ctl.debugGo (c : Ctl) (step : Bool) : Option Ctl :=
  match c.mode with
  | .held | .stopped _ => some { c with mode := .running, step := step }
  | .free => none
  | _ => if step then none else some { c with step := false }

/-- A command on a control thread; refused where it has none. -/
def State.debugCtl (s : State) (core : Nat) (f : Ctl → Option Ctl) : Reply :=
  match f (s.ctl core) with
  | some c => (s.setCtl core c).done
  | none => s.refuse

def execDebugStop (fn tag : Nat) (who : Agent) (s : State) : Outcome State Fault Refusal :=
  pfCommand fn tag s <| some <| match who with
    | .team core slot => match s.team? core slot with
      | some t => (s.setTeam core slot { t with stops := { t.stops with debug := true, step := false } }).done
      | none => s.refuse
    | .ctl core => s.debugCtl core Ctl.debugStop

/-- A team goes on after context fault handling, where TRET would continue it: at TPC where the debugger wrote it, else in the clause
that its trap left it in (07 R217, R219). -/
def Team.resume (t : Team) : Team :=
  let entry := bits t.tcause.toNat 11 8
  let t' := if t.stops.fault && t.stops.toTpc && (t.splits.get? entry).isSome then t.resumeFrom entry true false none else t
  { t' with stops := { t.stops with fault := false, toTpc := false } }

/-- The teams of a gang go on after context fault handling; its watchdog starts again (log 81). -/
def State.resumeGang (s : State) (gang : Nat) : State :=
  match s.gang? gang with
  | some g =>
    if !g.faultStop then s else
    let go (t : Team) : Team := if t.gang == gang then { t.resume with lastIssue := s.ns } else t
    let teams : Tbl Team := s.teams.map fun x => (x.1, go x.2)
    { s with teams := teams }.setGang gang { g with faultStop := false, saved := g.saved.map go }
  | none => s

/-- The debugger runs a team: its gang goes on where context fault handling held it, and the team itself. -/
def State.debugGo (s : State) (core slot : Nat) (t : Team) (entry : Option (Nat × Nat)) : State :=
  let t := match entry with
    | some (e, _) => t.debugTpc e
    | none => t
  ((s.setTeam core slot t).resumeGang t.gang).updTeam core slot fun t =>
    { t with stops := { t.stops with debug := false, step := false } }

/-- A control thread that a trap stopped starts again at an entry (09 R253, R273); none while its stores wait. -/
def State.restartCtl (s : State) (core entry arg : Nat) : Option Reply :=
  let c := s.ctl core
  match c.mode, c.owner with
  | .stopped _, some cx =>
    if entry % 32 != 0 || 2 ^ 48 ≤ entry then some s.refuse
    else if s.stuck c.pend then none
    else some (s.startCtl core cx entry (arg % 2 ^ 64)).done
  | _, _ => some s.refuse

/-- A stopped team runs, with its gang where that was held by context fault handling; the request's entry gives the address at which a team in
context fault handling goes on, or the entry and argument with which a stopped control thread starts again. -/
def execDebugRun (fn tag : Nat) (req : RunReq) (s : State) : Outcome State Fault Refusal :=
  pfCommand fn tag s <| match req.who with
    | .team core slot => some <| match s.team? core slot with
      | some t => (s.debugGo core slot t req.entry).done
      | none => s.refuse
    | .ctl core => match req.entry with
      | some (e, arg) => s.restartCtl core e arg
      | none => some (s.debugCtl core fun c => c.debugGo false)

def execDebugStep (fn tag : Nat) (who : Agent) (s : State) : Outcome State Fault Refusal :=
  pfCommand fn tag s <| some <| match who with
    | .team core slot => match s.team? core slot with
      | some t =>
        if s.teamStopped t then (s.setTeam core slot { t with stops := { t.stops with step := true } }).done else s.refuse
      | none => s.refuse
    | .ctl core => s.debugCtl core fun c => c.debugGo true

/-- Gang-stop mode is set or cleared. -/
def execDebugGangStop (fn tag gang : Nat) (on : Bool) (s : State) : Outcome State Fault Refusal :=
  pfCommand fn tag s <| some <| match s.gang? gang with
    | some g => (s.setGang gang { g with stopMode := on }).done
    | none => s.refuse

end Sys2Proof.Machine
end

