-- ==== Sys2Proof/Machine/Approx.lean ====
section
/-! DEFINITION. The approximate functions of 06 R171: the special and exact cases, and the free value of log 10 kept within the
bounds of the table. A reference value is computed in fixed point with 192 fraction bits, far closer than any bound. -/

namespace Sys2Proof

open Config

namespace Approx

/-- Fraction bits of the reference arithmetic. -/
def prec : Nat := 192

/-- ln 2 and π in units of 2^−192; 2/π in units of 2^−448. -/
def ln2 : Nat := 0xb17217f7d1cf79abc9e3b39803f2f6af40f343267298b62d
def piFix : Nat := 0x3243f6a8885a308d313198a2e03707344a4093822299f31d0
def twoOverPi : Nat :=
  0xa2f9836e4e441529fc2757d1f534ddc0db6295993c439041fe5163abdebbc561b7246e3a424dd2e006492eea09d1921cfe1deb1cb129a73e

/-- Terms t, t·x/n, …, summed with a sign pattern. -/
def expTerms (x : Nat) : Nat → Nat → Nat → Nat
  | 0, _, t => t
  | k + 1, n, t => t + expTerms x k (n + 1) (t * x / 2 ^ prec / n)

/-- e^x for x in [0, 1), in fixed point. -/
def expFix (x : Nat) : Nat := expTerms x 50 1 (2 ^ prec)

/-- Alternating terms t − t·x²/(n(n+1)) + … -/
def altTerms (x : Nat) : Nat → Nat → Nat → Int
  | 0, _, t => t
  | k + 1, n, t => (t : Int) - altTerms x k (n + 2) (t * x / 2 ^ prec * x / 2 ^ prec / (n * (n + 1)))

def sinFix (x : Nat) : Int := altTerms x 30 2 x

def cosFix (x : Nat) : Int := altTerms x 30 1 (2 ^ prec)

/-- z + z³/3 + z⁵/5 + … -/
def atanhTerms (z2 : Nat) : Nat → Nat → Nat → Nat
  | 0, _, _ => 0
  | k + 1, n, t => t / n + atanhTerms z2 k (n + 2) (t * z2 / 2 ^ prec)

/-- log₂ of m / 2^t for m in [2^t, 2^(t+1)), in fixed point. -/
def log2Fix (m t : Nat) : Nat :=
  let z := (m - 2 ^ t) * 2 ^ prec / (m + 2 ^ t)
  2 * atanhTerms (z * z / 2 ^ prec) 70 1 z * 2 ^ prec / ln2

/-- A finite value as a fixed-point integer, towards −∞. -/
def toFix (v : Val) : Int := v.mant * (pow2 (v.exp + prec) : Nat) / (pow2 (-(v.exp + prec)) : Nat)

def ofFix (x : Int) : Val := .num (decide (x < 0)) x.natAbs (-(prec : Int))

/-- 2^a. -/
def ex2Ref (a : Val) : Val :=
  let x := max (min (toFix a) (400 * 2 ^ prec)) (-400 * 2 ^ prec)
  let i := x / (2 ^ prec : Nat)
  let f := (x % (2 ^ prec : Nat)).toNat
  .num false (expFix (f * ln2 / 2 ^ prec)) (i - prec)

/-- log₂ a for a > 0. -/
def lg2Ref (a : Val) : Val :=
  let m := a.mant.natAbs
  let t := Nat.log2 m
  ofFix ((a.exp + t) * (2 ^ prec : Nat) + log2Fix m t)

/-- 1/√a for a > 0. -/
def rsqRef (a : Val) : Val :=
  let odd := (a.exp % 2).toNat
  let m := a.mant.natAbs * 2 ^ odd
  .num false (isqrt (2 ^ 400 / m)) (-(200 : Int) - (a.exp - odd) / 2)

/-- |a| · 2/π: the quadrant, and the angle past it in fixed point. -/
def reduce (a : Val) : Nat × Nat :=
  let m := a.mant.natAbs * twoOverPi
  let k := a.exp - 448
  let whole := m * pow2 k / pow2 (-k)
  let frac := m * pow2 (k + prec) / pow2 (-(k + prec)) % 2 ^ prec
  (whole % 4, frac * piFix / 2 ^ (prec + 1))

def sinRef (a : Val) : Val :=
  let (q, x) := reduce a
  let y := match q with
    | 0 => sinFix x
    | 1 => cosFix x
    | 2 => -sinFix x
    | _ => -cosFix x
  ofFix (if a.neg then -y else y)

def cosRef (a : Val) : Val :=
  let (q, x) := reduce a
  ofFix (match q with
    | 0 => cosFix x
    | 1 => -sinFix x
    | 2 => -cosFix x
    | _ => sinFix x)

/-- tanh a = (E − 1)/(E + 1), E = e^(2|a|) = 2^(2|a|/ln 2). -/
def tanhRef (a : Val) : Val :=
  let x := min (toFix a).natAbs (60 * 2 ^ prec)
  let y := 2 * x * 2 ^ prec / ln2
  let i := y / 2 ^ prec
  let e := expFix (y % 2 ^ prec * ln2 / 2 ^ prec) * 2 ^ i
  let q := (e - 2 ^ prec) * 2 ^ prec / (e + 2 ^ prec)
  ofFix (if a.neg then -(q : Int) else q)

/-- The reference value of a function. -/
def ref (fn : ApproxFn) (a : Val) : Val :=
  match fn with
  | .rsq => rsqRef a
  | .ex2 => ex2Ref a
  | .lg2 => lg2Ref a
  | .sin => sinRef a
  | .cos => cosRef a
  | .tanh => tanhRef a

/-- Exponent of one FP32 ulp of a value. -/
def ulpExp (v : Val) : Int := max (Nat.log2 v.mant.natAbs + v.exp) (-126) - 23

/-- The bound of the table, as b · 2^k. -/
def bound (fn : ApproxFn) (a r : Val) : Nat × Int :=
  match fn with
  | .rsq => (1, ulpExp r)
  | .ex2 => (2, ulpExp r)
  | .lg2 =>
    if !a.neg && leScaled 1 (-1) a.mant.natAbs a.exp && leScaled a.mant.natAbs a.exp 2 0 then (1, -22) else (2, ulpExp r)
  | .sin | .cos => (1, -22)
  | .tanh => if ulpExp r + 1 < -24 then (1, -24) else (2, ulpExp r)

/-- |a − b| ≤ n · 2^k. -/
def near (a b : Val) (n : Nat) (k : Int) : Bool :=
  let e := min (min a.exp b.exp) k
  (a.mant * (pow2 (a.exp - e) : Nat) - b.mant * (pow2 (b.exp - e) : Nat)).natAbs ≤ n * pow2 (k - e)

/-- The device's result for an input whose result is neither special nor exact: log 10's free value where it keeps the bound,
and the nearest FP32 value otherwise. -/
def deviceBits (fn : ApproxFn) (x : Nat) (a : Val) : Nat :=
  let r := ref fn a
  let d := (approx fn (BitVec.ofNat 32 x)).toNat
  let (n, k) := bound fn a r
  match Fmt.f32.read false d with
  | .num .. => if near (Fmt.f32.read false d) r n k then d else (roundFP .f32 .rne 0 r).1
  | _ => (roundFP .f32 .rne 0 r).1

/-- The exact cases: the exact result. -/
def exact (fn : ApproxFn) (a : Val) : Option Val :=
  let m := a.mant.natAbs
  let t := Nat.log2 m
  let k : Int := a.exp + t
  match fn with
  | .rsq => if m == 2 ^ t && k % 2 == 0 then some (.num false 1 (-k / 2)) else none
  | .ex2 =>
    let i := toFix a / (2 ^ prec : Nat)
    if a.isZero then some (.num false 1 0)
    else if leScaled 1 0 m a.exp && toFix a % (2 ^ prec : Nat) == 0 && -126 ≤ i && i ≤ 127 then some (.num false 1 i)
    else none
  | .lg2 => if m == 2 ^ t then some (Val.ofInt k) else none
  | .sin | .tanh => if a.isZero then some a else none
  | .cos => if a.isZero then some (.num false 1 0) else none

/-- Specials: the result and its flags. -/
def special (fn : ApproxFn) (a : Val) : Option (Val × Flags) :=
  match fn, a with
  | _, .nan s => some (.nan false, Flags.when s Flags.nv)
  | .rsq, .inf n => some (if n then (.nan false, Flags.nv) else (.zero, 0))
  | .rsq, .num n m _ => if m == 0 then some (.inf n, Flags.dz) else if n then some (.nan false, Flags.nv) else none
  | .ex2, .inf n => some (if n then .zero else .inf false, 0)
  | .lg2, .inf n => some (if n then (.nan false, Flags.nv) else (.inf false, 0))
  | .lg2, .num n m _ => if m == 0 then some (.inf true, Flags.dz) else if n then some (.nan false, Flags.nv) else none
  | .sin, .inf _ | .cos, .inf _ => some (.nan false, Flags.nv)
  | .tanh, .inf n => some (.num n 1 0, 0)
  | _, _ => none

/-- The flush of a subnormal result, and the flags of an inexact one (04 R103, R104); underflow is judged on the delivered bits
(log 10). -/
def deliver (c : RCtl) (d : Nat) : Nat × Flags :=
  if bits d 30 23 == 0 then
    (if c.ftz then d / 2 ^ 31 * 2 ^ 31 else d, Flags.nx ||| Flags.unf)
  else (d, Flags.nx)

/-- An approximate function of a pattern whose source modifiers have been applied. One that overflows is delivered as under RNE
(log 10). -/
def eval (fn : ApproxFn) (c : RCtl) (x : Nat) : Nat × Flags :=
  let a := Fmt.f32.read c.ftz x
  let rc : RCtl := { c with mode := .rne }
  match special fn a with
  | some (v, fl) => let r := roundFP .f32 rc 0 v
    (r.1, r.2 ||| fl)
  | none =>
    match exact fn a with
    | some v => roundFP .f32 rc 0 v
    | none =>
      let r := roundFP .f32 rc 0 (ref fn a)
      if bitAt r.2 2 then r else deliver c (deviceBits fn (if c.ftz && a.isZero then x / 2 ^ 31 * 2 ^ 31 else x) a)

end Approx

end Sys2Proof
end

