-- ==== Sys2Proof/Machine/Integer.lean ====
section
/-! DEFINITION. The vector integer instructions, 0x040 to 0x05C (06 R160 to R167). -/

namespace Sys2Proof.Machine

open Sys2Proof Host

/-- What an integer instruction does to one thread's operands: the operands and B's and C's values to a result and flags. -/
abbrev IntFn := Nat → Nat → Nat → Nat × Flags

/-- The threads that an instruction computes for: one where the destination is uniform (06 R156). -/
def actors (si : Site) (w : Ins) (e : TMask) : List Nat :=
  let ts := threadsOf si.team.threads e
  if w.d.isS then ts.take 1 else ts

/-- Results of threads, written to D, with their flags. -/
def writeAll (s : State) (si : Site) (w : Ins) (wide : Bool) (rs : List (Nat × Nat × Flags)) : State :=
  s.onTeam si fun t => (t.writeD w wide (rs.map fun r => (r.1, r.2.1))).addTsr (Flags.all (rs.map fun r => r.2.2))

/-- Widths of the operands of an integer instruction: A and D, B, C. -/
structure IntShape where
  wide : Bool
  wideB : Bool
  wideC : Bool

/-- An instruction of 0x040 on the side that issues it: on k registers every operand and result has 64 bits (06 R167). -/
def intOp (o : Op) (w : Ins) (s : State) (sh : IntShape) (wideD : Bool) (f : IntFn) : Outcome State Fault Refusal :=
  issueBoth o w s
    (fun si e => .done (writeAll s si w wideD ((actors si w e).map fun t =>
      (t, f (rdW s si.core si.team sh.wide t w.a) (rdB s si.core si.team w sh.wideB t)
        (rdW s si.core si.team sh.wideC t w.c)))))
    (fun si =>
      let b := if w.litB then immB w sh.wideB else rdK s si.core w.b
      .done (s.writeK si.core w.d (f (rdK s si.core w.a) b (rdK s si.core w.c)).1))

def onCtlSide (s : State) : Bool :=
  match s.cur with
  | some (.ctl _) => true
  | _ => false

/-- W, which the control thread reads as 1 (06 R160). -/
def State.wW (s : State) (w : Ins) : Bool := onCtlSide s || w.mb 49

def widthOf (wide : Bool) : Nat := if wide then 64 else 32

/-- No flags. -/
def plain (x : Nat) : Nat × Flags := (x, 0)

/-- An exact result modulo 2^w, or saturated to the bounds of its type (06 R163). -/
def intResult (signed wide sat : Bool) (x : Int) : Nat × Flags :=
  let w := widthOf wide
  let lo : Int := if signed then -(2 ^ (w - 1) : Nat) else 0
  let hi : Int := if signed then (2 ^ (w - 1) : Nat) - 1 else (2 ^ w : Nat) - 1
  if sat && x < lo then (wrap w lo, Flags.sat)
  else if sat && hi < x then (wrap w hi, Flags.sat)
  else (wrap w x, 0)

/-- The value of a pattern of w bits. -/
def ival (signed : Bool) (wide : Bool) (x : Nat) : Int :=
  if signed then sx (widthOf wide) x else (x % 2 ^ widthOf wide : Nat)

def tySigned (w : Ins) : Bool := w.ty == some .i32 || w.ty == some .i64

/-- A W-sized instruction of up to three operands of its width. -/
def wordOp (o : Op) (w : Ins) (s : State) (f : Nat → Nat → Nat → Nat → Nat) : Outcome State Fault Refusal :=
  let wd := s.wW w
  intOp o w s ⟨wd, wd, wd⟩ wd fun a b c => plain (f (widthOf wd) a b c)

/-- A W-sized instruction whose B is a 32-bit value (06 R163). -/
def shiftOp (o : Op) (w : Ins) (s : State) (f : Nat → Nat → Nat → Nat → Nat) : Outcome State Fault Refusal :=
  let wd := s.wW w
  intOp o w s ⟨wd, false, wd⟩ wd fun a b c => plain (f (widthOf wd) a b c)

/-- A typed arithmetic instruction on exact values. -/
def arithOp (o : Op) (w : Ins) (s : State) (f : Int → Int → Int → Int) : Outcome State Fault Refusal :=
  let sg := (tySigned w)
  let wd := w.wideT
  intOp o w s ⟨wd, wd, wd⟩ wd fun a b c => intResult sg wd w.sat (f (ival sg wd a) (ival sg wd b) (ival sg wd c))

def execMov (w : Ins) (s : State) : Outcome State Fault Refusal := wordOp .mov w s fun _ a _ _ => a

/-- MOVI: IMM32, sign-extended into a k register (06 R166). -/
def execMovi32 (w : Ins) (s : State) : Outcome State Fault Refusal :=
  issueBoth .movi32 w s
    (fun si e => .done (writeAll s si w false ((actors si w e).map fun t => (t, plain (w.imm.toNat % 2 ^ 32)))))
    (fun si => .done (s.writeK si.core w.d (wrap 64 (sx 32 w.imm.toNat))))

/-- MOVI: IMM64. -/
def execMovi64 (w : Ins) (s : State) : Outcome State Fault Refusal :=
  issueBoth .movi64 w s
    (fun si e => .done (writeAll s si w true ((actors si w e).map fun t => (t, plain w.imm.toNat))))
    (fun si => .done (s.writeK si.core w.d w.imm.toNat))

def execSel (w : Ins) (s : State) : Outcome State Fault Refusal := wordOp .sel w s fun _ a b c => if c != 0 then a else b

def execIadd (w : Ins) (s : State) : Outcome State Fault Refusal := arithOp .iadd w s fun a b _ => a + b

def execIsub (w : Ins) (s : State) : Outcome State Fault Refusal := arithOp .isub w s fun a b _ => a - b

def execImul (w : Ins) (s : State) : Outcome State Fault Refusal := arithOp .imul w s fun a b _ => a * b

/-- The upper half of the exact product. -/
def execImulh (w : Ins) (s : State) : Outcome State Fault Refusal :=
  arithOp .imulh w s fun a b _ => (a * b) / (2 ^ widthOf w.wideT : Nat)

def execImad (w : Ins) (s : State) : Outcome State Fault Refusal := arithOp .imad w s fun a b c => a * b + c

def execImin (w : Ins) (s : State) : Outcome State Fault Refusal := arithOp .imin w s fun a b _ => min a b

def execImax (w : Ins) (s : State) : Outcome State Fault Refusal := arithOp .imax w s fun a b _ => max a b

def execIabs (w : Ins) (s : State) : Outcome State Fault Refusal := arithOp .iabs w s fun a _ _ => (a.natAbs : Int)

def execIneg (w : Ins) (s : State) : Outcome State Fault Refusal := arithOp .ineg w s fun a _ _ => -a

def execAnd (w : Ins) (s : State) : Outcome State Fault Refusal := wordOp .and w s fun _ a b _ => a &&& b

def execOr (w : Ins) (s : State) : Outcome State Fault Refusal := wordOp .or w s fun _ a b _ => a ||| b

def execXor (w : Ins) (s : State) : Outcome State Fault Refusal := wordOp .xor w s fun _ a b _ => a ^^^ b

/-- NOT of w bits. -/
def notW (w x : Nat) : Nat := 2 ^ w - 1 - x % 2 ^ w

def execAndn (w : Ins) (s : State) : Outcome State Fault Refusal := wordOp .andn w s fun n a b _ => a &&& notW n b

def execNot (w : Ins) (s : State) : Outcome State Fault Refusal := wordOp .not w s fun n a _ _ => notW n a

/-! Shifts and bit fields. -/

def shlW (w a b : Nat) : Nat := let n := b % 256; if w ≤ n then 0 else a * 2 ^ n % 2 ^ w

def shrW (w a b : Nat) : Nat := let n := b % 256; if w ≤ n then 0 else a % 2 ^ w / 2 ^ n

/-- Sign fill; all sign bits from the full width up. -/
def sarW (w a b : Nat) : Nat := wrap w (sx w a / (2 ^ min (b % 256) w : Nat))

def rotW (w a b : Nat) : Nat := let n := b % 256 % w; (a % 2 ^ w * 2 ^ n + a % 2 ^ w / 2 ^ (w - n)) % 2 ^ w

/-- len′ of 06 R164. -/
def fieldLen (w b : Nat) : Nat := let pos := b % 256; if pos < w then min (bits b 15 8) (w - pos) else 0

def bfeW (signed : Bool) (w a b : Nat) : Nat :=
  let n := fieldLen w b
  if n == 0 then 0 else extend signed n w (a % 2 ^ w / 2 ^ (b % 256) % 2 ^ n)

def bfiW (w a b c : Nat) : Nat :=
  let n := fieldLen w b
  let pos := b % 256
  if n == 0 then c else c - bits c (pos + n - 1) pos * 2 ^ pos + a % 2 ^ n * 2 ^ pos

def execShl (w : Ins) (s : State) : Outcome State Fault Refusal := shiftOp .shl w s fun n a b _ => shlW n a b

def execShr (w : Ins) (s : State) : Outcome State Fault Refusal := shiftOp .shr w s fun n a b _ => shrW n a b

def execSar (w : Ins) (s : State) : Outcome State Fault Refusal := shiftOp .sar w s fun n a b _ => sarW n a b

def execRot (w : Ins) (s : State) : Outcome State Fault Refusal := shiftOp .rot w s fun n a b _ => rotW n a b

def execPopc (w : Ins) (s : State) : Outcome State Fault Refusal := wordOp .popc w s fun n a _ _ => popCount n a

def clzW (w a : Nat) : Nat := if a % 2 ^ w == 0 then w else w - 1 - Nat.log2 (a % 2 ^ w)

def execClz (w : Ins) (s : State) : Outcome State Fault Refusal := wordOp .clz w s fun n a _ _ => clzW n a

def execBrev (w : Ins) (s : State) : Outcome State Fault Refusal := wordOp .brev w s fun n a _ _ => bitRev n a

def execBfe (w : Ins) (s : State) : Outcome State Fault Refusal :=
  intOp .bfe w s ⟨w.wideT, false, w.wideT⟩ w.wideT fun a b _ => plain (bfeW (tySigned w) (widthOf w.wideT) a b)

def execBfi (w : Ins) (s : State) : Outcome State Fault Refusal := shiftOp .bfi w s fun n a b c => bfiW n a b c

/-! Carry and address arithmetic (06 R165). -/

/-- A + B + carry-in, exactly, both unsigned. -/
def addCarry (n a b c : Nat) : Nat := a % 2 ^ n + b % 2 ^ n + boolNat (c != 0)

def execIaddc (w : Ins) (s : State) : Outcome State Fault Refusal :=
  let wd := w.wideT
  let n := widthOf wd
  issueBoth .iaddc w s
    (fun si e =>
      let rs := (actors si w e).map fun t =>
        (t, addCarry n (rdW s si.core si.team wd t w.a) (rdB s si.core si.team w wd t) (rdW s si.core si.team wd t w.c))
      let s := writeAll s si w wd (rs.map fun r => (r.1, plain (r.2 % 2 ^ n)))
      let cp := w.xm 88 85
      if cp == 0 then .done s
      else
        -- with a uniform D every executing thread takes the one carry
        let cs := if w.d.isS then (threadsOf si.team.threads e).map fun t => (t, ((rs.head?).map (·.2)).getD 0) else rs
        .done (s.onTeam si fun t => t.writeP w (cp - 1) (cs.map fun r => (r.1, decide (2 ^ n ≤ r.2)))))
    (fun si =>
      let b := if w.litB then immB w true else rdK s si.core w.b
      .done (s.writeK si.core w.d (addCarry 64 (rdK s si.core w.a) b (rdK s si.core w.c) % 2 ^ 64)))

/-- A + (X << SH) modulo 2^64, X extended by type. -/
def leaW (w : Ins) (a b : Nat) : Nat :=
  (a + extend (tySigned w) (widthOf w.wideT) 64 b * 2 ^ w.m 56 54) % 2 ^ 64

def execLea (w : Ins) (s : State) : Outcome State Fault Refusal :=
  intOp .lea w s ⟨true, w.wideT, true⟩ true fun a b _ => plain (leaW w a b)

/-! Compares (06 R162). -/

/-- COMB. -/
def combine (w : Ins) (q : Bool) (c : Bool) : Bool :=
  match w.m 59 58 with
  | 0 => q
  | 1 => q && c
  | 2 => q || c
  | _ => q != c

/-- ISETP's conditions. -/
def iCond (cond : Nat) (a b : Int) : Bool :=
  match cond with
  | 0 => a == b
  | 1 => a != b
  | 2 => a < b
  | 3 => a ≤ b
  | 4 => b < a
  | _ => b ≤ a

/-- A compare: the pair of predicates, and flags. A register C is one 32-bit register, also under a 64-bit type and for DSETP
(log 19). -/
def setp (s : State) (si : Site) (w : Ins) (e : TMask) (cond : Nat → Bool × Flags) : Issue :=
  let rs := (threadsOf si.team.threads e).map fun t =>
    (t, combine w (cond t).1 (rd32 s si.core si.team t w.c != 0), (cond t).2)
  match w.d with
  | .p n => .done (s.onTeam si fun t =>
      (t.writePair w n (rs.map fun r => (r.1, r.2.1))).addTsr (Flags.all (rs.map fun r => r.2.2)))
  | _ => .done s

def execIsetp (w : Ins) (s : State) : Outcome State Fault Refusal :=
  issueTeam .isetp w s fun si e =>
    let v := ival (tySigned w) w.wideT
    setp s si w e fun t =>
      (iCond (w.m 56 54) (v (rdW s si.core si.team w.wideT t w.a)) (v (rdB s si.core si.team w w.wideT t)), 0)

end Sys2Proof.Machine
end

