-- ==== Sys2Proof/Machine/FloatOps.lean ====
section
/-! DEFINITION. The vector float instructions, 0x080 to 0x098, and the conversions, 0x0C0 to 0x0C2 (06 R158, R161, R162, R168 to
R175, R185). -/

namespace Sys2Proof.Machine

open Sys2Proof Host

/-- The bits that n stochastic roundings of a thread draw (04 R102); none under another mode. -/
def Team.roundBits (t : Team) (sto : Bool) (n tid : Nat) : List Nat :=
  if sto then (drawMany n (t.rand tid)).2.map fun x => x.toNat % 65536 else []

/-- The streams of threads after n draws each. -/
def Team.drawn (t : Team) (sto : Bool) (n : Nat) (ts : List Nat) : Team :=
  if sto then ts.foldl (fun t tid => t.setRand tid (drawMany n (t.rand tid)).1) t else t

/-- An instruction that rounds n times in each thread: `f` gives a thread's result from its drawn bits. -/
def roundOp (o : Op) (w : Ins) (s : State) (wideD : Bool) (n : Nat) (f : Site → RCtl → Nat → List Nat → Nat × Flags) :
    Outcome State Fault Refusal :=
  issueTeam o w s fun si e =>
    let rc := si.team.rctl w
    let sto := rc.mode == .sto
    let ts := actors si w e
    let rs := ts.map fun t => (t, f si rc t (si.team.roundBits sto n t))
    .done (writeAll (s.onTeam si fun t => t.drawn sto n ts) si w wideD rs)

/-- A source after .aa, .ab and .na, .nb, .nc: the sign cleared, then inverted (06 R168). -/
def modSign (f : Fmt) (abs neg : Bool) (x : Nat) : Nat :=
  let sb := 2 ^ (f.width - 1)
  let x := x % 2 ^ f.width
  let y := if abs then x % sb else x
  if neg then (if y < sb then y + sb else y - sb) else y

/-- The modified patterns of A, B and C of a thread. -/
def fSrcA (s : State) (si : Site) (w : Ins) (f : Fmt) (t : Nat) : Nat :=
  modSign f (w.mb 52) (w.mb 49) (rdW s si.core si.team (f == .f64) t w.a)

def fSrcB (s : State) (si : Site) (w : Ins) (f : Fmt) (t : Nat) : Nat :=
  modSign f (w.mb 53) (w.mb 50) (rdB s si.core si.team w (f == .f64) t)

def fSrcC (s : State) (si : Site) (w : Ins) (f : Fmt) (t : Nat) : Nat :=
  modSign f false (w.mb 51) (rdW s si.core si.team (f == .f64) t w.c)

/-- One rounding of an exact value, with the flags of both. -/
def roundBoth (f : Fmt) (rc : RCtl) (ns : List Nat) (v : Val × Flags) : Nat × Flags :=
  let r := roundFP f rc (ns.headD 0) v.1
  (r.1, r.2 ||| v.2)

/-- An FP32 or FP64 arithmetic instruction: its exact result from the values of A, B and C. -/
def floatOp (o : Op) (w : Ins) (s : State) (f : Fmt) (g : Mode → Val → Val → Val → Val × Flags) :
    Outcome State Fault Refusal :=
  roundOp o w s (f == .f64) 1 fun si rc t ns =>
    roundBoth f rc ns (g rc.mode (f.read rc.ftz (fSrcA s si w f t)) (f.read rc.ftz (fSrcB s si w f t))
      (f.read rc.ftz (fSrcC s si w f t)))

def execFadd (w : Ins) (s : State) : Outcome State Fault Refusal := floatOp .fadd w s .f32 fun m a b _ => sumVals m [a, b]

def execFmul (w : Ins) (s : State) : Outcome State Fault Refusal := floatOp .fmul w s .f32 fun _ a b _ => mulVal a b

def execFfma (w : Ins) (s : State) : Outcome State Fault Refusal := floatOp .ffma w s .f32 fmaVal

def execFrcp (w : Ins) (s : State) : Outcome State Fault Refusal := floatOp .frcp w s .f32 fun _ a _ _ => rcpVal a

def execFsqrt (w : Ins) (s : State) : Outcome State Fault Refusal := floatOp .fsqrt w s .f32 fun _ a _ _ => sqrtVal a

def execDadd (w : Ins) (s : State) : Outcome State Fault Refusal := floatOp .dadd w s .f64 fun m a b _ => sumVals m [a, b]

def execDmul (w : Ins) (s : State) : Outcome State Fault Refusal := floatOp .dmul w s .f64 fun _ a b _ => mulVal a b

def execDfma (w : Ins) (s : State) : Outcome State Fault Refusal := floatOp .dfma w s .f64 fmaVal

def execDrcp (w : Ins) (s : State) : Outcome State Fault Refusal := floatOp .drcp w s .f64 fun _ a _ _ => rcpVal a

/-! Smaller and larger, classes (06 R169, R170): nothing is rounded and nothing is drawn. -/

/-- An instruction of the float range that never rounds. -/
def exactOp (o : Op) (w : Ins) (s : State) (f : Fmt) (wideD : Bool) (g : Bool → Nat → Nat → Nat × Flags) :
    Outcome State Fault Refusal :=
  issueTeam o w s fun si e =>
    .done (writeAll s si w wideD ((actors si w e).map fun t =>
      (t, g (si.team.rctl w).ftz (fSrcA s si w f t) (fSrcB s si w f t))))

def minMaxOp (o : Op) (w : Ins) (s : State) (f : Fmt) (isMax : Bool) : Outcome State Fault Refusal :=
  exactOp o w s f (f == .f64) fun ftz a b => minMax f isMax (f.read ftz a) (f.read ftz b)

def execFmin (w : Ins) (s : State) : Outcome State Fault Refusal := minMaxOp .fmin w s .f32 false

def execFmax (w : Ins) (s : State) : Outcome State Fault Refusal := minMaxOp .fmax w s .f32 true

def execDmin (w : Ins) (s : State) : Outcome State Fault Refusal := minMaxOp .dmin w s .f64 false

def execDmax (w : Ins) (s : State) : Outcome State Fault Refusal := minMaxOp .dmax w s .f64 true

def execFclass (w : Ins) (s : State) : Outcome State Fault Refusal :=
  exactOp .fclass w s .f32 false fun _ a _ => (classOf .f32 a, 0)

/-! Compares. -/

/-- .nc, where C is read, leaves it zero or non-zero as it was (log 19). -/
def fsetpOp (o : Op) (w : Ins) (s : State) (f : Fmt) : Outcome State Fault Refusal :=
  issueTeam o w s fun si e =>
    let ftz := (si.team.rctl w).ftz
    setp s si w e fun t => fCond (w.m 57 54) (f.read ftz (fSrcA s si w f t)) (f.read ftz (fSrcB s si w f t))

def execFsetp (w : Ins) (s : State) : Outcome State Fault Refusal := fsetpOp .fsetp w s .f32

def execDsetp (w : Ins) (s : State) : Outcome State Fault Refusal := fsetpOp .dsetp w s .f64

/-! Approximate functions (06 R171): FPC's mode plays no part and nothing is drawn. -/

def approxOp (o : Op) (fn : Config.ApproxFn) (w : Ins) (s : State) : Outcome State Fault Refusal :=
  issueTeam o w s fun si e =>
    let rc := si.team.rctl w
    .done (writeAll s si w false ((actors si w e).map fun t => (t, Approx.eval fn rc (fSrcA s si w .f32 t))))

def execFrsq (w : Ins) (s : State) : Outcome State Fault Refusal := approxOp .frsq .rsq w s

def execFex2 (w : Ins) (s : State) : Outcome State Fault Refusal := approxOp .fex2 .ex2 w s

def execFlg2 (w : Ins) (s : State) : Outcome State Fault Refusal := approxOp .flg2 .lg2 w s

def execFsin (w : Ins) (s : State) : Outcome State Fault Refusal := approxOp .fsin .sin w s

def execFcos (w : Ins) (s : State) : Outcome State Fault Refusal := approxOp .fcos .cos w s

def execFtanh (w : Ins) (s : State) : Outcome State Fault Refusal := approxOp .ftanh .tanh w s

/-! Packed half precision (06 R172). -/

def halfOp (o : Op) (w : Ins) (s : State) (g : Mode → Val → Val → Val → Val × Flags) : Outcome State Fault Refusal :=
  let f : Fmt := if w.mb 60 then .bf16 else .f16
  roundOp o w s false 2 fun si rc t ns =>
    let a := rd32 s si.core si.team t w.a
    let b := rdB s si.core si.team w false t
    let c := rd32 s si.core si.team t w.c
    let el (i : Nat) : Nat × Flags :=
      let v (neg : Bool) (x : Nat) := f.read false (modSign f false neg (x / 2 ^ (16 * i)))
      roundBoth f rc (ns.drop i) (g rc.mode (v (w.mb 49) a) (v (w.mb 50) b) (v (w.mb 51) c))
    ((el 0).1 + 65536 * (el 1).1, (el 0).2 ||| (el 1).2)

def execHadd2 (w : Ins) (s : State) : Outcome State Fault Refusal := halfOp .hadd2 w s fun m a b _ => sumVals m [a, b]

def execHmul2 (w : Ins) (s : State) : Outcome State Fault Refusal := halfOp .hmul2 w s fun _ a b _ => mulVal a b

def execHfma2 (w : Ins) (s : State) : Outcome State Fault Refusal := halfOp .hfma2 w s fmaVal

/-! Conversions (06 R173 to R175). -/

/-- A conversion that rounds, and so draws: not between integers, and not between identical floating types (log 19). -/
def convRounds (src dst : DType) : Bool := (src.isFloat || dst.isFloat) && src != dst

def execCvt (w : Ins) (s : State) : Outcome State Fault Refusal :=
  let dst := w.ty.getD .n8
  let src := w.ty2.getD .n8
  roundOp .cvt w s (dst.width == 64) (if convRounds src dst then 1 else 0) fun si rc t ns =>
    convert src dst rc (ns.headD 0) (rdW s si.core si.team (src.width == 64) t w.a)

/-- An exact value rounded to an integer that wraps, or saturates under SAT (06 R174, R175); an inexact rounding sets NX
(04 R105). -/
def scaledInt (dst : DType) (rc : RCtl) (n : Nat) (v : Val) : Nat × Flags :=
  match v with
  | .num neg m e =>
    let (r, inexact) := roundAt rc.mode n neg m e 0
    let (x, fl) := fitInt dst rc.sat (if neg then -(r : Int) else r)
    (x, fl ||| Flags.when inexact Flags.nx)
  | _ => (0, Flags.nv)

/-- The NaN of a NaN block (04 R109, 06 R174); an integer has none, and gets 0 as R107 gives it for a NaN (log 19). -/
def nanBlock (dst : DType) : Nat × Flags := (if dst.isFloat then dst.fmt.canonNaN else 0, Flags.nv)

/-- An element times 2^k, converted with one rounding. -/
def scaledConv (src dst : DType) (rc : RCtl) (n x : Nat) (k : Int) : Nat × Flags :=
  let v := (src.read rc.ftz x).scale k
  if dst.isFloat then roundFP dst.fmt rc n v
  else if src.isFloat then roundInt rc.mode n dst.width dst.signed v
  else scaledInt dst rc n v

/-- One element of CVTN and CVTW: `dir` is −1 for a division by the block scale, 1 for a product. -/
def blockConv (w : Ins) (src dst : DType) (rc : RCtl) (n x scale : Nat) (dir : Int) : Nat × Flags :=
  if w.xm 85 85 == 0 then convert src dst rc n x
  else if scale % 256 == 255 then nanBlock dst
  else scaledConv src dst rc n x (dir * ((scale % 256 : Nat) - 127))

/-- CVTN and CVTW round once, and so draw, but between integers without a block scale. -/
def blockDraws (w : Ins) (src dst : DType) : Nat := if w.xm 85 85 == 1 || src.isFloat || dst.isFloat then 1 else 0

/-- x with element k of the given width replaced. -/
def putElem (width k x y : Nat) : Nat :=
  x - bits x (k * width + width - 1) (k * width) * 2 ^ (k * width) + y % 2 ^ width * 2 ^ (k * width)

def execCvtn (w : Ins) (s : State) : Outcome State Fault Refusal :=
  let dst := w.ty.getD .n8
  let src := w.ty2.getD .n8
  roundOp .cvtn w s false (blockDraws w src dst) fun si rc t ns =>
    let r := blockConv w src dst rc (ns.headD 0) (rd32 s si.core si.team t w.a) (rd32 s si.core si.team t w.b) (-1)
    (putElem dst.width (w.m 63 59) (rd32 s si.core si.team t w.d) r.1, r.2)

def execCvtw (w : Ins) (s : State) : Outcome State Fault Refusal :=
  let dst := w.ty.getD .n8
  let src := w.ty2.getD .n8
  roundOp .cvtw w s false (blockDraws w src dst) fun si rc t ns =>
    let a := rd32 s si.core si.team t w.a
    let k := w.m 63 59 * src.width
    blockConv w src dst rc (ns.headD 0) (bits a (k + src.width - 1) k) (rd32 s si.core si.team t w.b) 1

end Sys2Proof.Machine
end

