-- ==== Sys2Proof/Machine/LatticeOps.lean ====
section
/-! DEFINITION. The lattice instructions, 0x0C3 to 0x0C6, the cross-thread instructions, 0x0E0 to 0x0E3, and the random numbers,
0x0E4 and 0x0E5 (06 R176 to R186). -/

namespace Sys2Proof.Machine

open Sys2Proof Host

/-- b of an E8 type: bytes of a point (04 R110). -/
def pointBytes (t : Option DType) : Nat := (t.getD .e8l16).width / 8

/-- The eight FP32 values from register A, subnormals kept (04 R104). -/
def eightVals (t : Team) (a : Opd) (tid : Nat) : List Val :=
  match a with
  | .v r => (List.range 8).map fun i => Fmt.f32.read false (t.vreg tid (r + i)).toNat
  | _ => []

/-! Lattice instructions. -/

def execLq8 (w : Ins) (s : State) : Outcome State Fault Refusal :=
  issueTeam .lq8 w s fun si e =>
    let b := pointBytes w.ty
    .done (writeAll s si w false ((actors si w e).map fun t =>
      (t, lq8Point b (eightVals si.team w.a t) (rd32 s si.core si.team t w.c % 256)
        (liveCount (rd32 s si.core si.team t w.b)))))

/-- The live values of a thread. -/
def liveVals (s : State) (si : Site) (w : Ins) (t : Nat) : List Val :=
  (eightVals si.team w.a t).take (liveCount (rd32 s si.core si.team t w.b))

def execLqscale (w : Ins) (s : State) : Outcome State Fault Refusal :=
  issueTeam .lqscale w s fun si e =>
    let ts := threadsOf si.team.threads e
    let group (t : Nat) : List Nat := if w.mb 54 then ts.filter fun u => u / 4 == t / 4 else [t]
    .done (writeAll s si w false ((actors si w e).map fun t =>
      (t, lqScale (pointBytes w.ty) ((group t).flatMap (liveVals s si w)))))

/-- A decoded point: eight values, NaN where a live position lies in a NaN block, with its flag (06 R179). -/
def lqdVals (b c e live : Nat) : List (Val × Flags) :=
  if e == 255 then (List.range 8).map fun i => if i < live then (.nan false, Flags.nv) else (.zero, 0)
  else (decodePoint b c e live).map fun v => (v, 0)

/-- LQD's registers: eight of FP32, or four of FP16 pairs. -/
def lqdRegs (half : Bool) (rc : RCtl) (l : List (Val × Flags)) : List Nat × Flags :=
  let f : Fmt := if half then .f16 else .f32
  let rs := l.map fun v => roundBoth f rc [] v
  let fl := Flags.all (rs.map (·.2))
  let x (i : Nat) : Nat := ((rs[i]?).map (·.1)).getD 0
  (if half then (List.range 4).map fun j => x (2 * j) + 65536 * x (2 * j + 1) else (List.range 8).map x, fl)

def execLqd (w : Ins) (s : State) : Outcome State Fault Refusal :=
  issueTeam .lqd w s fun si e =>
    let b := pointBytes w.ty2
    let half := w.ty == some .f16
    let rc : RCtl := { si.team.rctl w with mode := .rne }
    let rs := (actors si w e).map fun t =>
      (t, lqdRegs half rc (lqdVals b (rd32 s si.core si.team t w.a) (rd32 s si.core si.team t w.c % 256)
        (liveCount (rd32 s si.core si.team t w.b))))
    match w.d with
    | .v r => .done (s.onTeam si fun tm =>
        (rs.foldl (fun tm x => tm.writeRun (si.team.writeMask w) w.zero x.1 r x.2.1) tm).addTsr (Flags.all (rs.map (·.2.2))))
    | _ => .done s

/-- LQM: position j of a point replaced, and the point quantised again (06 R180). -/
def lqmPoint (b x ctrl v : Nat) : Nat × Flags :=
  let j := bits ctrl 2 0
  let live := liveCount (bits ctrl 6 3)
  let e := bits ctrl 15 8
  let p := decodePoint b x e live
  lq8Point b (if j < live then setAt p j (Fmt.f32.read false v) else p) e live

def execLqm (w : Ins) (s : State) : Outcome State Fault Refusal :=
  issueTeam .lqm w s fun si e =>
    .done (writeAll s si w false ((actors si w e).map fun t =>
      (t, lqmPoint (pointBytes w.ty) (rd32 s si.core si.team t w.a) (rd32 s si.core si.team t w.b)
        (rd32 s si.core si.team t w.c))))

/-! Segments (06 R181). -/

/-- Threads of a segment. -/
def segSize (w : Ins) : Nat := let c := w.m 63 60; if c == 0 then 32 else 2 ^ c

/-- The source thread of SHFL, the thread itself where the rule gives none. -/
def shflFrom (w : Ins) (threads t b : Nat) : Nat :=
  let size := segSize w
  let base := t / size * size
  let y : Option Nat := match w.m 51 50 with
    | 0 => some (base + b % size)
    | 1 => if base + b ≤ t then some (t - b) else none
    | 2 => if t + b < base + size then some (t + b) else none
    | _ => some (base + ((t - base) ^^^ (b % size)))
  match y with
  | some y => if y < threads then y else t
  | none => t

def execShfl (w : Ins) (s : State) : Outcome State Fault Refusal :=
  issueTeam .shfl w s fun si e =>
    .done (writeAll s si w (w.mb 49) ((actors si w e).map fun t =>
      (t, plain (rdW s si.core si.team (w.mb 49) (shflFrom w si.team.threads t (rd32 s si.core si.team t w.b)) w.a))))

def execBcast (w : Ins) (s : State) : Outcome State Fault Refusal :=
  issueTeam .bcast w s fun si e =>
    .done (writeAll s si w (w.mb 49) ((actors si w e).map fun t =>
      let u := rd32 s si.core si.team t w.b
      (t, plain (if u < si.team.threads then rdW s si.core si.team (w.mb 49) u w.a else 0))))

/-! Reductions (06 R183, 04 R118). -/

/-- One level of the fixed pairwise tree, left to right, with a running state. -/
def treeLevel {α σ : Type} (f : σ → α → α → σ × α) : σ → List α → σ × List α
  | st, a :: b :: r =>
    let (st, x) := f st a b
    let (st, xs) := treeLevel f st r
    (st, x :: xs)
  | st, l => (st, l)

/-- The tree, level by level. -/
def treeReduce {α σ : Type} (f : σ → α → α → σ × α) : Nat → σ → List α → σ × List α
  | 0, st, l => (st, l)
  | n + 1, st, l =>
    match l with
    | [] | [_] => (st, l)
    | l => let (st, l) := treeLevel f st l
      treeReduce f n st l

/-- Combine on FP32 patterns, with the random state and flags it leaves; SAT acts at every node that rounds (log 20). -/
def combineF (op : Nat) (rc : RCtl) (st : W64 × Flags) (a b : Nat) : (W64 × Flags) × Nat :=
  let f := Fmt.f32
  let va := f.read rc.ftz a
  let vb := f.read rc.ftz b
  if op == 8 then
    let (new, x) := if rc.mode == .sto then next32 st.1 else (st.1, 0)
    let r := roundBoth f rc [x.toNat % 65536] (sumVals rc.mode [va, vb])
    ((new, st.2 ||| r.2), r.1)
  else
    let r := minMax f (op == 10) va vb
    ((st.1, st.2 ||| r.2), r.1)

/-- Combine on exact integers; OP 0 to 5. -/
def combineI (op w : Nat) (x y : Int) : Int :=
  match op with
  | 0 => x + y
  | 1 => min x y
  | 2 => max x y
  | 3 => ((wrap w x &&& wrap w y : Nat) : Int)
  | 4 => ((wrap w x ||| wrap w y : Nat) : Int)
  | _ => ((wrap w x ^^^ wrap w y : Nat) : Int)

/-- The delivered value of a floating reduction: a NaN is canonical, SAT replaces an infinity (log 20), and under FTZ a subnormal A
that no node has combined reads as a zero (04 R104). -/
def deliverF (rc : RCtl) (x : Nat) : Nat × Flags := roundFP .f32 { rc with mode := .rne } 0 (Fmt.f32.read rc.ftz x)

/-- Executing threads of a thread's segment. -/
def segThreads (w : Ins) (ts : List Nat) (t : Nat) : List Nat := ts.filter fun u => u / segSize w == t / segSize w

/-- The segments that executing threads lie in, by number. -/
def segmentsOf (w : Ins) (ts : List Nat) : List Nat :=
  ts.foldl (fun l t => if l.contains (t / segSize w) then l else l ++ [t / segSize w]) []

/-- One segment reduced: its result and flags, and the state of the stream of its lowest thread. -/
def reduxSeg (s : State) (si : Site) (w : Ins) (us : List Nat) : Nat × Flags × W64 :=
  let rc := si.team.rctl w
  let op := w.m 57 54
  let st := si.team.rand (us.headD 0)
  let xs := us.map fun u => rdW s si.core si.team w.wideT u w.a
  if 8 ≤ op then
    let (st, l) := treeReduce (combineF op rc) 11 (st, 0) xs
    let r := deliverF rc (l.headD 0)
    (r.1, st.2 ||| r.2, st.1)
  else
    let vs := xs.map (ival (tySigned w) w.wideT)
    let r := intResult (tySigned w) w.wideT (w.sat && op == 0)
      ((vs.drop 1).foldl (combineI op (widthOf w.wideT)) (vs.headD 0))
    (r.1, r.2, st)

def execRedux (w : Ins) (s : State) : Outcome State Fault Refusal :=
  issueTeam .redux w s fun si e =>
    let ts := threadsOf si.team.threads e
    let segs := (segmentsOf w (actors si w e)).map fun g => (g, reduxSeg s si w (ts.filter fun u => u / segSize w == g))
    let sto := w.m 57 54 == 8 && (si.team.rctl w).mode == .sto
    let s := if sto then
        s.onTeam si fun tm => segs.foldl (fun tm x =>
          tm.setRand ((ts.find? fun u => u / segSize w == x.1).getD 0) x.2.2.2) tm
      else s
    .done (writeAll s si w w.wideT ((actors si w e).filterMap fun t =>
      (segs.find? fun x => x.1 == t / segSize w).map fun x => (t, x.2.1, x.2.2.1)))

/-! Prefixes (06 R184). -/

/-- The identity of an operation, as a pattern. -/
def identityOf (w : Ins) : Nat :=
  let n := widthOf w.wideT
  match w.m 57 54 with
  | 1 => if (tySigned w) then 2 ^ (n - 1) - 1 else 2 ^ n - 1
  | 2 => if (tySigned w) then 2 ^ (n - 1) else 0
  | 3 => 2 ^ n - 1
  | 9 => 0x7F800000
  | 10 => 0xFF800000
  | _ => 0

/-- A floating scan: each thread's delivered value and flags, and its stream's new state. -/
def scanF (w : Ins) (rc : RCtl) : Nat → List (Nat × Nat × W64) → List (Nat × (Nat × Flags) × W64)
  | _, [] => []
  | acc, (t, x, st) :: r =>
    let (st', y) := combineF (w.m 57 54) rc (st, 0) acc x
    let d := deliverF rc (if w.mb 58 then acc else y)
    (t, (d.1, d.2 ||| st'.2), st'.1) :: scanF w rc y r

/-- An integer scan: exact prefixes, each delivered value wrapped or saturated once. -/
def scanI (w : Ins) : Int → List (Nat × Int) → List (Nat × Nat × Flags)
  | _, [] => []
  | acc, (t, x) :: r =>
    let y := combineI (w.m 57 54) (widthOf w.wideT) acc x
    (t, intResult (tySigned w) w.wideT (w.sat && w.m 57 54 == 0) (if w.mb 58 then acc else y)) :: scanI w y r

/-- The scan of one segment. -/
def scanSeg (s : State) (si : Site) (w : Ins) (us : List Nat) : List (Nat × (Nat × Flags) × W64) :=
  let x (u : Nat) := rdW s si.core si.team w.wideT u w.a
  if 8 ≤ w.m 57 54 then
    scanF w (si.team.rctl w) (identityOf w) (us.map fun u => (u, x u, si.team.rand u))
  else
    (scanI w (ival (tySigned w) w.wideT (identityOf w)) (us.map fun u => (u, ival (tySigned w) w.wideT (x u)))).map fun r =>
      (r.1, r.2, si.team.rand r.1)

def execScan (w : Ins) (s : State) : Outcome State Fault Refusal :=
  issueTeam .scan w s fun si e =>
    let ts := threadsOf si.team.threads e
    let as := actors si w e
    let segs := (segmentsOf w as).map fun g => (g, scanSeg s si w (ts.filter fun u => u / segSize w == g))
    let rs := as.filterMap fun t => (segs.find? fun x => x.1 == t / segSize w).bind fun x => x.2.find? fun y => y.1 == t
    let sto := w.m 57 54 == 8 && (si.team.rctl w).mode == .sto
    let s := if sto then s.onTeam si fun tm => rs.foldl (fun tm x => tm.setRand x.1 x.2.2) tm else s
    .done (writeAll s si w w.wideT (rs.map fun x => (x.1, x.2.1)))

/-! Random numbers (06 R185, R186). -/

/-- RAND's value: the draw, or the draw's upper 24 bits as an FP32 value in [0, 1). -/
def randValue (asFloat : Bool) (x : W32) : Nat :=
  if asFloat then (roundFP .f32 .rne 0 (.num false (x.toNat / 256) (-24))).1 else x.toNat

def execRand (w : Ins) (s : State) : Outcome State Fault Refusal :=
  issueTeam .rand w s fun si e =>
    let ts := actors si w e
    .done (writeAll (s.onTeam si fun t => t.drawn true 1 ts) si w false
      (ts.map fun t => (t, plain (randValue (w.mb 49) (next32 (si.team.rand t)).2))))

def execRseed (w : Ins) (s : State) : Outcome State Fault Refusal :=
  issueTeam .rseed w s fun si e =>
    .done (s.onTeam si fun tm => (threadsOf si.team.threads e).foldl (fun tm t =>
      let x := BitVec.ofNat 64 (rd32 s si.core si.team t w.b * 2 ^ 32 + rd32 s si.core si.team t w.a)
      tm.setRand t (if w.mb 49 then x ^^^ BitVec.ofNat 64 (t * 0x9E3779B97F4A7C15) else x)) tm)

end Sys2Proof.Machine
end

