-- ==== Sys2Proof/Machine/Sha.lean ====
section
/-! DEFINITION. SHA-256 (FIPS 180-4), the digest that Renweaz computes of a sealed region (02 R45). -/

namespace Sys2Proof.Machine

open Sys2Proof

/-- The constants of the rounds: the first 32 bits of the fractional parts of the cube roots of the first 64 primes. -/
def shaK : List W32 :=
  [0x428a2f98, 0x71374491, 0xb5c0fbcf, 0xe9b5dba5, 0x3956c25b, 0x59f111f1, 0x923f82a4, 0xab1c5ed5] ++
  [0xd807aa98, 0x12835b01, 0x243185be, 0x550c7dc3, 0x72be5d74, 0x80deb1fe, 0x9bdc06a7, 0xc19bf174] ++
  [0xe49b69c1, 0xefbe4786, 0x0fc19dc6, 0x240ca1cc, 0x2de92c6f, 0x4a7484aa, 0x5cb0a9dc, 0x76f988da] ++
  [0x983e5152, 0xa831c66d, 0xb00327c8, 0xbf597fc7, 0xc6e00bf3, 0xd5a79147, 0x06ca6351, 0x14292967] ++
  [0x27b70a85, 0x2e1b2138, 0x4d2c6dfc, 0x53380d13, 0x650a7354, 0x766a0abb, 0x81c2c92e, 0x92722c85] ++
  [0xa2bfe8a1, 0xa81a664b, 0xc24b8b70, 0xc76c51a3, 0xd192e819, 0xd6990624, 0xf40e3585, 0x106aa070] ++
  [0x19a4c116, 0x1e376c08, 0x2748774c, 0x34b0bcb5, 0x391c0cb3, 0x4ed8aa4a, 0x5b9cca4f, 0x682e6ff3] ++
  [0x748f82ee, 0x78a5636f, 0x84c87814, 0x8cc70208, 0x90befffa, 0xa4506ceb, 0xbef9a3f7, 0xc67178f2]

/-- The first value of the state: likewise of the square roots of the first eight primes. -/
def shaInit : List W32 :=
  [0x6a09e667, 0xbb67ae85, 0x3c6ef372, 0xa54ff53a, 0x510e527f, 0x9b05688c, 0x1f83d9ab, 0x5be0cd19]

def shaRot (x : W32) (n : Nat) : W32 := x.rotateRight n

/-- σ0 and σ1 of the message schedule. -/
def shaS0 (x : W32) : W32 := shaRot x 7 ^^^ shaRot x 18 ^^^ (x >>> 3)
def shaS1 (x : W32) : W32 := shaRot x 17 ^^^ shaRot x 19 ^^^ (x >>> 10)

/-- The schedule's last 16 words one step on: the oldest first. -/
def shaNext (w : List W32) : List W32 :=
  w.drop 1 ++ [shaS1 (w.getD 14 0) + w.getD 9 0 + shaS0 (w.getD 1 0) + w.getD 0 0]

/-- One round on the state a to h, with K + W of the round. -/
def shaRound (h : List W32) (kw : W32) : List W32 :=
  match h with
  | [a, b, c, d, e, f, g, h] =>
    let s1 := shaRot e 6 ^^^ shaRot e 11 ^^^ shaRot e 25
    let t1 := h + s1 + ((e &&& f) ^^^ (~~~ e &&& g)) + kw
    let s0 := shaRot a 2 ^^^ shaRot a 13 ^^^ shaRot a 22
    let t2 := s0 + ((a &&& b) ^^^ (a &&& c) ^^^ (b &&& c))
    [t1 + t2, a, b, c, d + t1, e, f, g]
  | h => h

/-- The rounds of the constants that are left. -/
def shaRounds : List W32 → List W32 → List W32 → List W32
  | [], _, h => h
  | k :: ks, w, h => shaRounds ks (shaNext w) (shaRound h (k + w.getD 0 0))

/-- A 32-bit word of four bytes, the first the most significant. -/
def shaWord (bs : List Byte) : W32 := BitVec.ofNat 32 (bs.foldl (fun x b => 256 * x + b.toNat) 0)

/-- One block of 64 bytes. -/
def shaBlock (h : List W32) (block : List Byte) : List W32 :=
  let w := (List.range 16).map fun i => shaWord ((block.drop (4 * i)).take 4)
  List.zipWith (· + ·) h (shaRounds shaK w h)

/-- The message with its padding: a one bit, zeros, and its length in bits as 64 bits. -/
def shaPad (m : List Byte) : List Byte :=
  m ++ [0x80] ++ List.replicate ((119 - m.length % 64) % 64) 0 ++
    (List.range 8).map fun i => BitVec.ofNat 8 (8 * m.length / 256 ^ (7 - i))

/-- The blocks of a padded message, n of them. -/
def shaBlocks : Nat → List W32 → List Byte → List W32
  | 0, h, _ => h
  | n + 1, h, m => shaBlocks n (shaBlock h (m.take 64)) (m.drop 64)

/-- The digest of a message, as a number. -/
def sha256 (m : List Byte) : Nat :=
  let p := shaPad m
  (shaBlocks (p.length / 64) shaInit p).foldl (fun x w => 2 ^ 32 * x + w.toNat) 0

end Sys2Proof.Machine
end

