-- ==== Sys2Proof/Machine/Tenants.lean ====
section
/-! DEFINITION. Commands of the physical function: virtual devices, arbiter registers, moves between partitions, sealed regions
(16 R444; 03 R67 to R69, R83, R84; 02 R45; 13 R367). -/

namespace Sys2Proof.Machine

open Sys2Proof Host

/-! Physical memory. -/

/-- A leaf below a context's tables meets a range. -/
def State.ctxMaps (s : State) (c : Ctx) (base len : Nat) : Bool :=
  (s.leavesBelow levels c.root).any fun x => rangesMeet (pteAddr x.1) x.2 base len

/-- Tables of a context, its root first. -/
def State.tablesBelow (s : State) : List Level → Nat → List Nat
  | [], _ => []
  | l :: ls, table => table ::
    ((s.entriesAt table (2 ^ l.width)).filter fun e => bitAt e 0 && !pteBad l e && !bitAt e 1).flatMap fun e =>
      State.tablesBelow s ls (pteAddr e)

/-! VDMAKE (R68, R93; 13 R367; 16 R442, R444). -/

def RemoteWin.good (r : RemoteWin) : Bool :=
  r.vbase % 65536 == 0 && r.len % 65536 == 0 && 65536 ≤ r.len && r.vbase + r.len ≤ 2 ^ 48 && r.rbase + r.len ≤ 2 ^ 48 &&
  r.peer < 64 && r.rctx.vd < 128 && r.rctx.ctx < 64

def queueGood (q : QueueReq) : Bool :=
  q.index < 16 && q.header % 64 == 0 && q.header + 64 ≤ 2 ^ 48 && q.die < 4 && q.ring % 128 == 0 && q.ring < 2 ^ 48 &&
  4 ≤ q.log2n && q.log2n ≤ 16

/-- One context of the request, for a partition. -/
def ctxReqGood (p : Part) (s : State) (c : CtxReq) : Bool :=
  c.ctx < 64 && c.root % 4096 == 0 && stackOf c.root < 12 && c.root < 2 ^ 40 &&
  (c.ptes.all fun x => x.1 % 8 == 0 && x.1 < 2 ^ 40 && stackOf x.1 < 12 && x.2 < 2 ^ 64) && c.queues.all queueGood &&
  (c.chip.all fun x => x.1 < 4) && c.remote.length ≤ 16 && c.remote.all RemoteWin.good &&
  c.heads.all fun h => p.heads.contains h && (s.head h).cx.isNone && !(s.head h).en

/-- No element stands twice. -/
def distinct (l : List Nat) : Bool := l.dedup.length == l.length

/-- Chip scratchpad for the request. -/
def State.chipFits (s : State) (cs : List CtxReq) : Bool :=
  (List.range 4).all fun d =>
    s.chipUnits d + ((cs.flatMap (·.chip)).map fun x => if x.1 == d then x.2 else 0).sum ≤ unitsPerWay * s.convWays.get 0 d

/-- The spill rings of a new device. -/
def State.ringsFit (s : State) (vd units : Nat) (bases : List Nat) : Bool :=
  units == 0 || (List.range 12).all fun k => s.ringFits k vd (bases.getD k 0) units

/-- TRRING and TRQLIM of a device on every base die; none where a die refuses, with the state that its refusal leaves. -/
def State.writeTrqAll (s : State) (vd : Nat) (ring qlim : Nat → Option W64) : Bool × State :=
  let (ok, s') := (List.range 12).foldl (fun (x : Bool × State) k =>
    if x.1 then x.2.writeTrq k vd (ring k) (qlim k) else x) (true, s)
  if ok then (true, s') else (false, { s' with trring := s.trring, trqlim := s.trqlim })

/-- A launch queue is bound, and Renweaz writes its header. -/
def State.bindQueue (s : State) (cx : CtxId) (q : QueueReq) : State :=
  let s := s.setQueue cx q.index { header := q.header, die := q.die, notes := [], passed := false, fault := none }
  match s.span cx q.header 64 false with
  | .ok hk => s.putKeys hk (leBytes 8 q.ring ++ leBytes 1 q.log2n ++ leBytes 1 (boolNat q.enabled + 2 * boolNat q.feed) ++
      List.replicate 54 0)
  | .error _ => s

/-- One context as Renweaz sets it up. -/
def State.makeCtx (s : State) (vd : Nat) (c : CtxReq) : State :=
  let cx : CtxId := ⟨vd, c.ctx⟩
  let s := ((s.writePtes c.ptes).setCtx cx { Ctx.init with
    root := c.root
    remote := c.remote
    chip := c.chip.foldl (fun (t : Tbl Nat) x => t.set x.1 (t.get 0 x.1 + x.2)) [] }).zeroChip fun k _ => k == cxKey cx
  let s := c.queues.foldl (fun s q => s.bindQueue cx q) s
  let s := c.heads.foldl (fun s h => s.updHead h fun x => { x with cx := some cx }) s
  c.remote.foldl (fun s r => if (s.streams.get? r.peer).isSome then s else s.setStream r.peer Stream.init) s

/-- The tables of every context keep the rules (03 R67, 12 R328). -/
def State.allTablesGood (s : State) : Bool := s.ctxs.all fun x => s.tablesGood ⟨x.1 / 64, x.1 % 64⟩ x.2

/-- A header that is not mapped. -/
def State.headersMapped (s : State) (vd : Nat) (cs : List CtxReq) : Bool :=
  cs.all fun c => c.queues.all fun q => match s.span ⟨vd, c.ctx⟩ q.header 64 false with
    | .ok _ => true
    | .error _ => false

/-- TRRING and TRQLIM of a new device on a base die (13 R367). -/
def ringWord (units : Nat) (bases : List Nat) (k : Nat) : W64 :=
  BitVec.ofNat 64 (if units == 0 then 2 ^ 36 * k else bases.getD k 0 + units)

def qlimWord (rqlim : List Nat) (raylim k : Nat) : W64 := BitVec.ofNat 64 (rqlim.getD k 0 * 2 ^ 32 + raylim)

/-- The device and its contexts once its traversal registers are written, which may have failed; refused as a whole. -/
def State.setUpVd (s : State) (vd part : Nat) (cs : List CtxReq) (wdt cto : Nat) (r : Bool × State) : Reply :=
  if !r.1 then s.refuse
  else
    let s' := { r.2 with vds := r.2.vds.set vd { part := part, wdt := wdt, cto := cto, remoteErr := 0 } }
    let s' := cs.foldl (fun s c => s.makeCtx vd c) s'
    if s'.allTablesGood && s'.headersMapped vd cs then s'.done else s.refuse

def State.makeVd (s : State) (vd part raylim : Nat) (rqlim : List Nat) (units : Nat) (bases : List Nat) (cs : List CtxReq)
    (wdt cto : Nat) : Reply :=
  match s.parts.get? part with
  | none => s.refuse
  | some p =>
    if 128 ≤ vd || (s.vds.get? vd).isSome || cs.isEmpty || !distinct (cs.map (·.ctx)) ||
        !distinct ((cs.flatMap (·.queues)).map (·.index)) || !distinct (cs.flatMap (·.heads)) || !cs.all (ctxReqGood p s) ||
        !s.chipFits cs || !s.ringsFit vd units bases || 2 ^ 24 ≤ raylim || !(rqlim.all fun n => n ≤ 126976) ||
        !wdtFits wdt || !ctoFits cto then s.refuse
    else s.setUpVd vd part cs wdt cto
      (s.writeTrqAll vd (fun k => some (ringWord units bases k)) fun k => some (qlimWord rqlim raylim k))

/-- The device is gone: its contexts reset, its lines written back, its heads free. -/
def State.destroyVd (s : State) (vd : Nat) : Option Reply :=
  if (s.vds.get? vd).isNone then some s.refuse else
  (s.resetAll (s.contextsOf vd)).bind fun s =>
    let mine := s.lines.filter fun x => x.2.vd == vd
    if mine.any fun x => x.2.tile && s.tileDirty (64 * x.1) && s.tileStuck (64 * x.1) then none else
    let s := mine.foldl (fun s x => s.evictCrumb x.1) s
    let heads := s.heads.filter fun x => (x.2.cx.map (·.vd)) == some vd
    let s := heads.foldl (fun s x =>
      let s := if x.2.en then (s.disableHead x.1 (x.2.cfg &&& 0x7FFFFFFFFFFFFFFF)).restartPeriod x.1 else s
      s.updHead x.1 fun h => { h with cx := none }) s
    let s := s.zeroChip fun k _ => k / 64 == vd
    some { s with
      ctxs := s.ctxs.filter fun x => x.1 / 64 != vd
      vds := s.vds.erase vd
      trring := s.trring.filter fun x => x.1 % 128 != vd
      trqlim := s.trqlim.filter fun x => x.1 % 128 != vd
      bypass := s.bypass.erase vd }.done

def execVdmake (fn tag : Nat) (req : VdReq) (s : State) : Outcome State Fault Refusal :=
  pfCommand fn tag s <| match req with
    | .make vd part raylim rqlim units bases cs wdt cto => some (s.makeVd vd part raylim rqlim units bases cs wdt cto)
    | .destroy vd => s.destroyVd vd

/-! ARBSET (R69, 13 R367). -/

def replyOf (r : Bool × State) : Reply := if r.1 then r.2.done else r.2.refuse

/-- RAYLIM takes the same value on every base die; a ring keeps the terms of VDMAKE. -/
def State.setTraversal (s : State) (stack vd : Nat) (ring qlim : Option W64) : Bool × State :=
  if !s.ringWordFits stack vd ring then (false, s) else
  match qlim with
  | none => s.writeTrq stack vd ring none
  | some q =>
    let ray : W64 := q &&& 0xFFFFFF
    s.writeTrqAll vd (fun k => if k == stack then ring else none) fun k =>
      some (if k == stack then q else (s.trqlim.get 0 (128 * k + vd) &&& 0x0003FFFF00000000) ||| ray)

def execArbset (fn tag : Nat) (req : ArbWrite) (s : State) : Outcome State Fault Refusal :=
  pfCommand fn tag s <| some <| match req with
    | .bucket arb slot v => if arbOk arb && slot < arbSlots arb.kind then replyOf (s.writeBkcfg arb slot v) else s.refuse
    | .way slice slot v => if slice < 512 && slot < 16 then replyOf (s.writeWayq slice slot v) else s.refuse
    | .frame part v => match s.parts.get? part with
      | some p => (s.writeFrctl part p v).done
      | none => s.refuse
    | .traversal stack vd ring qlim =>
      if stack < 12 && (s.vds.get? vd).isSome then replyOf (s.setTraversal stack vd ring qlim) else s.refuse

/-! PARTMOVE (R83, R84). Partition 16 stands for none (log 33). -/

/-- A partition that owns nothing yet. -/
def Part.empty (n : Nat) : Part :=
  { clusters := [], groups := [], qsets := [], heads := [], key := n, frctl := 0, misses := 0, deadline := none }

def State.onPart (s : State) (n : Nat) (f : Part → Part) : State :=
  if 16 ≤ n then s else { s with parts := s.parts.set n (f ((s.parts.get? n).getD (Part.empty n))) }

/-- The partition owns a resource; 16 owns what no partition does. -/
def State.partOwns (s : State) (n x : Nat) (f : Part → List Nat) : Bool :=
  if n == 16 then !s.parts.any fun p => (f p.2).contains x
  else match s.parts.get? n with
    | some p => (f p).contains x
    | none => false

/-- A list of resources with one more, in order. -/
def withItem (l : List Nat) (x : Nat) : List Nat := (l.filter fun y => y < x) ++ [x] ++ l.filter fun y => x < y

/-- A launch that holds a cluster's move: a near launch of a core of it, or a placed co-resident one that would not fit. -/
def State.moveHeld (s : State) (c src : Nat) : Bool :=
  let s' := s.onPart src fun p => { p with clusters := p.clusters.erase c }
  let near (i : Option Issuer) : Bool := i.any fun i => i.near && coreCluster i.core == c
  (s.launches.any fun x => near x.2.issuer ||
    (s.partOf x.2.cx == src && x.2.record.coresident && x.2.draw.isNone && 0 < x.2.nextGang && x.2.die == c / 24 &&
      !s'.couldFit x.2.record src x.2.die x.2.issuer)) ||
  s.ctxs.any fun x => x.2.queues.any fun q => q.2.notes.any fun i => near (some i.2)

/-- Work of control threads on a cluster: a thread that runs, or an operation that one issued (log 30). -/
def State.clusterBusy (s : State) (c : Nat) : Bool :=
  (s.cores.any fun x => coreCluster x.1 == c && x.2.ctl.owner.isSome) ||
  s.ops.any fun x => coreCluster x.2.core == c && x.2.byCtl && !x.2.work.isFetch

/-- Every gang on a cluster is pre-empted now; none where one is not ready. -/
def State.preemptCluster (s : State) (l : Tbl Gang) : Option State :=
  l.foldl (fun r x => r.bind fun s => match s.gang? x.1 with
    | some g => if g.resident then s.preemptNow x.1 g else some s
    | none => some s) (some s)

/-- Issue-arbiter slots of a cluster's cores as Renweaz hands the cluster over (R83): BKCFG of a slot, and the virtual devices whose
SLOTMAP names it; none where an arbiter refuses. -/
def State.reslot (s : State) (c : Nat) : List SlotReq → Option State
  | [] => some s
  | r :: rs =>
    let k : ArbKey := ⟨1, 4 * c + r.member⟩
    if 4 ≤ r.member || 8 ≤ r.slot || !r.vds.all (· < 128) then none else
    let (ok, s) := s.writeBkcfg k r.slot r.cfg
    if !ok then none
    else State.reslot (s.setArb k (r.vds.foldl (fun a v => a.mapSlot v r.slot) (s.arb k))) c rs

/-- A cluster's move in the order of R83: it stays busy, with the cluster's gangs chosen for pre-emption, until they are saved. -/
def State.moveCluster (s : State) (c src dst : Nat) (slots : List SlotReq) : Option Asked :=
  if 96 ≤ c || !s.partOwns src c (·.clusters) || (s.reslot c slots).isNone then some (.reply s.refuse)
  else if s.moveHeld c src || s.clusterBusy c then none
  else
    let l := s.gangs.filter fun x => x.2.resident && x.2.cores.any fun k => coreCluster k == c
    match s.preemptCluster l with
    | none => (s.chooseToSave (l.flatMap fun x => s.together x.1 x.2 true)).map .deferred
    | some s => (s.reslot c slots).map fun s =>
      .reply ((s.onPart src fun p => { p with clusters := p.clusters.erase c }).onPart dst
        fun p => { p with clusters := withItem p.clusters c }).done

/-- Physical pages are copied, with their mode bytes. -/
def State.copyPages (s : State) (src dst n : Nat) : State :=
  let move (m : Memory) (a b n : Nat) : Memory :=
    Memory.writes (m.filter fun x => !(b ≤ x.1 && x.1 < b + n))
      ((m.filter fun x => a ≤ x.1 && x.1 < a + n).map fun x => (x.1 - a + b, x.2))
  { s with mem := move (move s.mem src dst n) (modePA src) (modePA dst) (n / 256) }.replaced dst n

/-- The contexts of a partition. -/
def State.partCtxs (s : State) (n : Nat) : List CtxId :=
  (s.ctxs.filter fun x => s.partOf ⟨x.1 / 64, x.1 % 64⟩ == n).map fun x => ⟨x.1 / 64, x.1 % 64⟩

/-- Channels of a group in bank mode. -/
def State.groupSessions (s : State) (stack g : Nat) : List Nat :=
  (s.sessions.filter fun x => x.1 / 64 == stack && x.1 % 64 / 8 == g).map (·.1)

/-- A window of the partition holds a page of the group. -/
def State.groupWindowed (s : State) (src base : Nat) : Bool :=
  (s.partCtxs src).any fun cx => match s.ctx? cx with
    | some c => c.windows.any fun w => (windowPages w.base w.len).any fun va => match s.pagePA cx va with
        | some pa => base ≤ pa && pa < base + 2 ^ 33
        | none => false
    | none => false

/-- Every context's tables and pages have left the group. -/
def State.groupLeft (s : State) (base : Nat) : Bool :=
  s.ctxs.all fun x => !s.ctxMaps x.2 base (2 ^ 33) &&
    !(s.tablesBelow levels x.2.root).any fun t => base ≤ t && t < base + 2 ^ 33

/-- A ring or a sealed region lies in the group. -/
def State.groupUsed (s : State) (base : Nat) : Bool :=
  (s.seals.any fun x => rangesMeet x.2.base x.2.len base (2 ^ 33)) ||
  s.trring.any fun x => bits x.2.toNat 15 0 != 0 &&
    rangesMeet (bits x.2.toNat 39 16 * 65536) (65536 * bits x.2.toNat 15 0) base (2 ^ 33)

/-- The migration: pages copied, tables rewritten, old translations gone; none where the tables would break a rule. -/
def State.migrate (s : State) (src base : Nat) (copies : List (Nat × Nat × Nat)) (ptes : List (Nat × Nat)) : Option State :=
  let s := (s.partCtxs src).foldl (fun s cx => s.drainCx cx) s
  let s := s.flushGroup base
  let s := copies.foldl (fun s x => s.copyPages x.1 x.2.1 x.2.2) s
  (s.remap ptes).map fun s => (s.partCtxs src).foldl (fun s cx => s.invalidate cx 0 (2 ^ 48)) s

/-- A group's deferred queues are empty. -/
def State.groupQuiet (s : State) (stack g : Nat) : Bool :=
  s.deferred.all fun x => !(x.1 / 64 == stack && x.1 % 64 / 8 == g)

/-- A group's move, in the order of R84. While channels are in bank mode their sessions are forced to end, and the request stays
busy. -/
def State.moveGroup (s : State) (stack g src dst : Nat) (copies : List (Nat × Nat × Nat)) (ptes : List (Nat × Nat)) : Option Asked :=
  let base := stack * 2 ^ 36 + g * 2 ^ 33
  let inSrc (a : Nat) : Bool := base ≤ a && a < base + 2 ^ 33
  let good := copies.all fun x =>
    inSrc x.1 && inSrc (x.1 + x.2.2 - 1) && 0 < x.2.2 && x.1 % 65536 == 0 && x.2.1 % 65536 == 0 && x.2.2 % 65536 == 0 &&
      (match s.parts.get? src with | some p => p.ownsPA x.2.1 && p.ownsPA (x.2.1 + x.2.2 - 1) | none => false) && !inSrc x.2.1
  if !(12 > stack && g < 8) || !s.partOwns src (8 * stack + g) (·.groups) || s.groupUsed base || !good then some (.reply s.refuse)
  else if s.groupWindowed src base then none
  else if !(s.groupSessions stack g).isEmpty then
    some (.deferred { s with sessions := s.sessions.map fun x =>
      (x.1, if (s.groupSessions stack g).contains x.1 && x.2.ending.isNone then { x.2 with ending := some none } else x.2) })
  else if !s.groupQuiet stack g || (s.partCtxs src).any s.cxStuck then none
  else match s.migrate src base copies ptes with
    | none => some (.reply s.refuse)
    | some s' =>
      if !s'.groupLeft base then some (.reply s.refuse)
      else some (.reply (((s'.zeroGroup base).onPart src fun p => { p with groups := p.groups.erase (8 * stack + g) }).onPart dst
        fun p => { p with groups := withItem p.groups (8 * stack + g) }).done)

def State.moveQset (s : State) (q src dst : Nat) : Reply :=
  if 64 ≤ q || !s.partOwns src q (·.qsets) then s.refuse
  else ((s.onPart src fun p => { p with qsets := p.qsets.erase q }).onPart dst
    fun p => { p with qsets := withItem p.qsets q }).done

/-- A head changes partition only while EN is 0 (16 R435), and is then assigned to no context. -/
def State.moveHead (s : State) (h src dst : Nat) : Reply :=
  if 128 ≤ h || !s.partOwns src h (·.heads) || (s.head h).en then s.refuse
  else (((s.onPart src fun p => { p with heads := p.heads.erase h }).onPart dst
    fun p => { p with heads := withItem p.heads h }).updHead h fun x => { x with cx := none }).done

def movesBetween (req : PartReq) : Nat × Nat :=
  match req with
  | .cluster _ a b _ => (a, b)
  | .group _ _ a b _ _ => (a, b)
  | .qset _ a b => (a, b)
  | .head _ a b => (a, b)

def execPartmove (fn tag : Nat) (req : PartReq) (s : State) : Outcome State Fault Refusal :=
  let (a, b) := movesBetween req
  if fn != 0 || 16 < a || 16 < b || a == b then pfCommand fn tag s (some s.refuse)
  else match req with
    | .cluster c src dst slots => pfAsk fn tag s (s.moveCluster c src dst slots)
    | .group stack g src dst copies ptes => pfAsk fn tag s (s.moveGroup stack g src dst copies ptes)
    | .qset q src dst => pfCommand fn tag s (some (s.moveQset q src dst))
    | .head h src dst => pfCommand fn tag s (some (s.moveHead h src dst))

/-! SEAL (02 R45). -/

/-- A region that may be filled: whole pages in unowned groups, within 32 GiB in all, apart from other regions. -/
def State.sealFits (s : State) (id base len : Nat) : Bool :=
  let others := s.seals.filter fun x => x.1 != id
  id < 8 && base % 65536 == 0 && len % 65536 == 0 && 0 < len && s.unownedRange base len &&
  len + (others.map fun x => x.2.len).sum ≤ 32 * 2 ^ 30 && !others.any fun x => rangesMeet x.2.base x.2.len base len

def State.sealFill (s : State) (id base len : Nat) (data : List Byte) : Reply :=
  let locked := match s.seals.get? id with
    | some x => x.isSealed
    | none => false
  if locked || !s.sealFits id base len || len < data.length then s.refuse
  else
    let s := { s with mem := Memory.writes s.mem (((List.range data.length).map (base + ·)).zip data) }.replaced base data.length
    { s with seals := s.seals.set id { base := base, len := len, isSealed := false } }.done

/-- The bytes of a region, as its digest takes them. -/
def State.sealBytes (s : State) (x : SealRegion) : List Byte := (List.range x.len).map fun i => s.readKey (x.base + i)

/-- A region is sealed with its digest, and retired once no context maps it. -/
def execSealRequest (fn tag : Nat) (req : SealReq) (s : State) : Outcome State Fault Refusal :=
  pfCommand fn tag s <| some <| match req with
    | .fill id base len data => s.sealFill id base len data
    | .seal id => match s.seals.get? id with
      | some x => { s with seals := s.seals.set id { x with isSealed := true, digest := sha256 (s.sealBytes x) } }.done
      | none => s.refuse
    | .retire id => match s.seals.get? id with
      | some x =>
        if s.ctxs.any fun c => s.ctxMaps c.2 x.base x.len then s.refuse else { s with seals := s.seals.erase id }.done
      | none => s.refuse

end Sys2Proof.Machine
end

