-- ==== Sys2Proof/Machine/Dispatch.lean ====
section
/-! DEFINITION. One arm for each constructor of Instr: a direct call of its meaning. -/

namespace Sys2Proof.Machine

open Sys2Proof Host

def exec (i : Instr) (s : State) : Host.Outcome State Fault Refusal :=
  match i with
  | .nop w => Sys2Proof.Machine.execNop w s
  | .bra w => Sys2Proof.Machine.execBra w s
  | .brd w => Sys2Proof.Machine.execBrd w s
  | .brx w => Sys2Proof.Machine.execBrx w s
  | .brxd w => Sys2Proof.Machine.execBrxd w s
  | .call w => Sys2Proof.Machine.execCall w s
  | .callx w => Sys2Proof.Machine.execCallx w s
  | .ret w => Sys2Proof.Machine.execRet w s
  | .syncr w => Sys2Proof.Machine.execSyncr w s
  | .exit w => Sys2Proof.Machine.execExit w s
  | .yield w => Sys2Proof.Machine.execYield w s
  | .waitw w => Sys2Proof.Machine.execWaitw w s
  | .sleep w => Sys2Proof.Machine.execSleep w s
  | .trap w => Sys2Proof.Machine.execTrap w s
  | .bkpt w => Sys2Proof.Machine.execBkpt w s
  | .tvec w => Sys2Proof.Machine.execTvec w s
  | .tret w => Sys2Proof.Machine.execTret w s
  | .plop w => Sys2Proof.Machine.execPlop w s
  | .pmovTov w => Sys2Proof.Machine.execPmovTov w s
  | .pmovSel w => Sys2Proof.Machine.execPmovSel w s
  | .vote w => Sys2Proof.Machine.execVote w s
  | .cjoin w => Sys2Proof.Machine.execCjoin w s
  | .cleave w => Sys2Proof.Machine.execCleave w s
  | .cbar w => Sys2Proof.Machine.execCbar w s
  | .barinit w => Sys2Proof.Machine.execBarinit w s
  | .bararr w => Sys2Proof.Machine.execBararr w s
  | .barwait w => Sys2Proof.Machine.execBarwait w s
  | .bartest w => Sys2Proof.Machine.execBartest w s
  | .role w => Sys2Proof.Machine.execRole w s
  | .dqpop w => Sys2Proof.Machine.execDqpop w s
  | .crr w => Sys2Proof.Machine.execCrr w s
  | .crw w => Sys2Proof.Machine.execCrw w s
  | .mov w => Sys2Proof.Machine.execMov w s
  | .movi32 w => Sys2Proof.Machine.execMovi32 w s
  | .movi64 w => Sys2Proof.Machine.execMovi64 w s
  | .sel w => Sys2Proof.Machine.execSel w s
  | .iadd w => Sys2Proof.Machine.execIadd w s
  | .isub w => Sys2Proof.Machine.execIsub w s
  | .imul w => Sys2Proof.Machine.execImul w s
  | .imulh w => Sys2Proof.Machine.execImulh w s
  | .imad w => Sys2Proof.Machine.execImad w s
  | .imin w => Sys2Proof.Machine.execImin w s
  | .imax w => Sys2Proof.Machine.execImax w s
  | .iabs w => Sys2Proof.Machine.execIabs w s
  | .ineg w => Sys2Proof.Machine.execIneg w s
  | .and w => Sys2Proof.Machine.execAnd w s
  | .or w => Sys2Proof.Machine.execOr w s
  | .xor w => Sys2Proof.Machine.execXor w s
  | .andn w => Sys2Proof.Machine.execAndn w s
  | .not w => Sys2Proof.Machine.execNot w s
  | .shl w => Sys2Proof.Machine.execShl w s
  | .shr w => Sys2Proof.Machine.execShr w s
  | .sar w => Sys2Proof.Machine.execSar w s
  | .rot w => Sys2Proof.Machine.execRot w s
  | .popc w => Sys2Proof.Machine.execPopc w s
  | .clz w => Sys2Proof.Machine.execClz w s
  | .brev w => Sys2Proof.Machine.execBrev w s
  | .bfe w => Sys2Proof.Machine.execBfe w s
  | .bfi w => Sys2Proof.Machine.execBfi w s
  | .iaddc w => Sys2Proof.Machine.execIaddc w s
  | .lea w => Sys2Proof.Machine.execLea w s
  | .isetp w => Sys2Proof.Machine.execIsetp w s
  | .fadd w => Sys2Proof.Machine.execFadd w s
  | .fmul w => Sys2Proof.Machine.execFmul w s
  | .ffma w => Sys2Proof.Machine.execFfma w s
  | .fmin w => Sys2Proof.Machine.execFmin w s
  | .fmax w => Sys2Proof.Machine.execFmax w s
  | .fsetp w => Sys2Proof.Machine.execFsetp w s
  | .fclass w => Sys2Proof.Machine.execFclass w s
  | .frcp w => Sys2Proof.Machine.execFrcp w s
  | .frsq w => Sys2Proof.Machine.execFrsq w s
  | .fsqrt w => Sys2Proof.Machine.execFsqrt w s
  | .fex2 w => Sys2Proof.Machine.execFex2 w s
  | .flg2 w => Sys2Proof.Machine.execFlg2 w s
  | .fsin w => Sys2Proof.Machine.execFsin w s
  | .fcos w => Sys2Proof.Machine.execFcos w s
  | .ftanh w => Sys2Proof.Machine.execFtanh w s
  | .dadd w => Sys2Proof.Machine.execDadd w s
  | .dmul w => Sys2Proof.Machine.execDmul w s
  | .dfma w => Sys2Proof.Machine.execDfma w s
  | .dmin w => Sys2Proof.Machine.execDmin w s
  | .dmax w => Sys2Proof.Machine.execDmax w s
  | .dsetp w => Sys2Proof.Machine.execDsetp w s
  | .drcp w => Sys2Proof.Machine.execDrcp w s
  | .hadd2 w => Sys2Proof.Machine.execHadd2 w s
  | .hmul2 w => Sys2Proof.Machine.execHmul2 w s
  | .hfma2 w => Sys2Proof.Machine.execHfma2 w s
  | .cvt w => Sys2Proof.Machine.execCvt w s
  | .cvtn w => Sys2Proof.Machine.execCvtn w s
  | .cvtw w => Sys2Proof.Machine.execCvtw w s
  | .lqscale w => Sys2Proof.Machine.execLqscale w s
  | .lq8 w => Sys2Proof.Machine.execLq8 w s
  | .lqd w => Sys2Proof.Machine.execLqd w s
  | .lqm w => Sys2Proof.Machine.execLqm w s
  | .shfl w => Sys2Proof.Machine.execShfl w s
  | .bcast w => Sys2Proof.Machine.execBcast w s
  | .redux w => Sys2Proof.Machine.execRedux w s
  | .scan w => Sys2Proof.Machine.execScan w s
  | .rand w => Sys2Proof.Machine.execRand w s
  | .rseed w => Sys2Proof.Machine.execRseed w s
  | .ld w => Sys2Proof.Machine.execLd w s
  | .st w => Sys2Proof.Machine.execSt w s
  | .ldu w => Sys2Proof.Machine.execLdu w s
  | .atom w => Sys2Proof.Machine.execAtom w s
  | .red w => Sys2Proof.Machine.execRed w s
  | .prf w => Sys2Proof.Machine.execPrf w s
  | .cctl w => Sys2Proof.Machine.execCctl w s
  | .winf w => Sys2Proof.Machine.execWinf w s
  | .winw w => Sys2Proof.Machine.execWinw w s
  | .msend w => Sys2Proof.Machine.execMsend w s
  | .mrecv w => Sys2Proof.Machine.execMrecv w s
  | .mpoll w => Sys2Proof.Machine.execMpoll w s
  | .kld w => Sys2Proof.Machine.execKld w s
  | .kst w => Sys2Proof.Machine.execKst w s
  | .kbr w => Sys2Proof.Machine.execKbr w s
  | .kjmp w => Sys2Proof.Machine.execKjmp w s
  | .kjx w => Sys2Proof.Machine.execKjx w s
  | .kcall w => Sys2Proof.Machine.execKcall w s
  | .kret w => Sys2Proof.Machine.execKret w s
  | .eqpop w => Sys2Proof.Machine.execEqpop w s
  | .eqwait w => Sys2Proof.Machine.execEqwait w s
  | .dqpush w => Sys2Proof.Machine.execDqpush w s
  | .launch w => Sys2Proof.Machine.execLaunch w s
  | .ksleep w => Sys2Proof.Machine.execKsleep w s
  | .khalt w => Sys2Proof.Machine.execKhalt w s
  | .ktrap w => Sys2Proof.Machine.execKtrap w s
  | .kcsr w => Sys2Proof.Machine.execKcsr w s
  | .tclaim w => Sys2Proof.Machine.execTclaim w s
  | .trels w => Sys2Proof.Machine.execTrels w s
  | .aclaim w => Sys2Proof.Machine.execAclaim w s
  | .arels w => Sys2Proof.Machine.execArels w s
  | .mfetch w => Sys2Proof.Machine.execMfetch w s
  | .mlist w => Sys2Proof.Machine.execMlist w s
  | .mnext w => Sys2Proof.Machine.execMnext w s
  | .mma w => Sys2Proof.Machine.execMma w s
  | .mzero w => Sys2Proof.Machine.execMzero w s
  | .mrd w => Sys2Proof.Machine.execMrd w s
  | .mwr w => Sys2Proof.Machine.execMwr w s
  | .mwrT w => Sys2Proof.Machine.execMwrT w s
  | .mst w => Sys2Proof.Machine.execMst w s
  | .mscl w => Sys2Proof.Machine.execMscl w s
  | .mstat w => Sys2Proof.Machine.execMstat w s
  | .cpkick w => Sys2Proof.Machine.execCpkick w s
  | .cpstat w => Sys2Proof.Machine.execCpstat w s
  | .texs w => Sys2Proof.Machine.execTexs w s
  | .hgl w => Sys2Proof.Machine.execHgl w s
  | .resq w => Sys2Proof.Machine.execResq w s
  | .rays w => Sys2Proof.Machine.execRays w s
  | .hitr w => Sys2Proof.Machine.execHitr w s
  | .candv w => Sys2Proof.Machine.execCandv w s
  | .tclose w => Sys2Proof.Machine.execTclose w s
  | .tlpub w => Sys2Proof.Machine.execTlpub w s
  | .trstat w => Sys2Proof.Machine.execTrstat w s
  | .sred w => Sys2Proof.Machine.execSred w s
  | .sbank w => Sys2Proof.Machine.execSbank w s
  | .svb w => Sys2Proof.Machine.execSvb w s
  | .smac w => Sys2Proof.Machine.execSmac w s
  | .sacc w => Sys2Proof.Machine.execSacc w s
  | .sbexit w => Sys2Proof.Machine.execSbexit w s
  | .draw w => Sys2Proof.Machine.execDraw w s
  | .rstate w => Sys2Proof.Machine.execRstate w s
  | .pxout w => Sys2Proof.Machine.execPxout w s
  | .rclear w => Sys2Proof.Machine.execRclear w s
  | .rresolve w => Sys2Proof.Machine.execRresolve w s
  | .rsync w => Sys2Proof.Machine.execRsync w s
  | .clauseStart core slot => Sys2Proof.Machine.execClauseStart core slot s
  | .quantumExpiry core slot => Sys2Proof.Machine.execQuantumExpiry core slot s
  | .sleepExpiry core slot entry => Sys2Proof.Machine.execSleepExpiry core slot entry s
  | .issueStarvationPromote core slot => Sys2Proof.Machine.execIssueStarvationPromote core slot s
  | .cohortPhaseSeen core slot => Sys2Proof.Machine.execCohortPhaseSeen core slot s
  | .cohortLeaveAtExit core slot => Sys2Proof.Machine.execCohortLeaveAtExit core slot s
  | .roleSwitch core slot => Sys2Proof.Machine.execRoleSwitch core slot s
  | .teamRetire core slot => Sys2Proof.Machine.execTeamRetire core slot s
  | .longLatencyComplete core slot op part => Sys2Proof.Machine.execLongLatencyComplete core slot op part s
  | .storeComplete who => Sys2Proof.Machine.execStoreComplete who s
  | .evictLastExpiry crumb => Sys2Proof.Machine.execEvictLastExpiry crumb s
  | .arbiterCycle arb reqs => Sys2Proof.Machine.execArbiterCycle arb reqs s
  | .lockRegister op => Sys2Proof.Machine.execLockRegister op s
  | .engineOpRelease op => Sys2Proof.Machine.execEngineOpRelease op s
  | .heldEventPost core => Sys2Proof.Machine.execHeldEventPost core s
  | .faultRecordPost who => Sys2Proof.Machine.execFaultRecordPost who s
  | .faultMend rec ptes => Sys2Proof.Machine.execFaultMend rec ptes s
  | .pageDeliver rec => Sys2Proof.Machine.execPageDeliver rec s
  | .translationInvalidate cx base len => Sys2Proof.Machine.execTranslationInvalidate cx base len s
  | .wayConvert die ways => Sys2Proof.Machine.execWayConvert die ways s
  | .islandGate island mode => Sys2Proof.Machine.execIslandGate island mode s
  | .launchRecordRead cx queue => Sys2Proof.Machine.execLaunchRecordRead cx queue s
  | .dispatchFaultResolve rec => Sys2Proof.Machine.execDispatchFaultResolve rec s
  | .gangPlace die bases => Sys2Proof.Machine.execGangPlace die bases s
  | .coresidentPlace cx queue bases => Sys2Proof.Machine.execCoresidentPlace cx queue bases s
  | .gangRetire gang => Sys2Proof.Machine.execGangRetire gang s
  | .gangPreempt gang => Sys2Proof.Machine.execGangPreempt gang s
  | .gangRestore gang cores bases => Sys2Proof.Machine.execGangRestore gang cores bases s
  | .frameDeadline part => Sys2Proof.Machine.execFrameDeadline part s
  | .framePreempt part die => Sys2Proof.Machine.execFramePreempt part die s
  | .progressWatchdog gang => Sys2Proof.Machine.execProgressWatchdog gang s
  | .commandTimeout cmd => Sys2Proof.Machine.execCommandTimeout cmd s
  | .contextReset cx => Sys2Proof.Machine.execContextReset cx s
  | .flitDeliver gang member port => Sys2Proof.Machine.execFlitDeliver gang member port s
  | .remoteApply peer cx item => Sys2Proof.Machine.execRemoteApply peer cx item s
  | .windowAdvance => Sys2Proof.Machine.execWindowAdvance s
  | .peerLost peer => Sys2Proof.Machine.execPeerLost peer s
  | .fakalvoWrite frame => Sys2Proof.Machine.execFakalvoWrite frame s
  | .fakalvoRead frame => Sys2Proof.Machine.execFakalvoRead frame s
  | .fakalvoReadresp frame => Sys2Proof.Machine.execFakalvoReadresp frame s
  | .fakalvoAck frame => Sys2Proof.Machine.execFakalvoAck frame s
  | .fakalvoMarker frame => Sys2Proof.Machine.execFakalvoMarker frame s
  | .fakalvoRetransmit peer => Sys2Proof.Machine.execFakalvoRetransmit peer s
  | .ptpMessage port offset => Sys2Proof.Machine.execPtpMessage port offset s
  | .ethernetFrame qset queue rx => Sys2Proof.Machine.execEthernetFrame qset queue rx s
  | .claimGrant core => Sys2Proof.Machine.execClaimGrant core s
  | .fetchComplete op => Sys2Proof.Machine.execFetchComplete op s
  | .fetchFaultUnmended op => Sys2Proof.Machine.execFetchFaultUnmended op s
  | .walkerEntryRead core slot => Sys2Proof.Machine.execWalkerEntryRead core slot s
  | .walkerFaultResolve core slot mend => Sys2Proof.Machine.execWalkerFaultResolve core slot mend s
  | .copyRegister op => Sys2Proof.Machine.execCopyRegister op s
  | .accumCommit op => Sys2Proof.Machine.execAccumCommit op s
  | .copyFinish op => Sys2Proof.Machine.execCopyFinish op s
  | .copyFaultUnmended op => Sys2Proof.Machine.execCopyFaultUnmended op s
  | .filterStep stack act => Sys2Proof.Machine.execFilterStep stack act s
  | .filterRequestDone stack req => Sys2Proof.Machine.execFilterRequestDone stack req s
  | .rayArrive ray => Sys2Proof.Machine.execRayArrive ray s
  | .spillRefill stack vd => Sys2Proof.Machine.execSpillRefill stack vd s
  | .traversalRound stack vd => Sys2Proof.Machine.execTraversalRound stack vd s
  | .candidateVerdict gang index => Sys2Proof.Machine.execCandidateVerdict gang index s
  | .hitRecordPost core slot => Sys2Proof.Machine.execHitRecordPost core slot s
  | .treeletDrainDone cx treelet => Sys2Proof.Machine.execTreeletDrainDone cx treelet s
  | .sredStep op crumb => Sys2Proof.Machine.execSredStep op crumb s
  | .sredComplete op => Sys2Proof.Machine.execSredComplete op s
  | .sbankEnter stack => Sys2Proof.Machine.execSbankEnter stack s
  | .smacBanksDone op => Sys2Proof.Machine.execSmacBanksDone op s
  | .sessionTimeout stack pc => Sys2Proof.Machine.execSessionTimeout stack pc s
  | .deferredQueueServe stack pc => Sys2Proof.Machine.execDeferredQueueServe stack pc s
  | .cdcTileFill pa => Sys2Proof.Machine.execCdcTileFill pa s
  | .cdcWriteback pa => Sys2Proof.Machine.execCdcWriteback pa s
  | .pageCChange cx page setC => Sys2Proof.Machine.execPageCChange cx page setC s
  | .pixelTeamSpawn die base => Sys2Proof.Machine.execPixelTeamSpawn die base s
  | .pxoutMerge die crumb => Sys2Proof.Machine.execPxoutMerge die crumb s
  | .drawComplete die cmd => Sys2Proof.Machine.execDrawComplete die cmd s
  | .rasterFaultResolve rec mend => Sys2Proof.Machine.execRasterFaultResolve rec mend s
  | .scanOutStart head => Sys2Proof.Machine.execScanOutStart head s
  | .encodeFrameSend head => Sys2Proof.Machine.execEncodeFrameSend head s
  | .thermalThrottle die => Sys2Proof.Machine.execThermalThrottle die s
  | .overtempShutdown => Sys2Proof.Machine.execOvertempShutdown s
  | .powerLimit => Sys2Proof.Machine.execPowerLimit s
  | .voltageFault island => Sys2Proof.Machine.execVoltageFault island s
  | .eccError cx corrected => Sys2Proof.Machine.execEccError cx corrected s
  | .powerGood digestOk => Sys2Proof.Machine.execPowerGood digestOk s
  | .vfFlr vf => Sys2Proof.Machine.execVfFlr vf s
  | .pfReset => Sys2Proof.Machine.execPfReset s
  | .prod fn tag cx queue value => Sys2Proof.Machine.execProd fn tag cx queue value s
  | .fclr fn tag cx queue => Sys2Proof.Machine.execFclr fn tag cx queue s
  | .ctlstart fn tag cx core entry arg => Sys2Proof.Machine.execCtlstart fn tag cx core entry arg s
  | .ctlstop fn tag core => Sys2Proof.Machine.execCtlstop fn tag core s
  | .winopen fn tag cx base len stack bank => Sys2Proof.Machine.execWinopen fn tag cx base len stack bank s
  | .winclose fn tag cx base => Sys2Proof.Machine.execWinclose fn tag cx base s
  | .memwr fn tag cx va data => Sys2Proof.Machine.execMemwr fn tag cx va data s
  | .memrd fn tag cx va len => Sys2Proof.Machine.execMemrd fn tag cx va len s
  | .getnote fn tag => Sys2Proof.Machine.execGetnote fn tag s
  | .monitor fn tag island => Sys2Proof.Machine.execMonitor fn tag island s
  | .headcfg fn tag head reg value => Sys2Proof.Machine.execHeadcfg fn tag head reg value s
  | .vdmake fn tag req => Sys2Proof.Machine.execVdmake fn tag req s
  | .arbset fn tag req => Sys2Proof.Machine.execArbset fn tag req s
  | .partmove fn tag req => Sys2Proof.Machine.execPartmove fn tag req s
  | .sealRequest fn tag req => Sys2Proof.Machine.execSealRequest fn tag req s
  | .debugStop fn tag who => Sys2Proof.Machine.execDebugStop fn tag who s
  | .debugRun fn tag req => Sys2Proof.Machine.execDebugRun fn tag req s
  | .debugStep fn tag who => Sys2Proof.Machine.execDebugStep fn tag who s
  | .debugGangStop fn tag gang on => Sys2Proof.Machine.execDebugGangStop fn tag gang on s
  | .bkcfgWrite arb slot value => Sys2Proof.Machine.execBkcfgWrite arb slot value s
  | .wayqWrite slice slot value => Sys2Proof.Machine.execWayqWrite slice slot value s
  | .hdcfgWrite head value => Sys2Proof.Machine.execHdcfgWrite head value s
  | .trqlimWrite stack vd ring qlim => Sys2Proof.Machine.execTrqlimWrite stack vd ring qlim s
  | .grpcfgWrite stack group value => Sys2Proof.Machine.execGrpcfgWrite stack group value s
  | .frctlWrite part value => Sys2Proof.Machine.execFrctlWrite part value s
  | .registerWrite reg value => Sys2Proof.Machine.execRegisterWrite reg value s
  | .ksleepExpiry core => Sys2Proof.Machine.execKsleepExpiry core s
  | .eqwaitTimeout core => Sys2Proof.Machine.execEqwaitTimeout core s
  | .leaseExpiry core => Sys2Proof.Machine.execLeaseExpiry core s
  | .kldDataArrive core => Sys2Proof.Machine.execKldDataArrive core s
  | .cctlAnswer core slot => Sys2Proof.Machine.execCctlAnswer core slot s

end Sys2Proof.Machine
end

