-- ==== Sys2Proof/Machine/Turn.lean ====
section
/-! DEFINITION. What one turn does (log 1): the agent that acts issues the instruction it stands at, or the sequencer takes the
step that its state calls for. -/

namespace Sys2Proof.Machine

open Sys2Proof Host

/-- The class of a word that the decoder rejects (05 R145). -/
def rejectTrap (r : Reject) : Trap := .mk0 (if r.isLen then clsILLEN else clsILLOP)

/-- The word at a clause position, as the decoder reads it. -/
def ClausePos.word (c : ClausePos) (sd : Side) (regs : Nat) : Except Reject Item :=
  decode sd regs (32 - c.off % 32) (c.bytes.drop c.off)

/-- The acting team issues the instruction its running split stands at. -/
def issueAt (s : State) (si : Site) : Outcome State Fault Refusal :=
  match si.pos.word .team si.team.regs with
  | .error r => .next (s.trapSite si (rejectTrap r) 8)
  | .ok .fill => .next (s.updTeam si.core si.slot fun t => t.stepOver si.entry si.pos 8)
  | .ok (.ins i _) => exec i s

/-- A team's turn. -/
def teamTurn (core slot : Nat) (s : State) : Outcome State Fault Refusal :=
  match s.team? core slot with
  | none => .next s
  | some t =>
    if t.leaving.isSome then
      exec (if t.cohorts.isEmpty then .teamRetire core slot else .cohortLeaveAtExit core slot) s
    else if t.pendingRole.isSome && t.between then exec (.roleSwitch core slot) s
    else match s.site? with
    | some si =>
      if si.pos.atEnd then .next (s.updTeam core slot fun t => t.clauseDone si.entry si.pos.next si.pos.hdr.yield)
      else issueAt s si
    | none =>
      if t.running.isNone then exec (.quantumExpiry core slot) s
      else exec (.clauseStart core slot) s

/-- The control thread's wait is over by itself. -/
def State.ctlWakes (s : State) (core : Nat) : Bool :=
  let c := s.ctl core
  match c.mode with
  | .wait => true
  | .winf => winfOver c.rpend
  | .winw => winwOver c.rwin s.win
  | .eqwait _ => !(s.coreOf core).eq.isEmpty
  | .locks ids => s.opsSettled ids
  | _ => false

/-- The running control thread fetches the clause at its PC. -/
def State.ctlFetch (s : State) (core : Nat) (cx : CtxId) : State :=
  let c := s.ctl core
  match s.fetchClause (.ctl core) cx c.pc with
  | .error (.trap x) => s.raiseCtl core x c.pc none
  | .error (.fault k va) => s.faultCtl core cx k 4 va va
  | .error (.wait chans) => (s.deferAs (.fetch (.ctl core)) chans).getD s
  | .ok p =>
    let s := (s.undefer (.fetch (.ctl core))).walkedAll core cx [c.pc, c.pc + 32 * p.hdr.blocks - 1]
    let p := ClausePos.skip 24 p
    if p.atEnd then s.onCtl core fun c => { c with pc := p.next }
    else s.onCtl core fun c => { c with clause := some p, pc := p.base + p.off }

/-- The control thread's turn. -/
def ctlTurn (core : Nat) (s : State) : Outcome State Fault Refusal :=
  let c := s.ctl core
  match c.mode with
  | .running =>
    match c.owner, c.clause with
    | some cx, none => .next (s.ctlFetch core cx)
    | some _, some p =>
      if p.atEnd then .next (s.onCtl core fun c => { c with clause := none, pc := p.next })
      else match p.word .ctl 512 with
      | .error r => .next (s.raiseCtl core (rejectTrap r) (p.base + p.off) (some p))
      | .ok .fill => .next (s.onCtl core fun c => c.stepOver p 8)
      | .ok (.ins i _) => exec i s
    | none, _ => .next s
  | .eqwait _ | .locks _ => .next (if s.ctlWakes core then s.onCtl core fun c => { c with mode := .running }.stepped else s)
  | _ => .next (if s.ctlWakes core then s.onCtl core fun c => { c with mode := .running } else s)

def agentTurn (a : Agent) (s : State) : Outcome State Fault Refusal :=
  match a with
  | .team core slot => teamTurn core slot s
  | .ctl core => ctlTurn core s

/-! Time (log 3). -/

def State.tickCore (s : State) (core n : Nat) : State :=
  if n == 0 then s else s.setCore core { s.coreOf core with clk := ((s.coreOf core).clk + n) % 2 ^ 64 }

/-- The time of a turn passes. -/
def State.elapse (s : State) (t : Turn) : State :=
  let s := t.cycles.foldl (fun s x => s.tickCore x.1 x.2) s
  { s with fab := s.fab + t.fab, stk := s.stk + t.stk, ns := s.ns + t.ns }

/-! Islands and reset (01 R32; 16 R448). -/

/-- The island of an engine operation, a stack command or a raster command, by its name. -/
def State.workIsland (s : State) (id : Nat) : List Nat :=
  match s.rcmds.get? id, s.stackOf? id, s.ops.get? id with
  | some c, _, _ => [112 + c.die]
  | none, some (_, c), _ => [100 + c.stack]
  | none, none, some o => match o.work with
    | .sred r => [100 + r.stack]
    | _ => [coreCluster o.core]
  | none, none, none => match s.scmds.get? id with
    | some c => [100 + c.stack]
    | none => []

/-- The raster front end in which the dispatcher of a gang stands. -/
def State.gangIsland (s : State) (gang : Nat) : List Nat :=
  match (s.gang? gang).bind fun g => s.launch? g.launch with
  | some l => [112 + l.die]
  | none => []

/-- The raster front end of a queue's dispatcher. -/
def State.queueIsland (s : State) (cx : CtxId) (q : Nat) : List Nat :=
  match s.queue? cx q with
  | some x => [112 + x.die]
  | none => []

/-- The island in which an arbiter stands (log 31). -/
def arbIsland (k : ArbKey) : List Nat :=
  match k.kind with
  | 1 | 9 => [coreCluster k.idx]
  | 2 => [96 + k.idx / 128]
  | 3 => [96 + k.idx / 1050]
  | 4 => [96 + k.idx / 30]
  | 5 => [96 + k.idx / 6]
  | 6 => [100 + k.idx / 20]
  | 7 => [100 + k.idx / 64]
  | 8 => [100 + k.idx / 3]
  | 10 | 11 => [112 + k.idx]
  | 12 => [116 + k.idx / 2]
  | 13 => [120 + k.idx / 8]
  | _ => []

/-- A crumb's slice stands in the fabric of its die. -/
def State.crumbIsland (s : State) (crumb : Nat) : List Nat :=
  [96 + crumbSlice (match s.lines.get? crumb with | some l => l.tile | none => false) crumb / 128]

/-- The stack of a ray and the fabrics on its way there. -/
def State.rayIslands (s : State) (ray : Nat) : List Nat :=
  match s.rays.get? ray with
  | some r => (100 + tlStack r.treelet) ::
      (routeDies (clusterRouter (coreCluster r.core)) (stackRouter (tlStack r.treelet) 0)).map (96 + ·)
  | none => []

/-- The islands whose gating stops a step of the device: of the units that make it, with dispatchers and raster engines in the
raster front ends, slices and links in the fabrics, base-die engines on their stacks, heads and encoders in the media blocks, and
ports in their Ethernet blocks (log 31). -/
def State.eventIslands (s : State) (i : Instr) : List Nat :=
  match i with
  | .clauseStart c _ | .quantumExpiry c _ | .sleepExpiry c _ _ | .issueStarvationPromote c _ | .cohortPhaseSeen c _
  | .cohortLeaveAtExit c _ | .roleSwitch c _ | .teamRetire c _ | .longLatencyComplete c _ _ _ | .claimGrant c
  | .walkerEntryRead c _ | .cctlAnswer c _ | .ksleepExpiry c | .eqwaitTimeout c | .leaseExpiry c | .kldDataArrive c
  | .hitRecordPost c _ | .heldEventPost c => [coreCluster c]
  | .storeComplete a | .faultRecordPost a => [coreCluster (agentCore a)]
  | .arbiterCycle k _ => arbIsland k
  | .engineOpRelease id | .lockRegister id | .fetchComplete id | .fetchFaultUnmended id | .copyRegister id | .accumCommit id
  | .copyFinish id | .copyFaultUnmended id | .sredStep id _ | .sredComplete id | .smacBanksDone id => s.workIsland id
  | .launchRecordRead cx q | .coresidentPlace cx q _ => s.queueIsland cx q
  | .gangPlace d _ | .framePreempt _ d | .pixelTeamSpawn d _ | .pxoutMerge d _ | .drawComplete d _ => [112 + d]
  | .gangRetire g | .gangPreempt g | .gangRestore g _ _ => s.gangIsland g
  | .filterStep k _ | .filterRequestDone k _ | .spillRefill k _ | .traversalRound k _ | .sbankEnter k
  | .sessionTimeout k _ | .deferredQueueServe k _ => [100 + k]
  | .treeletDrainDone _ t => [100 + tlStack t]
  | .rayArrive r => s.rayIslands r
  | .wayConvert d _ => [96 + d]
  | .evictLastExpiry c => s.crumbIsland c
  | .cdcTileFill pa | .cdcWriteback pa => s.crumbIsland (pa / 64)
  | .scanOutStart h | .encodeFrameSend h => [116 + h / 32]
  | .ethernetFrame q _ _ => [120 + q / 8]
  | .ptpMessage p _ => [120 + p]
  | _ => []

/-- While the module is held in reset, power good alone acts. -/
def State.lets (s : State) (i : Instr) : Bool :=
  match i with
  | .powerGood _ => true
  | i => s.powered && !s.inReset && !(s.eventIslands i).any s.gated

/-- An agent acts while the module runs and its cluster is not gated. -/
def State.letsAgent (s : State) (a : Agent) : Bool := !s.inReset && !s.gated (coreCluster (agentCore a))

/-- The next turn of the agenda; behind its end the agent that acted goes on, one cycle of its core later. -/
def turn (s : State) : Outcome State Fault Refusal :=
  let s := { s with fresh := s.fresh + 1 }
  match s.agenda with
  | t :: rest =>
    let s := { s with agenda := rest }.elapse t
    match t.act with
    | .agent a => if s.letsAgent a then agentTurn a { s with cur := some a } else .next { s with cur := some a }
    | .event i => if i.toOp.isSome || !s.lets i then .next s else exec i s
  | [] =>
    match s.cur with
    | some a => if s.letsAgent a then agentTurn a (s.tickCore (agentCore a) 1) else .next s
    | none => .next s

end Sys2Proof.Machine
end

