-- ==== Sys2Proof/Machine/Step.lean ====
section
/-! DEFINITION. The step of the machine, and the state in which the next step runs a given instruction word. -/

namespace Sys2Proof.Machine

open Sys2Proof

/-- The next turn applies power (16 R448). -/
def State.powersUp (s : State) : Bool :=
  match s.agenda with
  | t :: _ => match t.act with
    | .event (.powerGood _) => true
    | _ => false
  | [] => false

/-- One step: a turn, while the module has power or as it comes (16 R446, R448). -/
def step (s : State) : Host.Outcome State Fault Refusal := if s.powered || s.powersUp then turn s else .fault .poweredOff

/-- The one-block clause that holds the words given, with both set-flags named. -/
def clauseAround (bytes : List Byte) : ClausePos :=
  { base := 0, hdr := { yield := false, blocks := 1, setA := some 0, setB := some 1, wait := 0 }
    bytes := leBytes 8 (encodeHeader { yield := false, blocks := 1, setA := some 0, setB := some 1, wait := 0 }) ++
      bytes ++ List.replicate (24 - bytes.length) 0
    off := 8 }

/-- The launch record of one gang of one team of 32 threads. -/
def plainRecord : LaunchRec :=
  { code := 0, args := 0, gx := 1, gy := 1, gz := 1, threads := 32, regs := 512, gang := 1, teams := 1, prio := 0
    coresident := false, chip := false, after := false, scratch := 16, priv := 0, roles := [], lrb := 0, tvb := 0, qnt := 64
    fpc := 0, doneAddr := 0, doneVal := 0 }

/-- A team in slot 0 of core 0, whose running split stands at the words. -/
def State.withTeamAt (s : State) (bytes : List Byte) : State :=
  let (l, s) := s.newId
  let (g, s) := s.newId
  let t := Team.fresh plainRecord g 0 0 0 (fullMask 32)
  let sp := { Split.fresh 0 (fullMask 32) 64 with clause := some (clauseAround bytes) }
  let launch : Launch :=
    { cx := ⟨0, 0⟩, queue := 0, index := 0, qcx := ⟨0, 0⟩, prev := none, die := 0, record := plainRecord, issuer := none
      nextGang := 1, retired := 0, fault := none, doneFailed := false, draw := none }
  let s := (s.setGang g (Gang.fresh l 0 plainRecord [0] [0] g)).setTeam 0 0 { t with splits := [(0, sp)], running := some 0 }
  let s := s.setCore 0 ({ s.coreOf 0 with allot := [] }.allotTo g 0 16 fun _ => true)
  { s with
    launches := s.launches.set l launch
    ctxs := s.ctxs.set 0 ((s.ctx? ⟨0, 0⟩).getD Ctx.init)
    powered := true
    inReset := false
    islands := []
    agenda := []
    cur := some (.team 0 0) }

/-- The control thread of core 0, running at the words. -/
def State.withCtlAt (s : State) (bytes : List Byte) : State :=
  let s := s.setCtl 0 { Ctl.init with owner := some ⟨0, 0⟩, mode := .running, clause := some (clauseAround bytes), pc := 8 }
  { s with
    ctxs := s.ctxs.set 0 ((s.ctx? ⟨0, 0⟩).getD Ctx.init)
    powered := true
    inReset := false
    islands := []
    agenda := []
    cur := some (.ctl 0) }

/-- `s` with an instruction placed where the next step issues it: in the fetched clause of a team where the team's side
accepts it, else of a control thread (log 1 says how a program comes to run from reset). -/
def State.withFetchWord (s : State) (nbits w : Nat) : State :=
  let bytes := leBytes 16 (w % 2 ^ nbits)
  match decode .team 512 24 bytes with
  | .ok (.ins _ _) => s.withTeamAt bytes
  | _ => s.withCtlAt bytes

end Sys2Proof.Machine
end

