-- ==== Sys2Proof/Safety.lean ====
section
/-! DEFINITION. The terms that statements are made in: a run in which every step answers a next state, and an instruction that
may issue. -/

namespace Sys2Proof

open Machine

/-- n steps from a state, each of which answers a next state. -/
def runs : Nat → State → Option State
  | 0, s => some s
  | n + 1, s => match step s with
    | .next s' => runs n s'
    | _ => none

/-- Safe for n steps: no fault and no refusal. -/
def safeFor (n : Nat) (s : State) : Prop := (runs n s).isSome

namespace Machine

/-- The instruction may issue with a thread executing: no decode check fails, nothing holds it back at issue, and its execution
mask is not empty (05 R131, R132, R141, R145). -/
def Site.goes (si : Site) (s : State) (o : Op) (w : Ins) : Bool :=
  !si.illegal o w && !si.heldBack o w (si.exec w) && !(afterAll o && s.stuck si.team.pend) && si.exec w != 0

/-- The same on the control thread. -/
def CtlSite.goes (si : CtlSite) (s : State) (o : Op) (w : Ins) : Bool :=
  (o.check .ctl 512 w).isNone && !(afterAll o && s.stuck si.ctl.pend)

/-- What a result leaves in the registers (05 R141, 06 R156): with D a v register, the halves of each executing thread's value
where the write mask is 1, zeros under POL zero where it is 0; with D an s register, the lowest executing thread's value; every
other register as before. -/
def Team.Result (t u : Team) (w : Ins) (e : TMask) (wide : Bool) (val : Nat → Nat) : Prop :=
  let n := if wide then 2 else 1
  let half (x i : Nat) : W32 := BitVec.ofNat 32 (x / 2 ^ (32 * i))
  (∀ tid r, r < 512 → u.vreg tid r = match w.d with
    | .v d =>
      if tid < t.threads ∧ e.getLsbD tid ∧ d ≤ r ∧ r < d + n then
        if (t.writeMask w).getLsbD tid then half (val tid) (r - d) else if w.zero then 0 else t.vreg tid r
      else t.vreg tid r
    | _ => t.vreg tid r) ∧
  (∀ r, u.sreg r = match w.d with
    | .s d => match (threadsOf t.threads e).head? with
      | some tid => if d ≤ r ∧ r < d + n then half (val tid) (r - d) else t.sreg r
      | none => t.sreg r
    | _ => t.sreg r) ∧
  ∀ k, u.preg k = t.preg k

/-- What predicate results leave (05 R141): for each predicate n of the list, bit t of it for each executing thread t whose write
mask is 1, 0 under POL zero where it is 0, else the bit as before; every other predicate and register as before. -/
def Team.Predicates (t u : Team) (w : Ins) (e : TMask) (l : List (Nat × (Nat → Bool))) : Prop :=
  (∀ x ∈ l, ∀ tid, tid < 1024 → (u.preg x.1).getLsbD tid =
    if tid < t.threads ∧ e.getLsbD tid then
      if (t.writeMask w).getLsbD tid then x.2 tid else if w.zero then false else (t.preg x.1).getLsbD tid
    else (t.preg x.1).getLsbD tid) ∧
  (∀ k, k ∉ l.map (·.1) → u.preg k = t.preg k) ∧ u.v = t.v ∧ u.s = t.s

/-- Nothing of a team but its v, s and p registers, its random streams and TSR differs. -/
def Team.SameBut (t u : Team) : Prop := u = { t with v := u.v, s := u.s, p := u.p, rng := u.rng, tsr := u.tsr }

/-- The state in which the acting team has become `t` and its split has gone on behind the instruction. -/
def State.goneOn (s : State) (si : Site) (w : Ins) (t : Team) : State :=
  s.setTeam si.core si.slot ((t.count si s).stepOver si.entry si.pos w.len.size)

/-- The same on the control thread. -/
def State.ctlGoneOn (s : State) (si : CtlSite) (w : Ins) (c : Ctl) : State :=
  s.setCtl si.core ((c.stepOver si.pos w.len.size).stepped)

end Machine

end Sys2Proof
end

