-- ==== Sys2Proof/WellFormed.lean ====
section
/-! DEFINITION. Which terms of Instr are instructions: every field within its word (05 R133 to R136), every operand a code of
its side (R137, R140), and every check of R145 that needs only the words, at the largest allotment. -/

namespace Sys2Proof

/-- An operand that some code of its side names; bits of a block offset where the opcode reads bits. -/
def Opd.wf (sd : Side) (raw : Bool) (x : Opd) : Bool :=
  if raw then (match x with | .raw n => n < 1024 | _ => false) else decide (Opd.ofCode sd x.code = some x)

/-- Each field fits its place in the words; what the length leaves out has the value of the 64-bit form (05 R134). -/
def Ins.fits (o : Op) (w : Ins) : Bool :=
  (w.guard.getD 0 < 12) && w.retain < 4 && (w.wmask.getD 0 < 12) && w.rnd < 6 &&
  (!(w.len == .l64 || o.immExt) ||
    (w.c == .z && w.xmod == 0 && w.wmask == none && !w.zero && w.rnd == 0 && !w.sat && !w.ftz)) &&
  (match w.len with
   | .l64 => w.imm == 0
   | .l96 => if o.immExt then w.imm.toNat < 2 ^ 32 else w.imm == 0
   | .l128 => o.immExt || w.imm.toNat < 2 ^ 32)

/-- Well-formed on a side. A step of the device has no words and is well-formed. -/
def WellFormed (sd : Side) (i : Instr) : Bool :=
  match i.toOp with
  | none => true
  | some (o, w) =>
    w.fits o && w.d.wf sd o.rawD && w.a.wf sd o.rawAB && w.b.wf sd o.rawAB && w.c.wf sd false &&
    (o.check sd 512 w).isNone

end Sys2Proof
end

