-- ==== Sys2Proof/Certificates/Slice0/Obligations.lean ====
section
/-! DEFINITION. The statements for the provers, and the tables that name the instructions of each. -/

namespace Sys2Proof.Spec

open Sys2Proof Host Machine

/-! Results in registers (05 R141; 06 R156 to R186). -/

/-- On a team that may issue it, a well-formed instruction answers the state in which the acting team holds the result in D, has
joined the flags to TSR and stands behind the instruction; nothing else differs. -/
def TeamResult (o : Op) (w : Ins) (wide : Bool) (val : State → Site → Nat → Nat × Flags) : Prop :=
  ∀ (s : State) (si : Site), WellFormed .team (Instr.ofOp o w) = true → s.site? = some si → si.goes s o w = true →
    ∃ u : Team, exec (Instr.ofOp o w) s = .next (s.goneOn si w u) ∧ si.team.SameBut u ∧ u.rng = si.team.rng ∧
      si.team.Result u w (si.exec w) wide (fun tid => (val s si tid).1) ∧
      u.tsr = si.team.tsr ||| BitVec.ofNat 32 (Flags.all ((actors si w (si.exec w)).map fun tid => (val s si tid).2))

/-- On the control thread a well-formed instruction answers the state in which the k register D holds the value modulo 2^64 and
the thread stands behind the instruction; z takes none. Nothing else differs. -/
def CtlResult (o : Op) (w : Ins) (val : State → CtlSite → Nat) : Prop :=
  ∀ (s : State) (si : CtlSite), WellFormed .ctl (Instr.ofOp o w) = true → s.ctlSite? = some si → si.goes s o w = true →
    exec (Instr.ofOp o w) s = .next (s.ctlGoneOn si w (match w.d with
      | .k r => { si.ctl with k := si.ctl.k.put 0 r (BitVec.ofNat 64 (val s si)) }
      | _ => si.ctl))

/-- The values of A, B and C of a thread at their widths, the literal standing for B where the form has one. -/
def atThread (w : Ins) (sh : IntShape) (f : IntFn) (s : State) (si : Site) (tid : Nat) : Nat × Flags :=
  f (rdW s si.core si.team sh.wide tid w.a) (rdB s si.core si.team w sh.wideB tid) (rdW s si.core si.team sh.wideC tid w.c)

/-- The same on the control thread. -/
def atCtl (w : Ins) (sh : IntShape) (f : IntFn) (s : State) (si : CtlSite) : Nat :=
  (f (rdK s si.core w.a) (if w.litB then immB w sh.wideB else rdK s si.core w.b) (rdK s si.core w.c)).1

/-- The W-sized instructions of 06 R163 and R164: which take a 32-bit B, and the value from A, B and C of n bits. -/
def wordTable : List (Op × Bool × (Nat → Nat → Nat → Nat → Nat)) :=
  [(.mov, false, fun _ a _ _ => a), (.sel, false, fun _ a b c => if c != 0 then a else b),
   (.and, false, fun _ a b _ => a &&& b), (.or, false, fun _ a b _ => a ||| b), (.xor, false, fun _ a b _ => a ^^^ b),
   (.andn, false, fun n a b _ => a &&& notW n b), (.not, false, fun n a _ _ => notW n a),
   (.shl, true, fun n a b _ => shlW n a b), (.shr, true, fun n a b _ => shrW n a b), (.sar, true, fun n a b _ => sarW n a b),
   (.rot, true, fun n a b _ => rotW n a b), (.popc, false, fun n a _ _ => popCount n a), (.clz, false, fun n a _ _ => clzW n a),
   (.brev, false, fun n a _ _ => bitRev n a), (.bfi, true, fun n a b c => bfiW n a b c)]

/-- The typed arithmetic instructions of 06 R163, by their exact values. -/
def arithTable (w : Ins) : List (Op × (Int → Int → Int → Int)) :=
  [(.iadd, fun a b _ => a + b), (.isub, fun a b _ => a - b), (.imul, fun a b _ => a * b),
   (.imulh, fun a b _ => a * b / (2 ^ widthOf w.wideT : Nat)), (.imad, fun a b c => a * b + c), (.imin, fun a b _ => min a b),
   (.imax, fun a b _ => max a b), (.iabs, fun a _ _ => (a.natAbs : Int)), (.ineg, fun a _ _ => -a)]

/-- The exact value of the operands, wrapped or under SAT saturated once. -/
def arithFn (w : Ins) (f : Int → Int → Int → Int) : IntFn := fun a b c =>
  intResult (tySigned w) w.wideT w.sat (f (ival (tySigned w) w.wideT a) (ival (tySigned w) w.wideT b) (ival (tySigned w) w.wideT c))

end Sys2Proof.Spec

section

open Sys2Proof Host Sys2Proof.Machine Sys2Proof.Spec

/-- 06 R163, R164: MOV, SEL, AND, OR, XOR, ANDN, NOT, SHL, SHR, SAR, ROT, POPC, CLZ, BREV and BFI complete with their value in D,
on a team and, SEL apart, on the control thread, whose operands have 64 bits. -/
def Obligations.WordOperations : Prop :=
  ∀ w : Ins, ∀ x ∈ wordTable,
    TeamResult x.1 w (w.mb 49) (atThread w ⟨w.mb 49, !x.2.1 && w.mb 49, w.mb 49⟩ fun a b c => (x.2.2 (widthOf (w.mb 49)) a b c, 0)) ∧
    (x.1 ≠ .sel → CtlResult x.1 w (atCtl w ⟨true, !x.2.1, true⟩ fun a b c => (x.2.2 64 a b c, 0)))

/-- 06 R163: IADD, ISUB, IMUL, IMULH, IMAD, IMIN, IMAX, IABS and INEG complete with the exact value of their type, wrapped to the
width or saturated under SAT, on both sides. -/
def Obligations.TypedArithmetic : Prop :=
  ∀ w : Ins, ∀ x ∈ arithTable w,
    TeamResult x.1 w w.wideT (atThread w ⟨w.wideT, w.wideT, w.wideT⟩ (arithFn w x.2)) ∧
    CtlResult x.1 w (atCtl w ⟨w.wideT, w.wideT, w.wideT⟩ (arithFn w x.2))

end

namespace Sys2Proof.Spec

open Sys2Proof Host Machine

/-- As TeamResult, for an instruction that rounds n times in each thread that computes: under stochastic rounding each of those
threads draws n numbers from its stream (04 R102, 06 R158, R185), and no other stream moves. -/
def TeamRounded (o : Op) (w : Ins) (wide : Bool) (n : Nat) (val : State → Site → RCtl → Nat → List Nat → Nat × Flags) : Prop :=
  ∀ (s : State) (si : Site), WellFormed .team (Instr.ofOp o w) = true → s.site? = some si → si.goes s o w = true →
    let rc := si.team.rctl w
    let ts := actors si w (si.exec w)
    let res (tid : Nat) := val s si rc tid (si.team.roundBits (rc.mode == .sto) n tid)
    ∃ u : Team, exec (Instr.ofOp o w) s = .next (s.goneOn si w u) ∧ si.team.SameBut u ∧
      (∀ tid, u.rand tid = if rc.mode = .sto ∧ tid ∈ ts then (drawMany n (si.team.rand tid)).1 else si.team.rand tid) ∧
      si.team.Result u w (si.exec w) wide (fun tid => (res tid).1) ∧
      u.tsr = si.team.tsr ||| BitVec.ofNat 32 (Flags.all (ts.map fun tid => (res tid).2))

/-- On a team that may issue it, a well-formed compare writes the predicate pair of D and joins its flags to TSR (06 R162). -/
def TeamCompare (o : Op) (w : Ins) (cond : State → Site → Nat → Bool × Flags) : Prop :=
  ∀ (s : State) (si : Site) (n : Nat), WellFormed .team (Instr.ofOp o w) = true → s.site? = some si → si.goes s o w = true →
    w.d = .p n →
    ∃ u : Team, exec (Instr.ofOp o w) s = .next (s.goneOn si w u) ∧ si.team.SameBut u ∧ u.rng = si.team.rng ∧
      (let q (tid : Nat) := combine w (cond s si tid).1 (rd32 s si.core si.team tid w.c != 0)
       si.team.Predicates u w (si.exec w) [(n, q), (n + 1, fun tid => !q tid)]) ∧
      u.tsr = si.team.tsr ||| BitVec.ofNat 32
        (Flags.all ((threadsOf si.team.threads (si.exec w)).map fun tid => (cond s si tid).2))

/-- The exact instructions on FP32 and FP64 (06 R168), by format and exact value. -/
def floatTable : List (Op × Fmt × (Mode → Val → Val → Val → Val × Flags)) :=
  [(.fadd, .f32, fun m a b _ => sumVals m [a, b]), (.fmul, .f32, fun _ a b _ => mulVal a b), (.ffma, .f32, fmaVal),
   (.frcp, .f32, fun _ a _ _ => rcpVal a), (.fsqrt, .f32, fun _ a _ _ => sqrtVal a),
   (.dadd, .f64, fun m a b _ => sumVals m [a, b]), (.dmul, .f64, fun _ a b _ => mulVal a b), (.dfma, .f64, fmaVal),
   (.drcp, .f64, fun _ a _ _ => rcpVal a)]

/-- The exact value of the sources after their sign modifiers and FTZ, rounded once to the format. -/
def floatValue (w : Ins) (f : Fmt) (g : Mode → Val → Val → Val → Val × Flags) (s : State) (si : Site) (rc : RCtl) (tid : Nat)
    (ns : List Nat) : Nat × Flags :=
  roundBoth f rc ns (g rc.mode (f.read rc.ftz (fSrcA s si w f tid)) (f.read rc.ftz (fSrcB s si w f tid))
    (f.read rc.ftz (fSrcC s si w f tid)))

/-- Packed half precision (06 R172): element i of A, B and C, rounded for itself. -/
def halfValue (w : Ins) (g : Mode → Val → Val → Val → Val × Flags) (s : State) (si : Site) (rc : RCtl) (tid : Nat)
    (ns : List Nat) : Nat × Flags :=
  let f : Fmt := if w.mb 60 then .bf16 else .f16
  let src (neg : Bool) (x i : Nat) : Val := f.read false (modSign f false neg (x / 2 ^ (16 * i)))
  let el (i : Nat) := roundBoth f rc (ns.drop i) (g rc.mode (src (w.mb 49) (rd32 s si.core si.team tid w.a) i)
    (src (w.mb 50) (rdB s si.core si.team w false tid) i) (src (w.mb 51) (rd32 s si.core si.team tid w.c) i))
  ((el 0).1 + 65536 * (el 1).1, (el 0).2 ||| (el 1).2)

def halfTable : List (Op × (Mode → Val → Val → Val → Val × Flags)) :=
  [(.hadd2, fun m a b _ => sumVals m [a, b]), (.hmul2, fun _ a b _ => mulVal a b), (.hfma2, fmaVal)]

/-- The value of a source after its modifiers, for the instructions that do not round. -/
def plainA (w : Ins) (f : Fmt) (s : State) (si : Site) (tid : Nat) : Val := f.read (si.team.rctl w).ftz (fSrcA s si w f tid)

def plainB (w : Ins) (f : Fmt) (s : State) (si : Site) (tid : Nat) : Val := f.read (si.team.rctl w).ftz (fSrcB s si w f tid)

/-- The result of a lattice instruction in one thread (06 R176 to R180). -/
def latticeTable (w : Ins) : List (Op × (State → Site → Nat → Nat × Flags)) :=
  [(.lqscale, fun s si tid => lqScale (pointBytes w.ty)
      ((if w.mb 54 then (threadsOf si.team.threads (si.exec w)).filter (fun u => u / 4 == tid / 4) else [tid]).flatMap
        (liveVals s si w))),
   (.lq8, fun s si tid => lq8Point (pointBytes w.ty) (eightVals si.team w.a tid) (rd32 s si.core si.team tid w.c % 256)
      (liveCount (rd32 s si.core si.team tid w.b))),
   (.lqm, fun s si tid => lqmPoint (pointBytes w.ty) (rd32 s si.core si.team tid w.a) (rd32 s si.core si.team tid w.b)
      (rd32 s si.core si.team tid w.c))]

/-- The executing threads of a thread's segment (06 R181). -/
def segmentOf (w : Ins) (si : Site) (tid : Nat) : List Nat := segThreads w (threadsOf si.team.threads (si.exec w)) tid

/-- SCAN's value and flags in a thread, and its stream after it. -/
def scanAt (w : Ins) (s : State) (si : Site) (tid : Nat) : Option ((Nat × Flags) × W64) :=
  ((scanSeg s si w (segmentOf w si tid)).find? fun y => y.1 == tid).map (·.2)

end Sys2Proof.Spec

section

open Sys2Proof Host Sys2Proof.Machine Sys2Proof.Spec

/-- 06 R164 to R166: MOVI in both lengths, BFE and LEA complete with their value, on both sides. -/
def Obligations.MoveFieldAddress : Prop :=
  ∀ w : Ins,
    (TeamResult .movi32 w false fun _ _ _ => (w.imm.toNat % 2 ^ 32, 0)) ∧
    (CtlResult .movi32 w fun _ _ => wrap 64 (sx 32 w.imm.toNat)) ∧
    (TeamResult .movi64 w true fun _ _ _ => (w.imm.toNat, 0)) ∧
    (CtlResult .movi64 w fun _ _ => w.imm.toNat) ∧
    TeamResult .bfe w w.wideT (atThread w ⟨w.wideT, false, w.wideT⟩ fun a b _ => (bfeW (tySigned w) (widthOf w.wideT) a b, 0)) ∧
    CtlResult .bfe w (atCtl w ⟨w.wideT, false, w.wideT⟩ fun a b _ => (bfeW (tySigned w) (widthOf w.wideT) a b, 0)) ∧
    TeamResult .lea w true (atThread w ⟨true, w.wideT, true⟩ fun a b _ =>
      ((a + extend (tySigned w) (widthOf w.wideT) 64 b * 2 ^ w.m 56 54) % 2 ^ 64, 0)) ∧
    CtlResult .lea w (atCtl w ⟨true, w.wideT, true⟩ fun a b _ =>
      ((a + extend (tySigned w) (widthOf w.wideT) 64 b * 2 ^ w.m 56 54) % 2 ^ 64, 0))

/-- 06 R162: ISETP, FSETP and DSETP write the pair of their condition, combined with C, and its complement. -/
def Obligations.Compares : Prop :=
  ∀ w : Ins,
    (TeamCompare .isetp w fun s si tid => (iCond (w.m 56 54)
      (ival (tySigned w) w.wideT (rdW s si.core si.team w.wideT tid w.a))
      (ival (tySigned w) w.wideT (rdB s si.core si.team w w.wideT tid)), 0)) ∧
    (TeamCompare .fsetp w fun s si tid => fCond (w.m 57 54) (plainA w .f32 s si tid) (plainB w .f32 s si tid)) ∧
    (TeamCompare .dsetp w fun s si tid => fCond (w.m 57 54) (plainA w .f64 s si tid) (plainB w .f64 s si tid))

/-- 06 R168, R172: the arithmetic of FP32, FP64 and packed halves completes with the exact value rounded once. -/
def Sys2Proof.Spec.FloatArithmetic : Prop :=
  ∀ w : Ins,
    (∀ x ∈ floatTable, TeamRounded x.1 w (x.2.1 == .f64) 1 (floatValue w x.2.1 x.2.2)) ∧
    ∀ x ∈ halfTable, TeamRounded x.1 w false 2 (halfValue w x.2)

/-- 06 R169 to R171: FMIN, FMAX, DMIN, DMAX and FCLASS, which round nothing, and the approximate functions, whose value is the
device's within the bounds of R171. No stream moves. -/
def Sys2Proof.Spec.FloatExactAndApproximate : Prop :=
  ∀ w : Ins,
    (∀ x ∈ ([(.fmin, Fmt.f32, false), (.fmax, .f32, true), (.dmin, .f64, false), (.dmax, .f64, true)] : List (Op × Fmt × Bool)),
      TeamResult x.1 w (x.2.1 == .f64) fun s si tid => minMax x.2.1 x.2.2 (plainA w x.2.1 s si tid) (plainB w x.2.1 s si tid)) ∧
    (TeamResult .fclass w false fun s si tid => (classOf .f32 (fSrcA s si w .f32 tid), 0)) ∧
    ∀ x ∈ ([(.frsq, .rsq), (.fex2, .ex2), (.flg2, .lg2), (.fsin, .sin), (.fcos, .cos), (.ftanh, .tanh)] :
        List (Op × Config.ApproxFn)),
      TeamResult x.1 w false fun s si tid => Approx.eval x.2 (si.team.rctl w) (fSrcA s si w .f32 tid)

/-- 06 R168 to R172, 04 R101 to R108: the floating-point instructions complete. -/
def Obligations.FloatArithmetic : Prop := Spec.FloatArithmetic ∧ Spec.FloatExactAndApproximate

/-- 06 R173 to R175: CVT, CVTN and CVTW complete with one conversion, and draw where it rounds. -/
def Obligations.Conversions : Prop :=
  ∀ w : Ins,
    let dst := w.ty.getD .n8
    let src := w.ty2.getD .n8
    (TeamRounded .cvt w (dst.width == 64) (if convRounds src dst then 1 else 0) fun s si rc tid ns =>
      convert src dst rc (ns.headD 0) (rdW s si.core si.team (src.width == 64) tid w.a)) ∧
    (TeamRounded .cvtn w false (blockDraws w src dst) fun s si rc tid ns =>
      let r := blockConv w src dst rc (ns.headD 0) (rd32 s si.core si.team tid w.a) (rd32 s si.core si.team tid w.b) (-1)
      (putElem dst.width (w.m 63 59) (rd32 s si.core si.team tid w.d) r.1, r.2)) ∧
    TeamRounded .cvtw w false (blockDraws w src dst) fun s si rc tid ns =>
      let k := w.m 63 59 * src.width
      blockConv w src dst rc (ns.headD 0) (bits (rd32 s si.core si.team tid w.a) (k + src.width - 1) k)
        (rd32 s si.core si.team tid w.b) 1

/-- 06 R176 to R182: LQSCALE, LQ8, LQM, SHFL and BCAST complete with their value; LQD fills its eight or four registers. -/
def Obligations.LatticeAndShuffle : Prop :=
  ∀ w : Ins,
    (∀ x ∈ latticeTable w, TeamResult x.1 w false x.2) ∧
    (TeamResult .shfl w (w.mb 49) fun s si tid =>
      (rdW s si.core si.team (w.mb 49) (shflFrom w si.team.threads tid (rd32 s si.core si.team tid w.b)) w.a, 0)) ∧
    (TeamResult .bcast w (w.mb 49) fun s si tid =>
      (if rd32 s si.core si.team tid w.b < si.team.threads then
        rdW s si.core si.team (w.mb 49) (rd32 s si.core si.team tid w.b) w.a else 0, 0)) ∧
    ∀ (s : State) (si : Site) (d : Nat), WellFormed .team (.lqd w) = true → s.site? = some si → si.goes s .lqd w = true → w.d = .v d →
      let half := w.ty == some .f16
      let val (tid : Nat) := lqdRegs half { si.team.rctl w with mode := .rne } (lqdVals (pointBytes w.ty2)
        (rd32 s si.core si.team tid w.a) (rd32 s si.core si.team tid w.c % 256) (liveCount (rd32 s si.core si.team tid w.b)))
      ∃ u : Team, exec (.lqd w) s = .next (s.goneOn si w u) ∧ si.team.SameBut u ∧ u.rng = si.team.rng ∧ u.s = si.team.s ∧
        u.p = si.team.p ∧
        (∀ tid r, r < 512 → u.vreg tid r =
          if tid < si.team.threads ∧ (si.exec w).getLsbD tid ∧ d ≤ r ∧ r < d + (if half then 4 else 8) then
            if (si.team.writeMask w).getLsbD tid then BitVec.ofNat 32 ((val tid).1.getD (r - d) 0)
            else if w.zero then 0 else si.team.vreg tid r
          else si.team.vreg tid r) ∧
        u.tsr = si.team.tsr ||| BitVec.ofNat 32 (Flags.all ((actors si w (si.exec w)).map fun tid => (val tid).2))

/-- 06 R183 to R186: REDUX and SCAN complete with each thread's value of its own segment, RAND with its next number, and RSEED sets
streams. Under a stochastic addition REDUX draws from the stream of the lowest thread of each segment that computes, SCAN from
each computing thread's own; no other stream moves. -/
def Obligations.AcrossThreads : Prop :=
  ∀ (w : Ins) (s : State) (si : Site), s.site? = some si →
    let e := si.exec w
    let ts := threadsOf si.team.threads e
    let sto := w.m 57 54 = 8 ∧ (si.team.rctl w).mode = .sto
    (WellFormed .team (.redux w) = true → si.goes s .redux w = true →
      let val (tid : Nat) := reduxSeg s si w (segmentOf w si tid)
      ∃ u : Team, exec (.redux w) s = .next (s.goneOn si w u) ∧ si.team.SameBut u ∧
        si.team.Result u w e w.wideT (fun tid => (val tid).1) ∧
        u.tsr = si.team.tsr ||| BitVec.ofNat 32 (Flags.all ((actors si w e).map fun tid => (val tid).2.1)) ∧
        ∀ tid, u.rand tid = if sto ∧ (∃ a ∈ actors si w e, (segmentOf w si a).head? = some tid) then (val tid).2.2
          else si.team.rand tid) ∧
    (WellFormed .team (.scan w) = true → si.goes s .scan w = true →
      ∃ u : Team, exec (.scan w) s = .next (s.goneOn si w u) ∧ si.team.SameBut u ∧
        si.team.Result u w e w.wideT (fun tid => ((scanAt w s si tid).map (·.1.1)).getD 0) ∧
        u.tsr = si.team.tsr ||| BitVec.ofNat 32 (Flags.all ((actors si w e).map fun tid =>
          ((scanAt w s si tid).map (·.1.2)).getD 0)) ∧
        ∀ tid, u.rand tid = if sto ∧ tid ∈ actors si w e then ((scanAt w s si tid).map (·.2)).getD 0 else si.team.rand tid) ∧
    (WellFormed .team (.rand w) = true → si.goes s .rand w = true →
      ∃ u : Team, exec (.rand w) s = .next (s.goneOn si w u) ∧ si.team.SameBut u ∧ u.tsr = si.team.tsr ∧
        si.team.Result u w e false (fun tid => randValue (w.mb 49) (next32 (si.team.rand tid)).2) ∧
        ∀ tid, u.rand tid = if tid ∈ actors si w e then (next32 (si.team.rand tid)).1 else si.team.rand tid) ∧
    (WellFormed .team (.rseed w) = true → si.goes s .rseed w = true →
      ∃ u : Team, exec (.rseed w) s = .next (s.goneOn si w u) ∧ u = { si.team with rng := u.rng } ∧
        ∀ tid, u.rand tid = if tid ∈ ts then
            let x := BitVec.ofNat 64 (rd32 s si.core si.team tid w.b * 2 ^ 32 + rd32 s si.core si.team tid w.a)
            if w.mb 49 then x ^^^ BitVec.ofNat 64 (tid * 0x9E3779B97F4A7C15) else x
          else si.team.rand tid)

end

namespace Sys2Proof.Spec

open Sys2Proof Host Machine

/-! The team sequencer (07). -/

/-- On a team that may issue it, a well-formed instruction whose state and operands meet a condition answers this state. -/
def TeamNext (o : Op) (w : Ins) (ok : State → Site → Prop) (next : State → Site → State) : Prop :=
  ∀ (s : State) (si : Site), WellFormed .team (Instr.ofOp o w) = true → s.site? = some si → si.goes s o w = true → ok s si →
    exec (Instr.ofOp o w) s = .next (next s si)

/-- The same on the control thread. -/
def CtlNext (o : Op) (w : Ins) (ok : State → CtlSite → Prop) (next : State → CtlSite → State) : Prop :=
  ∀ (s : State) (si : CtlSite), WellFormed .ctl (Instr.ofOp o w) = true → s.ctlSite? = some si → si.goes s o w = true → ok s si →
    exec (Instr.ofOp o w) s = .next (next s si)

/-- The acting team, become `u`, has left its clause: its split's executing threads to their targets, the others to the next
clause (07 R192, R193). -/
def branched (s : State) (si : Site) (u : Team) (w : Ins) (rb : Option Nat) (target : Nat → Nat) : State :=
  s.setTeam si.core si.slot ((u.count si s).transfer si.entry
    (transferGroups u.threads si.split.mask (si.exec w) si.pos.next target) rb si.pos.hdr.yield)

/-- The acting team waits at the instruction, or behind it. -/
def blockedAt (s : State) (si : Site) (wt : Wait) : State := s.setTeam si.core si.slot (si.team.blockSplit si.entry wt)

def blockedBehind (s : State) (si : Site) (w : Ins) (u : Team) (wt : Wait) : State :=
  s.setTeam si.core si.slot (((u.count si s).stepOver si.entry si.pos w.len.size).blockSplit si.entry wt)

/-- Every executing thread's 64-bit A is the address of a block (07 R223). -/
def onBlocks (w : Ins) (s : State) (si : Site) : Prop :=
  ∀ tid ∈ threadsOf si.team.threads (si.exec w), rd64 s si.core si.team tid w.a % 32 = 0

/-- The control thread has gone on, changed. -/
def ctlOn (s : State) (si : CtlSite) (w : Ins) (f : Ctl → Ctl) : State := s.ctlGoneOn si w (f si.ctl)

/-- The control thread waits behind the instruction, or at it. -/
def ctlWaits (s : State) (si : CtlSite) (m : CtlMode) : State := s.setCtl si.core { si.ctl with mode := m }

def ctlWaitsBehind (s : State) (si : CtlSite) (w : Ins) (m : CtlMode) : State :=
  s.setCtl si.core { si.ctl.stepOver si.pos w.len.size with mode := m }

/-- On a team that may issue it, an instruction with a predicate n in D writes the listed predicates and nothing else. -/
def TeamPredicates (o : Op) (w : Ins) (ok : State → Site → Prop) (l : State → Site → Nat → List (Nat × (Nat → Bool))) : Prop :=
  ∀ (s : State) (si : Site) (n : Nat), WellFormed .team (Instr.ofOp o w) = true → s.site? = some si → si.goes s o w = true →
    w.d = .p n → ok s si →
    ∃ u : Team, exec (Instr.ofOp o w) s = .next (s.goneOn si w u) ∧ u = { si.team with p := u.p } ∧
      si.team.Predicates u w (si.exec w) (l s si n)

/-- The values of A in the executing threads. -/
def valuesA (w : Ins) (s : State) (si : Site) : List Nat :=
  (threadsOf si.team.threads (si.exec w)).map fun tid => rd32 s si.core si.team tid w.a

/-- The bytes of the record at an address, checked as one atomic, lie in no channel in bank mode: the sequencer may access it. -/
def openRecord (s : State) (si : Site) (addr : Nat) (keys : List Nat) : Prop :=
  s.cohortKeys si.team addr = .ok keys ∧
    (s.keysChans false keys).any (s.barred (some (.fetch (.team si.core si.slot)))) = false

/-- The state in which the sequencer of the acting team accesses a record: every access of the team has taken its place before. -/
def reached (s : State) (si : Site) : State :=
  ((s.undefer (.fetch (.team si.core si.slot))).drainTeam si.core si.slot).sync si.core

/-- A barrier after a change: a byte count that 32 bits do not hold is a free value (log 74), and complete phases end. -/
def barrierAfter (s : State) (n : Nat) (b : Barrier) : Barrier := (b.fit (Config.freeNat (s.freeIx n))).settled

/-- The barrier that an instruction names in MOD 52:49, and the count in B. -/
def barOf (w : Ins) (s : State) (si : Site) : Barrier := s.bar si.team (w.m 52 49)

end Sys2Proof.Spec

section

open Sys2Proof Host Sys2Proof.Machine Sys2Proof.Spec

/-- 06 R163: IADDC gives the sum of A, B and a nonzero C modulo 2^n; its carry predicate takes whether the sum reached 2^n. -/
def Obligations.AddWithCarry : Prop :=
  ∀ w : Ins,
    let n := widthOf w.wideT
    CtlResult .iaddc w (fun s si => (rdK s si.core w.a % 2 ^ 64 + (if w.litB then immB w true else rdK s si.core w.b) % 2 ^ 64 +
      (if rdK s si.core w.c = 0 then 0 else 1)) % 2 ^ 64) ∧
    ∀ (s : State) (si : Site), WellFormed .team (.iaddc w) = true → s.site? = some si → si.goes s .iaddc w = true →
      let sum (tid : Nat) := rdW s si.core si.team w.wideT tid w.a % 2 ^ n + rdB s si.core si.team w w.wideT tid % 2 ^ n +
        (if rdW s si.core si.team w.wideT tid w.c = 0 then 0 else 1)
      ∃ u₁ u : Team, exec (.iaddc w) s = .next (s.goneOn si w u) ∧ si.team.SameBut u₁ ∧ u₁.rng = si.team.rng ∧
        u₁.tsr = si.team.tsr ∧ si.team.Result u₁ w (si.exec w) w.wideT (fun tid => sum tid % 2 ^ n) ∧
        (w.xm 88 85 = 0 → u = u₁) ∧
        (0 < w.xm 88 85 → u = { u₁ with p := u.p } ∧
          si.team.Predicates { u with v := si.team.v, s := si.team.s } w (si.exec w) [(w.xm 88 85 - 1, fun tid =>
            if w.d.isS then ((actors si w (si.exec w)).map fun t => decide (2 ^ n ≤ sum t)).headD false
            else decide (2 ^ n ≤ sum tid))])

/-- 07 R223, R224: BRA, BRD, BRX, BRXD, CALL, CALLX and RET take each executing thread to its target and the
others to the next clause, the delayed forms under a join record, and the calls leave the next clause's address in D. -/
def Sys2Proof.Spec.BranchesComplete : Prop :=
  ∀ w : Ins,
    let here (si : Site) (_ : Nat) := blockTarget si.pos.base (offsetAB w)
    let there (s : State) (si : Site) (tid : Nat) := rd64 s si.core si.team tid w.a
    TeamNext .bra w (fun _ _ => True) (fun s si => branched s si si.team w none (here si)) ∧
    TeamNext .brd w (fun _ _ => True) (fun s si => branched s si si.team w (some (rejoinOf si w)) (here si)) ∧
    TeamNext .brx w (onBlocks w) (fun s si => branched s si si.team w none (there s si)) ∧
    TeamNext .brxd w (onBlocks w) (fun s si => branched s si si.team w (some (rejoinOf si w)) (there s si)) ∧
    TeamNext .ret w (onBlocks w) (fun s si => branched s si si.team w none (there s si)) ∧
    ∀ (s : State) (si : Site), s.site? = some si →
      (WellFormed .team (.call w) = true → si.goes s .call w = true → ∃ u : Team,
        exec (.call w) s = .next (branched s si u w none (here si)) ∧ u = { si.team with v := u.v, s := u.s } ∧
        si.team.Result u w (si.exec w) true (fun _ => si.pos.next)) ∧
      (WellFormed .team (.callx w) = true → si.goes s .callx w = true → onBlocks w s si → ∃ u : Team,
        exec (.callx w) s = .next (branched s si u w none (there s si)) ∧ u = { si.team with v := u.v, s := u.s } ∧
        si.team.Result u w (si.exec w) true (fun _ => si.pos.next))

/-- 07 R223: an indirect branch with a target that is not on a block raises ALIGN for the first such thread, with its target as the
address, and no thread moves. -/
def Sys2Proof.Spec.MisalignedTargetsTrap : Prop :=
  ∀ (w : Ins), ∀ o ∈ ([.brx, .brxd, .ret, .callx] : List Op), ∀ (s : State) (si : Site) (tid : Nat),
    WellFormed .team (Instr.ofOp o w) = true → s.site? = some si → si.goes s o w = true →
    (threadsOf si.team.threads (si.exec w)).find? (fun t => rd64 s si.core si.team t w.a % 32 != 0) = some tid →
    exec (Instr.ofOp o w) s = .next (s.trapSite si ⟨clsALIGN, 0, BitVec.ofNat 64 (rd64 s si.core si.team tid w.a)⟩ w.len.size)

/-- 07 R223, R224, 05 R129: the branches, calls and the return complete; a target off a block traps instead. -/
def Obligations.BranchesComplete : Prop := Spec.BranchesComplete ∧ Spec.MisalignedTargetsTrap

/-- 07 R192, R193: a transfer loses no thread and doubles none of its places: each thread of the split goes with a group of its
target, and where all have one target the split alone goes there. -/
def Obligations.TransferKeepsThreads : Prop :=
  (∀ (t : Team) (e : Nat) (p : Split) (groups : List (Nat × TMask)) (rb : Option Nat) (yield : Bool) (x : Nat × TMask),
    t.splits.get? e = some p → x ∈ groups →
      let u := t.transfer e groups rb yield
      (∃ e' q, u.splits.get? e' = some q ∧ q.pc = x.1 ∧ (groups.length ≠ 1 → q.mask = x.2) ∧ (q.clause = none) ∧
        (groups.length = 1 → q.mask = p.mask)) ∨
      ∃ g ∈ u.spill, g.pc = x.1 ∧ g.mask = x.2) ∧
  ∀ (threads : Nat) (mask e : TMask) (next : Nat) (target : Nat → Nat) (tid : Nat), tid < threads → mask.getLsbD tid = true →
    ∃ x ∈ transferGroups threads mask e next target, x.2.getLsbD tid = true ∧
      x.1 = if e.getLsbD tid then target tid else next

/-- 07 R211, R214, R215, R228, R231: PLOP, PMOV, VOTE, ROLE, CRR and CRW complete; the write-mask rules of 05 R141 apply to
their v and p destinations, and PMOV to selected predicates writes the executing threads' bits. -/
def Obligations.PredicatesAndControlRegisters : Prop :=
  ∀ w : Ins,
    let truth (s : State) (si : Site) (tid : Nat) (x : Opd) : Nat := if rd32 s si.core si.team tid x = 0 then 0 else 1
    let mode := w.m 50 49
    TeamPredicates .plop w (fun _ _ => True) (fun s si n => [(n, fun tid =>
      bitAt (w.m 56 49) (4 * truth s si tid w.a + 2 * truth s si tid w.b + truth s si tid w.c))]) ∧
    TeamResult .pmovTov w false (fun _ si tid => (maskOf 12 fun i => (si.team.preg i).getLsbD tid, 0)) ∧
    (mode = 3 → TeamResult .vote w false (fun s si tid => (maskOf 32 fun i =>
      let y := tid / 32 * 32 + i
      decide (y < si.team.threads) && (si.exec w).getLsbD y && rd32 s si.core si.team y w.a != 0, 0))) ∧
    (mode ≠ 3 → w.d.isV = true → TeamResult .vote w false (fun s si _ => (boolNat (voteAnswer mode (valuesA w s si)), 0))) ∧
    (mode ≠ 3 → TeamPredicates .vote w (fun _ _ => True) (fun s si n =>
      [(n, fun _ => voteAnswer mode (valuesA w s si)), (n + 1, fun _ => !voteAnswer mode (valuesA w s si))])) ∧
    TeamNext .role w (fun s si => ∃ l, s.launchOf si.team = some l ∧ w.m 51 49 < l.record.roles.length ∧
        si.team.splits.length ≤ 1 ∧ si.team.joins = [] ∧ si.team.spill = [] ∧ si.exec w = si.team.alive)
      (fun s si => s.goneOn si w { si.team with pendingRole := some (w.m 51 49, 0) }) ∧
    TeamNext .crr w (fun _ _ => True) (fun s si =>
      s.goneOn si w (({ si.team with tsr := if w.m 53 49 = 2 then s.tsrSeen si.team else si.team.tsr } : Team).writeD w
        (crWide (w.m 53 49)) [(0, s.controlReg si.team (w.m 53 49))])) ∧
    TeamNext .crw w (fun _ _ => True) (fun s si =>
      s.goneOn si w (si.team.writeControl (w.m 53 49) (if crWide (w.m 53 49) then s.uni64 si w.a else s.uni si w.a))) ∧
    ∀ (s : State) (si : Site), WellFormed .team (.pmovSel w) = true → s.site? = some si → si.goes s .pmovSel w = true →
      ∃ u : Team, exec (.pmovSel w) s = .next (s.goneOn si w u) ∧ u = { si.team with p := u.p } ∧
        ∀ i tid, tid < 1024 → (u.preg i).getLsbD tid =
          if i < 12 ∧ bitAt (w.m 61 50) i = true ∧ tid < si.team.threads ∧ (si.exec w).getLsbD tid = true
          then bitAt (rd32 s si.core si.team tid w.a) i else (si.team.preg i).getLsbD tid

/-- 07 R195, R225, R227; 05 R127; 08 R245: SYNCR, YIELD, WAITW, SLEEP, WINF and WINW complete, or wait where their condition does not
hold yet; SYNCR without a join record only ends its clause. A WINF with remote stores outstanding blocks, or only holds the later
remote accesses (log 73: the spec says both). -/
def Sys2Proof.Spec.SynchronisingAndWaiting : Prop :=
  ∀ w : Ins,
    TeamNext .syncr w (fun _ si => si.split.join = none) (fun s si =>
      s.setTeam si.core si.slot ((si.team.count si s).clauseDone si.entry si.pos.next si.pos.hdr.yield)) ∧
    (∀ q, TeamNext .syncr w (fun _ si => si.split.join = some q ∧ si.exec w = si.split.mask) (fun s si =>
      s.setTeam si.core si.slot (((si.team.count si s).arriveAt si.entry q).clauseEnds si.entry si.pos.hdr.yield))) ∧
    (∀ q, TeamNext .syncr w (fun _ si => si.split.join = some q ∧ si.exec w ≠ si.split.mask) (fun s si =>
      let u := si.team.count si s
      s.setTeam si.core si.slot (Team.clauseDone { u with
        joins := u.joins.alter q fun j => { j with mask := j.mask ||| si.exec w }
        splits := u.splits.alter si.entry fun p => { p with mask := p.mask &&& ~~~ si.exec w } }
        si.entry si.pos.next si.pos.hdr.yield))) ∧
    TeamNext .yield w (fun _ _ => True) (fun s si =>
      s.goneOn si w { si.team with splits := si.team.splits.alter si.entry fun p => { p with yield := true } }) ∧
    TeamNext .waitw w (fun _ si => si.team.flagsZero (w.m 60 49) = true) (fun s si => s.goneOn si w si.team) ∧
    TeamNext .waitw w (fun _ si => si.team.flagsZero (w.m 60 49) = false) (fun s si => blockedAt s si (.flags (w.m 60 49))) ∧
    TeamNext .sleep w (fun _ _ => True) (fun s si =>
      blockedBehind s si w si.team (.sleep ((s.coreOf si.core).clk + rd32 s si.core si.team 0 w.a))) ∧
    TeamNext .winf w (fun _ si => si.team.rpend = 0) (fun s si => s.goneOn si w si.team) ∧
    TeamNext .winf w (fun _ si => si.team.rpend ≠ 0) (fun s si =>
      if Config.freeBool (s.freeIx 0) then s.goneOn si w { si.team with winf := true } else blockedAt s si .winf) ∧
    CtlNext .winf w (fun _ si => si.ctl.rpend = 0) (fun s si => s.ctlGoneOn si w si.ctl) ∧
    CtlNext .winf w (fun _ si => si.ctl.rpend ≠ 0) (fun s si =>
      if Config.freeBool (s.freeIx 0) then ctlOn s si w fun c => { c with winf := true } else ctlWaits s si .winf) ∧
    TeamNext .winw w (fun s si => winwOver si.team.rwin s.win = true) (fun s si => s.goneOn si w { si.team with rwin := none }) ∧
    TeamNext .winw w (fun s si => winwOver si.team.rwin s.win = false) (fun s si => blockedAt s si .winw) ∧
    CtlNext .winw w (fun s si => winwOver si.ctl.rwin s.win = true) (fun s si => ctlOn s si w fun c => { c with rwin := none }) ∧
    CtlNext .winw w (fun s si => winwOver si.ctl.rwin s.win = false) (fun s si => ctlWaits s si .winw)

/-- 07 R191, R206: EXIT removes the executing threads from their team; the team that has none left is leaving, at the
instruction's address. -/
def Sys2Proof.Spec.ExitRemovesThreads : Prop :=
  ∀ (w : Ins) (s : State) (si : Site), WellFormed .team (.exit w) = true → s.site? = some si → si.goes s .exit w = true →
    (si.team.cohMask = 0 ∨ si.team.alive &&& ~~~ si.exec w = 0) →
    ∃ t u, exec (.exit w) s = .next t ∧ t.team? si.core si.slot = some u ∧ u.alive = si.team.alive &&& ~~~ si.exec w ∧
      (u.alive = 0 → u.leaving = some si.pc) ∧ (u.alive ≠ 0 → u.leaving = si.team.leaving) ∧
      u.v = si.team.v ∧ u.s = si.team.s ∧ u.p = si.team.p ∧ t.mem = s.mem

/-- 07 R195, R225 to R227: SYNCR, YIELD, WAITW, SLEEP, WINF, WINW and EXIT. -/
def Obligations.SynchronisingAndExit : Prop := Spec.SynchronisingAndWaiting ∧ Spec.ExitRemovesThreads

/-- 07 R202 to R205, R229, R230: BARINIT, BARARR, BARWAIT and BARTEST complete where the spec names no BAR trap: BARINIT sets the
barrier that no split waits on; BARARR adds its count to BYTES, then its threads to the arrival mask, whose completion sets the
team's bit of ARRIVED, and gives the PHASE between the two; BARWAIT goes on once its phase has passed and waits at itself before;
BARTEST gives the phase, or whether it has passed. -/
def Sys2Proof.Spec.NamedBarriers : Prop :=
  ∀ w : Ins,
    let n := w.m 52 49
    let count (s : State) (si : Site) := rd32 s si.core si.team 0 w.b
    TeamNext .barinit w (fun s si => (barOf w s si).arrived = 0 ∧ (barOf w s si).bytes = (barOf w s si).byteInit ∧
        s.barWaiters si.team.gang n = false ∧ count s si < 2 ^ 24)
      (fun s si => (s.updBar si.team.gang n fun b => { b with
        members := BitVec.ofNat 64 (rd64 s si.core si.team 0 w.a), byteInit := count s si, bytes := count s si
        arrived := 0 }).goneOn si w si.team) ∧
    TeamNext .barwait w (fun s si => (barOf w s si).idle = false ∧
        phasePassed (barOf w s si).phase (rd32 s si.core si.team 0 w.a) = true)
      (fun s si => (s.sync si.core).goneOn si w si.team) ∧
    TeamNext .barwait w (fun s si => (barOf w s si).idle = false ∧
        phasePassed (barOf w s si).phase (rd32 s si.core si.team 0 w.a) = false)
      (fun s si => blockedAt s si (.barrier n (rd32 s si.core si.team 0 w.a))) ∧
    (w.mb 53 = true → TeamNext .bartest w (fun s si => (barOf w s si).idle = false)
      (fun s si => (s.sync si.core).goneOn si w (si.team.writeD w false [(0, (barOf w s si).phase.toNat)]))) ∧
    (∀ (s : State) (si : Site) (d : Nat), WellFormed .team (.bartest w) = true → s.site? = some si → si.goes s .bartest w = true →
      w.mb 53 = false → w.d = .p d → (barOf w s si).idle = false →
      let q := phasePassed (barOf w s si).phase (rd32 s si.core si.team 0 w.a)
      ∃ u : Team, exec (.bartest w) s = .next ((s.sync si.core).goneOn si w u) ∧ u = { si.team with p := u.p } ∧
        si.team.Predicates u w (si.exec w) [(d, fun _ => q), (d + 1, fun _ => !q)]) ∧
    ∀ (s : State) (si : Site) (g : Gang), WellFormed .team (.bararr w) = true → s.site? = some si → si.goes s .bararr w = true →
      s.gang? si.team.gang = some g → si.team.arrive.get 0 n &&& si.exec w = 0 → (g.bar n).arrived &&& teamBit si.team = 0 →
      (g.bar n).members &&& teamBit si.team ≠ 0 → count s si < 2 ^ 24 →
      let b₁ := barrierAfter s n { g.bar n with bytes := (g.bar n).bytes + count s si }
      let m := si.team.arrive.get 0 n ||| si.exec w
      let all := m &&& si.team.alive = si.team.alive
      exec (.bararr w) s = .next ((s.setGang si.team.gang (g.setBar n
        (if all then barrierAfter s n { b₁ with arrived := b₁.arrived ||| teamBit si.team } else b₁))).goneOn si w
          (({ si.team with arrive := if all then si.team.arrive.erase n else si.team.arrive.set n m } : Team).writeD w false
            [(0, b₁.phase.toNat)]))

/-- 07 R203 to R206: a barrier never keeps a complete phase: after every change its arrivals are not all there, or its bytes are
still due; a phase that ends leaves no arrivals. -/
def Sys2Proof.Spec.BarrierSettles : Prop :=
  ∀ b : Barrier,
    (b.settled.idle || b.settled.arrived != b.settled.members || !b.settled.engineIn) = true ∧
    b.settled.members = b.members ∧ b.settled.byteInit = b.byteInit ∧
    (b.settled.phase = b.phase → b.settled = b ∨ b.settled.arrived = 0)

/-- 07 R202 to R206, R229, R230: the barrier instructions complete, and a barrier never keeps a complete phase. -/
def Obligations.NamedBarriers : Prop := Spec.NamedBarriers ∧ Spec.BarrierSettles

/-- 07 R207 to R209, R213, 09 R268: CJOIN, CLEAVE, CBAR and DQPOP complete: the team's accesses take their place, the record is read and
written back, and the team's memberships follow. A CBAR that does not complete its team's arrival waits for the rest of the team. -/
def Obligations.CohortsAndDecisions : Prop :=
  ∀ w : Ins,
    let addr (s : State) (si : Site) := rd64 s si.core si.team 0 w.a
    TeamNext .cbar w (fun s si => (si.team.member? (addr s si)).isSome = true ∧
        (si.team.cohMask = 0 ∨ si.team.cohAddr = addr s si) ∧ si.team.cohMask &&& si.exec w = 0 ∧
        (si.team.cohMask ||| si.exec w) &&& si.team.alive ≠ si.team.alive)
      (fun s si => blockedBehind s si w { si.team with cohMask := si.team.cohMask ||| si.exec w, cohAddr := addr s si }
        (.cohortTeam (addr s si))) ∧
    (∀ (s : State) (si : Site) (keys : List Nat), s.site? = some si → openRecord s si (addr s si) keys →
      let s₁ := reached s si
      let vd := s₁.teamVd si.team
      let c := readCohort s₁ keys
      let ms := si.team.cohorts
      (WellFormed .team (.cjoin w) = true → si.goes s .cjoin w = true → si.team.member? (addr s si) = none → ms.length < 4 →
        ∃ (t : State) (u : Team), exec (.cjoin w) s = .next t ∧ t.team? si.core si.slot = some u ∧
          u.cohorts = ms ++ [{ addr := addr s si, next := c.arrived != 0, phase := c.phase.toNat }] ∧
          t.mem = (writeCohort s₁ vd keys c.join).mem) ∧
      (∀ m, WellFormed .team (.cleave w) = true → si.goes s .cleave w = true → si.team.member? (addr s si) = some m →
        ∃ (t : State) (u : Team), exec (.cleave w) s = .next t ∧ t.team? si.core si.slot = some u ∧
          u.cohorts = ms.filter (fun m => m.addr != addr s si) ∧ t.mem = (writeCohort s₁ vd keys (c.leave m)).mem) ∧
      (WellFormed .team (.cbar w) = true → si.goes s .cbar w = true → (si.team.member? (addr s si)).isSome = true →
        (si.team.cohMask = 0 ∨ si.team.cohAddr = addr s si) → si.team.cohMask &&& si.exec w = 0 →
        (si.team.cohMask ||| si.exec w) &&& si.team.alive = si.team.alive →
        ∃ (t : State) (u : Team), exec (.cbar w) s = .next t ∧ t.team? si.core si.slot = some u ∧ u.cohMask = 0 ∧
          t.mem = (if (si.team.member? (addr s si)).any (fun m => m.next && m.phase == c.phase.toNat) then s₁
            else writeCohort s₁ vd keys c.arrive).mem)) ∧
    ∀ (s : State) (si : Site) (cx : CtxId) (x : W64) (rest : List (CtxId × W64)) (d : Nat), s.site? = some si →
      WellFormed .team (.dqpop w) = true → si.goes s .dqpop w = true → s.teamCx si.team = some cx → w.d = .s d →
      s.dqTurn si.core si.slot si.entry cx = true → takeEntry cx (s.coreOf si.core).dq = some (x, rest) →
      ∃ (t : State) (u : Team), exec (.dqpop w) s = .next t ∧ t.team? si.core si.slot = some u ∧
        (t.coreOf si.core).dq = rest ∧ u.sreg d = BitVec.ofNat 32 x.toNat ∧ u.sreg (d + 1) = BitVec.ofNat 32 (x.toNat / 2 ^ 32)

end

namespace Sys2Proof.Spec

open Sys2Proof Host Machine

/-! Exceptions (07 R216 to R219), memory instructions (08) and the control thread (09). -/

/-- Every register of a team but the ones that hold its place: v, s and p registers, streams, and the control registers. -/
def keepsRegs (t u : Team) : Prop :=
  u.v = t.v ∧ u.s = t.s ∧ u.p = t.p ∧ u.rng = t.rng ∧ u.tsr = t.tsr ∧ u.fpc = t.fpc ∧ u.qnt = t.qnt ∧ u.tvb = t.tvb ∧
    u.lrb = t.lrb ∧ u.tvmask = t.tvmask ∧ u.tpc = t.tpc ∧ u.tcause = t.tcause ∧ u.taddr = t.taddr

/-- What a load or a store of the acting team asks of the checks, in thread order (08 R235, R237). -/
def wantsOf (w : Ins) (s : State) (si : Site) : List Want := memAsks s si w (threadsOf si.team.threads (si.exec w))

/-- What LDU asks: the accesses of its lowest executing thread (08 R238). -/
def wantsOfFirst (w : Ins) (s : State) (si : Site) : List Want := memAsks s si w ((threadsOf si.team.threads (si.exec w)).take 1)

/-- What an atomic or a reduction asks (08 R239). -/
def atomWants (w : Ins) (s : State) (si : Site) : List Want :=
  (threadsOf si.team.threads (si.exec w)).map fun tid => atomWant w (effAddr s si w (memSpace w) false tid) tid

/-- The wants have passed every check, none with a table entry in a channel in bank mode: each access has its place, and no remote
one meets a WINF of the team. -/
def passes (s : State) (si : Site) (sp : Space) (acc : Acc) (l : List Want) (places : List (Nat × Place)) : Prop :=
  ∃ r, s.reachOf si.team = some r ∧ s.walksStuck r.cx sp l = false ∧ s.check r sp acc l = .ok places ∧
    (si.team.winfHolds = true → ∀ x ∈ places, ∃ ks, x.2 = .here ks)

/-- The state once the walker has read the table entries that no TLB holds, for the local accesses of an instruction (02 R48). -/
def looked (s : State) (si : Site) (sp : Space) (l : List Want) : State :=
  match s.reachOf si.team with
  | some r => s.walkedFor si.core r.cx sp l
  | none => s

/-- The instruction has joined the team's accesses with one operation and gone on: no register and no byte of memory has changed
since the walker's reads, and a set-flag has risen by one (05 R131, 02 R52). -/
def issuedAs (s : State) (si : Site) (t : State) (p : Pend) : Prop :=
  ∃ u : Team, t.team? si.core si.slot = some u ∧ keepsRegs si.team u ∧ u.pend = si.team.pend ++ [p] ∧ t.mem = s.mem ∧
    ∀ f, u.flag f = si.team.flag f + (if p.flag = some f then 1 else 0)

/-- An operation over memory with the given places. -/
def actsOn (p : Pend) (act : MemAct) (hint : Nat) (places : List (Nat × Place)) : Prop :=
  ∃ items, p.work = .mem act hint items [] ∧ items.map (fun x => (x.tid, x.place)) = places

/-- The predicate that D names. -/
def predOf (w : Ins) : Option Nat :=
  match w.d with
  | .p n => some n
  | _ => none

/-- No line of the L2 holds a crumb of a compressed tile. -/
def noTileLines (s : State) : Prop := ∀ x ∈ s.lines, x.2.tile = false

/-- No line of the L2 holds a crumb of a compressed tile, and no key is one's. -/
def plainLines (s : State) (keys : List Nat) : Prop := noTileLines s ∧ ∀ k ∈ keys, isTileKey k = false

/-- The address of a KLD or KST (09 R259). -/
def ctlWant (w : Ins) (s : State) (si : CtlSite) : List Want :=
  [{ tid := 0, ea := ((rdK s si.core w.a + rdK s si.core w.b * 2 ^ w.m 56 54) % 2 ^ 64 : Nat), len := elemBytes w
     align := elemBytes w }]

/-- The control thread has gone to another clause. -/
def ctlJumped (s : State) (si : CtlSite) (f : Ctl → Ctl) (target : Nat) : State :=
  s.setCtl si.core ({ f si.ctl with clause := none, pc := target }).stepped

end Sys2Proof.Spec

section

open Sys2Proof Host Sys2Proof.Machine Sys2Proof.Spec

/-- 05 R145: an instruction of the team side that a decode check of its team forbids raises ILLOP with no effect. -/
def Sys2Proof.Spec.DecodeChecksTrap : Prop :=
  ∀ (o : Op) (w : Ins) (s : State) (si : Site), o.onSide .team = true → s.site? = some si → si.illegal o w = true →
    exec (Instr.ofOp o w) s = .next (s.trapSite si ⟨clsILLOP, 0, 0⟩ w.len.size)

/-- 05 R145, 09 R273: on the control thread it stops the thread with CAUSE ILLOP, before any effect. -/
def Sys2Proof.Spec.ControlChecksTrap : Prop :=
  ∀ (o : Op) (w : Ins) (s : State) (si : CtlSite), o.onSide .ctl = true → s.ctlSite? = some si →
    (o.check .ctl 512 w).isSome = true →
    ∃ t, exec (Instr.ofOp o w) s = .next t ∧ t.mem = s.mem ∧ (t.ctl si.core).k = si.ctl.k ∧
      (t.ctl si.core).mode = .stopped false ∧ (t.ctl si.core).cause = clsILLOP ∧ (t.ctl si.core).code = 0 ∧
      (t.ctl si.core).pc = si.pc ∧ (t.ctl si.core).fa = 0

/-- 05 R145, 07 R216, 09 R273: an instruction that a decode check forbids raises ILLOP on a team, and stops a control thread with it, with no effect. -/
def Obligations.DecodeChecksTrap : Prop := Spec.DecodeChecksTrap ∧ Spec.ControlChecksTrap

/-- 06 R157: an instruction whose guard no executing thread meets completes with no effect, unless it ends its clause; those send every
thread to the next clause (07 R223). -/
def Obligations.FalseGuardsComplete : Prop :=
  (∀ (o : Op) (w : Ins) (s : State) (si : Site), o.onSide .team = true → s.site? = some si → si.illegal o w = false →
    si.exec w = 0 → o.closing = false → exec (Instr.ofOp o w) s = .next (s.goneOn si w si.team)) ∧
  ∀ (o : Op) (w : Ins) (s : State) (si : Site), o ∈ ([.bra, .brd, .brx, .brxd, .call, .callx, .ret, .tret] : List Op) →
    s.site? = some si → si.illegal o w = false → si.exec w = 0 → si.split.mask ≠ 0 →
    exec (Instr.ofOp o w) s = .next (s.setTeam si.core si.slot
      ((si.team.count si s).clauseDone si.entry si.pos.next si.pos.hdr.yield))

/-- 07 R216: a trap whose TVMASK bit is set, taken while INH is clear, saves the pc, the cause and the address, sets INH, and takes
its split to TVB + 32k; no other register and no other split changes. -/
def Obligations.HandlerEntry : Prop :=
  ∀ (s : State) (t : Team) (x : Trap) (a : TrapAt) (p : Split), t.tvmask.getLsbD x.cls = true → t.inh = false → x.cls < 14 →
    t.splits.get? a.entry = some p →
    ∃ u : Team, s.raise t x a = s.setTeam a.core a.slot u ∧ u.tpc = BitVec.ofNat 64 a.pc ∧ u.taddr = x.addr ∧ u.inh = true ∧
      bits u.tcause.toNat 30 30 = boolNat (x.cls == clsTRAP || x.cls == clsBKPT) ∧ bits u.tcause.toNat 23 16 = x.code % 256 ∧
      bits u.tcause.toNat 11 8 = a.entry % 16 ∧ bits u.tcause.toNat 3 0 = x.cls ∧
      u.splits.get? a.entry = some { p with
        pc := (t.tvb.toNat + 32 * x.cls) % 2 ^ 64
        clause := none
        wait := .none
        yield := false } ∧
      (∀ e, e ≠ a.entry → u.splits.get? e = t.splits.get? e) ∧ u.handler = some a.entry ∧ u.saved = a.resume ∧
      u.v = t.v ∧ u.s = t.s ∧ u.p = t.p ∧ u.tsr = t.tsr ∧ u.fpc = t.fpc ∧ u.tvb = t.tvb ∧ u.tvmask = t.tvmask ∧ u.pend = t.pend

/-- 07 R217: a trap without a handler, or in one, stops its gang in context fault handling: the same registers are saved, INH stays,
and Renweaz's copy names the core, the slot and the three registers. A BKPT whose TVMASK bit is clear is a debug stop instead,
which leaves them (07 R216, R220). -/
def Obligations.ContextFaultHandling : Prop :=
  ∀ (s : State) (t : Team) (x : Trap) (a : TrapAt),
    (t.tvmask.getLsbD x.cls = false ∨ t.inh = true) →
    (x.cls = clsBKPT ∧ t.tvmask.getLsbD x.cls = false →
      ∃ u, s.raise t x a = s.setTeam a.core a.slot u ∧ u.stops.debug = true ∧ u.tpc = t.tpc ∧ u.tcause = t.tcause ∧
        u.taddr = t.taddr ∧ u.v = t.v ∧ u.s = t.s ∧ u.p = t.p) ∧
    (¬(x.cls = clsBKPT ∧ t.tvmask.getLsbD x.cls = false) → ∀ g, s.gang? t.gang = some g →
      ∃ (u : Team) (g' : Gang), (s.raise t x a).team? a.core a.slot = some u ∧ (s.raise t x a).gang? t.gang = some g' ∧
        g'.faultStop = true ∧ u.stops.fault = true ∧ u.tpc = BitVec.ofNat 64 a.pc ∧ u.taddr = x.addr ∧ u.inh = t.inh ∧
        bits u.tcause.toNat 3 0 = x.cls % 16 ∧ (s.raise t x a).mem = s.mem ∧
        ∀ cx, s.teamCx t = some cx → (s.raise t x a).notices.get [] (cx.vd + 1) = s.notices.get [] (cx.vd + 1) ++
          [{ kind := noticeTrap, words := [a.core, a.slot, u.tcause.toNat, u.tpc.toNat, u.taddr.toNat] }])

/-- 07 R222, R227: NOP does nothing but take its place. TRAP n raises TRAP with CODE n and BKPT raises BKPT, the split to go on
behind the instruction; with an empty mask they raise nothing. TVEC sets or clears its bit of TVMASK; class 14 or 15 is ILLOP. -/
def Obligations.NopAndTrapInstructions : Prop :=
  ∀ w : Ins,
    let at' (s : State) (si : Site) (x : Trap) := s.raise (si.team.count si s) x
      { core := si.core, slot := si.slot, entry := si.entry, pc := si.pos.base + si.pos.off
        resume := some (si.pos.advance w.len.size) }
    TeamNext .nop w (fun _ _ => True) (fun s si => s.goneOn si w si.team) ∧
    CtlNext .nop w (fun _ _ => True) (fun s si => s.ctlGoneOn si w si.ctl) ∧
    TeamNext .trap w (fun _ _ => True) (fun s si => at' s si ⟨clsTRAP, w.m 56 49, 0⟩) ∧
    TeamNext .bkpt w (fun _ _ => True) (fun s si => at' s si ⟨clsBKPT, 0, 0⟩) ∧
    (∀ (s : State) (si : Site), s.site? = some si → si.exec w = 0 →
      (si.illegal .trap w = false → exec (.trap w) s = .next (s.goneOn si w si.team)) ∧
      (si.illegal .bkpt w = false → exec (.bkpt w) s = .next (s.goneOn si w si.team))) ∧
    TeamNext .tvec w (fun _ _ => True) (fun s si =>
      let b : W32 := BitVec.ofNat 32 (2 ^ w.m 52 49)
      s.goneOn si w { si.team with tvmask := if w.mb 53 then si.team.tvmask ||| b else si.team.tvmask &&& ~~~ b }) ∧
    ∀ (s : State) (si : Site), s.site? = some si → w.len = .l64 → 14 ≤ w.m 52 49 →
      exec (.tvec w) s = .next (s.trapSite si ⟨clsILLOP, 0, 0⟩ 8)

/-- 07 R219: TRET in a handler clears INH and no other bit of TCAUSE, and sends its split to TPC where the handler wrote it, else
back into the saved clause; outside one it is ILLOP. -/
def Obligations.TrapReturn : Prop :=
  ∀ (w : Ins) (s : State) (si : Site), WellFormed .team (.tret w) = true → s.site? = some si → si.goes s .tret w = true →
    (si.team.inh = false → exec (.tret w) s = .next (s.trapSite si ⟨clsILLOP, 0, 0⟩ w.len.size)) ∧
    (si.team.inh = true → (si.team.tpcWritten = true → si.team.tpc.toNat % 32 = 0) →
      ∃ u : Team, exec (.tret w) s = .next (s.setTeam si.core si.slot u) ∧ u.inh = false ∧
        (∀ i, i < 31 → u.tcause.getLsbD i = si.team.tcause.getLsbD i) ∧ u.handler = none ∧ u.tpc = si.team.tpc ∧
        u.v = si.team.v ∧ u.s = si.team.s ∧ u.p = si.team.p ∧ u.tsr = si.team.tsr ∧
        u.pend = si.team.pend ∧ (∀ e, e ≠ si.entry → u.splits.get? e = si.team.splits.get? e) ∧
        ∀ p, (si.team.count si s).splits.get? si.entry = some p → ∃ q, u.splits.get? si.entry = some q ∧
          q.mask = p.mask ∧ q.join = p.join ∧ q.wait = p.wait ∧ (q.pc, q.clause) =
            match (if si.team.tpcWritten then none else si.team.saved) with
            | some c => if c.atEnd then (c.next, none) else (p.pc, some c)
            | none => (si.team.tpc.toNat, none))

/-- 08 R236: the checks of an access in their order: a misaligned address of any thread before one out of reach. -/
def Sys2Proof.Spec.AlignmentBeforeReach : Prop :=
  ∀ (s : State) (r : Reach) (sp : Space) (acc : Acc) (l : List Want) (x : Want),
    (l.find? (fun x : Want => x.ea % (x.align : Int) != 0) = some x →
      s.check r sp acc l = .error (.trap ⟨clsALIGN, 0, BitVec.ofInt 64 x.base⟩)) ∧
    ((∀ y ∈ l, y.ea % (y.align : Int) = 0) → l.find? (fun x => !s.inReach r sp x.ea x.len) = some x →
      s.check r sp acc l = .error (.trap ⟨clsPROT, 0, BitVec.ofInt 64 x.base⟩))

/-- 08 R236, 02 R49: LD, ST, ATOM and RED whose check fails have no effect but the trap, or the fault record and the wait for it. -/
def Sys2Proof.Spec.DeniedAccesses : Prop :=
  ∀ (w : Ins) (s : State) (si : Site) (r : Reach), s.site? = some si → s.reachOf si.team = some r →
    ∀ x ∈ ([(.ld, .load, wantsOf w s si), (.st, .store, wantsOf w s si), (.atom, .atomic, atomWants w s si),
        (.red, .atomic, atomWants w s si)] : List (Op × Acc × List Want)),
      WellFormed .team (Instr.ofOp x.1 w) = true → si.goes s x.1 w = true → s.walksStuck r.cx (memSpace w) x.2.2 = false →
      (∀ y, s.check r (memSpace w) x.2.1 x.2.2 = .error (.trap y) →
        exec (Instr.ofOp x.1 w) s = .next (s.trapSite si y w.len.size)) ∧
      ∀ k va ea, s.check r (memSpace w) x.2.1 x.2.2 = .error (.fault k va ea) →
        exec (Instr.ofOp x.1 w) s = .next (s.faultSite si k x.2.1.code va ea)

/-- 02 R34, R35, R49, 08 R236: the checks of an access in their order, and an access whose check fails. -/
def Obligations.CheckedAccesses : Prop := Spec.AlignmentBeforeReach ∧ Spec.DeniedAccesses

/-- 08 R237 to R239: a load, store, atomic or reduction whose accesses pass the checks completes as one operation on the places found,
local stores and reductions without a flag. The walker's reads before it change no byte. -/
def Obligations.AccessesComplete : Prop :=
  ∀ (w : Ins) (s : State) (si : Site) (places : List (Nat × Place)), s.site? = some si →
    let sp := memSpace w
    let ty := w.ty.getD .n8
    let act := MemAct.load ty.signed (elemBytes w) (partElems w) (32 * elemRegs w)
    (∀ l, noTileLines s → (looked s si sp l).mem = s.mem) ∧
    (WellFormed .team (.ld w) = true → si.goes s .ld w = true → passes s si sp .load (wantsOf w s si) places →
      ∃ t p, exec (.ld w) s = .next t ∧ issuedAs (looked s si sp (wantsOf w s si)) si t p ∧ p.flag = si.flagOf w ∧
        actsOn p act (memHint w) places) ∧
    (WellFormed .team (.ldu w) = true → si.goes s .ldu w = true → passes s si sp .load (wantsOfFirst w s si) places →
      ∃ t p, exec (.ldu w) s = .next t ∧ issuedAs (looked s si sp (wantsOfFirst w s si)) si t p ∧ p.flag = si.flagOf w ∧
        actsOn p act (memHint w) places) ∧
    (WellFormed .team (.st w) = true → si.goes s .st w = true → passes s si sp .store (wantsOf w s si) places →
      (∀ x ∈ places, ∃ ks, x.2 = .here ks) →
      ∃ t p, exec (.st w) s = .next t ∧ issuedAs (looked s si sp (wantsOf w s si)) si t p ∧ p.flag = none ∧
        actsOn p .store (memHint w) places) ∧
    (WellFormed .team (.atom w) = true → si.goes s .atom w = true → passes s si sp .atomic (atomWants w s si) places →
      (∀ x ∈ places, ∃ ks, x.2 = .here ks) →
      ∃ t p, exec (.atom w) s = .next t ∧ issuedAs (looked s si sp (atomWants w s si)) si t p ∧
        p.flag = (if w.d = .z then none else si.flagOf w) ∧
        actsOn p (.atomic (w.m 58 54) (w.ty.getD .n32) (w.d != .z)) (memHint w) places) ∧
    (WellFormed .team (.red w) = true → si.goes s .red w = true → passes s si sp .atomic (atomWants w s si) places →
      (∀ x ∈ places, ∃ ks, x.2 = .here ks) →
      ∃ t p, exec (.red w) s = .next t ∧ issuedAs (looked s si sp (atomWants w s si)) si t p ∧ p.flag = none ∧
        actsOn p (.atomic (w.m 58 54) (w.ty.getD .n32) false) (memHint w) places)

/-- 02 R34, 08 R238, R239: an access that takes its place reads and writes exactly the bytes of its place, the lowest address
first: a load that no leased copy in the core's L1 serves extends its elements, a store writes its data, an atomic its new value;
every other byte reads as before. A point that crosses a crumb is two events, the lower crumb first, and its load keeps what the
first has read. -/
def Obligations.AccessesPerform : Prop :=
  ∀ (s : State) (via : Via) (x : MemItem) (keys : List Nat), plainLines s keys → s.mem.wf = true →
    let k := (firstCrumb keys).1
    let rest := (firstCrumb keys).2
    let got := x.got ++ leBytes k.length (s.mem.readKeys k)
    let old := s.mem.readKeys keys
    (∀ sg n cnt b, (s.coreOf via.core).l1Hit (keys.headD 0 / 64) = none → ∃ t, t.mem = s.mem ∧
      s.performItem via (.load sg n cnt b) x keys =
        if rest = [] then (t, none, loadWrites x sg n cnt b (leNat got))
        else (t, some { x with place := .here rest, got := got }, [])) ∧
    (∃ t left, s.performItem via .store x keys = (t, left, []) ∧ (left = none ↔ rest = []) ∧
      t.mem = s.mem.writeKeys k (if x.keep = 0 then x.data else (s.mem.readKeys k &&& x.keep) ||| x.data) ∧
      ∀ a, a ∉ k → t.mem.read a = s.mem.read a) ∧
    ∀ op ty ret, ∃ t, s.performItem via (.atomic op ty ret) x keys =
        (t, none, if ret then dstWrites x.dst (8 * keys.length) x.live old else []) ∧
      t.mem = s.mem.writeKeys keys (atomicNew op ty old x.data x.cmp) ∧ ∀ a, a ∉ keys → t.mem.read a = s.mem.read a

/-- 02 R34: bytes written at distinct addresses read back, little-endian. -/
def Obligations.MemoryReadsBack : Prop :=
  ∀ (m : Memory) (keys : List Nat) (x : Nat), m.wf = true → keys.Nodup →
    (m.writeKeys keys x).readKeys keys = x % 256 ^ keys.length

/-- 08 R240, R241, R246 to R250: PRF never faults, changes no register and no operation, and no byte where no line is of a compressed
tile; CCTL joins the team's operations and waits behind itself for its answer; MSEND appends its flit to the send queue, behind
the team's earlier accesses; MRECV joins the team's operations, and takes the oldest flit that waits; MPOLL reads the queues. -/
def Obligations.CacheHintsAndMessages : Prop :=
  ∀ (w : Ins) (s : State) (si : Site), s.site? = some si →
    (WellFormed .team (.prf w) = true → si.goes s .prf w = true →
      ∃ s' : State, exec (.prf w) s = .next (s'.goneOn si w si.team) ∧ s'.teams = s.teams ∧ s'.gangs = s.gangs ∧ s'.locks = s.locks ∧
        s'.faults = s.faults ∧ s'.sessions = s.sessions ∧
        (noTileLines s → (∀ r, s.reachOf si.team = some r → ∀ tid ∈ threadsOf si.team.threads (si.exec w),
          ∀ k, s.prefetchKey r (effAddr s si w .g true tid) = some k → isTileKey k = false) → s'.mem = s.mem)) ∧
    (∀ places, WellFormed .team (.cctl w) = true → si.goes s .cctl w = true →
      let wants : List Want := (threadsOf si.team.threads (si.exec w)).map fun tid =>
        { tid := tid, ea := effAddr s si w .g true tid, len := 1, align := 1 }
      passes s si .g .cctl wants places →
      let s' := (looked s si .g wants).newId
      ∃ items, exec (.cctl w) s = .next (blockedBehind s'.2 si w (si.team.enqueue
          { id := s'.1, flag := none, dst := []
            work := .cctl (w.m 51 49) si.entry items (predOf w) (si.team.writeMask w) w.zero }) .cctl) ∧
        ∀ tid k ks, (tid, Place.here (k :: ks)) ∈ places → (tid, k) ∈ items) ∧
    (∀ g l a, WellFormed .team (.msend w) = true → si.goes s .msend w = true → s.gang? si.team.gang = some g →
      s.launchOf si.team = some l → w.a = .s a →
      let dst := rd64 s si.core si.team 0 w.b
      let port := w.m 50 49
      dst < 2 ^ 34 → bits dst 33 32 < g.size → dst % 2 ^ 32 < l.record.gangs → (g.txq si.team.member port).length < 8 →
      let s₁ := s.drainTeam si.core si.slot
      exec (.msend w) s = .next ((s₁.setGang si.team.gang { g with
        tx := g.tx.set (4 * si.team.member + port) (g.txq si.team.member port ++
          [{ words := (List.range 8).map fun i => si.team.sreg (a + i), gang := dst % 2 ^ 32, member := bits dst 33 32
             ts := s₁.lts }]) }).retireIns si w.len.size)) ∧
    (∀ d, WellFormed .team (.mrecv w) = true → si.goes s .mrecv w = true → w.d = .s d →
      let s₁ := s.drainTeam si.core si.slot
      let p : Pend := { id := s₁.nextId, flag := si.flagOf w, work := .mrecv (w.m 50 49) d
                        dst := dstCodes .mrecv w si.team.threads }
      exec (.mrecv w) s = .next (((s₁.newId.2.updTeam si.core si.slot fun t => t.enqueue p).matchFlits si.team.gang si.team.member
        (w.m 50 49) 8).retireIns si w.len.size)) ∧
    (∀ d, WellFormed .team (.mpoll w) = true → si.goes s .mpoll w = true → w.d = .s d →
      exec (.mpoll w) s = .next (s.goneOn si w
        (si.team.setS d (BitVec.ofNat 32 (s.mpollWord si.team (w.m 50 49) % 2 ^ 32)))))

/-- 09 R259 to R262: KBR, KJMP, KJX, KCALL and KRET go to their clause; an address off a block traps with ALIGN, and one outside the space
with PROT; KLD waits for its data behind itself and KST joins the thread's stores. KTRAP stops the thread with TRAP and its CODE (R273). -/
def Obligations.ControlTransfersAndAccesses : Prop :=
  ∀ w : Ins,
    let a (s : State) (si : CtlSite) := rdK s si.core w.a
    let off (si : CtlSite) := blockTarget si.pos.base (offsetAB w)
    CtlNext .kbr w (fun s si => kCond (w.m 52 49) (a s si) (rdK s si.core w.b) = true)
      (fun s si => ctlJumped s si id (blockTarget si.pos.base (sx 20 (w.d.code + 1024 * w.m 62 53)))) ∧
    CtlNext .kbr w (fun s si => kCond (w.m 52 49) (a s si) (rdK s si.core w.b) = false)
      (fun s si => ctlJumped s si id si.pos.next) ∧
    CtlNext .ktrap w (fun _ _ => True) (fun s si => s.stopCtl si w.len.size ⟨clsTRAP, w.m 56 49, 0⟩) ∧
    CtlNext .kjmp w (fun _ _ => True) (fun s si => ctlJumped s si id (off si)) ∧
    CtlNext .kcall w (fun _ _ => True) (fun s si => ctlJumped s si (fun c => match w.d with
      | .k r => c.setK r si.pos.next
      | _ => c) (off si)) ∧
    (∀ o ∈ ([.kjx, .kret] : List Op),
      CtlNext o w (fun s si => a s si % 32 = 0 ∧ a s si < 2 ^ 48) (fun s si => ctlJumped s si id (a s si)) ∧
      CtlNext o w (fun s si => a s si % 32 ≠ 0)
        (fun s si => s.stopCtl si w.len.size ⟨clsALIGN, 0, BitVec.ofNat 64 (a s si)⟩) ∧
      CtlNext o w (fun s si => a s si % 32 = 0 ∧ 2 ^ 48 ≤ a s si)
        (fun s si => s.stopCtl si w.len.size ⟨clsPROT, 0, BitVec.ofNat 64 (a s si)⟩)) ∧
    ∀ (s : State) (si : CtlSite) (pl : Place), s.ctlSite? = some si →
      (WellFormed .ctl (.kld w) = true → si.goes s .kld w = true →
        s.walksStuck si.owner (spaceOf (w.m 63 61)) (ctlWant w s si) = false → si.ctl.winfHolds pl = false →
        s.check (ctlReach si.core si.owner) (spaceOf (w.m 63 61)) .load (ctlWant w s si) = .ok [(0, pl)] →
        ∃ t p, exec (.kld w) s = .next t ∧ (t.ctl si.core).mode = .load ∧ (t.ctl si.core).pend = si.ctl.pend ++ [p] ∧
          (t.ctl si.core).k = si.ctl.k ∧ t.mem = (s.walkedFor si.core si.owner (spaceOf (w.m 63 61)) (ctlWant w s si)).mem ∧
          actsOn p (.load (w.ty.getD .n8).signed (elemBytes w) 1 64) 0 [(0, pl)]) ∧
      (WellFormed .ctl (.kst w) = true → si.goes s .kst w = true →
        s.walksStuck si.owner (spaceOf (w.m 63 61)) (ctlWant w s si) = false →
        s.check (ctlReach si.core si.owner) (spaceOf (w.m 63 61)) .store (ctlWant w s si) = .ok [(0, pl)] →
        (∃ ks, pl = .here ks) →
        ∃ t p, exec (.kst w) s = .next t ∧ (t.ctl si.core).pend = si.ctl.pend ++ [p] ∧ (t.ctl si.core).k = si.ctl.k ∧
          t.mem = (s.walkedFor si.core si.owner (spaceOf (w.m 63 61)) (ctlWant w s si)).mem ∧ actsOn p .store 0 [(0, pl)])

/-- 09 R254, R256, R257, R263 to R272: EQPOP, EQWAIT, DQPUSH, KSLEEP, KHALT and KCSR complete; KHALT frees the control thread, empties
its event queue and counts its held records as dropped. -/
def Obligations.ControlQueuesAndWaits : Prop :=
  ∀ w : Ins,
    let n (s : State) (si : CtlSite) := rdK s si.core w.a % 2 ^ 32
    (∀ d, w.d = .k d →
      (∀ (s : State) (si : CtlSite) (r : EventRec) (rest : List EventRec), WellFormed .ctl (.eqpop w) = true →
        s.ctlSite? = some si → si.goes s .eqpop w = true → (s.coreOf si.core).eq = r :: rest →
        ∃ t, exec (.eqpop w) s = .next t ∧ (t.coreOf si.core).eq = rest ∧ t.mem = s.mem ∧ (t.ctl si.core).k =
          (((si.ctl.setK d r.tag.toNat).setK (d + 1) r.word1)).k ∧
          (t.coreOf si.core).lclk = max (s.coreOf si.core).lclk r.ts) ∧
      CtlNext .eqpop w (fun s si => (s.coreOf si.core).eq = []) (fun s si => ctlOn s si w fun c => (c.setK d 0).setK (d + 1) 0)) ∧
    CtlNext .eqwait w (fun s si => (s.coreOf si.core).eq ≠ []) (fun s si => s.ctlGoneOn si w si.ctl) ∧
    CtlNext .eqwait w (fun s si => (s.coreOf si.core).eq = []) (fun s si => ctlWaitsBehind s si w
      (.eqwait (if n s si = 0 then none else some ((s.coreOf si.core).clk + n s si)))) ∧
    CtlNext .ksleep w (fun s si => n s si = 0) (fun s si => s.ctlGoneOn si w si.ctl) ∧
    CtlNext .ksleep w (fun s si => n s si ≠ 0)
      (fun s si => ctlWaitsBehind s si w (.ksleep ((s.coreOf si.core).clk + n s si))) ∧
    (∀ (s : State) (si : CtlSite), s.ctlSite? = some si →
      (WellFormed .ctl (.dqpush w) = true → si.goes s .dqpush w = true → (s.coreOf si.core).dq.length < 256 →
        ∃ t, exec (.dqpush w) s = .next t ∧ t.mem = (s.drainCtl si.core).mem ∧ (t.ctl si.core).k = si.ctl.k ∧
          (t.coreOf si.core).dq = (s.coreOf si.core).dq ++ [(si.owner, BitVec.ofNat 64 (rdK s si.core w.a))]) ∧
      (WellFormed .ctl (.khalt w) = true → si.goes s .khalt w = true →
        ∃ t, exec (.khalt w) s = .next t ∧ (t.ctl si.core).mode = .free ∧ (t.ctl si.core).owner = none ∧
          (t.coreOf si.core).eq = [] ∧ (t.coreOf si.core).held = [] ∧ (t.ctl si.core).pend = [] ∧
          (t.coreOf si.core).drops % 2 ^ 16 = ((s.coreOf si.core).drops + (s.coreOf si.core).held.length) % 2 ^ 16 ∧
          t.mem = (s.drainCtl si.core).mem)) ∧
    CtlNext .kcsr w (fun _ _ => True) (fun s si =>
      let x := if w.m 56 49 = 5 then si.pc else s.coreReg si.core (w.m 56 49)
      ctlOn (s.sync si.core) si w fun c =>
        let c' := match w.d with
          | .k r => c.setK r x
          | _ => c
        if w.mb 57 then { c' with clrb := BitVec.ofNat 64 (rdK s si.core w.a % 2 ^ 48 / 64 * 64) } else c')

/-- 09 R269: a LAUNCH to no enabled, fed queue of its virtual device appends nothing and posts a record with STATUS 3; one that may
append writes its 128 bytes to the ring slot of PROD, and PROD + 1, in one event. -/
def Obligations.LaunchCompletes : Prop :=
  ∀ (w : Ins) (s : State) (si : CtlSite), WellFormed .ctl (.launch w) = true → s.ctlSite? = some si → si.goes s .launch w = true →
    let a := rdK s si.core w.a
    let b := rdK s si.core w.b
    let s₁ := s.drainCtl si.core
    a % 128 = 0 → b < 16 →
    (s.findQueue si.owner.vd b = none → ∃ t, exec (.launch w) s = .next t ∧ t.mem = s.mem ∧
      t.coreOf si.core = { (s.postEvent si.core si.owner { tag := BitVec.ofNat 64 (rdK s si.core w.c), src := 1, status := 3
                                                           unit := coreDie si.core, detail := 0 }).coreOf si.core with
        ctl := t.ctl si.core }) ∧
    ∀ qcx qu hk hk' rk s₂ bs, s.findQueue si.owner.vd b = some (qcx, qu) → s₁.span qcx qu.header 64 false = .ok hk →
      (s₁.qhead hk).enabled = true → (s₁.qhead hk).feed = true → (w.mb 49 = true → qu.die = coreDie si.core) →
      (s₁.qhead hk).waiting ≠ 2 ^ (s₁.qhead hk).log2n → s₁.ctlBytes si a 128 128 = .ok (s₂, bs) →
      s₂.span qcx qu.header 64 true = .ok hk' → s₂.span qcx ((s₁.qhead hk).slotVa (s₁.qhead hk).prod) 128 true = .ok rk →
      (s₂.keysChans false (hk' ++ rk)).any (s₂.barred (some (.fetch (.ctl si.core)))) = false →
      ∃ t, exec (.launch w) s = .next t ∧ bs.length = 128 ∧
        t.mem = (((s₂.putKeys rk bs).setQ32 hk' 12 ((s₁.qhead hk).prod + 1))).mem

end

namespace Sys2Proof.Spec

open Sys2Proof Host Machine

/-! Engines (10 to 15). -/

/-- The acting control thread goes on behind the instruction in a state that the instruction has reached. -/
def ctlThen (s : State) (si : CtlSite) (w : Ins) : State := s.onCtl si.core fun c => (c.stepOver si.pos w.len.size).stepped

/-- A state reached from `s₁`, in which the acting team is `t₁`: one operation has joined the team's, its set-flag has risen, and no
register and no byte of memory has changed. -/
def issuedFrom (s₁ : State) (t₁ : Team) (si : Site) (t : State) (p : Pend) : Prop :=
  ∃ u : Team, t.team? si.core si.slot = some u ∧ keepsRegs t₁ u ∧ u.pend = t₁.pend ++ [p] ∧ t.mem = s₁.mem ∧
    ∀ f, u.flag f = t₁.flag f + (if p.flag = some f then 1 else 0)

/-- A matrix instruction issues with every launched thread (10 R279). -/
def collective (w : Ins) (si : Site) : Prop := si.exec w = si.team.launched

/-- A, B and C of a collective instruction. -/
def uA (w : Ins) (s : State) (si : Site) : Nat := rd32 s si.core si.team 0 w.a
def uB (w : Ins) (s : State) (si : Site) : Nat := rd32 s si.core si.team 0 w.b
def uC (w : Ins) (s : State) (si : Site) : Nat := rd32 s si.core si.team 0 w.c

/-- The matrix engine of the acting core, replaced. -/
def withMx (s : State) (si : Site) (w : Ins) (f : Matrix → Matrix) : State :=
  (s.setMx si.core (f (s.mx si.core))).goneOn si w si.team

/-- The acting team's sequencer, as it waits for a channel in bank mode. -/
def mySelf (si : Site) : Waiter := .fetch (.team si.core si.slot)

/-- The pieces that MST stores (10 R295). -/
def mstWork (w : Ins) (s : State) (si : Site) (t : TileRec) (sc : List (Nat × Nat)) : List (MstPiece × Flags) :=
  let m := s.mx si.core
  let acc (n : Nat) := ((m.acc? si.slot n).map (·.words)).getD zeroAcc
  let v (i j : Nat) : Val :=
    if w.mb 49 then Fmt.f64.read false (pairElem (acc (uA w s si)) (acc (uA w s si + 1)) (16 * i + j))
    else Fmt.f32.read false ((acc (uA w s si)).getD (16 * i + j) 0).toNat
  let code (li : Nat) := ((sc.find? fun x => x.1 == li / 32).map (·.2)).getD 127
  (mstPieces t (mstCtl si.team w) (bits (uC w s si) 15 0) (bits (uC w s si) 31 16) v code).insertionSort
    fun x y => x.1.addr ≤ y.1.addr

/-- The kicker of a CPKICK (11 R313). -/
def teamKicker (si : Site) (r : Reach) : Kicker :=
  { core := si.core, cx := r.cx, byCtl := false, gang := si.team.gang, index := si.team.index, slot := si.slot, reach := r }

def ctlKicker (si : CtlSite) : Kicker :=
  { core := si.core, cx := si.owner, byCtl := true, gang := 0, index := 0, slot := 0xFF, reach := ctlReach si.core si.owner }

/-- The checks of a filter instruction, and how many levels it answers (12 R344 to R346). -/
def filterTable (w : Ins) : List (Op × (State → Reach → Nat → Checked (FilterWork × Window))) :=
  [(.texs, fun s re ra => (s.texRecord re ra).map fun x => (.texs x.1 (w.mb 51) (2 ^ w.m 50 49), x.2)),
   (.hgl, fun s re ra => (s.gridRecord re ra (w.m 52 49) (w.m 56 53 + 1)).map fun x => (.hgl x.1 (w.m 52 49), x.2)),
   (.resq, fun s re ra => (s.texRecord re ra).map fun x => (.resq x.1 (w.mb 51) (w.mb 52), x.2))]

end Sys2Proof.Spec

section

open Sys2Proof Host Sys2Proof.Machine Sys2Proof.Spec

/-- 10 R279: a matrix instruction that not every launched thread issues raises CONV. -/
def Sys2Proof.Spec.CollectiveMask : Prop :=
  ∀ (w : Ins) (s : State) (si : Site), s.site? = some si → ¬collective w si →
    ∀ o ∈ ([.tclaim, .trels, .aclaim, .arels, .mfetch, .mlist, .mnext, .mma, .mzero, .mrd, .mwr, .mwrT, .mst, .mscl, .mstat] :
      List Op), WellFormed .team (Instr.ofOp o w) = true → si.goes s o w = true →
      exec (Instr.ofOp o w) s = .next (s.trapSite si ⟨clsCONV, 0, 0⟩ w.len.size)

/-- 10 R280, R281, R293: a claim whose units are all free takes them, slots EMPTY and accumulators +0, and one that must wait joins the
core's claims; a release frees its units; MZERO clears an accumulator. -/
def Sys2Proof.Spec.MatrixUnits : Prop :=
  ∀ w : Ins,
    let m (s : State) (si : Site) := s.mx si.core
    let all (acc : Bool) (s : State) (si : Site) (f : Nat → Bool) : Prop :=
      collective w si ∧ (acc = true → uA w s si < 2 ^ 16) ∧ ∀ n, n < 32 → bitAt (uA w s si) n = true → f n = true
    let held (acc : Bool) (s : State) (si : Site) (n : Nat) : Bool :=
      if acc then ((m s si).acc? si.slot n).isSome else ((m s si).held? si.slot n).isSome
    (∀ x ∈ ([(.tclaim, false), (.aclaim, true)] : List (Op × Bool)),
      TeamNext x.1 w (fun s si => all x.2 s si ((m s si).isFree x.2) ∧ unitsOf (uA w s si) ≠ [] ∧ (m s si).claims = [])
        (fun s si => withMx s si w fun m => m.take si.slot x.2 (unitsOf (uA w s si))) ∧
      TeamNext x.1 w (fun s si => all x.2 s si (fun n => !held x.2 s si n) ∧ unitsOf (uA w s si) ≠ [] ∧ (m s si).claims ≠ [])
        (fun s si => blockedBehind (s.setMx si.core { m s si with claims := (m s si).claims ++ [{ slot := si.slot, entry := si.entry }] })
          si w si.team (.claim x.2 (uA w s si)))) ∧
    (∀ x ∈ ([(.trels, false), (.arels, true)] : List (Op × Bool)),
      TeamNext x.1 w (fun s si => all x.2 s si (held x.2 s si) ∧ (x.2 = false → ∀ n ∈ unitsOf (uA w s si), si.team.inRing n = false))
        (fun s si => withMx s si w fun m => m.drop x.2 (unitsOf (uA w s si)))) ∧
    ∀ y, TeamNext .mzero w (fun s si => collective w si ∧ uA w s si < 16 ∧ (m s si).acc? si.slot (uA w s si) = some y)
      (fun s si => withMx s si w fun m => { m with accs := m.accs.set (uA w s si) { y with words := List.replicate 256 0 } })

/-- 10 R278 to R281, R293: what a collective mask covers, and the claims of units. -/
def Obligations.MatrixUnits : Prop := Spec.CollectiveMask ∧ Spec.MatrixUnits

/-- 10 R282 to R287, R297 to R301: MFETCH of a valid record, whose tile lies in reach, starts a fetch into its slot, and waits behind
itself while the fetch's locks do not settle; MLIST of a valid descriptor starts a walk, active from its first entry; MNEXT hands
over the oldest ready entry, waits where none is ready, and traps at a bad one. -/
def Obligations.FetchesAndWalks : Prop :=
  ∀ (w : Ins) (s : State) (si : Site) (re : Reach), s.site? = some si → collective w si → s.reachOf si.team = some re →
    let s₁ := s.drainTeam si.core si.slot
    let base := si.team.lrb.toNat
    (∀ tile, WellFormed .team (.mfetch w) = true → si.goes s .mfetch w = true →
      ((s.mx si.core).held? si.slot (w.m 57 53)).isSome = true → si.team.inRing (w.m 57 53) = false →
      s₁.readOperand (mySelf si) re base (uB w s si) = .ok tile →
      let at' := fetchCoords w.imm.toNat (uA w s si)
      s₁.tileOut re tile at'.1 at'.2 = none → s₁.barDead si.team.gang (w.m 52 49) = false →
      let r := (s₁.recordRead (mySelf si) si.core re.cx base (uB w s si)).startFetch si.core si.slot si.team re false
        (some (si.team.gang, w.m 52 49)) { slot := w.m 57 53, tile := tile, row := at'.1, col := at'.2, walk := none }
      (r.2.opsSettled [r.1] = true → exec (.mfetch w) s = .next (r.2.retireIns si w.len.size)) ∧
      (r.2.opsSettled [r.1] = false → exec (.mfetch w) s = .next (r.2.updTeam si.core si.slot fun t =>
        ((t.count si s).stepOver si.entry si.pos w.len.size).blockSplit si.entry (.locks [r.1])))) ∧
    (∀ (d : WalkDesc) (a b : TileRec), WellFormed .team (.mlist w) = true → si.goes s .mlist w = true →
      si.team.walkActive = false → s₁.readWalk (mySelf si) re (rd64 s si.core si.team 0 w.a) = .ok d → d.team = 0 →
      d.ok (s₁.mx si.core) si.slot = true → s₁.barDead si.team.gang (w.m 52 49) = false →
      s₁.readOperand (mySelf si) re base d.ah = .ok a → s₁.readOperand (mySelf si) re base d.bh = .ok b →
      ∃ t u k, exec (.mlist w) s = .next t ∧ t.team? si.core si.slot = some u ∧ u.walk = some k ∧ k.state = 1 ∧
        k.list = d.list ∧ k.ah = d.ah ∧ k.bh = d.bh ∧ k.ntile = d.ntile ∧ k.ring = unitsOf d.ring ∧ k.maxent = d.maxent ∧
        k.bar = w.m 52 49 ∧ k.read = 0 ∧ k.ready = [] ∧ k.rows = 0 ∧ keepsRegs si.team u ∧ (noTileLines s₁ → t.mem = s₁.mem)) ∧
    ∀ (k : Walk) (d : Nat), WellFormed .team (.mnext w) = true → si.goes s .mnext w = true → si.team.walk = some k →
      w.d = .s d → k.active = true →
      ((k.freeLast).ready = [] →
        exec (.mnext w) s = .next (s.setTeam si.core si.slot ({ si.team with walk := some k.freeLast }.blockSplit si.entry .mnext))) ∧
      ∀ x rest, (k.freeLast).ready = x :: rest →
        (x.kind ≠ 3 → exec (.mnext w) s = .next (s.goneOn si w (({ si.team with walk := some ((k.freeLast).deliver x) }.setS d
          (x.words (k.freeLast).rows).1).setS (d + 1) (x.words (k.freeLast).rows).2))) ∧
        (x.kind = 3 →
          let bad := Team.noteMx x.cls x.reason { si.team with walk := some { k.freeLast with ready := [] } }
          exec (.mnext w) s = .next (s.trapSite { si with team := bad } ⟨x.cls, 0, 0⟩ w.len.size))

/-- 10 R288 to R294: MMA accumulates into its accumulators and keeps its flags; MRD and MSTAT join the team's operations; MWR, MWR.t and
MSCL write an accumulator, a slot and a slot's scales from the team's registers. -/
def Sys2Proof.Spec.MatrixArithmeticAndMoves : Prop :=
  ∀ (w : Ins) (s : State) (si : Site), s.site? = some si → collective w si →
    let m := s.mx si.core
    (∀ x y z, WellFormed .team (.mma w) = true → si.goes s .mma w = true → uA w s si < 32 → uB w s si < 32 →
      uC w s si < 2 ^ 20 → bits (uC w s si) 7 4 = 0 → bits (uC w s si) 15 12 = 0 → m.held? si.slot (uA w s si) = some x →
      m.held? si.slot (uB w s si) = some y → m.acc? si.slot (bits (uC w s si) 3 0) = some z →
      mmaBad m si.slot (bits (uC w s si) 3 0) (bits (uC w s si) 11 8) (bits (uC w s si) 19 16) x y = none →
      let r := m.mma (bits (uC w s si) 3 0) (bits (uC w s si) 11 8) (bits (uC w s si) 19 16) x y
      exec (.mma w) s = .next ((s.setMx si.core r.1).goneOn si w { si.team with mflags := si.team.mflags ||| r.2 })) ∧
    (∀ d x, WellFormed .team (.mrd w) = true → si.goes s .mrd w = true → w.d = .v d → uA w s si < 16 →
      m.acc? si.slot (uA w s si) = some x →
      ∃ t p, exec (.mrd w) s = .next t ∧ issuedFrom s si.team si t p ∧ p.flag = si.flagOf w ∧
        p.work = .results ((x.words.zipIdx).map fun y => .v (y.2 % si.team.threads) (d + y.2 / si.team.threads) y.1)
          si.team.mflags) ∧
    (∀ d, WellFormed .team (.mstat w) = true → si.goes s .mstat w = true → w.d = .s d →
      ∃ t p, exec (.mstat w) s = .next t ∧ issuedFrom s si.team si t p ∧ p.flag = si.flagOf w ∧
        p.work = if s.matrixBusy si.team s.nextId then .mstat (w.m 50 49) d
          else .results [.s d (BitVec.ofNat 32 (s.mstatWord si.core si.slot si.team (w.m 50 49)))] si.team.mflags) ∧
    (∀ a x, WellFormed .team (.mwr w) = true → si.goes s .mwr w = true → w.a = .v a → uB w s si < 16 →
      m.acc? si.slot (uB w s si) = some x →
      exec (.mwr w) s = .next (withMx s si w fun m =>
        { m with accs := m.accs.set (uB w s si) { x with words := imageWords si.team a 256 } })) ∧
    (∀ a x tr tc roleB sc, WellFormed .team (.mwrT w) = true → si.goes s .mwrT w = true → w.a = .v a →
      s.slotFor si (uB w s si) = .ok x → shapeWord (w.ty.getD .n8) (uC w s si) = some (tr, tc, roleB, sc) →
      si.team.imageFits a (tr * tc * (w.ty.getD .n8).elemBits / 32) = true →
      exec (.mwrT w) s = .next (withMx s si w fun m => { m with slots := m.slots.set (uB w s si) { x with
        st := .full, ty := w.ty.getD .n8, roleB := roleB, scaled := sc, lines := if roleB then tc else tr
        k := if roleB then tr else tc, tail := none, fifo := []
        image := (imageWords si.team a (tr * tc * (w.ty.getD .n8).elemBits / 32)).flatMap fun y => leBytes 4 y.toNat } })) ∧
    ∀ a x, WellFormed .team (.mscl w) = true → si.goes s .mscl w = true → w.a = .v a → s.slotFor si (uB w s si) = .ok x →
      x.st = .full → 0 < uC w s si → x.fifo.length + uC w s si ≤ 1024 → si.team.imageFits a (ceilDiv (uC w s si) 4) = true →
      exec (.mscl w) s = .next (withMx s si w fun m => { m with slots := m.slots.set (uB w s si) { x with
        fifo := x.fifo ++ ((imageWords si.team a (ceilDiv (uC w s si) 4)).flatMap fun y => leBytes 4 y.toNat).take (uC w s si) } })

/-- 10 R295, R296: an MST whose accumulators, record and addresses pass the checks joins the team's operations with its stores, one for
each crumb in ascending address order, and joins their flags to TSR; it changes no accumulator and no register but TSR. -/
def Sys2Proof.Spec.MatrixStore : Prop :=
  ∀ (w : Ins) (s : State) (si : Site) (re : Reach) (t : TileRec) (sc : List (Nat × Nat)) (places : List (Nat × Place)),
    WellFormed .team (.mst w) = true → s.site? = some si → si.goes s .mst w = true → collective w si →
    s.reachOf si.team = some re → uA w s si < 16 → ((s.mx si.core).acc? si.slot (uA w s si)).isSome = true →
    (w.mb 49 = true → uA w s si % 2 = 0 ∧ ((s.mx si.core).acc? si.slot (uA w s si + 1)).isSome = true) →
    let s₁ := s.drainTeam si.core si.slot
    let base := si.team.lrb.toNat
    s₁.readTile (mySelf si) re base (uB w s si) = .ok t → mstBad t (w.mb 49) = none →
    s₁.mstScales re t (bits (uC w s si) 15 0) (bits (uC w s si) 31 16) = .ok sc →
    t.splitsPoint (bits (uC w s si) 15 0) (bits (uC w s si) 31 16) = false →
    let wants : List Want := (mstWork w s si t sc).map fun x => { tid := 0, ea := x.1.addr, len := x.1.len, align := 1 }
    s₁.walksStuck re.cx t.space wants = false → s₁.check re t.space .store wants = .ok places →
    let s₂ := (s₁.recordRead (mySelf si) si.core re.cx base (uB w s si)).walkedFor si.core re.cx t.space wants
    let items := s₂.mstItems si re t.space ((mstWork w s si t sc).map (·.1))
    winfHolds si items = false →
    ∃ t' t₁ u p, exec (.mst w) s = .next t' ∧ s₁.team? si.core si.slot = some t₁ ∧ t'.team? si.core si.slot = some u ∧
      u.pend = t₁.pend ++ [p] ∧ p.flag = none ∧ p.work = .mem .store 0 (items.filter fun x => !x.isRemote) [] ∧ t'.mem = s₂.mem ∧
      u.rpend = si.team.rpend + (items.filter MemItem.isRemote).length ∧ (t'.mx si.core).accs = (s.mx si.core).accs ∧
      u.v = si.team.v ∧ u.s = si.team.s ∧ u.p = si.team.p ∧
      u.tsr = si.team.tsr ||| BitVec.ofNat 32 (Flags.all ((mstWork w s si t sc).map (·.2)))

/-- 10 R288 to R296: the matrix engine's arithmetic, moves and store. -/
def Obligations.MatrixArithmeticAndMoves : Prop := Spec.MatrixArithmeticAndMoves ∧ Spec.MatrixStore

/-- 11 R310 to R316, R326: a CPKICK whose slots pass the checks enters its requests in slot order and counts them in its sequence, and
waits behind itself while their locks do not settle; one with no room waits at itself; CPSTAT joins the team's operations. -/
def Obligations.CopiesComplete : Prop :=
  ∀ (w : Ins),
    (∀ (s : State) (si : Site) (re : Reach), s.site? = some si → s.reachOf si.team = some re →
      let s₁ := s.drainTeam si.core si.slot
      WellFormed .team (.cpkick w) = true → si.goes s .cpkick w = true →
      (∀ l, s₁.kick (teamKicker si re) .s (uA w s si) (uB w s si) = .ok l →
        let r := (s₁.undefer (mySelf si)).enterCopies (teamKicker si re) si.team.copySeq l
        let s₂ := r.2.updTeam si.core si.slot fun t => { t with copySeq := (t.copySeq + l.length) % 2 ^ 16 }
        (s₂.opsSettled r.1 = true → exec (.cpkick w) s = .next (s₂.retireIns si w.len.size)) ∧
        (s₂.opsSettled r.1 = false → exec (.cpkick w) s = .next (s₂.updTeam si.core si.slot fun t =>
          ((t.count si s).stepOver si.entry si.pos w.len.size).blockSplit si.entry (.locks r.1)))) ∧
      (s₁.kick (teamKicker si re) .s (uA w s si) (uB w s si) = .full →
        exec (.cpkick w) s = .next (s₁.updTeam si.core si.slot fun t => t.blockSplit si.entry .room))) ∧
    (∀ (s : State) (si : CtlSite) (l : List (CopySlot × Nat)), s.ctlSite? = some si → WellFormed .ctl (.cpkick w) = true →
      si.goes s .cpkick w = true →
      (s.drainCtl si.core).kick (ctlKicker si) .g (rdK s si.core w.a) (rdK s si.core w.b) = .ok l →
      let r := ((s.drainCtl si.core).undefer (.fetch (.ctl si.core))).enterCopies (ctlKicker si) si.ctl.copySeq l
      let s₂ := r.2.onCtl si.core fun c => { c with copySeq := (c.copySeq + l.length) % 2 ^ 16 }
      (s₂.opsSettled r.1 = true → exec (.cpkick w) s = .next (ctlThen s₂ si w)) ∧
      (s₂.opsSettled r.1 = false → exec (.cpkick w) s = .next (s₂.onCtl si.core fun c =>
        { c.stepOver si.pos w.len.size with mode := .locks r.1 }))) ∧
    ∀ (s : State) (si : Site) (d : Nat), s.site? = some si → WellFormed .team (.cpstat w) = true → si.goes s .cpstat w = true →
      w.d = .s d → ∃ t p, exec (.cpstat w) s = .next t ∧ issuedFrom s si.team si t p ∧ p.flag = si.flagOf w ∧
        p.work = .results [.s d (BitVec.ofNat 32 (s.cpstatWord si.team (w.mb 49)))] 0

/-- 12 R344 to R348: TEXS, HGL and RESQ whose record passes its checks send one request to the engine of its window's stack, with the
coordinates of the executing threads, and join the team's operations. -/
def Obligations.FilterRequests : Prop :=
  ∀ (w : Ins) (s : State) (si : Site) (re : Reach) (b : Nat), s.site? = some si → s.reachOf si.team = some re → w.b = .v b →
    let s₁ := s.drainTeam si.core si.slot
    ∀ x ∈ filterTable w, ∀ (t₁ : Team) (work : FilterWork) (win : Window), WellFormed .team (Instr.ofOp x.1 w) = true →
      si.goes s x.1 w = true → s₁.team? si.core si.slot = some t₁ →
      x.2 s₁ re (rd64 s si.core si.team 0 w.a) = .ok (work, win) →
      ∃ t p q, exec (Instr.ofOp x.1 w) s = .next t ∧ issuedFrom s₁ t₁ si t p ∧ p.flag = si.flagOf w ∧ p.work = .filter ∧
        t.filters.get? p.id = some q ∧ q.stack = win.stack ∧ q.work = work ∧ q.cx = re.cx ∧
        q.args = (threadsOf si.team.threads (si.exec w)).map fun tid =>
          { tid := tid, a := si.team.vreg tid b, b := si.team.vreg tid (b + 1), c := si.team.vreg tid (b + 2) }

/-- 13 R367, R370, R378 to R380: RAYS sends its threads' rays and counts them while they fit, else it waits; HITR joins the team's
operations; CANDV adds its verdicts in thread order. -/
def Sys2Proof.Spec.RayInstructions : Prop :=
  ∀ (w : Ins) (s : State) (si : Site) (cx : CtxId), s.site? = some si → s.teamCx si.team = some cx →
    let ts := threadsOf si.team.threads (si.exec w)
    let rs := ts.map (rayOf s si w cx (uA w s si))
    let n := (rs.filter fun r => !r.bad).length
    (WellFormed .team (.rays w) = true → si.goes s .rays w = true → uA w s si < 2 ^ 16 → tlValid (uA w s si) = true →
      (n = 0 ∨ si.team.rays + n ≤ 4096 ∧
        (s.rays.filter fun x => x.2.cx.vd == cx.vd).length + n ≤ s.raylim (tlStack (uA w s si)) cx.vd →
        exec (.rays w) s = .next (((s.drainTeam si.core si.slot).sendRays si rs).retireIns si w.len.size)) ∧
      (0 < n ∧ (4096 < si.team.rays + n ∨
        s.raylim (tlStack (uA w s si)) cx.vd < (s.rays.filter fun x => x.2.cx.vd == cx.vd).length + n) →
        exec (.rays w) s = .next (blockedAt s si .rays))) ∧
    (∀ d, WellFormed .team (.hitr w) = true → si.goes s .hitr w = true → w.d = .v d →
      ∃ t p, exec (.hitr w) s = .next t ∧ issuedFrom s si.team si t p ∧ p.flag = si.flagOf w ∧
        p.work = .hitr ts d (si.team.writeMask w) w.zero (w.mb 49)) ∧
    (WellFormed .team (.candv w) = true → si.goes s .candv w = true →
      (∀ tid ∈ ts, rd32 s si.core si.team tid w.b ≤ 2) →
      exec (.candv w) s = .next (s.goneOn si w { si.team with verdicts := si.team.verdicts ++
        (ts.map fun tid => (BitVec.ofNat 32 (rd32 s si.core si.team tid w.a), rd32 s si.core si.team tid w.b)) }))

/-- 13 R354, R355, R372, R373, R381, R382: TCLOSE, TLPUB and TRSTAT of a valid treelet id join their engine's commands, which run in
order as far as they may. -/
def Sys2Proof.Spec.TreeletCommands : Prop :=
  ∀ (w : Ins) (s : State) (si : CtlSite), s.ctlSite? = some si → rdK s si.core w.a < 2 ^ 16 →
    tlValid (rdK s si.core w.a) = true →
    ∀ x ∈ ([(.tclose, 0), (.tlpub, 1), (.trstat, 2)] : List (Op × Nat)), WellFormed .ctl (Instr.ofOp x.1 w) = true →
      si.goes s x.1 w = true →
      let s₁ := s.drainCtl si.core
      let id := rdK s si.core w.a
      let k := 16 * si.core + tlStack id
      let c : TlCmd := { cx := si.owner, kind := x.2, id := id, base := rdK s si.core w.b, size := rdK s si.core w.c }
      exec (Instr.ofOp x.1 w) s =
        .next (ctlThen ({ s₁ with tlq := s₁.tlq.set k (s₁.tlq.get [] k ++ [c]) }.tlRunAll si.core (tlStack id)) si w)

/-- 13 R366, R377 to R386: the ray instructions and the treelet commands. -/
def Obligations.RaysAndTreelets : Prop := Spec.RayInstructions ∧ Spec.TreeletCommands

/-- 14 R393, R396 to R400: a stack command whose address lies in no channel of its windows is refused with reason 3 (SACC's misaligned
destination first, with 8), SBANK of a group that is not plain with 5, SVB's entry above 15 with 8, and SRED's bad block with 1;
the thread goes on behind the refusal. -/
def Sys2Proof.Spec.StackRefusals : Prop :=
  ∀ (w : Ins) (s : State) (si : CtlSite), s.ctlSite? = some si →
    let s₁ := s.drainCtl si.core
    let a := rdK s₁ si.core w.a
    let refused (tag : W64) (unit reason hi : Nat) : Outcome State Fault Refusal :=
      .next (ctlThen (s₁.stackRecord si.core si.owner tag unit 3 reason hi) si w)
    (∀ o ∈ ([.sbank, .svb, .smac, .sbexit] : List Op), WellFormed .ctl (Instr.ofOp o w) = true → si.goes s o w = true →
      s₁.channelAt si.owner a = none → exec (Instr.ofOp o w) s = refused (BitVec.ofNat 64 a) 0xFFFF 3 0) ∧
    (WellFormed .ctl (.sacc w) = true → si.goes s .sacc w = true → s₁.channelAt si.owner a = none →
      exec (.sacc w) s = refused (BitVec.ofNat 64 a) 0xFFFF (if rdK s₁ si.core w.b % 64 = 0 then 3 else 8) 0) ∧
    (∀ stack pc, s₁.channelAt si.owner a = some (stack, pc) →
      (WellFormed .ctl (.sbank w) = true → si.goes s .sbank w = true → s₁.plain.get false (8 * stack + pc / 8) = false →
        exec (.sbank w) s = refused (BitVec.ofNat 64 a) stack 5 pc) ∧
      (WellFormed .ctl (.svb w) = true → si.goes s .svb w = true → 15 < rdK s₁ si.core w.c →
        exec (.svb w) s = refused (BitVec.ofNat 64 a) stack 8 pc)) ∧
    ∀ s₂ bs, WellFormed .ctl (.sred w) = true → si.goes s .sred w = true → s₁.ctlBytes si a 64 64 = .ok (s₂, bs) →
      (parseSred bs).ok = false →
      exec (.sred w) s = .next (ctlThen (s₂.stackRecord si.core si.owner (BitVec.ofNat 64 (parseSred bs).tag) 0xFFFF 3 1
        (parseSred bs).nsrc) si w)

/-- 14 R388 to R400: a stack command that passes its checks at issue enters its engine, behind the registration of its range locks: SRED
its block's, SMAC the 128 KiB of its row, SACC its destination. -/
def Sys2Proof.Spec.StackCommands : Prop :=
  ∀ (w : Ins) (s : State) (si : CtlSite), s.ctlSite? = some si →
    let s₁ := s.drainCtl si.core
    let a := rdK s₁ si.core w.a
    let tag := BitVec.ofNat 64 a
    let enters (s₂ : State) (stack : Nat) (tag : W64) (silent : Bool) (work : StackWork) (op : Option Nat) :
        Outcome State Fault Refusal := .next (s.finishCtl si w.len.size (enterStack s₂ si stack tag silent work op))
    (∀ stack pc, s₁.channelAt si.owner a = some (stack, pc) → s₁.stackFull stack = false →
      (WellFormed .ctl (.sbank w) = true → si.goes s .sbank w = true → s₁.plain.get false (8 * stack + pc / 8) = true →
        exec (.sbank w) s = enters s₁ stack tag false (.bank pc) none) ∧
      (WellFormed .ctl (.sbexit w) = true → si.goes s .sbexit w = true →
        exec (.sbexit w) s = enters s₁ stack tag false (.exit pc) none) ∧
      (∀ b, WellFormed .ctl (.svb w) = true → si.goes s .svb w = true → w.b = .k b → rdK s₁ si.core w.c ≤ 15 →
        exec (.svb w) s = enters s₁ stack tag (w.mb 60) (.svb pc (rdK s₁ si.core w.c) (rdK s₁ si.core (.k b) +
          2 ^ 64 * rdK s₁ si.core (.k (b + 1)) + 2 ^ 128 * rdK s₁ si.core (.k (b + 2)) +
          2 ^ 192 * rdK s₁ si.core (.k (b + 3)))) none) ∧
      (WellFormed .ctl (.smac w) = true → si.goes s .smac w = true → s₁.bankMapped si.owner a = true →
        let o := channelOffset ((s₁.windowPA si.owner a).getD 0)
        let b := rdK s₁ si.core w.b
        bits o 13 10 = 0 → bits o 4 0 = 0 → b < 32 → bits o 9 5 + b + 1 ≤ 32 → w.m 59 54 + b + 1 ≤ 64 →
        let r := s₁.enterOp (stackOp s₁ si [{ space := .global, base := alignDown a (2 ^ 17), len := 2 ^ 17, write := false }] .bank)
        exec (.smac w) s = enters r.2 stack tag (w.mb 60) (.smac pc (bits o 29 14) (bits o 9 5) (b + 1)
          (if w.mb 53 then none else some (w.m 52 49)) (w.m 59 54) r.1) (some r.1)) ∧
      (WellFormed .ctl (.sacc w) = true → si.goes s .sacc w = true →
        let d := rdK s₁ si.core w.b
        let n := w.m 60 55 + 1
        d % 64 = 0 → s₁.inWindows si.owner d (64 * n) = true → s₁.meetsChannel si.owner d (64 * n) stack pc = false →
        let r := s₁.enterOp (stackOp s₁ si [{ space := .global, base := d, len := 64 * n, write := true }] .bank)
        exec (.sacc w) s = enters r.2 stack tag (w.mb 62) (.sacc pc d (w.m 54 49) n (w.mb 61) r.1 none) (some r.1))) ∧
    ∀ s₂ s₃ bs cs stack, WellFormed .ctl (.sred w) = true → si.goes s .sred w = true → s₁.ctlBytes si a 64 64 = .ok (s₂, bs) →
      let b := parseSred bs
      b.ok = true → s₂.ctlBytes si b.sptr (8 * b.nsrc) 8 = .ok (s₃, cs) →
      let srcs := (List.range b.nsrc).map fun i => field cs (8 * i) 8
      (∀ x ∈ srcs, x % 64 = 0) → s₃.sredPlace si.owner b srcs = .ok stack → s₃.stackFull stack = false →
      let r := s₃.enterOp (stackOp s₃ si ((srcs.map fun x => { space := .global, base := x, len := b.bytes, write := false }) ++
          [{ space := .global, base := b.dst, len := b.bytes, write := true }])
        (.sred { stack := stack, op := b.op, ty := sredType b.fmt, count := b.count, srcs := srcs, dst := b.dst, flag := b.flag
                 fval := BitVec.ofNat 64 b.fval, tag := BitVec.ofNat 64 b.tag, left := List.range (ceilDiv b.bytes 64) }))
      exec (.sred w) s = enters r.2 stack (BitVec.ofNat 64 b.tag) false (.sred r.1) (some r.1)

/-- 14 R388 to R399: the commands of the stack arithmetic engines, and their refusals. -/
def Obligations.StackCommands : Prop := Spec.StackRefusals ∧ Spec.StackCommands

/-- 15 R417 to R431: a raster command of a control thread takes its place behind the thread's earlier ones: RSTATE sets the item it
names or is refused with reason 4; DRAW, RCLEAR and RSYNC are read from their records; RRESOLVE of a record that is no surface is
refused with reason 1. -/
def Sys2Proof.Spec.RasterCommands : Prop :=
  ∀ (w : Ins) (s : State) (si : CtlSite), s.ctlSite? = some si →
    let s₁ := s.drainCtl si.core
    let a := rdK s si.core w.a
    let a₁ := rdK s₁ si.core w.a
    let imm := w.imm.toNat
    (∀ r, WellFormed .ctl (.rstate w) = true → si.goes s .rstate w = true →
      si.ctl.raster.write (bits imm 31 28) (bits imm 27 0) w.a.isK a = some r →
      exec (.rstate w) s = .next (ctlThen ((s.onCtl si.core fun c => { c with raster := r }).enterRaster si a
        (.done 0 (BitVec.ofNat 64 a) 0)) si w)) ∧
    (WellFormed .ctl (.rstate w) = true → si.goes s .rstate w = true →
      si.ctl.raster.write (bits imm 31 28) (bits imm 27 0) w.a.isK a = none →
      exec (.rstate w) s = .next (ctlThen (s.enterRaster si a (.done 3 (BitVec.ofNat 64 a) 4)) si w)) ∧
    (WellFormed .ctl (.draw w) = true → si.goes s .draw w = true →
      exec (.draw w) s = .next (ctlThen (s₁.enterRaster si a₁ (.draw a₁ (rdK s₁ si.core w.b) si.ctl.raster none)) si w)) ∧
    (WellFormed .ctl (.rclear w) = true → si.goes s .rclear w = true → (w.mb 50 = true ∨ w.mb 49 = true ∧ w.b = .z) →
      exec (.rclear w) s = .next (ctlThen (s₁.enterRaster si a₁
        (.clear a₁ (w.mb 49) (w.mb 50) (BitVec.ofNat 32 (rdK s₁ si.core w.b)) none)) si w)) ∧
    (WellFormed .ctl (.rsync w) = true → si.goes s .rsync w = true →
      exec (.rsync w) s = .next (ctlThen (s₁.enterRaster si a₁ (.sync a₁ (rdK s₁ si.core w.b) none)) si w)) ∧
    ∀ s' bs, WellFormed .ctl (.rresolve w) = true → si.goes s .rresolve w = true → s₁.ctlBytes si a₁ 64 64 = .ok (s', bs) →
      (parseSurface bs = none →
        exec (.rresolve w) s = .next (ctlThen (s'.enterRaster si a₁ (.done 3 (BitVec.ofNat 64 a₁) 1)) si w)) ∧
      ∀ r, parseSurface bs = some r → r.cmp = true → s'.surfaceOk si.owner r = true →
        let e := s'.enterOp (stackOp s' si [resolveRange r (w.mb 49)] .resolve)
        let s₂ := { e.2 with rcmds := e.2.rcmds.set e.1 (rasterCmd e.2 si a₁ (.resolve r (w.mb 49) 0 0)) }
        exec (.rresolve w) s = .next (if s₂.opsSettled [e.1] then ctlThen s₂ si w
          else s₂.onCtl si.core fun c => { c.stepOver si.pos w.len.size with mode := .locks [e.1] })

/-- 15 R422: PXOUT of a pixel team that has sent no packet completes at issue: its DRAW gets the packet, which follows the team's
accesses and frames that have not completed, and nothing else of the team or of memory changes; a team that is no pixel team, or has
sent its packet, raises PROT. -/
def Sys2Proof.Spec.PixelOutput : Prop :=
  ∀ (w : Ins) (s : State) (si : Site), WellFormed .team (.pxout w) = true → s.site? = some si → si.goes s .pxout w = true →
    ((si.team.pixel = none ∨ ∃ px, si.team.pixel = some px ∧ px.sent = true) →
      exec (.pxout w) s = .next (s.trapSite si ⟨clsPROT, 0, 0⟩ w.len.size)) ∧
    ∀ px, si.team.pixel = some px → px.sent = false →
      let n := s.newId
      let q : Packet := { id := n.1, after := si.team.unplaced, frames := n.2.unackedFrames si.team.owner
                          frags := fragmentsOf n.2 si w si.team px (si.exec w) }
      ∃ t u, exec (.pxout w) s = .next t ∧ t.team? si.core si.slot = some u ∧ u.pixel = some { px with sent := true } ∧
        u.v = si.team.v ∧ u.s = si.team.s ∧ u.p = si.team.p ∧ u.pend = si.team.pend ∧ t.mem = s.mem ∧
        t.rcmds = s.rcmds.alter px.cmd fun c => { c with work := c.work.addPacket si.team.gang q }

/-- 15 R417 to R430: the raster commands, and PXOUT. -/
def Obligations.RasterCommandsAndOutput : Prop := Spec.RasterCommands ∧ Spec.PixelOutput

end

namespace Sys2Proof.Spec

open Sys2Proof Host Machine

/-! Steps of the device (the events of the opcode table), which the agenda names (log 1). -/

/-- The control thread of a core runs again; a debugger's single step ends with its wait. -/
def ctlAwake (s : State) (core : Nat) : State := s.setCtl core ({ s.ctl core with mode := .running }).stepped

/-- No crumb that the accesses of these operations reach lies in a channel that bars them (14 R401). -/
def freeOfBanks (s : State) (ps : List Pend) : Prop :=
  ∀ p ∈ ps, ∀ act hint items ws, p.work = .mem act hint items ws → ∀ x ∈ items, ∀ keys, x.place = .here keys →
    ∀ c ∈ crumbsOf keys, s.barred none (chanOf (64 * c.1)) = false

/-- No channel in bank mode bars a step that reaches these channels (14 R396). -/
def unbarred (s : State) (w : Waiter) (chans : List Nat) : Prop := chans.any (s.barred (some w)) = false

/-- The only operation of the list with this name. -/
def isOp (ps : List Pend) (op : Nat) (q : Pend) : Prop := q ∈ ps ∧ q.id = op ∧ ∀ x ∈ ps, x.id = op → x = q

/-- A long-latency operation that may end now (05 R131; 10 R302; 13 R379): its results are known, or it is a load or a returning
atomic of this device whose items span at most two crumbs each, a HITR that need not wait, or an MSTAT behind no fetch. -/
def mayEnd (s : State) (t : Team) (op : Nat) (q : Pend) : Prop :=
  match q.work with
  | .results .. => True
  | .mem act _ items _ => (∀ op' ty, act ≠ .atomic op' ty false) ∧ act ≠ .store ∧
      ∀ x ∈ items, ∃ keys, x.place = .here keys ∧ ((keys.map (· / 64)).dedup).length ≤ 2
  | .hitr _ _ _ _ wait => wait = false ∨ t.hits ≠ [] ∨ t.rays = 0
  | .mstat .. => s.matrixBusy t op = false
  | _ => False

/-- The pages that Renweaz writes keep the rules of partitions and windows, and set CMP on no window that a request reads (03 R67,
12 R328, R329). -/
def mayMap (s : State) (ptes : List (Nat × Nat)) : Prop :=
  (∀ x ∈ (s.writePtes ptes).ctxs, (s.writePtes ptes).tablesGood ⟨x.1 / 64, x.1 % 64⟩ x.2 = true) ∧
  s.cmpComes (s.writePtes ptes) = false

end Sys2Proof.Spec

section

open Sys2Proof Host Sys2Proof.Machine Sys2Proof.Spec

/-- 05 R126 to R129, 07 R194 to R200, R212: the steps of a team's sequencer. A team that runs and may pass chooses its next ready
split; one between clauses starts the clause at its pc; a sleep ends at its cycle; a team that has requested for 1,024 cycles is
promoted; a role switch happens with enough registers; claims are granted in order. -/
def Sys2Proof.Spec.SplitSteps : Prop :=
  ∀ (s : State) (core slot e : Nat) (t : Team) (p : Split), s.team? core slot = some t →
    (s.teamRuns t = true → t.leaving = none → t.mayPass = true →
      exec (.quantumExpiry core slot) s = .next (s.switchSplit core slot t)) ∧
    (s.teamRuns t = true → t.leaving = none → t.pendingRole = none → t.running = some e → t.splits.get? e = some p →
      p.clause = none → p.wait = .none → exec (.clauseStart core slot) s = .next (s.startClause core slot e t)) ∧
    (∀ til, t.splits.get? e = some p → p.wait = .sleep til → til ≤ (s.coreOf core).clk →
      exec (.sleepExpiry core slot e) s =
        .next (s.setTeam core slot { t with splits := t.splits.set e { p with wait := .none } })) ∧
    (s.teamRuns t = true → t.running.isSome = true → t.lastClk + 1024 ≤ (s.coreOf core).clk →
      exec (.issueStarvationPromote core slot) s = .next (s.setTeam core slot { t with promoted := true })) ∧
    (∀ n k l entry regs cls, t.pendingRole = some (n, k) → s.launchOf t = some l → l.record.roles[n]? = some (entry, regs, cls) →
      s.teamRuns t = true → t.between = true → t.leaving = none → t.flagsZero 0xFFF = true →
      regs ≤ t.regs ∨ (s.regsUsed core + t.threads * (regs - t.regs) ≤ coreRegs ∧
        s.growthBefore core slot (if k = 0 then s.nextId + 1 else k) = false) →
      exec (.roleSwitch core slot) s = .next (s.setTeam core slot (t.enterRole n entry regs cls))) ∧
    ∀ q cx rest, (s.mx core).claims = q :: rest → q.slot = slot → s.claimOf core q = some cx →
      (∀ n ∈ unitsOf cx.2, (s.mx core).isFree cx.1 n = true) →
      exec (.claimGrant core) s = .next ((s.setMx core { (s.mx core).take slot cx.1 (unitsOf cx.2) with claims := rest }).updTeam
        core slot fun t => { t with splits := t.splits.alter q.entry fun p => { p with wait := .none } })

/-- 07 R206, R209, R210, R225, 08 R240: a changed cohort phase releases its waiters, or lets a team whose membership counts from it
arrive; a team that exits leaves its cohorts; it leaves its slot with nothing outstanding; and a CCTL's answers let its split go on. -/
def Sys2Proof.Spec.CohortAndRetireSteps : Prop :=
  ∀ (s : State) (core slot : Nat) (t : Team), s.team? core slot = some t →
    let who : Waiter := .fetch (.team core slot)
    let s₁ := s.undefer who
    (∀ addr ph arrived keys, t.cohortWait = some (addr, ph, arrived) → s.cohortLook t addr = some keys →
      unbarred s who (s.keysChans false keys) → (readCohort s keys).phase.toNat ≠ ph →
      (arrived = true → exec (.cohortPhaseSeen core slot) s = .next ((s₁.setTeam core slot t.cohortReady).sync core)) ∧
      ∀ keys', arrived = false → s₁.cohortKeys t addr = .ok keys' →
        exec (.cohortPhaseSeen core slot) s = .next ((writeCohort s₁ (s₁.teamVd t) keys' (readCohort s keys).arrive).setTeam
          core slot (t.cohortRearm addr (readCohort s keys).phase.toNat))) ∧
    (∀ pc m rest keys, t.leaving = some pc → t.cohorts = m :: rest → t.stops.fault = false → s.leaveWaits t = false →
      s.cohortKeys t m.addr = .ok keys → unbarred s who (s.keysChans false keys) →
      let s₂ := (s₁.drainTeam core slot).sync core
      exec (.cohortLeaveAtExit core slot) s = .next ((writeCohort s₂ (s₂.teamVd t) keys ((readCohort s₂ keys).leave m)).updTeam
        core slot fun t => { t with cohorts := rest })) ∧
    (t.leaving.isSome = true → t.cohorts = [] → t.flagsZero 0xFFF = true → t.onlyStores = true → t.stops.fault = false →
      freeOfBanks s t.pend →
      ∃ u, exec (.teamRetire core slot) s = .next u ∧ u.team? core slot = none ∧ u.mem = (s.drainTeam core slot).mem ∧
        ∀ n, (∀ x, (u.mx core).slots.get? n = some x → x.holder ≠ some slot) ∧
          ∀ x, (u.mx core).accs.get? n = some x → x.holder ≠ some slot) ∧
    ∀ q op entry items d wm zero cx, t.pend.find? (fun p => match p.work with | .cctl .. => true | _ => false) = some q →
      q.work = .cctl op entry items d wm zero → s.teamCx t = some cx → freeOfBanks s t.pend →
      ∃ u v, exec (.cctlAnswer core slot) s = .next u ∧ u.team? core slot = some v ∧ v.v = t.v ∧ v.s = t.s ∧
        u.lines = ((s.drainTeam core slot).cctlAll cx op items).2.lines ∧ (∀ x ∈ v.pend, x.id ≠ q.id) ∧
        v.splits = t.splits.alter entry (fun p => { p with wait := .none }) ∧ (d = none → v.p = t.p)

/-- 09 R255, R259, R265, R272: KSLEEP and EQWAIT end at their cycle, and a KLD's data arrive in its register with the thread running. -/
def Sys2Proof.Spec.ControlWaitsEnd : Prop :=
  ∀ (s : State) (core til : Nat), til ≤ (s.coreOf core).clk →
    ((s.ctl core).mode = .ksleep til → exec (.ksleepExpiry core) s = .next (ctlAwake s core)) ∧
    ((s.ctl core).mode = .eqwait (some til) → exec (.eqwaitTimeout core) s = .next (ctlAwake s core)) ∧
    ∀ p rest ws fl, (s.ctl core).mode = .load → freeOfBanks s (s.ctl core).pend →
      ((s.drainCtl core).ctl core).pend = p :: rest → p.work = .results ws fl →
      ∃ u, exec (.kldDataArrive core) s = .next u ∧ u.mem = (s.drainCtl core).mem ∧ (u.ctl core).pend = rest ∧
        ((s.ctl core).step = false → (u.ctl core).mode = .running) ∧
        (u.ctl core).k = (ws.foldl Ctl.applyWrite ((s.drainCtl core).ctl core)).k

/-- 05 R126 to R129, 07 R194 to R226, 09 R255, R265, R272: the steps of the sequencer, and the ends of a control thread's waits. -/
def Obligations.SequencerSteps : Prop := Spec.SplitSteps ∧ Spec.CohortAndRetireSteps ∧ Spec.ControlWaitsEnd

/-- 05 R131, R132, 02 R52 to R54: an operation of a team that may end writes its results, lowers its flag and joins its flags to TSR,
with every access before it made; some registers of an operation may be written before; and the next access of an agent, up to its
oldest store, takes its place. -/
def Sys2Proof.Spec.CompletionSteps : Prop :=
  ∀ (s : State) (core slot op : Nat) (t : Team), s.team? core slot = some t →
    (∀ q, isOp t.pend op q → q.flag.isSome = true → freeOfBanks s (pendsTo op t.pend) → mayEnd s t op q →
      ∃ (u : State) (v w : Team) (ws : List RegWrite) (fl : Nat), exec (.longLatencyComplete core slot op none) s = .next u ∧
        u.team? core slot = some v ∧ v = w.land q ws fl ∧ w.v = t.v ∧ w.s = t.s ∧ w.p = t.p ∧ w.arrive = t.arrive ∧ w.splits = t.splits ∧ w.tsr = t.tsr ∧
        (∀ x ∈ v.pend, x.id ≠ op) ∧ (∀ ws' fl', q.work = .results ws' fl' → ws = ws' ∧ fl = fl') ∧
        u.mem = (s.performTo core (s.teamVd t) op t.pend).1.mem) ∧
    (∀ q part, isOp t.pend op q → q.flag.isSome = true → freeOfBanks s (pendsTo op t.pend) →
      (∃ ws fl, q.work = .results ws fl) → (∀ x ∈ pendsTo op t.pend, x.events = 0) →
      exec (.longLatencyComplete core slot op (some part)) s = .next (s.setTeam core slot (t.landPart q part))) ∧
    ∀ p, t.pend.find? Pend.isStore = some p → freeOfBanks s (pendsTo p.id t.pend) →
      let r := s.performNext core (s.teamVd t) p.id t.pend
      exec (.storeComplete (.team core slot)) s = .next (r.1.updTeam core slot fun t => { t with pend := r.2 })

/-- 02 R41, R53, 08 R247, R248, 03 R72 to R77: an evict-last line expires; the leases of a core end; a flit reaches the receive queue
it names, or is dropped and counted where its gang has retired; an arbiter grants and refills; the control thread's next access takes
its place. -/
def Sys2Proof.Spec.LineAndFlitSteps : Prop :=
  ∀ s : State,
    (∀ crumb l, s.lines.get? crumb = some l → l.prio = 2 → l.lastEl + 65536 ≤ s.fab →
      exec (.evictLastExpiry crumb) s = .next { s with lines := s.lines.set crumb { l with prio := 1 } }) ∧
    (∀ core, ∃ r, exec (.leaseExpiry core) s = .next r ∧ (r.coreOf core).l1 = [] ∧ r.mem = s.mem ∧ r.lines = s.lines ∧
      (s.coreOf core).lclk ≤ (r.coreOf core).lclk ∧ ∀ x ∈ (s.coreOf core).l1, x.lease < (r.coreOf core).lclk) ∧
    (∀ gang member port g f rest, s.gang? gang = some g → g.txq member port = f :: rest →
      (∀ l, s.gangs.find? (fun x => x.2.launch == g.launch && x.2.lin == f.gang) = none →
        s.launch? g.launch = some l → f.gang < l.nextGang →
        ∃ r g', exec (.flitDeliver gang member port) s = .next r ∧ r.gang? gang = some g' ∧ g'.txq member port = rest ∧
          g'.mdrops.get 0 (4 * member + port) = (g.mdrops.get 0 (4 * member + port) + 1) % 2 ^ 16) ∧
      ∀ dg d, s.gangs.find? (fun x => x.2.launch == g.launch && x.2.lin == f.gang) = some (dg, d) → s.gang? dg = some d →
        dg ≠ gang → d.resident = true → (d.rxq f.member port).length < 8 → s.receivers dg f.member port = [] →
        ∃ r g' d', exec (.flitDeliver gang member port) s = .next r ∧ r.gang? gang = some g' ∧ g'.txq member port = rest ∧
          r.gang? dg = some d' ∧ d'.rxq f.member port = d.rxq f.member port ++ [f] ∧ r.mem = s.mem) ∧
    (∀ arb reqs, arbOk arb = true → reqs.all (s.arbReqOk arb) = true →
      let x := Arb.grantsN arb.kind (arbGrants arb.kind) { s.arb arb with grants := [], beyond := [] } reqs
      exec (.arbiterCycle arb reqs) s = .next ((s.setArb arb (x.1.refill arb.kind)).granted arb x.2)) ∧
    ∀ core p, (s.ctl core).pend.find? Pend.isStore = some p → freeOfBanks s (pendsTo p.id (s.ctl core).pend) →
      let r := s.performNext core (s.ctlVd core) p.id (s.ctl core).pend
      exec (.storeComplete (.ctl core)) s = .next (r.1.onCtl core fun c => { c with pend := r.2 })

/-- 01 R28, R29, 02 R57, R59, 11 R316: an operation that may register installs its locks; a copy whose bytes translate completes with
its release; and held records are posted while there is room, after which the engines' commands that waited for that go on. -/
def Sys2Proof.Spec.RegisterAndReleaseSteps : Prop :=
  ∀ (s : State),
    (∀ op o, s.ops.get? op = some o → s.mayRegister op o = true →
      exec (.lockRegister op) s = .next (s.register op o).stackRunAll ∧
      (o.work.isCopy = true → exec (.copyRegister op) s = .next (s.register op o))) ∧
    (∀ op o r seq sk dk, s.rcmds.get? op = none → s.scmds.get? op = none → s.ops.get? op = some o → o.work = .copy r seq false →
      r.kind ≠ 4 → s.copyRuns o = true → s.copyKeys o.reach r = .ok (sk, dk) →
      unbarred s (.work op) (s.keysChans false sk ++ s.keysChans true dk) →
      let s₁ := (s.undefer (.work op)).copyWalked o.core o.reach r
      exec (.engineOpRelease op) s =
        .next (((s₁.engineWrite o.cx.vd dk (s₁.copyData r sk)).endOp op o).countCopy o seq false)) ∧
    ∀ core, exec (.heldEventPost core) s = .next ((List.range 12).foldl (fun s k => (s.tlRunAll core k).stackRunOn core k)
      (if 64 ≤ (s.coreOf core).eq.length then s else s.postHeld core (s.coreOf core).held.length))

/-- 05 R131, R132, 02 R41, R52 to R54, R57, R60, 01 R28, R29, 03 R72 to R77, 08 R247, R248: how accesses complete, lines and leases
end, flits travel, arbiters grant, operations register and are released, and held records are posted. -/
def Obligations.AccessSteps : Prop := Spec.CompletionSteps ∧ Spec.LineAndFlitSteps ∧ Spec.RegisterAndReleaseSteps

/-- 02 R44, R47 to R50, 07 R216, 09 R273: a waiting fault posts its record while the queue has room; a mended record is gone, its entries
written, and its waiter replayed; an unmended one raises PAGE at the faulting address; an invalidation drops cached translations;
ways become chip scratchpad where no line, no pin and no allotment stands in the way. -/
def Obligations.TranslationSteps : Prop :=
  (∀ (s : State) (core slot e k a va addr : Nat) (t : Team) (cx : CtxId), s.faultRoom (coreDie core) = true →
    s.team? core slot = some t → t.fullWait = some (e, k, a, va, addr) → s.teamCx t = some cx →
    ∃ u v id f, exec (.faultRecordPost (.team core slot)) s = .next u ∧ u.faults.get? id = some f ∧ f.va = va ∧ f.kind = k ∧
      f.access = a ∧ f.cx = cx ∧ f.core = core ∧ f.slot = slot ∧ f.clk = (s.coreOf core).clk ∧ u.team? core slot = some v ∧
      v.splits = t.splits.alter e fun p => { p with wait := .fault id }) ∧
  (∀ (s : State) (core k a va addr : Nat) (cx : CtxId), s.faultRoom (coreDie core) = true →
    (s.ctl core).mode = .faultFull k a va addr → (s.ctl core).owner = some cx →
    ∃ u id f, exec (.faultRecordPost (.ctl core)) s = .next u ∧ u.faults.get? id = some f ∧ f.va = va ∧ f.kind = k ∧
      f.access = a ∧ f.cx = cx ∧ f.slot = 0xFF ∧ (u.ctl core).mode = .fault id) ∧
  (∀ (s : State) (rec : Nat) (f : FaultRec) (ptes : List (Nat × Nat)), s.faults.get? rec = some f →
    (∀ id, f.who ≠ .launch id) → (∀ d id, f.who ≠ .raster d id) → mayMap (s.dropFault rec) ptes →
    exec (.faultMend rec ptes) s = .next (((s.dropFault rec).writePtes ptes).replay f.who)) ∧
  (∀ (s : State) (rec g i e core slot : Nat) (f : FaultRec) (t : Team) (p : Split), s.faults.get? rec = some f →
    f.who = .team g i e → s.whereTeam g i = some (core, slot, t) → t.splits.get? e = some p → p.wait = .fault rec →
    exec (.pageDeliver rec) s = .next ((s.dropFault rec).raise t ⟨clsPAGE, 0, BitVec.ofNat 64 f.addr⟩
      { core := core, slot := slot, entry := e, pc := match p.clause with | some c => c.base + c.off | none => p.pc
        resume := p.clause })) ∧
  (∀ (s : State) (cx : CtxId) (base len : Nat), (s.ctx? cx).isSome = true → s.cxStuck cx = false →
    exec (.translationInvalidate cx base len) s = .next ((s.drainCx cx).invalidate cx base len)) ∧
  ∀ (s : State) (die ways : Nat), die < 4 → ways ≤ 4 → s.overPinned die ways = false → s.chipUnits die ≤ 64 * ways →
    (∀ x ∈ s.dieLines die, x.2.way + ways < 16) →
    exec (.wayConvert die ways) s = .next ({ s with convWays := s.convWays.put 0 die ways }.zeroChip fun c d =>
      d == die && s.chipOf c d == 0)

/-- 10 R285 to R287, R297 to R301: a registered fetch whose bytes translate completes with its release and fills its slot; one that
Renweaz does not mend ends with STATUS 2 and a FAULTED slot; a walk reads its next entry, starts the fetches of a block whose pair is
free, and resumes or is told of a fault. -/
def Sys2Proof.Spec.FetchSteps : Prop :=
  ∀ s : State,
    (∀ op o f x, s.ops.get? op = some o → o.work = .fetch f → o.registered = true → s.opLive o = true → o.fault = none →
      f.kept = false → s.fetchTile o.reach f.tile f.row f.col = .ok x → unbarred s (.work op) (s.keysChans false x.keys) →
      let s₁ := ((s.undefer (.work op)).tileWalked o.core o.reach f.tile f.row f.col).touch o.cx.vd 0 x.keys
      exec (.fetchComplete op) s = .next (((s₁.endFill o.core op f.slot fun y => { y with
        st := .full, ty := f.tile.ty, roleB := f.tile.roleB, scaled := f.tile.scaled, lines := f.tile.kLines, k := f.tile.k
        tail := f.tile.tailOf f.row f.col, image := x.image, fifo := x.fifo }).endOp op o).signal f.walk)) ∧
    (∀ op rec o f, s.ops.get? op = some o → o.work = .fetch f → o.fault = some rec →
      ∃ t, exec (.fetchFaultUnmended op) s = .next t ∧ t.ops.get? op = none ∧ t.faults.get? rec = none ∧
        (∀ l ∈ t.locks, l.op ≠ op) ∧ t.mem = s.mem) ∧
    (∀ core slot t w re, s.team? core slot = some t → t.walk = some w → s.reachOf t = some re → w.state = 1 → w.stopped = false →
      w.fault = none → t.leaving = none →
      let s₁ := ((s.undefer (.work w.id)).walked core re.cx (w.list + 8 * w.read)).dropKept core slot w
      (∀ x stop, s.walkRead re (w.reader core re) w = .entry x stop →
        exec (.walkerEntryRead core slot) s = .next (s₁.1.updTeam core slot fun t => { t with walk := some (s₁.2.push x stop) })) ∧
      ∀ bidx bcol a b, s.walkRead re (w.reader core re) w = .block bidx bcol a b → w.rot ∉ w.busy →
        exec (.walkerEntryRead core slot) s = .next (s₁.1.walkFetch core slot t s₁.2 re bidx bcol a b)) ∧
    ∀ core slot rec t w, s.team? core slot = some t → t.walk = some w → w.fault = some rec →
      exec (.walkerFaultResolve core slot none) s = .next ((s.dropFault rec).setTeam core slot { t with
        walk := some ({ w with fault := none }.push (.bad clsMLISTF 36) true) }) ∧
      ∀ ptes, mayMap (s.dropFault rec) ptes → exec (.walkerFaultResolve core slot (some ptes)) s =
        .next (((s.dropFault rec).writePtes ptes).setTeam core slot { t with walk := some { w with fault := none } })

/-- 11 R316 to R324: an ACCUM commits its addends in one step, and ends with its release; a copy whose bytes translate writes them
and ends; one that Renweaz does not mend ends with undefined bytes in the rows it reached, and no lock. -/
def Sys2Proof.Spec.CopySteps : Prop :=
  ∀ (s : State) (op seq : Nat) (o : EngOp) (r : CopyReq), s.ops.get? op = some o →
    (∀ sk dk, o.work = .copy r seq false → s.copyRuns o = true → s.copyKeys o.reach r = .ok (sk, dk) →
      unbarred s (.work op) (s.keysChans false sk ++ s.keysChans true dk) →
      let s₁ := (s.undefer (.work op)).copyWalked o.core o.reach r
      (r.kind = 4 → exec (.accumCommit op) s =
        .next ((s₁.accumInto o.cx.vd r (sk.map s.readKey) dk).setOp op { o with work := .copy r seq true })) ∧
      (r.kind ≠ 4 → exec (.copyFinish op) s =
        .next (((s₁.engineWrite o.cx.vd dk (s₁.copyData r sk)).endOp op o).countCopy o seq false))) ∧
    (o.work = .copy r seq true → r.kind = 4 → s.copyRuns o = true →
      exec (.copyFinish op) s = .next ((s.endOp op o).countCopy o seq false)) ∧
    ∀ rec b, o.work = .copy r seq b → o.fault = some rec →
      ∃ t, exec (.copyFaultUnmended op) s = .next t ∧ t.ops.get? op = none ∧ (∀ l ∈ t.locks, l.op ≠ op) ∧
        t.mem = (s.scribble (s.copyReached o.reach r)).mem

/-- 10 R285 to R301, 11 R316 to R324: the steps of fetches, walks and copies. -/
def Obligations.EngineSteps : Prop := Spec.FetchSteps ∧ Spec.CopySteps

/-- 03 R85 to R88, R450: the dispatcher reads a record and its launch stands at the head of the queue, CONS behind it; it places the
next gang, or every gang of a co-resident launch, where the places may take them; and what a fault of it leads to. -/
def Sys2Proof.Spec.DispatcherSteps : Prop :=
  ∀ (s : State),
    (∀ (cx : CtxId) (q : Nat) (qu : Queue) (hk hk' keys : List Nat) (r : LaunchRec) (tab : RoleTable),
      s.queue? cx q = some qu → qu.passed = false → qu.fault = none → qu.todo = none → s.headOf cx q = none →
      s.span cx qu.header 64 false = .ok hk → unbarred s (.queue cx q) (s.headChans cx qu.header hk) →
      let h := s.qhead hk
      h.enabled = true → h.fstat = 0 → h.waiting ≠ 0 → s.issuerHeld qu h = false →
      let s₁ := ((s.undefer (.queue cx q)).walkedDie qu.die cx qu.header).touch cx.vd 0 hk
      s₁.span cx (h.slotVa h.cons) 128 false = .ok keys → unbarred s₁ (.queue cx q) (s₁.keysChans false keys) →
      let s₂ := ((s₁.undefer (.queue cx q)).walkedDie qu.die cx (h.slotVa h.cons)).touch cx.vd 0 keys
      parseRecord (keys.map s₂.readKey) = some (r, tab) → tab.count = 0 → r.chip = false → r.coresident = false →
      s₂.span cx qu.header 64 true = .ok hk' →
      ∃ t id l, exec (.launchRecordRead cx q) s = .next t ∧ t.launches.get? id = some l ∧ l.record = r ∧ l.qcx = cx ∧ l.queue = q ∧
        l.die = qu.die ∧ l.index = (s₂.qhead hk').cons ∧ l.nextGang = 0 ∧ l.issuer = qu.notes.get? (l.index % 2 ^ (s₂.qhead hk').log2n) ∧
        (∃ qu', t.queue? cx q = some qu' ∧ qu'.last = some id) ∧
        t.mem = ((s₂.headTouched cx qu.header hk').setQ32 hk' offCons (l.index + 1)).mem) ∧
    (∀ rec q f cx, s.faults.get? rec = some f →
      (f.who = .queue cx q true → exec (.dispatchFaultResolve rec) s = .next ((s.dropFault rec).passQueue cx q)) ∧
      ∀ qu hk, f.who = .queue cx q false → s.queue? cx q = some qu → s.span cx qu.header 64 true = .ok hk →
        qu.notes.get? ((s.qhead hk).cons % 2 ^ (s.qhead hk).log2n) = none →
        exec (.dispatchFaultResolve rec) s = .next ((((((s.dropFault rec).headTouched cx qu.header hk).setQ32 hk offFidx
          (s.qhead hk).cons).setFstat hk 3).setQ32 hk offCons ((s.qhead hk).cons + 1)).setQueue cx q { qu with
            notes := qu.notes.erase ((s.qhead hk).cons % 2 ^ (s.qhead hk).log2n), fault := none, todo := none })) ∧
    ∀ (s' : State) (die id : Nat) (l : Launch) (bases cores : List Nat), s.nextHead die = some (id, l, s') →
      s'.launch? id = some l → s'.chooseCores l = some cores →
      (l.record.coresident = false → s'.placesOk l.record cores bases = true →
        exec (.gangPlace die bases) s = .next ((s'.placeNew id cores bases).noteServed l)) ∧
      (l.record.coresident = true → s.headOf l.qcx l.queue = some (id, l) → l.die = die →
        (l.record.gangs = 1 → s'.placesOk l.record cores (bases.take l.record.gang) = true →
          exec (.coresidentPlace l.qcx l.queue bases) s =
            .next ((s'.placeNew id cores (bases.take l.record.gang)).noteServed l)) ∧
        ∀ t, s'.placeMany id l.record.gang l.record.gangs (some bases) = some t →
          exec (.coresidentPlace l.qcx l.queue bases) s = .next (t.noteServed l))

/-- 03 R86, R91, R92, 02 R37, 09 R271: a gang with nothing left retires, and the last of its launch counts it in RETIRED; a gang is
saved at once where it is ready, else its teams issue nothing more until it is; a saved gang returns to cores that can take it. -/
def Sys2Proof.Spec.GangSteps : Prop :=
  ∀ (s : State) (gang : Nat) (g : Gang) (l : Launch), s.gang? gang = some g → s.launch? g.launch = some l →
    (s.gangDone gang g = true →
      let s₁ := (s.undefer (.work g.launch)).dropGang gang g
      let l' := { l with retired := l.retired + 1 }
      let s₂ := { s₁ with launches := s₁.launches.set g.launch l' }
      (l.draw.isSome = true → exec (.gangRetire gang) s = .next (s₂.pixelGone gang)) ∧
      (l.draw = none → l.retired + 1 ≠ l.record.gangs → exec (.gangRetire gang) s = .next s₂) ∧
      ∀ qu hk, l.draw = none → l.retired + 1 = l.record.gangs → unbarred s (.work g.launch) (s.retireChans g) →
        l.record.doneAddr = 0 → s₂.queue? l.qcx l.queue = some qu → s₂.span l.qcx qu.header 64 true = .ok hk →
        exec (.gangRetire gang) s = .next (((s₂.headTouched l.qcx qu.header hk).setQ32 hk offRetired
          ((s₂.qhead hk).retired + 1)).endLaunch g.launch l')) ∧
    (g.resident = true →
      ((∀ x ∈ s.together gang g true, s.saveReady x.1 = true) →
        exec (.gangPreempt gang) s = .next ((s.together gang g true).foldl (fun s x => s.saveGang x.1 x.2) s)) ∧
      ((∃ x ∈ s.together gang g true, s.saveReady x.1 = false) → (∃ x ∈ s.together gang g true, x.2.toSave = false) →
        exec (.gangPreempt gang) s =
          .next ((s.together gang g true).foldl (fun s x => s.setGang x.1 { x.2 with toSave := true }) s))) ∧
    ∀ core base, g.resident = false → s.restoreHeld l = false → s.together gang g false = [(gang, g)] → g.size = 1 →
      s.restorable l [core] = true → s.coreTakes gang g l.record.units 0 core base = true →
      exec (.gangRestore gang [core] [base]) s = .next (((s.setCore core ((s.coreOf core).allotTo gang base l.record.units
        fun c => Config.freeBool (s.freeIx c))).reseat core g (g.savedOf 0)).setGang gang
          { g with resident := true, cores := [core], bases := [base], saved := [], savedMx := [] })

/-- 03 R89, R90, R93: frame deadlines, pre-emption for the frame class, and the progress watchdog, each at its time. -/
def Sys2Proof.Spec.FrameAndWatchdogSteps : Prop :=
  ∀ (s : State),
    (∀ part d p, s.parts.get? part = some p → s.frameHead p = none → p.deadline = some d → d ≤ s.ns →
      exec (.frameDeadline part) s = .next { s with parts := s.parts.set part { p with
        deadline := some (d + frPeriod p.frctl)
        misses := if s.frameWaiting part none = [] then p.misses else p.misses + 1 } }) ∧
    (∀ part die p x, s.parts.get? part = some p → s.framePressed p = true →
      s.framesFit (s.frameWaiting part (some die)) = false → s.victim part die = some x →
      (∀ y ∈ s.together x.1 x.2 true, s.saveReady y.1 = true) →
      exec (.framePreempt part die) s = .next ((s.together x.1 x.2 true).foldl (fun s y => s.saveGang y.1 y.2) s)) ∧
    ∀ gang g l, s.gang? gang = some g → s.launch? g.launch = some l → g.resident = true → g.faultStop = false →
      (∃ x ∈ s.teams, x.2.gang = gang) → g.lastFire + s.wdtOf l.cx ≤ s.ns →
      (∀ x ∈ s.teams, x.2.gang = gang → x.2.lastIssue + s.wdtOf l.cx ≤ s.ns) →
      exec (.progressWatchdog gang) s = .next ((s.setGang gang { g with lastFire := s.ns }).fireWatchdog l g)

/-- 03 R93, R94, 12 R349, 13 R376, 14 R391, 15 R432: a command past its limit is reported once and runs on, but for a ray, which
ends; and a context reset leaves nothing of the context. -/
def Sys2Proof.Spec.TimeoutAndContextReset : Prop :=
  ∀ s : State,
    (∀ id o, s.ops.get? id = some o → o.late = false → s.past o.cx o.began = true → s.opLive o = true →
      o.work.isCopy = true ∨ o.work.isFetch = true →
      ∃ t, exec (.commandTimeout (.op id)) s = .next t ∧ t.ops.get? id = some { o with late := true } ∧ t.mem = s.mem) ∧
    (∀ stack req q, s.filters.get? req = some q → q.late = false → q.stack = stack → s.past q.cx q.began = true →
      ∃ t, exec (.commandTimeout (.filter stack req)) s = .next t ∧ t.filters.get? req = some { q with late := true } ∧
        t.mem = s.mem) ∧
    (∀ die id c, s.rcmds.get? id = some c → c.late = false → c.die = die → s.past c.cx c.began = true →
      (∀ a b d, c.work ≠ .done a b d) →
      ∃ t, exec (.commandTimeout (.raster die id)) s = .next t ∧ t.rcmds.get? id = some { c with late := true } ∧ t.mem = s.mem) ∧
    (∀ stack id c, s.scmds.get? id = some c → c.late = false → c.stack = stack → s.past c.cx c.began = true →
      ∃ t, exec (.commandTimeout (.stackCmd stack id)) s = .next t ∧ t.scmds.get? id = some { c with late := true } ∧
        t.mem = s.mem) ∧
    (∀ id r g, s.rays.get? id = some r → (∀ x, r.place ≠ .posting x) → s.gang? r.gang = some g → g.resident = true →
      s.past r.cx r.began = true → exec (.commandTimeout (.ray id)) s = .next (s.errorRay id r 5 0)) ∧
    ∀ cx, (s.ctx? cx).isSome = true → ((s.abortQueues cx).endSessions cx).cxStuck cx = false →
      ∃ u : State, exec (.contextReset cx) s = .next (u.stackRunAll.postNotice (cx.vd + 1) noticeReset [cx.ctx]) ∧
        (∀ x ∈ u.launches, x.2.cx ≠ cx) ∧ (∀ x ∈ u.ops, x.2.cx ≠ cx) ∧ (∀ x ∈ u.scmds, x.2.cx ≠ cx) ∧
        (∀ x ∈ u.rcmds, x.2.cx ≠ cx) ∧ (∀ x ∈ u.rays, x.2.cx ≠ cx) ∧ (∀ x ∈ u.filters, x.2.cx ≠ cx) ∧
        (∀ l ∈ u.locks, l.cx ≠ cx) ∧ (∀ x ∈ u.faults, x.2.cx ≠ cx) ∧ (∀ k, (u.ctl k).owner ≠ some cx) ∧
        ∃ c, u.ctx? cx = some c ∧ c.windows = [] ∧ c.isReset = true

/-- 03 R85 to R94, R450: the dispatcher reads a record, places gangs, and retires, saves and restores them; frame deadlines and
the progress watchdog act at their times, a command past its limit is reported, and a context reset acts. -/
def Obligations.DispatchSteps : Prop :=
  Spec.DispatcherSteps ∧ Spec.GangSteps ∧ Spec.FrameAndWatchdogSteps ∧ Spec.TimeoutAndContextReset

end

namespace Sys2Proof.Spec

open Sys2Proof Host Machine

/-- The state in which a filter's request acts: every access of its team before it has taken its place (12 R350). -/
def behindEarlier (s : State) (req : Nat) (q : FilterReq) (t : Team) : State :=
  let r := s.performTo q.core q.cx.vd req t.pend
  r.1.updTeam q.core q.slot fun t => { t with pend := r.2 }

/-- Every address translates. -/
def allMapped (s : State) (cx : CtxId) (vas : List Nat) : Prop := ∀ a ∈ vas, ∃ l, s.translate cx a = .ok l

end Sys2Proof.Spec

section

open Sys2Proof Host Sys2Proof.Machine Sys2Proof.Spec

/-- 12 R348 to R350: a request of a filter makes a fetch, ends any of its steps, and with none left leaves, its results on their way
behind the record of its lowest hole. -/
def Sys2Proof.Spec.FilterSteps : Prop :=
  ∀ (s : State) (req : Nat) (q : FilterReq), s.filters.get? req = some q →
    (∀ t, s.team? q.core q.slot = some t → freeOfBanks s (pendsTo req t.pend) →
      let s₁ := behindEarlier s req q t
      (∀ n wf level, q.steps[n]? = some (wf, level) →
        let j := joinStep ((q.args.filter fun x => x.tid / 32 == wf).map (s₁.filterThread q level))
        unbarred s₁ (.work req) ((j.2.1.pas ++ j.2.2.filterMap (s₁.feedbackPA q)).map chanOf) →
        ∃ u, exec (.filterStep q.stack ⟨req, n, none⟩) s = .next u ∧ u.filters.get? req = some { q with
            steps := q.steps.eraseIdx n, ws := q.ws ++ j.1, hole := lowerHole q.hole j.2.1.holes } ∧
          (j.2.2 = [] → u.mem = s₁.mem)) ∧
      ∀ n tid va len, q.work.reads va len = true → (∀ g ∈ q.got, ¬ (g.tid = tid ∧ g.va = va ∧ g.n = len)) →
        let x := s₁.engLook q.cx [] tid va len
        unbarred s₁ (.work req) (((x.map (·.2)).getD []).map chanOf) →
        ∃ u, exec (.filterStep q.stack ⟨req, n, some (tid, va, len)⟩) s = .next u ∧ u.mem = s₁.mem ∧
          u.filters.get? req = some { q with got := q.got ++ [{ tid := tid, va := va, n := len, x := x.map (·.1) }] }) ∧
    (q.steps = [] →
      let done (s : State) : State := s.updTeam q.core q.slot fun u => { u with
        pend := u.pend.map fun (p : Pend) => if p.id == req then { p with work := .results q.ws 0 } else p }
      let s₁ := { s with filters := s.filters.erase req }
      (q.hole = none → exec (.filterRequestDone q.stack req) s = .next (done s₁)) ∧
      ∀ a, q.hole = some a → s.postsNow q.core q.cx 4 q.stack = true →
        exec (.filterRequestDone q.stack req) s = .next (done (s₁.postEvent q.core q.cx
          { tag := BitVec.ofNat 64 a, src := 4, status := 2, unit := q.stack, detail := BitVec.ofNat 32 (2 ^ 8 * q.slot + 1) })))

/-- 13 R359 to R372, R385: a ray in flight arrives; a spilled ray of the virtual device returns while the SRAM has room; a round
visits up to 64 rays of the chosen treelet and ages the others; a verdict reaches its ray, or leaves no trace; a record that waited is
posted; a drained CLOSING treelet is PROOFING. -/
def Sys2Proof.Spec.TraversalSteps : Prop :=
  ∀ (s : State),
    (∀ ray r fwd, s.rays.get? ray = some r → r.place = .flying fwd → exec (.rayArrive ray) s = .next (s.arrive ray r fwd)) ∧
    (∀ stack vd x, s.sramRays stack vd < s.rqlim stack vd →
      oldestRay (s.rays.filter fun x => tlStack x.2.treelet == stack && x.2.cx.vd == vd && x.2.queued && x.2.entry == .spilled) =
        some x → exec (.spillRefill stack vd) s = .next (s.setRay x.1 { x.2 with entry := .quota })) ∧
    (∀ stack vd k, chooseTreelet (s.readyRays stack vd) = some k →
      let l := s.readyRays stack vd
      let taken := ((l.filter fun x => (x.2.cx, x.2.treelet) == k).insertionSort fun a b => a.2.arrival ≤ b.2.arrival).take 64
      exec (.traversalRound stack vd) s = .next (taken.foldl (fun s x => s.visitRay x.1 x.2)
        (l.foldl (fun s x => if taken.any fun y => y.1 == x.1 then s else s.setRay x.1 { x.2 with age := x.2.age + 1 }) s))) ∧
    (∀ gang index t h v rest, s.teamRef gang index = some t → t.verdicts = (h, v) :: rest →
      let taken (s : State) : State := s.updTeamRef gang index fun t => { t with verdicts := rest }
      (s.parkedRay gang index h = none → exec (.candidateVerdict gang index) s = .next (taken s)) ∧
      ∀ id r w c, s.parkedRay gang index h = some (id, r, w, c) → unbarred s (.work id) (s.resume r w c v).chans →
        exec (.candidateVerdict gang index) s = .next ((taken (s.undefer (.work id))).leaveVisit id (s.resume r w c v))) ∧
    (∀ core slot t x, s.team? core slot = some t → t.hits.length < 64 →
      (s.rays.find? fun x => x.2.gang == t.gang && x.2.index == t.index && x.2.waitsPost) = some x →
      exec (.hitRecordPost core slot) s = .next (s.postRay x.1)) ∧
    ∀ cx treelet, (s.treelet cx treelet).st = .closing → s.visited cx treelet = false →
      ∃ t, exec (.treeletDrainDone cx treelet) s = .next t ∧ t.mem = s.mem ∧
        (s.tlq = [] → t.rays = s.rays ∧ (t.treelet cx treelet).st = .proofing ∧ (t.treelet cx treelet).closers = [] ∧
          (t.treelet cx treelet).held = s.queuedAt cx treelet)

/-- 12 R348 to R350, 13 R359 to R372, R385: the steps of the filter engines and the traversal engines. -/
def Obligations.FilterAndTraversalSteps : Prop := Spec.FilterSteps ∧ Spec.TraversalSteps

/-- 14 R388, R389, R394: a step of a begun SRED writes one destination crumb, and the last lets it end: its locks clear, then its flag is
stored and its record posted. -/
def Sys2Proof.Spec.SredSteps : Prop :=
  ∀ (s : State) (op : Nat) (o : EngOp) (r : SredReq), s.ops.get? op = some o → o.work = .sred r →
    (∀ crumb l, crumb ∈ r.left → s.opBegun op = true → allMapped s o.cx (r.crumbVas crumb) →
      s.translate o.cx (r.dst + 64 * crumb) = .ok l → unbarred s (.crumb op crumb) (s.vaChans o.cx (r.crumbVas crumb)) →
      let s₁ := s.undefer (.crumb op crumb)
      exec (.sredStep op crumb) s = .next ((s₁.engWrite l (s₁.sredBytes o.cx r crumb)).setOp op { o with
        work := .sred { r with left := r.left.filter (· != crumb) } })) ∧
    ∀ id c, s.stackOf? op = some (id, c) → r.left = [] → c.begun = true →
      let s₁ := if s.locks.any fun l => l.op == op then s.clearLocks op else s
      let keys := s₁.flagKeys o.cx r.flag
      unbarred s₁ (.work op) (s₁.keysChans true keys) →
      let s₂ := s₁.undefer (.work op)
      (keys = [] → exec (.sredComplete op) s = .next (((s₂.doneStack id c).dropOp op).stackRunOn c.core c.stack)) ∧
      (keys ≠ [] → exec (.sredComplete op) s = .next ((((s₂.engineWrite o.cx.vd keys (leBytes 8 r.fval.toNat) true).doneStack
        id c).dropOp op).stackRunOn c.core c.stack))

/-- 14 R396, R398 to R402: the next SBANK opens its session; an SMAC's last column leaves its accumulators and clears its lock; a SACC
reads its accumulators, then writes crumb by crumb, and ends with its lock; 50 µs after its entry a session ends by force; and once it
is over, what was deferred is served. -/
def Sys2Proof.Spec.BankSteps : Prop :=
  ∀ (s : State),
    (∀ stack id pc c, s.banksOn stack < 32 → s.scmds.find? (s.bankWaits stack) = some (id, c) → c.work = .bank pc →
      s.sessions.get? (sessKey stack pc) = none → s.deferred.get [] (sessKey stack pc) = [] →
      let x : Session := { core := c.core, cx := c.cx, tag := c.tag, began := s.ns, entries := [], accs := [], ending := none
                           orphan := c.orphan }
      exec (.sbankEnter stack) s = .next (((s.setSession stack pc x).doneStack id c).stackRunOn c.core stack)) ∧
    (∀ op pc row col n entry acc lock c x, s.scmds.get? op = some c → c.work = .smac pc row col n entry acc lock →
      c.begun = true → s.sessions.get? (sessKey c.stack pc) = some x →
      exec (.smacBanksDone op) s = .next (((((s.setSession c.stack pc { x with
        accs := s.macAccs c.stack pc row col n entry acc x }).clearLocks lock).dropOp lock).doneStack op c).stackRunOn
          c.core c.stack)) ∧
    (∀ op pc d first n clr lock c, s.rcmds.get? op = none → s.scmds.get? op = some c → c.begun = true →
      let put (s : State) (l : List (Nat × List Byte)) : State :=
        s.setStack op { c with work := .sacc pc d first n clr lock (some l) }
      (∀ x, c.work = .sacc pc d first n clr lock none → s.sessions.get? (sessKey c.stack pc) = some x →
        let s₁ := put s ((List.range n).map fun i => (i, x.crumb (first + i)))
        exec (.engineOpRelease op) s = .next (if clr then s₁.setSession c.stack pc (x.clear first n) else s₁)) ∧
      ∀ i bs rest l, c.work = .sacc pc d first n clr lock (some ((i, bs) :: rest)) → s.translate c.cx (d + 64 * i) = .ok l →
        (∀ o, s.ops.get? lock = some o → o.cx = c.cx) → unbarred s (.crumb lock i) [chanOf l.pa] →
        let s₁ := (s.undefer (.crumb lock i)).engWrite l bs
        exec (.engineOpRelease op) s = .next (if rest = [] then
          (((s₁.clearLocks lock).dropOp lock).doneStack op c).stackRunOn c.core c.stack else put s₁ rest)) ∧
    ∀ stack pc x, s.sessions.get? (sessKey stack pc) = some x →
      (x.ending = none → x.began + 50000 ≤ s.ns →
        exec (.sessionTimeout stack pc) s = .next (s.setSession stack pc { x with ending := some none }).stackRunAll) ∧
      (s.sessionOver stack pc x = true →
        let s₁ := s.leaveBank stack pc
        (x.ending = some none ∨ x.ending = none → exec (.deferredQueueServe stack pc) s =
          .next (s₁.stackRecord x.core x.cx x.tag stack 4 10 pc).stackRunAll) ∧
        ∀ id c, x.ending = some (some id) → s₁.scmds.get? id = some c →
          exec (.deferredQueueServe stack pc) s = .next (s₁.doneStack id c).stackRunAll)

/-- 14 R388, R389, R394, R396, R398 to R402: the steps of the stack arithmetic engines. -/
def Obligations.StackSteps : Prop := Spec.SredSteps ∧ Spec.BankSteps

/-- 15 R413, R414, R449: a tile becomes resident where its four lines do; a resident tile leaves the CDC, written back where it is
dirty; and Renweaz changes C of a leaf, whose encoded tiles become raw or whose modes become 0. -/
def Sys2Proof.Spec.CodecSteps : Prop :=
  ∀ (s : State),
    (∀ pa vd, s.tiles.get? (pa / 256) = none → s.tileStuck pa = false → s.compVd pa = some vd →
      let crumbs := [pa / 256 * 4, pa / 256 * 4 + 1, pa / 256 * 4 + 2, pa / 256 * 4 + 3]
      ((∀ c ∈ crumbs, (s.lines.get? c).isSome = true) → ∃ t u, exec (.cdcTileFill pa) s = .next t ∧
        t.tiles.get? (pa / 256) = some u ∧ u.bytes = s.tileBytes (pa / 256) ∧ u.dirty = [false, false, false, false] ∧
        t.mem = s.mem) ∧
      ∀ t, s.fillTileLines vd 0 crumbs = some t → exec (.cdcTileFill pa) s = .next (t.fillTile (pa / 256))) ∧
    (∀ pa, (s.tiles.get? (pa / 256)).isSome = true → s.tileDirty pa = false ∨ s.tileStuck pa = false →
      ∃ t, exec (.cdcWriteback pa) s = .next t ∧ t.mem = (s.cleanTile (pa / 256)).mem ∧ t.tiles.get? (pa / 256) = none ∧
        ∀ x ∈ t.lines, x.1 / 4 = pa / 256 → x.2.tile = false) ∧
    ∀ cx page setC x, s.cxStuck cx = false → (s.drainCx cx).leafWhere? cx (page * 65536) = some x → bitAt x.2.1 5 ≠ setC →
      let s₁ := s.drainCx cx
      let base := alignDown (page * 65536) (leafBytes x.1)
      (∀ t ∈ s₁.encodedTiles [leafRange x], s₁.tileStuck (256 * t) = false) →
      (setC = true → s₁.filterReads cx base (leafBytes x.1) = false → exec (.pageCChange cx page true) s =
        .next (((((s₁.dropLines [leafRange x]).zeroModes [leafRange x])).setCbit x true).invalidate cx base (leafBytes x.1))) ∧
      (setC = false → exec (.pageCChange cx page false) s =
        .next (((s₁.rawRanges [leafRange x]).setCbit x false).invalidate cx base (leafBytes x.1)))

/-- 15 R418 to R425, R432: the next pixel team is placed; a packet merges a crumb as one event; a DRAW reads a vertex as one event, and
completes; a fault of the engine is mended, or ends its command. -/
def Sys2Proof.Spec.DrawSteps : Prop :=
  ∀ (s : State) (die : Nat),
    (∀ base id va n st r l c core tx ty rest tri k s₂, s.pixelTeams die < 4096 →
      s.dispatchPick die (s.pixelHeads die) = some (k, l, s₂) → l.draw = some id →
      s₂.rcmds.get? id = some c → c.work = .draw va n st (some r) → r.tiles = some ((tx, ty) :: rest) →
      setupTri st.cull (vertices r.corners) = some tri → s₂.chooseCores l = some [core] →
      s₂.placesOk l.record [core] [base] = true →
      ∃ t gid g, exec (.pixelTeamSpawn die base) s = .next t ∧ t.gang? gid = some g ∧ g.cores = [core] ∧ g.bases = [base] ∧
        g.lin = ty * r.surf.tw + tx ∧ g.resident = true ∧
        t.rcmds.get? id = some { c with work := .draw va n st (some (r.spawn gid tx ty rest)) } ∧ t.mem = s₂.mem) ∧
    (∀ (crumb : PacketCrumb) id va n c r p st ro q ks, s.packetOf die crumb.packet = some (id, c, r, p) →
      s.rasterWaits id c = false → c.work = .draw va n st ro → p.packet = some q → s.packetHeld q = false →
      s.mergeWaits id c st r p = false → q.mayMerge st crumb.place = true →
      let at' := r.surf.crumb p crumb.place
      let who : Waiter := .crumb crumb.packet crumb.place
      s.span c.cx at' 64 false = .ok ks → unbarred s who (s.keysChans false ks) →
      let s₁ := (s.undefer who).walkedDie die c.cx at'
      let s₂ := s₁.touch c.cx.vd 0 ks
      let old := ks.map s₁.readKey
      let new := q.frags.foldl (mergeCrumb st crumb.place) (old, [])
      let left : RasterWork := .draw va n st (some (r.setPacket crumb.packet new.2))
      (new.1 = old → exec (.pxoutMerge die crumb) s = .next (s₂.setRaster id c left)) ∧
      ∀ ks', new.1 ≠ old → s₂.span c.cx at' 64 true = .ok ks' → unbarred s₂ who (s₂.keysChans (s₂.throughAt c.cx .g at') ks') →
        exec (.pxoutMerge die crumb) s =
          .next ((((s₂.undefer who).walkedDie die c.cx at').rasterWrite c.cx at' ks' new.1).setRaster id c left)) ∧
    (∀ cmd c r, s.rcmds.get? cmd = some c → c.work.drawDone = some r → c.die = die → s.rasterWaits cmd c = false →
      let s₁ := { s with launches := s.launches.erase r.launch }
      (r.ended = none → exec (.drawComplete die cmd) s = .next (s₁.finishRaster cmd c 0 c.tag 0 r.spawned)) ∧
      ∀ va, r.ended = some va →
        exec (.drawComplete die cmd) s = .next (s₁.finishRaster cmd c 2 (BitVec.ofNat 64 va) 0 r.spawned)) ∧
    (∀ cmd c va n st r s' bs, s.rcmds.get? cmd = some c → c.die = die → s.rasterWaits cmd c = false →
      c.work = .draw va n st (some r) → r.ended = none → r.tiles = none → r.tri < n →
      s.rasterRead (.work cmd) die c.cx (va + 48 * r.tri + 16 * (r.corners.length / 3)) 16 = .ok (s', bs) →
      let r₁ := { r with corners := r.corners ++ [0, 4, 8].map (word32 bs) }
      exec (.drawComplete die cmd) s =
        .next (s'.setRaster cmd c (.draw va n st (some (if r₁.corners.length < 9 then r₁ else r₁.setUp st))))) ∧
    ∀ rec id f, s.faults.get? rec = some f → f.who = .raster die id →
      (∀ ptes, mayMap (s.dropFault rec) ptes → exec (.rasterFaultResolve rec (some ptes)) s =
        .next { (s.dropFault rec).writePtes ptes with
          rcmds := ((s.dropFault rec).writePtes ptes).rcmds.alter id fun c => { c with work := c.work.clearFault } }) ∧
      ∀ c, s.rcmds.get? id = some c → exec (.rasterFaultResolve rec none) s = .next ((s.dropFault rec).endRaster id f.va c)

/-- 16 R435 to R438: a head's scan-out start appends one frame and sets the next start one PERIOD later; the crumbs of a presented
surface are read one by one; the oldest frame of a head leaves once it is read, and FRAMES counts it. -/
def Sys2Proof.Spec.MediaSteps : Prop :=
  ∀ (s : State) (head : Nat) (cx : CtxId), (s.head head).cx = some cx →
    ((s.head head).en = true → (s.head head).nextStart ≤ s.ns → unbarred s (.head head) (s.scanChans cx (s.head head)) →
      ∃ t f, exec (.scanOutStart head) s = .next t ∧ (t.head head).queue = (s.head head).queue ++ [f] ∧
        (t.head head).nextStart = (s.head head).nextStart + 1000 * hdPeriod (s.head head).cfg ∧
        f.number = ((s.head head).frames + (s.head head).queue.length) % 2 ^ 32 ∧
        (f.again = false ↔ (s.newFrame cx (s.head head)).isSome = true) ∧
        ∀ seq r, s.newFrame cx (s.head head) = some (seq, r) → f.base = r.cbase ∧ f.size = 256 * r.tiles) ∧
    (∀ before f rest, (s.head head).queue = before ++ f :: rest → (∀ g ∈ before, g.isRead = true) → f.isRead = false →
      let va := f.base + f.pixels.length
      unbarred s (.head head) (s.mediaChans cx va 64) →
      let u := (s.undefer (.head head)).mediaTouch cx va 64
      let t := u.updHead head fun h => { h with
        queue := before ++ { f with pixels := f.pixels ++ (s.undefer (.head head)).mediaRead cx va 64 } :: rest }
      ((s.head head).en = false ∨ s.ns < (s.head head).nextStart → exec (.scanOutStart head) s = .next t) ∧
      (before = [] → exec (.encodeFrameSend head) s = .next t)) ∧
    ∀ f rest q, (s.head head).queue = f :: rest → f.isRead = true → s.headQset cx = some q →
      unbarred s (.head head) (s.mediaChans cx (bits (s.head head).stream.toNat 47 7 * 128) (bits (s.head head).stream.toNat 59 52)) →
      ∃ t, exec (.encodeFrameSend head) s = .next t ∧ (t.head head).queue = rest ∧
        (t.head head).frames = ((s.head head).frames + 1) % 2 ^ 32 ∧ t.mem = s.mem

/-- 15 R413 to R432, R449, 16 R435 to R438: the steps of the slices' codecs, the raster engines and the display heads. -/
def Obligations.RasterAndMediaSteps : Prop := Spec.CodecSteps ∧ Spec.DrawSteps ∧ Spec.MediaSteps

/-- 02 R63, 16 R441: a remote access takes effect; a frame of a peer in order is applied as a whole, and EXPECT passes it; one out of
order changes nothing, an acknowledgement takes no place in the order; frames not acknowledged are sent again as they were. -/
def Sys2Proof.Spec.FrameSteps : Prop :=
  ∀ (s : State) (peer : Nat) (st : Stream), s.peer? peer = some st →
    (∀ cx va data, unbarred s (.peer peer (2 ^ 32)) (s.itemChans cx (.write va data)) → exec (.remoteApply peer cx (.write va data)) s =
      .next ((s.undefer (.peer peer (2 ^ 32))).applyWrite cx va data)) ∧
    (∀ cx va n, unbarred s (.peer peer (2 ^ 32)) (s.itemChans cx (.read va n)) →
      let x := (s.undefer (.peer peer (2 ^ 32))).applyRead cx va n
      exec (.remoteApply peer cx (.read va n)) s = .next (x.2.sendFrame peer fkReadResp cx [x.1] 0 none)) ∧
    (st.unacked ≠ [] → exec (.fakalvoRetransmit peer) s = .next s) ∧
    ∀ f : FkFrame, f.peer = peer → f.version = 1 →
      exec (.fakalvoAck f) s = .next (s.takeAck peer f.ack) ∧
      (f.seq ≠ st.expect → exec (.fakalvoWrite f) s = .next s ∧ exec (.fakalvoRead f) s = .next s ∧
        exec (.fakalvoReadresp f) s = .next s ∧ exec (.fakalvoMarker f) s = .next s) ∧
      (f.seq = st.expect → unbarred s (.peer peer f.seq) (f.items.flatMap (s.itemChans f.dst)).dedup →
        let s₁ := (s.undefer (.peer peer f.seq)).takeAck peer f.ack
        let moved (t : State) : State := t.setStream peer { t.stream peer with expect := ((t.stream peer).expect + 1) % 2 ^ 32 }
        ((∀ x ∈ f.items, ∃ va data, x = .write va data) →
          ∃ t, s₁.applyWrites f.dst f.items = some t ∧ exec (.fakalvoWrite f) s = .next (moved t)) ∧
        ((∀ x ∈ f.items, ∃ va n, x = .read va n) → ∃ x, s₁.applyReads f.dst f.items = some x ∧ x.1.length = f.items.length ∧
          exec (.fakalvoRead f) s = .next (moved (x.2.sendFrame peer fkReadResp f.dst x.1 0 none))) ∧
        ((∀ x ∈ f.items, ∃ data failed, x = .resp data failed) → s.sessions = [] → s.deferred = [] →
          ∃ t, s₁.applyReplies peer f.items = some t ∧ exec (.fakalvoReadresp f) s = .next (moved t)) ∧
        ∃ t, exec (.fakalvoMarker f) s = .next t ∧ (t.stream peer).markerIn = some f.window ∧ t.mem = s.mem)

/-- 02 R62, R64, R65, 16 R440, R443: the windows advance with a marker to every peer; a peer without a marker is lost; the clock takes
its messages, and Ethernet frames enter and leave the queue sets. -/
def Sys2Proof.Spec.WindowAndPortSteps : Prop :=
  ∀ (s : State),
    ((s.win + 1) * s.winLen ≤ s.groupTime → (∀ x ∈ s.peers, x.2.closed s.win = true) →
      ∃ t, exec .windowAdvance s = .next t ∧ t.win = s.win + 1 ∧ t.mem = s.mem) ∧
    (∀ peer st, s.peer? peer = some st → (st.missing + 2) * s.winLen + s.wto ≤ s.groupTime → s.sessions = [] → s.deferred = [] →
      ∃ u st', exec (.peerLost peer) s = .next u ∧ u.streams.get? peer = some st' ∧ st'.lost = true) ∧
    (∀ port d, port < 8 →
      exec (.ptpMessage port none) s = .next { s with stamps := s.stamps.set port s.groupTime } ∧
      exec (.ptpMessage port (some d)) s = .next { s with stamps := s.stamps.set port s.groupTime, ptp := s.ptp + d }) ∧
    ∀ qset queue f, qset < 64 → queue < 16 →
      (14 ≤ f.length → f.length ≤ 9216 → etherType f ≠ s.fkType (qset / 8) →
        exec (.ethernetFrame qset queue (some f)) s = .next (s.setEth qset { s.ethSet qset with
          rx := (s.ethSet qset).rx.set queue ((s.ethSet qset).rx.get [] queue ++ [f]) })) ∧
      ∀ rest, (s.ethSet qset).tx.get [] queue = f :: rest →
        exec (.ethernetFrame qset queue none) s = .next (s.setEth qset { s.ethSet qset with
          tx := (s.ethSet qset).tx.put [] queue rest })

/-- 02 R62 to R66, 16 R440, R441, R443: what peers, the windows between devices and the ports do. -/
def Obligations.RemoteSteps : Prop := Spec.FrameSteps ∧ Spec.WindowAndPortSteps

/-- 01 R32, R33, 03 R94, 16 R446, R448: an island changes its mode where it may; heat, power and voltage lower or gate islands; an error
of memory is counted or resets its context; power good and a reset of the physical function leave the state after reset, with the
model's time and counters of log 1 to 3; a function-level reset resets a virtual device's contexts. -/
def Obligations.PowerAndResetSteps : Prop :=
  ∀ s : State,
    (∀ island mode, s.mayGate island mode = true → exec (.islandGate island mode) s = .next (s.setIsland island mode)) ∧
    (∀ die, die < 4 → ∃ t, exec (.thermalThrottle die) s = .next t ∧ (∀ i ∈ dieIslands die, t.islands.get .full i ≠ .full) ∧
      (∀ i, i ∉ dieIslands die → t.islands.get .full i = s.islands.get .full i) ∧ t = { s with islands := t.islands }) ∧
    exec .overtempShutdown s = .next { s with powered := false } ∧
    (let first := s.fullClusters.filter s.clusterBeyond
     exec .powerLimit s = .next (s.lowerIslands (if first = [] then s.fullClusters else first))) ∧
    (∀ island, island < 128 →
      exec (.voltageFault island) s = .next ((s.setIsland island .gated).postNotice 0 noticeIsland [island])) ∧
    (∀ cx c, s.ctx? cx = some c → exec (.eccError cx true) s = .next (s.setCtx cx { c with ecc := c.ecc + 1 }) ∧
      (((s.abortQueues cx).endSessions cx).cxStuck cx = false → ∃ t, s.resetContext cx = some t ∧
        exec (.eccError cx false) s = .next (t.postNotice (cx.vd + 1) noticeEcc [cx.ctx]))) ∧
    (∀ ok, ∃ t, exec (.powerGood ok) s = .next t ∧ t = { State.reset with
      agenda := s.agenda, fresh := s.fresh, nextId := s.nextId, fab := s.fab, stk := s.stk, ns := s.ns, inReset := !ok }) ∧
    exec .pfReset s = .next { State.reset with
      agenda := s.agenda, fresh := s.fresh, nextId := s.nextId, fab := s.fab, stk := s.stk, ns := s.ns } ∧
    ∀ vf, vf ≠ 0 → vf ≤ 128 →
      (s.sessions = [] → s.deferred = [] → ∃ t, exec (.vfFlr vf) s = .next t ∧ t.mail.get? vf = none ∧
        ∀ cx ∈ s.contextsOf (vf - 1), ∃ c, t.ctx? cx = some c ∧ c.isReset = true) ∧
      ∀ t, { s with mail := s.mail.erase vf }.resetAll (s.contextsOf (vf - 1)) = some t → exec (.vfFlr vf) s = .next t

end

section

open Sys2Proof Host Sys2Proof.Machine Sys2Proof.Spec

/-- 16 R444: requests given by a function that may not give them answer status 3 and change nothing else; a busy mailbox ignores a
request; a function's oldest notice leaves with GETNOTE, which is refused where there is none; MONITOR answers. -/
def Sys2Proof.Spec.MailboxAnswers : Prop :=
  ∀ (s : State) (tag : Nat),
    (∀ cx q v core entry arg base len stack bank va data head reg,
      ∀ i ∈ [Instr.prod 0 tag cx q v, .fclr 0 tag cx q, .ctlstart 0 tag cx core entry arg, .ctlstop 0 tag core,
          .winopen 0 tag cx base len stack bank, .winclose 0 tag cx base, .memwr 0 tag cx va data, .memrd 0 tag cx va len,
          .headcfg 0 tag head reg v],
        exec i s = .next (s.respond 0 tag stNotAllowed [])) ∧
    (∀ fn vr ar pr sr who entry gang on, fn ≠ 0 → fn ≤ 128 → s.busy fn = false →
      ∀ i ∈ [Instr.vdmake fn tag vr, .arbset fn tag ar, .partmove fn tag pr, .sealRequest fn tag sr, .debugStop fn tag who,
          .debugRun fn tag ⟨who, entry⟩, .debugStep fn tag who, .debugGangStop fn tag gang on],
        exec i s = .next (s.respond fn tag stNotAllowed [])) ∧
    (∀ fn cx q v core entry arg base len stack bank head reg island, fn ≠ 0 → fn ≤ 128 → s.busy fn = true →
      ∀ i ∈ [Instr.prod fn tag cx q v, .fclr fn tag cx q, .ctlstart fn tag cx core entry arg, .ctlstop fn tag core,
          .winopen fn tag cx base len stack bank, .winclose fn tag cx base, .headcfg fn tag head reg v, .getnote fn tag,
          .monitor fn tag island],
        exec i s = .next s) ∧
    (∀ fn, fn ≤ 128 → s.busy fn = false →
      (∀ n rest, s.notices.get [] fn = n :: rest →
        exec (.getnote fn tag) s =
          .next ({ s with notices := s.notices.put [] fn rest }.respond fn tag stDone (n.kind :: n.words))) ∧
      (s.notices.get [] fn = [] → exec (.getnote fn tag) s = .next (s.respond fn tag stRefused []))) ∧
    ∀ fn island, fn ≤ 128 → island < 128 → s.busy fn = false →
      exec (.monitor fn tag island) s = .next (s.respond fn tag stDone ([Config.freeNat (s.freeIx (2 * island)),
        Config.freeNat (s.freeIx (2 * island + 1))] ++ if fn = 0 then [] else [s.bypass.get 0 (fn - 1)]))

/-- 03 R85, R450: PROD and FCLR write the header of a queue of the device, which the dispatcher reads again; a queue that control
threads feed takes no PROD (09 R269). Without the queue, or where its header cannot be written, they are refused. -/
def Sys2Proof.Spec.QueueRequests : Prop :=
  ∀ (s : State) (vd tag : Nat) (cx : CtxId) (q v : Nat), vd < 128 → s.busy (vd + 1) = false →
    (∀ qu, s.ownsCtx vd cx = true → s.queue? cx q = some qu →
      let again (s : State) := s.setQueue cx q { qu with passed := false }
      (∀ f va, s.span cx qu.header 64 true = .error (f, va) →
        ∀ i ∈ [Instr.prod (vd + 1) tag cx q v, .fclr (vd + 1) tag cx q],
          exec i s = .next ((again s).respond (vd + 1) tag stRefused [])) ∧
      ∀ hk, s.span cx qu.header 64 true = .ok hk → unbarred s (.host (vd + 1)) (s.headChans cx qu.header hk) →
        let u := again ((s.undefer (.host (vd + 1))).headTouched cx qu.header hk)
        ((u.qhead hk).feed = true → exec (.prod (vd + 1) tag cx q v) s = .next (u.respond (vd + 1) tag stRefused [])) ∧
        ((u.qhead hk).feed = false →
          exec (.prod (vd + 1) tag cx q v) s = .next ((u.setQ32 hk offProd v).respond (vd + 1) tag stDone [])) ∧
        exec (.fclr (vd + 1) tag cx q) s = .next ((u.setFstat hk 0).respond (vd + 1) tag stDone [])) ∧
    (s.ownsCtx vd cx = false ∨ s.queue? cx q = none → ∀ i ∈ [Instr.prod (vd + 1) tag cx q v, .fclr (vd + 1) tag cx q],
      exec i s = .next (s.respond (vd + 1) tag stRefused []))

/-- 09 R252 to R254: CTLSTART starts a free control thread of the device at its entry, with k0 the argument and every other
register 0; CTLSTOP frees one. -/
def Sys2Proof.Spec.ControlRequests : Prop :=
  ∀ (s : State) (vd tag core : Nat), vd < 128 → s.busy (vd + 1) = false →
    (∀ cx entry arg, s.ownsCtx vd cx = true → s.coreIn cx core = true → (s.ctl core).mode = .free → entry % 32 = 0 →
      entry < 2 ^ 48 →
      let t := s.startCtl core cx entry (arg % 2 ^ 64)
      exec (.ctlstart (vd + 1) tag cx core entry arg) s = .next (t.respond (vd + 1) tag stDone []) ∧
        (t.ctl core).mode = .running ∧ (t.ctl core).owner = some cx ∧ (t.ctl core).pc = entry ∧
        (t.ctl core).k.get 0 0 = BitVec.ofNat 64 arg ∧ (∀ r, r ≠ 0 → (t.ctl core).k.get 0 r = 0) ∧ (t.coreOf core).eq = [] ∧
        ((s.ctl core).pend = [] → t.mem = s.mem ∧ t.teams = s.teams)) ∧
    (∀ cx, (s.ctl core).owner = some cx → cx.vd = vd → s.stuck (s.ctl core).pend = false →
      exec (.ctlstop (vd + 1) tag core) s = .next ((s.freeCtl core).respond (vd + 1) tag stDone [])) ∧
    ((∀ cx, (s.ctl core).owner = some cx → cx.vd ≠ vd) →
      exec (.ctlstop (vd + 1) tag core) s = .next (s.respond (vd + 1) tag stRefused []))

/-- 12 R328: WINOPEN opens a window whose range fits, apart from the context's others, and sets E in its pages; WINCLOSE takes it
away, unless a treelet lies in it. -/
def Sys2Proof.Spec.WindowRequests : Prop :=
  ∀ (s : State) (tag : Nat) (cx : CtxId) (c : Ctx), cx.vd < 128 → s.busy (cx.vd + 1) = false → s.ctx? cx = some c →
    (∀ base len stack bank, s.windowFits cx base len stack bank = true → c.windows.length < 64 →
      (∀ w ∈ c.windows, w.base + w.len ≤ base ∨ base + len ≤ w.base) →
      exec (.winopen (cx.vd + 1) tag cx base len stack bank) s =
        .next (((windowPages base len).foldl (fun s va => s.setEbit cx true va)
          (s.setCtx cx { c with windows := c.windows ++ [{ base := base, len := len, stack := stack, bank := bank }] })).respond
            (cx.vd + 1) tag stDone [])) ∧
    ∀ w, c.windows.find? (fun x => x.base == w.base) = some w →
      (s.windowTreelets cx w = true →
        exec (.winclose (cx.vd + 1) tag cx w.base) s = .next (s.respond (cx.vd + 1) tag stRefused [])) ∧
      (s.windowTreelets cx w = false → s.windowNamed cx w = false → s.windowRead cx w = false →
        ∃ t : State, exec (.winclose (cx.vd + 1) tag cx w.base) s = .next (t.respond (cx.vd + 1) tag stDone []) ∧
          ∃ c' : Ctx, t.ctx? cx = some c' ∧ c'.windows = c.windows.erase w)

/-- 16 R435, R444: MEMWR and MEMRD keep the mailbox busy while they move bytes between a context's memory and the staging buffer, each
crumb as one access; HEADCFG writes a register of a head of the device, and is refused for another's. -/
def Sys2Proof.Spec.MemoryAndHeadRequests : Prop :=
  ∀ (s : State) (vd tag : Nat) (cx : CtxId), vd < 128 →
    let fn := vd + 1
    (∀ (x : Transfer) i data, x.moved = 0 → x.cx = cx →
      (x.write = true ∧ x.len = data.length ∧ i = Instr.memwr fn x.tag cx x.va data) ∨
        (x.write = false ∧ data = [] ∧ i = Instr.memrd fn x.tag cx x.va x.len) →
      ((s.mailbox fn).run = none →
        (s.hostSpan vd cx x.va x.len x.write = none → exec i s = .next (s.respond fn x.tag stRefused [])) ∧
        ∀ keys, s.hostSpan vd cx x.va x.len x.write = some keys →
          exec i s = .next (if x.len = 0 then (s.stage fn 0 data).respond fn x.tag stDone []
            else (s.stage fn 0 data).setRun fn (some x))) ∧
      ∀ k keys, let y := { x with moved := k }
        (s.mailbox fn).run = some y → s.hostSpan vd cx y.crumb.1 y.crumb.2 x.write = some keys →
        s.lockHit cx .global y.crumb.1 y.crumb.2 x.write = false →
        unbarred s (.host fn) (s.keysChans (x.write && s.throughAt cx .g y.crumb.1) keys) →
        let u := (s.undefer (.host fn)).walkedPeer cx y.crumb.1
        let t := if x.write then u.engineWrite cx.vd keys (u.staged fn (y.crumb.1 - x.va) y.crumb.2) (u.throughAt cx .g y.crumb.1)
          else (u.touch cx.vd 0 keys).stage fn (y.crumb.1 - x.va) (keys.map (u.touch cx.vd 0 keys).readKey)
        exec i s = .next (if x.va + x.len ≤ y.crumb.1 + y.crumb.2 then (t.setRun fn none).respond fn x.tag stDone []
          else t.setRun fn (some { y with moved := k + 1 }))) ∧
    ∀ head reg v, head < 128 → s.busy fn = false → (s.head head).cx = some cx →
      (cx.vd ≠ vd → exec (.headcfg (vd + 1) tag head reg v) s = .next (s.respond (vd + 1) tag stRefused [])) ∧
      (cx.vd = vd → exec (.headcfg (vd + 1) tag head reg v) s =
        .next ((s.writeHead head reg v).2.respond (vd + 1) tag (if (s.writeHead head reg v).1 then stDone else stRefused) [])) ∧
      (reg ≠ .cfg → (s.writeHead head reg v).1 = true)

/-- 16 R444: the requests of functions, and what they may ask for. -/
def Obligations.MailboxRequests : Prop :=
  Spec.MailboxAnswers ∧ Spec.QueueRequests ∧ Spec.ControlRequests ∧ Spec.WindowRequests ∧ Spec.MemoryAndHeadRequests

/-- 03 R67 to R69, 13 R367: the physical function makes a virtual device from a request that is good in itself and fits the device,
destroys one, and sets the registers of arbiters, frame controllers and traversal units. -/
def Sys2Proof.Spec.DeviceMaking : Prop :=
  ∀ (s : State) (tag : Nat),
    (∀ vd part raylim rqlim units bases cs wdt cto p, s.parts.get? part = some p → vd < 128 → s.vds.get? vd = none → cs ≠ [] →
      distinct (cs.map (·.ctx)) = true → distinct ((cs.flatMap (·.queues)).map (·.index)) = true →
      distinct (cs.flatMap (·.heads)) = true → (∀ c ∈ cs, ctxReqGood p s c = true) → s.chipFits cs = true →
      s.ringsFit vd units bases = true → raylim < 2 ^ 24 → (∀ n ∈ rqlim, n ≤ 126976) → wdtFits wdt = true → ctoFits cto = true →
      let r := s.writeTrqAll vd (fun k => some (ringWord units bases k)) fun k => some (qlimWord rqlim raylim k)
      let t := cs.foldl (fun s c => s.makeCtx vd c)
        { r.2 with vds := r.2.vds.set vd { part := part, wdt := wdt, cto := cto, remoteErr := 0 } }
      r.1 = true → t.allTablesGood = true → t.headersMapped vd cs = true →
        exec (.vdmake 0 tag (.make vd part raylim rqlim units bases cs wdt cto)) s = .next (t.respond 0 tag stDone [])) ∧
    (∀ vd r, s.destroyVd vd = some r →
      exec (.vdmake 0 tag (.destroy vd)) s = .next (r.st.respond 0 tag r.status r.results) ∧
        (r.status = stDone → r.st.vds.get? vd = none)) ∧
    (∀ arb slot v, arbOk arb = true → slot < arbSlots arb.kind →
      exec (.arbset 0 tag (.bucket arb slot v)) s =
        .next ((s.writeBkcfg arb slot v).2.respond 0 tag (if (s.writeBkcfg arb slot v).1 then stDone else stRefused) [])) ∧
    (∀ slice slot v, slice < 512 → slot < 16 →
      exec (.arbset 0 tag (.way slice slot v)) s =
        .next ((s.writeWayq slice slot v).2.respond 0 tag (if (s.writeWayq slice slot v).1 then stDone else stRefused) [])) ∧
    (∀ part p v, s.parts.get? part = some p →
      exec (.arbset 0 tag (.frame part v)) s = .next ((s.writeFrctl part p v).respond 0 tag stDone [])) ∧
    ∀ stack vd ring qlim, stack < 12 → (s.vds.get? vd).isSome = true →
      exec (.arbset 0 tag (.traversal stack vd ring qlim)) s =
        .next ((s.setTraversal stack vd ring qlim).2.respond 0 tag
          (if (s.setTraversal stack vd ring qlim).1 then stDone else stRefused) [])

/-- 03 R83, R84: the physical function moves a cluster, a group, an Ethernet queue set or a head from the partition that owns it.
A cluster moves at once where none of its gangs is resident; the gangs of a busy one are chosen for pre-emption first. A group
with channels in bank mode first has their sessions end. What another partition owns is refused. -/
def Sys2Proof.Spec.PartitionMoves : Prop :=
  ∀ (s : State) (tag src dst : Nat), src ≤ 16 → dst ≤ 16 → src ≠ dst →
    (∀ c slots, c < 96 → s.partOwns src c (·.clusters) = true →
      (∀ u, s.reslot c slots = some u → s.moveHeld c src = false → s.clusterBusy c = false →
        (∀ x ∈ s.gangs, x.2.resident = true → ∀ k ∈ x.2.cores, coreCluster k ≠ c) →
        exec (.partmove 0 tag (.cluster c src dst slots)) s =
          .next (((u.onPart src fun p => { p with clusters := p.clusters.erase c }).onPart dst
            fun p => { p with clusters := withItem p.clusters c }).respond 0 tag stDone [])) ∧
      (∀ x, (s.reslot c slots).isSome = true → s.moveHeld c src = false → s.clusterBusy c = false →
        s.gangs.filter (fun x => x.2.resident && x.2.cores.any fun k => coreCluster k == c) = [x] → s.gang? x.1 = some x.2 →
        s.saveReady x.1 = false → x ∈ s.together x.1 x.2 true → x.2.toSave = false →
        exec (.partmove 0 tag (.cluster c src dst slots)) s =
          .next ((s.together x.1 x.2 true).foldl (fun s y => s.setGang y.1 { y.2 with toSave := true }) s))) ∧
    (∀ c slots, s.partOwns src c (·.clusters) = false →
      exec (.partmove 0 tag (.cluster c src dst slots)) s = .next (s.respond 0 tag stRefused [])) ∧
    (∀ q, q < 64 → s.partOwns src q (·.qsets) = true →
      exec (.partmove 0 tag (.qset q src dst)) s =
        .next (((s.onPart src fun p => { p with qsets := p.qsets.erase q }).onPart dst
          fun p => { p with qsets := withItem p.qsets q }).respond 0 tag stDone [])) ∧
    (∀ h, h < 128 → s.partOwns src h (·.heads) = true → (s.head h).en = false →
      exec (.partmove 0 tag (.head h src dst)) s =
        .next ((((s.onPart src fun p => { p with heads := p.heads.erase h }).onPart dst
          fun p => { p with heads := withItem p.heads h }).updHead h fun x => { x with cx := none }).respond 0 tag stDone [])) ∧
    ∀ stack g, stack < 12 → g < 8 →
      let base := stack * 2 ^ 36 + g * 2 ^ 33
      s.partOwns src (8 * stack + g) (·.groups) = true → s.groupUsed base = false → s.groupWindowed src base = false →
      (∀ ptes, s.groupSessions stack g ≠ [] →
        exec (.partmove 0 tag (.group stack g src dst [] ptes)) s =
          .next { s with sessions := s.sessions.map fun x =>
            (x.1, if (s.groupSessions stack g).contains x.1 && x.2.ending.isNone then { x.2 with ending := some none } else x.2) }) ∧
      ∀ ptes t, s.groupSessions stack g = [] → s.groupQuiet stack g = true → (∀ cx ∈ s.partCtxs src, s.cxStuck cx = false) →
        s.migrate src base [] ptes = some t → t.groupLeft base = true →
        exec (.partmove 0 tag (.group stack g src dst [] ptes)) s =
          .next ((((t.zeroGroup base).onPart src fun p => { p with groups := p.groups.erase (8 * stack + g) }).onPart dst
            fun p => { p with groups := withItem p.groups (8 * stack + g) }).respond 0 tag stDone [])

/-- 02 R45: the physical function fills an unsealed region that fits, seals it with the SHA-256 of its bytes, and retires it once no
context maps it. -/
def Sys2Proof.Spec.SealRequests : Prop :=
  ∀ (s : State) (tag id : Nat),
    (∀ base len data, s.sealFits id base len = true → data.length ≤ len → (∀ x, s.seals.get? id = some x → x.isSealed = false) →
      ∃ t : State, exec (.sealRequest 0 tag (.fill id base len data)) s = .next (t.respond 0 tag stDone []) ∧
        t.mem = Memory.writes s.mem (((List.range data.length).map (base + ·)).zip data) ∧
        t.seals = s.seals.set id { base := base, len := len, isSealed := false }) ∧
    (∀ x, s.seals.get? id = some x →
      exec (.sealRequest 0 tag (.seal id)) s =
        .next ({ s with seals := s.seals.set id { x with
          isSealed := true
          digest := sha256 ((List.range x.len).map fun i => s.readKey (x.base + i)) } }.respond 0 tag stDone []) ∧
      (s.ctxs.any (fun c => s.ctxMaps c.2 x.base x.len) = false →
        exec (.sealRequest 0 tag (.retire id)) s = .next ({ s with seals := s.seals.erase id }.respond 0 tag stDone [])) ∧
      (s.ctxs.any (fun c => s.ctxMaps c.2 x.base x.len) = true →
        exec (.sealRequest 0 tag (.retire id)) s = .next (s.respond 0 tag stRefused []))) ∧
    (s.seals.get? id = none → exec (.sealRequest 0 tag (.seal id)) s = .next (s.respond 0 tag stRefused []) ∧
      exec (.sealRequest 0 tag (.retire id)) s = .next (s.respond 0 tag stRefused []))

/-- 07 R217, R220, 09 R273: the physical function stops, runs and steps a team or a control thread, and sets gang-stop mode. A team
that context fault handling holds goes on with its gang; a control thread that a trap stopped starts again at an entry. -/
def Sys2Proof.Spec.DebugRequests : Prop :=
  ∀ (s : State) (tag : Nat),
    (∀ core slot t, s.team? core slot = some t →
      exec (.debugStop 0 tag (.team core slot)) s =
        .next ((s.setTeam core slot { t with stops := { t.stops with debug := true, step := false } }).respond 0 tag stDone []) ∧
      exec (.debugRun 0 tag ⟨.team core slot, none⟩) s = .next ((s.debugGo core slot t none).respond 0 tag stDone []) ∧
      (∀ e arg, exec (.debugRun 0 tag ⟨.team core slot, some (e, arg)⟩) s =
        .next ((s.debugGo core slot (t.debugTpc e) none).respond 0 tag stDone [])) ∧
      (∀ g, s.gang? t.gang = some g → g.faultStop = false → s.debugGo core slot t none =
        (s.setTeam core slot t).updTeam core slot fun t => { t with stops := { t.stops with debug := false, step := false } }) ∧
      (s.teamStopped t = true → exec (.debugStep 0 tag (.team core slot)) s =
        .next ((s.setTeam core slot { t with stops := { t.stops with step := true } }).respond 0 tag stDone [])) ∧
      (s.teamStopped t = false → exec (.debugStep 0 tag (.team core slot)) s = .next (s.respond 0 tag stRefused []))) ∧
    (∀ core, let c := s.ctl core
      (c.mode = .running → exec (.debugStop 0 tag (.ctl core)) s =
        .next ((s.setCtl core { c with mode := .held, step := false }).respond 0 tag stDone [])) ∧
      (c.mode = .held ∨ (∃ b, c.mode = .stopped b) →
        exec (.debugRun 0 tag ⟨.ctl core, none⟩) s =
          .next ((s.setCtl core { c with mode := .running, step := false }).respond 0 tag stDone []) ∧
        exec (.debugStep 0 tag (.ctl core)) s =
          .next ((s.setCtl core { c with mode := .running, step := true }).respond 0 tag stDone [])) ∧
      (∀ b cx e arg, c.mode = .stopped b → c.owner = some cx → e % 32 = 0 → e < 2 ^ 48 → s.stuck c.pend = false →
        exec (.debugRun 0 tag ⟨.ctl core, some (e, arg)⟩) s =
          .next ((s.startCtl core cx e (arg % 2 ^ 64)).respond 0 tag stDone [])) ∧
      (c.mode = .free → ∀ x, ∀ i ∈ [Instr.debugStop 0 tag (.ctl core), .debugRun 0 tag ⟨.ctl core, x⟩, .debugStep 0 tag (.ctl core)],
        exec i s = .next (s.respond 0 tag stRefused []))) ∧
    ∀ gang g on, s.gang? gang = some g →
      exec (.debugGangStop 0 tag gang on) s = .next ((s.setGang gang { g with stopMode := on }).respond 0 tag stDone [])

/-- 16 R444, 07 R220, 09 R273: the requests of the physical function. -/
def Obligations.PhysicalFunctionRequests : Prop :=
  Spec.DeviceMaking ∧ Spec.PartitionMoves ∧ Spec.SealRequests ∧ Spec.DebugRequests

/-- 00 R7, 03 R72 to R74, R80, R81, R89, 13 R367, 14 R403, 16 R435: arbiter, way, head and ring registers. An accepted BKCFG, WAYQ,
HDCFG, TRRING or TRQLIM takes its value, a refused one reports through ARBERR or changes nothing; FRCTL restarts its timer; PLAIN
changes only outside bank mode, and a change zero-fills the group. -/
def Sys2Proof.Spec.CheckedRegisters : Prop :=
  ∀ (s : State) (v : W64),
    (∀ arb slot, arbOk arb = true → slot < arbSlots arb.kind →
      exec (.bkcfgWrite arb slot v) s = .next (s.writeBkcfg arb slot v).2 ∧
      let x := ((s.arb arb).slot slot).configure arb.kind (bkcfgOf v)
      ((s.arb arb).bkcfgBad arb.kind slot x = [] → (s.writeBkcfg arb slot v).2 = s.setArb arb ((s.arb arb).setSlot slot x))) ∧
    (∀ slice slot, slice < 512 → slot < 16 → exec (.wayqWrite slice slot v) s = .next (s.writeWayq slice slot v).2 ∧
      (s.wayqBad slice slot (wayMask v.toNat) = false →
        (s.writeWayq slice slot v).2 = { s with wayqs := s.wayqs.set (16 * slice + slot) (wayqOf v) })) ∧
    (∀ head, head < 128 → exec (.hdcfgWrite head v) s = .next (s.writeHdcfg head v).2 ∧
      (s.hdcfgOk (s.head head) (hdcfgOf v) = false → (s.writeHdcfg head v).2 = s) ∧
      (s.hdcfgOk (s.head head) (hdcfgOf v) = true → (hdcfgOf v).getLsbD 63 = false → (s.head head).en = false →
        (s.writeHdcfg head v).2 = s.updHead head fun h => { h with cfg := hdcfgOf v })) ∧
    (∀ stack vd ring qlim, stack < 12 → vd < 128 → s.ringWordFits stack vd ring = true →
      let k := 128 * stack + vd
      let r := ring.getD (s.trring.get 0 k) &&& 0x000000FFFFFFFFFF
      let q := qlim.getD (s.trqlim.get 0 k) &&& 0x0003FFFF00FFFFFF
      let others := ((s.trqlim.filter fun x => x.1 / 128 == stack && x.1 != k).map fun x => bits x.2.toNat 49 32).sum
      let bad := 126976 < others + bits q.toNat 49 32 ∨ bits r.toNat 15 0 * 1024 < bits q.toNat 23 0 ∨
        (ring ≠ none ∧ bits r.toNat 39 36 ≠ stack)
      (¬ bad → exec (.trqlimWrite stack vd ring qlim) s =
        .next { s with trring := s.trring.set k r, trqlim := s.trqlim.set k q }) ∧
      (bad → ∃ t, exec (.trqlimWrite stack vd ring qlim) s = .next t ∧ t.trring = s.trring ∧ t.trqlim = s.trqlim ∧
        (t.arb ⟨8, 3 * stack + 1⟩).err.getLsbD 0 = true)) ∧
    (∀ stack group, stack < 12 → group < 8 →
      ((∀ q < 8, s.sessions.get? (sessKey stack (8 * group + q)) = none ∧
          s.deferred.get [] (sessKey stack (8 * group + q)) = []) →
        let k := 8 * stack + group
        let t := s.setPlain stack group (v.getLsbD 0)
        exec (.grpcfgWrite stack group v) s = .next t ∧ t.plain = s.plain.put false k (v.getLsbD 0) ∧
          (s.plain.get false k = v.getLsbD 0 → t = { s with plain := t.plain }) ∧
          (s.plain.get false k ≠ v.getLsbD 0 → ∀ a, a / 2 ^ 33 = k → t.mem.read a = 0)) ∧
      ((∃ q < 8, (s.sessions.get? (sessKey stack (8 * group + q))).isSome ∨
          s.deferred.get [] (sessKey stack (8 * group + q)) ≠ []) → exec (.grpcfgWrite stack group v) s = .next s)) ∧
    ∀ part p, s.parts.get? part = some p → ∃ t p', exec (.frctlWrite part v) s = .next t ∧ t.parts.get? part = some p' ∧
      p' = { p with
        frctl := v &&& 0x8EFFFFFFFFFFFFFF
        deadline := if frPeriod p'.frctl = 0 then none else some (s.ns + frPeriod p'.frctl) }

/-- 00 R7, 09 R256: a register written by the access column: read-only fields and registers keep their value, W1C bits clear where
1 is written. -/
def Sys2Proof.Spec.PlainRegisters : Prop :=
  ∀ (s : State) (v : W64) (reg : RegRef), regOk reg = true →
    match reg with
    | .arbinfo _ | .arbpool _ | .bkstat _ _ | .frstat _ | .hdstat _ | .carve _ => exec (.registerWrite reg v) s = .next s
    | .arberr k => exec (.registerWrite reg v) s = .next (s.setArb k { s.arb k with err := (s.arb k).err &&& ~~~ (v &&& 0xF) })
    | .hdenc h => exec (.registerWrite reg v) s = .next (s.updHead h fun x => { x with enc := v &&& 0x0000FFFFFFFFFFFF })
    | .hdpaddr h => exec (.registerWrite reg v) s = .next (s.updHead h fun x => { x with paddr := v &&& 0x0000FFFFFFFFFFF8 })
    | .hdstream h => exec (.registerWrite reg v) s = .next (s.updHead h fun x => { x with stream := v &&& 0xFFF0FFFFFFFFFF80 })
    | .fketype p => exec (.registerWrite reg v) s = .next { s with fketype := s.fketype.put 0x88B5 p (v &&& 0xFFFF) }
    | .slotmap k n =>
      exec (.registerWrite reg v) s = .next (s.setArb k { s.arb k with slotmap := (s.arb k).slotmap.set n v })
    | .coreReg c n =>
      (n = 4 → exec (.registerWrite reg v) s = .next (s.setCtl c { s.ctl c with clrb := clrbOf v.toNat })) ∧
      (n ≠ 4 → exec (.registerWrite reg v) s = .next s)
    | _ => True

/-- 02 R45, R62, R65, 03 R93, 07 R217, 16 R441: the settings that Renweaz makes take a value of their range and no other; a debugger
writes the registers of a stopped team. -/
def Sys2Proof.Spec.Settings : Prop :=
  ∀ (s : State) (v : W64),
    exec (.registerWrite .winExp v) s = .next (if v.toNat ≤ 6 then { s with winExp := v.toNat } else s) ∧
    exec (.registerWrite .wto v) s = .next (if 100000 ≤ v.toNat ∧ v.toNat ≤ 100000000 then { s with wto := v.toNat } else s) ∧
    exec (.registerWrite .rto v) s = .next (if 10000 ≤ v.toNat ∧ v.toNat ≤ 10000000 then { s with rto := v.toNat } else s) ∧
    (v.toNat < 64 → s.streams.get? v.toNat = none → exec (.registerWrite .ownIndex v) s = .next { s with device := v.toNat }) ∧
    (∀ i, i < 64 → i ≠ s.device → v ≠ 0 → s.streams.get? i = none → s.streams.length < 63 →
      exec (.registerWrite (.peer i) v) s = .next (s.setStream i Stream.init)) ∧
    (v.toNat ≤ 2 → s.lines = [] → s.wayqs = [] → exec (.registerWrite .poolWays v) s = .next { s with poolWays := v.toNat }) ∧
    (2 < v.toNat → exec (.registerWrite .poolWays v) s = .next s) ∧
    (∀ vd, (s.vds.get? vd).isSome = true →
      (1000000 ≤ v.toNat → v.toNat ≤ 16000000000 →
        exec (.registerWrite (.wdt vd) v) s = .next { s with vds := s.vds.alter vd fun d => { d with wdt := v.toNat } }) ∧
      (100000 ≤ v.toNat → v.toNat ≤ 1000000000 →
        exec (.registerWrite (.cto vd) v) s = .next { s with vds := s.vds.alter vd fun d => { d with cto := v.toNat } })) ∧
    ∀ core slot t, s.team? core slot = some t →
      (s.teamStopped t = false → ∀ r, exec (.registerWrite (.team core slot r) v) s = .next s) ∧
      (s.teamStopped t = true →
        (∀ r, r < 64 →
          exec (.registerWrite (.team core slot (.s r)) v) s = .next (s.setTeam core slot (t.setS r (v.setWidth 32)))) ∧
        (∀ i r, i < t.threads → r < t.regs →
          exec (.registerWrite (.team core slot (.v i r)) v) s = .next (s.setTeam core slot (t.setV i r (v.setWidth 32)))) ∧
        exec (.registerWrite (.team core slot (.control 8)) v) s = .next (s.setTeam core slot { t with taddr := v }))

/-- 00 R7, 02 R45, R62, R65, 03 R72 to R74, R80, R81, R89, R93, 13 R367, 14 R403, 16 R435: register writes and settings. -/
def Obligations.RegisterWrites : Prop := Spec.CheckedRegisters ∧ Spec.PlainRegisters ∧ Spec.Settings

end

namespace Sys2Proof.Spec

open Sys2Proof Host Machine

/-! The whole machine: words, steps, the state after reset, and what every step keeps. -/

/-- The fields of a word of 64 bits with nothing named. -/
def blank : Ins :=
  { len := .l64, guard := none, retain := 0, fsel := false, d := .z, a := .z, b := .z, c := .z, mod := 0, xmod := 0, wmask := none
    zero := false, rnd := 0, sat := false, ftz := false, imm := 0 }

/-- Words that the spec's examples write out (bits of the base word, the extension above them), with their instructions. -/
def words : List (Nat × Nat × Instr) :=
  [(64, 0x000C3C500402F10D, .iadd { blank with d := .v 2, a := .v 1, b := .lit 5, mod := 6 }),
   (64, 0x00003FFFFFFFF025, .exit blank),
   (96, 0x00000000000000060000000017FF000A, .brd { blank with
      len := .l96, guard := some 0, a := .raw 5, b := .raw 0, imm := 6 }),
   (64, 0x00003FF80BFFF059, .cbar { blank with a := .s 2 }),
   (64, 0x00023FFFFFFFF06D, .role { blank with mod := 1 }),
   (64, 0x00043C180004040D, .atom { blank with guard := some 0, d := .v 4, a := .s 0, b := .lit 1, mod := 2 }),
   (64, 0x0000206823FFF425, .msend { blank with a := .s 8, b := .s 6 }),
   (96, 0x00003C0300023C0007FFF52A, .launch { blank with len := .l96, a := .k 1, b := .lit 0, c := .k 3, mod := 1 }),
   (64, 0x00043C401000F509, .kbr { blank with d := .raw 0, a := .k 4, b := .lit 4, mod := 2 }),
   (64, 0x00003FFFFE06F619, .mnext { blank with d := .s 6 }),
   (96, 0x00003E0C000020B82BFFF61E, .mma { blank with len := .l96, a := .s 10, b := .s 11, c := .s 12 }),
   (64, 0x00003C5843FFF681, .cpkick { blank with a := .s 16, b := .lit 5 }),
   (96, 0x00003E44000C0108101406C2, .texs { blank with
      len := .l96, guard := some 0, d := .v 20, a := .s 4, b := .v 16, c := .p 4, mod := 6 }),
   (64, 0x000005081BFF0701, .rays { blank with guard := some 0, a := .s 6, b := .v 80 }),
   (96, 0x00003C030000005013FFF712, .tlpub { blank with len := .l96, a := .k 4, b := .k 5, c := .k 3 }),
   (64, 0x10203DF007FFF74D, .smac { blank with a := .k 1, b := .lit 31, mod := 0x810 }),
   (96, 0x1000000000003FF00BFFF786, .rstate { blank with len := .l96, a := .k 2, imm := 0x10000000 }),
   (64, 0x00003FF02BFFF789, .pxout { blank with a := .v 10 })]

/-- The turn that the next step takes for an agent, and the state it acts in: the agenda's next turn, or behind the agenda's end
the agent that acted last, one cycle of its core later. -/
def acts (s s₁ : State) (a : Agent) : Prop :=
  s.powered = true ∧ s₁.letsAgent a = true ∧
  ((s.agenda = [] ∧ s.cur = some a ∧ s₁ = { s with fresh := s.fresh + 1 }.tickCore (agentCore a) 1) ∨
    ∃ t rest, s.agenda = t :: rest ∧ t.act = .agent a ∧
      s₁ = { ({ s with fresh := s.fresh + 1, agenda := rest } : State).elapse t with cur := some a })

/-- A team's control registers hold only what their tables allow (07 R214, R215; 06 R158, R159). -/
def legalSettings (t : Team) : Prop :=
  1 ≤ t.qnt.toNat ∧ t.qnt.toNat ≤ 4096 ∧ t.tvb.toNat % 512 = 0 ∧ t.tvb.toNat < 2 ^ 48 ∧ t.tvmask.toNat < 2 ^ 14 ∧
    1 ≤ t.fpc.toNat % 8 ∧ t.fpc.toNat % 8 ≤ 5 ∧ t.fpc.toNat < 16 ∧ t.tsr.toNat < 256

end Sys2Proof.Spec

section

open Sys2Proof Host Sys2Proof.Machine Sys2Proof.Spec

/-- The words of the spec's examples decode to the instructions they stand for (05 R133 to R144 and the examples of the chapters). -/
def Obligations.ExampleWordsDecode : Prop := ∀ x ∈ words, decodeTableWord x.1 x.2.1 = some x.2.2

/-- 05 R122 to R136: of a well-formed instruction, the words that the encoder writes decode to it, in any place of a block with room for
them, whatever follows. -/
def Obligations.DecodeOfEncode : Prop :=
  ∀ (sd : Side) (i : Instr) (o : Op) (w : Ins) (room : Nat) (rest : List Byte), i.toOp = some (o, w) → WellFormed sd i = true →
    w.len.size ≤ room → decode sd 512 room (encode i ++ rest) = .ok (.ins i w.len.size)

/-- 05 R122 to R140: what decodes as an instruction is well-formed, and its words are those that the encoder writes: no bit of a word is
dropped. -/
def Obligations.EncodeOfDecode : Prop :=
  ∀ (sd : Side) (room n : Nat) (bytes : List Byte) (i : Instr), decode sd 512 room bytes = .ok (.ins i n) →
    WellFormed sd i = true ∧ encode i = bytes.take n ∧ n ≤ room

/-- 05 R125: a word is a clause header exactly where its kind, its reserved bits and its set-flags allow it, and its fields are those of
the table; on the control thread WAIT is 0 and both set-flags are none. -/
def Obligations.ClauseHeaders : Prop :=
  ∀ (sd : Side) (x : Nat),
    let flag (n : Nat) : Option Nat := if n = 15 then none else some n
    let good := x % 16 = 4 ∧ x < 2 ^ 27 ∧ (bits x 19 16 < 12 ∨ bits x 19 16 = 15) ∧ (bits x 23 20 < 12 ∨ bits x 23 20 = 15) ∧
      (sd = .ctl → bits x 15 4 = 0 ∧ bits x 19 16 = 15 ∧ bits x 23 20 = 15)
    (good → decodeHeader sd x = .ok { yield := bitAt x 26, blocks := bits x 25 24 + 1, setA := flag (bits x 19 16)
                                      setB := flag (bits x 23 20), wait := bits x 15 4 }) ∧
    (¬ good → ∃ r, decodeHeader sd x = .error r)

/-- A step in which a team or the control thread acts, at words that decode to an instruction, is that instruction's meaning; at words
that do not, the trap of 05 R145; and a step of the device is the meaning of its event (log 1 gives the turns). -/
def Obligations.StepRunsTheDecodedInstruction : Prop :=
  ∀ s s₁ : State,
    (∀ core slot t si, acts s s₁ (.team core slot) → s₁.team? core slot = some t → t.leaving = none →
      (t.pendingRole = none ∨ t.between = false) → s₁.site? = some si → si.pos.atEnd = false →
      (∀ i n, si.pos.word .team si.team.regs = .ok (.ins i n) → step s = exec i s₁) ∧
      (si.pos.word .team si.team.regs = .ok .fill →
        step s = .next (s₁.updTeam si.core si.slot fun u => u.stepOver si.entry si.pos 8)) ∧
      ∀ r, si.pos.word .team si.team.regs = .error r →
        step s = .next (s₁.trapSite si ⟨if r.isLen then clsILLEN else clsILLOP, 0, 0⟩ 8)) ∧
    (∀ core cx p, acts s s₁ (.ctl core) → (s₁.ctl core).mode = .running → (s₁.ctl core).owner = some cx →
      (s₁.ctl core).clause = some p → p.atEnd = false →
      (∀ i n, p.word .ctl 512 = .ok (.ins i n) → step s = exec i s₁) ∧
      ∀ r, p.word .ctl 512 = .error r →
        step s = .next (s₁.raiseCtl core ⟨if r.isLen then clsILLEN else clsILLOP, 0, 0⟩ (p.base + p.off) (some p))) ∧
    ∀ t rest i, s.powered = true → s.agenda = t :: rest → t.act = .event i → i.toOp = none →
      s₁ = ({ s with fresh := s.fresh + 1, agenda := rest } : State).elapse t → s₁.lets i = true → step s = exec i s₁

/-- 16 R448, 02 R62, 03 R67: after reset the module has power, memory reads zero and is canonical, no virtual device, context, team or
gang exists, no control thread runs, one partition owns everything, the window length is 2³ µs, and no arbiter has an error. -/
def Obligations.StateAfterReset : Prop :=
  let r := State.reset
  r.powered = true ∧ r.inReset = false ∧ r.mem.wf = true ∧ (∀ k, r.readKey k = 0) ∧ r.vds = [] ∧ r.ctxs = [] ∧ r.teams = [] ∧
    r.gangs = [] ∧ r.launches = [] ∧ r.faults = [] ∧ r.ops = [] ∧ r.locks = [] ∧ r.winExp = 3 ∧
    (∀ core, (r.ctl core).mode = .free ∧ (r.ctl core).owner = none ∧ (r.coreOf core).eq = [] ∧ (r.coreOf core).dq = []) ∧
    (∀ n p, r.parts.get? n = some p → n = 0 ∧ (∀ c < 96, c ∈ p.clusters ∧ c ∈ p.groups) ∧ (∀ q < 64, q ∈ p.qsets) ∧
      ∀ h < 128, h ∈ p.heads) ∧ r.parts.length = 1 ∧ (∀ k, (r.arb k).err = 0) ∧ ∀ p, r.fketype.get 0x88B5 p = 0x88B5

/-- The memory keeps its canonical form: addresses strictly rising, no byte of zero listed, so that equal memories are equal data. -/
def Obligations.MemoryStaysCanonical : Prop := ∀ s t : State, s.mem.wf = true → step s = .next t → t.mem.wf = true

/-- 07 R214, R215, 06 R158, R159: a team whose control registers are legal keeps them so through CRW and TVEC, which change nothing of
any other team. -/
def Obligations.ControlRegistersStayLegal : Prop :=
  ∀ (w : Ins) (s t : State) (si : Site), s.site? = some si → legalSettings si.team →
    ∀ i ∈ [Instr.crw w, .tvec w], WellFormed .team i = true → (∀ o, i.toOp = some (o, w) → si.goes s o w = true) →
      exec i s = .next t → ∃ u, t.team? si.core si.slot = some u ∧ legalSettings u ∧ u.v = si.team.v ∧ u.s = si.team.s ∧
        u.p = si.team.p ∧ t.mem = s.mem ∧
        ∀ core slot, teamKey core slot ≠ teamKey si.core si.slot → t.team? core slot = s.team? core slot

/-- 06 R163, R164: the integer functions on 32 and 64 bits are those of two's complement words: wrapped sums, differences and
products, and the shifts, with zeros or sign bits from the full width up; rotation by the count modulo the width; the count of leading
zeros, reversal and complement. -/
def Obligations.WordFunctions : Prop :=
  ∀ (wide : Bool) (a b : BitVec (widthOf wide)) (c : Nat) (signed : Bool),
    let n := widthOf wide
    (intResult signed wide false (ival signed wide a.toNat + ival signed wide b.toNat)).1 = (a + b).toNat ∧
    (intResult signed wide false (ival signed wide a.toNat - ival signed wide b.toNat)).1 = (a - b).toNat ∧
    (intResult signed wide false (ival signed wide a.toNat * ival signed wide b.toNat)).1 = (a * b).toNat ∧
    ival true wide a.toNat = a.toInt ∧ ival false wide a.toNat = a.toNat ∧
    shlW n a.toNat c = (a <<< (c % 256)).toNat ∧ shrW n a.toNat c = (a >>> (c % 256)).toNat ∧
    sarW n a.toNat c = (a.sshiftRight (c % 256)).toNat ∧ rotW n a.toNat c = (a.rotateLeft (c % 256)).toNat ∧
    notW n a.toNat = (~~~ a).toNat ∧ bitRev n a.toNat = a.reverse.toNat ∧ clzW n a.toNat = a.clz.toNat

/-- 04 R96: the values of the sixteen E2M1 codes. Twice the value is a whole number; code 8 + c is the negative of code c. -/
def Obligations.E2M1Codes : Prop :=
  ∀ c, c < 16 → ∃ m e, Fmt.e2m1.read false c = .num (decide (8 ≤ c)) m e ∧ -1 ≤ e ∧
    m * 2 ^ (e + 1).toNat = [0, 1, 2, 3, 4, 6, 8, 12].getD (c % 8) 0

end
end

