-- ==== Sys2Proof/Laws/Tables.lean ====
section
/-! SUPPORT. Tables and memory: what a read answers after a write, and the canonical form of memory. -/

namespace Sys2Proof

variable {α : Type}

/-! Tables. -/

@[simp] theorem Tbl.get?_set_self (t : Tbl α) (n : Nat) (y : α) : (t.set n y).get? n = some y := by
  induction t with
  | nil => simp [Tbl.set, Tbl.get?]
  | cons x r ih => grind [Tbl.set, Tbl.get?]

theorem Tbl.get?_set_ne (t : Tbl α) {n m : Nat} (y : α) (h : m ≠ n) : (t.set n y).get? m = t.get? m := by
  induction t with
  | nil => simp [Tbl.set, Tbl.get?]; omega
  | cons x r ih => grind [Tbl.set, Tbl.get?]

theorem Tbl.get?_set (t : Tbl α) (n m : Nat) (y : α) : (t.set n y).get? m = if m = n then some y else t.get? m := by
  split
  · subst m; simp
  · simp [Tbl.get?_set_ne _ _ ‹_›]

@[simp] theorem Tbl.get?_erase_self (t : Tbl α) (n : Nat) : (t.erase n).get? n = none := by
  induction t with
  | nil => rfl
  | cons x r ih => grind [Tbl.erase, Tbl.get?]

theorem Tbl.get?_erase_ne (t : Tbl α) {n m : Nat} (h : m ≠ n) : (t.erase n).get? m = t.get? m := by
  induction t with
  | nil => rfl
  | cons x r ih => grind [Tbl.erase, Tbl.get?]

@[simp] theorem Tbl.set_set (t : Tbl α) (n : Nat) (x y : α) : (t.set n x).set n y = t.set n y := by
  induction t with
  | nil => simp [Tbl.set]
  | cons x r ih => grind [Tbl.set]

@[simp] theorem Tbl.get_set_self (d : α) (t : Tbl α) (n : Nat) (y : α) : (t.set n y).get d n = y := by simp [Tbl.get]

theorem Tbl.get_set_ne (d : α) (t : Tbl α) {n m : Nat} (y : α) (h : m ≠ n) : (t.set n y).get d m = t.get d m := by
  simp [Tbl.get, Tbl.get?_set_ne _ _ h]

theorem Tbl.get_put [DecidableEq α] (d : α) (t : Tbl α) (n m : Nat) (y : α) :
    (t.put d n y).get d m = if m = n then y else t.get d m := by
  simp only [Tbl.put, Tbl.get]
  split <;> rename_i hy <;> split <;> rename_i hm
  · subst hm hy; simp
  · rw [Tbl.get?_erase_ne _ hm]
  · subst hm; simp
  · rw [Tbl.get?_set_ne _ _ hm]

@[simp] theorem Tbl.get_put_self [DecidableEq α] (d : α) (t : Tbl α) (n : Nat) (y : α) : (t.put d n y).get d n = y := by
  simp [Tbl.get_put]

namespace Machine

/-! Memory. -/

/-- Above a bound nothing is listed below it. -/
theorem Memory.read_below : ∀ {m : Memory} {lo a : Nat}, Memory.wfFrom (some lo) m = true → a ≤ lo → m.read a = 0
  | [], _, _, _, _ => rfl
  | (k, b) :: r, lo, a, h, ha => by
    simp only [Memory.wfFrom, Bool.and_eq_true, decide_eq_true_eq] at h
    have h1 : lo < k := h.1.1
    have h2 : k ≠ a := by omega
    have h3 : a < k := by omega
    simp [Memory.read, h2, h3]

theorem Memory.wfFrom_mono {m : Memory} {lo : Option Nat} {k : Nat} (h : Memory.wfFrom (some k) m = true)
    (hk : ∀ l, lo = some l → l ≤ k) : Memory.wfFrom lo m = true := by
  cases m with
  | nil => rfl
  | cons x r =>
    simp only [Memory.wfFrom, Bool.and_eq_true, decide_eq_true_eq] at h ⊢
    refine ⟨⟨?_, h.1.2⟩, h.2⟩
    cases lo with
    | none => rfl
    | some l => have := hk l rfl; have := h.1.1; simp; omega

theorem Memory.wfFrom_write {m : Memory} {lo : Option Nat} (a : Nat) (b : Byte) (h : Memory.wfFrom lo m = true)
    (ha : ∀ l, lo = some l → l < a) : Memory.wfFrom lo (m.write a b) = true := by
  induction m generalizing lo with
  | nil =>
    by_cases hb : b = 0
    · simp [Memory.write, hb, Memory.wfFrom]
    · cases lo <;> simp_all [Memory.write, Memory.wfFrom]
  | cons x r ih =>
    obtain ⟨k, c⟩ := x
    simp only [Memory.wfFrom, Bool.and_eq_true] at h
    obtain ⟨⟨h1, h2⟩, h3⟩ := h
    have hlo : ∀ l, lo = some l → l < k := by
      intro l hl; subst hl; simpa using h1
    simp only [Memory.write]
    split
    · rename_i hk
      split
      · simpa [Memory.wfFrom, h1, h3] using h2
      · rename_i hb
        cases lo <;> simp_all [Memory.wfFrom]
    · split
      · rename_i hk hka
        have hka : k = a := by simpa using hka
        subst hka
        split
        · exact Memory.wfFrom_mono h3 fun l hl => Nat.le_of_lt (hlo l hl)
        · rename_i hb
          cases lo <;> simp_all [Memory.wfFrom]
      · rename_i hk hka
        have hka : k ≠ a := by simpa using hka
        have := ih h3 (by intro l hl; cases hl; omega)
        cases lo <;> simp_all [Memory.wfFrom]

/-- A write keeps the canonical form. -/
theorem Memory.wf_write {m : Memory} (a : Nat) (b : Byte) (h : m.wf = true) : (m.write a b).wf = true :=
  Memory.wfFrom_write a b h (by simp)

theorem Memory.wf_writes (l : List (Nat × Byte)) {m : Memory} (h : m.wf = true) : (m.writes l).wf = true := by
  induction l generalizing m with
  | nil => exact h
  | cons x r ih => exact ih (Memory.wf_write x.1 x.2 h)

theorem Memory.wf_writeKeys {m : Memory} (keys : List Nat) (x : Nat) (h : m.wf = true) : (m.writeKeys keys x).wf = true :=
  Memory.wf_writes _ h

theorem Memory.wfFrom_filter {m : Memory} {lo : Option Nat} (p : Host.Cell → Bool) (h : Memory.wfFrom lo m = true) :
    Memory.wfFrom lo (m.filter p) = true := by
  induction m generalizing lo with
  | nil => exact h
  | cons x r ih =>
    simp only [Memory.wfFrom, Bool.and_eq_true] at h
    obtain ⟨⟨h1, h2⟩, h3⟩ := h
    have h4 := ih h3
    by_cases hp : p x = true
    · rw [List.filter_cons_of_pos hp]; simpa [Memory.wfFrom, h1, h4] using h2
    · rw [List.filter_cons_of_neg hp]
      exact Memory.wfFrom_mono h4 fun l hl => by subst hl; simp at h1; omega

theorem Memory.wf_filter {m : Memory} (p : Host.Cell → Bool) (h : m.wf = true) : Memory.wf (m.filter p) = true :=
  Memory.wfFrom_filter p h

/-- A byte reads back as it was written. -/
theorem Memory.read_write_self {m : Memory} {lo : Option Nat} (a : Nat) (b : Byte) (h : Memory.wfFrom lo m = true) :
    (m.write a b).read a = b := by
  induction m generalizing lo with
  | nil =>
    by_cases hb : b = 0
    · subst hb; rfl
    · have hb : ¬b = 0#8 := hb
      simp [Memory.write, Memory.read, hb]
  | cons x r ih =>
    obtain ⟨k, c⟩ := x
    simp only [Memory.wfFrom, Bool.and_eq_true] at h
    simp only [Memory.write]
    split
    · rename_i hk
      have : k ≠ a := by omega
      split <;> simp_all [Memory.read]
    · split
      · rename_i hk hka
        have hka : k = a := by simpa using hka
        subst hka
        split
        · rename_i hb; rw [hb]; exact Memory.read_below h.2 (Nat.le_refl _)
        · simp [Memory.read]
      · rename_i hk hka
        simp only [Memory.read, hka]
        simp [hk, ih h.2]

/-- A write of one byte leaves every other byte. -/
theorem Memory.read_write_ne {m : Memory} {lo : Option Nat} {a c : Nat} (b : Byte) (h : Memory.wfFrom lo m = true) (hc : c ≠ a) :
    (m.write a b).read c = m.read c := by
  induction m generalizing lo with
  | nil =>
    by_cases hb : b = 0
    · subst hb; rfl
    · have hb : ¬b = 0#8 := hb
      simp [Memory.write, Memory.read, hb]; omega
  | cons x r ih =>
    obtain ⟨k, d⟩ := x
    simp only [Memory.wfFrom, Bool.and_eq_true] at h
    simp only [Memory.write]
    split
    · rename_i hk
      split
      · rfl
      · have h1 : (a == c) = false := by simp; omega
        conv => lhs; simp only [Memory.read, h1]
        split
        · simp_all
        · split
          · have h2 : (k == c) = false := by simp; omega
            have h3 : c < k := by omega
            simp [Memory.read, h2, h3]
          · rfl
    · split
      · rename_i hk hka
        have hka : k = a := by simpa using hka
        subst hka
        have h1 : (k == c) = false := by simp; omega
        split
        · simp only [Memory.read, h1]
          split
          · simp_all
          · split
            · exact Memory.read_below h.2 (by omega)
            · rfl
        · simp [Memory.read, h1]
      · simp only [Memory.read]
        rw [ih h.2]

theorem Memory.read_write {m : Memory} (h : m.wf = true) (a : Nat) (b : Byte) (c : Nat) :
    (m.write a b).read c = if c = a then b else m.read c := by
  split
  · subst c; exact Memory.read_write_self a b h
  · exact Memory.read_write_ne b h ‹_›

/-- Writes of a list leave every byte whose key is not in it. -/
theorem Memory.read_writes_ne (l : List (Nat × Byte)) {m : Memory} (h : m.wf = true) {c : Nat} (hc : ∀ x ∈ l, x.1 ≠ c) :
    (m.writes l).read c = m.read c := by
  induction l generalizing m with
  | nil => rfl
  | cons x r ih =>
    simp only [Memory.writes]
    rw [ih (Memory.wf_write _ _ h) fun y hy => hc y (List.mem_cons_of_mem _ hy)]
    exact Memory.read_write_ne _ h (Ne.symm (hc x (List.mem_cons_self ..)))

theorem Memory.read_writeKeys_ne {m : Memory} (h : m.wf = true) (keys : List Nat) (x : Nat) {c : Nat} (hc : c ∉ keys) :
    (m.writeKeys keys x).read c = m.read c := by
  refine Memory.read_writes_ne _ h fun y hy => ?_
  rintro rfl
  exact hc (List.of_mem_zip hy).1

end Machine

end Sys2Proof
end

