-- ==== Sys2Proof/Laws/Canonical/Accesses.lean ====
section
/-! SUPPORT. Memory keeps its canonical form: every operation of memory, caches, accesses and locks. -/

namespace Sys2Proof.Machine

open Sys2Proof Host

/-- Memory is in its canonical form. -/
def State.Canonical (s : State) : Prop := s.mem.wf = true

/-- What an outcome leads to is canonical. -/
def OutcomeCanonical (r : Outcome State Fault Refusal) : Prop := ∀ t, r = .next t → t.Canonical

theorem State.Canonical.of_eq {s t : State} (h : s.Canonical) (e : t.mem = s.mem) : t.Canonical := by
  unfold State.Canonical at *; rw [e]; exact h

theorem State.reset_canonical : State.reset.Canonical := rfl

theorem foldl_keeps {α β : Type} (P : β → Prop) (f : β → α → β) (hf : ∀ b x, P b → P (f b x)) :
    ∀ (l : List α) (b : β), P b → P (l.foldl f b)
  | [], _, h => h
  | x :: l, b, h => foldl_keeps P f hf l (f b x) (hf b x h)

theorem foldl_canonical {α : Type} (f : State → α → State) (hf : ∀ s x, State.Canonical s → State.Canonical (f s x)) :
    ∀ (l : List α) (s : State), s.Canonical → State.Canonical (l.foldl f s)
  | [], _, h => h
  | x :: l, s, h => foldl_canonical f hf l (f s x) (hf s x h)

/-! Ops. -/

theorem State.setTeam_canonical (s : State) (core slot : Nat) (t : Team) (h0 : State.Canonical s) :
    State.Canonical (State.setTeam s core slot t) := by
  unfold State.setTeam; grind [State.Canonical.of_eq]

theorem State.setCore_canonical (s : State) (c : Nat) (x : Core) (h0 : State.Canonical s) :
    State.Canonical (State.setCore s c x) := by
  unfold State.setCore; grind [State.Canonical.of_eq]

theorem State.setCtl_canonical (s : State) (c : Nat) (x : Ctl) (h0 : State.Canonical s) :
    State.Canonical (State.setCtl s c x) := by
  unfold State.setCtl; grind [State.Canonical.of_eq, State.setCore_canonical]

theorem State.setGang_canonical (s : State) (n : Nat) (g : Gang) (h0 : State.Canonical s) :
    State.Canonical (State.setGang s n g) := by
  unfold State.setGang; grind [State.Canonical.of_eq]

theorem State.setCtx_canonical (s : State) (c : CtxId) (x : Ctx) (h0 : State.Canonical s) :
    State.Canonical (State.setCtx s c x) := by
  unfold State.setCtx; grind [State.Canonical.of_eq]

theorem State.newId_canonical (s : State) (h0 : State.Canonical s) :
    State.Canonical ((State.newId s).2) := by
  unfold State.newId; grind [State.Canonical.of_eq]

theorem State.writePA_canonical (s : State) (pa n x : Nat) (h0 : State.Canonical s) :
    State.Canonical (State.writePA s pa n x) := by
  exact Memory.wf_writeKeys _ _ h0

theorem State.postNotice_canonical (s : State) (vf kind : Nat) (words : List Nat) (h0 : State.Canonical s) :
    State.Canonical (State.postNotice s vf kind words) := by
  unfold State.postNotice; grind [State.Canonical.of_eq]

theorem State.tellRenweaz_canonical (s : State) (cx : CtxId) (r : EventRec) (h0 : State.Canonical s) :
    State.Canonical (State.tellRenweaz s cx r) := by
  unfold State.tellRenweaz; grind [State.Canonical.of_eq]

theorem State.postEvent_canonical (s : State) (core : Nat) (cx : CtxId) (r : EventRec) (h0 : State.Canonical s) :
    State.Canonical (State.postEvent s core cx r) := by
  unfold State.postEvent; grind [State.Canonical.of_eq, State.setCore_canonical, State.tellRenweaz_canonical]

theorem State.postFiring_canonical (s : State) (core : Nat) (cx : CtxId) (r : EventRec) (h0 : State.Canonical s) :
    State.Canonical (State.postFiring s core cx r) := by
  unfold State.postFiring; grind [State.Canonical.of_eq, State.postEvent_canonical, State.tellRenweaz_canonical]

theorem State.postFault_canonical (s : State) (r : FaultRec) (h0 : State.Canonical s) :
    State.Canonical ((State.postFault s r).2) := by
  unfold State.postFault; grind [State.Canonical.of_eq, State.newId_canonical]

theorem State.updBar_canonical (s : State) (g b : Nat) (f : Barrier → Barrier) (h0 : State.Canonical s) :
    State.Canonical (State.updBar s g b f) := by
  unfold State.updBar; grind [State.Canonical.of_eq, State.setGang_canonical]

theorem State.barBytes_canonical (s : State) (g b n : Nat) (h0 : State.Canonical s) :
    State.Canonical (State.barBytes s g b n) := by
  unfold State.barBytes; grind [State.Canonical.of_eq, State.updBar_canonical]

theorem State.contextFault_canonical (s : State) (core slot : Nat) (t : Team) (h0 : State.Canonical s) :
    State.Canonical (State.contextFault s core slot t) := by
  unfold State.contextFault; grind [State.Canonical.of_eq, State.postNotice_canonical, State.setGang_canonical,
      State.setTeam_canonical]

theorem State.raise_canonical (s : State) (t : Team) (x : Trap) (a : TrapAt) (h0 : State.Canonical s) :
    State.Canonical (State.raise s t x a) := by
  unfold State.raise; grind [State.Canonical.of_eq, State.contextFault_canonical, State.setTeam_canonical]

theorem State.raiseCtl_canonical (s : State) (core : Nat) (x : Trap) (pc : Nat) (resume : Option ClausePos)
    (h0 : State.Canonical s) :
    State.Canonical (State.raiseCtl s core x pc resume) := by
  unfold State.raiseCtl; grind [State.Canonical.of_eq, State.postNotice_canonical, State.setCtl_canonical]

/-! Cdc. -/

theorem State.writeDram_canonical (s : State) (pa : Nat) (bs : List Byte) (h0 : State.Canonical s) :
    State.Canonical (State.writeDram s pa bs) := by
  exact Memory.wf_writes _ h0

theorem State.writeRaw_canonical (s : State) (tile : Nat) (bs : List Byte) (h0 : State.Canonical s) :
    State.Canonical (State.writeRaw s tile bs) := by
  unfold State.writeRaw; grind [State.Canonical.of_eq, State.writeDram_canonical]

theorem State.cleanTile_canonical (s : State) (tile : Nat) (h0 : State.Canonical s) :
    State.Canonical (State.cleanTile s tile) := by
  unfold State.cleanTile; grind [State.Canonical.of_eq, State.writeDram_canonical]

theorem State.fillTile_canonical (s : State) (tile : Nat) (h0 : State.Canonical s) :
    State.Canonical (State.fillTile s tile) := by
  unfold State.fillTile; grind [State.Canonical.of_eq]

theorem State.writeTileByte_canonical (s : State) (pa : Nat) (b : Byte) (h0 : State.Canonical s) :
    State.Canonical (State.writeTileByte s pa b) := by
  unfold State.writeTileByte; grind [State.Canonical.of_eq, State.writeRaw_canonical]

theorem State.writeKey_canonical (s : State) (k : Nat) (b : Byte) (h0 : State.Canonical s) :
    State.Canonical (State.writeKey s k b) := by
  unfold State.writeKey
  split
  · exact State.writeTileByte_canonical _ _ _ h0
  · exact Memory.wf_write _ _ h0

theorem State.stampKeys_canonical (s : State) (keys : List Nat) (h0 : State.Canonical s) :
    State.Canonical (State.stampKeys s keys) := by
  unfold State.stampKeys; grind [State.Canonical.of_eq]

theorem State.writeKeys_canonical (s : State) (keys : List Nat) (x : Nat) (h0 : State.Canonical s) :
    State.Canonical (State.writeKeys s keys x) := by
  unfold State.writeKeys; grind [State.Canonical.of_eq, State.stampKeys_canonical, State.writeKey_canonical, foldl_canonical]

theorem State.putKeys_canonical (s : State) (keys : List Nat) (bs : List Byte) (h0 : State.Canonical s) :
    State.Canonical (State.putKeys s keys bs) := by
  unfold State.putKeys; grind [State.Canonical.of_eq, State.stampKeys_canonical, State.writeKey_canonical, foldl_canonical]

/-! Cache. -/

theorem State.setArb_canonical (s : State) (k : ArbKey) (a : Arb) (h0 : State.Canonical s) :
    State.Canonical (State.setArb s k a) := by
  unfold State.setArb; grind [State.Canonical.of_eq]

theorem State.countBypass_canonical (s : State) (slice vd : Nat) (h0 : State.Canonical s) :
    State.Canonical (State.countBypass s slice vd) := by
  exact h0.of_eq rfl

theorem State.evictCrumb_canonical (s : State) (crumb : Nat) (h0 : State.Canonical s) :
    State.Canonical (State.evictCrumb s crumb) := by
  unfold State.evictCrumb; grind [State.Canonical.of_eq, State.cleanTile_canonical]

theorem State.fillLine_canonical (s : State) (vd hint : Nat) (tile : Bool) (crumb : Nat) (h0 : State.Canonical s) :
    (∀ y1, State.fillLine s vd hint tile crumb = some y1 → State.Canonical y1) := by
  unfold State.fillLine
  intro y hy
  simp only [Option.map_eq_some_iff] at hy
  obtain ⟨x, _, rfl⟩ := hy
  refine State.Canonical.of_eq (s := match x.2.1 with | some c => s.evictCrumb c | none => s) ?_ rfl
  split
  · exact State.evictCrumb_canonical _ _ h0
  · exact h0

theorem State.hitLine_canonical (s : State) (hint crumb : Nat) (l : Line) (h0 : State.Canonical s) :
    State.Canonical (State.hitLine s hint crumb l) := by
  unfold State.hitLine; grind [State.Canonical.of_eq]

theorem State.touchCrumb_canonical (s : State) (vd hint crumb : Nat) (demand : Bool) (h0 : State.Canonical s) :
    State.Canonical (State.touchCrumb s vd hint crumb demand) := by
  unfold State.touchCrumb; grind [State.Canonical.of_eq, State.countBypass_canonical, State.fillLine_canonical,
      State.hitLine_canonical]

theorem State.fillTileLines_canonical (s : State) (vd hint : Nat) (a1 : List Nat) (h0 : State.Canonical s) :
    (∀ y2, State.fillTileLines s vd hint a1 = some y2 → State.Canonical y2) := by
  fun_induction State.fillTileLines s vd hint a1 <;> grind [State.Canonical.of_eq, State.fillLine_canonical,
      State.hitLine_canonical]

theorem State.touchTile_canonical (s : State) (vd hint crumb : Nat) (demand : Bool) (h0 : State.Canonical s) :
    State.Canonical (State.touchTile s vd hint crumb demand) := by
  unfold State.touchTile; grind [State.Canonical.of_eq, State.countBypass_canonical, State.fillTile_canonical,
      State.fillTileLines_canonical, State.hitLine_canonical]

theorem State.touchAny_canonical (s : State) (vd hint : Nat) (demand : Bool) (x : Nat × Bool) (h0 : State.Canonical s) :
    State.Canonical (State.touchAny s vd hint demand x) := by
  unfold State.touchAny; grind [State.Canonical.of_eq, State.touchCrumb_canonical, State.touchTile_canonical]

theorem State.touch_canonical (s : State) (vd hint : Nat) (keys : List Nat) (h0 : State.Canonical s) :
    State.Canonical (State.touch s vd hint keys) := by
  unfold State.touch; grind [State.Canonical.of_eq, State.touchAny_canonical, foldl_canonical]

theorem State.deferAs_canonical (s : State) (w : Waiter) (chans : List Nat) (h0 : State.Canonical s) :
    (∀ y1, State.deferAs s w chans = some y1 → State.Canonical y1) := by
  intro y hy
  simp only [State.deferAs] at hy
  split at hy
  · cases hy
  · cases hy; exact h0

theorem State.deferAs_getD_canonical (s : State) (w : Waiter) (chans : List Nat) (h0 : State.Canonical s) :
    State.Canonical ((State.deferAs s w chans).getD s) := by
  cases h : s.deferAs w chans with
  | none => exact h0
  | some t => exact State.deferAs_canonical s w chans h0 t h

theorem State.undefer_canonical (s : State) (w : Waiter) (h0 : State.Canonical s) :
    State.Canonical (State.undefer s w) := by
  unfold State.undefer; grind [State.Canonical.of_eq, Option.map_eq_some_iff, Option.bind_eq_some_iff]

theorem State.gate_canonical (s : State) (w : Waiter) (chans : List Nat) (f : State → Option State) (h0 : State.Canonical s)
    (h1 : (∀ x1, State.Canonical x1 → (∀ y2, f x1 = some y2 → State.Canonical y2))) :
    (∀ y3, State.gate s w chans f = some y3 → State.Canonical y3) := by
  unfold State.gate; grind [State.Canonical.of_eq, State.deferAs_canonical, State.undefer_canonical]

theorem State.dirtyKeys_canonical (s : State) (thru : Bool) (keys : List Nat) (h0 : State.Canonical s) :
    State.Canonical (State.dirtyKeys s thru keys) := by
  unfold State.dirtyKeys; grind [State.Canonical.of_eq]

theorem State.sync_canonical (s : State) (core : Nat) (h0 : State.Canonical s) :
    State.Canonical (State.sync s core) := by
  unfold State.sync; grind [State.Canonical.of_eq, State.setCore_canonical]

theorem State.dropL1_canonical (s : State) (f : Nat → Bool) (h0 : State.Canonical s) :
    State.Canonical (State.dropL1 s f) := by
  unfold State.dropL1; grind [State.Canonical.of_eq, Option.map_eq_some_iff, Option.bind_eq_some_iff]

theorem State.grantLease_canonical (s : State) (core crumb pc : Nat) (data : List Byte) (h0 : State.Canonical s) :
    State.Canonical (State.grantLease s core crumb pc data) := by
  unfold State.grantLease; grind [State.Canonical.of_eq, State.setCore_canonical, State.sync_canonical]

theorem State.loadCrumb_canonical (s : State) (via : Via) (crumb : Nat) (h0 : State.Canonical s) :
    State.Canonical ((State.loadCrumb s via crumb).1) := by
  unfold State.loadCrumb; grind [State.Canonical.of_eq, State.grantLease_canonical, State.setCore_canonical, State.touch_canonical]

theorem State.loadCrumbs_canonical (s : State) (via : Via) (a1 : List Nat) (h0 : State.Canonical s) :
    State.Canonical ((State.loadCrumbs s via a1).1) := by
  fun_induction State.loadCrumbs s via a1 <;> grind [State.Canonical.of_eq, State.loadCrumb_canonical]

theorem State.loadKeys_canonical (s : State) (via : Via) (keys : List Nat) (h0 : State.Canonical s) :
    State.Canonical ((State.loadKeys s via keys).1) := by
  unfold State.loadKeys; grind [State.Canonical.of_eq, Option.map_eq_some_iff, Option.bind_eq_some_iff, State.loadCrumbs_canonical]

theorem State.storeKeys_canonical (s : State) (via : Via) (thru : Bool) (keys : List Nat) (x : Nat) (h0 : State.Canonical s) :
    State.Canonical (State.storeKeys s via thru keys x) := by
  unfold State.storeKeys; grind [State.Canonical.of_eq, Option.map_eq_some_iff, Option.bind_eq_some_iff,
      State.dirtyKeys_canonical, State.setCore_canonical, State.touch_canonical, State.writeKeys_canonical]

theorem State.walkedOn_canonical (s : State) (die : Nat) (core : Option Nat) (cx : CtxId) (va : Nat) (h0 : State.Canonical s) :
    State.Canonical (State.walkedOn s die core cx va) := by
  unfold State.walkedOn; grind [State.Canonical.of_eq, State.setCore_canonical, State.touch_canonical, foldl_canonical]

theorem State.walked_canonical (s : State) (core : Nat) (cx : CtxId) (va : Nat) (h0 : State.Canonical s) :
    State.Canonical (State.walked s core cx va) := by
  unfold State.walked; grind [State.Canonical.of_eq, State.walkedOn_canonical]

theorem State.walkedDie_canonical (s : State) (die : Nat) (cx : CtxId) (va : Nat) (h0 : State.Canonical s) :
    State.Canonical (State.walkedDie s die cx va) := by
  unfold State.walkedDie; grind [State.Canonical.of_eq, State.walkedOn_canonical]

theorem State.walkedAll_canonical (s : State) (core : Nat) (cx : CtxId) (vas : List Nat) (h0 : State.Canonical s) :
    State.Canonical (State.walkedAll s core cx vas) := by
  unfold State.walkedAll; grind [State.Canonical.of_eq, Option.map_eq_some_iff, Option.bind_eq_some_iff, State.walked_canonical,
      foldl_canonical]

theorem State.dropTlb_canonical (s : State) (f : TlbEntry → Bool) (h0 : State.Canonical s) :
    State.Canonical (State.dropTlb s f) := by
  unfold State.dropTlb; grind [State.Canonical.of_eq, Option.map_eq_some_iff, Option.bind_eq_some_iff]

theorem State.grantExcl_canonical (s : State) (core : Nat) (keys : List Nat) (h0 : State.Canonical s) :
    State.Canonical (State.grantExcl s core keys) := by
  unfold State.grantExcl; grind [State.Canonical.of_eq]

/-! Operands. -/

theorem State.writeK_canonical (s : State) (core : Nat) (d : Opd) (x : Nat) (h0 : State.Canonical s) :
    State.Canonical (State.writeK s core d x) := by
  unfold State.writeK; grind [State.Canonical.of_eq, State.setCtl_canonical]

/-! Issue. -/

/-- What a meaning asks for is canonical. -/
def Issue.Canonical (r : Issue) : Prop :=
  match r with
  | .done s => s.Canonical
  | .flow s => s.Canonical
  | .block s _ _ => s.Canonical
  | _ => True

theorem State.updTeam_canonical (s : State) (core slot : Nat) (f : Team → Team) (h0 : State.Canonical s) :
    State.Canonical (State.updTeam s core slot f) := by
  unfold State.updTeam; grind [State.Canonical.of_eq, State.setTeam_canonical]

theorem State.trapSite_canonical (s : State) (si : Site) (x : Trap) (size : Nat) (h0 : State.Canonical s) :
    State.Canonical (State.trapSite s si x size) := by
  unfold State.trapSite; grind [State.Canonical.of_eq, State.raise_canonical]

theorem State.faultSite_canonical (s : State) (si : Site) (kind access va addr : Nat) (h0 : State.Canonical s) :
    State.Canonical (State.faultSite s si kind access va addr) := by
  unfold State.faultSite; grind [State.Canonical.of_eq, State.postFault_canonical, State.updTeam_canonical]

theorem State.retireIns_canonical (s : State) (si : Site) (size : Nat) (h0 : State.Canonical s) :
    State.Canonical (State.retireIns s si size) := by
  unfold State.retireIns; grind [State.Canonical.of_eq, State.updTeam_canonical]

theorem State.finish_canonical (s : State) (si : Site) (size : Nat) (r : Issue) (h0 : State.Canonical s) (h1 : Issue.Canonical
    (r)) :
    State.Canonical (State.finish s si size r) := by
  unfold State.finish; grind [State.Canonical.of_eq, Issue.Canonical, State.faultSite_canonical, State.retireIns_canonical,
      State.trapSite_canonical, State.updTeam_canonical]

theorem issueTeam_canonical (o : Op) (w : Ins) (s : State) (body : Site → TMask → Issue) (h0 : State.Canonical s) (h1 :
    (∀ x1 x2, Issue.Canonical (body x1 x2))) :
    OutcomeCanonical (issueTeam o w s body) := by
  unfold issueTeam; grind [State.Canonical.of_eq, Issue.Canonical, OutcomeCanonical, State.finish_canonical,
      State.retireIns_canonical, State.trapSite_canonical]

theorem State.transferTo_canonical (s : State) (si : Site) (e : TMask) (rb : Option Nat) (target : Nat → Nat)
    (h0 : State.Canonical s) :
    State.Canonical (State.transferTo s si e rb target) := by
  unfold State.transferTo; grind [State.Canonical.of_eq, State.updTeam_canonical]

/-! Access. -/

theorem State.performItem_canonical (s : State) (via : Via) (act : MemAct) (x : MemItem) (keys : List Nat)
    (h0 : State.Canonical s) :
    State.Canonical ((State.performItem s via act x keys).1) := by
  unfold State.performItem; grind [State.Canonical.of_eq, State.dirtyKeys_canonical, State.grantExcl_canonical,
      State.loadKeys_canonical, State.storeKeys_canonical, State.sync_canonical, State.touch_canonical,
      State.writeKeys_canonical]

theorem State.performFirst_canonical (s : State) (via : Via) (act : MemAct) (a1 : List MemItem) (h0 : State.Canonical s) :
    (∀ y2 y3 y4, State.performFirst s via act a1 = some (y2, y3, y4) → State.Canonical y2) := by
  fun_induction State.performFirst s via act a1 <;> grind [State.Canonical.of_eq, Option.map_eq_some_iff,
      Option.bind_eq_some_iff, State.performItem_canonical]

theorem State.performItems_canonical (via : Via) (act : MemAct) (a1 : Nat) (a2 : State) (a3 : List MemItem) (a4 : List RegWrite)
    (h0 : State.Canonical a2) :
    State.Canonical ((State.performItems via act a1 a2 a3 a4).1) := by
  fun_induction State.performItems via act a1 a2 a3 a4 <;> grind [State.Canonical.of_eq, State.performFirst_canonical]

theorem State.performSome_canonical (s : State) (n core vd : Nat) (p : Pend) (h0 : State.Canonical s) :
    State.Canonical ((State.performSome s n core vd p).1) := by
  unfold State.performSome; grind [State.Canonical.of_eq, State.performItems_canonical]

theorem State.performPend_canonical (s : State) (core vd : Nat) (p : Pend) (h0 : State.Canonical s) :
    State.Canonical ((State.performPend s core vd p).1) := by
  unfold State.performPend; grind [State.Canonical.of_eq, State.performSome_canonical]

theorem State.performAll_canonical (s : State) (core vd : Nat) (a1 : List Pend) (h0 : State.Canonical s) :
    State.Canonical ((State.performAll s core vd a1).1) := by
  fun_induction State.performAll s core vd a1 <;> grind [State.Canonical.of_eq, State.performPend_canonical]

theorem State.performTo_canonical (s : State) (core vd id : Nat) (a1 : List Pend) (h0 : State.Canonical s) :
    State.Canonical ((State.performTo s core vd id a1).1) := by
  fun_induction State.performTo s core vd id a1 <;> grind [State.Canonical.of_eq, State.performPend_canonical]

theorem State.performNext_canonical (s : State) (core vd id : Nat) (a1 : List Pend) (h0 : State.Canonical s) :
    State.Canonical ((State.performNext s core vd id a1).1) := by
  fun_induction State.performNext s core vd id a1 <;> grind [State.Canonical.of_eq, State.performSome_canonical]

theorem State.drainTeam_canonical (s : State) (core slot : Nat) (h0 : State.Canonical s) :
    State.Canonical (State.drainTeam s core slot) := by
  unfold State.drainTeam; grind [State.Canonical.of_eq, State.performAll_canonical, State.updTeam_canonical]

theorem State.drainCtl_canonical (s : State) (core : Nat) (h0 : State.Canonical s) :
    State.Canonical (State.drainCtl s core) := by
  unfold State.drainCtl; grind [State.Canonical.of_eq, State.performAll_canonical, State.setCtl_canonical]

theorem State.engineWrite_canonical (s : State) (vd : Nat) (keys : List Nat) (bs : List Byte) (thru : Bool := false)
    (h0 : State.Canonical s) :
    State.Canonical (State.engineWrite s vd keys bs thru) := by
  unfold State.engineWrite; grind [State.Canonical.of_eq, State.dirtyKeys_canonical, State.putKeys_canonical, State.touch_canonical]

theorem State.deferPend_canonical (s : State) (who : Agent) (ps : List Pend) (h0 : State.Canonical s) :
    (∀ y1, State.deferPend s who ps = some y1 → State.Canonical y1) := by
  unfold State.deferPend; grind [State.Canonical.of_eq, Option.map_eq_some_iff, Option.bind_eq_some_iff, State.deferAs_canonical]

theorem State.setStream_canonical (s : State) (peer : Nat) (x : Stream) (h0 : State.Canonical s) :
    State.Canonical (State.setStream s peer x) := by
  unfold State.setStream; grind [State.Canonical.of_eq]

theorem State.sendFrame_canonical (s : State) (peer kind : Nat) (cx : CtxId) (items : List FkItem) (window : Nat)
    (who : Option OwnerRef) (h0 : State.Canonical s) :
    State.Canonical (State.sendFrame s peer kind cx items window who) := by
  unfold State.sendFrame; grind [State.Canonical.of_eq, State.setStream_canonical]

theorem State.sendStores_canonical (s : State) (who : OwnerRef) (a1 : List MemItem) (h0 : State.Canonical s) :
    State.Canonical ((State.sendStores s who a1).2) := by
  fun_induction State.sendStores s who a1 <;> grind [State.Canonical.of_eq, State.sendFrame_canonical]

theorem State.sendLoads_canonical (s : State) (who : OwnerRef) (id : Nat) (a1 : List MemItem) (h0 : State.Canonical s) :
    State.Canonical (State.sendLoads s who id a1) := by
  fun_induction State.sendLoads s who id a1 <;> grind [State.Canonical.of_eq, State.sendFrame_canonical, State.setStream_canonical]

/-! CtlIssue. -/

/-- What a meaning of the control thread asks for is canonical. -/
def CtlIssue.Canonical (r : CtlIssue) : Prop :=
  match r with
  | .done s => s.Canonical
  | .goto s _ => s.Canonical
  | .trapIn s _ => s.Canonical
  | .wait s _ _ => s.Canonical
  | .flow s => s.Canonical
  | _ => True

theorem State.onCtl_canonical (s : State) (core : Nat) (f : Ctl → Ctl) (h0 : State.Canonical s) :
    State.Canonical (State.onCtl s core f) := by
  unfold State.onCtl; grind [State.Canonical.of_eq, State.setCtl_canonical]

theorem State.faultCtl_canonical (s : State) (core : Nat) (cx : CtxId) (kind access va addr : Nat) (h0 : State.Canonical s) :
    State.Canonical (State.faultCtl s core cx kind access va addr) := by
  unfold State.faultCtl; grind [State.Canonical.of_eq, State.onCtl_canonical, State.postFault_canonical]

theorem State.stopCtl_canonical (s : State) (si : CtlSite) (size : Nat) (x : Trap) (h0 : State.Canonical s) :
    State.Canonical (State.stopCtl s si size x) := by
  unfold State.stopCtl; grind [State.Canonical.of_eq, State.onCtl_canonical, State.raiseCtl_canonical]

theorem State.finishCtl_canonical (s : State) (si : CtlSite) (size : Nat) (r : CtlIssue) (h0 : State.Canonical s)
    (h1 : CtlIssue.Canonical (r)) :
    State.Canonical (State.finishCtl s si size r) := by
  unfold State.finishCtl; grind [State.Canonical.of_eq, Issue.Canonical, CtlIssue.Canonical, State.faultCtl_canonical,
      State.onCtl_canonical, State.stopCtl_canonical]

theorem issueCtl_canonical (o : Op) (w : Ins) (s : State) (body : CtlSite → CtlIssue) (h0 : State.Canonical s) (h1 : (∀ x1,
    CtlIssue.Canonical (body x1))) :
    OutcomeCanonical (issueCtl o w s body) := by
  unfold issueCtl; grind [State.Canonical.of_eq, Issue.Canonical, CtlIssue.Canonical, OutcomeCanonical, State.finishCtl_canonical]

theorem issueBoth_canonical (o : Op) (w : Ins) (s : State) (team : Site → TMask → Issue) (ctl : CtlSite → CtlIssue)
    (h0 : State.Canonical s) (h1 : (∀ x1 x2, Issue.Canonical (team x1 x2))) (h2 : (∀ x3, CtlIssue.Canonical (ctl x3))) :
    OutcomeCanonical (issueBoth o w s team ctl) := by
  unfold issueBoth; grind [State.Canonical.of_eq, Issue.Canonical, CtlIssue.Canonical, OutcomeCanonical, issueCtl_canonical,
      issueTeam_canonical]

/-! Queues. -/

theorem State.setQ32_canonical (s : State) (hk : List Nat) (off x : Nat) (h0 : State.Canonical s) :
    State.Canonical (State.setQ32 s hk off x) := by
  unfold State.setQ32; grind [State.Canonical.of_eq, State.writeKeys_canonical]

theorem State.setFstat_canonical (s : State) (hk : List Nat) (x : Nat) (h0 : State.Canonical s) :
    State.Canonical (State.setFstat s hk x) := by
  unfold State.setFstat; grind [State.Canonical.of_eq, State.writeKeys_canonical]

theorem State.headTouched_canonical (s : State) (cx : CtxId) (header : Nat) (hk : List Nat) (h0 : State.Canonical s) :
    State.Canonical (State.headTouched s cx header hk) := by
  unfold State.headTouched; grind [State.Canonical.of_eq, State.dirtyKeys_canonical, State.touch_canonical]

theorem State.setQueue_canonical (s : State) (cx : CtxId) (q : Nat) (x : Queue) (h0 : State.Canonical s) :
    State.Canonical (State.setQueue s cx q x) := by
  unfold State.setQueue; grind [State.Canonical.of_eq, State.setCtx_canonical]

/-! Locks. -/

theorem State.setOp_canonical (s : State) (id : Nat) (o : EngOp) (h0 : State.Canonical s) :
    State.Canonical (State.setOp s id o) := by
  unfold State.setOp; grind [State.Canonical.of_eq]

theorem State.dropOp_canonical (s : State) (id : Nat) (h0 : State.Canonical s) :
    State.Canonical (State.dropOp s id) := by
  unfold State.dropOp; grind [State.Canonical.of_eq]

theorem State.drainPart_canonical (s : State) (part : Nat) (h0 : State.Canonical s) :
    State.Canonical (State.drainPart s part) := by
  unfold State.drainPart; grind [State.Canonical.of_eq, State.drainCtl_canonical, State.drainTeam_canonical, foldl_canonical]

theorem State.register_canonical (s : State) (id : Nat) (o : EngOp) (h0 : State.Canonical s) :
    State.Canonical (State.register s id o) := by
  unfold State.register; grind [State.Canonical.of_eq, Option.map_eq_some_iff, Option.bind_eq_some_iff, State.drainPart_canonical]

theorem State.tryRegister_canonical (s : State) (id : Nat) (h0 : State.Canonical s) :
    State.Canonical (State.tryRegister s id) := by
  unfold State.tryRegister; grind [State.Canonical.of_eq, State.register_canonical]

theorem State.enterOp_canonical (s : State) (o : EngOp) (h0 : State.Canonical s) :
    State.Canonical ((State.enterOp s o).2) := by
  unfold State.enterOp; grind [State.Canonical.of_eq, State.newId_canonical, State.setOp_canonical, State.tryRegister_canonical]

theorem State.clearLocks_canonical (s : State) (id : Nat) (h0 : State.Canonical s) :
    State.Canonical (State.clearLocks s id) := by
  unfold State.clearLocks; grind [State.Canonical.of_eq, Option.map_eq_some_iff, Option.bind_eq_some_iff]

theorem State.endOp_canonical (s : State) (id : Nat) (o : EngOp) (h0 : State.Canonical s) :
    State.Canonical (State.endOp s id o) := by
  unfold State.endOp; grind [State.Canonical.of_eq, State.barBytes_canonical, State.clearLocks_canonical, State.dropOp_canonical]

theorem State.abortOp_canonical (s : State) (id : Nat) (h0 : State.Canonical s) :
    State.Canonical (State.abortOp s id) := by
  unfold State.abortOp; grind [State.Canonical.of_eq, State.dropOp_canonical]

theorem State.opFault_canonical (s : State) (id : Nat) (o : EngOp) (kind va : Nat) (h0 : State.Canonical s) :
    (∀ y1, State.opFault s id o kind va = some y1 → State.Canonical y1) := by
  unfold State.opFault; grind [State.Canonical.of_eq, State.postFault_canonical, State.setOp_canonical]

theorem State.dropFault_canonical (s : State) (rec : Nat) (h0 : State.Canonical s) :
    State.Canonical (State.dropFault s rec) := by
  unfold State.dropFault; grind [State.Canonical.of_eq]

theorem State.updTeamRef_canonical (s : State) (gang index : Nat) (f : Team → Team) (h0 : State.Canonical s) :
    State.Canonical (State.updTeamRef s gang index f) := by
  unfold State.updTeamRef; grind [State.Canonical.of_eq, Option.map_eq_some_iff, Option.bind_eq_some_iff,
      State.setGang_canonical, State.setTeam_canonical]

end Sys2Proof.Machine
end

