-- ==== Sys2Proof/Laws/Canonical/Cores.lean ====
section
/-! SUPPORT. Memory keeps its canonical form: every operation of the sequencer, the control thread and the engines of a core. -/

namespace Sys2Proof.Machine

open Sys2Proof Host

/-! Sequencer. -/

theorem State.onTeam_canonical (s : State) (si : Site) (f : Team → Team) (h0 : State.Canonical s) :
    State.Canonical (State.onTeam s si f) := by
  unfold State.onTeam; grind [State.Canonical.of_eq, State.updTeam_canonical]

theorem branchTo_canonical (s : State) (si : Site) (e : TMask) (rb : Option Nat) (target : Nat → Nat) (h0 : State.Canonical s) :
    Issue.Canonical (branchTo s si e rb target) := by
  unfold branchTo; grind [State.Canonical.of_eq, Issue.Canonical, CtlIssue.Canonical, State.transferTo_canonical]

theorem linkTo_canonical (s : State) (si : Site) (w : Ins) (e : TMask) (h0 : State.Canonical s) :
    State.Canonical (linkTo s si w e) := by
  unfold linkTo; grind [State.Canonical.of_eq, Option.map_eq_some_iff, Option.bind_eq_some_iff, State.onTeam_canonical]

theorem execNop_canonical (w : Ins) (s : State) (h0 : State.Canonical s) :
    OutcomeCanonical (execNop w s) := by
  unfold execNop; apply issueBoth_canonical <;> (intros; (repeat' split) <;> grind [State.Canonical.of_eq, Issue.Canonical,
      CtlIssue.Canonical, OutcomeCanonical, issueBoth_canonical])

theorem execBra_canonical (w : Ins) (s : State) (h0 : State.Canonical s) :
    OutcomeCanonical (execBra w s) := by
  unfold execBra; grind [State.Canonical.of_eq, Issue.Canonical, CtlIssue.Canonical, OutcomeCanonical,
      State.transferTo_canonical, issueTeam_canonical]

theorem execBrd_canonical (w : Ins) (s : State) (h0 : State.Canonical s) :
    OutcomeCanonical (execBrd w s) := by
  unfold execBrd; grind [State.Canonical.of_eq, Issue.Canonical, CtlIssue.Canonical, OutcomeCanonical,
      State.transferTo_canonical, issueTeam_canonical]

theorem execBrx_canonical (w : Ins) (s : State) (h0 : State.Canonical s) :
    OutcomeCanonical (execBrx w s) := by
  unfold execBrx; grind [State.Canonical.of_eq, Issue.Canonical, CtlIssue.Canonical, OutcomeCanonical, branchTo_canonical,
      issueTeam_canonical]

theorem execBrxd_canonical (w : Ins) (s : State) (h0 : State.Canonical s) :
    OutcomeCanonical (execBrxd w s) := by
  unfold execBrxd; grind [State.Canonical.of_eq, Issue.Canonical, CtlIssue.Canonical, OutcomeCanonical, branchTo_canonical,
      issueTeam_canonical]

theorem execCall_canonical (w : Ins) (s : State) (h0 : State.Canonical s) :
    OutcomeCanonical (execCall w s) := by
  unfold execCall; grind [State.Canonical.of_eq, Issue.Canonical, CtlIssue.Canonical, OutcomeCanonical,
      State.transferTo_canonical, issueTeam_canonical, linkTo_canonical]

theorem execCallx_canonical (w : Ins) (s : State) (h0 : State.Canonical s) :
    OutcomeCanonical (execCallx w s) := by
  unfold execCallx; grind [State.Canonical.of_eq, Issue.Canonical, CtlIssue.Canonical, OutcomeCanonical, branchTo_canonical,
      issueTeam_canonical, linkTo_canonical]

theorem execRet_canonical (w : Ins) (s : State) (h0 : State.Canonical s) :
    OutcomeCanonical (execRet w s) := by
  unfold execRet; grind [State.Canonical.of_eq, Issue.Canonical, CtlIssue.Canonical, OutcomeCanonical, branchTo_canonical,
      issueTeam_canonical]

theorem writeCohort_canonical (s : State) (vd : Nat) (keys : List Nat) (c : Cohort) (h0 : State.Canonical s) :
    State.Canonical (writeCohort s vd keys c) := by
  unfold writeCohort; grind [State.Canonical.of_eq, State.engineWrite_canonical]

theorem Denied.issue_canonical (d : Denied) (acc : Nat)  :
    Issue.Canonical (Denied.issue d acc) := by
  unfold Denied.issue; grind [State.Canonical.of_eq, Issue.Canonical, CtlIssue.Canonical]

theorem barTrap_canonical (code : Nat)  :
    Issue.Canonical (barTrap code) := by
  unfold barTrap; grind [State.Canonical.of_eq, Issue.Canonical, CtlIssue.Canonical]

theorem cohortAccess_canonical (s : State) (si : Site) (keys : List Nat) (body : State → Issue) (h0 : State.Canonical s) (h1 :
    (∀ x1, State.Canonical x1 → Issue.Canonical (body x1))) :
    Issue.Canonical (cohortAccess s si keys body) := by
  unfold cohortAccess
  simp only
  split
  · exact State.deferAs_getD_canonical _ _ _ h0
  · exact h1 _ (State.sync_canonical _ _ (State.drainTeam_canonical _ _ _ (State.undefer_canonical _ _ h0)))

theorem execCjoin_canonical (w : Ins) (s : State) (h0 : State.Canonical s) :
    OutcomeCanonical (execCjoin w s) := by
  unfold execCjoin; grind [State.Canonical.of_eq, Issue.Canonical, CtlIssue.Canonical, OutcomeCanonical, Denied.issue_canonical,
      State.onTeam_canonical, barTrap_canonical, cohortAccess_canonical, issueTeam_canonical, writeCohort_canonical]

theorem execCleave_canonical (w : Ins) (s : State) (h0 : State.Canonical s) :
    OutcomeCanonical (execCleave w s) := by
  unfold execCleave; grind [State.Canonical.of_eq, Issue.Canonical, CtlIssue.Canonical, OutcomeCanonical,
      Denied.issue_canonical, State.onTeam_canonical, barTrap_canonical, cohortAccess_canonical, issueTeam_canonical,
      writeCohort_canonical]

theorem State.cohortArrive_canonical (s : State) (core slot : Nat) (t : Team) (addr : Nat) (keys : List Nat)
    (h0 : State.Canonical s) :
    State.Canonical ((State.cohortArrive s core slot t addr keys).1) := by
  unfold State.cohortArrive; grind [State.Canonical.of_eq, State.updTeam_canonical, writeCohort_canonical]

theorem execCbar_canonical (w : Ins) (s : State) (h0 : State.Canonical s) :
    OutcomeCanonical (execCbar w s) := by
  unfold execCbar; grind [State.Canonical.of_eq, Issue.Canonical, CtlIssue.Canonical, OutcomeCanonical, Denied.issue_canonical,
      State.cohortArrive_canonical, State.onTeam_canonical, barTrap_canonical, cohortAccess_canonical, issueTeam_canonical]

theorem State.barArrive_canonical (s : State) (t : Team) (b : Nat) (h0 : State.Canonical s) :
    State.Canonical (State.barArrive s t b) := by
  unfold State.barArrive; grind [State.Canonical.of_eq, State.updBar_canonical]

theorem State.countArrive_canonical (s : State) (si : Site) (b : Nat) (e : TMask) (h0 : State.Canonical s) :
    State.Canonical (State.countArrive s si b e) := by
  unfold State.countArrive; grind [State.Canonical.of_eq, State.barArrive_canonical, State.onTeam_canonical]

theorem execBarinit_canonical (w : Ins) (s : State) (h0 : State.Canonical s) :
    OutcomeCanonical (execBarinit w s) := by
  unfold execBarinit; grind [State.Canonical.of_eq, Issue.Canonical, CtlIssue.Canonical, OutcomeCanonical,
      State.updBar_canonical, barTrap_canonical, issueTeam_canonical]

theorem execBararr_canonical (w : Ins) (s : State) (h0 : State.Canonical s) :
    OutcomeCanonical (execBararr w s) := by
  unfold execBararr; grind [State.Canonical.of_eq, Issue.Canonical, CtlIssue.Canonical, OutcomeCanonical,
      State.countArrive_canonical, State.onTeam_canonical, State.updBar_canonical, barTrap_canonical, issueTeam_canonical]

theorem execBarwait_canonical (w : Ins) (s : State) (h0 : State.Canonical s) :
    OutcomeCanonical (execBarwait w s) := by
  unfold execBarwait; grind [State.Canonical.of_eq, Issue.Canonical, CtlIssue.Canonical, OutcomeCanonical, State.sync_canonical,
      barTrap_canonical, issueTeam_canonical]

theorem execBartest_canonical (w : Ins) (s : State) (h0 : State.Canonical s) :
    OutcomeCanonical (execBartest w s) := by
  unfold execBartest; grind [State.Canonical.of_eq, Issue.Canonical, CtlIssue.Canonical, OutcomeCanonical,
      Option.map_eq_some_iff, Option.bind_eq_some_iff, State.onTeam_canonical, State.sync_canonical, barTrap_canonical,
      issueTeam_canonical]

theorem State.exitBars_canonical (s : State) (core slot : Nat) (t : Team) (a1 : List Nat) (h0 : State.Canonical s) :
    State.Canonical (State.exitBars s core slot t a1) := by
  fun_induction State.exitBars s core slot t a1 <;> grind [State.Canonical.of_eq, State.barArrive_canonical,
      State.updTeam_canonical]

theorem State.leaveBars_canonical (s : State) (t : Team) (h0 : State.Canonical s) :
    State.Canonical (State.leaveBars s t) := by
  unfold State.leaveBars; grind [State.Canonical.of_eq, State.updBar_canonical, foldl_canonical]

theorem State.dropRays_canonical (s : State) (gang index : Nat) (h0 : State.Canonical s) :
    State.Canonical (State.dropRays s gang index) := by
  unfold State.dropRays; grind [State.Canonical.of_eq]

theorem State.teamExits_canonical (s : State) (core slot pc : Nat) (t : Team) (h0 : State.Canonical s) :
    State.Canonical (State.teamExits s core slot pc t) := by
  unfold State.teamExits; grind [State.Canonical.of_eq, State.dropRays_canonical, State.setTeam_canonical]

theorem exitWith_canonical (s : State) (si : Site) (e : TMask) (keys : Option (List Nat)) (h0 : State.Canonical s) :
    State.Canonical (exitWith s si e keys) := by
  unfold exitWith; grind [State.Canonical.of_eq, State.cohortArrive_canonical, State.exitBars_canonical,
      State.leaveBars_canonical, State.setTeam_canonical, State.teamExits_canonical]

theorem execExit_canonical (w : Ins) (s : State) (h0 : State.Canonical s) :
    OutcomeCanonical (execExit w s) := by
  unfold execExit; grind [State.Canonical.of_eq, Issue.Canonical, CtlIssue.Canonical, OutcomeCanonical, Denied.issue_canonical,
      cohortAccess_canonical, exitWith_canonical, issueTeam_canonical]

theorem execSyncr_canonical (w : Ins) (s : State) (h0 : State.Canonical s) :
    OutcomeCanonical (execSyncr w s) := by
  unfold execSyncr; grind [State.Canonical.of_eq, Issue.Canonical, CtlIssue.Canonical, OutcomeCanonical, State.onTeam_canonical,
      issueTeam_canonical]

theorem execYield_canonical (w : Ins) (s : State) (h0 : State.Canonical s) :
    OutcomeCanonical (execYield w s) := by
  unfold execYield; grind [State.Canonical.of_eq, Issue.Canonical, CtlIssue.Canonical, OutcomeCanonical, State.onTeam_canonical,
      issueTeam_canonical]

theorem execWaitw_canonical (w : Ins) (s : State) (h0 : State.Canonical s) :
    OutcomeCanonical (execWaitw w s) := by
  unfold execWaitw; grind [State.Canonical.of_eq, Issue.Canonical, CtlIssue.Canonical, OutcomeCanonical, issueTeam_canonical]

theorem execSleep_canonical (w : Ins) (s : State) (h0 : State.Canonical s) :
    OutcomeCanonical (execSleep w s) := by
  unfold execSleep; grind [State.Canonical.of_eq, Issue.Canonical, CtlIssue.Canonical, OutcomeCanonical, issueTeam_canonical]

theorem execTrap_canonical (w : Ins) (s : State) (h0 : State.Canonical s) :
    OutcomeCanonical (execTrap w s) := by
  unfold execTrap; grind [State.Canonical.of_eq, Issue.Canonical, CtlIssue.Canonical, OutcomeCanonical, issueTeam_canonical]

theorem execBkpt_canonical (w : Ins) (s : State) (h0 : State.Canonical s) :
    OutcomeCanonical (execBkpt w s) := by
  unfold execBkpt; grind [State.Canonical.of_eq, Issue.Canonical, CtlIssue.Canonical, OutcomeCanonical, issueTeam_canonical]

theorem execTvec_canonical (w : Ins) (s : State) (h0 : State.Canonical s) :
    OutcomeCanonical (execTvec w s) := by
  unfold execTvec; grind [State.Canonical.of_eq, Issue.Canonical, CtlIssue.Canonical, OutcomeCanonical, State.onTeam_canonical,
      issueTeam_canonical]

theorem execTret_canonical (w : Ins) (s : State) (h0 : State.Canonical s) :
    OutcomeCanonical (execTret w s) := by
  unfold execTret; grind [State.Canonical.of_eq, Issue.Canonical, CtlIssue.Canonical, OutcomeCanonical, State.onTeam_canonical,
      State.transferTo_canonical, issueTeam_canonical]

theorem execPlop_canonical (w : Ins) (s : State) (h0 : State.Canonical s) :
    OutcomeCanonical (execPlop w s) := by
  unfold execPlop; grind [State.Canonical.of_eq, Issue.Canonical, CtlIssue.Canonical, OutcomeCanonical, Option.map_eq_some_iff,
      Option.bind_eq_some_iff, State.onTeam_canonical, issueTeam_canonical]

theorem execPmovTov_canonical (w : Ins) (s : State) (h0 : State.Canonical s) :
    OutcomeCanonical (execPmovTov w s) := by
  unfold execPmovTov; grind [State.Canonical.of_eq, Issue.Canonical, CtlIssue.Canonical, OutcomeCanonical,
      Option.map_eq_some_iff, Option.bind_eq_some_iff, State.onTeam_canonical, issueTeam_canonical]

theorem execPmovSel_canonical (w : Ins) (s : State) (h0 : State.Canonical s) :
    OutcomeCanonical (execPmovSel w s) := by
  unfold execPmovSel; grind [State.Canonical.of_eq, Issue.Canonical, CtlIssue.Canonical, OutcomeCanonical,
      State.onTeam_canonical, issueTeam_canonical]

theorem execVote_canonical (w : Ins) (s : State) (h0 : State.Canonical s) :
    OutcomeCanonical (execVote w s) := by
  unfold execVote; grind [State.Canonical.of_eq, Issue.Canonical, CtlIssue.Canonical, OutcomeCanonical, Option.map_eq_some_iff,
      Option.bind_eq_some_iff, State.onTeam_canonical, issueTeam_canonical]

theorem execRole_canonical (w : Ins) (s : State) (h0 : State.Canonical s) :
    OutcomeCanonical (execRole w s) := by
  unfold execRole; grind [State.Canonical.of_eq, Issue.Canonical, CtlIssue.Canonical, OutcomeCanonical, State.onTeam_canonical,
      issueTeam_canonical]

theorem execDqpop_canonical (w : Ins) (s : State) (h0 : State.Canonical s) :
    OutcomeCanonical (execDqpop w s) := by
  unfold execDqpop; grind [State.Canonical.of_eq, Issue.Canonical, CtlIssue.Canonical, OutcomeCanonical,
      State.drainTeam_canonical, State.onTeam_canonical, State.setCore_canonical, State.sync_canonical, issueTeam_canonical]

theorem execCrr_canonical (w : Ins) (s : State) (h0 : State.Canonical s) :
    OutcomeCanonical (execCrr w s) := by
  unfold execCrr; grind [State.Canonical.of_eq, Issue.Canonical, CtlIssue.Canonical, OutcomeCanonical, State.onTeam_canonical,
      issueTeam_canonical]

theorem execCrw_canonical (w : Ins) (s : State) (h0 : State.Canonical s) :
    OutcomeCanonical (execCrw w s) := by
  unfold execCrw; grind [State.Canonical.of_eq, Issue.Canonical, CtlIssue.Canonical, OutcomeCanonical, State.onTeam_canonical,
      issueTeam_canonical]

/-! SeqEvents. -/

theorem enabled_canonical (s : State) (r : Option State) (h0 : State.Canonical s) (h1 : (∀ y1, r = some y1 → State.Canonical y1)) :
    OutcomeCanonical (enabled s r) := by
  intro t ht
  cases ht
  cases r with
  | none => exact h0
  | some u => exact h1 u rfl

theorem State.switchSplit_canonical (s : State) (core slot : Nat) (t : Team) (h0 : State.Canonical s) :
    State.Canonical (State.switchSplit s core slot t) := by
  unfold State.switchSplit; grind [State.Canonical.of_eq, State.setTeam_canonical]

theorem execQuantumExpiry_canonical (core slot : Nat) (s : State) (h0 : State.Canonical s) :
    OutcomeCanonical (execQuantumExpiry core slot s) := by
  unfold execQuantumExpiry; grind [State.Canonical.of_eq, OutcomeCanonical, State.switchSplit_canonical, enabled_canonical]

theorem State.trapBetween_canonical (s : State) (core slot e : Nat) (t : Team) (pc : Nat) (x : Trap) (h0 : State.Canonical s) :
    State.Canonical (State.trapBetween s core slot e t pc x) := by
  unfold State.trapBetween; grind [State.Canonical.of_eq, State.raise_canonical]

theorem State.fetchFault_canonical (s : State) (core slot e : Nat) (t : Team) (cx : CtxId) (kind va : Nat)
    (h0 : State.Canonical s) :
    State.Canonical (State.fetchFault s core slot e t cx kind va) := by
  unfold State.fetchFault; grind [State.Canonical.of_eq, State.postFault_canonical, State.setTeam_canonical,
      State.updTeam_canonical]

theorem State.startClause_canonical (s : State) (core slot e : Nat) (t : Team) (h0 : State.Canonical s) :
    State.Canonical (State.startClause s core slot e t) := by
  unfold State.startClause
  simp only
  (repeat' split) <;> grind [State.trapBetween_canonical, State.fetchFault_canonical, State.deferAs_getD_canonical,
    State.undefer_canonical, State.walkedAll_canonical, State.setTeam_canonical]

theorem execClauseStart_canonical (core slot : Nat) (s : State) (h0 : State.Canonical s) :
    OutcomeCanonical (execClauseStart core slot s) := by
  unfold execClauseStart; grind [State.Canonical.of_eq, OutcomeCanonical, State.startClause_canonical, enabled_canonical]

theorem execSleepExpiry_canonical (core slot entry : Nat) (s : State) (h0 : State.Canonical s) :
    OutcomeCanonical (execSleepExpiry core slot entry s) := by
  unfold execSleepExpiry; grind [State.Canonical.of_eq, OutcomeCanonical, State.setTeam_canonical, enabled_canonical]

theorem execIssueStarvationPromote_canonical (core slot : Nat) (s : State) (h0 : State.Canonical s) :
    OutcomeCanonical (execIssueStarvationPromote core slot s) := by
  unfold execIssueStarvationPromote; grind [State.Canonical.of_eq, OutcomeCanonical, State.setTeam_canonical, enabled_canonical]

theorem State.exitArrivalFault_canonical (s : State) (core slot entry pc : Nat) (t : Team) (x : Trap) (h0 : State.Canonical s) :
    State.Canonical (State.exitArrivalFault s core slot entry pc t x) := by
  unfold State.exitArrivalFault; grind [State.Canonical.of_eq, State.contextFault_canonical]

theorem State.lateArrivalFails_canonical (s : State) (core slot addr : Nat) (t : Team) (d : Denied) (h0 : State.Canonical s) :
    (∀ y1, State.lateArrivalFails s core slot addr t d = some y1 → State.Canonical y1) := by
  unfold State.lateArrivalFails; grind [State.Canonical.of_eq, State.exitArrivalFault_canonical, State.postFault_canonical,
      State.raise_canonical, State.setTeam_canonical, State.updTeam_canonical]

theorem execCohortPhaseSeen_canonical (core slot : Nat) (s : State) (h0 : State.Canonical s) :
    OutcomeCanonical (execCohortPhaseSeen core slot s) := by
  unfold execCohortPhaseSeen; simp only; (repeat' split) <;> grind [State.Canonical.of_eq, OutcomeCanonical,
      State.gate_canonical, State.lateArrivalFails_canonical, State.setTeam_canonical, State.sync_canonical, enabled_canonical,
      writeCohort_canonical]

theorem State.leaveFault_canonical (s : State) (core slot pc : Nat) (t : Team) (x : Trap) (h0 : State.Canonical s) :
    State.Canonical (State.leaveFault s core slot pc t x) := by
  unfold State.leaveFault; grind [State.Canonical.of_eq, State.contextFault_canonical]

theorem execCohortLeaveAtExit_canonical (core slot : Nat) (s : State) (h0 : State.Canonical s) :
    OutcomeCanonical (execCohortLeaveAtExit core slot s) := by
  unfold execCohortLeaveAtExit; simp only; (repeat' split) <;> grind [State.Canonical.of_eq, OutcomeCanonical,
      State.drainTeam_canonical, State.gate_canonical, State.leaveFault_canonical, State.postFault_canonical,
      State.sync_canonical, State.updTeam_canonical, enabled_canonical, writeCohort_canonical]

theorem execRoleSwitch_canonical (core slot : Nat) (s : State) (h0 : State.Canonical s) :
    OutcomeCanonical (execRoleSwitch core slot s) := by
  unfold execRoleSwitch; grind [State.Canonical.of_eq, OutcomeCanonical, State.newId_canonical, State.setTeam_canonical,
      enabled_canonical]

/-! MemoryOps. -/

theorem State.walkedFor_canonical (s : State) (core : Nat) (cx : CtxId) (sp : Space) (wants : List Want) (h0 : State.Canonical s) :
    State.Canonical (State.walkedFor s core cx sp wants) := by
  unfold State.walkedFor; grind [State.Canonical.of_eq, Option.map_eq_some_iff, Option.bind_eq_some_iff, State.walkedAll_canonical]

theorem checked_canonical (s : State) (si : Site) (sp : Space) (acc : Acc) (wants : List Want) (body : State → List
    (Nat × Place) → Issue) (h0 : State.Canonical s) (h1 : (∀ x1 x2, State.Canonical x1 → Issue.Canonical (body x1 x2))) :
    Issue.Canonical (checked s si sp acc wants body) := by
  unfold checked; grind [State.Canonical.of_eq, Issue.Canonical, CtlIssue.Canonical, State.walkedFor_canonical]

theorem issueLoad_canonical (o : Op) (w : Ins) (si : Site) (s : State) (places : List (Nat × Place)) (h0 : State.Canonical s) :
    Issue.Canonical (issueLoad o w si s places) := by
  unfold issueLoad; grind [State.Canonical.of_eq, Issue.Canonical, CtlIssue.Canonical, Option.map_eq_some_iff,
      Option.bind_eq_some_iff, State.newId_canonical, State.onTeam_canonical, State.sendLoads_canonical]

theorem execLd_canonical (w : Ins) (s : State) (h0 : State.Canonical s) :
    OutcomeCanonical (execLd w s) := by
  unfold execLd; grind [State.Canonical.of_eq, Issue.Canonical, CtlIssue.Canonical, OutcomeCanonical, Option.map_eq_some_iff,
      Option.bind_eq_some_iff, checked_canonical, issueLoad_canonical, issueTeam_canonical]

theorem execLdu_canonical (w : Ins) (s : State) (h0 : State.Canonical s) :
    OutcomeCanonical (execLdu w s) := by
  unfold execLdu; grind [State.Canonical.of_eq, Issue.Canonical, CtlIssue.Canonical, OutcomeCanonical, Option.map_eq_some_iff,
      Option.bind_eq_some_iff, checked_canonical, issueLoad_canonical, issueTeam_canonical]

theorem issueStore_canonical (s : State) (si : Site) (hint : Nat) (act : MemAct) (items : List MemItem) (h0 : State.Canonical s) :
    Issue.Canonical (issueStore s si hint act items) := by
  unfold issueStore; grind [State.Canonical.of_eq, Issue.Canonical, CtlIssue.Canonical, State.newId_canonical,
      State.onTeam_canonical, State.sendStores_canonical]

theorem execSt_canonical (w : Ins) (s : State) (h0 : State.Canonical s) :
    OutcomeCanonical (execSt w s) := by
  unfold execSt; grind [State.Canonical.of_eq, Issue.Canonical, CtlIssue.Canonical, OutcomeCanonical, Option.map_eq_some_iff,
      Option.bind_eq_some_iff, checked_canonical, issueStore_canonical, issueTeam_canonical]

theorem execAtom_canonical (w : Ins) (s : State) (h0 : State.Canonical s) :
    OutcomeCanonical (execAtom w s) := by
  unfold execAtom; grind [State.Canonical.of_eq, Issue.Canonical, CtlIssue.Canonical, OutcomeCanonical, Option.map_eq_some_iff,
      Option.bind_eq_some_iff, State.newId_canonical, State.onTeam_canonical, checked_canonical, issueStore_canonical,
      issueTeam_canonical]

theorem execRed_canonical (w : Ins) (s : State) (h0 : State.Canonical s) :
    OutcomeCanonical (execRed w s) := by
  unfold execRed; grind [State.Canonical.of_eq, Issue.Canonical, CtlIssue.Canonical, OutcomeCanonical, Option.map_eq_some_iff,
      Option.bind_eq_some_iff, checked_canonical, issueStore_canonical, issueTeam_canonical]

theorem State.prefetchL1_canonical (s : State) (core : Nat) (keys : List Nat) (h0 : State.Canonical s) :
    State.Canonical (State.prefetchL1 s core keys) := by
  unfold State.prefetchL1; grind [State.Canonical.of_eq, Option.map_eq_some_iff, Option.bind_eq_some_iff,
      State.grantLease_canonical, foldl_canonical]

theorem execPrf_canonical (w : Ins) (s : State) (h0 : State.Canonical s) :
    OutcomeCanonical (execPrf w s) := by
  unfold execPrf; grind [State.Canonical.of_eq, Issue.Canonical, CtlIssue.Canonical, OutcomeCanonical,
      State.prefetchL1_canonical, State.touchAny_canonical, issueTeam_canonical, foldl_canonical]

theorem execCctl_canonical (w : Ins) (s : State) (h0 : State.Canonical s) :
    OutcomeCanonical (execCctl w s) := by
  unfold execCctl; grind [State.Canonical.of_eq, Issue.Canonical, CtlIssue.Canonical, OutcomeCanonical, Option.map_eq_some_iff,
      Option.bind_eq_some_iff, State.newId_canonical, State.onTeam_canonical, checked_canonical, issueTeam_canonical]

theorem State.pinCrumb_canonical (s : State) (cx : CtxId) (pa : Nat) (h0 : State.Canonical s) :
    State.Canonical ((State.pinCrumb s cx pa).2) := by
  unfold State.pinCrumb; grind [State.Canonical.of_eq, Option.map_eq_some_iff, Option.bind_eq_some_iff,
      State.evictCrumb_canonical, State.touchCrumb_canonical]

theorem State.cctlKey_canonical (s : State) (cx : CtxId) (op k : Nat) (h0 : State.Canonical s) :
    State.Canonical ((State.cctlKey s cx op k).2) := by
  unfold State.cctlKey; grind [State.Canonical.of_eq, Option.map_eq_some_iff, Option.bind_eq_some_iff,
      State.evictCrumb_canonical, State.pinCrumb_canonical, State.touchTile_canonical]

theorem State.cctlAll_canonical (s : State) (cx : CtxId) (op : Nat) (a1 : List (Nat × Nat)) (h0 : State.Canonical s) :
    State.Canonical ((State.cctlAll s cx op a1).2) := by
  fun_induction State.cctlAll s cx op a1 <;> grind [State.Canonical.of_eq, State.cctlKey_canonical]

theorem execCctlAnswer_canonical (core slot : Nat) (s : State) (h0 : State.Canonical s) :
    OutcomeCanonical (execCctlAnswer core slot s) := by
  unfold execCctlAnswer; grind [State.Canonical.of_eq, OutcomeCanonical, State.cctlAll_canonical, State.deferPend_canonical,
      State.drainTeam_canonical, State.updTeam_canonical, enabled_canonical]

theorem execWinf_canonical (w : Ins) (s : State) (h0 : State.Canonical s) :
    OutcomeCanonical (execWinf w s) := by
  unfold execWinf; grind [State.Canonical.of_eq, Issue.Canonical, CtlIssue.Canonical, OutcomeCanonical, State.onCtl_canonical,
      State.onTeam_canonical, issueBoth_canonical]

theorem execWinw_canonical (w : Ins) (s : State) (h0 : State.Canonical s) :
    OutcomeCanonical (execWinw w s) := by
  unfold execWinw; grind [State.Canonical.of_eq, Issue.Canonical, CtlIssue.Canonical, OutcomeCanonical, State.onCtl_canonical,
      State.onTeam_canonical, issueBoth_canonical]

theorem execMsend_canonical (w : Ins) (s : State) (h0 : State.Canonical s) :
    OutcomeCanonical (execMsend w s) := by
  unfold execMsend; grind [State.Canonical.of_eq, Issue.Canonical, CtlIssue.Canonical, OutcomeCanonical, Option.map_eq_some_iff,
      Option.bind_eq_some_iff, State.drainTeam_canonical, State.setGang_canonical, issueTeam_canonical]

theorem State.giveFlit_canonical (s : State) (key id d : Nat) (f : Flit) (h0 : State.Canonical s) :
    State.Canonical (State.giveFlit s key id d f) := by
  unfold State.giveFlit; grind [State.Canonical.of_eq, Option.map_eq_some_iff, Option.bind_eq_some_iff, State.setCore_canonical]

theorem State.matchFlits_canonical (s : State) (gang member port : Nat) (a1 : Nat) (h0 : State.Canonical s) :
    State.Canonical (State.matchFlits s gang member port a1) := by
  fun_induction State.matchFlits s gang member port a1 <;> grind [State.Canonical.of_eq, State.giveFlit_canonical,
      State.setGang_canonical]

theorem execMrecv_canonical (w : Ins) (s : State) (h0 : State.Canonical s) :
    OutcomeCanonical (execMrecv w s) := by
  unfold execMrecv; grind [State.Canonical.of_eq, Issue.Canonical, CtlIssue.Canonical, OutcomeCanonical,
      State.drainTeam_canonical, State.matchFlits_canonical, State.newId_canonical, State.onTeam_canonical, issueTeam_canonical]

theorem execMpoll_canonical (w : Ins) (s : State) (h0 : State.Canonical s) :
    OutcomeCanonical (execMpoll w s) := by
  unfold execMpoll; grind [State.Canonical.of_eq, Issue.Canonical, CtlIssue.Canonical, OutcomeCanonical, State.onTeam_canonical,
      issueTeam_canonical]

theorem execFlitDeliver_canonical (gang member port : Nat) (s : State) (h0 : State.Canonical s) :
    OutcomeCanonical (execFlitDeliver gang member port s) := by
  unfold execFlitDeliver; simp only; (repeat' split) <;> grind [State.Canonical.of_eq, OutcomeCanonical,
      State.matchFlits_canonical, State.setGang_canonical, enabled_canonical]

theorem State.reachMstat_canonical (s : State) (core slot op : Nat) (h0 : State.Canonical s) :
    State.Canonical (State.reachMstat s core slot op) := by
  unfold State.reachMstat; grind [State.Canonical.of_eq, Option.map_eq_some_iff, Option.bind_eq_some_iff, State.setTeam_canonical]

theorem execLongLatencyComplete_canonical (core slot op : Nat) (part : Option (List Nat)) (s : State) (h0 : State.Canonical s) :
    OutcomeCanonical (execLongLatencyComplete core slot op part s) := by
  unfold execLongLatencyComplete; grind [State.Canonical.of_eq, OutcomeCanonical, State.deferPend_canonical,
      State.performNext_canonical, State.performTo_canonical, State.reachMstat_canonical, State.updTeam_canonical,
      enabled_canonical]

theorem execStoreComplete_canonical (who : Agent) (s : State) (h0 : State.Canonical s) :
    OutcomeCanonical (execStoreComplete who s) := by
  unfold execStoreComplete; grind [State.Canonical.of_eq, OutcomeCanonical, State.deferPend_canonical, State.onCtl_canonical,
      State.performNext_canonical, State.updTeam_canonical, enabled_canonical]

theorem execEvictLastExpiry_canonical (crumb : Nat) (s : State) (h0 : State.Canonical s) :
    OutcomeCanonical (execEvictLastExpiry crumb s) := by
  unfold execEvictLastExpiry; grind [State.Canonical.of_eq, OutcomeCanonical, enabled_canonical]

theorem execLeaseExpiry_canonical (core : Nat) (s : State) (h0 : State.Canonical s) :
    OutcomeCanonical (execLeaseExpiry core s) := by
  unfold execLeaseExpiry; grind [State.Canonical.of_eq, OutcomeCanonical, State.setCore_canonical]

/-! Control. -/

theorem State.postHeld_canonical (s : State) (core : Nat) (a1 : Nat) (h0 : State.Canonical s) :
    State.Canonical (State.postHeld s core a1) := by
  fun_induction State.postHeld s core a1 <;> grind [State.Canonical.of_eq, State.postEvent_canonical, State.setCore_canonical]

theorem State.dropCtlFaults_canonical (s : State) (core : Nat) (h0 : State.Canonical s) :
    State.Canonical (State.dropCtlFaults s core) := by
  unfold State.dropCtlFaults; grind [State.Canonical.of_eq]

theorem State.freeCtl_canonical (s : State) (core : Nat) (h0 : State.Canonical s) :
    State.Canonical (State.freeCtl s core) := by
  unfold State.freeCtl; grind [State.Canonical.of_eq, Option.map_eq_some_iff, Option.bind_eq_some_iff, State.drainCtl_canonical,
      State.dropCtlFaults_canonical, State.postEvent_canonical, State.setCore_canonical, foldl_canonical]

theorem State.startCtl_canonical (s : State) (core : Nat) (cx : CtxId) (entry arg : Nat) (h0 : State.Canonical s) :
    State.Canonical (State.startCtl s core cx entry arg) := by
  unfold State.startCtl; grind [State.Canonical.of_eq, State.drainCtl_canonical, State.dropCtlFaults_canonical,
      State.setCore_canonical]

theorem kChecked_canonical (s : State) (si : CtlSite) (w : Ins) (acc : Acc) (body : State → Place → CtlIssue)
    (h0 : State.Canonical s) (h1 : (∀ x1 x2, State.Canonical x1 → CtlIssue.Canonical (body x1 x2))) :
    CtlIssue.Canonical (kChecked s si w acc body) := by
  unfold kChecked; grind [State.Canonical.of_eq, Issue.Canonical, CtlIssue.Canonical, State.walkedFor_canonical]

theorem execKld_canonical (w : Ins) (s : State) (h0 : State.Canonical s) :
    OutcomeCanonical (execKld w s) := by
  unfold execKld; grind [State.Canonical.of_eq, Issue.Canonical, CtlIssue.Canonical, OutcomeCanonical, State.newId_canonical,
      State.onCtl_canonical, State.sendLoads_canonical, issueCtl_canonical, kChecked_canonical]

theorem execKst_canonical (w : Ins) (s : State) (h0 : State.Canonical s) :
    OutcomeCanonical (execKst w s) := by
  unfold execKst; grind [State.Canonical.of_eq, Issue.Canonical, CtlIssue.Canonical, OutcomeCanonical, State.newId_canonical,
      State.onCtl_canonical, State.sendStores_canonical, issueCtl_canonical, kChecked_canonical]

theorem execKldDataArrive_canonical (core : Nat) (s : State) (h0 : State.Canonical s) :
    OutcomeCanonical (execKldDataArrive core s) := by
  unfold execKldDataArrive; grind [State.Canonical.of_eq, OutcomeCanonical, State.deferPend_canonical, State.drainCtl_canonical,
      State.onCtl_canonical, enabled_canonical]

theorem execKbr_canonical (w : Ins) (s : State) (h0 : State.Canonical s) :
    OutcomeCanonical (execKbr w s) := by
  unfold execKbr; grind [State.Canonical.of_eq, Issue.Canonical, CtlIssue.Canonical, OutcomeCanonical, issueCtl_canonical]

theorem execKjmp_canonical (w : Ins) (s : State) (h0 : State.Canonical s) :
    OutcomeCanonical (execKjmp w s) := by
  unfold execKjmp; grind [State.Canonical.of_eq, Issue.Canonical, CtlIssue.Canonical, OutcomeCanonical, issueCtl_canonical]

theorem kIndirect_canonical (s : State) (si : CtlSite) (w : Ins) (h0 : State.Canonical s) :
    CtlIssue.Canonical (kIndirect s si w) := by
  unfold kIndirect; grind [State.Canonical.of_eq, Issue.Canonical, CtlIssue.Canonical]

theorem execKjx_canonical (w : Ins) (s : State) (h0 : State.Canonical s) :
    OutcomeCanonical (execKjx w s) := by
  unfold execKjx; grind [State.Canonical.of_eq, Issue.Canonical, CtlIssue.Canonical, OutcomeCanonical, issueCtl_canonical,
      kIndirect_canonical]

theorem execKret_canonical (w : Ins) (s : State) (h0 : State.Canonical s) :
    OutcomeCanonical (execKret w s) := by
  unfold execKret; grind [State.Canonical.of_eq, Issue.Canonical, CtlIssue.Canonical, OutcomeCanonical, issueCtl_canonical,
      kIndirect_canonical]

theorem execKcall_canonical (w : Ins) (s : State) (h0 : State.Canonical s) :
    OutcomeCanonical (execKcall w s) := by
  unfold execKcall; grind [State.Canonical.of_eq, Issue.Canonical, CtlIssue.Canonical, OutcomeCanonical, State.writeK_canonical,
      issueCtl_canonical]

theorem execEqpop_canonical (w : Ins) (s : State) (h0 : State.Canonical s) :
    OutcomeCanonical (execEqpop w s) := by
  unfold execEqpop; grind [State.Canonical.of_eq, Issue.Canonical, CtlIssue.Canonical, OutcomeCanonical, State.onCtl_canonical,
      State.setCore_canonical, issueCtl_canonical]

theorem execEqwait_canonical (w : Ins) (s : State) (h0 : State.Canonical s) :
    OutcomeCanonical (execEqwait w s) := by
  unfold execEqwait; grind [State.Canonical.of_eq, Issue.Canonical, CtlIssue.Canonical, OutcomeCanonical, issueCtl_canonical]

theorem execEqwaitTimeout_canonical (core : Nat) (s : State) (h0 : State.Canonical s) :
    OutcomeCanonical (execEqwaitTimeout core s) := by
  unfold execEqwaitTimeout; grind [State.Canonical.of_eq, OutcomeCanonical, State.onCtl_canonical, enabled_canonical]

theorem execDqpush_canonical (w : Ins) (s : State) (h0 : State.Canonical s) :
    OutcomeCanonical (execDqpush w s) := by
  unfold execDqpush; grind [State.Canonical.of_eq, Issue.Canonical, CtlIssue.Canonical, OutcomeCanonical,
      State.drainCtl_canonical, State.setCore_canonical, issueCtl_canonical]

theorem launchRefused_canonical (s : State) (si : CtlSite) (tag detail : Nat) (h0 : State.Canonical s) :
    CtlIssue.Canonical (launchRefused s si tag detail) := by
  unfold launchRefused; grind [State.Canonical.of_eq, Issue.Canonical, CtlIssue.Canonical, State.postEvent_canonical]

theorem launchAppend_canonical (s : State) (qcx : CtxId) (q : Nat) (qu : Queue) (h : QHead) (hk rk : List Nat) (bs : List Byte)
    (note : Issuer) (h0 : State.Canonical s) :
    State.Canonical (launchAppend s qcx q qu h hk rk bs note) := by
  unfold launchAppend; grind [State.Canonical.of_eq, Issue.Canonical, CtlIssue.Canonical, State.putKeys_canonical,
      State.setQ32_canonical, State.setQueue_canonical]

theorem kGate_canonical (s : State) (si : CtlSite) (chans : List Nat) (body : State → CtlIssue) (h0 : State.Canonical s) (h1 :
    (∀ x1, State.Canonical x1 → CtlIssue.Canonical (body x1))) :
    CtlIssue.Canonical (kGate s si chans body) := by
  unfold kGate
  simp only
  split
  · exact State.deferAs_getD_canonical _ _ _ h0
  · exact h1 _ (State.undefer_canonical _ _ h0)

theorem State.ctlTake_canonical (s : State) (si : CtlSite) (a1 : List (Want × Place)) (h0 : State.Canonical s) :
    State.Canonical ((State.ctlTake s si a1).1) := by
  fun_induction State.ctlTake s si a1 <;> grind [State.Canonical.of_eq, State.loadKeys_canonical]

theorem State.ctlSend_canonical (s : State) (si : CtlSite) (items : List MemItem) (h0 : State.Canonical s) :
    CtlIssue.Canonical (State.ctlSend s si items) := by
  unfold State.ctlSend; grind [State.Canonical.of_eq, Issue.Canonical, CtlIssue.Canonical, State.newId_canonical,
      State.onCtl_canonical, State.sendLoads_canonical]

theorem State.ctlBytes_canonical (s : State) (si : CtlSite) (a n align : Nat) (h0 : State.Canonical s) :
    (∀ y1, State.ctlBytes s si a n align = .error y1 → CtlIssue.Canonical (y1)) ∧ (∀ y2 y3, State.ctlBytes s si a n align = .ok
        (y2, y3) → State.Canonical y2) := by
  unfold State.ctlBytes
  simp only
  (repeat' split) <;> grind [CtlIssue.Canonical, State.deferAs_getD_canonical, State.undefer_canonical,
    State.walkedFor_canonical, State.ctlTake_canonical, State.ctlSend_canonical]

theorem execLaunch_canonical (w : Ins) (s : State) (h0 : State.Canonical s) :
    OutcomeCanonical (execLaunch w s) := by
  unfold execLaunch
  apply issueCtl_canonical
  · exact h0
  intro si
  have hd := State.drainCtl_canonical s si.core h0
  have hb := fun a => State.ctlBytes_canonical (s.drainCtl si.core) si a 128 128 hd
  simp only
  repeat' split
  all_goals first
    | exact trivial
    | exact hd
    | exact launchRefused_canonical _ _ _ _ h0
    | exact launchRefused_canonical _ _ _ _ hd
    | exact (hb _).1 _ ‹_›
    | exact kGate_canonical _ _ _ _ ((hb _).2 _ _ ‹_›) fun u hu => launchAppend_canonical _ _ _ _ _ _ _ _ _ hu

theorem execKsleep_canonical (w : Ins) (s : State) (h0 : State.Canonical s) :
    OutcomeCanonical (execKsleep w s) := by
  unfold execKsleep; grind [State.Canonical.of_eq, Issue.Canonical, CtlIssue.Canonical, OutcomeCanonical, issueCtl_canonical]

theorem execKsleepExpiry_canonical (core : Nat) (s : State) (h0 : State.Canonical s) :
    OutcomeCanonical (execKsleepExpiry core s) := by
  unfold execKsleepExpiry; grind [State.Canonical.of_eq, OutcomeCanonical, State.onCtl_canonical, enabled_canonical]

theorem execKhalt_canonical (w : Ins) (s : State) (h0 : State.Canonical s) :
    OutcomeCanonical (execKhalt w s) := by
  unfold execKhalt; grind [State.Canonical.of_eq, Issue.Canonical, CtlIssue.Canonical, OutcomeCanonical,
      State.freeCtl_canonical, issueCtl_canonical]

theorem execKtrap_canonical (w : Ins) (s : State) (h0 : State.Canonical s) :
    OutcomeCanonical (execKtrap w s) := by
  unfold execKtrap; grind [State.Canonical.of_eq, Issue.Canonical, CtlIssue.Canonical, OutcomeCanonical, issueCtl_canonical]

theorem execKcsr_canonical (w : Ins) (s : State) (h0 : State.Canonical s) :
    OutcomeCanonical (execKcsr w s) := by
  unfold execKcsr; grind [State.Canonical.of_eq, Issue.Canonical, CtlIssue.Canonical, OutcomeCanonical, State.onCtl_canonical,
      State.sync_canonical, State.writeK_canonical, issueCtl_canonical]

/-! Arbiters. -/

theorem State.granted_canonical (s : State) (k : ArbKey) (l : List ArbReq) (h0 : State.Canonical s) :
    State.Canonical (State.granted s k l) := by
  unfold State.granted; grind [State.Canonical.of_eq, State.updTeam_canonical, foldl_canonical]

theorem execArbiterCycle_canonical (arb : ArbKey) (reqs : List ArbReq) (s : State) (h0 : State.Canonical s) :
    OutcomeCanonical (execArbiterCycle arb reqs s) := by
  unfold execArbiterCycle; grind [State.Canonical.of_eq, OutcomeCanonical, State.granted_canonical, State.setArb_canonical,
      enabled_canonical]

theorem State.writeBkcfg_canonical (s : State) (k : ArbKey) (n : Nat) (value : W64) (h0 : State.Canonical s) :
    State.Canonical ((State.writeBkcfg s k n value).2) := by
  unfold State.writeBkcfg; grind [State.Canonical.of_eq, State.setArb_canonical]

theorem execBkcfgWrite_canonical (arb : ArbKey) (slot : Nat) (value : W64) (s : State) (h0 : State.Canonical s) :
    OutcomeCanonical (execBkcfgWrite arb slot value s) := by
  unfold execBkcfgWrite; grind [State.Canonical.of_eq, OutcomeCanonical, State.writeBkcfg_canonical, enabled_canonical]

theorem State.writeWayq_canonical (s : State) (slice slot : Nat) (value : W64) (h0 : State.Canonical s) :
    State.Canonical ((State.writeWayq s slice slot value).2) := by
  unfold State.writeWayq; grind [State.Canonical.of_eq, State.setArb_canonical]

theorem execWayqWrite_canonical (slice slot : Nat) (value : W64) (s : State) (h0 : State.Canonical s) :
    OutcomeCanonical (execWayqWrite slice slot value s) := by
  unfold execWayqWrite; grind [State.Canonical.of_eq, OutcomeCanonical, State.writeWayq_canonical, enabled_canonical]

theorem State.writeFrctl_canonical (s : State) (part : Nat) (p : Part) (value : W64) (h0 : State.Canonical s) :
    State.Canonical (State.writeFrctl s part p value) := by
  unfold State.writeFrctl; grind [State.Canonical.of_eq]

theorem execFrctlWrite_canonical (part : Nat) (value : W64) (s : State) (h0 : State.Canonical s) :
    OutcomeCanonical (execFrctlWrite part value s) := by
  unfold execFrctlWrite; grind [State.Canonical.of_eq, OutcomeCanonical, Option.map_eq_some_iff, Option.bind_eq_some_iff,
      State.writeFrctl_canonical, enabled_canonical]

theorem State.updHead_canonical (s : State) (n : Nat) (f : Head → Head) (h0 : State.Canonical s) :
    State.Canonical (State.updHead s n f) := by
  unfold State.updHead; grind [State.Canonical.of_eq]

/-! CopyEngine. -/

theorem State.enterCopies_canonical (s : State) (k : Kicker) (seq : Nat) (a1 : List (CopySlot × Nat)) (h0 : State.Canonical s) :
    State.Canonical ((State.enterCopies s k seq a1).2) := by
  fun_induction State.enterCopies s k seq a1 <;> grind [State.Canonical.of_eq, State.enterOp_canonical]

theorem execCpkick_canonical (w : Ins) (s : State) (h0 : State.Canonical s) :
    OutcomeCanonical (execCpkick w s) := by
  unfold execCpkick
  apply issueBoth_canonical
  · exact h0
  · intro si e
    have hd := State.drainTeam_canonical s si.core si.slot h0
    simp only
    repeat' split
    all_goals first
      | exact trivial
      | exact hd
      | exact State.deferAs_getD_canonical _ _ _ hd
      | exact State.onTeam_canonical _ _ _ (State.enterCopies_canonical _ _ _ _ (State.undefer_canonical _ _ hd))
  · intro si
    have hd := State.drainCtl_canonical s si.core h0
    simp only
    repeat' split
    all_goals first
      | exact trivial
      | exact hd
      | exact State.deferAs_getD_canonical _ _ _ hd
      | exact State.onCtl_canonical _ _ _ (State.enterCopies_canonical _ _ _ _ (State.undefer_canonical _ _ hd))

theorem execCopyRegister_canonical (op : Nat) (s : State) (h0 : State.Canonical s) :
    OutcomeCanonical (execCopyRegister op s) := by
  unfold execCopyRegister; grind [State.Canonical.of_eq, OutcomeCanonical, State.register_canonical, enabled_canonical]

theorem State.accumInto_canonical (s : State) (vd : Nat) (r : CopyReq) (src : List Byte) (dk : List Nat) (h0 : State.Canonical s) :
    State.Canonical (State.accumInto s vd r src dk) := by
  unfold State.accumInto; grind [State.Canonical.of_eq, State.putKeys_canonical, State.touch_canonical, foldl_canonical]

theorem State.scribble_canonical (s : State) (keys : List Nat) (h0 : State.Canonical s) :
    State.Canonical (State.scribble s keys) := by
  unfold State.scribble; grind [State.Canonical.of_eq, Option.map_eq_some_iff, Option.bind_eq_some_iff, State.putKeys_canonical]

theorem State.copyWalked_canonical (s : State) (core : Nat) (re : Reach) (r : CopyReq) (h0 : State.Canonical s) :
    State.Canonical (State.copyWalked s core re r) := by
  unfold State.copyWalked; grind [State.Canonical.of_eq, State.walkedAll_canonical]

theorem State.countCopy_canonical (s : State) (o : EngOp) (seq : Nat) (faulted : Bool) (h0 : State.Canonical s) :
    State.Canonical (State.countCopy s o seq faulted) := by
  unfold State.countCopy; grind [State.Canonical.of_eq, State.updTeamRef_canonical]

theorem execAccumCommit_canonical (op : Nat) (s : State) (h0 : State.Canonical s) :
    OutcomeCanonical (execAccumCommit op s) := by
  unfold execAccumCommit; grind [State.Canonical.of_eq, OutcomeCanonical, Option.map_eq_some_iff, Option.bind_eq_some_iff,
      State.accumInto_canonical, State.copyWalked_canonical, State.gate_canonical, State.opFault_canonical,
      State.setOp_canonical, enabled_canonical]

theorem State.finishCopy_canonical (s : State) (op : Nat) (o : EngOp) (h0 : State.Canonical s) :
    (∀ y1, State.finishCopy s op o = some y1 → State.Canonical y1) := by
  unfold State.finishCopy; grind [State.Canonical.of_eq, State.copyWalked_canonical, State.countCopy_canonical,
      State.endOp_canonical, State.engineWrite_canonical, State.gate_canonical, State.opFault_canonical,
      State.scribble_canonical]

theorem execCopyFinish_canonical (op : Nat) (s : State) (h0 : State.Canonical s) :
    OutcomeCanonical (execCopyFinish op s) := by
  unfold execCopyFinish; grind [State.Canonical.of_eq, OutcomeCanonical, State.finishCopy_canonical, enabled_canonical]

theorem execCopyFaultUnmended_canonical (op : Nat) (s : State) (h0 : State.Canonical s) :
    OutcomeCanonical (execCopyFaultUnmended op s) := by
  unfold execCopyFaultUnmended; grind [State.Canonical.of_eq, OutcomeCanonical, State.countCopy_canonical,
      State.dropFault_canonical, State.endOp_canonical, State.postEvent_canonical, State.scribble_canonical, enabled_canonical]

theorem issueResults_canonical (o : Op) (w : Ins) (s : State) (si : Site) (ws : List RegWrite) (fl : Nat) (h0 : State.Canonical s) :
    Issue.Canonical (issueResults o w s si ws fl) := by
  unfold issueResults; grind [State.Canonical.of_eq, Issue.Canonical, CtlIssue.Canonical, State.newId_canonical,
      State.onTeam_canonical]

theorem execCpstat_canonical (w : Ins) (s : State) (h0 : State.Canonical s) :
    OutcomeCanonical (execCpstat w s) := by
  unfold execCpstat; grind [State.Canonical.of_eq, Issue.Canonical, CtlIssue.Canonical, OutcomeCanonical,
      issueResults_canonical, issueTeam_canonical]

/-! Tiles. -/

/-- A reader that waits has left a canonical state. -/
def MxBad.Canonical (r : MxBad) : Prop :=
  match r with
  | .wait s => s.Canonical
  | _ => True

theorem State.readRecord_canonical (s : State) (who : Waiter) (r : Reach) (a : Nat) (h0 : State.Canonical s) :
    (∀ y1, State.readRecord s who r a = .error y1 → MxBad.Canonical (y1)) := by
  unfold State.readRecord; grind [State.Canonical.of_eq, MxBad.Canonical, Option.map_eq_some_iff, Option.bind_eq_some_iff,
      State.deferAs_canonical, State.deferAs_getD_canonical]

theorem State.readTile_canonical (s : State) (who : Waiter) (r : Reach) (base h : Nat) (h0 : State.Canonical s) :
    (∀ y1, State.readTile s who r base h = .error y1 → MxBad.Canonical (y1)) := by
  unfold State.readTile; grind [State.Canonical.of_eq, MxBad.Canonical, State.readRecord_canonical]

theorem State.recordRead_canonical (s : State) (who : Waiter) (core : Nat) (cx : CtxId) (base h : Nat) (h0 : State.Canonical s) :
    State.Canonical (State.recordRead s who core cx base h) := by
  unfold State.recordRead; grind [State.Canonical.of_eq, State.undefer_canonical, State.walked_canonical]

theorem State.readOperand_canonical (s : State) (who : Waiter) (r : Reach) (base h : Nat) (h0 : State.Canonical s) :
    (∀ y1, State.readOperand s who r base h = .error y1 → MxBad.Canonical (y1)) := by
  unfold State.readOperand; grind [State.Canonical.of_eq, MxBad.Canonical, State.readTile_canonical]

theorem State.tileWalked_canonical (s : State) (core : Nat) (re : Reach) (t : TileRec) (row col : Nat) (h0 : State.Canonical s) :
    State.Canonical (State.tileWalked s core re t row col) := by
  unfold State.tileWalked; grind [State.Canonical.of_eq, State.walkedAll_canonical]

/-! MatrixEngine. -/

theorem State.setMx_canonical (s : State) (core : Nat) (m : Matrix) (h0 : State.Canonical s) :
    State.Canonical (State.setMx s core m) := by
  unfold State.setMx; grind [State.Canonical.of_eq, State.setCore_canonical]

theorem MxBad.issue_canonical (e : MxBad) (h0 : MxBad.Canonical (e)) :
    Issue.Canonical (MxBad.issue e) := by
  unfold MxBad.issue; grind [State.Canonical.of_eq, Issue.Canonical, CtlIssue.Canonical, MxBad.Canonical]

theorem slotBad_canonical (r : Nat)  :
    MxBad.Canonical (slotBad r) := by
  unfold slotBad; grind [State.Canonical.of_eq, MxBad.Canonical]

theorem desync_canonical (r : Nat)  :
    MxBad.Canonical (desync r) := by
  unfold desync; grind [State.Canonical.of_eq, MxBad.Canonical]

theorem firstFail_canonical (a1 : List (Bool × MxBad)) (h : ∀ x ∈ a1, x.2.Canonical) :
    ∀ y, firstFail a1 = some y → y.Canonical := by
  induction a1 with
  | nil => intro y hy; cases hy
  | cons x r ih =>
    intro y hy
    obtain ⟨ok, e⟩ := x
    simp only [firstFail] at hy
    split at hy
    · exact ih (fun z hz => h z (List.mem_cons_of_mem _ hz)) y hy
    · cases hy; exact h _ List.mem_cons_self

theorem issueMx_canonical (o : Op) (w : Ins) (s : State) (body : Site → Except MxBad Issue) (h0 : State.Canonical s) (h1 :
    (∀ x1, (∀ y2, body x1 = .error y2 → MxBad.Canonical (y2)) ∧ (∀ y3, body x1 = .ok y3 → Issue.Canonical (y3)))) :
    OutcomeCanonical (issueMx o w s body) := by
  unfold issueMx; grind [State.Canonical.of_eq, Issue.Canonical, CtlIssue.Canonical, OutcomeCanonical, Denied.issue_canonical,
      MxBad.issue_canonical, issueTeam_canonical]

theorem claimUnits_canonical (o : Op) (acc : Bool) (w : Ins) (s : State) (h0 : State.Canonical s) :
    OutcomeCanonical (claimUnits o acc w s) := by
  unfold claimUnits; grind [State.Canonical.of_eq, Issue.Canonical, CtlIssue.Canonical, OutcomeCanonical, State.setMx_canonical,
      issueMx_canonical, slotBad_canonical]

theorem execTclaim_canonical (w : Ins) (s : State) (h0 : State.Canonical s) :
    OutcomeCanonical (execTclaim w s) := by
  unfold execTclaim; grind [State.Canonical.of_eq, OutcomeCanonical, claimUnits_canonical]

theorem execAclaim_canonical (w : Ins) (s : State) (h0 : State.Canonical s) :
    OutcomeCanonical (execAclaim w s) := by
  unfold execAclaim; grind [State.Canonical.of_eq, OutcomeCanonical, claimUnits_canonical]

theorem releaseUnits_canonical (o : Op) (acc : Bool) (w : Ins) (s : State) (h0 : State.Canonical s) :
    OutcomeCanonical (releaseUnits o acc w s) := by
  unfold releaseUnits; grind [State.Canonical.of_eq, Issue.Canonical, CtlIssue.Canonical, OutcomeCanonical,
      State.setMx_canonical, issueMx_canonical, slotBad_canonical]

theorem execTrels_canonical (w : Ins) (s : State) (h0 : State.Canonical s) :
    OutcomeCanonical (execTrels w s) := by
  unfold execTrels; grind [State.Canonical.of_eq, OutcomeCanonical, releaseUnits_canonical]

theorem execArels_canonical (w : Ins) (s : State) (h0 : State.Canonical s) :
    OutcomeCanonical (execArels w s) := by
  unfold execArels; grind [State.Canonical.of_eq, OutcomeCanonical, releaseUnits_canonical]

theorem execClaimGrant_canonical (core : Nat) (s : State) (h0 : State.Canonical s) :
    OutcomeCanonical (execClaimGrant core s) := by
  unfold execClaimGrant; grind [State.Canonical.of_eq, OutcomeCanonical, State.setMx_canonical, State.updTeam_canonical,
      enabled_canonical]

theorem State.startFetch_canonical (s : State) (core slot : Nat) (t : Team) (re : Reach) (byCtl : Bool) (bar : Option
    (Nat × Nat)) (f : Fetch) (h0 : State.Canonical s) :
    State.Canonical ((State.startFetch s core slot t re byCtl bar f).2) := by
  unfold State.startFetch; grind [State.Canonical.of_eq, State.enterOp_canonical, State.setMx_canonical]

theorem State.fetchInto_canonical (s : State) (who : Waiter) (core slot : Nat) (t : Team) (reader : Reach) (base h : Nat)
    (byCtl : Bool) (n bar : Nat) (at' : Nat × Nat) (h0 : State.Canonical s) :
    (∀ y1, State.fetchInto s who core slot t reader base h byCtl n bar at' = .error y1 → MxBad.Canonical (y1)) ∧ (∀ y2 y3,
        State.fetchInto s who core slot t reader base h byCtl n bar at' = .ok (y2, y3) → State.Canonical y3) := by
  unfold State.fetchInto; grind [State.Canonical.of_eq, MxBad.Canonical, State.readOperand_canonical,
      State.recordRead_canonical, State.startFetch_canonical]

theorem MxBad.ctlIssue_canonical (e : MxBad) (s : State) (core : Nat) (slot : Option Nat) (h0 : MxBad.Canonical (e))
    (h1 : State.Canonical s) :
    CtlIssue.Canonical (MxBad.ctlIssue e s core slot) := by
  unfold MxBad.ctlIssue; grind [State.Canonical.of_eq, Issue.Canonical, CtlIssue.Canonical, MxBad.Canonical,
      State.updTeam_canonical]

theorem execMfetch_canonical (w : Ins) (s : State) (h0 : State.Canonical s) :
    OutcomeCanonical (execMfetch w s) := by
  unfold execMfetch
  apply issueBoth_canonical
  · exact h0
  · intro si e
    have hd := State.drainTeam_canonical s si.core si.slot h0
    simp only
    repeat' split
    all_goals first
      | exact trivial
      | exact MxBad.issue_canonical _ (slotBad_canonical _)
      | exact MxBad.issue_canonical _ ((State.fetchInto_canonical _ _ _ _ _ _ _ _ _ _ _ _ hd).1 _ ‹_›)
      | exact (State.fetchInto_canonical _ _ _ _ _ _ _ _ _ _ _ _ hd).2 _ _ ‹_›
  · intro si
    have hd := State.drainCtl_canonical s si.core h0
    simp only
    repeat' split
    all_goals first
      | exact MxBad.ctlIssue_canonical _ _ _ _ (slotBad_canonical _) h0
      | exact MxBad.ctlIssue_canonical _ _ _ _ ((State.fetchInto_canonical _ _ _ _ _ _ _ _ _ _ _ _ hd).1 _ ‹_›) h0
      | exact (State.fetchInto_canonical _ _ _ _ _ _ _ _ _ _ _ _ hd).2 _ _ ‹_›

theorem State.fireSignals_canonical (s : State) (a1 : Nat) (h0 : State.Canonical s) :
    State.Canonical (State.fireSignals s a1) := by
  fun_induction State.fireSignals s a1 <;> grind [State.Canonical.of_eq, State.barBytes_canonical]

theorem State.signal_canonical (s : State) (name : Option Nat) (h0 : State.Canonical s) :
    State.Canonical (State.signal s name) := by
  unfold State.signal; grind [State.Canonical.of_eq, Option.map_eq_some_iff, Option.bind_eq_some_iff, State.fireSignals_canonical]

theorem State.endFill_canonical (s : State) (core id n : Nat) (f : MSlot → MSlot) (h0 : State.Canonical s) :
    State.Canonical (State.endFill s core id n f) := by
  unfold State.endFill; grind [State.Canonical.of_eq, State.setMx_canonical]

theorem State.endFillOf_canonical (s : State) (id : Nat) (o : EngOp) (n : Nat) (f : MSlot → MSlot) (h0 : State.Canonical s) :
    State.Canonical (State.endFillOf s id o n f) := by
  unfold State.endFillOf; grind [State.Canonical.of_eq, Option.map_eq_some_iff, Option.bind_eq_some_iff,
      State.endFill_canonical, State.setGang_canonical]

theorem State.finishFetch_canonical (s : State) (id : Nat) (o : EngOp) (f : Fetch) (h0 : State.Canonical s) :
    (∀ y1, State.finishFetch s id o f = some y1 → State.Canonical y1) := by
  unfold State.finishFetch; grind [State.Canonical.of_eq, State.endFill_canonical, State.endOp_canonical, State.gate_canonical,
      State.opFault_canonical, State.signal_canonical, State.tileWalked_canonical, State.touch_canonical]

theorem execFetchComplete_canonical (op : Nat) (s : State) (h0 : State.Canonical s) :
    OutcomeCanonical (execFetchComplete op s) := by
  unfold execFetchComplete; grind [State.Canonical.of_eq, OutcomeCanonical, State.finishFetch_canonical, enabled_canonical]

theorem execFetchFaultUnmended_canonical (op : Nat) (s : State) (h0 : State.Canonical s) :
    OutcomeCanonical (execFetchFaultUnmended op s) := by
  unfold execFetchFaultUnmended; grind [State.Canonical.of_eq, OutcomeCanonical, State.dropFault_canonical,
      State.endFillOf_canonical, State.endOp_canonical, State.postEvent_canonical, State.signal_canonical, enabled_canonical]

theorem mmaBad_canonical (m : Matrix) (team n pa pb : Nat) (x y : MSlot)  :
    (∀ y1, mmaBad m team n pa pb x y = some y1 → MxBad.Canonical (y1)) := by
  intro y hy
  refine firstFail_canonical _ ?_ y hy
  simp [MxBad.Canonical, desync, slotBad]

theorem execMma_canonical (w : Ins) (s : State) (h0 : State.Canonical s) :
    OutcomeCanonical (execMma w s) := by
  unfold execMma; grind [State.Canonical.of_eq, Issue.Canonical, CtlIssue.Canonical, OutcomeCanonical, State.onTeam_canonical,
      State.setMx_canonical, issueMx_canonical, mmaBad_canonical, slotBad_canonical]

theorem execMzero_canonical (w : Ins) (s : State) (h0 : State.Canonical s) :
    OutcomeCanonical (execMzero w s) := by
  unfold execMzero; grind [State.Canonical.of_eq, Issue.Canonical, CtlIssue.Canonical, OutcomeCanonical, State.setMx_canonical,
      issueMx_canonical, slotBad_canonical]

theorem illop_canonical   :
    MxBad.Canonical (illop ) := by
  unfold illop; grind [State.Canonical.of_eq, MxBad.Canonical]

theorem mxResults_canonical (o : Op) (w : Ins) (s : State) (si : Site) (ws : List RegWrite) (h0 : State.Canonical s) :
    Issue.Canonical (mxResults o w s si ws) := by
  unfold mxResults; grind [State.Canonical.of_eq, Issue.Canonical, CtlIssue.Canonical, State.onTeam_canonical,
      issueResults_canonical]

theorem execMrd_canonical (w : Ins) (s : State) (h0 : State.Canonical s) :
    OutcomeCanonical (execMrd w s) := by
  unfold execMrd; grind [State.Canonical.of_eq, Issue.Canonical, CtlIssue.Canonical, OutcomeCanonical, Option.map_eq_some_iff,
      Option.bind_eq_some_iff, illop_canonical, issueMx_canonical, mxResults_canonical, slotBad_canonical]

theorem execMwr_canonical (w : Ins) (s : State) (h0 : State.Canonical s) :
    OutcomeCanonical (execMwr w s) := by
  unfold execMwr; grind [State.Canonical.of_eq, Issue.Canonical, CtlIssue.Canonical, OutcomeCanonical, State.setMx_canonical,
      illop_canonical, issueMx_canonical, slotBad_canonical]

theorem State.slotFor_canonical (s : State) (si : Site) (n : Nat) (h0 : State.Canonical s) :
    (∀ y1, State.slotFor s si n = .error y1 → MxBad.Canonical (y1)) := by
  unfold State.slotFor; grind [State.Canonical.of_eq, MxBad.Canonical, slotBad_canonical]

theorem State.setSlot_canonical (s : State) (core n : Nat) (x : MSlot) (h0 : State.Canonical s) :
    State.Canonical (State.setSlot s core n x) := by
  unfold State.setSlot; grind [State.Canonical.of_eq, State.setMx_canonical]

theorem execMwrT_canonical (w : Ins) (s : State) (h0 : State.Canonical s) :
    OutcomeCanonical (execMwrT w s) := by
  unfold execMwrT; grind [State.Canonical.of_eq, Issue.Canonical, CtlIssue.Canonical, OutcomeCanonical, State.setSlot_canonical,
      State.slotFor_canonical, desync_canonical, illop_canonical, issueMx_canonical]

theorem execMscl_canonical (w : Ins) (s : State) (h0 : State.Canonical s) :
    OutcomeCanonical (execMscl w s) := by
  unfold execMscl
  apply issueMx_canonical
  · exact h0
  intro si
  constructor
  · intro y hy
    simp only at hy
    repeat' split at hy
    all_goals first
      | (cases hy; done)
      | (cases hy; first
          | exact State.slotFor_canonical _ _ _ h0 _ ‹_›
          | (refine firstFail_canonical _ ?_ _ ‹_›; simp [MxBad.Canonical, slotBad, desync, illop])
          | simp [MxBad.Canonical, illop])
  · intro y hy
    simp only at hy
    repeat' split at hy
    all_goals first
      | (cases hy; done)
      | (cases hy; exact State.setSlot_canonical _ _ _ _ h0)

theorem mstBad_canonical (t : TileRec) (wide : Bool)  :
    (∀ y1, mstBad t wide = some y1 → MxBad.Canonical (y1)) := by
  intro y hy
  refine firstFail_canonical _ ?_ y hy
  simp [MxBad.Canonical, desync]

theorem State.mstScales_canonical (s : State) (re : Reach) (t : TileRec) (row col : Nat) (h0 : State.Canonical s) :
    (∀ y1, State.mstScales s re t row col = .error y1 → MxBad.Canonical (y1)) := by
  unfold State.mstScales; grind [State.Canonical.of_eq, MxBad.Canonical, Option.map_eq_some_iff, Option.bind_eq_some_iff]

theorem execMst_canonical (w : Ins) (s : State) (h0 : State.Canonical s) :
    OutcomeCanonical (execMst w s) := by
  unfold execMst
  apply issueMx_canonical
  · exact h0
  intro si
  have hd := State.drainTeam_canonical s si.core si.slot h0
  constructor
  · intro y hy
    simp only at hy
    repeat' split at hy
    all_goals first
      | (cases hy; done)
      | (cases hy; first
          | exact trivial
          | exact mstBad_canonical _ _ _ ‹_›
          | (refine firstFail_canonical _ ?_ _ ‹_›; simp [slotBad_canonical])
          | exact State.readTile_canonical _ _ _ _ _ hd _ ‹_›
          | exact State.mstScales_canonical _ _ _ _ _ hd _ ‹_›)
  · intro y hy
    simp only at hy
    repeat' split at hy
    all_goals first
      | (cases hy; done)
      | (cases hy; first
          | exact trivial
          | exact issueStore_canonical _ _ _ _ _ (State.onTeam_canonical _ _ _
              (State.walkedFor_canonical _ _ _ _ _ (State.recordRead_canonical _ _ _ _ _ _ hd))))

theorem execMstat_canonical (w : Ins) (s : State) (h0 : State.Canonical s) :
    OutcomeCanonical (execMstat w s) := by
  unfold execMstat; grind [State.Canonical.of_eq, Issue.Canonical, CtlIssue.Canonical, OutcomeCanonical, State.newId_canonical,
      State.onTeam_canonical, issueMx_canonical, mxResults_canonical]

theorem State.dropFills_canonical (s : State) (ids : List Nat) (h0 : State.Canonical s) :
    State.Canonical (State.dropFills s ids) := by
  unfold State.dropFills; grind [State.Canonical.of_eq, Option.map_eq_some_iff, Option.bind_eq_some_iff]

theorem State.mxRelease_canonical (s : State) (core slot : Nat) (h0 : State.Canonical s) :
    State.Canonical (State.mxRelease s core slot) := by
  unfold State.mxRelease; grind [State.Canonical.of_eq, Option.map_eq_some_iff, Option.bind_eq_some_iff, State.setMx_canonical]

theorem State.mxSave_canonical (s : State) (core slot gang index : Nat) (h0 : State.Canonical s) :
    State.Canonical ((State.mxSave s core slot gang index).2) := by
  unfold State.mxSave; grind [State.Canonical.of_eq, State.dropFills_canonical, State.setMx_canonical]

theorem State.mxRestore_canonical (s : State) (core slot : Nat) (t : Team) (x : SavedMx) (h0 : State.Canonical s) :
    State.Canonical (State.mxRestore s core slot t x) := by
  unfold State.mxRestore; grind [State.Canonical.of_eq, Option.map_eq_some_iff, Option.bind_eq_some_iff, State.setMx_canonical]

end Sys2Proof.Machine
end

