-- ==== Sys2Proof/Laws/Canonical/Engines.lean ====
section
/-! SUPPORT. Memory keeps its canonical form: every operation of the filter, traversal and stack engines. -/

namespace Sys2Proof.Machine

open Sys2Proof Host

/-! FilterEngine. -/

theorem sendFilter_canonical (o : Op) (w : Ins) (s : State) (si : Site) (e : TMask) (cx : CtxId) (win : Window)
    (work : FilterWork) (levels : Nat) (h0 : State.Canonical s) :
    Issue.Canonical (sendFilter o w s si e cx win work levels) := by
  unfold sendFilter; grind [State.Canonical.of_eq, Issue.Canonical, CtlIssue.Canonical, Option.map_eq_some_iff,
      Option.bind_eq_some_iff, State.newId_canonical, State.onTeam_canonical]

theorem issueFilter_canonical (o : Op) (w : Ins) (s : State) (check : State → Reach → Nat → Checked (FilterWork × Window))
    (levels : Nat) (h0 : State.Canonical s) :
    OutcomeCanonical (issueFilter o w s check levels) := by
  unfold issueFilter; grind [State.Canonical.of_eq, Issue.Canonical, CtlIssue.Canonical, OutcomeCanonical,
      State.drainTeam_canonical, issueTeam_canonical, sendFilter_canonical]

theorem execTexs_canonical (w : Ins) (s : State) (h0 : State.Canonical s) :
    OutcomeCanonical (execTexs w s) := by
  unfold execTexs; grind [State.Canonical.of_eq, Issue.Canonical, CtlIssue.Canonical, OutcomeCanonical, Option.map_eq_some_iff,
      Option.bind_eq_some_iff, issueFilter_canonical]

theorem execHgl_canonical (w : Ins) (s : State) (h0 : State.Canonical s) :
    OutcomeCanonical (execHgl w s) := by
  unfold execHgl; grind [State.Canonical.of_eq, Issue.Canonical, CtlIssue.Canonical, OutcomeCanonical, Option.map_eq_some_iff,
      Option.bind_eq_some_iff, issueFilter_canonical]

theorem execResq_canonical (w : Ins) (s : State) (h0 : State.Canonical s) :
    OutcomeCanonical (execResq w s) := by
  unfold execResq; grind [State.Canonical.of_eq, Issue.Canonical, CtlIssue.Canonical, OutcomeCanonical, Option.map_eq_some_iff,
      Option.bind_eq_some_iff, issueFilter_canonical]

theorem State.setFeedback_canonical (s : State) (q : FilterReq) (j : Nat) (h0 : State.Canonical s) :
    State.Canonical (State.setFeedback s q j) := by
  unfold State.setFeedback
  simp only
  repeat' split
  all_goals first | exact h0 | exact Memory.wf_write _ _ h0

theorem State.afterEarlier_canonical (s : State) (id : Nat) (q : FilterReq) (f : State → Option State) (h0 : State.Canonical s)
    (h1 : (∀ x1, State.Canonical x1 → (∀ y2, f x1 = some y2 → State.Canonical y2))) :
    (∀ y3, State.afterEarlier s id q f = some y3 → State.Canonical y3) := by
  unfold State.afterEarlier; grind [State.Canonical.of_eq, State.deferPend_canonical, State.performTo_canonical,
      State.updTeam_canonical]

theorem State.filterFetch_canonical (s : State) (id : Nat) (q : FilterReq) (tid va n : Nat) (h0 : State.Canonical s) :
    (∀ y1, State.filterFetch s id q tid va n = some y1 → State.Canonical y1) := by
  unfold State.filterFetch; grind [State.Canonical.of_eq, Option.map_eq_some_iff, Option.bind_eq_some_iff,
      State.afterEarlier_canonical, State.gate_canonical]

theorem State.filterStep_canonical (s : State) (id : Nat) (q : FilterReq) (n : Nat) (h0 : State.Canonical s) :
    (∀ y1, State.filterStep s id q n = some y1 → State.Canonical y1) := by
  unfold State.filterStep; grind [State.Canonical.of_eq, Option.map_eq_some_iff, Option.bind_eq_some_iff,
      State.afterEarlier_canonical, State.gate_canonical, State.setFeedback_canonical, foldl_canonical]

theorem execFilterStep_canonical (stack : Nat) (act : FilterAct) (s : State) (h0 : State.Canonical s) :
    OutcomeCanonical (execFilterStep stack act s) := by
  unfold execFilterStep; grind [State.Canonical.of_eq, OutcomeCanonical, State.filterFetch_canonical,
      State.filterStep_canonical, enabled_canonical]

theorem execFilterRequestDone_canonical (stack req : Nat) (s : State) (h0 : State.Canonical s) :
    OutcomeCanonical (execFilterRequestDone stack req s) := by
  unfold execFilterRequestDone; grind [State.Canonical.of_eq, OutcomeCanonical, Option.map_eq_some_iff, Option.bind_eq_some_iff,
      State.postEvent_canonical, State.updTeam_canonical, enabled_canonical]

theorem State.dropFilters_canonical (s : State) (core slot : Nat) (h0 : State.Canonical s) :
    State.Canonical (State.dropFilters s core slot) := by
  unfold State.dropFilters; grind [State.Canonical.of_eq]

/-! Tables. -/

theorem State.writePtes_canonical (s : State) (ptes : List (Nat × Nat)) (h0 : State.Canonical s) :
    State.Canonical (State.writePtes s ptes) := by
  unfold State.writePtes; grind [State.Canonical.of_eq, State.writePA_canonical, foldl_canonical]

theorem State.remap_canonical (s : State) (ptes : List (Nat × Nat)) (h0 : State.Canonical s) :
    (∀ y1, State.remap s ptes = some y1 → State.Canonical y1) := by
  unfold State.remap; grind [State.Canonical.of_eq, State.writePtes_canonical]

/-! Traversal. -/

theorem State.setTreelet_canonical (s : State) (cx : CtxId) (id : Nat) (t : Treelet) (h0 : State.Canonical s) :
    State.Canonical (State.setTreelet s cx id t) := by
  unfold State.setTreelet; grind [State.Canonical.of_eq]

theorem State.setRay_canonical (s : State) (id : Nat) (r : Ray) (h0 : State.Canonical s) :
    State.Canonical (State.setRay s id r) := by
  unfold State.setRay; grind [State.Canonical.of_eq]

theorem State.dropRay_canonical (s : State) (id : Nat) (h0 : State.Canonical s) :
    State.Canonical (State.dropRay s id) := by
  unfold State.dropRay; grind [State.Canonical.of_eq]

theorem State.postRay_canonical (s : State) (id : Nat) (h0 : State.Canonical s) :
    State.Canonical (State.postRay s id) := by
  unfold State.postRay; grind [State.Canonical.of_eq, State.dropRay_canonical, State.setRay_canonical, State.updTeamRef_canonical]

theorem State.endRay_canonical (s : State) (id : Nat) (r : Ray) (ws : List W32) (h0 : State.Canonical s) :
    State.Canonical (State.endRay s id r ws) := by
  unfold State.endRay; grind [State.Canonical.of_eq, State.postRay_canonical, State.setRay_canonical]

theorem State.errorRay_canonical (s : State) (id : Nat) (r : Ray) (status addr : Nat) (h0 : State.Canonical s) :
    State.Canonical (State.errorRay s id r status addr) := by
  unfold State.errorRay; grind [State.Canonical.of_eq, State.endRay_canonical, State.postEvent_canonical,
      State.postFiring_canonical]

theorem State.arrive_canonical (s : State) (id : Nat) (r : Ray) (fwd : Bool) (h0 : State.Canonical s) :
    State.Canonical (State.arrive s id r fwd) := by
  unfold State.arrive; grind [State.Canonical.of_eq, State.errorRay_canonical, State.newId_canonical, State.setRay_canonical]

theorem execRayArrive_canonical (ray : Nat) (s : State) (h0 : State.Canonical s) :
    OutcomeCanonical (execRayArrive ray s) := by
  unfold execRayArrive; grind [State.Canonical.of_eq, OutcomeCanonical, State.arrive_canonical, enabled_canonical]

theorem execSpillRefill_canonical (stack vd : Nat) (s : State) (h0 : State.Canonical s) :
    OutcomeCanonical (execSpillRefill stack vd s) := by
  unfold execSpillRefill; grind [State.Canonical.of_eq, OutcomeCanonical, Option.map_eq_some_iff, Option.bind_eq_some_iff,
      State.setRay_canonical, enabled_canonical]

theorem State.freshHandle_canonical (s : State) (id : Nat) (r : Ray) (h0 : State.Canonical s) :
    State.Canonical ((State.freshHandle s id r).2) := by
  unfold State.freshHandle; grind [State.Canonical.of_eq, Option.map_eq_some_iff, Option.bind_eq_some_iff,
      State.updTeamRef_canonical]

theorem State.leaveVisit_canonical (s : State) (id : Nat) (v : Visited) (h0 : State.Canonical s) :
    State.Canonical (State.leaveVisit s id v) := by
  unfold State.leaveVisit; grind [State.Canonical.of_eq, State.arrive_canonical, State.endRay_canonical,
      State.errorRay_canonical, State.freshHandle_canonical, State.postRay_canonical, State.setRay_canonical]

theorem State.visitRay_canonical (s : State) (id : Nat) (r : Ray) (h0 : State.Canonical s) :
    State.Canonical (State.visitRay s id r) := by
  unfold State.visitRay
  simp only
  have h (r : Ray) := State.setRay_canonical s id r h0
  cases hg : State.gate _ _ _ _ with
  | none => exact h _
  | some t =>
    refine State.gate_canonical _ _ _ _ (h _) ?_ _ hg
    intro u hu v hv
    cases hv
    exact State.leaveVisit_canonical _ _ _ hu

theorem execTraversalRound_canonical (stack vd : Nat) (s : State) (h0 : State.Canonical s) :
    OutcomeCanonical (execTraversalRound stack vd s) := by
  unfold execTraversalRound; grind [State.Canonical.of_eq, OutcomeCanonical, Option.map_eq_some_iff, Option.bind_eq_some_iff,
      State.setRay_canonical, State.visitRay_canonical, enabled_canonical, foldl_canonical]

theorem execCandidateVerdict_canonical (gang index : Nat) (s : State) (h0 : State.Canonical s) :
    OutcomeCanonical (execCandidateVerdict gang index s) := by
  unfold execCandidateVerdict; grind [State.Canonical.of_eq, OutcomeCanonical, State.gate_canonical, State.leaveVisit_canonical,
      State.updTeamRef_canonical, enabled_canonical]

theorem execHitRecordPost_canonical (core slot : Nat) (s : State) (h0 : State.Canonical s) :
    OutcomeCanonical (execHitRecordPost core slot s) := by
  unfold execHitRecordPost; grind [State.Canonical.of_eq, OutcomeCanonical, Option.map_eq_some_iff, Option.bind_eq_some_iff,
      State.postRay_canonical, enabled_canonical]

theorem State.sendRays_canonical (s : State) (si : Site) (a1 : List Ray) (h0 : State.Canonical s) :
    State.Canonical (State.sendRays s si a1) := by
  fun_induction State.sendRays s si a1 <;> grind [State.Canonical.of_eq, State.endRay_canonical, State.newId_canonical,
      State.onTeam_canonical, State.setRay_canonical]

theorem execRays_canonical (w : Ins) (s : State) (h0 : State.Canonical s) :
    OutcomeCanonical (execRays w s) := by
  unfold execRays; grind [State.Canonical.of_eq, Issue.Canonical, CtlIssue.Canonical, OutcomeCanonical, Option.map_eq_some_iff,
      Option.bind_eq_some_iff, State.drainTeam_canonical, State.sendRays_canonical, issueTeam_canonical]

theorem execHitr_canonical (w : Ins) (s : State) (h0 : State.Canonical s) :
    OutcomeCanonical (execHitr w s) := by
  unfold execHitr; grind [State.Canonical.of_eq, Issue.Canonical, CtlIssue.Canonical, OutcomeCanonical, State.newId_canonical,
      State.onTeam_canonical, issueTeam_canonical]

theorem execCandv_canonical (w : Ins) (s : State) (h0 : State.Canonical s) :
    OutcomeCanonical (execCandv w s) := by
  unfold execCandv; grind [State.Canonical.of_eq, Issue.Canonical, CtlIssue.Canonical, OutcomeCanonical, Option.map_eq_some_iff,
      Option.bind_eq_some_iff, State.onTeam_canonical, issueTeam_canonical]

theorem State.tlRecord_canonical (s : State) (core : Nat) (cx : CtxId) (id status : Nat) (tag : W64) (detail : Nat)
    (h0 : State.Canonical s) :
    State.Canonical (State.tlRecord s core cx id status tag detail) := by
  unfold State.tlRecord; grind [State.Canonical.of_eq, State.postEvent_canonical]

theorem State.holdRays_canonical (s : State) (cx : CtxId) (id : Nat) (h0 : State.Canonical s) :
    State.Canonical (State.holdRays s cx id) := by
  unfold State.holdRays; grind [State.Canonical.of_eq, Option.map_eq_some_iff, Option.bind_eq_some_iff]

theorem State.tclose_canonical (s : State) (core : Nat) (cx : CtxId) (id : Nat) (h0 : State.Canonical s) :
    State.Canonical (State.tclose s core cx id) := by
  unfold State.tclose; grind [State.Canonical.of_eq, State.holdRays_canonical, State.setTreelet_canonical, State.tlRecord_canonical]

theorem State.publish_canonical (s : State) (core : Nat) (cx : CtxId) (id base size : Nat) (t : Treelet) (h0 : State.Canonical s) :
    State.Canonical (State.publish s core cx id base size t) := by
  unfold State.publish; grind [State.Canonical.of_eq, Option.map_eq_some_iff, Option.bind_eq_some_iff,
      State.setTreelet_canonical, State.tlRecord_canonical]

theorem State.retire_canonical (s : State) (core : Nat) (cx : CtxId) (id : Nat) (t : Treelet) (h0 : State.Canonical s) :
    State.Canonical (State.retire s core cx id t) := by
  unfold State.retire; grind [State.Canonical.of_eq, State.errorRay_canonical, State.setTreelet_canonical,
      State.tlRecord_canonical, foldl_canonical]

theorem State.tlpub_canonical (s : State) (core : Nat) (cx : CtxId) (id base size : Nat) (h0 : State.Canonical s) :
    State.Canonical (State.tlpub s core cx id base size) := by
  unfold State.tlpub; grind [State.Canonical.of_eq, State.publish_canonical, State.retire_canonical, State.tlRecord_canonical]

theorem State.trstat_canonical (s : State) (core : Nat) (cx : CtxId) (id : Nat) (h0 : State.Canonical s) :
    State.Canonical (State.trstat s core cx id) := by
  unfold State.trstat; grind [State.Canonical.of_eq, State.tlRecord_canonical]

theorem State.tlAct_canonical (s : State) (core : Nat) (c : TlCmd) (h0 : State.Canonical s) :
    State.Canonical (State.tlAct s core c) := by
  unfold State.tlAct; grind [State.Canonical.of_eq, State.tclose_canonical, State.tlpub_canonical, State.trstat_canonical]

theorem State.tlRun_canonical (s : State) (core stack : Nat) (a1 : Nat) (h0 : State.Canonical s) :
    State.Canonical (State.tlRun s core stack a1) := by
  fun_induction State.tlRun s core stack a1 <;> grind [State.Canonical.of_eq, State.tlAct_canonical]

theorem State.tlRunAll_canonical (s : State) (core stack : Nat) (h0 : State.Canonical s) :
    State.Canonical (State.tlRunAll s core stack) := by
  unfold State.tlRunAll; grind [State.Canonical.of_eq, State.tlRun_canonical]

theorem issueTreelet_canonical (o : Op) (w : Ins) (s : State) (kind : Nat) (h0 : State.Canonical s) :
    OutcomeCanonical (issueTreelet o w s kind) := by
  unfold issueTreelet; grind [State.Canonical.of_eq, Issue.Canonical, CtlIssue.Canonical, OutcomeCanonical,
      State.drainCtl_canonical, State.tlRunAll_canonical, issueCtl_canonical]

theorem execTclose_canonical (w : Ins) (s : State) (h0 : State.Canonical s) :
    OutcomeCanonical (execTclose w s) := by
  unfold execTclose; grind [State.Canonical.of_eq, Issue.Canonical, CtlIssue.Canonical, OutcomeCanonical,
      State.tclose_canonical, issueTreelet_canonical]

theorem execTlpub_canonical (w : Ins) (s : State) (h0 : State.Canonical s) :
    OutcomeCanonical (execTlpub w s) := by
  unfold execTlpub; grind [State.Canonical.of_eq, Issue.Canonical, CtlIssue.Canonical, OutcomeCanonical, State.tlpub_canonical,
      issueTreelet_canonical]

theorem execTrstat_canonical (w : Ins) (s : State) (h0 : State.Canonical s) :
    OutcomeCanonical (execTrstat w s) := by
  unfold execTrstat; grind [State.Canonical.of_eq, Issue.Canonical, CtlIssue.Canonical, OutcomeCanonical,
      State.trstat_canonical, issueTreelet_canonical]

theorem execTreeletDrainDone_canonical (cx : CtxId) (treelet : Nat) (s : State) (h0 : State.Canonical s) :
    OutcomeCanonical (execTreeletDrainDone cx treelet s) := by
  unfold execTreeletDrainDone; grind [State.Canonical.of_eq, OutcomeCanonical, Option.map_eq_some_iff, Option.bind_eq_some_iff,
      State.setTreelet_canonical, State.tlRecord_canonical, State.tlRunAll_canonical, enabled_canonical, foldl_canonical]

theorem State.writeTrq_canonical (s : State) (stack vd : Nat) (ring qlim : Option W64) (h0 : State.Canonical s) :
    State.Canonical ((State.writeTrq s stack vd ring qlim).2) := by
  unfold State.writeTrq; grind [State.Canonical.of_eq, Option.map_eq_some_iff, Option.bind_eq_some_iff, State.setArb_canonical]

theorem execTrqlimWrite_canonical (stack vd : Nat) (ring qlim : Option W64) (s : State) (h0 : State.Canonical s) :
    OutcomeCanonical (execTrqlimWrite stack vd ring qlim s) := by
  unfold execTrqlimWrite; grind [State.Canonical.of_eq, OutcomeCanonical, State.writeTrq_canonical, enabled_canonical]

/-! StackArith. -/

theorem State.stackRecord_canonical (s : State) (core : Nat) (cx : CtxId) (tag : W64) (unit status reason hi : Nat)
    (h0 : State.Canonical s) :
    State.Canonical (State.stackRecord s core cx tag unit status reason hi) := by
  unfold State.stackRecord; grind [State.Canonical.of_eq, State.postEvent_canonical]

theorem State.dropStack_canonical (s : State) (id : Nat) (h0 : State.Canonical s) :
    State.Canonical (State.dropStack s id) := by
  unfold State.dropStack; grind [State.Canonical.of_eq]

theorem State.doneStack_canonical (s : State) (id : Nat) (c : StackCmd) (h0 : State.Canonical s) :
    State.Canonical (State.doneStack s id c) := by
  unfold State.doneStack; grind [State.Canonical.of_eq, State.dropStack_canonical, State.stackRecord_canonical]

theorem State.refuseStack_canonical (s : State) (id : Nat) (c : StackCmd) (reason : Nat) (h0 : State.Canonical s) :
    State.Canonical (State.refuseStack s id c reason) := by
  unfold State.refuseStack; grind [State.Canonical.of_eq, State.abortOp_canonical, State.dropStack_canonical,
      State.stackRecord_canonical]

theorem State.setSession_canonical (s : State) (stack pc : Nat) (x : Session) (h0 : State.Canonical s) :
    State.Canonical (State.setSession s stack pc x) := by
  unfold State.setSession; grind [State.Canonical.of_eq]

theorem State.beginStack_canonical (s : State) (id : Nat) (c : StackCmd) (h0 : State.Canonical s) :
    State.Canonical (State.beginStack s id c) := by
  unfold State.beginStack; grind [State.Canonical.of_eq]

theorem State.stackTurn_canonical (s : State) (id : Nat) (c : StackCmd) (h0 : State.Canonical s) :
    (∀ y1, State.stackTurn s id c = some y1 → State.Canonical y1) := by
  unfold State.stackTurn; grind [State.Canonical.of_eq, State.beginStack_canonical, State.doneStack_canonical,
      State.refuseStack_canonical, State.setSession_canonical]

theorem State.stackRun_canonical (s : State) (core stack : Nat) (a1 : Nat) (h0 : State.Canonical s) :
    State.Canonical (State.stackRun s core stack a1) := by
  fun_induction State.stackRun s core stack a1 <;> grind [State.Canonical.of_eq, State.stackTurn_canonical]

theorem State.stackRunOn_canonical (s : State) (core stack : Nat) (h0 : State.Canonical s) :
    State.Canonical (State.stackRunOn s core stack) := by
  unfold State.stackRunOn; grind [State.Canonical.of_eq, State.stackRun_canonical]

theorem State.stackRunAll_canonical (s : State) (h0 : State.Canonical s) :
    State.Canonical (State.stackRunAll s) := by
  unfold State.stackRunAll; grind [State.Canonical.of_eq, Option.map_eq_some_iff, Option.bind_eq_some_iff,
      State.stackRunOn_canonical, foldl_canonical]

theorem enterStack_canonical (s : State) (si : CtlSite) (stack : Nat) (tag : W64) (silent : Bool) (work : StackWork)
    (op : Option Nat) (h0 : State.Canonical s) :
    CtlIssue.Canonical (enterStack s si stack tag silent work op) := by
  unfold enterStack; grind [State.Canonical.of_eq, Issue.Canonical, CtlIssue.Canonical, State.newId_canonical,
      State.stackRunOn_canonical]

theorem refuseIssue_canonical (s : State) (si : CtlSite) (tag : W64) (unit reason hi : Nat) (h0 : State.Canonical s) :
    CtlIssue.Canonical (refuseIssue s si tag unit reason hi) := by
  unfold refuseIssue; grind [State.Canonical.of_eq, Issue.Canonical, CtlIssue.Canonical, State.stackRecord_canonical]

theorem issueBank_canonical (o : Op) (w : Ins) (s : State) (silent : Bool) (work : State → CtlSite → Nat → Nat → Except Nat
    (StackWork × Option (List Range))) (h0 : State.Canonical s) :
    OutcomeCanonical (issueBank o w s silent work) := by
  unfold issueBank; grind [State.Canonical.of_eq, Issue.Canonical, CtlIssue.Canonical, OutcomeCanonical,
      State.drainCtl_canonical, State.enterOp_canonical, enterStack_canonical, issueCtl_canonical, refuseIssue_canonical]

theorem execSbank_canonical (w : Ins) (s : State) (h0 : State.Canonical s) :
    OutcomeCanonical (execSbank w s) := by
  unfold execSbank; grind [State.Canonical.of_eq, Issue.Canonical, CtlIssue.Canonical, OutcomeCanonical, issueBank_canonical]

theorem execSvb_canonical (w : Ins) (s : State) (h0 : State.Canonical s) :
    OutcomeCanonical (execSvb w s) := by
  unfold execSvb; grind [State.Canonical.of_eq, Issue.Canonical, CtlIssue.Canonical, OutcomeCanonical, issueBank_canonical]

theorem execSmac_canonical (w : Ins) (s : State) (h0 : State.Canonical s) :
    OutcomeCanonical (execSmac w s) := by
  unfold execSmac; grind [State.Canonical.of_eq, Issue.Canonical, CtlIssue.Canonical, OutcomeCanonical, issueBank_canonical]

theorem execSacc_canonical (w : Ins) (s : State) (h0 : State.Canonical s) :
    OutcomeCanonical (execSacc w s) := by
  unfold execSacc; grind [State.Canonical.of_eq, Issue.Canonical, CtlIssue.Canonical, OutcomeCanonical, issueBank_canonical]

theorem execSbexit_canonical (w : Ins) (s : State) (h0 : State.Canonical s) :
    OutcomeCanonical (execSbexit w s) := by
  unfold execSbexit; grind [State.Canonical.of_eq, Issue.Canonical, CtlIssue.Canonical, OutcomeCanonical, issueBank_canonical]

theorem execSred_canonical (w : Ins) (s : State) (h0 : State.Canonical s) :
    OutcomeCanonical (execSred w s) := by
  unfold execSred
  apply issueCtl_canonical
  · exact h0
  intro si
  have hd := State.drainCtl_canonical s si.core h0
  have hb := fun u (hu : State.Canonical u) a n k => State.ctlBytes_canonical u si a n k hu
  simp only
  split
  · exact (hb _ hd _ _ _).1 _ ‹_›
  · rename_i u bs he
    have h1 := (hb _ hd _ _ _).2 _ _ he
    split
    · exact refuseIssue_canonical _ _ _ _ _ _ h1
    · split
      · exact (hb _ h1 _ _ _).1 _ ‹_›
      · rename_i v ps he
        have h2 := (hb _ h1 _ _ _).2 _ _ he
        repeat' split
        all_goals first
          | exact refuseIssue_canonical _ _ _ _ _ _ h2
          | exact h2
          | exact enterStack_canonical _ _ _ _ _ _ _ (State.enterOp_canonical _ _ h2)

theorem State.engWrite_canonical (s : State) (l : Leaf) (bs : List Byte) (h0 : State.Canonical s) :
    State.Canonical (State.engWrite s l bs) := by
  unfold State.engWrite; grind [State.Canonical.of_eq, Option.map_eq_some_iff, Option.bind_eq_some_iff,
      State.writeDram_canonical, State.writeRaw_canonical]

theorem State.stepFault_canonical (s : State) (op : Nat) (o : EngOp) (vas : List Nat) (h0 : State.Canonical s) :
    (∀ y1, State.stepFault s op o vas = some y1 → (∀ y2, y1 = some y2 → State.Canonical y2)) := by
  unfold State.stepFault; grind [State.Canonical.of_eq, Option.map_eq_some_iff, Option.bind_eq_some_iff, State.opFault_canonical]

theorem execSredStep_canonical (op crumb : Nat) (s : State) (h0 : State.Canonical s) :
    OutcomeCanonical (execSredStep op crumb s) := by
  unfold execSredStep; grind [State.Canonical.of_eq, OutcomeCanonical, State.engWrite_canonical, State.gate_canonical,
      State.setOp_canonical, State.stepFault_canonical, enabled_canonical]

theorem execSredComplete_canonical (op : Nat) (s : State) (h0 : State.Canonical s) :
    OutcomeCanonical (execSredComplete op s) := by
  unfold execSredComplete
  apply enabled_canonical
  · exact h0
  have key : ∀ (u : State) (k : List Nat) (f : State → Option State), u.Canonical → (∀ a, State.Canonical a → ∀ b, f a = some b →
      State.Canonical b) → State.Canonical ((u.gate (.work op) k f).getD u) := by
    intro u k f hu hf
    cases hg : u.gate (.work op) k f with
    | none => exact hu
    | some t => exact State.gate_canonical _ _ _ _ hu hf _ hg
  intro y hy
  repeat' split at hy
  all_goals first
    | (cases hy; done)
    | (cases hy
       refine key _ _ _ ?_ ?_
       · first | exact State.clearLocks_canonical _ _ h0 | exact h0
       · intro u hu v hv
         cases hv
         refine State.stackRunOn_canonical _ _ _ (State.dropOp_canonical _ _ (State.doneStack_canonical _ _ _ ?_))
         split
         · exact hu
         · exact State.engineWrite_canonical _ _ _ _ _ hu)

theorem execSbankEnter_canonical (stack : Nat) (s : State) (h0 : State.Canonical s) :
    OutcomeCanonical (execSbankEnter stack s) := by
  unfold execSbankEnter; grind [State.Canonical.of_eq, OutcomeCanonical, State.doneStack_canonical, State.refuseStack_canonical,
      State.setSession_canonical, State.stackRunOn_canonical, enabled_canonical]

theorem execSmacBanksDone_canonical (op : Nat) (s : State) (h0 : State.Canonical s) :
    OutcomeCanonical (execSmacBanksDone op s) := by
  unfold execSmacBanksDone; grind [State.Canonical.of_eq, OutcomeCanonical, State.clearLocks_canonical,
      State.doneStack_canonical, State.dropOp_canonical, State.setSession_canonical, State.stackRunOn_canonical,
      enabled_canonical]

theorem State.setStack_canonical (s : State) (id : Nat) (c : StackCmd) (h0 : State.Canonical s) :
    State.Canonical (State.setStack s id c) := by
  unfold State.setStack; grind [State.Canonical.of_eq]

theorem State.saccCrumb_canonical (s : State) (c : StackCmd) (lock i va : Nat) (bs : List Byte) (next : State → State)
    (h0 : State.Canonical s) (h1 : (∀ x1, State.Canonical x1 → State.Canonical (next x1))) :
    (∀ y2, State.saccCrumb s c lock i va bs next = some y2 → State.Canonical y2) := by
  unfold State.saccCrumb; grind [State.Canonical.of_eq, Option.map_eq_some_iff, Option.bind_eq_some_iff,
      State.engWrite_canonical, State.gate_canonical, State.stepFault_canonical]

theorem State.stepSacc_canonical (s : State) (id : Nat) (c : StackCmd) (h0 : State.Canonical s) :
    (∀ y1, State.stepSacc s id c = some y1 → State.Canonical y1) := by
  unfold State.stepSacc; grind [State.Canonical.of_eq, Option.map_eq_some_iff, Option.bind_eq_some_iff,
      State.clearLocks_canonical, State.doneStack_canonical, State.dropOp_canonical, State.saccCrumb_canonical,
      State.setSession_canonical, State.setStack_canonical, State.stackRunOn_canonical]

theorem execSessionTimeout_canonical (stack pc : Nat) (s : State) (h0 : State.Canonical s) :
    OutcomeCanonical (execSessionTimeout stack pc s) := by
  unfold execSessionTimeout; grind [State.Canonical.of_eq, OutcomeCanonical, State.setSession_canonical,
      State.stackRunAll_canonical, enabled_canonical]

theorem State.serveOne_canonical (s : State) (who : Agent) (id : Nat) (h0 : State.Canonical s) :
    State.Canonical (State.serveOne s who id) := by
  unfold State.serveOne; grind [State.Canonical.of_eq, State.onCtl_canonical, State.performTo_canonical, State.updTeam_canonical]

theorem State.serveHead_canonical (s : State) (all : Bool) (ch : Nat) (h0 : State.Canonical s) :
    (∀ y1, State.serveHead s all ch = some y1 → State.Canonical y1) := by
  unfold State.serveHead; grind [State.Canonical.of_eq, MxBad.Canonical, State.serveOne_canonical, State.undefer_canonical]

theorem State.serveQueue_canonical (s : State) (ch : Nat) (a1 : Nat) (h0 : State.Canonical s) :
    State.Canonical (State.serveQueue s ch a1) := by
  fun_induction State.serveQueue s ch a1 <;> grind [State.Canonical.of_eq, State.serveHead_canonical]

theorem State.leaveBank_canonical (s : State) (stack pc : Nat) (h0 : State.Canonical s) :
    State.Canonical (State.leaveBank s stack pc) := by
  unfold State.leaveBank; grind [State.Canonical.of_eq, State.serveQueue_canonical]

theorem execDeferredQueueServe_canonical (stack pc : Nat) (s : State) (h0 : State.Canonical s) :
    OutcomeCanonical (execDeferredQueueServe stack pc s) := by
  unfold execDeferredQueueServe; grind [State.Canonical.of_eq, OutcomeCanonical, State.doneStack_canonical,
      State.leaveBank_canonical, State.serveHead_canonical, State.stackRecord_canonical, State.stackRunAll_canonical,
      enabled_canonical]

theorem State.replaced_canonical (s : State) (base n : Nat) (h0 : State.Canonical s) :
    State.Canonical (State.replaced s base n) := by
  unfold State.replaced; grind [State.Canonical.of_eq, State.dropL1_canonical]

theorem State.flushGroup_canonical (s : State) (base : Nat) (h0 : State.Canonical s) :
    State.Canonical (State.flushGroup s base) := by
  unfold State.flushGroup; grind [State.Canonical.of_eq, Option.map_eq_some_iff, Option.bind_eq_some_iff,
      State.evictCrumb_canonical, State.replaced_canonical, foldl_canonical]

theorem State.zeroGroup_canonical (s : State) (base : Nat) (h0 : State.Canonical s) :
    State.Canonical (State.zeroGroup s base) := by
  exact Memory.wf_filter _ h0

theorem State.setPlain_canonical (s : State) (stack group : Nat) (on : Bool) (h0 : State.Canonical s) :
    State.Canonical (State.setPlain s stack group on) := by
  unfold State.setPlain; grind [State.Canonical.of_eq, State.flushGroup_canonical, State.zeroGroup_canonical]

theorem State.writeGrpcfg_canonical (s : State) (stack group : Nat) (value : W64) (h0 : State.Canonical s) :
    State.Canonical (State.writeGrpcfg s stack group value) := by
  unfold State.writeGrpcfg; grind [State.Canonical.of_eq, State.setPlain_canonical]

theorem execGrpcfgWrite_canonical (stack group : Nat) (value : W64) (s : State) (h0 : State.Canonical s) :
    OutcomeCanonical (execGrpcfgWrite stack group value s) := by
  unfold execGrpcfgWrite; grind [State.Canonical.of_eq, OutcomeCanonical, State.writeGrpcfg_canonical, enabled_canonical]

theorem execHeldEventPost_canonical (core : Nat) (s : State) (h0 : State.Canonical s) :
    OutcomeCanonical (execHeldEventPost core s) := by
  unfold execHeldEventPost; grind [State.Canonical.of_eq, OutcomeCanonical, State.postHeld_canonical,
      State.stackRunOn_canonical, State.tlRunAll_canonical, enabled_canonical, foldl_canonical]

end Sys2Proof.Machine
end

