-- ==== Sys2Proof/Laws/Canonical/Device.lean ====
section
/-! SUPPORT. Memory keeps its canonical form: every operation of translation, faults, the dispatcher and the raster engines. -/

namespace Sys2Proof.Machine

open Sys2Proof Host

/-! Walker. -/

theorem mlistf_canonical (r : Nat)  :
    MxBad.Canonical (mlistf r) := by
  unfold mlistf; grind [State.Canonical.of_eq, MxBad.Canonical]

theorem State.readWalk_canonical (s : State) (who : Waiter) (r : Reach) (a : Nat) (h0 : State.Canonical s) :
    (∀ y1, State.readWalk s who r a = .error y1 → MxBad.Canonical (y1)) := by
  unfold State.readWalk
  intro y hy
  cases he : s.readRecord who r a with
  | error e => rw [he] at hy; cases hy; exact State.readRecord_canonical _ _ _ _ h0 _ he
  | ok d => rw [he] at hy; cases hy

theorem State.startWalk_canonical (s : State) (who : Waiter) (core slot : Nat) (t : Team) (reader : Reach) (base bar : Nat)
    (byCtl : Bool) (d : WalkDesc) (h0 : State.Canonical s) :
    (∀ y1, State.startWalk s who core slot t reader base bar byCtl d = .error y1 → MxBad.Canonical (y1)) ∧ (∀ y2,
        State.startWalk s who core slot t reader base bar byCtl d = .ok y2 → State.Canonical y2) := by
  unfold State.startWalk; grind [State.Canonical.of_eq, MxBad.Canonical, State.newId_canonical, State.readOperand_canonical,
      State.recordRead_canonical, State.updTeam_canonical, State.walked_canonical, mlistf_canonical]

theorem execMlist_canonical (w : Ins) (s : State) (h0 : State.Canonical s) :
    OutcomeCanonical (execMlist w s) := by
  unfold execMlist
  apply issueBoth_canonical
  · exact h0
  · intro si e
    have hd := State.drainTeam_canonical s si.core si.slot h0
    simp only
    repeat' split
    all_goals first
      | exact trivial
      | exact MxBad.issue_canonical _ (mlistf_canonical _)
      | exact MxBad.issue_canonical _ (State.readWalk_canonical _ _ _ _ hd _ ‹_›)
      | exact MxBad.issue_canonical _ ((State.startWalk_canonical _ _ _ _ _ _ _ _ _ _ hd).1 _ ‹_›)
      | exact (State.startWalk_canonical _ _ _ _ _ _ _ _ _ _ hd).2 _ ‹_›
  · intro si
    have hd := State.drainCtl_canonical s si.core h0
    simp only
    repeat' split
    all_goals first
      | exact MxBad.ctlIssue_canonical _ _ _ _ (mlistf_canonical _) h0
      | exact MxBad.ctlIssue_canonical _ _ _ _ (State.readWalk_canonical _ _ _ _ hd _ ‹_›) h0
      | exact MxBad.ctlIssue_canonical _ _ _ _ ((State.startWalk_canonical _ _ _ _ _ _ _ _ _ _ hd).1 _ ‹_›) h0
      | exact (State.startWalk_canonical _ _ _ _ _ _ _ _ _ _ hd).2 _ ‹_›

theorem State.dropKept_canonical (s : State) (core slot : Nat) (w : Walk) (h0 : State.Canonical s) :
    State.Canonical ((State.dropKept s core slot w).1) := by
  unfold State.dropKept; grind [State.Canonical.of_eq, Option.map_eq_some_iff, Option.bind_eq_some_iff, State.abortOp_canonical,
      State.updTeam_canonical, foldl_canonical]

theorem State.walkFetch_canonical (s : State) (core slot : Nat) (t : Team) (w : Walk) (re : Reach) (bidx bcol : Nat)
    (a b : TileRec) (h0 : State.Canonical s) :
    State.Canonical (State.walkFetch s core slot t w re bidx bcol a b) := by
  unfold State.walkFetch; grind [State.Canonical.of_eq, State.newId_canonical, State.startFetch_canonical, State.updTeam_canonical]

theorem State.walkFault_canonical (s : State) (core slot : Nat) (t : Team) (w : Walk) (re : Reach) (k va : Nat)
    (h0 : State.Canonical s) :
    (∀ y1, State.walkFault s core slot t w re k va = some y1 → State.Canonical y1) := by
  unfold State.walkFault; grind [State.Canonical.of_eq, State.postFault_canonical, State.updTeam_canonical]

theorem execWalkerEntryRead_canonical (core slot : Nat) (s : State) (h0 : State.Canonical s) :
    OutcomeCanonical (execWalkerEntryRead core slot s) := by
  unfold execWalkerEntryRead; grind [State.Canonical.of_eq, MxBad.Canonical, OutcomeCanonical, State.deferAs_canonical,
      State.dropKept_canonical, State.undefer_canonical, State.updTeam_canonical, State.walkFault_canonical,
      State.walkFetch_canonical, State.walked_canonical, enabled_canonical, State.deferAs_getD_canonical]

theorem execWalkerFaultResolve_canonical (core slot : Nat) (mend : Option (List (Nat × Nat))) (s : State) (h0 : State.Canonical s) :
    OutcomeCanonical (execWalkerFaultResolve core slot mend s) := by
  unfold execWalkerFaultResolve; simp only; (repeat' split) <;> grind [State.Canonical.of_eq, OutcomeCanonical,
      Option.map_eq_some_iff, Option.bind_eq_some_iff, State.dropFault_canonical, State.remap_canonical,
      State.updTeam_canonical, enabled_canonical]

theorem execMnext_canonical (w : Ins) (s : State) (h0 : State.Canonical s) :
    OutcomeCanonical (execMnext w s) := by
  unfold execMnext; grind [State.Canonical.of_eq, Issue.Canonical, CtlIssue.Canonical, OutcomeCanonical, State.onTeam_canonical,
      issueMx_canonical, mlistf_canonical]

theorem State.walkAbandon_canonical (s : State) (core slot : Nat) (h0 : State.Canonical s) :
    State.Canonical (State.walkAbandon s core slot) := by
  unfold State.walkAbandon; grind [State.Canonical.of_eq, Option.map_eq_some_iff, Option.bind_eq_some_iff,
      State.abortOp_canonical, State.dropFault_canonical, State.updTeam_canonical, foldl_canonical]

theorem State.walkEnd_canonical (s : State) (core slot : Nat) (h0 : State.Canonical s) :
    State.Canonical (State.walkEnd s core slot) := by
  unfold State.walkEnd; grind [State.Canonical.of_eq, Option.map_eq_some_iff, Option.bind_eq_some_iff, State.abortOp_canonical,
      State.dropFault_canonical, foldl_canonical]

/-! Faults. -/

theorem State.postWaiting_canonical (s : State) (who : Agent) (h0 : State.Canonical s) :
    (∀ y1, State.postWaiting s who = some y1 → State.Canonical y1) := by
  unfold State.postWaiting; grind [State.Canonical.of_eq, State.onCtl_canonical, State.postFault_canonical, State.updTeam_canonical]

theorem execFaultRecordPost_canonical (who : Agent) (s : State) (h0 : State.Canonical s) :
    OutcomeCanonical (execFaultRecordPost who s) := by
  unfold execFaultRecordPost; grind [State.Canonical.of_eq, OutcomeCanonical, State.postWaiting_canonical, enabled_canonical]

theorem State.replay_canonical (s : State) (who : Faulter) (h0 : State.Canonical s) :
    State.Canonical (State.replay s who) := by
  unfold State.replay; grind [State.Canonical.of_eq, Option.map_eq_some_iff, Option.bind_eq_some_iff, State.onCtl_canonical,
      State.setQueue_canonical, State.updTeamRef_canonical]

theorem State.mend_canonical (s : State) (rec : Nat) (f : FaultRec) (ptes : List (Nat × Nat)) (h0 : State.Canonical s) :
    (∀ y1, State.mend s rec f ptes = some y1 → State.Canonical y1) := by
  unfold State.mend; grind [State.Canonical.of_eq, Option.map_eq_some_iff, Option.bind_eq_some_iff, State.dropFault_canonical,
      State.remap_canonical, State.replay_canonical]

theorem State.pageTeam_canonical (s : State) (rec g i e addr : Nat) (h0 : State.Canonical s) :
    (∀ y1, State.pageTeam s rec g i e addr = some y1 → State.Canonical y1) := by
  unfold State.pageTeam; grind [State.Canonical.of_eq, State.dropFault_canonical, State.raise_canonical]

theorem execPageDeliver_canonical (rec : Nat) (s : State) (h0 : State.Canonical s) :
    OutcomeCanonical (execPageDeliver rec s) := by
  unfold execPageDeliver; simp only; (repeat' split) <;> grind [State.Canonical.of_eq, OutcomeCanonical,
      State.dropFault_canonical, State.exitArrivalFault_canonical, State.leaveFault_canonical, State.pageTeam_canonical,
      State.raiseCtl_canonical, enabled_canonical]

theorem State.drainCx_canonical (s : State) (cx : CtxId) (h0 : State.Canonical s) :
    State.Canonical (State.drainCx s cx) := by
  unfold State.drainCx; grind [State.Canonical.of_eq, State.drainCtl_canonical, State.drainTeam_canonical, foldl_canonical]

theorem State.invalidate_canonical (s : State) (cx : CtxId) (base len : Nat) (h0 : State.Canonical s) :
    State.Canonical (State.invalidate s cx base len) := by
  unfold State.invalidate; grind [State.Canonical.of_eq, State.dropTlb_canonical]

theorem execTranslationInvalidate_canonical (cx : CtxId) (base len : Nat) (s : State) (h0 : State.Canonical s) :
    OutcomeCanonical (execTranslationInvalidate cx base len s) := by
  unfold execTranslationInvalidate; grind [State.Canonical.of_eq, OutcomeCanonical, State.drainCx_canonical,
      State.invalidate_canonical, enabled_canonical]

theorem execLockRegister_canonical (op : Nat) (s : State) (h0 : State.Canonical s) :
    OutcomeCanonical (execLockRegister op s) := by
  unfold execLockRegister; grind [State.Canonical.of_eq, OutcomeCanonical, State.register_canonical,
      State.stackRunAll_canonical, enabled_canonical]

/-! Placing. -/

theorem State.seat_canonical (s : State) (core : Nat) (a1 : List Team) (h0 : State.Canonical s) :
    State.Canonical (State.seat s core a1) := by
  fun_induction State.seat s core a1 <;> grind [State.Canonical.of_eq, State.setCore_canonical, State.setTeam_canonical,
      State.sync_canonical]

theorem State.seatGang_canonical (s : State) (gang units : Nat) (teams : Nat → List Team) (a1 : Nat) (a2 : List (Nat × Nat))
    (h0 : State.Canonical s) :
    State.Canonical (State.seatGang s gang units teams a1 a2) := by
  fun_induction State.seatGang s gang units teams a1 a2 <;> grind [State.Canonical.of_eq, State.seat_canonical,
      State.setCore_canonical]

theorem State.placeNew_canonical (s : State) (launch : Nat) (cores bases : List Nat) (h0 : State.Canonical s) :
    State.Canonical (State.placeNew s launch cores bases) := by
  unfold State.placeNew; grind [State.Canonical.of_eq, Option.map_eq_some_iff, Option.bind_eq_some_iff, State.newId_canonical,
      State.seatGang_canonical, State.setGang_canonical]

/-! Dispatcher. -/

theorem State.dispFault_canonical (s : State) (die : Nat) (cx : CtxId) (kind va : Nat) (who : Faulter) (h0 : State.Canonical s) :
    (∀ y1 y2, State.dispFault s die cx kind va who = some (y1, y2) → State.Canonical y2) := by
  unfold State.dispFault; grind [State.Canonical.of_eq, State.postFault_canonical]

theorem State.queueFault_canonical (s : State) (cx : CtxId) (q : Nat) (qu : Queue) (header : Bool) (kind va : Nat)
    (h0 : State.Canonical s) :
    (∀ y1, State.queueFault s cx q qu header kind va = some y1 → State.Canonical y1) := by
  unfold State.queueFault; grind [State.Canonical.of_eq, Option.map_eq_some_iff, Option.bind_eq_some_iff,
      State.dispFault_canonical, State.setQueue_canonical]

theorem State.launchRecord_canonical (s : State) (i : Issuer) (die index status fstat : Nat) (h0 : State.Canonical s) :
    State.Canonical (State.launchRecord s i die index status fstat) := by
  unfold State.launchRecord; grind [State.Canonical.of_eq, Issue.Canonical, CtlIssue.Canonical, State.postEvent_canonical]

theorem State.failHead_canonical (s : State) (cx : CtxId) (q : Nat) (qu : Queue) (fstat : Nat) (h0 : State.Canonical s) :
    (∀ y1, State.failHead s cx q qu fstat = some y1 → State.Canonical y1) := by
  unfold State.failHead; grind [State.Canonical.of_eq, State.headTouched_canonical, State.launchRecord_canonical,
      State.queueFault_canonical, State.setFstat_canonical, State.setQ32_canonical, State.setQueue_canonical]

theorem State.takeHead_canonical (s : State) (cx : CtxId) (q : Nat) (qu : Queue) (r : LaunchRec) (h0 : State.Canonical s) :
    (∀ y1, State.takeHead s cx q qu r = some y1 → State.Canonical y1) := by
  unfold State.takeHead; grind [State.Canonical.of_eq, Issue.Canonical, CtlIssue.Canonical, State.headTouched_canonical,
      State.newId_canonical, State.queueFault_canonical, State.setQ32_canonical, State.setQueue_canonical]

theorem State.admitHead_canonical (s : State) (cx : CtxId) (q : Nat) (qu : Queue) (h : QHead) (r : LaunchRec)
    (h0 : State.Canonical s) :
    (∀ y1, State.admitHead s cx q qu h r = some y1 → State.Canonical y1) := by
  unfold State.admitHead; grind [State.Canonical.of_eq, State.failHead_canonical, State.takeHead_canonical]

theorem State.queueRead_canonical (s : State) (cx : CtxId) (q : Nat) (qu : Queue) (va : Nat) (keys : List Nat) (f : State →
    List Byte → Option State) (h0 : State.Canonical s) (h1 : (∀ x1 x2, State.Canonical x1 → (∀ y3, f x1 x2 = some y3 →
    State.Canonical y3))) :
    (∀ y4, State.queueRead s cx q qu va keys f = some y4 → State.Canonical y4) := by
  unfold State.queueRead; grind [State.Canonical.of_eq, Option.map_eq_some_iff, Option.bind_eq_some_iff, State.gate_canonical,
      State.touch_canonical, State.walkedDie_canonical]

theorem State.readHead_canonical (s : State) (cx : CtxId) (q : Nat) (qu : Queue) (h : QHead) (h0 : State.Canonical s) :
    (∀ y1, State.readHead s cx q qu h = some y1 → State.Canonical y1) := by
  intro y hy
  unfold State.readHead at hy
  split at hy
  · exact State.queueFault_canonical _ _ _ _ _ _ _ h0 _ hy
  · refine State.queueRead_canonical _ _ _ _ _ _ _ h0 ?_ _ hy
    intro u bs hu v hv
    repeat' split at hv
    · exact State.failHead_canonical _ _ _ _ _ hu _ hv
    · exact State.admitHead_canonical _ _ _ _ _ _ hu _ hv
    · exact State.queueFault_canonical _ _ _ _ _ _ _ hu _ hv
    · refine State.queueRead_canonical _ _ _ _ _ _ _ hu ?_ _ hv
      intro w bs hw x hx
      split at hx
      · exact State.failHead_canonical _ _ _ _ _ hw _ hx
      · exact State.admitHead_canonical _ _ _ _ _ _ hw _ hx

theorem execLaunchRecordRead_canonical (cx : CtxId) (queue : Nat) (s : State) (h0 : State.Canonical s) :
    OutcomeCanonical (execLaunchRecordRead cx queue s) := by
  unfold execLaunchRecordRead; grind [State.Canonical.of_eq, Issue.Canonical, CtlIssue.Canonical, MxBad.Canonical,
      OutcomeCanonical, State.failHead_canonical, State.gate_canonical, State.queueFault_canonical, State.readHead_canonical,
      State.takeHead_canonical, State.touch_canonical, State.walkedDie_canonical, enabled_canonical]

theorem State.placeNext_canonical (s : State) (id : Nat) (bases : Option (List Nat)) (h0 : State.Canonical s) :
    (∀ y1, State.placeNext s id bases = some y1 → State.Canonical y1) := by
  unfold State.placeNext; grind [State.Canonical.of_eq, Option.map_eq_some_iff, Option.bind_eq_some_iff, State.placeNew_canonical]

theorem State.placeMany_canonical (s : State) (id size : Nat) (a1 : Nat) (a2 : Option (List Nat)) (h0 : State.Canonical s) :
    (∀ y3, State.placeMany s id size a1 a2 = some y3 → State.Canonical y3) := by
  fun_induction State.placeMany s id size a1 a2 <;> grind [State.Canonical.of_eq, Option.map_eq_some_iff,
      Option.bind_eq_some_iff, State.placeNext_canonical]

theorem State.dispatchPick_canonical (s : State) (die : Nat) (heads : List (Nat × Launch)) (h0 : State.Canonical s) :
    (∀ y1 y2 y3, State.dispatchPick s die heads = some (y1, y2, y3) → State.Canonical y3) := by
  unfold State.dispatchPick; grind [State.Canonical.of_eq, Option.map_eq_some_iff, Option.bind_eq_some_iff, State.setArb_canonical]

theorem State.noteServed_canonical (s : State) (l : Launch) (h0 : State.Canonical s) :
    State.Canonical (State.noteServed s l) := by
  unfold State.noteServed; grind [State.Canonical.of_eq]

theorem State.nextHead_canonical (s : State) (die : Nat) (h0 : State.Canonical s) :
    (∀ y1 y2 y3, State.nextHead s die = some (y1, y2, y3) → State.Canonical y3) := by
  unfold State.nextHead; grind [State.Canonical.of_eq, State.dispatchPick_canonical]

theorem execGangPlace_canonical (die : Nat) (bases : List Nat) (s : State) (h0 : State.Canonical s) :
    OutcomeCanonical (execGangPlace die bases s) := by
  unfold execGangPlace
  apply enabled_canonical
  · exact h0
  intro y hy
  split at hy
  · rename_i id l t ht
    have h := State.nextHead_canonical _ _ h0 _ _ _ ht
    split at hy
    · cases hy
    · obtain ⟨x, hx, rfl⟩ := Option.map_eq_some_iff.1 hy
      exact State.noteServed_canonical _ _ (State.placeNext_canonical _ _ _ h _ hx)
  · cases hy

theorem execCoresidentPlace_canonical (cx : CtxId) (queue : Nat) (bases : List Nat) (s : State) (h0 : State.Canonical s) :
    OutcomeCanonical (execCoresidentPlace cx queue bases s) := by
  unfold execCoresidentPlace
  apply enabled_canonical
  · exact h0
  intro y hy
  split at hy
  · split at hy
    · rename_i id l _ id' _ t ht
      have h := State.nextHead_canonical _ _ h0 _ _ _ ht
      split at hy
      · cases hy
      · obtain ⟨x, hx, rfl⟩ := Option.map_eq_some_iff.1 hy
        exact State.noteServed_canonical _ _ (State.placeMany_canonical _ _ _ _ _ h _ hx)
    · cases hy
  · cases hy

theorem execTeamRetire_canonical (core slot : Nat) (s : State) (h0 : State.Canonical s) :
    OutcomeCanonical (execTeamRetire core slot s) := by
  unfold execTeamRetire; grind [State.Canonical.of_eq, OutcomeCanonical, State.drainTeam_canonical, State.mxRelease_canonical,
      State.walkEnd_canonical, enabled_canonical]

theorem State.dropGang_canonical (s : State) (id : Nat) (g : Gang) (h0 : State.Canonical s) :
    State.Canonical (State.dropGang s id g) := by
  unfold State.dropGang
  exact Memory.wf_filter _ (foldl_canonical _ (fun s k h => State.setCore_canonical s k _ h) _ _ h0)

theorem State.storeDone_canonical (s : State) (id : Nat) (l : Launch) (h0 : State.Canonical s) :
    (∀ y1 y2, State.storeDone s id l = some (y1, y2) → State.Canonical y2) := by
  intro y1 y2 hy
  unfold State.storeDone at hy
  split at hy
  · cases hy; exact h0
  · split at hy
    · obtain ⟨⟨i, x⟩, hx, he⟩ := Option.map_eq_some_iff.1 hy
      cases he
      exact (State.dispFault_canonical _ _ _ _ _ _ h0 _ _ hx).of_eq rfl
    · cases hy; exact State.engineWrite_canonical _ _ _ _ _ (State.walkedDie_canonical _ _ _ _ h0)

theorem State.endLaunch_canonical (s : State) (id : Nat) (l : Launch) (h0 : State.Canonical s) :
    State.Canonical (State.endLaunch s id l) := by
  unfold State.endLaunch; grind [State.Canonical.of_eq, Issue.Canonical, CtlIssue.Canonical, State.launchRecord_canonical,
      State.postNotice_canonical]

theorem State.countRetired_canonical (s : State) (id : Nat) (l : Launch) (h0 : State.Canonical s) :
    (∀ y1, State.countRetired s id l = some y1 → State.Canonical y1) := by
  intro y hy
  unfold State.countRetired at hy
  split at hy
  · cases hy; exact State.endLaunch_canonical _ _ _ h0
  · split at hy
    · obtain ⟨⟨i, x⟩, hx, rfl⟩ := Option.map_eq_some_iff.1 hy
      exact (State.dispFault_canonical _ _ _ _ _ _ h0 _ _ hx).of_eq rfl
    · cases hy
      exact State.endLaunch_canonical _ _ _ (State.setQ32_canonical _ _ _ _ (State.headTouched_canonical _ _ _ _ h0))

theorem State.completeLaunch_canonical (s : State) (id : Nat) (l : Launch) (h0 : State.Canonical s) :
    (∀ y1, State.completeLaunch s id l = some y1 → State.Canonical y1) := by
  intro y hy
  unfold State.completeLaunch at hy
  split at hy
  · exact State.countRetired_canonical _ _ _ (State.storeDone_canonical _ _ _ h0 _ _ ‹_›) _ hy
  · cases hy; exact State.storeDone_canonical _ _ _ h0 _ _ ‹_›
  · cases hy

theorem State.pixelGone_canonical (s : State) (gang : Nat) (h0 : State.Canonical s) :
    State.Canonical (State.pixelGone s gang) := by
  unfold State.pixelGone; grind [State.Canonical.of_eq, Option.map_eq_some_iff, Option.bind_eq_some_iff]

theorem State.retireGang_canonical (s : State) (id : Nat) (g : Gang) (h0 : State.Canonical s) :
    (∀ y1, State.retireGang s id g = some y1 → State.Canonical y1) := by
  intro y hy
  unfold State.retireGang at hy
  have h := State.dropGang_canonical s id g h0
  simp only at hy
  repeat' split at hy
  · cases hy; exact h
  · cases hy; exact State.pixelGone_canonical _ _ (h.of_eq rfl)
  · refine State.completeLaunch_canonical _ _ _ ?_ _ hy; exact h.of_eq rfl
  · cases hy; exact h.of_eq rfl

theorem execGangRetire_canonical (gang : Nat) (s : State) (h0 : State.Canonical s) :
    OutcomeCanonical (execGangRetire gang s) := by
  unfold execGangRetire; grind [State.Canonical.of_eq, OutcomeCanonical, State.gate_canonical, State.retireGang_canonical,
      enabled_canonical]

theorem State.completeAgain_canonical (s : State) (id : Nat) (l : Launch) (h0 : State.Canonical s) :
    (∀ y1, State.completeAgain s id l = some y1 → State.Canonical y1) := by
  intro y hy
  refine State.gate_canonical _ _ _ _ h0 ?_ _ hy
  intro u hu v hv
  refine State.completeLaunch_canonical _ _ _ ?_ _ hv
  exact hu.of_eq rfl

theorem execFaultMend_canonical (rec : Nat) (ptes : List (Nat × Nat)) (s : State) (h0 : State.Canonical s) :
    OutcomeCanonical (execFaultMend rec ptes s) := by
  unfold execFaultMend
  apply enabled_canonical
  · exact h0
  intro y hy
  split at hy
  · split at hy
    · cases hy
    · obtain ⟨u, hu, hy⟩ := Option.bind_eq_some_iff.1 hy
      have hm := State.mend_canonical _ _ _ _ h0 _ hu
      repeat' split at hy
      · exact State.deferAs_canonical _ _ _ h0 _ hy
      · exact State.completeAgain_canonical _ _ _ hm _ hy
      · cases hy; exact hm
    · exact State.mend_canonical _ _ _ _ h0 _ hy
  · cases hy

theorem State.passQueue_canonical (s : State) (cx : CtxId) (q : Nat) (h0 : State.Canonical s) :
    State.Canonical (State.passQueue s cx q) := by
  unfold State.passQueue; grind [State.Canonical.of_eq, State.postNotice_canonical, State.setQueue_canonical]

theorem execDispatchFaultResolve_canonical (rec : Nat) (s : State) (h0 : State.Canonical s) :
    OutcomeCanonical (execDispatchFaultResolve rec s) := by
  unfold execDispatchFaultResolve; grind [State.Canonical.of_eq, OutcomeCanonical, Option.map_eq_some_iff,
      Option.bind_eq_some_iff, State.countRetired_canonical, State.dropFault_canonical, State.endLaunch_canonical,
      State.failHead_canonical, State.passQueue_canonical, enabled_canonical]

/-! Preempt. -/

theorem State.saveTeam_canonical (s : State) (gang core slot : Nat) (h0 : State.Canonical s) :
    State.Canonical (State.saveTeam s gang core slot) := by
  unfold State.saveTeam; grind [State.Canonical.of_eq, Option.map_eq_some_iff, Option.bind_eq_some_iff,
      State.drainTeam_canonical, State.mxSave_canonical, State.setCore_canonical, State.setGang_canonical,
      State.walkAbandon_canonical]

theorem State.abandonCopies_canonical (s : State) (gang : Nat) (h0 : State.Canonical s) :
    State.Canonical (State.abandonCopies s gang) := by
  unfold State.abandonCopies; grind [State.Canonical.of_eq, State.scribble_canonical, foldl_canonical]

theorem State.saveGang_canonical (s : State) (gang : Nat) (g : Gang) (h0 : State.Canonical s) :
    State.Canonical (State.saveGang s gang g) := by
  unfold State.saveGang; grind [State.Canonical.of_eq, Option.map_eq_some_iff, Option.bind_eq_some_iff,
      State.abandonCopies_canonical, State.saveTeam_canonical, State.setCore_canonical, State.setGang_canonical,
      foldl_canonical]

theorem State.preemptNow_canonical (s : State) (gang : Nat) (g : Gang) (h0 : State.Canonical s) :
    (∀ y1, State.preemptNow s gang g = some y1 → State.Canonical y1) := by
  unfold State.preemptNow; grind [State.Canonical.of_eq, State.saveGang_canonical, foldl_canonical]

theorem State.chooseToSave_canonical (s : State) (l : Tbl Gang) (h0 : State.Canonical s) :
    (∀ y1, State.chooseToSave s l = some y1 → State.Canonical y1) := by
  unfold State.chooseToSave; grind [State.Canonical.of_eq, State.setGang_canonical, foldl_canonical]

theorem State.preempt_canonical (s : State) (gang : Nat) (g : Gang) (h0 : State.Canonical s) :
    (∀ y1, State.preempt s gang g = some y1 → State.Canonical y1) := by
  unfold State.preempt; grind [State.Canonical.of_eq, State.chooseToSave_canonical, State.preemptNow_canonical]

theorem execGangPreempt_canonical (gang : Nat) (s : State) (h0 : State.Canonical s) :
    OutcomeCanonical (execGangPreempt gang s) := by
  unfold execGangPreempt; grind [State.Canonical.of_eq, OutcomeCanonical, Option.map_eq_some_iff, Option.bind_eq_some_iff,
      State.preempt_canonical, enabled_canonical]

theorem State.reseat_canonical (s : State) (core : Nat) (g : Gang) (a1 : List Team) (h0 : State.Canonical s) :
    State.Canonical (State.reseat s core g a1) := by
  fun_induction State.reseat s core g a1 <;> grind [State.Canonical.of_eq, MxBad.Canonical, Option.map_eq_some_iff,
      Option.bind_eq_some_iff, State.mxRestore_canonical, State.setCore_canonical, State.setTeam_canonical,
      State.sync_canonical]

theorem State.restoreCores_canonical (s : State) (gang : Nat) (g : Gang) (units : Nat) (a1 : Nat) (a2 : List (Nat × Nat))
    (h0 : State.Canonical s) :
    (∀ y3, State.restoreCores s gang g units a1 a2 = some y3 → State.Canonical y3) := by
  fun_induction State.restoreCores s gang g units a1 a2 <;> grind [State.Canonical.of_eq, State.reseat_canonical,
      State.setCore_canonical]

theorem State.restoreGang_canonical (s : State) (gang : Nat) (g : Gang) (l : Launch) (cores bases : List Nat)
    (h0 : State.Canonical s) :
    (∀ y1, State.restoreGang s gang g l cores bases = some y1 → State.Canonical y1) := by
  unfold State.restoreGang; grind [State.Canonical.of_eq, Option.map_eq_some_iff, Option.bind_eq_some_iff,
      State.restoreCores_canonical, State.setGang_canonical]

theorem State.restoreAll_canonical (s : State) (l : Launch) (a1 : List (Nat × Gang)) (a2 : List Nat) (a3 : List Nat)
    (h0 : State.Canonical s) :
    (∀ y4, State.restoreAll s l a1 a2 a3 = some y4 → State.Canonical y4) := by
  fun_induction State.restoreAll s l a1 a2 a3 <;> grind [State.Canonical.of_eq, State.restoreGang_canonical]

theorem execGangRestore_canonical (gang : Nat) (cores bases : List Nat) (s : State) (h0 : State.Canonical s) :
    OutcomeCanonical (execGangRestore gang cores bases s) := by
  unfold execGangRestore; grind [State.Canonical.of_eq, OutcomeCanonical, State.restoreAll_canonical, enabled_canonical]

theorem execFrameDeadline_canonical (part : Nat) (s : State) (h0 : State.Canonical s) :
    OutcomeCanonical (execFrameDeadline part s) := by
  unfold execFrameDeadline; grind [State.Canonical.of_eq, OutcomeCanonical, enabled_canonical]

theorem execFramePreempt_canonical (part die : Nat) (s : State) (h0 : State.Canonical s) :
    OutcomeCanonical (execFramePreempt part die s) := by
  unfold execFramePreempt; grind [State.Canonical.of_eq, OutcomeCanonical, Option.map_eq_some_iff, Option.bind_eq_some_iff,
      State.preempt_canonical, enabled_canonical]

theorem State.fireWatchdog_canonical (s : State) (l : Launch) (g : Gang) (h0 : State.Canonical s) :
    State.Canonical (State.fireWatchdog s l g) := by
  unfold State.fireWatchdog; grind [State.Canonical.of_eq, Issue.Canonical, CtlIssue.Canonical, State.postFiring_canonical,
      State.tellRenweaz_canonical]

theorem execProgressWatchdog_canonical (gang : Nat) (s : State) (h0 : State.Canonical s) :
    OutcomeCanonical (execProgressWatchdog gang s) := by
  unfold execProgressWatchdog; grind [State.Canonical.of_eq, OutcomeCanonical, State.fireWatchdog_canonical,
      State.setGang_canonical, enabled_canonical]

/-! Raster. -/

theorem State.rasterDone_canonical (s : State) (id : Nat) (c : RasterCmd) (status : Nat) (tag : W64) (reason count : Nat)
    (h0 : State.Canonical s) :
    State.Canonical (State.rasterDone s id c status tag reason count) := by
  unfold State.rasterDone; grind [State.Canonical.of_eq]

theorem State.settleRaster_canonical (s : State) (core : Nat) (a1 : Nat) (h0 : State.Canonical s) :
    State.Canonical (State.settleRaster s core a1) := by
  fun_induction State.settleRaster s core a1 <;> grind [State.Canonical.of_eq, State.postEvent_canonical]

theorem State.settleRasterOn_canonical (s : State) (core : Nat) (h0 : State.Canonical s) :
    State.Canonical (State.settleRasterOn s core) := by
  unfold State.settleRasterOn; grind [State.Canonical.of_eq, State.settleRaster_canonical]

theorem State.finishRaster_canonical (s : State) (id : Nat) (c : RasterCmd) (status : Nat) (tag : W64) (reason count : Nat)
    (h0 : State.Canonical s) :
    State.Canonical (State.finishRaster s id c status tag reason count) := by
  unfold State.finishRaster; grind [State.Canonical.of_eq, State.rasterDone_canonical, State.settleRasterOn_canonical]

theorem State.enterRaster_canonical (s : State) (si : CtlSite) (a : Nat) (work : RasterWork) (h0 : State.Canonical s) :
    State.Canonical (State.enterRaster s si a work) := by
  unfold State.enterRaster; grind [State.Canonical.of_eq, State.newId_canonical, State.settleRasterOn_canonical]

theorem execRstate_canonical (w : Ins) (s : State) (h0 : State.Canonical s) :
    OutcomeCanonical (execRstate w s) := by
  unfold execRstate; grind [State.Canonical.of_eq, Issue.Canonical, CtlIssue.Canonical, OutcomeCanonical,
      State.enterRaster_canonical, State.onCtl_canonical, issueCtl_canonical]

theorem execDraw_canonical (w : Ins) (s : State) (h0 : State.Canonical s) :
    OutcomeCanonical (execDraw w s) := by
  unfold execDraw; grind [State.Canonical.of_eq, Issue.Canonical, CtlIssue.Canonical, OutcomeCanonical,
      State.drainCtl_canonical, State.enterRaster_canonical, issueCtl_canonical]

theorem execRclear_canonical (w : Ins) (s : State) (h0 : State.Canonical s) :
    OutcomeCanonical (execRclear w s) := by
  unfold execRclear; grind [State.Canonical.of_eq, Issue.Canonical, CtlIssue.Canonical, OutcomeCanonical,
      State.drainCtl_canonical, State.enterRaster_canonical, issueCtl_canonical]

theorem execRsync_canonical (w : Ins) (s : State) (h0 : State.Canonical s) :
    OutcomeCanonical (execRsync w s) := by
  unfold execRsync; grind [State.Canonical.of_eq, Issue.Canonical, CtlIssue.Canonical, OutcomeCanonical,
      State.drainCtl_canonical, State.enterRaster_canonical, issueCtl_canonical]

theorem refuseRaster_canonical (s : State) (si : CtlSite) (a reason : Nat) (h0 : State.Canonical s) :
    CtlIssue.Canonical (refuseRaster s si a reason) := by
  unfold refuseRaster; grind [State.Canonical.of_eq, Issue.Canonical, CtlIssue.Canonical, State.enterRaster_canonical]

theorem execRresolve_canonical (w : Ins) (s : State) (h0 : State.Canonical s) :
    OutcomeCanonical (execRresolve w s) := by
  unfold execRresolve
  apply issueCtl_canonical
  · exact h0
  intro si
  have hd := State.drainCtl_canonical s si.core h0
  simp only
  split
  · exact (State.ctlBytes_canonical _ si _ _ _ hd).1 _ ‹_›
  · have h1 := (State.ctlBytes_canonical _ si _ _ _ hd).2 _ _ ‹_›
    have h2 (o : EngOp) := State.enterOp_canonical _ o h1
    repeat' split
    all_goals first
      | exact refuseRaster_canonical _ _ _ _ h1
      | exact (h2 _).of_eq rfl

theorem execPxout_canonical (w : Ins) (s : State) (h0 : State.Canonical s) :
    OutcomeCanonical (execPxout w s) := by
  unfold execPxout; grind [State.Canonical.of_eq, Issue.Canonical, CtlIssue.Canonical, OutcomeCanonical,
      State.newId_canonical, State.updTeam_canonical, issueTeam_canonical]

/-! RasterRun. -/

theorem State.rasterKeys_canonical (s : State) (who : Waiter) (die : Nat) (cx : CtxId) (va n : Nat) (wr : Bool)
    (h0 : State.Canonical s) :
    (∀ y1 y2, State.rasterKeys s who die cx va n wr = .ok (y1, y2) → State.Canonical y1) := by
  unfold State.rasterKeys; grind [State.Canonical.of_eq, MxBad.Canonical, State.undefer_canonical, State.walkedDie_canonical]

theorem State.rasterRead_canonical (s : State) (who : Waiter) (die : Nat) (cx : CtxId) (va n : Nat) (h0 : State.Canonical s) :
    (∀ y1 y2, State.rasterRead s who die cx va n = .ok (y1, y2) → State.Canonical y1) := by
  intro y b hy
  unfold State.rasterRead at hy
  cases hk : s.rasterKeys who die cx va n false with
  | error e => rw [hk] at hy; cases hy
  | ok x =>
    rw [hk] at hy
    cases hy
    exact State.touch_canonical _ _ _ _ (State.rasterKeys_canonical _ _ _ _ _ _ _ h0 _ _ hk)

theorem State.rasterWrite_canonical (s : State) (cx : CtxId) (va : Nat) (keys : List Nat) (bs : List Byte)
    (h0 : State.Canonical s) :
    State.Canonical (State.rasterWrite s cx va keys bs) := by
  unfold State.rasterWrite; grind [State.Canonical.of_eq, State.engineWrite_canonical]

theorem State.rasterStop_canonical (s : State) (id : Nat) (c : RasterCmd) (e : RasterStop) (h0 : State.Canonical s) :
    (∀ y1, State.rasterStop s id c e = some y1 → State.Canonical y1) := by
  unfold State.rasterStop; grind [State.Canonical.of_eq, MxBad.Canonical, Option.map_eq_some_iff, Option.bind_eq_some_iff,
      State.deferAs_canonical, State.dispFault_canonical, State.deferAs_getD_canonical]

theorem State.setRaster_canonical (s : State) (id : Nat) (c : RasterCmd) (w : RasterWork) (h0 : State.Canonical s) :
    State.Canonical (State.setRaster s id c w) := by
  unfold State.setRaster; grind [State.Canonical.of_eq]

theorem State.refuseRun_canonical (s : State) (id : Nat) (c : RasterCmd) (reason : Nat) (h0 : State.Canonical s) :
    (∀ y1, State.refuseRun s id c reason = some y1 → State.Canonical y1) := by
  unfold State.refuseRun; grind [State.Canonical.of_eq, State.finishRaster_canonical]

theorem State.startDraw_canonical (s : State) (id : Nat) (c : RasterCmd) (va n : Nat) (st : RasterState) (r : Surface)
    (l : LaunchRec) (h0 : State.Canonical s) :
    State.Canonical (State.startDraw s id c va n st r l) := by
  unfold State.startDraw; grind [State.Canonical.of_eq, Issue.Canonical, CtlIssue.Canonical, State.newId_canonical,
      State.setRaster_canonical]

theorem State.beginKernel_canonical (s : State) (id : Nat) (c : RasterCmd) (va n : Nat) (st : RasterState) (r : Surface)
    (h0 : State.Canonical s) :
    (∀ y1, State.beginKernel s id c va n st r = some y1 → State.Canonical y1) := by
  intro y hy
  unfold State.beginKernel at hy
  split at hy
  · exact State.refuseRun_canonical _ _ _ _ h0 _ hy
  · split at hy
    · exact State.rasterStop_canonical _ _ _ _ h0 _ hy
    · have h := State.rasterRead_canonical _ _ _ _ _ _ h0 _ _ ‹_›
      repeat' split at hy
      all_goals first
        | exact State.refuseRun_canonical _ _ _ _ h _ hy
        | (cases hy; exact State.startDraw_canonical _ _ _ _ _ _ _ _ h)

theorem State.beginDraw_canonical (s : State) (id : Nat) (c : RasterCmd) (va n : Nat) (st : RasterState) (h0 : State.Canonical s) :
    (∀ y1, State.beginDraw s id c va n st = some y1 → State.Canonical y1) := by
  intro y hy
  unfold State.beginDraw at hy
  split at hy
  · exact State.refuseRun_canonical _ _ _ _ h0 _ hy
  · split at hy
    · exact State.rasterStop_canonical _ _ _ _ h0 _ hy
    · have h := State.rasterRead_canonical _ _ _ _ _ _ h0 _ _ ‹_›
      repeat' split at hy
      all_goals first
        | exact State.refuseRun_canonical _ _ _ _ h _ hy
        | exact State.beginKernel_canonical _ _ _ _ _ _ _ h _ hy

theorem State.readVertex_canonical (s : State) (id : Nat) (c : RasterCmd) (va n : Nat) (st : RasterState) (r : DrawRun)
    (h0 : State.Canonical s) :
    (∀ y1, State.readVertex s id c va n st r = some y1 → State.Canonical y1) := by
  unfold State.readVertex; grind [State.Canonical.of_eq, State.rasterRead_canonical, State.rasterStop_canonical,
      State.setRaster_canonical]

theorem State.advanceDraw_canonical (s : State) (id : Nat) (h0 : State.Canonical s) :
    (∀ y1, State.advanceDraw s id = some y1 → State.Canonical y1) := by
  unfold State.advanceDraw; grind [State.Canonical.of_eq, State.beginDraw_canonical, State.readVertex_canonical]

theorem State.placePixel_canonical (s : State) (id : Nat) (c : RasterCmd) (l : Launch) (base : Nat) (h0 : State.Canonical s) :
    (∀ y1, State.placePixel s id c l base = some y1 → State.Canonical y1) := by
  unfold State.placePixel; grind [State.Canonical.of_eq, State.newId_canonical, State.seatGang_canonical,
      State.setGang_canonical, State.setRaster_canonical]

theorem execPixelTeamSpawn_canonical (die base : Nat) (s : State) (h0 : State.Canonical s) :
    OutcomeCanonical (execPixelTeamSpawn die base s) := by
  unfold execPixelTeamSpawn
  apply enabled_canonical
  · exact h0
  intro y hy
  simp only at hy
  split at hy
  · obtain ⟨id, _, ha⟩ := List.exists_of_findSome?_eq_some hy
    exact State.advanceDraw_canonical _ _ h0 _ ha
  · cases hb : (s.dispatchPick die (s.pixelHeads die)).bind fun x => x.2.1.draw.bind fun id =>
        (x.2.2.rcmds.get? id).bind fun c => x.2.2.placePixel id c x.2.1 base with
    | some z =>
      rw [hb] at hy
      cases hy
      obtain ⟨⟨id, l, t'⟩, hp, hb⟩ := Option.bind_eq_some_iff.1 hb
      have hq := State.dispatchPick_canonical _ _ _ h0 _ _ _ hp
      obtain ⟨i, _, hb⟩ := Option.bind_eq_some_iff.1 hb
      obtain ⟨c, _, hb⟩ := Option.bind_eq_some_iff.1 hb
      exact State.placePixel_canonical _ _ _ _ _ hq _ hb
    | none =>
      rw [hb] at hy
      obtain ⟨id, _, ha⟩ := List.exists_of_findSome?_eq_some hy
      exact State.advanceDraw_canonical _ _ h0 _ ha

theorem State.mergeAt_canonical (s : State) (who : Waiter) (die : Nat) (cx : CtxId) (va : Nat) (st : RasterState) (place : Nat)
    (fr : List Fragment) (h0 : State.Canonical s) :
    (∀ y1 y2, State.mergeAt s who die cx va st place fr = .ok (y1, y2) → State.Canonical y1) := by
  intro y b hy
  unfold State.mergeAt at hy
  split at hy
  · cases hy
  · have h := State.rasterRead_canonical _ _ _ _ _ _ h0 _ _ ‹_›
    simp only at hy
    split at hy
    · cases hy; exact h
    · split at hy
      · cases hy
      · cases hy
        exact State.rasterWrite_canonical _ _ _ _ _ (State.rasterKeys_canonical _ _ _ _ _ _ _ h _ _ ‹_›)

theorem execPxoutMerge_canonical (die : Nat) (crumb : PacketCrumb) (s : State) (h0 : State.Canonical s) :
    OutcomeCanonical (execPxoutMerge die crumb s) := by
  unfold execPxoutMerge; grind [State.Canonical.of_eq, MxBad.Canonical, OutcomeCanonical, State.deferAs_canonical,
      State.mergeAt_canonical, State.rasterStop_canonical, State.setRaster_canonical, enabled_canonical,
      State.deferAs_getD_canonical]

theorem execDrawComplete_canonical (die cmd : Nat) (s : State) (h0 : State.Canonical s) :
    OutcomeCanonical (execDrawComplete die cmd s) := by
  unfold execDrawComplete; grind [State.Canonical.of_eq, OutcomeCanonical, State.advanceDraw_canonical,
      State.finishRaster_canonical, enabled_canonical]

theorem State.endRaster_canonical (s : State) (id va : Nat) (c : RasterCmd) (h0 : State.Canonical s) :
    State.Canonical (State.endRaster s id va c) := by
  unfold State.endRaster; grind [State.Canonical.of_eq, State.endOp_canonical, State.finishRaster_canonical,
      State.setRaster_canonical]

theorem execRasterFaultResolve_canonical (rec : Nat) (mend : Option (List (Nat × Nat))) (s : State) (h0 : State.Canonical s) :
    OutcomeCanonical (execRasterFaultResolve rec mend s) := by
  unfold execRasterFaultResolve
  apply enabled_canonical
  · exact h0
  intro y hy
  simp only at hy
  repeat' split at hy
  all_goals first
    | (cases hy; done)
    | (obtain ⟨u, hu, rfl⟩ := Option.map_eq_some_iff.1 hy
       exact (State.mend_canonical _ _ _ _ h0 _ hu).of_eq rfl)
    | (cases hy; exact State.endRaster_canonical _ _ _ _ (State.dropFault_canonical _ _ h0))
    | (cases hy; exact State.dropFault_canonical _ _ h0)

/-! Compress. -/

theorem State.readSurface_canonical (s : State) (id : Nat) (c : RasterCmd) (va : Nat) (h0 : State.Canonical s) :
    (∀ y1 y2, State.readSurface s id c va = .ok (y1, y2) → State.Canonical y1) := by
  intro y b hy
  unfold State.readSurface at hy
  cases hk : s.rasterRead (.work id) c.die c.cx va 64 with
  | error e => rw [hk] at hy; cases hy
  | ok x =>
    rw [hk] at hy
    cases hy
    exact State.rasterRead_canonical _ _ _ _ _ _ h0 _ _ hk

theorem State.clearEvent_canonical (s : State) (pa clearc : Nat) (h0 : State.Canonical s) :
    State.Canonical (State.clearEvent s pa clearc) := by
  unfold State.clearEvent; grind [State.Canonical.of_eq, State.writeDram_canonical]

theorem State.fillCrumbs_canonical (s : State) (cx : CtxId) (va : Nat) (keys : List Nat) (x : Nat) (h0 : State.Canonical s) :
    State.Canonical (State.fillCrumbs s cx va keys x) := by
  unfold State.fillCrumbs; grind [State.Canonical.of_eq, State.rasterWrite_canonical, foldl_canonical]

theorem State.clearTile_canonical (s : State) (id : Nat) (c : RasterCmd) (va x : Nat) (h0 : State.Canonical s) :
    (∀ y1, State.clearTile s id c va x = .ok y1 → State.Canonical y1) := by
  unfold State.clearTile; grind [State.Canonical.of_eq, MxBad.Canonical, State.clearEvent_canonical, State.fillCrumbs_canonical,
      State.rasterKeys_canonical, State.undefer_canonical]

theorem State.clearCrumb_canonical (s : State) (id : Nat) (c : RasterCmd) (va x : Nat) (h0 : State.Canonical s) :
    (∀ y1, State.clearCrumb s id c va x = .ok y1 → State.Canonical y1) := by
  unfold State.clearCrumb; grind [State.Canonical.of_eq, State.rasterKeys_canonical, State.rasterWrite_canonical]

theorem State.clearStep_canonical (s : State) (id : Nat) (c : RasterCmd) (r : Surface) (cl : Bool) (depth k : Nat)
    (h0 : State.Canonical s) :
    (∀ y1, State.clearStep s id c r cl depth k = .ok y1 → State.Canonical y1) := by
  unfold State.clearStep; grind [State.Canonical.of_eq, State.clearTile_canonical, State.clearCrumb_canonical]

theorem State.runClear_canonical (s : State) (id : Nat) (c : RasterCmd) (va : Nat) (cl dp : Bool) (depth : W32) (r : Surface)
    (k : Nat) (h0 : State.Canonical s) :
    (∀ y1, State.runClear s id c va cl dp depth r k = some y1 → State.Canonical y1) := by
  unfold State.runClear; grind [State.Canonical.of_eq, State.finishRaster_canonical, State.rasterStop_canonical,
      State.setRaster_canonical, State.clearStep_canonical]

theorem State.beginClear_canonical (s : State) (id : Nat) (c : RasterCmd) (va : Nat) (cl dp : Bool) (depth : W32)
    (h0 : State.Canonical s) :
    (∀ y1, State.beginClear s id c va cl dp depth = some y1 → State.Canonical y1) := by
  intro y hy
  unfold State.beginClear at hy
  split at hy
  · exact State.rasterStop_canonical _ _ _ _ h0 _ hy
  · exact State.refuseRun_canonical _ _ _ _ (State.readSurface_canonical _ _ _ _ h0 _ _ ‹_›) _ hy
  · have h := State.readSurface_canonical _ _ _ _ h0 _ _ ‹_›
    split at hy
    · exact State.refuseRun_canonical _ _ _ _ h _ hy
    · cases hy; exact State.setRaster_canonical _ _ _ _ h

theorem State.syncCrumb_canonical (s : State) (id : Nat) (c : RasterCmd) (r : Surface) (b k : Nat) (h0 : State.Canonical s) :
    (∀ y1, State.syncCrumb s id c r b k = .ok y1 → State.Canonical y1) := by
  unfold State.syncCrumb; grind [State.Canonical.of_eq, State.rasterKeys_canonical, State.rasterWrite_canonical]

theorem State.runSync_canonical (s : State) (id : Nat) (c : RasterCmd) (va b : Nat) (r : Surface) (count k : Nat)
    (h0 : State.Canonical s) :
    (∀ y1, State.runSync s id c va b r count k = some y1 → State.Canonical y1) := by
  unfold State.runSync; grind [State.Canonical.of_eq, State.gate_canonical, State.cleanTile_canonical, State.finishRaster_canonical,
      State.rasterStop_canonical, State.setRaster_canonical, State.syncCrumb_canonical]

theorem State.beginSync_canonical (s : State) (id : Nat) (c : RasterCmd) (va b : Nat) (h0 : State.Canonical s) :
    (∀ y1, State.beginSync s id c va b = some y1 → State.Canonical y1) := by
  intro y hy
  unfold State.beginSync at hy
  split at hy
  · split at hy
    · cases hy; exact State.finishRaster_canonical _ _ _ _ _ _ _ h0
    · exact State.refuseRun_canonical _ _ _ _ h0 _ hy
  · split at hy
    · exact State.rasterStop_canonical _ _ _ _ h0 _ hy
    · exact State.refuseRun_canonical _ _ _ _ (State.readSurface_canonical _ _ _ _ h0 _ _ ‹_›) _ hy
    · have h := State.readSurface_canonical _ _ _ _ h0 _ _ ‹_›
      split at hy
      · exact State.refuseRun_canonical _ _ _ _ h _ hy
      · cases hy; exact State.setRaster_canonical _ _ _ _ h

theorem State.dropLines_canonical (s : State) (rs : List (Nat × Nat)) (h0 : State.Canonical s) :
    State.Canonical (State.dropLines s rs) := by
  unfold State.dropLines; grind [State.Canonical.of_eq, State.dropL1_canonical]

theorem State.rawRanges_canonical (s : State) (rs : List (Nat × Nat)) (h0 : State.Canonical s) :
    State.Canonical (State.rawRanges s rs) := by
  unfold State.rawRanges; grind [State.Canonical.of_eq, State.dropLines_canonical, State.writeRaw_canonical, foldl_canonical]

theorem State.setCbit_canonical (s : State) (x : Nat × Nat × Nat) (on : Bool) (h0 : State.Canonical s) :
    State.Canonical (State.setCbit s x on) := by
  unfold State.setCbit; grind [State.Canonical.of_eq, State.writePA_canonical]

theorem State.finishResolve_canonical (s : State) (id : Nat) (c : RasterCmd) (count : Nat) (rs : List (Nat × Nat))
    (leaves : List (Nat × Nat × Nat)) (flags : List Nat) (h0 : State.Canonical s) :
    State.Canonical (State.finishResolve s id c count rs leaves flags) := by
  unfold State.finishResolve; grind [State.Canonical.of_eq, State.endOp_canonical, State.finishRaster_canonical,
      State.rasterWrite_canonical, State.rawRanges_canonical, State.setCbit_canonical, foldl_canonical]

theorem State.endResolve_canonical (s : State) (id : Nat) (c : RasterCmd) (g : Range) (unc : Bool) (count : Nat) (rs : List
    (Nat × Nat)) (h0 : State.Canonical s) :
    (∀ y1, State.endResolve s id c g unc count rs = some y1 → State.Canonical y1) := by
  unfold State.endResolve; grind [State.Canonical.of_eq, Option.map_eq_some_iff, Option.bind_eq_some_iff,
      State.drainCx_canonical, State.finishResolve_canonical, State.gate_canonical, State.invalidate_canonical,
      State.rasterKeys_canonical, State.rasterStop_canonical]

theorem State.runResolve_canonical (s : State) (id : Nat) (c : RasterCmd) (r : Surface) (unc : Bool) (reached count : Nat)
    (h0 : State.Canonical s) :
    (∀ y1, State.runResolve s id c r unc reached count = some y1 → State.Canonical y1) := by
  unfold State.runResolve; grind [State.Canonical.of_eq, State.endResolve_canonical, State.gate_canonical,
      State.rasterStop_canonical, State.rawRanges_canonical, State.setRaster_canonical]

theorem State.runRaster_canonical (s : State) (id : Nat) (c : RasterCmd) (h0 : State.Canonical s) :
    (∀ y1, State.runRaster s id c = some y1 → State.Canonical y1) := by
  unfold State.runRaster; grind [State.Canonical.of_eq, State.beginClear_canonical, State.beginSync_canonical,
      State.runClear_canonical, State.runResolve_canonical, State.runSync_canonical]

theorem execCdcTileFill_canonical (pa : Nat) (s : State) (h0 : State.Canonical s) :
    OutcomeCanonical (execCdcTileFill pa s) := by
  unfold execCdcTileFill; grind [State.Canonical.of_eq, OutcomeCanonical, Option.map_eq_some_iff, Option.bind_eq_some_iff,
      State.fillTile_canonical, State.fillTileLines_canonical, enabled_canonical]

theorem execCdcWriteback_canonical (pa : Nat) (s : State) (h0 : State.Canonical s) :
    OutcomeCanonical (execCdcWriteback pa s) := by
  unfold execCdcWriteback; grind [State.Canonical.of_eq, OutcomeCanonical, State.cleanTile_canonical, enabled_canonical]

theorem State.zeroModes_canonical (s : State) (rs : List (Nat × Nat)) (h0 : State.Canonical s) :
    State.Canonical (State.zeroModes s rs) := by
  exact Memory.wf_filter _ h0

theorem execPageCChange_canonical (cx : CtxId) (page : Nat) (setC : Bool) (s : State) (h0 : State.Canonical s) :
    OutcomeCanonical (execPageCChange cx page setC s) := by
  unfold execPageCChange; grind [State.Canonical.of_eq, OutcomeCanonical, State.drainCx_canonical, State.dropLines_canonical,
      State.invalidate_canonical, State.rawRanges_canonical, State.setCbit_canonical, State.zeroModes_canonical,
      enabled_canonical]

/-! Finish. -/

theorem State.finishOp_canonical (s : State) (id : Nat) (o : EngOp) (h0 : State.Canonical s) :
    (∀ y1, State.finishOp s id o = some y1 → State.Canonical y1) := by
  unfold State.finishOp; grind [State.Canonical.of_eq, State.finishCopy_canonical, State.finishFetch_canonical,
      State.stepSacc_canonical]

theorem execEngineOpRelease_canonical (op : Nat) (s : State) (h0 : State.Canonical s) :
    OutcomeCanonical (execEngineOpRelease op s) := by
  unfold execEngineOpRelease; grind [State.Canonical.of_eq, OutcomeCanonical, State.finishOp_canonical,
      State.runRaster_canonical, State.stepSacc_canonical, enabled_canonical]

theorem State.opTimeout_canonical (s : State) (id : Nat) (o : EngOp) (h0 : State.Canonical s) :
    (∀ y1, State.opTimeout s id o = some y1 → State.Canonical y1) := by
  unfold State.opTimeout; grind [State.Canonical.of_eq, State.postFiring_canonical, State.setOp_canonical]

theorem State.filterTimeout_canonical (s : State) (stack req : Nat) (q : FilterReq) (h0 : State.Canonical s) :
    (∀ y1, State.filterTimeout s stack req q = some y1 → State.Canonical y1) := by
  unfold State.filterTimeout; grind [State.Canonical.of_eq, State.postFiring_canonical]

theorem State.rayTimeout_canonical (s : State) (id : Nat) (r : Ray) (h0 : State.Canonical s) :
    (∀ y1, State.rayTimeout s id r = some y1 → State.Canonical y1) := by
  unfold State.rayTimeout; grind [State.Canonical.of_eq, State.errorRay_canonical]

theorem State.rasterTimeout_canonical (s : State) (die cmd : Nat) (c : RasterCmd) (h0 : State.Canonical s) :
    (∀ y1, State.rasterTimeout s die cmd c = some y1 → State.Canonical y1) := by
  unfold State.rasterTimeout; grind [State.Canonical.of_eq, State.postFiring_canonical]

theorem State.stackTimeout_canonical (s : State) (stack id : Nat) (c : StackCmd) (h0 : State.Canonical s) :
    (∀ y1, State.stackTimeout s stack id c = some y1 → State.Canonical y1) := by
  unfold State.stackTimeout; grind [State.Canonical.of_eq, State.postFiring_canonical]

theorem execCommandTimeout_canonical (cmd : CmdRef) (s : State) (h0 : State.Canonical s) :
    OutcomeCanonical (execCommandTimeout cmd s) := by
  unfold execCommandTimeout; grind [State.Canonical.of_eq, OutcomeCanonical, Option.map_eq_some_iff, Option.bind_eq_some_iff,
      State.filterTimeout_canonical, State.opTimeout_canonical, State.rasterTimeout_canonical, State.rayTimeout_canonical,
      State.stackTimeout_canonical, enabled_canonical]

theorem State.movePin_canonical (s : State) (ways crumb : Nat) (h0 : State.Canonical s) :
    State.Canonical (State.movePin s ways crumb) := by
  unfold State.movePin; grind [State.Canonical.of_eq, State.evictCrumb_canonical, foldl_canonical]

theorem State.zeroChip_canonical (s : State) (f : Nat → Nat → Bool) (h0 : State.Canonical s) :
    State.Canonical (State.zeroChip s f) := by
  exact Memory.wf_filter _ h0

theorem execWayConvert_canonical (die ways : Nat) (s : State) (h0 : State.Canonical s) :
    OutcomeCanonical (execWayConvert die ways s) := by
  unfold execWayConvert; grind [State.Canonical.of_eq, OutcomeCanonical, State.evictCrumb_canonical, State.movePin_canonical,
      State.zeroChip_canonical, enabled_canonical, foldl_canonical]

theorem State.setIsland_canonical (s : State) (island : Nat) (mode : IslandMode) (h0 : State.Canonical s) :
    State.Canonical (State.setIsland s island mode) := by
  unfold State.setIsland; grind [State.Canonical.of_eq]

theorem execIslandGate_canonical (island : Nat) (mode : IslandMode) (s : State) (h0 : State.Canonical s) :
    OutcomeCanonical (execIslandGate island mode s) := by
  unfold execIslandGate; grind [State.Canonical.of_eq, OutcomeCanonical, State.setIsland_canonical, enabled_canonical]

theorem State.lowerIslands_canonical (s : State) (l : List Nat) (h0 : State.Canonical s) :
    State.Canonical (State.lowerIslands s l) := by
  unfold State.lowerIslands; grind [State.Canonical.of_eq, State.setIsland_canonical, foldl_canonical]

theorem execThermalThrottle_canonical (die : Nat) (s : State) (h0 : State.Canonical s) :
    OutcomeCanonical (execThermalThrottle die s) := by
  unfold execThermalThrottle; grind [State.Canonical.of_eq, OutcomeCanonical, State.lowerIslands_canonical, enabled_canonical]

theorem execOvertempShutdown_canonical (s : State) (h0 : State.Canonical s) :
    OutcomeCanonical (execOvertempShutdown s) := by
  unfold execOvertempShutdown; grind [State.Canonical.of_eq, OutcomeCanonical, enabled_canonical]

theorem execPowerLimit_canonical (s : State) (h0 : State.Canonical s) :
    OutcomeCanonical (execPowerLimit s) := by
  unfold execPowerLimit; grind [State.Canonical.of_eq, OutcomeCanonical, State.lowerIslands_canonical, enabled_canonical]

theorem execVoltageFault_canonical (island : Nat) (s : State) (h0 : State.Canonical s) :
    OutcomeCanonical (execVoltageFault island s) := by
  unfold execVoltageFault; grind [State.Canonical.of_eq, OutcomeCanonical, State.postNotice_canonical,
      State.setIsland_canonical, enabled_canonical]

/-! Media. -/

theorem State.setEth_canonical (s : State) (q : Nat) (x : EthSet) (h0 : State.Canonical s) :
    State.Canonical (State.setEth s q x) := by
  unfold State.setEth; grind [State.Canonical.of_eq]

theorem State.transmit_canonical (s : State) (qset queue : Nat) (f : List Byte) (h0 : State.Canonical s) :
    State.Canonical (State.transmit s qset queue f) := by
  unfold State.transmit; grind [State.Canonical.of_eq, State.setEth_canonical]

theorem State.sendPackets_canonical (s : State) (cx : CtxId) (h : Head) (f : Frame) (size n qset : Nat) (h0 : State.Canonical s) :
    State.Canonical (State.sendPackets s cx h f size n qset) := by
  unfold State.sendPackets; grind [State.Canonical.of_eq, State.transmit_canonical, foldl_canonical]

theorem State.endFrame_canonical (s : State) (head : Nat) (h0 : State.Canonical s) :
    State.Canonical (State.endFrame s head) := by
  unfold State.endFrame; grind [State.Canonical.of_eq, State.sendPackets_canonical, State.updHead_canonical]

theorem State.mediaTouch_canonical (s : State) (cx : CtxId) (va n : Nat) (h0 : State.Canonical s) :
    State.Canonical (State.mediaTouch s cx va n) := by
  unfold State.mediaTouch; grind [State.Canonical.of_eq, State.touch_canonical]

theorem State.readCrumb_canonical (s : State) (head : Nat) (cx : CtxId) (h0 : State.Canonical s) :
    (∀ y1, State.readCrumb s head cx = some y1 → State.Canonical y1) := by
  unfold State.readCrumb; grind [State.Canonical.of_eq, Option.map_eq_some_iff, Option.bind_eq_some_iff, State.gate_canonical,
      State.mediaTouch_canonical, State.updHead_canonical]

theorem State.sendFrameOf_canonical (s : State) (head : Nat) (cx : CtxId) (f : Frame) (rest : List Frame) (h0 : State.Canonical s) :
    (∀ y1, State.sendFrameOf s head cx f rest = some y1 → State.Canonical y1) := by
  unfold State.sendFrameOf; grind [State.Canonical.of_eq, Option.map_eq_some_iff, Option.bind_eq_some_iff,
      State.gate_canonical, State.sendPackets_canonical, State.updHead_canonical]

theorem execEncodeFrameSend_canonical (head : Nat) (s : State) (h0 : State.Canonical s) :
    OutcomeCanonical (execEncodeFrameSend head s) := by
  unfold execEncodeFrameSend; grind [State.Canonical.of_eq, OutcomeCanonical, State.readCrumb_canonical,
      State.sendFrameOf_canonical, enabled_canonical]

theorem State.disableHead_canonical (s : State) (head : Nat) (c : W64) (h0 : State.Canonical s) :
    State.Canonical (State.disableHead s head c) := by
  unfold State.disableHead; grind [State.Canonical.of_eq, State.endFrame_canonical, State.updHead_canonical]

theorem State.restartPeriod_canonical (s : State) (head : Nat) (h0 : State.Canonical s) :
    State.Canonical (State.restartPeriod s head) := by
  unfold State.restartPeriod; grind [State.Canonical.of_eq, Option.map_eq_some_iff, Option.bind_eq_some_iff]

theorem State.writeHdcfg_canonical (s : State) (head : Nat) (value : W64) (h0 : State.Canonical s) :
    State.Canonical ((State.writeHdcfg s head value).2) := by
  unfold State.writeHdcfg; grind [State.Canonical.of_eq, State.disableHead_canonical, State.restartPeriod_canonical,
      State.updHead_canonical]

theorem execHdcfgWrite_canonical (head : Nat) (value : W64) (s : State) (h0 : State.Canonical s) :
    OutcomeCanonical (execHdcfgWrite head value s) := by
  unfold execHdcfgWrite; grind [State.Canonical.of_eq, OutcomeCanonical, State.writeHdcfg_canonical, enabled_canonical]

theorem State.missAt_canonical (s : State) (head : Nat) (h0 : State.Canonical s) :
    State.Canonical (State.missAt s head) := by
  unfold State.missAt; grind [State.Canonical.of_eq, Option.map_eq_some_iff, Option.bind_eq_some_iff]

theorem State.scanTouch_canonical (s : State) (cx : CtxId) (h : Head) (h0 : State.Canonical s) :
    State.Canonical (State.scanTouch s cx h) := by
  unfold State.scanTouch; grind [State.Canonical.of_eq, State.mediaTouch_canonical]

theorem execScanOutStart_canonical (head : Nat) (s : State) (h0 : State.Canonical s) :
    OutcomeCanonical (execScanOutStart head s) := by
  unfold execScanOutStart; grind [State.Canonical.of_eq, OutcomeCanonical, State.gate_canonical, State.scanTouch_canonical,
      State.readCrumb_canonical, State.missAt_canonical, State.updHead_canonical, enabled_canonical]

end Sys2Proof.Machine
end

