-- ==== Sys2Proof/Laws/Canonical/Outside.lean ====
section
/-! SUPPORT. Memory keeps its canonical form: every operation of reset, links, media, mailboxes and tenants. -/

namespace Sys2Proof.Machine

open Sys2Proof Host

/-! Reset. -/

theorem State.abortQueue_canonical (s : State) (cx : CtxId) (q : Nat) (qu : Queue) (h0 : State.Canonical s) :
    State.Canonical (State.abortQueue s cx q qu) := by
  unfold State.abortQueue
  split
  · exact State.setQueue_canonical _ _ _ _ h0
  · simp only
    have h := State.setQueue_canonical s cx q { qu with notes := [], fault := none, todo := none } h0
    split
    · exact h
    · refine foldl_canonical _ (fun s x h => State.launchRecord_canonical _ _ _ _ _ _ h) _ _ ?_
      exact State.setQ32_canonical _ _ _ _ (State.setFstat_canonical _ _ _ (State.setQ32_canonical _ _ _ _
        (State.headTouched_canonical _ _ _ _ h)))

theorem State.abortQueues_canonical (s : State) (cx : CtxId) (h0 : State.Canonical s) :
    State.Canonical (State.abortQueues s cx) := by
  unfold State.abortQueues; grind [State.Canonical.of_eq, State.abortQueue_canonical, foldl_canonical]

theorem State.killTeam_canonical (s : State) (core slot : Nat) (t : Team) (h0 : State.Canonical s) :
    State.Canonical (State.killTeam s core slot t) := by
  unfold State.killTeam; grind [State.Canonical.of_eq, State.dropFilters_canonical, State.dropRays_canonical,
      State.mxRelease_canonical, State.setCore_canonical]

theorem State.killGangs_canonical (s : State) (cx : CtxId) (h0 : State.Canonical s) :
    State.Canonical (State.killGangs s cx) := by
  unfold State.killGangs; grind [State.Canonical.of_eq, Issue.Canonical, CtlIssue.Canonical, State.dropGang_canonical,
      State.killTeam_canonical, State.launchRecord_canonical, foldl_canonical]

theorem State.killCtls_canonical (s : State) (cx : CtxId) (h0 : State.Canonical s) :
    State.Canonical (State.killCtls s cx) := by
  unfold State.killCtls; grind [State.Canonical.of_eq, State.freeCtl_canonical, State.setCore_canonical, foldl_canonical]

theorem State.scribbleVa_canonical (s : State) (cx : CtxId) (va n : Nat) (h0 : State.Canonical s) :
    State.Canonical (State.scribbleVa s cx va n) := by
  unfold State.scribbleVa; grind [State.Canonical.of_eq, State.scribble_canonical]

theorem State.abortWrites_canonical (s : State) (o : EngOp) (h0 : State.Canonical s) :
    State.Canonical (State.abortWrites s o) := by
  unfold State.abortWrites; grind [State.Canonical.of_eq, State.scribble_canonical, State.scribbleVa_canonical, foldl_canonical]

theorem State.abortRecord_canonical (s : State) (core : Nat) (cx : CtxId) (tag : W64) (src unit : Nat) (h0 : State.Canonical s) :
    State.Canonical (State.abortRecord s core cx tag src unit) := by
  unfold State.abortRecord; grind [State.Canonical.of_eq, State.postEvent_canonical]

theorem State.abortOps_canonical (s : State) (cx : CtxId) (h0 : State.Canonical s) :
    State.Canonical (State.abortOps s cx) := by
  unfold State.abortOps; grind [State.Canonical.of_eq, State.abortOp_canonical, State.abortRecord_canonical,
      State.abortWrites_canonical, State.dropFills_canonical, foldl_canonical]

theorem State.abortCommands_canonical (s : State) (cx : CtxId) (h0 : State.Canonical s) :
    State.Canonical (State.abortCommands s cx) := by
  unfold State.abortCommands; grind [State.Canonical.of_eq, Option.map_eq_some_iff, Option.bind_eq_some_iff,
      State.abortRecord_canonical, foldl_canonical]

theorem State.endSessions_canonical (s : State) (cx : CtxId) (h0 : State.Canonical s) :
    State.Canonical (State.endSessions s cx) := by
  unfold State.endSessions; grind [State.Canonical.of_eq, State.leaveBank_canonical, State.serveOne_canonical, foldl_canonical]

theorem State.dropDeferred_canonical (s : State) (cx : CtxId) (h0 : State.Canonical s) :
    State.Canonical (State.dropDeferred s cx) := by
  unfold State.dropDeferred; grind [State.Canonical.of_eq, Option.map_eq_some_iff, Option.bind_eq_some_iff]

theorem State.dropHeld_canonical (s : State) (cx : CtxId) (h0 : State.Canonical s) :
    State.Canonical (State.dropHeld s cx) := by
  unfold State.dropHeld; grind [State.Canonical.of_eq, Option.map_eq_some_iff, Option.bind_eq_some_iff, State.dropTlb_canonical,
      State.endFrame_canonical, State.setCtx_canonical, foldl_canonical]

theorem State.resetContext_canonical (s : State) (cx : CtxId) (h0 : State.Canonical s) :
    (∀ y1, State.resetContext s cx = some y1 → State.Canonical y1) := by
  unfold State.resetContext; grind [State.Canonical.of_eq, State.abortCommands_canonical, State.abortOps_canonical,
      State.abortQueues_canonical, State.drainCx_canonical, State.dropDeferred_canonical, State.dropHeld_canonical,
      State.endSessions_canonical, State.killCtls_canonical, State.killGangs_canonical, State.postNotice_canonical,
      State.stackRunAll_canonical]

theorem execContextReset_canonical (cx : CtxId) (s : State) (h0 : State.Canonical s) :
    OutcomeCanonical (execContextReset cx s) := by
  unfold execContextReset; grind [State.Canonical.of_eq, OutcomeCanonical, State.resetContext_canonical, enabled_canonical]

theorem State.resetAll_canonical (s : State) (a1 : List CtxId) (h0 : State.Canonical s) :
    (∀ y2, State.resetAll s a1 = some y2 → State.Canonical y2) := by
  fun_induction State.resetAll s a1 <;> grind [State.Canonical.of_eq, Option.map_eq_some_iff, Option.bind_eq_some_iff,
      State.resetContext_canonical]

theorem execVfFlr_canonical (vf : Nat) (s : State) (h0 : State.Canonical s) :
    OutcomeCanonical (execVfFlr vf s) := by
  unfold execVfFlr
  apply enabled_canonical
  · exact h0
  intro y hy
  split at hy
  · cases hy
  · refine State.resetAll_canonical _ _ ?_ _ hy; exact h0.of_eq rfl

theorem execEccError_canonical (cx : CtxId) (corrected : Bool) (s : State) (h0 : State.Canonical s) :
    OutcomeCanonical (execEccError cx corrected s) := by
  unfold execEccError; grind [State.Canonical.of_eq, OutcomeCanonical, Option.map_eq_some_iff, Option.bind_eq_some_iff,
      State.postNotice_canonical, State.resetContext_canonical, State.setCtx_canonical, enabled_canonical]

theorem State.bringUp_canonical (s : State) (h0 : State.Canonical s) :
    State.Canonical (State.bringUp s) := by
  exact State.reset_canonical

theorem execPowerGood_canonical (digestOk : Bool) (s : State) (h0 : State.Canonical s) :
    OutcomeCanonical (execPowerGood digestOk s) := by
  unfold execPowerGood; grind [State.Canonical.of_eq, OutcomeCanonical, State.bringUp_canonical, enabled_canonical]

theorem execPfReset_canonical (s : State) (h0 : State.Canonical s) :
    OutcomeCanonical (execPfReset s) := by
  unfold execPfReset; grind [State.Canonical.of_eq, OutcomeCanonical, State.bringUp_canonical, enabled_canonical]

/-! Links. -/

theorem State.remoteError_canonical (s : State) (cx : CtxId) (h0 : State.Canonical s) :
    State.Canonical (State.remoteError s cx) := by
  unfold State.remoteError; grind [State.Canonical.of_eq]

theorem State.walkedPeer_canonical (s : State) (cx : CtxId) (va : Nat) (h0 : State.Canonical s) :
    State.Canonical (State.walkedPeer s cx va) := by
  unfold State.walkedPeer; grind [State.Canonical.of_eq, State.walkedDie_canonical]

theorem State.applyWrite_canonical (s : State) (cx : CtxId) (va : Nat) (data : List Byte) (h0 : State.Canonical s) :
    State.Canonical (State.applyWrite s cx va data) := by
  unfold State.applyWrite; grind [State.Canonical.of_eq, State.engineWrite_canonical, State.remoteError_canonical,
      State.walkedPeer_canonical]

theorem State.applyRead_canonical (s : State) (cx : CtxId) (va n : Nat) (h0 : State.Canonical s) :
    State.Canonical ((State.applyRead s cx va n).2) := by
  unfold State.applyRead; grind [State.Canonical.of_eq, Option.map_eq_some_iff, Option.bind_eq_some_iff, State.touch_canonical,
      State.walkedPeer_canonical]

theorem State.acked_canonical (s : State) (who : OwnerRef) (h0 : State.Canonical s) :
    State.Canonical (State.acked s who) := by
  unfold State.acked; grind [State.Canonical.of_eq, State.onCtl_canonical, State.updTeamRef_canonical]

theorem State.deliverReply_canonical (s : State) (who : OwnerRef) (id peer data : Nat) (h0 : State.Canonical s) :
    (∀ y1, State.deliverReply s who id peer data = some y1 → State.Canonical y1) := by
  unfold State.deliverReply; grind [State.Canonical.of_eq, State.drainCtl_canonical, State.onCtl_canonical,
      State.performTo_canonical, State.updTeam_canonical]

theorem State.takeAck_canonical (s : State) (peer ack : Nat) (h0 : State.Canonical s) :
    State.Canonical (State.takeAck s peer ack) := by
  unfold State.takeAck; grind [State.Canonical.of_eq, State.acked_canonical, State.setStream_canonical, foldl_canonical]

theorem State.gateFrame_canonical (s : State) (frame : FkFrame) (f : State → Option State) (h0 : State.Canonical s) (h1 : (∀ x1,
    State.Canonical x1 → (∀ y2, f x1 = some y2 → State.Canonical y2))) :
    (∀ y3, State.gateFrame s frame f = some y3 → State.Canonical y3) := by
  unfold State.gateFrame; grind [State.Canonical.of_eq, State.gate_canonical]

theorem State.receive_canonical (s : State) (f : FkFrame) (body : State → Option State) (h0 : State.Canonical s) (h1 : (∀ x1,
    State.Canonical x1 → (∀ y2, body x1 = some y2 → State.Canonical y2))) :
    (∀ y3, State.receive s f body = some y3 → State.Canonical y3) := by
  unfold State.receive; grind [State.Canonical.of_eq, Option.map_eq_some_iff, Option.bind_eq_some_iff,
      State.gateFrame_canonical, State.setStream_canonical, State.takeAck_canonical]

theorem State.applyWrites_canonical (s : State) (cx : CtxId) (a1 : List FkItem) (h0 : State.Canonical s) :
    (∀ y2, State.applyWrites s cx a1 = some y2 → State.Canonical y2) := by
  fun_induction State.applyWrites s cx a1 <;> grind [State.Canonical.of_eq, Option.map_eq_some_iff, Option.bind_eq_some_iff,
      State.applyWrite_canonical]

theorem State.applyReads_canonical (s : State) (cx : CtxId) (a1 : List FkItem) (h0 : State.Canonical s) :
    (∀ y2 y3, State.applyReads s cx a1 = some (y2, y3) → State.Canonical y3) := by
  fun_induction State.applyReads s cx a1 <;> grind [State.Canonical.of_eq, Option.map_eq_some_iff, Option.bind_eq_some_iff,
      State.applyRead_canonical]

theorem State.applyReplies_canonical (s : State) (peer : Nat) (a1 : List FkItem) (h0 : State.Canonical s) :
    (∀ y2, State.applyReplies s peer a1 = some y2 → State.Canonical y2) := by
  fun_induction State.applyReplies s peer a1 <;> grind [State.Canonical.of_eq, Option.map_eq_some_iff, Option.bind_eq_some_iff,
      State.deliverReply_canonical, State.setStream_canonical]

theorem execFakalvoWrite_canonical (frame : FkFrame) (s : State) (h0 : State.Canonical s) :
    OutcomeCanonical (execFakalvoWrite frame s) := by
  unfold execFakalvoWrite; grind [State.Canonical.of_eq, OutcomeCanonical, State.applyWrites_canonical, State.receive_canonical,
      enabled_canonical]

theorem execFakalvoRead_canonical (frame : FkFrame) (s : State) (h0 : State.Canonical s) :
    OutcomeCanonical (execFakalvoRead frame s) := by
  unfold execFakalvoRead; grind [State.Canonical.of_eq, OutcomeCanonical, Option.map_eq_some_iff, Option.bind_eq_some_iff,
      State.applyReads_canonical, State.receive_canonical, State.sendFrame_canonical, enabled_canonical]

theorem execFakalvoReadresp_canonical (frame : FkFrame) (s : State) (h0 : State.Canonical s) :
    OutcomeCanonical (execFakalvoReadresp frame s) := by
  unfold execFakalvoReadresp; grind [State.Canonical.of_eq, OutcomeCanonical, State.applyReplies_canonical,
      State.receive_canonical, enabled_canonical]

theorem execFakalvoAck_canonical (frame : FkFrame) (s : State) (h0 : State.Canonical s) :
    OutcomeCanonical (execFakalvoAck frame s) := by
  unfold execFakalvoAck; grind [State.Canonical.of_eq, OutcomeCanonical, Option.map_eq_some_iff, Option.bind_eq_some_iff,
      State.takeAck_canonical, enabled_canonical]

theorem execFakalvoMarker_canonical (frame : FkFrame) (s : State) (h0 : State.Canonical s) :
    OutcomeCanonical (execFakalvoMarker frame s) := by
  unfold execFakalvoMarker; grind [State.Canonical.of_eq, OutcomeCanonical, State.receive_canonical, State.setStream_canonical,
      enabled_canonical]

theorem execFakalvoRetransmit_canonical (peer : Nat) (s : State) (h0 : State.Canonical s) :
    OutcomeCanonical (execFakalvoRetransmit peer s) := by
  unfold execFakalvoRetransmit; grind [State.Canonical.of_eq, OutcomeCanonical, Option.map_eq_some_iff, Option.bind_eq_some_iff,
      enabled_canonical]

theorem execRemoteApply_canonical (peer : Nat) (cx : CtxId) (item : FkItem) (s : State) (h0 : State.Canonical s) :
    OutcomeCanonical (execRemoteApply peer cx item s) := by
  unfold execRemoteApply; grind [State.Canonical.of_eq, OutcomeCanonical, Option.map_eq_some_iff, Option.bind_eq_some_iff,
      State.applyRead_canonical, State.applyWrite_canonical, State.gate_canonical, State.sendFrame_canonical, enabled_canonical]

theorem execWindowAdvance_canonical (s : State) (h0 : State.Canonical s) :
    OutcomeCanonical (execWindowAdvance s) := by
  unfold execWindowAdvance; grind [State.Canonical.of_eq, OutcomeCanonical, State.sendFrame_canonical, enabled_canonical,
      foldl_canonical]

theorem State.releaseWinw_canonical (s : State) (h0 : State.Canonical s) :
    State.Canonical (State.releaseWinw s) := by
  unfold State.releaseWinw; grind [State.Canonical.of_eq, Option.map_eq_some_iff, Option.bind_eq_some_iff]

theorem State.failReads_canonical (s : State) (peer : Nat) (a1 : List (OwnerRef × Nat)) (h0 : State.Canonical s) :
    (∀ y2, State.failReads s peer a1 = some y2 → State.Canonical y2) := by
  fun_induction State.failReads s peer a1 <;> grind [State.Canonical.of_eq, Option.map_eq_some_iff, Option.bind_eq_some_iff,
      State.deliverReply_canonical]

theorem execPeerLost_canonical (peer : Nat) (s : State) (h0 : State.Canonical s) :
    OutcomeCanonical (execPeerLost peer s) := by
  unfold execPeerLost
  apply enabled_canonical
  · exact h0
  intro y hy
  obtain ⟨st, _, hy⟩ := Option.bind_eq_some_iff.1 hy
  simp only at hy
  split at hy
  · cases hy
  · obtain ⟨t, ht, rfl⟩ := Option.map_eq_some_iff.1 hy
    have h := State.failReads_canonical _ _ _ (State.setStream_canonical s peer { st with lost := true, reads := [] } h0) _ ht
    refine foldl_canonical _ (fun s x h => State.postNotice_canonical _ _ _ _ h) _ _ ?_
    exact foldl_canonical _ (fun s x h => State.postEvent_canonical _ _ _ _ h) _ _ (State.releaseWinw_canonical _ h)

theorem execPtpMessage_canonical (port : Nat) (offset : Option Int) (s : State) (h0 : State.Canonical s) :
    OutcomeCanonical (execPtpMessage port offset s) := by
  unfold execPtpMessage; grind [State.Canonical.of_eq, OutcomeCanonical, enabled_canonical]

theorem execEthernetFrame_canonical (qset queue : Nat) (rx : Option (List Byte)) (s : State) (h0 : State.Canonical s) :
    OutcomeCanonical (execEthernetFrame qset queue rx s) := by
  unfold execEthernetFrame; grind [State.Canonical.of_eq, OutcomeCanonical, State.setEth_canonical, enabled_canonical]

/-! Registers. -/

theorem State.writeTeamReg_canonical (s : State) (core slot : Nat) (reg : TeamReg) (x : Nat) (h0 : State.Canonical s) :
    (∀ y1, State.writeTeamReg s core slot reg x = some y1 → State.Canonical y1) := by
  unfold State.writeTeamReg; grind [State.Canonical.of_eq, Option.map_eq_some_iff, Option.bind_eq_some_iff, State.setTeam_canonical]

theorem State.setPool_canonical (s : State) (n : Nat) (h0 : State.Canonical s) :
    (∀ y1, State.setPool s n = some y1 → State.Canonical y1) := by
  intro y hy
  unfold State.setPool at hy
  simp only at hy
  repeat' split at hy
  all_goals first | (cases hy; done) | cases hy
  exact State.Canonical.of_eq (foldl_canonical _ (fun s x h => State.movePin_canonical _ _ _ h) _ _
    (foldl_canonical _ (fun s x h => State.evictCrumb_canonical _ _ h) _ _ h0)) rfl

theorem State.setPeer_canonical (s : State) (index : Nat) (inGroup : Bool) (h0 : State.Canonical s) :
    (∀ y1, State.setPeer s index inGroup = some y1 → State.Canonical y1) := by
  unfold State.setPeer; grind [State.Canonical.of_eq, State.setStream_canonical]

theorem State.writeReg_canonical (s : State) (reg : RegRef) (value : W64) (h0 : State.Canonical s) :
    State.Canonical (State.writeReg s reg value) := by
  unfold State.writeReg; grind [State.Canonical.of_eq, State.onCtl_canonical, State.setArb_canonical, State.updHead_canonical]

theorem State.writeAny_canonical (s : State) (reg : RegRef) (value : W64) (h0 : State.Canonical s) :
    (∀ y1, State.writeAny s reg value = some y1 → State.Canonical y1) := by
  unfold State.writeAny; grind [State.Canonical.of_eq, State.setPeer_canonical, State.setPool_canonical,
      State.writeReg_canonical, State.writeTeamReg_canonical]

theorem execRegisterWrite_canonical (reg : RegRef) (value : W64) (s : State) (h0 : State.Canonical s) :
    OutcomeCanonical (execRegisterWrite reg value s) := by
  unfold execRegisterWrite; grind [State.Canonical.of_eq, OutcomeCanonical, State.writeAny_canonical, enabled_canonical]

/-! Mailbox. -/

/-- What comes of a request is canonical. -/
def Asked.Canonical (r : Asked) : Prop :=
  match r with
  | .reply r => r.st.Canonical
  | .deferred s => s.Canonical

theorem State.respond_canonical (s : State) (fn tag status : Nat) (results : List Nat) (h0 : State.Canonical s) :
    State.Canonical (State.respond s fn tag status results) := by
  unfold State.respond; grind [State.Canonical.of_eq]

theorem State.done_canonical (s : State) (h0 : State.Canonical s) :
    State.Canonical (State.done s).st := by
  unfold State.done; grind [State.Canonical.of_eq]

theorem State.refuse_canonical (s : State) (h0 : State.Canonical s) :
    State.Canonical (State.refuse s).st := by
  unfold State.refuse; grind [State.Canonical.of_eq]

theorem Asked.answer_canonical (x : Asked) (fn tag : Nat) (h0 : Asked.Canonical (x)) :
    State.Canonical (Asked.answer x fn tag) := by
  unfold Asked.answer; grind [State.Canonical.of_eq, Asked.Canonical, State.respond_canonical]

theorem State.askChans_canonical (s : State) (fn : Nat) (chans : List Nat) (f : State → Asked) (h0 : State.Canonical s) (h1 :
    (∀ x1, State.Canonical x1 → Asked.Canonical (f x1))) :
    (∀ y2, State.askChans s fn chans f = some y2 → Asked.Canonical (y2)) := by
  unfold State.askChans; grind [State.Canonical.of_eq, Asked.Canonical, Option.map_eq_some_iff, Option.bind_eq_some_iff,
      State.deferAs_canonical, State.undefer_canonical, State.deferAs_getD_canonical]

theorem vfAsk_canonical (fn tag : Nat) (s : State) (run : Nat → Option Asked) (h0 : State.Canonical s) (h1 : (∀ x1, (∀ y2,
    run x1 = some y2 → Asked.Canonical (y2)))) :
    OutcomeCanonical (vfAsk fn tag s run) := by
  unfold vfAsk; grind [State.Canonical.of_eq, Asked.Canonical, OutcomeCanonical, Option.map_eq_some_iff,
      Option.bind_eq_some_iff, Asked.answer_canonical, State.respond_canonical, enabled_canonical]

theorem vfCommand_canonical (fn tag : Nat) (s : State) (run : Nat → Option Asked) (h0 : State.Canonical s) (h1 : (∀ x1, (∀ y2,
    run x1 = some y2 → Asked.Canonical (y2)))) :
    OutcomeCanonical (vfCommand fn tag s run) := by
  unfold vfCommand; grind [State.Canonical.of_eq, Asked.Canonical, OutcomeCanonical, vfAsk_canonical]

theorem vfPlain_canonical (fn tag : Nat) (s : State) (run : Nat → Option Reply) (h0 : State.Canonical s) (h1 : (∀ x1, (∀ y2,
    run x1 = some y2 → State.Canonical y2.st))) :
    OutcomeCanonical (vfPlain fn tag s run) := by
  unfold vfPlain; grind [State.Canonical.of_eq, Asked.Canonical, OutcomeCanonical, Option.map_eq_some_iff,
      Option.bind_eq_some_iff, vfCommand_canonical]

theorem pfAsk_canonical (fn tag : Nat) (s : State) (run : Option Asked) (h0 : State.Canonical s) (h1 : (∀ y1, run = some y1 →
    Asked.Canonical (y1))) :
    OutcomeCanonical (pfAsk fn tag s run) := by
  unfold pfAsk; grind [State.Canonical.of_eq, Asked.Canonical, OutcomeCanonical, Option.map_eq_some_iff,
      Option.bind_eq_some_iff, Asked.answer_canonical, State.respond_canonical, enabled_canonical]

theorem pfCommand_canonical (fn tag : Nat) (s : State) (run : Option Reply) (h0 : State.Canonical s) (h1 : (∀ y1,
    run = some y1 → State.Canonical y1.st)) :
    OutcomeCanonical (pfCommand fn tag s run) := by
  unfold pfCommand; grind [State.Canonical.of_eq, Asked.Canonical, OutcomeCanonical, Option.map_eq_some_iff,
      Option.bind_eq_some_iff, pfAsk_canonical]

theorem State.queueRequest_canonical (s : State) (fn vd : Nat) (cx : CtxId) (q : Nat) (f : State → List Nat → Reply)
    (h0 : State.Canonical s) (h1 : (∀ x1 x2, State.Canonical x1 → State.Canonical (f x1 x2).st)) :
    (∀ y3, State.queueRequest s fn vd cx q f = some y3 → Asked.Canonical (y3)) := by
  unfold State.queueRequest; grind [State.Canonical.of_eq, Asked.Canonical, State.askChans_canonical,
      State.headTouched_canonical, State.refuse_canonical, State.setQueue_canonical]

theorem execProd_canonical (fn tag : Nat) (cx : CtxId) (queue value : Nat) (s : State) (h0 : State.Canonical s) :
    OutcomeCanonical (execProd fn tag cx queue value s) := by
  unfold execProd; grind [State.Canonical.of_eq, Asked.Canonical, OutcomeCanonical, State.done_canonical,
      State.queueRequest_canonical, State.refuse_canonical, State.setQ32_canonical, vfCommand_canonical]

theorem execFclr_canonical (fn tag : Nat) (cx : CtxId) (queue : Nat) (s : State) (h0 : State.Canonical s) :
    OutcomeCanonical (execFclr fn tag cx queue s) := by
  unfold execFclr; grind [State.Canonical.of_eq, Asked.Canonical, OutcomeCanonical, State.done_canonical,
      State.queueRequest_canonical, State.setFstat_canonical, vfCommand_canonical]

theorem execCtlstart_canonical (fn tag : Nat) (cx : CtxId) (core entry arg : Nat) (s : State) (h0 : State.Canonical s) :
    OutcomeCanonical (execCtlstart fn tag cx core entry arg s) := by
  unfold execCtlstart; grind [State.Canonical.of_eq, OutcomeCanonical, State.done_canonical, State.refuse_canonical,
      State.startCtl_canonical, vfPlain_canonical]

theorem execCtlstop_canonical (fn tag core : Nat) (s : State) (h0 : State.Canonical s) :
    OutcomeCanonical (execCtlstop fn tag core s) := by
  unfold execCtlstop; grind [State.Canonical.of_eq, OutcomeCanonical, State.done_canonical, State.freeCtl_canonical,
      State.refuse_canonical, vfPlain_canonical]

theorem State.cleanRange_canonical (s : State) (base n : Nat) (h0 : State.Canonical s) :
    State.Canonical (State.cleanRange s base n) := by
  unfold State.cleanRange; grind [State.Canonical.of_eq, Option.map_eq_some_iff, Option.bind_eq_some_iff]

theorem State.setEbit_canonical (s : State) (cx : CtxId) (on : Bool) (va : Nat) (h0 : State.Canonical s) :
    State.Canonical (State.setEbit s cx on va) := by
  unfold State.setEbit; grind [State.Canonical.of_eq, State.cleanRange_canonical, State.writePA_canonical]

theorem execWinopen_canonical (fn tag : Nat) (cx : CtxId) (base len stack : Nat) (bank : Bool) (s : State)
    (h0 : State.Canonical s) :
    OutcomeCanonical (execWinopen fn tag cx base len stack bank s) := by
  unfold execWinopen; grind [State.Canonical.of_eq, OutcomeCanonical, State.done_canonical, State.refuse_canonical,
      State.setCtx_canonical, State.setEbit_canonical, vfPlain_canonical, foldl_canonical]

theorem execWinclose_canonical (fn tag : Nat) (cx : CtxId) (base : Nat) (s : State) (h0 : State.Canonical s) :
    OutcomeCanonical (execWinclose fn tag cx base s) := by
  unfold execWinclose; grind [State.Canonical.of_eq, OutcomeCanonical, State.done_canonical, State.refuse_canonical,
      State.setCtx_canonical, State.setEbit_canonical, vfPlain_canonical, foldl_canonical]

theorem State.stage_canonical (s : State) (fn at' : Nat) (bs : List Byte) (h0 : State.Canonical s) :
    State.Canonical (State.stage s fn at' bs) := by
  unfold State.stage; grind [State.Canonical.of_eq]

theorem State.setRun_canonical (s : State) (fn : Nat) (x : Option Transfer) (h0 : State.Canonical s) :
    State.Canonical (State.setRun s fn x) := by
  unfold State.setRun; grind [State.Canonical.of_eq]

theorem State.moveBytes_canonical (s : State) (fn : Nat) (x : Transfer) (keys : List Nat) (h0 : State.Canonical s) :
    State.Canonical (State.moveBytes s fn x keys) := by
  unfold State.moveBytes; grind [State.Canonical.of_eq, State.walkedPeer_canonical, State.engineWrite_canonical,
      State.touch_canonical, State.stage_canonical]

theorem State.moveCrumb_canonical (s : State) (fn vd : Nat) (x : Transfer) (h0 : State.Canonical s) :
    (∀ y1, State.moveCrumb s fn vd x = some y1 → Asked.Canonical (y1)) := by
  unfold State.moveCrumb; grind [State.Canonical.of_eq, Asked.Canonical, State.askChans_canonical, State.setRun_canonical,
      State.refuse_canonical, State.done_canonical, State.moveBytes_canonical]

theorem State.transfer_canonical (s : State) (fn vd : Nat) (x : Transfer) (data : List Byte) (h0 : State.Canonical s) :
    (∀ y1, State.transfer s fn vd x data = some y1 → Asked.Canonical (y1)) := by
  unfold State.transfer; grind [State.Canonical.of_eq, Asked.Canonical, State.moveCrumb_canonical, State.stage_canonical,
      State.setRun_canonical, State.refuse_canonical, State.done_canonical]

theorem execMemwr_canonical (fn tag : Nat) (cx : CtxId) (va : Nat) (data : List Byte) (s : State) (h0 : State.Canonical s) :
    OutcomeCanonical (execMemwr fn tag cx va data s) := by
  unfold execMemwr; grind [State.Canonical.of_eq, Asked.Canonical, OutcomeCanonical, State.transfer_canonical, vfAsk_canonical]

theorem execMemrd_canonical (fn tag : Nat) (cx : CtxId) (va len : Nat) (s : State) (h0 : State.Canonical s) :
    OutcomeCanonical (execMemrd fn tag cx va len s) := by
  unfold execMemrd; grind [State.Canonical.of_eq, Asked.Canonical, OutcomeCanonical, State.transfer_canonical, vfAsk_canonical]

theorem anyCommand_canonical (fn tag : Nat) (s : State) (r : Reply) (h0 : State.Canonical s) (h1 : State.Canonical r.st) :
    OutcomeCanonical (anyCommand fn tag s r) := by
  unfold anyCommand; grind [State.Canonical.of_eq, OutcomeCanonical, State.respond_canonical, enabled_canonical]

theorem execGetnote_canonical (fn tag : Nat) (s : State) (h0 : State.Canonical s) :
    OutcomeCanonical (execGetnote fn tag s) := by
  unfold execGetnote; grind [State.Canonical.of_eq, OutcomeCanonical, State.refuse_canonical, anyCommand_canonical]

theorem execMonitor_canonical (fn tag island : Nat) (s : State) (h0 : State.Canonical s) :
    OutcomeCanonical (execMonitor fn tag island s) := by
  unfold execMonitor; grind [State.Canonical.of_eq, OutcomeCanonical, State.refuse_canonical, anyCommand_canonical]

theorem State.writeHead_canonical (s : State) (head : Nat) (reg : HeadReg) (value : W64) (h0 : State.Canonical s) :
    State.Canonical ((State.writeHead s head reg value).2) := by
  unfold State.writeHead; grind [State.Canonical.of_eq, State.writeHdcfg_canonical, State.writeReg_canonical]

theorem execHeadcfg_canonical (fn tag head : Nat) (reg : HeadReg) (value : W64) (s : State) (h0 : State.Canonical s) :
    OutcomeCanonical (execHeadcfg fn tag head reg value s) := by
  unfold execHeadcfg; grind [State.Canonical.of_eq, OutcomeCanonical, State.done_canonical, State.refuse_canonical,
      State.writeHead_canonical, vfPlain_canonical]

/-! Debug. -/

theorem State.debugCtl_canonical (s : State) (core : Nat) (f : Ctl → Option Ctl) (h0 : State.Canonical s) :
    State.Canonical (State.debugCtl s core f).st := by
  unfold State.debugCtl; grind [State.Canonical.of_eq, State.done_canonical, State.refuse_canonical, State.setCtl_canonical]

theorem execDebugStop_canonical (fn tag : Nat) (who : Agent) (s : State) (h0 : State.Canonical s) :
    OutcomeCanonical (execDebugStop fn tag who s) := by
  unfold execDebugStop; grind [State.Canonical.of_eq, OutcomeCanonical, State.debugCtl_canonical, State.done_canonical,
      State.refuse_canonical, State.setTeam_canonical, pfCommand_canonical]

theorem State.resumeGang_canonical (s : State) (gang : Nat) (h0 : State.Canonical s) :
    State.Canonical (State.resumeGang s gang) := by
  unfold State.resumeGang; grind [State.Canonical.of_eq, Option.map_eq_some_iff, Option.bind_eq_some_iff, State.setGang_canonical]

theorem State.debugGo_canonical (s : State) (core slot : Nat) (t : Team) (entry : Option (Nat × Nat)) (h0 : State.Canonical s) :
    State.Canonical (State.debugGo s core slot t entry) := by
  unfold State.debugGo; grind [State.Canonical.of_eq, State.resumeGang_canonical, State.setTeam_canonical, State.updTeam_canonical]

theorem State.restartCtl_canonical (s : State) (core entry arg : Nat) (h0 : State.Canonical s) :
    (∀ y1, State.restartCtl s core entry arg = some y1 → State.Canonical y1.st) := by
  unfold State.restartCtl; grind [State.Canonical.of_eq, State.done_canonical, State.refuse_canonical, State.startCtl_canonical]

theorem execDebugRun_canonical (fn tag : Nat) (req : RunReq) (s : State) (h0 : State.Canonical s) :
    OutcomeCanonical (execDebugRun fn tag req s) := by
  unfold execDebugRun; grind [State.Canonical.of_eq, Asked.Canonical, OutcomeCanonical, State.debugCtl_canonical,
      State.debugGo_canonical, State.done_canonical, State.refuse_canonical, State.restartCtl_canonical, pfCommand_canonical]

theorem execDebugStep_canonical (fn tag : Nat) (who : Agent) (s : State) (h0 : State.Canonical s) :
    OutcomeCanonical (execDebugStep fn tag who s) := by
  unfold execDebugStep; grind [State.Canonical.of_eq, OutcomeCanonical, State.debugCtl_canonical, State.done_canonical,
      State.refuse_canonical, State.setTeam_canonical, pfCommand_canonical]

theorem execDebugGangStop_canonical (fn tag gang : Nat) (on : Bool) (s : State) (h0 : State.Canonical s) :
    OutcomeCanonical (execDebugGangStop fn tag gang on s) := by
  unfold execDebugGangStop; grind [State.Canonical.of_eq, OutcomeCanonical, State.done_canonical, State.refuse_canonical,
      State.setGang_canonical, pfCommand_canonical]

/-! Integer. -/

theorem writeAll_canonical (s : State) (si : Site) (w : Ins) (wide : Bool) (rs : List (Nat × Nat × Flags))
    (h0 : State.Canonical s) :
    State.Canonical (writeAll s si w wide rs) := by
  unfold writeAll; grind [State.Canonical.of_eq, Option.map_eq_some_iff, Option.bind_eq_some_iff, State.onTeam_canonical]

theorem intOp_canonical (o : Op) (w : Ins) (s : State) (sh : IntShape) (wideD : Bool) (f : IntFn) (h0 : State.Canonical s) :
    OutcomeCanonical (intOp o w s sh wideD f) := by
  unfold intOp; grind [State.Canonical.of_eq, Issue.Canonical, CtlIssue.Canonical, OutcomeCanonical, Option.map_eq_some_iff,
      Option.bind_eq_some_iff, State.done_canonical, State.writeK_canonical, issueBoth_canonical, writeAll_canonical]

theorem wordOp_canonical (o : Op) (w : Ins) (s : State) (f : Nat → Nat → Nat → Nat → Nat) (h0 : State.Canonical s) :
    OutcomeCanonical (wordOp o w s f) := by
  unfold wordOp; grind [State.Canonical.of_eq, OutcomeCanonical, intOp_canonical]

theorem shiftOp_canonical (o : Op) (w : Ins) (s : State) (f : Nat → Nat → Nat → Nat → Nat) (h0 : State.Canonical s) :
    OutcomeCanonical (shiftOp o w s f) := by
  unfold shiftOp; grind [State.Canonical.of_eq, OutcomeCanonical, intOp_canonical]

theorem arithOp_canonical (o : Op) (w : Ins) (s : State) (f : Int → Int → Int → Int) (h0 : State.Canonical s) :
    OutcomeCanonical (arithOp o w s f) := by
  unfold arithOp; grind [State.Canonical.of_eq, OutcomeCanonical, intOp_canonical]

theorem execMov_canonical (w : Ins) (s : State) (h0 : State.Canonical s) :
    OutcomeCanonical (execMov w s) := by
  unfold execMov; grind [State.Canonical.of_eq, OutcomeCanonical, wordOp_canonical]

theorem execMovi32_canonical (w : Ins) (s : State) (h0 : State.Canonical s) :
    OutcomeCanonical (execMovi32 w s) := by
  unfold execMovi32; grind [State.Canonical.of_eq, Issue.Canonical, CtlIssue.Canonical, OutcomeCanonical,
      Option.map_eq_some_iff, Option.bind_eq_some_iff, State.done_canonical, State.writeK_canonical, issueBoth_canonical,
      writeAll_canonical]

theorem execMovi64_canonical (w : Ins) (s : State) (h0 : State.Canonical s) :
    OutcomeCanonical (execMovi64 w s) := by
  unfold execMovi64; grind [State.Canonical.of_eq, Issue.Canonical, CtlIssue.Canonical, OutcomeCanonical,
      Option.map_eq_some_iff, Option.bind_eq_some_iff, State.done_canonical, State.writeK_canonical, issueBoth_canonical,
      writeAll_canonical]

theorem execSel_canonical (w : Ins) (s : State) (h0 : State.Canonical s) :
    OutcomeCanonical (execSel w s) := by
  unfold execSel; grind [State.Canonical.of_eq, OutcomeCanonical, wordOp_canonical]

theorem execIadd_canonical (w : Ins) (s : State) (h0 : State.Canonical s) :
    OutcomeCanonical (execIadd w s) := by
  unfold execIadd; grind [State.Canonical.of_eq, OutcomeCanonical, arithOp_canonical]

theorem execIsub_canonical (w : Ins) (s : State) (h0 : State.Canonical s) :
    OutcomeCanonical (execIsub w s) := by
  unfold execIsub; grind [State.Canonical.of_eq, OutcomeCanonical, arithOp_canonical]

theorem execImul_canonical (w : Ins) (s : State) (h0 : State.Canonical s) :
    OutcomeCanonical (execImul w s) := by
  unfold execImul; grind [State.Canonical.of_eq, OutcomeCanonical, arithOp_canonical]

theorem execImulh_canonical (w : Ins) (s : State) (h0 : State.Canonical s) :
    OutcomeCanonical (execImulh w s) := by
  unfold execImulh; grind [State.Canonical.of_eq, OutcomeCanonical, arithOp_canonical]

theorem execImad_canonical (w : Ins) (s : State) (h0 : State.Canonical s) :
    OutcomeCanonical (execImad w s) := by
  unfold execImad; grind [State.Canonical.of_eq, OutcomeCanonical, arithOp_canonical]

theorem execImin_canonical (w : Ins) (s : State) (h0 : State.Canonical s) :
    OutcomeCanonical (execImin w s) := by
  unfold execImin; grind [State.Canonical.of_eq, OutcomeCanonical, arithOp_canonical]

theorem execImax_canonical (w : Ins) (s : State) (h0 : State.Canonical s) :
    OutcomeCanonical (execImax w s) := by
  unfold execImax; grind [State.Canonical.of_eq, OutcomeCanonical, arithOp_canonical]

theorem execIabs_canonical (w : Ins) (s : State) (h0 : State.Canonical s) :
    OutcomeCanonical (execIabs w s) := by
  unfold execIabs; grind [State.Canonical.of_eq, OutcomeCanonical, arithOp_canonical]

theorem execIneg_canonical (w : Ins) (s : State) (h0 : State.Canonical s) :
    OutcomeCanonical (execIneg w s) := by
  unfold execIneg; grind [State.Canonical.of_eq, OutcomeCanonical, arithOp_canonical]

theorem execAnd_canonical (w : Ins) (s : State) (h0 : State.Canonical s) :
    OutcomeCanonical (execAnd w s) := by
  unfold execAnd; grind [State.Canonical.of_eq, OutcomeCanonical, wordOp_canonical]

theorem execOr_canonical (w : Ins) (s : State) (h0 : State.Canonical s) :
    OutcomeCanonical (execOr w s) := by
  unfold execOr; grind [State.Canonical.of_eq, OutcomeCanonical, wordOp_canonical]

theorem execXor_canonical (w : Ins) (s : State) (h0 : State.Canonical s) :
    OutcomeCanonical (execXor w s) := by
  unfold execXor; grind [State.Canonical.of_eq, OutcomeCanonical, wordOp_canonical]

theorem execAndn_canonical (w : Ins) (s : State) (h0 : State.Canonical s) :
    OutcomeCanonical (execAndn w s) := by
  unfold execAndn; grind [State.Canonical.of_eq, OutcomeCanonical, wordOp_canonical]

theorem execNot_canonical (w : Ins) (s : State) (h0 : State.Canonical s) :
    OutcomeCanonical (execNot w s) := by
  unfold execNot; grind [State.Canonical.of_eq, OutcomeCanonical, wordOp_canonical]

theorem execShl_canonical (w : Ins) (s : State) (h0 : State.Canonical s) :
    OutcomeCanonical (execShl w s) := by
  unfold execShl; grind [State.Canonical.of_eq, OutcomeCanonical, shiftOp_canonical]

theorem execShr_canonical (w : Ins) (s : State) (h0 : State.Canonical s) :
    OutcomeCanonical (execShr w s) := by
  unfold execShr; grind [State.Canonical.of_eq, OutcomeCanonical, shiftOp_canonical]

theorem execSar_canonical (w : Ins) (s : State) (h0 : State.Canonical s) :
    OutcomeCanonical (execSar w s) := by
  unfold execSar; grind [State.Canonical.of_eq, OutcomeCanonical, shiftOp_canonical]

theorem execRot_canonical (w : Ins) (s : State) (h0 : State.Canonical s) :
    OutcomeCanonical (execRot w s) := by
  unfold execRot; grind [State.Canonical.of_eq, OutcomeCanonical, shiftOp_canonical]

theorem execPopc_canonical (w : Ins) (s : State) (h0 : State.Canonical s) :
    OutcomeCanonical (execPopc w s) := by
  unfold execPopc; grind [State.Canonical.of_eq, OutcomeCanonical, wordOp_canonical]

theorem execClz_canonical (w : Ins) (s : State) (h0 : State.Canonical s) :
    OutcomeCanonical (execClz w s) := by
  unfold execClz; grind [State.Canonical.of_eq, OutcomeCanonical, wordOp_canonical]

theorem execBrev_canonical (w : Ins) (s : State) (h0 : State.Canonical s) :
    OutcomeCanonical (execBrev w s) := by
  unfold execBrev; grind [State.Canonical.of_eq, OutcomeCanonical, wordOp_canonical]

theorem execBfe_canonical (w : Ins) (s : State) (h0 : State.Canonical s) :
    OutcomeCanonical (execBfe w s) := by
  unfold execBfe; grind [State.Canonical.of_eq, OutcomeCanonical, intOp_canonical]

theorem execBfi_canonical (w : Ins) (s : State) (h0 : State.Canonical s) :
    OutcomeCanonical (execBfi w s) := by
  unfold execBfi; grind [State.Canonical.of_eq, OutcomeCanonical, shiftOp_canonical]

theorem execIaddc_canonical (w : Ins) (s : State) (h0 : State.Canonical s) :
    OutcomeCanonical (execIaddc w s) := by
  unfold execIaddc; grind [State.Canonical.of_eq, Issue.Canonical, CtlIssue.Canonical, OutcomeCanonical, Option.map_eq_some_iff,
      Option.bind_eq_some_iff, State.done_canonical, State.onTeam_canonical, State.writeK_canonical, issueBoth_canonical,
      writeAll_canonical]

theorem execLea_canonical (w : Ins) (s : State) (h0 : State.Canonical s) :
    OutcomeCanonical (execLea w s) := by
  unfold execLea; grind [State.Canonical.of_eq, OutcomeCanonical, intOp_canonical]

theorem setp_canonical (s : State) (si : Site) (w : Ins) (e : TMask) (cond : Nat → Bool × Flags) (h0 : State.Canonical s) :
    Issue.Canonical (setp s si w e cond) := by
  unfold setp; grind [State.Canonical.of_eq, Issue.Canonical, CtlIssue.Canonical, Option.map_eq_some_iff,
      Option.bind_eq_some_iff, State.done_canonical, State.onTeam_canonical]

theorem execIsetp_canonical (w : Ins) (s : State) (h0 : State.Canonical s) :
    OutcomeCanonical (execIsetp w s) := by
  unfold execIsetp; grind [State.Canonical.of_eq, Issue.Canonical, CtlIssue.Canonical, OutcomeCanonical, issueTeam_canonical,
      setp_canonical]

/-! FloatOps. -/

theorem roundOp_canonical (o : Op) (w : Ins) (s : State) (wideD : Bool) (n : Nat) (f : Site → RCtl → Nat → List Nat →
    Nat × Flags) (h0 : State.Canonical s) :
    OutcomeCanonical (roundOp o w s wideD n f) := by
  unfold roundOp; grind [State.Canonical.of_eq, Issue.Canonical, CtlIssue.Canonical, OutcomeCanonical, Option.map_eq_some_iff,
      Option.bind_eq_some_iff, State.done_canonical, State.onTeam_canonical, issueTeam_canonical, writeAll_canonical]

theorem floatOp_canonical (o : Op) (w : Ins) (s : State) (f : Fmt) (g : Mode → Val → Val → Val → Val × Flags)
    (h0 : State.Canonical s) :
    OutcomeCanonical (floatOp o w s f g) := by
  unfold floatOp; grind [State.Canonical.of_eq, OutcomeCanonical, roundOp_canonical]

theorem execFadd_canonical (w : Ins) (s : State) (h0 : State.Canonical s) :
    OutcomeCanonical (execFadd w s) := by
  unfold execFadd; grind [State.Canonical.of_eq, OutcomeCanonical, floatOp_canonical]

theorem execFmul_canonical (w : Ins) (s : State) (h0 : State.Canonical s) :
    OutcomeCanonical (execFmul w s) := by
  unfold execFmul; grind [State.Canonical.of_eq, OutcomeCanonical, floatOp_canonical]

theorem execFfma_canonical (w : Ins) (s : State) (h0 : State.Canonical s) :
    OutcomeCanonical (execFfma w s) := by
  unfold execFfma; grind [State.Canonical.of_eq, OutcomeCanonical, floatOp_canonical]

theorem execFrcp_canonical (w : Ins) (s : State) (h0 : State.Canonical s) :
    OutcomeCanonical (execFrcp w s) := by
  unfold execFrcp; grind [State.Canonical.of_eq, OutcomeCanonical, floatOp_canonical]

theorem execFsqrt_canonical (w : Ins) (s : State) (h0 : State.Canonical s) :
    OutcomeCanonical (execFsqrt w s) := by
  unfold execFsqrt; grind [State.Canonical.of_eq, OutcomeCanonical, floatOp_canonical]

theorem execDadd_canonical (w : Ins) (s : State) (h0 : State.Canonical s) :
    OutcomeCanonical (execDadd w s) := by
  unfold execDadd; grind [State.Canonical.of_eq, OutcomeCanonical, floatOp_canonical]

theorem execDmul_canonical (w : Ins) (s : State) (h0 : State.Canonical s) :
    OutcomeCanonical (execDmul w s) := by
  unfold execDmul; grind [State.Canonical.of_eq, OutcomeCanonical, floatOp_canonical]

theorem execDfma_canonical (w : Ins) (s : State) (h0 : State.Canonical s) :
    OutcomeCanonical (execDfma w s) := by
  unfold execDfma; grind [State.Canonical.of_eq, OutcomeCanonical, floatOp_canonical]

theorem execDrcp_canonical (w : Ins) (s : State) (h0 : State.Canonical s) :
    OutcomeCanonical (execDrcp w s) := by
  unfold execDrcp; grind [State.Canonical.of_eq, OutcomeCanonical, floatOp_canonical]

theorem exactOp_canonical (o : Op) (w : Ins) (s : State) (f : Fmt) (wideD : Bool) (g : Bool → Nat → Nat → Nat × Flags)
    (h0 : State.Canonical s) :
    OutcomeCanonical (exactOp o w s f wideD g) := by
  unfold exactOp; grind [State.Canonical.of_eq, Issue.Canonical, CtlIssue.Canonical, OutcomeCanonical, Option.map_eq_some_iff,
      Option.bind_eq_some_iff, State.done_canonical, issueTeam_canonical, writeAll_canonical]

theorem minMaxOp_canonical (o : Op) (w : Ins) (s : State) (f : Fmt) (isMax : Bool) (h0 : State.Canonical s) :
    OutcomeCanonical (minMaxOp o w s f isMax) := by
  unfold minMaxOp; grind [State.Canonical.of_eq, OutcomeCanonical, exactOp_canonical]

theorem execFmin_canonical (w : Ins) (s : State) (h0 : State.Canonical s) :
    OutcomeCanonical (execFmin w s) := by
  unfold execFmin; grind [State.Canonical.of_eq, OutcomeCanonical, minMaxOp_canonical]

theorem execFmax_canonical (w : Ins) (s : State) (h0 : State.Canonical s) :
    OutcomeCanonical (execFmax w s) := by
  unfold execFmax; grind [State.Canonical.of_eq, OutcomeCanonical, minMaxOp_canonical]

theorem execDmin_canonical (w : Ins) (s : State) (h0 : State.Canonical s) :
    OutcomeCanonical (execDmin w s) := by
  unfold execDmin; grind [State.Canonical.of_eq, OutcomeCanonical, minMaxOp_canonical]

theorem execDmax_canonical (w : Ins) (s : State) (h0 : State.Canonical s) :
    OutcomeCanonical (execDmax w s) := by
  unfold execDmax; grind [State.Canonical.of_eq, OutcomeCanonical, minMaxOp_canonical]

theorem execFclass_canonical (w : Ins) (s : State) (h0 : State.Canonical s) :
    OutcomeCanonical (execFclass w s) := by
  unfold execFclass; grind [State.Canonical.of_eq, OutcomeCanonical, exactOp_canonical]

theorem fsetpOp_canonical (o : Op) (w : Ins) (s : State) (f : Fmt) (h0 : State.Canonical s) :
    OutcomeCanonical (fsetpOp o w s f) := by
  unfold fsetpOp; grind [State.Canonical.of_eq, Issue.Canonical, CtlIssue.Canonical, OutcomeCanonical, issueTeam_canonical,
      setp_canonical]

theorem execFsetp_canonical (w : Ins) (s : State) (h0 : State.Canonical s) :
    OutcomeCanonical (execFsetp w s) := by
  unfold execFsetp; grind [State.Canonical.of_eq, OutcomeCanonical, fsetpOp_canonical]

theorem execDsetp_canonical (w : Ins) (s : State) (h0 : State.Canonical s) :
    OutcomeCanonical (execDsetp w s) := by
  unfold execDsetp; grind [State.Canonical.of_eq, OutcomeCanonical, fsetpOp_canonical]

theorem approxOp_canonical (o : Op) (fn : Config.ApproxFn) (w : Ins) (s : State) (h0 : State.Canonical s) :
    OutcomeCanonical (approxOp o fn w s) := by
  unfold approxOp; grind [State.Canonical.of_eq, Issue.Canonical, CtlIssue.Canonical, OutcomeCanonical, Option.map_eq_some_iff,
      Option.bind_eq_some_iff, State.done_canonical, issueTeam_canonical, writeAll_canonical]

theorem execFrsq_canonical (w : Ins) (s : State) (h0 : State.Canonical s) :
    OutcomeCanonical (execFrsq w s) := by
  unfold execFrsq; grind [State.Canonical.of_eq, OutcomeCanonical, approxOp_canonical]

theorem execFex2_canonical (w : Ins) (s : State) (h0 : State.Canonical s) :
    OutcomeCanonical (execFex2 w s) := by
  unfold execFex2; grind [State.Canonical.of_eq, OutcomeCanonical, approxOp_canonical]

theorem execFlg2_canonical (w : Ins) (s : State) (h0 : State.Canonical s) :
    OutcomeCanonical (execFlg2 w s) := by
  unfold execFlg2; grind [State.Canonical.of_eq, OutcomeCanonical, approxOp_canonical]

theorem execFsin_canonical (w : Ins) (s : State) (h0 : State.Canonical s) :
    OutcomeCanonical (execFsin w s) := by
  unfold execFsin; grind [State.Canonical.of_eq, OutcomeCanonical, approxOp_canonical]

theorem execFcos_canonical (w : Ins) (s : State) (h0 : State.Canonical s) :
    OutcomeCanonical (execFcos w s) := by
  unfold execFcos; grind [State.Canonical.of_eq, OutcomeCanonical, approxOp_canonical]

theorem execFtanh_canonical (w : Ins) (s : State) (h0 : State.Canonical s) :
    OutcomeCanonical (execFtanh w s) := by
  unfold execFtanh; grind [State.Canonical.of_eq, OutcomeCanonical, approxOp_canonical]

theorem halfOp_canonical (o : Op) (w : Ins) (s : State) (g : Mode → Val → Val → Val → Val × Flags) (h0 : State.Canonical s) :
    OutcomeCanonical (halfOp o w s g) := by
  unfold halfOp; grind [State.Canonical.of_eq, OutcomeCanonical, roundOp_canonical]

theorem execHadd2_canonical (w : Ins) (s : State) (h0 : State.Canonical s) :
    OutcomeCanonical (execHadd2 w s) := by
  unfold execHadd2; grind [State.Canonical.of_eq, OutcomeCanonical, halfOp_canonical]

theorem execHmul2_canonical (w : Ins) (s : State) (h0 : State.Canonical s) :
    OutcomeCanonical (execHmul2 w s) := by
  unfold execHmul2; grind [State.Canonical.of_eq, OutcomeCanonical, halfOp_canonical]

theorem execHfma2_canonical (w : Ins) (s : State) (h0 : State.Canonical s) :
    OutcomeCanonical (execHfma2 w s) := by
  unfold execHfma2; grind [State.Canonical.of_eq, OutcomeCanonical, halfOp_canonical]

theorem execCvt_canonical (w : Ins) (s : State) (h0 : State.Canonical s) :
    OutcomeCanonical (execCvt w s) := by
  unfold execCvt; grind [State.Canonical.of_eq, OutcomeCanonical, roundOp_canonical]

theorem execCvtn_canonical (w : Ins) (s : State) (h0 : State.Canonical s) :
    OutcomeCanonical (execCvtn w s) := by
  unfold execCvtn; grind [State.Canonical.of_eq, OutcomeCanonical, roundOp_canonical]

theorem execCvtw_canonical (w : Ins) (s : State) (h0 : State.Canonical s) :
    OutcomeCanonical (execCvtw w s) := by
  unfold execCvtw; grind [State.Canonical.of_eq, OutcomeCanonical, roundOp_canonical]

/-! LatticeOps. -/

theorem execLq8_canonical (w : Ins) (s : State) (h0 : State.Canonical s) :
    OutcomeCanonical (execLq8 w s) := by
  unfold execLq8; grind [State.Canonical.of_eq, Issue.Canonical, CtlIssue.Canonical, OutcomeCanonical, Option.map_eq_some_iff,
      Option.bind_eq_some_iff, State.done_canonical, issueTeam_canonical, writeAll_canonical]

theorem execLqscale_canonical (w : Ins) (s : State) (h0 : State.Canonical s) :
    OutcomeCanonical (execLqscale w s) := by
  unfold execLqscale; grind [State.Canonical.of_eq, Issue.Canonical, CtlIssue.Canonical, OutcomeCanonical,
      Option.map_eq_some_iff, Option.bind_eq_some_iff, State.done_canonical, issueTeam_canonical, writeAll_canonical]

theorem execLqd_canonical (w : Ins) (s : State) (h0 : State.Canonical s) :
    OutcomeCanonical (execLqd w s) := by
  unfold execLqd; grind [State.Canonical.of_eq, Issue.Canonical, CtlIssue.Canonical, OutcomeCanonical, Option.map_eq_some_iff,
      Option.bind_eq_some_iff, State.done_canonical, State.onTeam_canonical, issueTeam_canonical]

theorem execLqm_canonical (w : Ins) (s : State) (h0 : State.Canonical s) :
    OutcomeCanonical (execLqm w s) := by
  unfold execLqm; grind [State.Canonical.of_eq, Issue.Canonical, CtlIssue.Canonical, OutcomeCanonical, Option.map_eq_some_iff,
      Option.bind_eq_some_iff, State.done_canonical, issueTeam_canonical, writeAll_canonical]

theorem execShfl_canonical (w : Ins) (s : State) (h0 : State.Canonical s) :
    OutcomeCanonical (execShfl w s) := by
  unfold execShfl; grind [State.Canonical.of_eq, Issue.Canonical, CtlIssue.Canonical, OutcomeCanonical, Option.map_eq_some_iff,
      Option.bind_eq_some_iff, State.done_canonical, issueTeam_canonical, writeAll_canonical]

theorem execBcast_canonical (w : Ins) (s : State) (h0 : State.Canonical s) :
    OutcomeCanonical (execBcast w s) := by
  unfold execBcast; grind [State.Canonical.of_eq, Issue.Canonical, CtlIssue.Canonical, OutcomeCanonical, Option.map_eq_some_iff,
      Option.bind_eq_some_iff, State.done_canonical, issueTeam_canonical, writeAll_canonical]

theorem execRedux_canonical (w : Ins) (s : State) (h0 : State.Canonical s) :
    OutcomeCanonical (execRedux w s) := by
  unfold execRedux; grind [State.Canonical.of_eq, Issue.Canonical, CtlIssue.Canonical, OutcomeCanonical, Option.map_eq_some_iff,
      Option.bind_eq_some_iff, State.done_canonical, State.onTeam_canonical, issueTeam_canonical, writeAll_canonical]

theorem execScan_canonical (w : Ins) (s : State) (h0 : State.Canonical s) :
    OutcomeCanonical (execScan w s) := by
  unfold execScan; grind [State.Canonical.of_eq, Issue.Canonical, CtlIssue.Canonical, OutcomeCanonical, Option.map_eq_some_iff,
      Option.bind_eq_some_iff, State.done_canonical, State.onTeam_canonical, issueTeam_canonical, writeAll_canonical]

theorem execRand_canonical (w : Ins) (s : State) (h0 : State.Canonical s) :
    OutcomeCanonical (execRand w s) := by
  unfold execRand; grind [State.Canonical.of_eq, Issue.Canonical, CtlIssue.Canonical, OutcomeCanonical, Option.map_eq_some_iff,
      Option.bind_eq_some_iff, State.done_canonical, State.onTeam_canonical, issueTeam_canonical, writeAll_canonical]

theorem execRseed_canonical (w : Ins) (s : State) (h0 : State.Canonical s) :
    OutcomeCanonical (execRseed w s) := by
  unfold execRseed; grind [State.Canonical.of_eq, Issue.Canonical, CtlIssue.Canonical, OutcomeCanonical, State.done_canonical,
      State.onTeam_canonical, issueTeam_canonical]

/-! Tenants. -/

theorem State.writeTrqAll_canonical (s : State) (vd : Nat) (ring qlim : Nat → Option W64) (h0 : State.Canonical s) :
    State.Canonical ((State.writeTrqAll s vd ring qlim).2) := by
  have h : ((List.range 12).foldl (fun (x : Bool × State) k =>
      if x.1 then x.2.writeTrq k vd (ring k) (qlim k) else x) (true, s)).2.Canonical := by
    refine foldl_keeps (fun x : Bool × State => x.2.Canonical) _ ?_ _ _ h0
    intro b x hb
    split
    · exact State.writeTrq_canonical _ _ _ _ _ hb
    · exact hb
  unfold State.writeTrqAll
  simp only
  split
  · exact h
  · exact h.of_eq rfl

theorem State.bindQueue_canonical (s : State) (cx : CtxId) (q : QueueReq) (h0 : State.Canonical s) :
    State.Canonical (State.bindQueue s cx q) := by
  unfold State.bindQueue; grind [State.Canonical.of_eq, State.putKeys_canonical, State.setQueue_canonical, enabled_canonical]

theorem State.makeCtx_canonical (s : State) (vd : Nat) (c : CtxReq) (h0 : State.Canonical s) :
    State.Canonical (State.makeCtx s vd c) := by
  unfold State.makeCtx; grind [State.Canonical.of_eq, Option.map_eq_some_iff, Option.bind_eq_some_iff,
      State.bindQueue_canonical, State.setCtx_canonical, State.setStream_canonical, State.updHead_canonical,
      State.writePtes_canonical, State.zeroChip_canonical, foldl_canonical]

theorem State.setUpVd_canonical (s : State) (vd part : Nat) (cs : List CtxReq) (wdt cto : Nat) (r : Bool × State)
    (h0 : State.Canonical s) (h1 : State.Canonical (r.2)) :
    State.Canonical (State.setUpVd s vd part cs wdt cto r).st := by
  unfold State.setUpVd; grind [State.Canonical.of_eq, Option.map_eq_some_iff, Option.bind_eq_some_iff, State.done_canonical,
      State.makeCtx_canonical, State.refuse_canonical, foldl_canonical]

theorem ite_canonical {c : Prop} [Decidable c] {a b : Reply} (ha : State.Canonical a.st) (hb : State.Canonical b.st) :
    State.Canonical (if c then a else b).st := by split <;> assumption

theorem State.makeVd_canonical (s : State) (vd part raylim : Nat) (rqlim : List Nat) (units : Nat) (bases : List Nat)
    (cs : List CtxReq) (wdt cto : Nat) (h0 : State.Canonical s) :
    State.Canonical (State.makeVd s vd part raylim rqlim units bases cs wdt cto).st := by
  unfold State.makeVd
  split
  · exact State.refuse_canonical _ h0
  · exact ite_canonical (State.refuse_canonical _ h0)
      (State.setUpVd_canonical _ _ _ _ _ _ _ h0 (State.writeTrqAll_canonical s vd _ _ h0))

theorem State.destroyVd_canonical (s : State) (vd : Nat) (h0 : State.Canonical s) :
    (∀ y1, State.destroyVd s vd = some y1 → State.Canonical y1.st) := by
  unfold State.destroyVd; grind [State.Canonical.of_eq, Option.map_eq_some_iff, Option.bind_eq_some_iff,
      State.disableHead_canonical, State.done_canonical, State.evictCrumb_canonical, State.refuse_canonical,
      State.resetAll_canonical, State.restartPeriod_canonical, State.updHead_canonical, State.zeroChip_canonical,
      foldl_canonical]

theorem execVdmake_canonical (fn tag : Nat) (req : VdReq) (s : State) (h0 : State.Canonical s) :
    OutcomeCanonical (execVdmake fn tag req s) := by
  unfold execVdmake; grind [State.Canonical.of_eq, OutcomeCanonical, State.destroyVd_canonical, State.makeVd_canonical,
      pfCommand_canonical]

theorem replyOf_canonical (r : Bool × State) (h0 : State.Canonical (r.2)) :
    State.Canonical (replyOf r).st := by
  unfold replyOf; grind [State.Canonical.of_eq, State.done_canonical, State.refuse_canonical]

theorem State.setTraversal_canonical (s : State) (stack vd : Nat) (ring qlim : Option W64) (h0 : State.Canonical s) :
    State.Canonical ((State.setTraversal s stack vd ring qlim).2) := by
  unfold State.setTraversal; grind [State.Canonical.of_eq, State.writeTrq_canonical, State.writeTrqAll_canonical]

theorem execArbset_canonical (fn tag : Nat) (req : ArbWrite) (s : State) (h0 : State.Canonical s) :
    OutcomeCanonical (execArbset fn tag req s) := by
  unfold execArbset; grind [State.Canonical.of_eq, OutcomeCanonical, State.done_canonical, State.refuse_canonical,
      State.setTraversal_canonical, State.writeBkcfg_canonical, State.writeFrctl_canonical, State.writeWayq_canonical,
      pfCommand_canonical, replyOf_canonical]

theorem State.onPart_canonical (s : State) (n : Nat) (f : Part → Part) (h0 : State.Canonical s) :
    State.Canonical (State.onPart s n f) := by
  unfold State.onPart; grind [State.Canonical.of_eq]

theorem State.preemptCluster_canonical (s : State) (l : Tbl Gang) (h0 : State.Canonical s) :
    (∀ y1, State.preemptCluster s l = some y1 → State.Canonical y1) := by
  refine foldl_keeps (fun r : Option State => ∀ t, r = some t → t.Canonical) _ ?_ _ _ (by intro t h; cases h; exact h0)
  intro r id h t ht
  obtain ⟨u, hu, ht⟩ := Option.bind_eq_some_iff.1 ht
  have hc := h u hu
  repeat' split at ht
  · exact State.preemptNow_canonical _ _ _ hc _ ht
  · cases ht; exact hc
  · cases ht; exact hc

theorem State.reslot_canonical (s : State) (c : Nat) (a1 : List SlotReq) (h0 : State.Canonical s) :
    (∀ y2, State.reslot s c a1 = some y2 → State.Canonical y2) := by
  fun_induction State.reslot s c a1 <;> grind [State.Canonical.of_eq, Option.map_eq_some_iff, Option.bind_eq_some_iff,
      State.setArb_canonical, State.writeBkcfg_canonical]

theorem State.moveCluster_canonical (s : State) (c src dst : Nat) (slots : List SlotReq) (h0 : State.Canonical s) :
    (∀ y1, State.moveCluster s c src dst slots = some y1 → Asked.Canonical (y1)) := by
  intro y hy
  unfold State.moveCluster at hy
  split at hy
  · cases hy; exact State.refuse_canonical _ h0
  split at hy
  · cases hy
  simp only at hy
  split at hy
  · obtain ⟨u, hu, rfl⟩ := Option.map_eq_some_iff.1 hy
    exact State.chooseToSave_canonical _ _ h0 _ hu
  · rename_i t ht
    obtain ⟨u, hu, rfl⟩ := Option.map_eq_some_iff.1 hy
    exact State.done_canonical _ (State.onPart_canonical _ _ _ (State.onPart_canonical _ _ _
      (State.reslot_canonical _ _ _ (State.preemptCluster_canonical _ _ h0 _ ht) _ hu)))

theorem State.copyPages_canonical (s : State) (src dst n : Nat) (h0 : State.Canonical s) :
    State.Canonical (State.copyPages s src dst n) := by
  exact Memory.wf_writes _ (Memory.wf_filter _ (Memory.wf_writes _ (Memory.wf_filter _ h0)))

theorem State.migrate_canonical (s : State) (src base : Nat) (copies : List (Nat × Nat × Nat)) (ptes : List (Nat × Nat))
    (h0 : State.Canonical s) :
    (∀ y1, State.migrate s src base copies ptes = some y1 → State.Canonical y1) := by
  unfold State.migrate; grind [State.Canonical.of_eq, Option.map_eq_some_iff, Option.bind_eq_some_iff,
      State.copyPages_canonical, State.drainCx_canonical, State.flushGroup_canonical, State.invalidate_canonical,
      State.remap_canonical, foldl_canonical]

theorem State.moveGroup_canonical (s : State) (stack g src dst : Nat) (copies : List (Nat × Nat × Nat)) (ptes : List
    (Nat × Nat)) (h0 : State.Canonical s) :
    (∀ y1, State.moveGroup s stack g src dst copies ptes = some y1 → Asked.Canonical (y1)) := by
  unfold State.moveGroup; simp only; (repeat' split) <;> grind [State.Canonical.of_eq, Asked.Canonical, Option.map_eq_some_iff,
      Option.bind_eq_some_iff, State.done_canonical, State.migrate_canonical, State.onPart_canonical, State.refuse_canonical,
      State.zeroGroup_canonical]

theorem State.moveQset_canonical (s : State) (q src dst : Nat) (h0 : State.Canonical s) :
    State.Canonical (State.moveQset s q src dst).st := by
  unfold State.moveQset; grind [State.Canonical.of_eq, State.done_canonical, State.onPart_canonical, State.refuse_canonical]

theorem State.moveHead_canonical (s : State) (h src dst : Nat) (h0 : State.Canonical s) :
    State.Canonical (State.moveHead s h src dst).st := by
  unfold State.moveHead; grind [State.Canonical.of_eq, State.done_canonical, State.onPart_canonical, State.refuse_canonical,
      State.updHead_canonical]

theorem execPartmove_canonical (fn tag : Nat) (req : PartReq) (s : State) (h0 : State.Canonical s) :
    OutcomeCanonical (execPartmove fn tag req s) := by
  unfold execPartmove; grind [State.Canonical.of_eq, Asked.Canonical, OutcomeCanonical, State.moveCluster_canonical,
      State.moveGroup_canonical, State.moveHead_canonical, State.moveQset_canonical, State.refuse_canonical, pfAsk_canonical,
      pfCommand_canonical]

theorem State.sealFill_canonical (s : State) (id base len : Nat) (data : List Byte) (h0 : State.Canonical s) :
    State.Canonical (State.sealFill s id base len data).st := by
  unfold State.sealFill
  simp only
  refine ite_canonical (State.refuse_canonical _ h0) (State.done_canonical _ ?_)
  have h : State.Canonical { s with
      mem := Memory.writes s.mem (((List.range data.length).map (base + ·)).zip data) } := Memory.wf_writes _ h0
  exact State.replaced_canonical _ base data.length h

theorem execSealRequest_canonical (fn tag : Nat) (req : SealReq) (s : State) (h0 : State.Canonical s) :
    OutcomeCanonical (execSealRequest fn tag req s) := by
  unfold execSealRequest; grind [State.Canonical.of_eq, Asked.Canonical, OutcomeCanonical, State.done_canonical,
      State.refuse_canonical, State.retire_canonical, State.sealFill_canonical, pfCommand_canonical]

end Sys2Proof.Machine
end

