-- ==== Sys2Proof/Laws/State.lean ====
section
/-! SUPPORT. Each named update of the state, field by field, and the lookups that follow. -/

namespace Sys2Proof.Machine

open Sys2Proof Host

variable (s : State)

/-! State.setTeam. -/

@[simp] theorem State.setTeam_agenda (c k : Nat) (t : Team) : (s.setTeam c k t).agenda = s.agenda := rfl
@[simp] theorem State.setTeam_cur (c k : Nat) (t : Team) : (s.setTeam c k t).cur = s.cur := rfl
@[simp] theorem State.setTeam_fresh (c k : Nat) (t : Team) : (s.setTeam c k t).fresh = s.fresh := rfl
@[simp] theorem State.setTeam_nextId (c k : Nat) (t : Team) : (s.setTeam c k t).nextId = s.nextId := rfl
@[simp] theorem State.setTeam_powered (c k : Nat) (t : Team) : (s.setTeam c k t).powered = s.powered := rfl
@[simp] theorem State.setTeam_fab (c k : Nat) (t : Team) : (s.setTeam c k t).fab = s.fab := rfl
@[simp] theorem State.setTeam_stk (c k : Nat) (t : Team) : (s.setTeam c k t).stk = s.stk := rfl
@[simp] theorem State.setTeam_ns (c k : Nat) (t : Team) : (s.setTeam c k t).ns = s.ns := rfl
@[simp] theorem State.setTeam_mem (c k : Nat) (t : Team) : (s.setTeam c k t).mem = s.mem := rfl
@[simp] theorem State.setTeam_teams (c k : Nat) (t : Team) : (s.setTeam c k t).teams = s.teams.set (teamKey c k) t := rfl
@[simp] theorem State.setTeam_cores (c k : Nat) (t : Team) : (s.setTeam c k t).cores = s.cores := rfl
@[simp] theorem State.setTeam_gangs (c k : Nat) (t : Team) : (s.setTeam c k t).gangs = s.gangs := rfl
@[simp] theorem State.setTeam_launches (c k : Nat) (t : Team) : (s.setTeam c k t).launches = s.launches := rfl
@[simp] theorem State.setTeam_parts (c k : Nat) (t : Team) : (s.setTeam c k t).parts = s.parts := rfl
@[simp] theorem State.setTeam_vds (c k : Nat) (t : Team) : (s.setTeam c k t).vds = s.vds := rfl
@[simp] theorem State.setTeam_ctxs (c k : Nat) (t : Team) : (s.setTeam c k t).ctxs = s.ctxs := rfl
@[simp] theorem State.setTeam_served (c k : Nat) (t : Team) : (s.setTeam c k t).served = s.served := rfl
@[simp] theorem State.setTeam_arbs (c k : Nat) (t : Team) : (s.setTeam c k t).arbs = s.arbs := rfl
@[simp] theorem State.setTeam_wayqs (c k : Nat) (t : Team) : (s.setTeam c k t).wayqs = s.wayqs := rfl
@[simp] theorem State.setTeam_convWays (c k : Nat) (t : Team) : (s.setTeam c k t).convWays = s.convWays := rfl
@[simp] theorem State.setTeam_poolWays (c k : Nat) (t : Team) : (s.setTeam c k t).poolWays = s.poolWays := rfl
@[simp] theorem State.setTeam_seals (c k : Nat) (t : Team) : (s.setTeam c k t).seals = s.seals := rfl
@[simp] theorem State.setTeam_bypass (c k : Nat) (t : Team) : (s.setTeam c k t).bypass = s.bypass := rfl
@[simp] theorem State.setTeam_lines (c k : Nat) (t : Team) : (s.setTeam c k t).lines = s.lines := rfl
@[simp] theorem State.setTeam_tiles (c k : Nat) (t : Team) : (s.setTeam c k t).tiles = s.tiles := rfl
@[simp] theorem State.setTeam_lts (c k : Nat) (t : Team) : (s.setTeam c k t).lts = s.lts := rfl
@[simp] theorem State.setTeam_dieTlbs (c k : Nat) (t : Team) : (s.setTeam c k t).dieTlbs = s.dieTlbs := rfl
@[simp] theorem State.setTeam_locks (c k : Nat) (t : Team) : (s.setTeam c k t).locks = s.locks := rfl
@[simp] theorem State.setTeam_ops (c k : Nat) (t : Team) : (s.setTeam c k t).ops = s.ops := rfl
@[simp] theorem State.setTeam_sigs (c k : Nat) (t : Team) : (s.setTeam c k t).sigs = s.sigs := rfl
@[simp] theorem State.setTeam_faults (c k : Nat) (t : Team) : (s.setTeam c k t).faults = s.faults := rfl
@[simp] theorem State.setTeam_win (c k : Nat) (t : Team) : (s.setTeam c k t).win = s.win := rfl
@[simp] theorem State.setTeam_winExp (c k : Nat) (t : Team) : (s.setTeam c k t).winExp = s.winExp := rfl
@[simp] theorem State.setTeam_wto (c k : Nat) (t : Team) : (s.setTeam c k t).wto = s.wto := rfl
@[simp] theorem State.setTeam_rto (c k : Nat) (t : Team) : (s.setTeam c k t).rto = s.rto := rfl
@[simp] theorem State.setTeam_streams (c k : Nat) (t : Team) : (s.setTeam c k t).streams = s.streams := rfl
@[simp] theorem State.setTeam_device (c k : Nat) (t : Team) : (s.setTeam c k t).device = s.device := rfl
@[simp] theorem State.setTeam_ptp (c k : Nat) (t : Team) : (s.setTeam c k t).ptp = s.ptp := rfl
@[simp] theorem State.setTeam_stamps (c k : Nat) (t : Team) : (s.setTeam c k t).stamps = s.stamps := rfl
@[simp] theorem State.setTeam_notices (c k : Nat) (t : Team) : (s.setTeam c k t).notices = s.notices := rfl
@[simp] theorem State.setTeam_filters (c k : Nat) (t : Team) : (s.setTeam c k t).filters = s.filters := rfl
@[simp] theorem State.setTeam_treelets (c k : Nat) (t : Team) : (s.setTeam c k t).treelets = s.treelets := rfl
@[simp] theorem State.setTeam_tlq (c k : Nat) (t : Team) : (s.setTeam c k t).tlq = s.tlq := rfl
@[simp] theorem State.setTeam_rays (c k : Nat) (t : Team) : (s.setTeam c k t).rays = s.rays := rfl
@[simp] theorem State.setTeam_trring (c k : Nat) (t : Team) : (s.setTeam c k t).trring = s.trring := rfl
@[simp] theorem State.setTeam_trqlim (c k : Nat) (t : Team) : (s.setTeam c k t).trqlim = s.trqlim := rfl
@[simp] theorem State.setTeam_scmds (c k : Nat) (t : Team) : (s.setTeam c k t).scmds = s.scmds := rfl
@[simp] theorem State.setTeam_sessions (c k : Nat) (t : Team) : (s.setTeam c k t).sessions = s.sessions := rfl
@[simp] theorem State.setTeam_deferred (c k : Nat) (t : Team) : (s.setTeam c k t).deferred = s.deferred := rfl
@[simp] theorem State.setTeam_plain (c k : Nat) (t : Team) : (s.setTeam c k t).plain = s.plain := rfl
@[simp] theorem State.setTeam_rcmds (c k : Nat) (t : Team) : (s.setTeam c k t).rcmds = s.rcmds := rfl
@[simp] theorem State.setTeam_heads (c k : Nat) (t : Team) : (s.setTeam c k t).heads = s.heads := rfl
@[simp] theorem State.setTeam_eth (c k : Nat) (t : Team) : (s.setTeam c k t).eth = s.eth := rfl
@[simp] theorem State.setTeam_fketype (c k : Nat) (t : Team) : (s.setTeam c k t).fketype = s.fketype := rfl
@[simp] theorem State.setTeam_mail (c k : Nat) (t : Team) : (s.setTeam c k t).mail = s.mail := rfl
@[simp] theorem State.setTeam_islands (c k : Nat) (t : Team) : (s.setTeam c k t).islands = s.islands := rfl
@[simp] theorem State.setTeam_toRenweaz (c k : Nat) (t : Team) : (s.setTeam c k t).toRenweaz = s.toRenweaz := rfl
@[simp] theorem State.setTeam_inReset (c k : Nat) (t : Team) : (s.setTeam c k t).inReset = s.inReset := rfl

/-! State.setCore. -/

@[simp] theorem State.setCore_agenda (c : Nat) (x : Core) : (s.setCore c x).agenda = s.agenda := rfl
@[simp] theorem State.setCore_cur (c : Nat) (x : Core) : (s.setCore c x).cur = s.cur := rfl
@[simp] theorem State.setCore_fresh (c : Nat) (x : Core) : (s.setCore c x).fresh = s.fresh := rfl
@[simp] theorem State.setCore_nextId (c : Nat) (x : Core) : (s.setCore c x).nextId = s.nextId := rfl
@[simp] theorem State.setCore_powered (c : Nat) (x : Core) : (s.setCore c x).powered = s.powered := rfl
@[simp] theorem State.setCore_fab (c : Nat) (x : Core) : (s.setCore c x).fab = s.fab := rfl
@[simp] theorem State.setCore_stk (c : Nat) (x : Core) : (s.setCore c x).stk = s.stk := rfl
@[simp] theorem State.setCore_ns (c : Nat) (x : Core) : (s.setCore c x).ns = s.ns := rfl
@[simp] theorem State.setCore_mem (c : Nat) (x : Core) : (s.setCore c x).mem = s.mem := rfl
@[simp] theorem State.setCore_teams (c : Nat) (x : Core) : (s.setCore c x).teams = s.teams := rfl
@[simp] theorem State.setCore_cores (c : Nat) (x : Core) : (s.setCore c x).cores = s.cores.set c x := rfl
@[simp] theorem State.setCore_gangs (c : Nat) (x : Core) : (s.setCore c x).gangs = s.gangs := rfl
@[simp] theorem State.setCore_launches (c : Nat) (x : Core) : (s.setCore c x).launches = s.launches := rfl
@[simp] theorem State.setCore_parts (c : Nat) (x : Core) : (s.setCore c x).parts = s.parts := rfl
@[simp] theorem State.setCore_vds (c : Nat) (x : Core) : (s.setCore c x).vds = s.vds := rfl
@[simp] theorem State.setCore_ctxs (c : Nat) (x : Core) : (s.setCore c x).ctxs = s.ctxs := rfl
@[simp] theorem State.setCore_served (c : Nat) (x : Core) : (s.setCore c x).served = s.served := rfl
@[simp] theorem State.setCore_arbs (c : Nat) (x : Core) : (s.setCore c x).arbs = s.arbs := rfl
@[simp] theorem State.setCore_wayqs (c : Nat) (x : Core) : (s.setCore c x).wayqs = s.wayqs := rfl
@[simp] theorem State.setCore_convWays (c : Nat) (x : Core) : (s.setCore c x).convWays = s.convWays := rfl
@[simp] theorem State.setCore_poolWays (c : Nat) (x : Core) : (s.setCore c x).poolWays = s.poolWays := rfl
@[simp] theorem State.setCore_seals (c : Nat) (x : Core) : (s.setCore c x).seals = s.seals := rfl
@[simp] theorem State.setCore_bypass (c : Nat) (x : Core) : (s.setCore c x).bypass = s.bypass := rfl
@[simp] theorem State.setCore_lines (c : Nat) (x : Core) : (s.setCore c x).lines = s.lines := rfl
@[simp] theorem State.setCore_tiles (c : Nat) (x : Core) : (s.setCore c x).tiles = s.tiles := rfl
@[simp] theorem State.setCore_lts (c : Nat) (x : Core) : (s.setCore c x).lts = s.lts := rfl
@[simp] theorem State.setCore_dieTlbs (c : Nat) (x : Core) : (s.setCore c x).dieTlbs = s.dieTlbs := rfl
@[simp] theorem State.setCore_locks (c : Nat) (x : Core) : (s.setCore c x).locks = s.locks := rfl
@[simp] theorem State.setCore_ops (c : Nat) (x : Core) : (s.setCore c x).ops = s.ops := rfl
@[simp] theorem State.setCore_sigs (c : Nat) (x : Core) : (s.setCore c x).sigs = s.sigs := rfl
@[simp] theorem State.setCore_faults (c : Nat) (x : Core) : (s.setCore c x).faults = s.faults := rfl
@[simp] theorem State.setCore_win (c : Nat) (x : Core) : (s.setCore c x).win = s.win := rfl
@[simp] theorem State.setCore_winExp (c : Nat) (x : Core) : (s.setCore c x).winExp = s.winExp := rfl
@[simp] theorem State.setCore_wto (c : Nat) (x : Core) : (s.setCore c x).wto = s.wto := rfl
@[simp] theorem State.setCore_rto (c : Nat) (x : Core) : (s.setCore c x).rto = s.rto := rfl
@[simp] theorem State.setCore_streams (c : Nat) (x : Core) : (s.setCore c x).streams = s.streams := rfl
@[simp] theorem State.setCore_device (c : Nat) (x : Core) : (s.setCore c x).device = s.device := rfl
@[simp] theorem State.setCore_ptp (c : Nat) (x : Core) : (s.setCore c x).ptp = s.ptp := rfl
@[simp] theorem State.setCore_stamps (c : Nat) (x : Core) : (s.setCore c x).stamps = s.stamps := rfl
@[simp] theorem State.setCore_notices (c : Nat) (x : Core) : (s.setCore c x).notices = s.notices := rfl
@[simp] theorem State.setCore_filters (c : Nat) (x : Core) : (s.setCore c x).filters = s.filters := rfl
@[simp] theorem State.setCore_treelets (c : Nat) (x : Core) : (s.setCore c x).treelets = s.treelets := rfl
@[simp] theorem State.setCore_tlq (c : Nat) (x : Core) : (s.setCore c x).tlq = s.tlq := rfl
@[simp] theorem State.setCore_rays (c : Nat) (x : Core) : (s.setCore c x).rays = s.rays := rfl
@[simp] theorem State.setCore_trring (c : Nat) (x : Core) : (s.setCore c x).trring = s.trring := rfl
@[simp] theorem State.setCore_trqlim (c : Nat) (x : Core) : (s.setCore c x).trqlim = s.trqlim := rfl
@[simp] theorem State.setCore_scmds (c : Nat) (x : Core) : (s.setCore c x).scmds = s.scmds := rfl
@[simp] theorem State.setCore_sessions (c : Nat) (x : Core) : (s.setCore c x).sessions = s.sessions := rfl
@[simp] theorem State.setCore_deferred (c : Nat) (x : Core) : (s.setCore c x).deferred = s.deferred := rfl
@[simp] theorem State.setCore_plain (c : Nat) (x : Core) : (s.setCore c x).plain = s.plain := rfl
@[simp] theorem State.setCore_rcmds (c : Nat) (x : Core) : (s.setCore c x).rcmds = s.rcmds := rfl
@[simp] theorem State.setCore_heads (c : Nat) (x : Core) : (s.setCore c x).heads = s.heads := rfl
@[simp] theorem State.setCore_eth (c : Nat) (x : Core) : (s.setCore c x).eth = s.eth := rfl
@[simp] theorem State.setCore_fketype (c : Nat) (x : Core) : (s.setCore c x).fketype = s.fketype := rfl
@[simp] theorem State.setCore_mail (c : Nat) (x : Core) : (s.setCore c x).mail = s.mail := rfl
@[simp] theorem State.setCore_islands (c : Nat) (x : Core) : (s.setCore c x).islands = s.islands := rfl
@[simp] theorem State.setCore_toRenweaz (c : Nat) (x : Core) : (s.setCore c x).toRenweaz = s.toRenweaz := rfl
@[simp] theorem State.setCore_inReset (c : Nat) (x : Core) : (s.setCore c x).inReset = s.inReset := rfl

/-! State.setCtl. -/

@[simp] theorem State.setCtl_agenda (c : Nat) (x : Ctl) : (s.setCtl c x).agenda = s.agenda := rfl
@[simp] theorem State.setCtl_cur (c : Nat) (x : Ctl) : (s.setCtl c x).cur = s.cur := rfl
@[simp] theorem State.setCtl_fresh (c : Nat) (x : Ctl) : (s.setCtl c x).fresh = s.fresh := rfl
@[simp] theorem State.setCtl_nextId (c : Nat) (x : Ctl) : (s.setCtl c x).nextId = s.nextId := rfl
@[simp] theorem State.setCtl_powered (c : Nat) (x : Ctl) : (s.setCtl c x).powered = s.powered := rfl
@[simp] theorem State.setCtl_fab (c : Nat) (x : Ctl) : (s.setCtl c x).fab = s.fab := rfl
@[simp] theorem State.setCtl_stk (c : Nat) (x : Ctl) : (s.setCtl c x).stk = s.stk := rfl
@[simp] theorem State.setCtl_ns (c : Nat) (x : Ctl) : (s.setCtl c x).ns = s.ns := rfl
@[simp] theorem State.setCtl_mem (c : Nat) (x : Ctl) : (s.setCtl c x).mem = s.mem := rfl
@[simp] theorem State.setCtl_teams (c : Nat) (x : Ctl) : (s.setCtl c x).teams = s.teams := rfl
@[simp] theorem State.setCtl_cores (c : Nat) (x : Ctl) : (s.setCtl c x).cores = s.cores.set c { s.coreOf c with ctl := x } := rfl
@[simp] theorem State.setCtl_gangs (c : Nat) (x : Ctl) : (s.setCtl c x).gangs = s.gangs := rfl
@[simp] theorem State.setCtl_launches (c : Nat) (x : Ctl) : (s.setCtl c x).launches = s.launches := rfl
@[simp] theorem State.setCtl_parts (c : Nat) (x : Ctl) : (s.setCtl c x).parts = s.parts := rfl
@[simp] theorem State.setCtl_vds (c : Nat) (x : Ctl) : (s.setCtl c x).vds = s.vds := rfl
@[simp] theorem State.setCtl_ctxs (c : Nat) (x : Ctl) : (s.setCtl c x).ctxs = s.ctxs := rfl
@[simp] theorem State.setCtl_served (c : Nat) (x : Ctl) : (s.setCtl c x).served = s.served := rfl
@[simp] theorem State.setCtl_arbs (c : Nat) (x : Ctl) : (s.setCtl c x).arbs = s.arbs := rfl
@[simp] theorem State.setCtl_wayqs (c : Nat) (x : Ctl) : (s.setCtl c x).wayqs = s.wayqs := rfl
@[simp] theorem State.setCtl_convWays (c : Nat) (x : Ctl) : (s.setCtl c x).convWays = s.convWays := rfl
@[simp] theorem State.setCtl_poolWays (c : Nat) (x : Ctl) : (s.setCtl c x).poolWays = s.poolWays := rfl
@[simp] theorem State.setCtl_seals (c : Nat) (x : Ctl) : (s.setCtl c x).seals = s.seals := rfl
@[simp] theorem State.setCtl_bypass (c : Nat) (x : Ctl) : (s.setCtl c x).bypass = s.bypass := rfl
@[simp] theorem State.setCtl_lines (c : Nat) (x : Ctl) : (s.setCtl c x).lines = s.lines := rfl
@[simp] theorem State.setCtl_tiles (c : Nat) (x : Ctl) : (s.setCtl c x).tiles = s.tiles := rfl
@[simp] theorem State.setCtl_lts (c : Nat) (x : Ctl) : (s.setCtl c x).lts = s.lts := rfl
@[simp] theorem State.setCtl_dieTlbs (c : Nat) (x : Ctl) : (s.setCtl c x).dieTlbs = s.dieTlbs := rfl
@[simp] theorem State.setCtl_locks (c : Nat) (x : Ctl) : (s.setCtl c x).locks = s.locks := rfl
@[simp] theorem State.setCtl_ops (c : Nat) (x : Ctl) : (s.setCtl c x).ops = s.ops := rfl
@[simp] theorem State.setCtl_sigs (c : Nat) (x : Ctl) : (s.setCtl c x).sigs = s.sigs := rfl
@[simp] theorem State.setCtl_faults (c : Nat) (x : Ctl) : (s.setCtl c x).faults = s.faults := rfl
@[simp] theorem State.setCtl_win (c : Nat) (x : Ctl) : (s.setCtl c x).win = s.win := rfl
@[simp] theorem State.setCtl_winExp (c : Nat) (x : Ctl) : (s.setCtl c x).winExp = s.winExp := rfl
@[simp] theorem State.setCtl_wto (c : Nat) (x : Ctl) : (s.setCtl c x).wto = s.wto := rfl
@[simp] theorem State.setCtl_rto (c : Nat) (x : Ctl) : (s.setCtl c x).rto = s.rto := rfl
@[simp] theorem State.setCtl_streams (c : Nat) (x : Ctl) : (s.setCtl c x).streams = s.streams := rfl
@[simp] theorem State.setCtl_device (c : Nat) (x : Ctl) : (s.setCtl c x).device = s.device := rfl
@[simp] theorem State.setCtl_ptp (c : Nat) (x : Ctl) : (s.setCtl c x).ptp = s.ptp := rfl
@[simp] theorem State.setCtl_stamps (c : Nat) (x : Ctl) : (s.setCtl c x).stamps = s.stamps := rfl
@[simp] theorem State.setCtl_notices (c : Nat) (x : Ctl) : (s.setCtl c x).notices = s.notices := rfl
@[simp] theorem State.setCtl_filters (c : Nat) (x : Ctl) : (s.setCtl c x).filters = s.filters := rfl
@[simp] theorem State.setCtl_treelets (c : Nat) (x : Ctl) : (s.setCtl c x).treelets = s.treelets := rfl
@[simp] theorem State.setCtl_tlq (c : Nat) (x : Ctl) : (s.setCtl c x).tlq = s.tlq := rfl
@[simp] theorem State.setCtl_rays (c : Nat) (x : Ctl) : (s.setCtl c x).rays = s.rays := rfl
@[simp] theorem State.setCtl_trring (c : Nat) (x : Ctl) : (s.setCtl c x).trring = s.trring := rfl
@[simp] theorem State.setCtl_trqlim (c : Nat) (x : Ctl) : (s.setCtl c x).trqlim = s.trqlim := rfl
@[simp] theorem State.setCtl_scmds (c : Nat) (x : Ctl) : (s.setCtl c x).scmds = s.scmds := rfl
@[simp] theorem State.setCtl_sessions (c : Nat) (x : Ctl) : (s.setCtl c x).sessions = s.sessions := rfl
@[simp] theorem State.setCtl_deferred (c : Nat) (x : Ctl) : (s.setCtl c x).deferred = s.deferred := rfl
@[simp] theorem State.setCtl_plain (c : Nat) (x : Ctl) : (s.setCtl c x).plain = s.plain := rfl
@[simp] theorem State.setCtl_rcmds (c : Nat) (x : Ctl) : (s.setCtl c x).rcmds = s.rcmds := rfl
@[simp] theorem State.setCtl_heads (c : Nat) (x : Ctl) : (s.setCtl c x).heads = s.heads := rfl
@[simp] theorem State.setCtl_eth (c : Nat) (x : Ctl) : (s.setCtl c x).eth = s.eth := rfl
@[simp] theorem State.setCtl_fketype (c : Nat) (x : Ctl) : (s.setCtl c x).fketype = s.fketype := rfl
@[simp] theorem State.setCtl_mail (c : Nat) (x : Ctl) : (s.setCtl c x).mail = s.mail := rfl
@[simp] theorem State.setCtl_islands (c : Nat) (x : Ctl) : (s.setCtl c x).islands = s.islands := rfl
@[simp] theorem State.setCtl_toRenweaz (c : Nat) (x : Ctl) : (s.setCtl c x).toRenweaz = s.toRenweaz := rfl
@[simp] theorem State.setCtl_inReset (c : Nat) (x : Ctl) : (s.setCtl c x).inReset = s.inReset := rfl

/-! State.setGang. -/

@[simp] theorem State.setGang_agenda (n : Nat) (g : Gang) : (s.setGang n g).agenda = s.agenda := rfl
@[simp] theorem State.setGang_cur (n : Nat) (g : Gang) : (s.setGang n g).cur = s.cur := rfl
@[simp] theorem State.setGang_fresh (n : Nat) (g : Gang) : (s.setGang n g).fresh = s.fresh := rfl
@[simp] theorem State.setGang_nextId (n : Nat) (g : Gang) : (s.setGang n g).nextId = s.nextId := rfl
@[simp] theorem State.setGang_powered (n : Nat) (g : Gang) : (s.setGang n g).powered = s.powered := rfl
@[simp] theorem State.setGang_fab (n : Nat) (g : Gang) : (s.setGang n g).fab = s.fab := rfl
@[simp] theorem State.setGang_stk (n : Nat) (g : Gang) : (s.setGang n g).stk = s.stk := rfl
@[simp] theorem State.setGang_ns (n : Nat) (g : Gang) : (s.setGang n g).ns = s.ns := rfl
@[simp] theorem State.setGang_mem (n : Nat) (g : Gang) : (s.setGang n g).mem = s.mem := rfl
@[simp] theorem State.setGang_teams (n : Nat) (g : Gang) : (s.setGang n g).teams = s.teams := rfl
@[simp] theorem State.setGang_cores (n : Nat) (g : Gang) : (s.setGang n g).cores = s.cores := rfl
@[simp] theorem State.setGang_gangs (n : Nat) (g : Gang) : (s.setGang n g).gangs = s.gangs.set n g := rfl
@[simp] theorem State.setGang_launches (n : Nat) (g : Gang) : (s.setGang n g).launches = s.launches := rfl
@[simp] theorem State.setGang_parts (n : Nat) (g : Gang) : (s.setGang n g).parts = s.parts := rfl
@[simp] theorem State.setGang_vds (n : Nat) (g : Gang) : (s.setGang n g).vds = s.vds := rfl
@[simp] theorem State.setGang_ctxs (n : Nat) (g : Gang) : (s.setGang n g).ctxs = s.ctxs := rfl
@[simp] theorem State.setGang_served (n : Nat) (g : Gang) : (s.setGang n g).served = s.served := rfl
@[simp] theorem State.setGang_arbs (n : Nat) (g : Gang) : (s.setGang n g).arbs = s.arbs := rfl
@[simp] theorem State.setGang_wayqs (n : Nat) (g : Gang) : (s.setGang n g).wayqs = s.wayqs := rfl
@[simp] theorem State.setGang_convWays (n : Nat) (g : Gang) : (s.setGang n g).convWays = s.convWays := rfl
@[simp] theorem State.setGang_poolWays (n : Nat) (g : Gang) : (s.setGang n g).poolWays = s.poolWays := rfl
@[simp] theorem State.setGang_seals (n : Nat) (g : Gang) : (s.setGang n g).seals = s.seals := rfl
@[simp] theorem State.setGang_bypass (n : Nat) (g : Gang) : (s.setGang n g).bypass = s.bypass := rfl
@[simp] theorem State.setGang_lines (n : Nat) (g : Gang) : (s.setGang n g).lines = s.lines := rfl
@[simp] theorem State.setGang_tiles (n : Nat) (g : Gang) : (s.setGang n g).tiles = s.tiles := rfl
@[simp] theorem State.setGang_lts (n : Nat) (g : Gang) : (s.setGang n g).lts = s.lts := rfl
@[simp] theorem State.setGang_dieTlbs (n : Nat) (g : Gang) : (s.setGang n g).dieTlbs = s.dieTlbs := rfl
@[simp] theorem State.setGang_locks (n : Nat) (g : Gang) : (s.setGang n g).locks = s.locks := rfl
@[simp] theorem State.setGang_ops (n : Nat) (g : Gang) : (s.setGang n g).ops = s.ops := rfl
@[simp] theorem State.setGang_sigs (n : Nat) (g : Gang) : (s.setGang n g).sigs = s.sigs := rfl
@[simp] theorem State.setGang_faults (n : Nat) (g : Gang) : (s.setGang n g).faults = s.faults := rfl
@[simp] theorem State.setGang_win (n : Nat) (g : Gang) : (s.setGang n g).win = s.win := rfl
@[simp] theorem State.setGang_winExp (n : Nat) (g : Gang) : (s.setGang n g).winExp = s.winExp := rfl
@[simp] theorem State.setGang_wto (n : Nat) (g : Gang) : (s.setGang n g).wto = s.wto := rfl
@[simp] theorem State.setGang_rto (n : Nat) (g : Gang) : (s.setGang n g).rto = s.rto := rfl
@[simp] theorem State.setGang_streams (n : Nat) (g : Gang) : (s.setGang n g).streams = s.streams := rfl
@[simp] theorem State.setGang_device (n : Nat) (g : Gang) : (s.setGang n g).device = s.device := rfl
@[simp] theorem State.setGang_ptp (n : Nat) (g : Gang) : (s.setGang n g).ptp = s.ptp := rfl
@[simp] theorem State.setGang_stamps (n : Nat) (g : Gang) : (s.setGang n g).stamps = s.stamps := rfl
@[simp] theorem State.setGang_notices (n : Nat) (g : Gang) : (s.setGang n g).notices = s.notices := rfl
@[simp] theorem State.setGang_filters (n : Nat) (g : Gang) : (s.setGang n g).filters = s.filters := rfl
@[simp] theorem State.setGang_treelets (n : Nat) (g : Gang) : (s.setGang n g).treelets = s.treelets := rfl
@[simp] theorem State.setGang_tlq (n : Nat) (g : Gang) : (s.setGang n g).tlq = s.tlq := rfl
@[simp] theorem State.setGang_rays (n : Nat) (g : Gang) : (s.setGang n g).rays = s.rays := rfl
@[simp] theorem State.setGang_trring (n : Nat) (g : Gang) : (s.setGang n g).trring = s.trring := rfl
@[simp] theorem State.setGang_trqlim (n : Nat) (g : Gang) : (s.setGang n g).trqlim = s.trqlim := rfl
@[simp] theorem State.setGang_scmds (n : Nat) (g : Gang) : (s.setGang n g).scmds = s.scmds := rfl
@[simp] theorem State.setGang_sessions (n : Nat) (g : Gang) : (s.setGang n g).sessions = s.sessions := rfl
@[simp] theorem State.setGang_deferred (n : Nat) (g : Gang) : (s.setGang n g).deferred = s.deferred := rfl
@[simp] theorem State.setGang_plain (n : Nat) (g : Gang) : (s.setGang n g).plain = s.plain := rfl
@[simp] theorem State.setGang_rcmds (n : Nat) (g : Gang) : (s.setGang n g).rcmds = s.rcmds := rfl
@[simp] theorem State.setGang_heads (n : Nat) (g : Gang) : (s.setGang n g).heads = s.heads := rfl
@[simp] theorem State.setGang_eth (n : Nat) (g : Gang) : (s.setGang n g).eth = s.eth := rfl
@[simp] theorem State.setGang_fketype (n : Nat) (g : Gang) : (s.setGang n g).fketype = s.fketype := rfl
@[simp] theorem State.setGang_mail (n : Nat) (g : Gang) : (s.setGang n g).mail = s.mail := rfl
@[simp] theorem State.setGang_islands (n : Nat) (g : Gang) : (s.setGang n g).islands = s.islands := rfl
@[simp] theorem State.setGang_toRenweaz (n : Nat) (g : Gang) : (s.setGang n g).toRenweaz = s.toRenweaz := rfl
@[simp] theorem State.setGang_inReset (n : Nat) (g : Gang) : (s.setGang n g).inReset = s.inReset := rfl

/-! State.setCtx. -/

@[simp] theorem State.setCtx_agenda (c : CtxId) (x : Ctx) : (s.setCtx c x).agenda = s.agenda := rfl
@[simp] theorem State.setCtx_cur (c : CtxId) (x : Ctx) : (s.setCtx c x).cur = s.cur := rfl
@[simp] theorem State.setCtx_fresh (c : CtxId) (x : Ctx) : (s.setCtx c x).fresh = s.fresh := rfl
@[simp] theorem State.setCtx_nextId (c : CtxId) (x : Ctx) : (s.setCtx c x).nextId = s.nextId := rfl
@[simp] theorem State.setCtx_powered (c : CtxId) (x : Ctx) : (s.setCtx c x).powered = s.powered := rfl
@[simp] theorem State.setCtx_fab (c : CtxId) (x : Ctx) : (s.setCtx c x).fab = s.fab := rfl
@[simp] theorem State.setCtx_stk (c : CtxId) (x : Ctx) : (s.setCtx c x).stk = s.stk := rfl
@[simp] theorem State.setCtx_ns (c : CtxId) (x : Ctx) : (s.setCtx c x).ns = s.ns := rfl
@[simp] theorem State.setCtx_mem (c : CtxId) (x : Ctx) : (s.setCtx c x).mem = s.mem := rfl
@[simp] theorem State.setCtx_teams (c : CtxId) (x : Ctx) : (s.setCtx c x).teams = s.teams := rfl
@[simp] theorem State.setCtx_cores (c : CtxId) (x : Ctx) : (s.setCtx c x).cores = s.cores := rfl
@[simp] theorem State.setCtx_gangs (c : CtxId) (x : Ctx) : (s.setCtx c x).gangs = s.gangs := rfl
@[simp] theorem State.setCtx_launches (c : CtxId) (x : Ctx) : (s.setCtx c x).launches = s.launches := rfl
@[simp] theorem State.setCtx_parts (c : CtxId) (x : Ctx) : (s.setCtx c x).parts = s.parts := rfl
@[simp] theorem State.setCtx_vds (c : CtxId) (x : Ctx) : (s.setCtx c x).vds = s.vds := rfl
@[simp] theorem State.setCtx_ctxs (c : CtxId) (x : Ctx) : (s.setCtx c x).ctxs = s.ctxs.set (cxKey c) x := rfl
@[simp] theorem State.setCtx_served (c : CtxId) (x : Ctx) : (s.setCtx c x).served = s.served := rfl
@[simp] theorem State.setCtx_arbs (c : CtxId) (x : Ctx) : (s.setCtx c x).arbs = s.arbs := rfl
@[simp] theorem State.setCtx_wayqs (c : CtxId) (x : Ctx) : (s.setCtx c x).wayqs = s.wayqs := rfl
@[simp] theorem State.setCtx_convWays (c : CtxId) (x : Ctx) : (s.setCtx c x).convWays = s.convWays := rfl
@[simp] theorem State.setCtx_poolWays (c : CtxId) (x : Ctx) : (s.setCtx c x).poolWays = s.poolWays := rfl
@[simp] theorem State.setCtx_seals (c : CtxId) (x : Ctx) : (s.setCtx c x).seals = s.seals := rfl
@[simp] theorem State.setCtx_bypass (c : CtxId) (x : Ctx) : (s.setCtx c x).bypass = s.bypass := rfl
@[simp] theorem State.setCtx_lines (c : CtxId) (x : Ctx) : (s.setCtx c x).lines = s.lines := rfl
@[simp] theorem State.setCtx_tiles (c : CtxId) (x : Ctx) : (s.setCtx c x).tiles = s.tiles := rfl
@[simp] theorem State.setCtx_lts (c : CtxId) (x : Ctx) : (s.setCtx c x).lts = s.lts := rfl
@[simp] theorem State.setCtx_dieTlbs (c : CtxId) (x : Ctx) : (s.setCtx c x).dieTlbs = s.dieTlbs := rfl
@[simp] theorem State.setCtx_locks (c : CtxId) (x : Ctx) : (s.setCtx c x).locks = s.locks := rfl
@[simp] theorem State.setCtx_ops (c : CtxId) (x : Ctx) : (s.setCtx c x).ops = s.ops := rfl
@[simp] theorem State.setCtx_sigs (c : CtxId) (x : Ctx) : (s.setCtx c x).sigs = s.sigs := rfl
@[simp] theorem State.setCtx_faults (c : CtxId) (x : Ctx) : (s.setCtx c x).faults = s.faults := rfl
@[simp] theorem State.setCtx_win (c : CtxId) (x : Ctx) : (s.setCtx c x).win = s.win := rfl
@[simp] theorem State.setCtx_winExp (c : CtxId) (x : Ctx) : (s.setCtx c x).winExp = s.winExp := rfl
@[simp] theorem State.setCtx_wto (c : CtxId) (x : Ctx) : (s.setCtx c x).wto = s.wto := rfl
@[simp] theorem State.setCtx_rto (c : CtxId) (x : Ctx) : (s.setCtx c x).rto = s.rto := rfl
@[simp] theorem State.setCtx_streams (c : CtxId) (x : Ctx) : (s.setCtx c x).streams = s.streams := rfl
@[simp] theorem State.setCtx_device (c : CtxId) (x : Ctx) : (s.setCtx c x).device = s.device := rfl
@[simp] theorem State.setCtx_ptp (c : CtxId) (x : Ctx) : (s.setCtx c x).ptp = s.ptp := rfl
@[simp] theorem State.setCtx_stamps (c : CtxId) (x : Ctx) : (s.setCtx c x).stamps = s.stamps := rfl
@[simp] theorem State.setCtx_notices (c : CtxId) (x : Ctx) : (s.setCtx c x).notices = s.notices := rfl
@[simp] theorem State.setCtx_filters (c : CtxId) (x : Ctx) : (s.setCtx c x).filters = s.filters := rfl
@[simp] theorem State.setCtx_treelets (c : CtxId) (x : Ctx) : (s.setCtx c x).treelets = s.treelets := rfl
@[simp] theorem State.setCtx_tlq (c : CtxId) (x : Ctx) : (s.setCtx c x).tlq = s.tlq := rfl
@[simp] theorem State.setCtx_rays (c : CtxId) (x : Ctx) : (s.setCtx c x).rays = s.rays := rfl
@[simp] theorem State.setCtx_trring (c : CtxId) (x : Ctx) : (s.setCtx c x).trring = s.trring := rfl
@[simp] theorem State.setCtx_trqlim (c : CtxId) (x : Ctx) : (s.setCtx c x).trqlim = s.trqlim := rfl
@[simp] theorem State.setCtx_scmds (c : CtxId) (x : Ctx) : (s.setCtx c x).scmds = s.scmds := rfl
@[simp] theorem State.setCtx_sessions (c : CtxId) (x : Ctx) : (s.setCtx c x).sessions = s.sessions := rfl
@[simp] theorem State.setCtx_deferred (c : CtxId) (x : Ctx) : (s.setCtx c x).deferred = s.deferred := rfl
@[simp] theorem State.setCtx_plain (c : CtxId) (x : Ctx) : (s.setCtx c x).plain = s.plain := rfl
@[simp] theorem State.setCtx_rcmds (c : CtxId) (x : Ctx) : (s.setCtx c x).rcmds = s.rcmds := rfl
@[simp] theorem State.setCtx_heads (c : CtxId) (x : Ctx) : (s.setCtx c x).heads = s.heads := rfl
@[simp] theorem State.setCtx_eth (c : CtxId) (x : Ctx) : (s.setCtx c x).eth = s.eth := rfl
@[simp] theorem State.setCtx_fketype (c : CtxId) (x : Ctx) : (s.setCtx c x).fketype = s.fketype := rfl
@[simp] theorem State.setCtx_mail (c : CtxId) (x : Ctx) : (s.setCtx c x).mail = s.mail := rfl
@[simp] theorem State.setCtx_islands (c : CtxId) (x : Ctx) : (s.setCtx c x).islands = s.islands := rfl
@[simp] theorem State.setCtx_toRenweaz (c : CtxId) (x : Ctx) : (s.setCtx c x).toRenweaz = s.toRenweaz := rfl
@[simp] theorem State.setCtx_inReset (c : CtxId) (x : Ctx) : (s.setCtx c x).inReset = s.inReset := rfl

/-! State.newId. -/

@[simp] theorem State.newId_agenda : (s.newId.2).agenda = s.agenda := rfl
@[simp] theorem State.newId_cur : (s.newId.2).cur = s.cur := rfl
@[simp] theorem State.newId_fresh : (s.newId.2).fresh = s.fresh := rfl
@[simp] theorem State.newId_nextId : (s.newId.2).nextId = s.nextId + 1 := rfl
@[simp] theorem State.newId_powered : (s.newId.2).powered = s.powered := rfl
@[simp] theorem State.newId_fab : (s.newId.2).fab = s.fab := rfl
@[simp] theorem State.newId_stk : (s.newId.2).stk = s.stk := rfl
@[simp] theorem State.newId_ns : (s.newId.2).ns = s.ns := rfl
@[simp] theorem State.newId_mem : (s.newId.2).mem = s.mem := rfl
@[simp] theorem State.newId_teams : (s.newId.2).teams = s.teams := rfl
@[simp] theorem State.newId_cores : (s.newId.2).cores = s.cores := rfl
@[simp] theorem State.newId_gangs : (s.newId.2).gangs = s.gangs := rfl
@[simp] theorem State.newId_launches : (s.newId.2).launches = s.launches := rfl
@[simp] theorem State.newId_parts : (s.newId.2).parts = s.parts := rfl
@[simp] theorem State.newId_vds : (s.newId.2).vds = s.vds := rfl
@[simp] theorem State.newId_ctxs : (s.newId.2).ctxs = s.ctxs := rfl
@[simp] theorem State.newId_served : (s.newId.2).served = s.served := rfl
@[simp] theorem State.newId_arbs : (s.newId.2).arbs = s.arbs := rfl
@[simp] theorem State.newId_wayqs : (s.newId.2).wayqs = s.wayqs := rfl
@[simp] theorem State.newId_convWays : (s.newId.2).convWays = s.convWays := rfl
@[simp] theorem State.newId_poolWays : (s.newId.2).poolWays = s.poolWays := rfl
@[simp] theorem State.newId_seals : (s.newId.2).seals = s.seals := rfl
@[simp] theorem State.newId_bypass : (s.newId.2).bypass = s.bypass := rfl
@[simp] theorem State.newId_lines : (s.newId.2).lines = s.lines := rfl
@[simp] theorem State.newId_tiles : (s.newId.2).tiles = s.tiles := rfl
@[simp] theorem State.newId_lts : (s.newId.2).lts = s.lts := rfl
@[simp] theorem State.newId_dieTlbs : (s.newId.2).dieTlbs = s.dieTlbs := rfl
@[simp] theorem State.newId_locks : (s.newId.2).locks = s.locks := rfl
@[simp] theorem State.newId_ops : (s.newId.2).ops = s.ops := rfl
@[simp] theorem State.newId_sigs : (s.newId.2).sigs = s.sigs := rfl
@[simp] theorem State.newId_faults : (s.newId.2).faults = s.faults := rfl
@[simp] theorem State.newId_win : (s.newId.2).win = s.win := rfl
@[simp] theorem State.newId_winExp : (s.newId.2).winExp = s.winExp := rfl
@[simp] theorem State.newId_wto : (s.newId.2).wto = s.wto := rfl
@[simp] theorem State.newId_rto : (s.newId.2).rto = s.rto := rfl
@[simp] theorem State.newId_streams : (s.newId.2).streams = s.streams := rfl
@[simp] theorem State.newId_device : (s.newId.2).device = s.device := rfl
@[simp] theorem State.newId_ptp : (s.newId.2).ptp = s.ptp := rfl
@[simp] theorem State.newId_stamps : (s.newId.2).stamps = s.stamps := rfl
@[simp] theorem State.newId_notices : (s.newId.2).notices = s.notices := rfl
@[simp] theorem State.newId_filters : (s.newId.2).filters = s.filters := rfl
@[simp] theorem State.newId_treelets : (s.newId.2).treelets = s.treelets := rfl
@[simp] theorem State.newId_tlq : (s.newId.2).tlq = s.tlq := rfl
@[simp] theorem State.newId_rays : (s.newId.2).rays = s.rays := rfl
@[simp] theorem State.newId_trring : (s.newId.2).trring = s.trring := rfl
@[simp] theorem State.newId_trqlim : (s.newId.2).trqlim = s.trqlim := rfl
@[simp] theorem State.newId_scmds : (s.newId.2).scmds = s.scmds := rfl
@[simp] theorem State.newId_sessions : (s.newId.2).sessions = s.sessions := rfl
@[simp] theorem State.newId_deferred : (s.newId.2).deferred = s.deferred := rfl
@[simp] theorem State.newId_plain : (s.newId.2).plain = s.plain := rfl
@[simp] theorem State.newId_rcmds : (s.newId.2).rcmds = s.rcmds := rfl
@[simp] theorem State.newId_heads : (s.newId.2).heads = s.heads := rfl
@[simp] theorem State.newId_eth : (s.newId.2).eth = s.eth := rfl
@[simp] theorem State.newId_fketype : (s.newId.2).fketype = s.fketype := rfl
@[simp] theorem State.newId_mail : (s.newId.2).mail = s.mail := rfl
@[simp] theorem State.newId_islands : (s.newId.2).islands = s.islands := rfl
@[simp] theorem State.newId_toRenweaz : (s.newId.2).toRenweaz = s.toRenweaz := rfl
@[simp] theorem State.newId_inReset : (s.newId.2).inReset = s.inReset := rfl

/-! State.writePA. -/

@[simp] theorem State.writePA_agenda (pa n x : Nat) : (s.writePA pa n x).agenda = s.agenda := rfl
@[simp] theorem State.writePA_cur (pa n x : Nat) : (s.writePA pa n x).cur = s.cur := rfl
@[simp] theorem State.writePA_fresh (pa n x : Nat) : (s.writePA pa n x).fresh = s.fresh := rfl
@[simp] theorem State.writePA_nextId (pa n x : Nat) : (s.writePA pa n x).nextId = s.nextId := rfl
@[simp] theorem State.writePA_powered (pa n x : Nat) : (s.writePA pa n x).powered = s.powered := rfl
@[simp] theorem State.writePA_fab (pa n x : Nat) : (s.writePA pa n x).fab = s.fab := rfl
@[simp] theorem State.writePA_stk (pa n x : Nat) : (s.writePA pa n x).stk = s.stk := rfl
@[simp] theorem State.writePA_ns (pa n x : Nat) : (s.writePA pa n x).ns = s.ns := rfl
@[simp] theorem State.writePA_mem (pa n x : Nat) : (s.writePA pa n x).mem = s.mem.writeKeys (keysFrom pa n) x := rfl
@[simp] theorem State.writePA_teams (pa n x : Nat) : (s.writePA pa n x).teams = s.teams := rfl
@[simp] theorem State.writePA_cores (pa n x : Nat) : (s.writePA pa n x).cores = s.cores := rfl
@[simp] theorem State.writePA_gangs (pa n x : Nat) : (s.writePA pa n x).gangs = s.gangs := rfl
@[simp] theorem State.writePA_launches (pa n x : Nat) : (s.writePA pa n x).launches = s.launches := rfl
@[simp] theorem State.writePA_parts (pa n x : Nat) : (s.writePA pa n x).parts = s.parts := rfl
@[simp] theorem State.writePA_vds (pa n x : Nat) : (s.writePA pa n x).vds = s.vds := rfl
@[simp] theorem State.writePA_ctxs (pa n x : Nat) : (s.writePA pa n x).ctxs = s.ctxs := rfl
@[simp] theorem State.writePA_served (pa n x : Nat) : (s.writePA pa n x).served = s.served := rfl
@[simp] theorem State.writePA_arbs (pa n x : Nat) : (s.writePA pa n x).arbs = s.arbs := rfl
@[simp] theorem State.writePA_wayqs (pa n x : Nat) : (s.writePA pa n x).wayqs = s.wayqs := rfl
@[simp] theorem State.writePA_convWays (pa n x : Nat) : (s.writePA pa n x).convWays = s.convWays := rfl
@[simp] theorem State.writePA_poolWays (pa n x : Nat) : (s.writePA pa n x).poolWays = s.poolWays := rfl
@[simp] theorem State.writePA_seals (pa n x : Nat) : (s.writePA pa n x).seals = s.seals := rfl
@[simp] theorem State.writePA_bypass (pa n x : Nat) : (s.writePA pa n x).bypass = s.bypass := rfl
@[simp] theorem State.writePA_lines (pa n x : Nat) : (s.writePA pa n x).lines = s.lines := rfl
@[simp] theorem State.writePA_tiles (pa n x : Nat) : (s.writePA pa n x).tiles = s.tiles := rfl
@[simp] theorem State.writePA_lts (pa n x : Nat) : (s.writePA pa n x).lts = s.lts + 1 := rfl
@[simp] theorem State.writePA_dieTlbs (pa n x : Nat) : (s.writePA pa n x).dieTlbs = s.dieTlbs := rfl
@[simp] theorem State.writePA_locks (pa n x : Nat) : (s.writePA pa n x).locks = s.locks := rfl
@[simp] theorem State.writePA_ops (pa n x : Nat) : (s.writePA pa n x).ops = s.ops := rfl
@[simp] theorem State.writePA_sigs (pa n x : Nat) : (s.writePA pa n x).sigs = s.sigs := rfl
@[simp] theorem State.writePA_faults (pa n x : Nat) : (s.writePA pa n x).faults = s.faults := rfl
@[simp] theorem State.writePA_win (pa n x : Nat) : (s.writePA pa n x).win = s.win := rfl
@[simp] theorem State.writePA_winExp (pa n x : Nat) : (s.writePA pa n x).winExp = s.winExp := rfl
@[simp] theorem State.writePA_wto (pa n x : Nat) : (s.writePA pa n x).wto = s.wto := rfl
@[simp] theorem State.writePA_rto (pa n x : Nat) : (s.writePA pa n x).rto = s.rto := rfl
@[simp] theorem State.writePA_streams (pa n x : Nat) : (s.writePA pa n x).streams = s.streams := rfl
@[simp] theorem State.writePA_device (pa n x : Nat) : (s.writePA pa n x).device = s.device := rfl
@[simp] theorem State.writePA_ptp (pa n x : Nat) : (s.writePA pa n x).ptp = s.ptp := rfl
@[simp] theorem State.writePA_stamps (pa n x : Nat) : (s.writePA pa n x).stamps = s.stamps := rfl
@[simp] theorem State.writePA_notices (pa n x : Nat) : (s.writePA pa n x).notices = s.notices := rfl
@[simp] theorem State.writePA_filters (pa n x : Nat) : (s.writePA pa n x).filters = s.filters := rfl
@[simp] theorem State.writePA_treelets (pa n x : Nat) : (s.writePA pa n x).treelets = s.treelets := rfl
@[simp] theorem State.writePA_tlq (pa n x : Nat) : (s.writePA pa n x).tlq = s.tlq := rfl
@[simp] theorem State.writePA_rays (pa n x : Nat) : (s.writePA pa n x).rays = s.rays := rfl
@[simp] theorem State.writePA_trring (pa n x : Nat) : (s.writePA pa n x).trring = s.trring := rfl
@[simp] theorem State.writePA_trqlim (pa n x : Nat) : (s.writePA pa n x).trqlim = s.trqlim := rfl
@[simp] theorem State.writePA_scmds (pa n x : Nat) : (s.writePA pa n x).scmds = s.scmds := rfl
@[simp] theorem State.writePA_sessions (pa n x : Nat) : (s.writePA pa n x).sessions = s.sessions := rfl
@[simp] theorem State.writePA_deferred (pa n x : Nat) : (s.writePA pa n x).deferred = s.deferred := rfl
@[simp] theorem State.writePA_plain (pa n x : Nat) : (s.writePA pa n x).plain = s.plain := rfl
@[simp] theorem State.writePA_rcmds (pa n x : Nat) : (s.writePA pa n x).rcmds = s.rcmds := rfl
@[simp] theorem State.writePA_heads (pa n x : Nat) : (s.writePA pa n x).heads = s.heads := rfl
@[simp] theorem State.writePA_eth (pa n x : Nat) : (s.writePA pa n x).eth = s.eth := rfl
@[simp] theorem State.writePA_fketype (pa n x : Nat) : (s.writePA pa n x).fketype = s.fketype := rfl
@[simp] theorem State.writePA_mail (pa n x : Nat) : (s.writePA pa n x).mail = s.mail := rfl
@[simp] theorem State.writePA_islands (pa n x : Nat) : (s.writePA pa n x).islands = s.islands := rfl
@[simp] theorem State.writePA_toRenweaz (pa n x : Nat) : (s.writePA pa n x).toRenweaz = s.toRenweaz := rfl
@[simp] theorem State.writePA_inReset (pa n x : Nat) : (s.writePA pa n x).inReset = s.inReset := rfl

/-! State.postNotice. -/

@[simp] theorem State.postNotice_agenda (v k : Nat) (l : List Nat) : (s.postNotice v k l).agenda = s.agenda := rfl
@[simp] theorem State.postNotice_cur (v k : Nat) (l : List Nat) : (s.postNotice v k l).cur = s.cur := rfl
@[simp] theorem State.postNotice_fresh (v k : Nat) (l : List Nat) : (s.postNotice v k l).fresh = s.fresh := rfl
@[simp] theorem State.postNotice_nextId (v k : Nat) (l : List Nat) : (s.postNotice v k l).nextId = s.nextId := rfl
@[simp] theorem State.postNotice_powered (v k : Nat) (l : List Nat) : (s.postNotice v k l).powered = s.powered := rfl
@[simp] theorem State.postNotice_fab (v k : Nat) (l : List Nat) : (s.postNotice v k l).fab = s.fab := rfl
@[simp] theorem State.postNotice_stk (v k : Nat) (l : List Nat) : (s.postNotice v k l).stk = s.stk := rfl
@[simp] theorem State.postNotice_ns (v k : Nat) (l : List Nat) : (s.postNotice v k l).ns = s.ns := rfl
@[simp] theorem State.postNotice_mem (v k : Nat) (l : List Nat) : (s.postNotice v k l).mem = s.mem := rfl
@[simp] theorem State.postNotice_teams (v k : Nat) (l : List Nat) : (s.postNotice v k l).teams = s.teams := rfl
@[simp] theorem State.postNotice_cores (v k : Nat) (l : List Nat) : (s.postNotice v k l).cores = s.cores := rfl
@[simp] theorem State.postNotice_gangs (v k : Nat) (l : List Nat) : (s.postNotice v k l).gangs = s.gangs := rfl
@[simp] theorem State.postNotice_launches (v k : Nat) (l : List Nat) : (s.postNotice v k l).launches = s.launches := rfl
@[simp] theorem State.postNotice_parts (v k : Nat) (l : List Nat) : (s.postNotice v k l).parts = s.parts := rfl
@[simp] theorem State.postNotice_vds (v k : Nat) (l : List Nat) : (s.postNotice v k l).vds = s.vds := rfl
@[simp] theorem State.postNotice_ctxs (v k : Nat) (l : List Nat) : (s.postNotice v k l).ctxs = s.ctxs := rfl
@[simp] theorem State.postNotice_served (v k : Nat) (l : List Nat) : (s.postNotice v k l).served = s.served := rfl
@[simp] theorem State.postNotice_arbs (v k : Nat) (l : List Nat) : (s.postNotice v k l).arbs = s.arbs := rfl
@[simp] theorem State.postNotice_wayqs (v k : Nat) (l : List Nat) : (s.postNotice v k l).wayqs = s.wayqs := rfl
@[simp] theorem State.postNotice_convWays (v k : Nat) (l : List Nat) : (s.postNotice v k l).convWays = s.convWays := rfl
@[simp] theorem State.postNotice_poolWays (v k : Nat) (l : List Nat) : (s.postNotice v k l).poolWays = s.poolWays := rfl
@[simp] theorem State.postNotice_seals (v k : Nat) (l : List Nat) : (s.postNotice v k l).seals = s.seals := rfl
@[simp] theorem State.postNotice_bypass (v k : Nat) (l : List Nat) : (s.postNotice v k l).bypass = s.bypass := rfl
@[simp] theorem State.postNotice_lines (v k : Nat) (l : List Nat) : (s.postNotice v k l).lines = s.lines := rfl
@[simp] theorem State.postNotice_tiles (v k : Nat) (l : List Nat) : (s.postNotice v k l).tiles = s.tiles := rfl
@[simp] theorem State.postNotice_lts (v k : Nat) (l : List Nat) : (s.postNotice v k l).lts = s.lts := rfl
@[simp] theorem State.postNotice_dieTlbs (v k : Nat) (l : List Nat) : (s.postNotice v k l).dieTlbs = s.dieTlbs := rfl
@[simp] theorem State.postNotice_locks (v k : Nat) (l : List Nat) : (s.postNotice v k l).locks = s.locks := rfl
@[simp] theorem State.postNotice_ops (v k : Nat) (l : List Nat) : (s.postNotice v k l).ops = s.ops := rfl
@[simp] theorem State.postNotice_sigs (v k : Nat) (l : List Nat) : (s.postNotice v k l).sigs = s.sigs := rfl
@[simp] theorem State.postNotice_faults (v k : Nat) (l : List Nat) : (s.postNotice v k l).faults = s.faults := rfl
@[simp] theorem State.postNotice_win (v k : Nat) (l : List Nat) : (s.postNotice v k l).win = s.win := rfl
@[simp] theorem State.postNotice_winExp (v k : Nat) (l : List Nat) : (s.postNotice v k l).winExp = s.winExp := rfl
@[simp] theorem State.postNotice_wto (v k : Nat) (l : List Nat) : (s.postNotice v k l).wto = s.wto := rfl
@[simp] theorem State.postNotice_rto (v k : Nat) (l : List Nat) : (s.postNotice v k l).rto = s.rto := rfl
@[simp] theorem State.postNotice_streams (v k : Nat) (l : List Nat) : (s.postNotice v k l).streams = s.streams := rfl
@[simp] theorem State.postNotice_device (v k : Nat) (l : List Nat) : (s.postNotice v k l).device = s.device := rfl
@[simp] theorem State.postNotice_ptp (v k : Nat) (l : List Nat) : (s.postNotice v k l).ptp = s.ptp := rfl
@[simp] theorem State.postNotice_stamps (v k : Nat) (l : List Nat) : (s.postNotice v k l).stamps = s.stamps := rfl
@[simp] theorem State.postNotice_notices (v k : Nat) (l : List Nat) : (s.postNotice v k l).notices = s.notices.set v (s.notices.get [] v ++ [{ kind := k, words := l }]) := rfl
@[simp] theorem State.postNotice_filters (v k : Nat) (l : List Nat) : (s.postNotice v k l).filters = s.filters := rfl
@[simp] theorem State.postNotice_treelets (v k : Nat) (l : List Nat) : (s.postNotice v k l).treelets = s.treelets := rfl
@[simp] theorem State.postNotice_tlq (v k : Nat) (l : List Nat) : (s.postNotice v k l).tlq = s.tlq := rfl
@[simp] theorem State.postNotice_rays (v k : Nat) (l : List Nat) : (s.postNotice v k l).rays = s.rays := rfl
@[simp] theorem State.postNotice_trring (v k : Nat) (l : List Nat) : (s.postNotice v k l).trring = s.trring := rfl
@[simp] theorem State.postNotice_trqlim (v k : Nat) (l : List Nat) : (s.postNotice v k l).trqlim = s.trqlim := rfl
@[simp] theorem State.postNotice_scmds (v k : Nat) (l : List Nat) : (s.postNotice v k l).scmds = s.scmds := rfl
@[simp] theorem State.postNotice_sessions (v k : Nat) (l : List Nat) : (s.postNotice v k l).sessions = s.sessions := rfl
@[simp] theorem State.postNotice_deferred (v k : Nat) (l : List Nat) : (s.postNotice v k l).deferred = s.deferred := rfl
@[simp] theorem State.postNotice_plain (v k : Nat) (l : List Nat) : (s.postNotice v k l).plain = s.plain := rfl
@[simp] theorem State.postNotice_rcmds (v k : Nat) (l : List Nat) : (s.postNotice v k l).rcmds = s.rcmds := rfl
@[simp] theorem State.postNotice_heads (v k : Nat) (l : List Nat) : (s.postNotice v k l).heads = s.heads := rfl
@[simp] theorem State.postNotice_eth (v k : Nat) (l : List Nat) : (s.postNotice v k l).eth = s.eth := rfl
@[simp] theorem State.postNotice_fketype (v k : Nat) (l : List Nat) : (s.postNotice v k l).fketype = s.fketype := rfl
@[simp] theorem State.postNotice_mail (v k : Nat) (l : List Nat) : (s.postNotice v k l).mail = s.mail := rfl
@[simp] theorem State.postNotice_islands (v k : Nat) (l : List Nat) : (s.postNotice v k l).islands = s.islands := rfl
@[simp] theorem State.postNotice_toRenweaz (v k : Nat) (l : List Nat) : (s.postNotice v k l).toRenweaz = s.toRenweaz := rfl
@[simp] theorem State.postNotice_inReset (v k : Nat) (l : List Nat) : (s.postNotice v k l).inReset = s.inReset := rfl

/-! State.setOp. -/

@[simp] theorem State.setOp_agenda (n : Nat) (o : EngOp) : (s.setOp n o).agenda = s.agenda := rfl
@[simp] theorem State.setOp_cur (n : Nat) (o : EngOp) : (s.setOp n o).cur = s.cur := rfl
@[simp] theorem State.setOp_fresh (n : Nat) (o : EngOp) : (s.setOp n o).fresh = s.fresh := rfl
@[simp] theorem State.setOp_nextId (n : Nat) (o : EngOp) : (s.setOp n o).nextId = s.nextId := rfl
@[simp] theorem State.setOp_powered (n : Nat) (o : EngOp) : (s.setOp n o).powered = s.powered := rfl
@[simp] theorem State.setOp_fab (n : Nat) (o : EngOp) : (s.setOp n o).fab = s.fab := rfl
@[simp] theorem State.setOp_stk (n : Nat) (o : EngOp) : (s.setOp n o).stk = s.stk := rfl
@[simp] theorem State.setOp_ns (n : Nat) (o : EngOp) : (s.setOp n o).ns = s.ns := rfl
@[simp] theorem State.setOp_mem (n : Nat) (o : EngOp) : (s.setOp n o).mem = s.mem := rfl
@[simp] theorem State.setOp_teams (n : Nat) (o : EngOp) : (s.setOp n o).teams = s.teams := rfl
@[simp] theorem State.setOp_cores (n : Nat) (o : EngOp) : (s.setOp n o).cores = s.cores := rfl
@[simp] theorem State.setOp_gangs (n : Nat) (o : EngOp) : (s.setOp n o).gangs = s.gangs := rfl
@[simp] theorem State.setOp_launches (n : Nat) (o : EngOp) : (s.setOp n o).launches = s.launches := rfl
@[simp] theorem State.setOp_parts (n : Nat) (o : EngOp) : (s.setOp n o).parts = s.parts := rfl
@[simp] theorem State.setOp_vds (n : Nat) (o : EngOp) : (s.setOp n o).vds = s.vds := rfl
@[simp] theorem State.setOp_ctxs (n : Nat) (o : EngOp) : (s.setOp n o).ctxs = s.ctxs := rfl
@[simp] theorem State.setOp_served (n : Nat) (o : EngOp) : (s.setOp n o).served = s.served := rfl
@[simp] theorem State.setOp_arbs (n : Nat) (o : EngOp) : (s.setOp n o).arbs = s.arbs := rfl
@[simp] theorem State.setOp_wayqs (n : Nat) (o : EngOp) : (s.setOp n o).wayqs = s.wayqs := rfl
@[simp] theorem State.setOp_convWays (n : Nat) (o : EngOp) : (s.setOp n o).convWays = s.convWays := rfl
@[simp] theorem State.setOp_poolWays (n : Nat) (o : EngOp) : (s.setOp n o).poolWays = s.poolWays := rfl
@[simp] theorem State.setOp_seals (n : Nat) (o : EngOp) : (s.setOp n o).seals = s.seals := rfl
@[simp] theorem State.setOp_bypass (n : Nat) (o : EngOp) : (s.setOp n o).bypass = s.bypass := rfl
@[simp] theorem State.setOp_lines (n : Nat) (o : EngOp) : (s.setOp n o).lines = s.lines := rfl
@[simp] theorem State.setOp_tiles (n : Nat) (o : EngOp) : (s.setOp n o).tiles = s.tiles := rfl
@[simp] theorem State.setOp_lts (n : Nat) (o : EngOp) : (s.setOp n o).lts = s.lts := rfl
@[simp] theorem State.setOp_dieTlbs (n : Nat) (o : EngOp) : (s.setOp n o).dieTlbs = s.dieTlbs := rfl
@[simp] theorem State.setOp_locks (n : Nat) (o : EngOp) : (s.setOp n o).locks = s.locks := rfl
@[simp] theorem State.setOp_ops (n : Nat) (o : EngOp) : (s.setOp n o).ops = s.ops.set n o := rfl
@[simp] theorem State.setOp_sigs (n : Nat) (o : EngOp) : (s.setOp n o).sigs = s.sigs := rfl
@[simp] theorem State.setOp_faults (n : Nat) (o : EngOp) : (s.setOp n o).faults = s.faults := rfl
@[simp] theorem State.setOp_win (n : Nat) (o : EngOp) : (s.setOp n o).win = s.win := rfl
@[simp] theorem State.setOp_winExp (n : Nat) (o : EngOp) : (s.setOp n o).winExp = s.winExp := rfl
@[simp] theorem State.setOp_wto (n : Nat) (o : EngOp) : (s.setOp n o).wto = s.wto := rfl
@[simp] theorem State.setOp_rto (n : Nat) (o : EngOp) : (s.setOp n o).rto = s.rto := rfl
@[simp] theorem State.setOp_streams (n : Nat) (o : EngOp) : (s.setOp n o).streams = s.streams := rfl
@[simp] theorem State.setOp_device (n : Nat) (o : EngOp) : (s.setOp n o).device = s.device := rfl
@[simp] theorem State.setOp_ptp (n : Nat) (o : EngOp) : (s.setOp n o).ptp = s.ptp := rfl
@[simp] theorem State.setOp_stamps (n : Nat) (o : EngOp) : (s.setOp n o).stamps = s.stamps := rfl
@[simp] theorem State.setOp_notices (n : Nat) (o : EngOp) : (s.setOp n o).notices = s.notices := rfl
@[simp] theorem State.setOp_filters (n : Nat) (o : EngOp) : (s.setOp n o).filters = s.filters := rfl
@[simp] theorem State.setOp_treelets (n : Nat) (o : EngOp) : (s.setOp n o).treelets = s.treelets := rfl
@[simp] theorem State.setOp_tlq (n : Nat) (o : EngOp) : (s.setOp n o).tlq = s.tlq := rfl
@[simp] theorem State.setOp_rays (n : Nat) (o : EngOp) : (s.setOp n o).rays = s.rays := rfl
@[simp] theorem State.setOp_trring (n : Nat) (o : EngOp) : (s.setOp n o).trring = s.trring := rfl
@[simp] theorem State.setOp_trqlim (n : Nat) (o : EngOp) : (s.setOp n o).trqlim = s.trqlim := rfl
@[simp] theorem State.setOp_scmds (n : Nat) (o : EngOp) : (s.setOp n o).scmds = s.scmds := rfl
@[simp] theorem State.setOp_sessions (n : Nat) (o : EngOp) : (s.setOp n o).sessions = s.sessions := rfl
@[simp] theorem State.setOp_deferred (n : Nat) (o : EngOp) : (s.setOp n o).deferred = s.deferred := rfl
@[simp] theorem State.setOp_plain (n : Nat) (o : EngOp) : (s.setOp n o).plain = s.plain := rfl
@[simp] theorem State.setOp_rcmds (n : Nat) (o : EngOp) : (s.setOp n o).rcmds = s.rcmds := rfl
@[simp] theorem State.setOp_heads (n : Nat) (o : EngOp) : (s.setOp n o).heads = s.heads := rfl
@[simp] theorem State.setOp_eth (n : Nat) (o : EngOp) : (s.setOp n o).eth = s.eth := rfl
@[simp] theorem State.setOp_fketype (n : Nat) (o : EngOp) : (s.setOp n o).fketype = s.fketype := rfl
@[simp] theorem State.setOp_mail (n : Nat) (o : EngOp) : (s.setOp n o).mail = s.mail := rfl
@[simp] theorem State.setOp_islands (n : Nat) (o : EngOp) : (s.setOp n o).islands = s.islands := rfl
@[simp] theorem State.setOp_toRenweaz (n : Nat) (o : EngOp) : (s.setOp n o).toRenweaz = s.toRenweaz := rfl
@[simp] theorem State.setOp_inReset (n : Nat) (o : EngOp) : (s.setOp n o).inReset = s.inReset := rfl

/-! State.dropOp. -/

@[simp] theorem State.dropOp_agenda (n : Nat) : (s.dropOp n).agenda = s.agenda := rfl
@[simp] theorem State.dropOp_cur (n : Nat) : (s.dropOp n).cur = s.cur := rfl
@[simp] theorem State.dropOp_fresh (n : Nat) : (s.dropOp n).fresh = s.fresh := rfl
@[simp] theorem State.dropOp_nextId (n : Nat) : (s.dropOp n).nextId = s.nextId := rfl
@[simp] theorem State.dropOp_powered (n : Nat) : (s.dropOp n).powered = s.powered := rfl
@[simp] theorem State.dropOp_fab (n : Nat) : (s.dropOp n).fab = s.fab := rfl
@[simp] theorem State.dropOp_stk (n : Nat) : (s.dropOp n).stk = s.stk := rfl
@[simp] theorem State.dropOp_ns (n : Nat) : (s.dropOp n).ns = s.ns := rfl
@[simp] theorem State.dropOp_mem (n : Nat) : (s.dropOp n).mem = s.mem := rfl
@[simp] theorem State.dropOp_teams (n : Nat) : (s.dropOp n).teams = s.teams := rfl
@[simp] theorem State.dropOp_cores (n : Nat) : (s.dropOp n).cores = s.cores := rfl
@[simp] theorem State.dropOp_gangs (n : Nat) : (s.dropOp n).gangs = s.gangs := rfl
@[simp] theorem State.dropOp_launches (n : Nat) : (s.dropOp n).launches = s.launches := rfl
@[simp] theorem State.dropOp_parts (n : Nat) : (s.dropOp n).parts = s.parts := rfl
@[simp] theorem State.dropOp_vds (n : Nat) : (s.dropOp n).vds = s.vds := rfl
@[simp] theorem State.dropOp_ctxs (n : Nat) : (s.dropOp n).ctxs = s.ctxs := rfl
@[simp] theorem State.dropOp_served (n : Nat) : (s.dropOp n).served = s.served := rfl
@[simp] theorem State.dropOp_arbs (n : Nat) : (s.dropOp n).arbs = s.arbs := rfl
@[simp] theorem State.dropOp_wayqs (n : Nat) : (s.dropOp n).wayqs = s.wayqs := rfl
@[simp] theorem State.dropOp_convWays (n : Nat) : (s.dropOp n).convWays = s.convWays := rfl
@[simp] theorem State.dropOp_poolWays (n : Nat) : (s.dropOp n).poolWays = s.poolWays := rfl
@[simp] theorem State.dropOp_seals (n : Nat) : (s.dropOp n).seals = s.seals := rfl
@[simp] theorem State.dropOp_bypass (n : Nat) : (s.dropOp n).bypass = s.bypass := rfl
@[simp] theorem State.dropOp_lines (n : Nat) : (s.dropOp n).lines = s.lines := rfl
@[simp] theorem State.dropOp_tiles (n : Nat) : (s.dropOp n).tiles = s.tiles := rfl
@[simp] theorem State.dropOp_lts (n : Nat) : (s.dropOp n).lts = s.lts := rfl
@[simp] theorem State.dropOp_dieTlbs (n : Nat) : (s.dropOp n).dieTlbs = s.dieTlbs := rfl
@[simp] theorem State.dropOp_locks (n : Nat) : (s.dropOp n).locks = s.locks := rfl
@[simp] theorem State.dropOp_ops (n : Nat) : (s.dropOp n).ops = s.ops.erase n := rfl
@[simp] theorem State.dropOp_sigs (n : Nat) : (s.dropOp n).sigs = s.sigs := rfl
@[simp] theorem State.dropOp_faults (n : Nat) : (s.dropOp n).faults = s.faults := rfl
@[simp] theorem State.dropOp_win (n : Nat) : (s.dropOp n).win = s.win := rfl
@[simp] theorem State.dropOp_winExp (n : Nat) : (s.dropOp n).winExp = s.winExp := rfl
@[simp] theorem State.dropOp_wto (n : Nat) : (s.dropOp n).wto = s.wto := rfl
@[simp] theorem State.dropOp_rto (n : Nat) : (s.dropOp n).rto = s.rto := rfl
@[simp] theorem State.dropOp_streams (n : Nat) : (s.dropOp n).streams = s.streams := rfl
@[simp] theorem State.dropOp_device (n : Nat) : (s.dropOp n).device = s.device := rfl
@[simp] theorem State.dropOp_ptp (n : Nat) : (s.dropOp n).ptp = s.ptp := rfl
@[simp] theorem State.dropOp_stamps (n : Nat) : (s.dropOp n).stamps = s.stamps := rfl
@[simp] theorem State.dropOp_notices (n : Nat) : (s.dropOp n).notices = s.notices := rfl
@[simp] theorem State.dropOp_filters (n : Nat) : (s.dropOp n).filters = s.filters := rfl
@[simp] theorem State.dropOp_treelets (n : Nat) : (s.dropOp n).treelets = s.treelets := rfl
@[simp] theorem State.dropOp_tlq (n : Nat) : (s.dropOp n).tlq = s.tlq := rfl
@[simp] theorem State.dropOp_rays (n : Nat) : (s.dropOp n).rays = s.rays := rfl
@[simp] theorem State.dropOp_trring (n : Nat) : (s.dropOp n).trring = s.trring := rfl
@[simp] theorem State.dropOp_trqlim (n : Nat) : (s.dropOp n).trqlim = s.trqlim := rfl
@[simp] theorem State.dropOp_scmds (n : Nat) : (s.dropOp n).scmds = s.scmds := rfl
@[simp] theorem State.dropOp_sessions (n : Nat) : (s.dropOp n).sessions = s.sessions := rfl
@[simp] theorem State.dropOp_deferred (n : Nat) : (s.dropOp n).deferred = s.deferred := rfl
@[simp] theorem State.dropOp_plain (n : Nat) : (s.dropOp n).plain = s.plain := rfl
@[simp] theorem State.dropOp_rcmds (n : Nat) : (s.dropOp n).rcmds = s.rcmds := rfl
@[simp] theorem State.dropOp_heads (n : Nat) : (s.dropOp n).heads = s.heads := rfl
@[simp] theorem State.dropOp_eth (n : Nat) : (s.dropOp n).eth = s.eth := rfl
@[simp] theorem State.dropOp_fketype (n : Nat) : (s.dropOp n).fketype = s.fketype := rfl
@[simp] theorem State.dropOp_mail (n : Nat) : (s.dropOp n).mail = s.mail := rfl
@[simp] theorem State.dropOp_islands (n : Nat) : (s.dropOp n).islands = s.islands := rfl
@[simp] theorem State.dropOp_toRenweaz (n : Nat) : (s.dropOp n).toRenweaz = s.toRenweaz := rfl
@[simp] theorem State.dropOp_inReset (n : Nat) : (s.dropOp n).inReset = s.inReset := rfl

/-! State.setStream. -/

@[simp] theorem State.setStream_agenda (p : Nat) (x : Stream) : (s.setStream p x).agenda = s.agenda := rfl
@[simp] theorem State.setStream_cur (p : Nat) (x : Stream) : (s.setStream p x).cur = s.cur := rfl
@[simp] theorem State.setStream_fresh (p : Nat) (x : Stream) : (s.setStream p x).fresh = s.fresh := rfl
@[simp] theorem State.setStream_nextId (p : Nat) (x : Stream) : (s.setStream p x).nextId = s.nextId := rfl
@[simp] theorem State.setStream_powered (p : Nat) (x : Stream) : (s.setStream p x).powered = s.powered := rfl
@[simp] theorem State.setStream_fab (p : Nat) (x : Stream) : (s.setStream p x).fab = s.fab := rfl
@[simp] theorem State.setStream_stk (p : Nat) (x : Stream) : (s.setStream p x).stk = s.stk := rfl
@[simp] theorem State.setStream_ns (p : Nat) (x : Stream) : (s.setStream p x).ns = s.ns := rfl
@[simp] theorem State.setStream_mem (p : Nat) (x : Stream) : (s.setStream p x).mem = s.mem := rfl
@[simp] theorem State.setStream_teams (p : Nat) (x : Stream) : (s.setStream p x).teams = s.teams := rfl
@[simp] theorem State.setStream_cores (p : Nat) (x : Stream) : (s.setStream p x).cores = s.cores := rfl
@[simp] theorem State.setStream_gangs (p : Nat) (x : Stream) : (s.setStream p x).gangs = s.gangs := rfl
@[simp] theorem State.setStream_launches (p : Nat) (x : Stream) : (s.setStream p x).launches = s.launches := rfl
@[simp] theorem State.setStream_parts (p : Nat) (x : Stream) : (s.setStream p x).parts = s.parts := rfl
@[simp] theorem State.setStream_vds (p : Nat) (x : Stream) : (s.setStream p x).vds = s.vds := rfl
@[simp] theorem State.setStream_ctxs (p : Nat) (x : Stream) : (s.setStream p x).ctxs = s.ctxs := rfl
@[simp] theorem State.setStream_served (p : Nat) (x : Stream) : (s.setStream p x).served = s.served := rfl
@[simp] theorem State.setStream_arbs (p : Nat) (x : Stream) : (s.setStream p x).arbs = s.arbs := rfl
@[simp] theorem State.setStream_wayqs (p : Nat) (x : Stream) : (s.setStream p x).wayqs = s.wayqs := rfl
@[simp] theorem State.setStream_convWays (p : Nat) (x : Stream) : (s.setStream p x).convWays = s.convWays := rfl
@[simp] theorem State.setStream_poolWays (p : Nat) (x : Stream) : (s.setStream p x).poolWays = s.poolWays := rfl
@[simp] theorem State.setStream_seals (p : Nat) (x : Stream) : (s.setStream p x).seals = s.seals := rfl
@[simp] theorem State.setStream_bypass (p : Nat) (x : Stream) : (s.setStream p x).bypass = s.bypass := rfl
@[simp] theorem State.setStream_lines (p : Nat) (x : Stream) : (s.setStream p x).lines = s.lines := rfl
@[simp] theorem State.setStream_tiles (p : Nat) (x : Stream) : (s.setStream p x).tiles = s.tiles := rfl
@[simp] theorem State.setStream_lts (p : Nat) (x : Stream) : (s.setStream p x).lts = s.lts := rfl
@[simp] theorem State.setStream_dieTlbs (p : Nat) (x : Stream) : (s.setStream p x).dieTlbs = s.dieTlbs := rfl
@[simp] theorem State.setStream_locks (p : Nat) (x : Stream) : (s.setStream p x).locks = s.locks := rfl
@[simp] theorem State.setStream_ops (p : Nat) (x : Stream) : (s.setStream p x).ops = s.ops := rfl
@[simp] theorem State.setStream_sigs (p : Nat) (x : Stream) : (s.setStream p x).sigs = s.sigs := rfl
@[simp] theorem State.setStream_faults (p : Nat) (x : Stream) : (s.setStream p x).faults = s.faults := rfl
@[simp] theorem State.setStream_win (p : Nat) (x : Stream) : (s.setStream p x).win = s.win := rfl
@[simp] theorem State.setStream_winExp (p : Nat) (x : Stream) : (s.setStream p x).winExp = s.winExp := rfl
@[simp] theorem State.setStream_wto (p : Nat) (x : Stream) : (s.setStream p x).wto = s.wto := rfl
@[simp] theorem State.setStream_rto (p : Nat) (x : Stream) : (s.setStream p x).rto = s.rto := rfl
@[simp] theorem State.setStream_streams (p : Nat) (x : Stream) : (s.setStream p x).streams = s.streams.set p x := rfl
@[simp] theorem State.setStream_device (p : Nat) (x : Stream) : (s.setStream p x).device = s.device := rfl
@[simp] theorem State.setStream_ptp (p : Nat) (x : Stream) : (s.setStream p x).ptp = s.ptp := rfl
@[simp] theorem State.setStream_stamps (p : Nat) (x : Stream) : (s.setStream p x).stamps = s.stamps := rfl
@[simp] theorem State.setStream_notices (p : Nat) (x : Stream) : (s.setStream p x).notices = s.notices := rfl
@[simp] theorem State.setStream_filters (p : Nat) (x : Stream) : (s.setStream p x).filters = s.filters := rfl
@[simp] theorem State.setStream_treelets (p : Nat) (x : Stream) : (s.setStream p x).treelets = s.treelets := rfl
@[simp] theorem State.setStream_tlq (p : Nat) (x : Stream) : (s.setStream p x).tlq = s.tlq := rfl
@[simp] theorem State.setStream_rays (p : Nat) (x : Stream) : (s.setStream p x).rays = s.rays := rfl
@[simp] theorem State.setStream_trring (p : Nat) (x : Stream) : (s.setStream p x).trring = s.trring := rfl
@[simp] theorem State.setStream_trqlim (p : Nat) (x : Stream) : (s.setStream p x).trqlim = s.trqlim := rfl
@[simp] theorem State.setStream_scmds (p : Nat) (x : Stream) : (s.setStream p x).scmds = s.scmds := rfl
@[simp] theorem State.setStream_sessions (p : Nat) (x : Stream) : (s.setStream p x).sessions = s.sessions := rfl
@[simp] theorem State.setStream_deferred (p : Nat) (x : Stream) : (s.setStream p x).deferred = s.deferred := rfl
@[simp] theorem State.setStream_plain (p : Nat) (x : Stream) : (s.setStream p x).plain = s.plain := rfl
@[simp] theorem State.setStream_rcmds (p : Nat) (x : Stream) : (s.setStream p x).rcmds = s.rcmds := rfl
@[simp] theorem State.setStream_heads (p : Nat) (x : Stream) : (s.setStream p x).heads = s.heads := rfl
@[simp] theorem State.setStream_eth (p : Nat) (x : Stream) : (s.setStream p x).eth = s.eth := rfl
@[simp] theorem State.setStream_fketype (p : Nat) (x : Stream) : (s.setStream p x).fketype = s.fketype := rfl
@[simp] theorem State.setStream_mail (p : Nat) (x : Stream) : (s.setStream p x).mail = s.mail := rfl
@[simp] theorem State.setStream_islands (p : Nat) (x : Stream) : (s.setStream p x).islands = s.islands := rfl
@[simp] theorem State.setStream_toRenweaz (p : Nat) (x : Stream) : (s.setStream p x).toRenweaz = s.toRenweaz := rfl
@[simp] theorem State.setStream_inReset (p : Nat) (x : Stream) : (s.setStream p x).inReset = s.inReset := rfl

/-! State.setRay. -/

@[simp] theorem State.setRay_agenda (n : Nat) (r : Ray) : (s.setRay n r).agenda = s.agenda := rfl
@[simp] theorem State.setRay_cur (n : Nat) (r : Ray) : (s.setRay n r).cur = s.cur := rfl
@[simp] theorem State.setRay_fresh (n : Nat) (r : Ray) : (s.setRay n r).fresh = s.fresh := rfl
@[simp] theorem State.setRay_nextId (n : Nat) (r : Ray) : (s.setRay n r).nextId = s.nextId := rfl
@[simp] theorem State.setRay_powered (n : Nat) (r : Ray) : (s.setRay n r).powered = s.powered := rfl
@[simp] theorem State.setRay_fab (n : Nat) (r : Ray) : (s.setRay n r).fab = s.fab := rfl
@[simp] theorem State.setRay_stk (n : Nat) (r : Ray) : (s.setRay n r).stk = s.stk := rfl
@[simp] theorem State.setRay_ns (n : Nat) (r : Ray) : (s.setRay n r).ns = s.ns := rfl
@[simp] theorem State.setRay_mem (n : Nat) (r : Ray) : (s.setRay n r).mem = s.mem := rfl
@[simp] theorem State.setRay_teams (n : Nat) (r : Ray) : (s.setRay n r).teams = s.teams := rfl
@[simp] theorem State.setRay_cores (n : Nat) (r : Ray) : (s.setRay n r).cores = s.cores := rfl
@[simp] theorem State.setRay_gangs (n : Nat) (r : Ray) : (s.setRay n r).gangs = s.gangs := rfl
@[simp] theorem State.setRay_launches (n : Nat) (r : Ray) : (s.setRay n r).launches = s.launches := rfl
@[simp] theorem State.setRay_parts (n : Nat) (r : Ray) : (s.setRay n r).parts = s.parts := rfl
@[simp] theorem State.setRay_vds (n : Nat) (r : Ray) : (s.setRay n r).vds = s.vds := rfl
@[simp] theorem State.setRay_ctxs (n : Nat) (r : Ray) : (s.setRay n r).ctxs = s.ctxs := rfl
@[simp] theorem State.setRay_served (n : Nat) (r : Ray) : (s.setRay n r).served = s.served := rfl
@[simp] theorem State.setRay_arbs (n : Nat) (r : Ray) : (s.setRay n r).arbs = s.arbs := rfl
@[simp] theorem State.setRay_wayqs (n : Nat) (r : Ray) : (s.setRay n r).wayqs = s.wayqs := rfl
@[simp] theorem State.setRay_convWays (n : Nat) (r : Ray) : (s.setRay n r).convWays = s.convWays := rfl
@[simp] theorem State.setRay_poolWays (n : Nat) (r : Ray) : (s.setRay n r).poolWays = s.poolWays := rfl
@[simp] theorem State.setRay_seals (n : Nat) (r : Ray) : (s.setRay n r).seals = s.seals := rfl
@[simp] theorem State.setRay_bypass (n : Nat) (r : Ray) : (s.setRay n r).bypass = s.bypass := rfl
@[simp] theorem State.setRay_lines (n : Nat) (r : Ray) : (s.setRay n r).lines = s.lines := rfl
@[simp] theorem State.setRay_tiles (n : Nat) (r : Ray) : (s.setRay n r).tiles = s.tiles := rfl
@[simp] theorem State.setRay_lts (n : Nat) (r : Ray) : (s.setRay n r).lts = s.lts := rfl
@[simp] theorem State.setRay_dieTlbs (n : Nat) (r : Ray) : (s.setRay n r).dieTlbs = s.dieTlbs := rfl
@[simp] theorem State.setRay_locks (n : Nat) (r : Ray) : (s.setRay n r).locks = s.locks := rfl
@[simp] theorem State.setRay_ops (n : Nat) (r : Ray) : (s.setRay n r).ops = s.ops := rfl
@[simp] theorem State.setRay_sigs (n : Nat) (r : Ray) : (s.setRay n r).sigs = s.sigs := rfl
@[simp] theorem State.setRay_faults (n : Nat) (r : Ray) : (s.setRay n r).faults = s.faults := rfl
@[simp] theorem State.setRay_win (n : Nat) (r : Ray) : (s.setRay n r).win = s.win := rfl
@[simp] theorem State.setRay_winExp (n : Nat) (r : Ray) : (s.setRay n r).winExp = s.winExp := rfl
@[simp] theorem State.setRay_wto (n : Nat) (r : Ray) : (s.setRay n r).wto = s.wto := rfl
@[simp] theorem State.setRay_rto (n : Nat) (r : Ray) : (s.setRay n r).rto = s.rto := rfl
@[simp] theorem State.setRay_streams (n : Nat) (r : Ray) : (s.setRay n r).streams = s.streams := rfl
@[simp] theorem State.setRay_device (n : Nat) (r : Ray) : (s.setRay n r).device = s.device := rfl
@[simp] theorem State.setRay_ptp (n : Nat) (r : Ray) : (s.setRay n r).ptp = s.ptp := rfl
@[simp] theorem State.setRay_stamps (n : Nat) (r : Ray) : (s.setRay n r).stamps = s.stamps := rfl
@[simp] theorem State.setRay_notices (n : Nat) (r : Ray) : (s.setRay n r).notices = s.notices := rfl
@[simp] theorem State.setRay_filters (n : Nat) (r : Ray) : (s.setRay n r).filters = s.filters := rfl
@[simp] theorem State.setRay_treelets (n : Nat) (r : Ray) : (s.setRay n r).treelets = s.treelets := rfl
@[simp] theorem State.setRay_tlq (n : Nat) (r : Ray) : (s.setRay n r).tlq = s.tlq := rfl
@[simp] theorem State.setRay_rays (n : Nat) (r : Ray) : (s.setRay n r).rays = s.rays.set n r := rfl
@[simp] theorem State.setRay_trring (n : Nat) (r : Ray) : (s.setRay n r).trring = s.trring := rfl
@[simp] theorem State.setRay_trqlim (n : Nat) (r : Ray) : (s.setRay n r).trqlim = s.trqlim := rfl
@[simp] theorem State.setRay_scmds (n : Nat) (r : Ray) : (s.setRay n r).scmds = s.scmds := rfl
@[simp] theorem State.setRay_sessions (n : Nat) (r : Ray) : (s.setRay n r).sessions = s.sessions := rfl
@[simp] theorem State.setRay_deferred (n : Nat) (r : Ray) : (s.setRay n r).deferred = s.deferred := rfl
@[simp] theorem State.setRay_plain (n : Nat) (r : Ray) : (s.setRay n r).plain = s.plain := rfl
@[simp] theorem State.setRay_rcmds (n : Nat) (r : Ray) : (s.setRay n r).rcmds = s.rcmds := rfl
@[simp] theorem State.setRay_heads (n : Nat) (r : Ray) : (s.setRay n r).heads = s.heads := rfl
@[simp] theorem State.setRay_eth (n : Nat) (r : Ray) : (s.setRay n r).eth = s.eth := rfl
@[simp] theorem State.setRay_fketype (n : Nat) (r : Ray) : (s.setRay n r).fketype = s.fketype := rfl
@[simp] theorem State.setRay_mail (n : Nat) (r : Ray) : (s.setRay n r).mail = s.mail := rfl
@[simp] theorem State.setRay_islands (n : Nat) (r : Ray) : (s.setRay n r).islands = s.islands := rfl
@[simp] theorem State.setRay_toRenweaz (n : Nat) (r : Ray) : (s.setRay n r).toRenweaz = s.toRenweaz := rfl
@[simp] theorem State.setRay_inReset (n : Nat) (r : Ray) : (s.setRay n r).inReset = s.inReset := rfl

/-! State.dropRay. -/

@[simp] theorem State.dropRay_agenda (n : Nat) : (s.dropRay n).agenda = s.agenda := rfl
@[simp] theorem State.dropRay_cur (n : Nat) : (s.dropRay n).cur = s.cur := rfl
@[simp] theorem State.dropRay_fresh (n : Nat) : (s.dropRay n).fresh = s.fresh := rfl
@[simp] theorem State.dropRay_nextId (n : Nat) : (s.dropRay n).nextId = s.nextId := rfl
@[simp] theorem State.dropRay_powered (n : Nat) : (s.dropRay n).powered = s.powered := rfl
@[simp] theorem State.dropRay_fab (n : Nat) : (s.dropRay n).fab = s.fab := rfl
@[simp] theorem State.dropRay_stk (n : Nat) : (s.dropRay n).stk = s.stk := rfl
@[simp] theorem State.dropRay_ns (n : Nat) : (s.dropRay n).ns = s.ns := rfl
@[simp] theorem State.dropRay_mem (n : Nat) : (s.dropRay n).mem = s.mem := rfl
@[simp] theorem State.dropRay_teams (n : Nat) : (s.dropRay n).teams = s.teams := rfl
@[simp] theorem State.dropRay_cores (n : Nat) : (s.dropRay n).cores = s.cores := rfl
@[simp] theorem State.dropRay_gangs (n : Nat) : (s.dropRay n).gangs = s.gangs := rfl
@[simp] theorem State.dropRay_launches (n : Nat) : (s.dropRay n).launches = s.launches := rfl
@[simp] theorem State.dropRay_parts (n : Nat) : (s.dropRay n).parts = s.parts := rfl
@[simp] theorem State.dropRay_vds (n : Nat) : (s.dropRay n).vds = s.vds := rfl
@[simp] theorem State.dropRay_ctxs (n : Nat) : (s.dropRay n).ctxs = s.ctxs := rfl
@[simp] theorem State.dropRay_served (n : Nat) : (s.dropRay n).served = s.served := rfl
@[simp] theorem State.dropRay_arbs (n : Nat) : (s.dropRay n).arbs = s.arbs := rfl
@[simp] theorem State.dropRay_wayqs (n : Nat) : (s.dropRay n).wayqs = s.wayqs := rfl
@[simp] theorem State.dropRay_convWays (n : Nat) : (s.dropRay n).convWays = s.convWays := rfl
@[simp] theorem State.dropRay_poolWays (n : Nat) : (s.dropRay n).poolWays = s.poolWays := rfl
@[simp] theorem State.dropRay_seals (n : Nat) : (s.dropRay n).seals = s.seals := rfl
@[simp] theorem State.dropRay_bypass (n : Nat) : (s.dropRay n).bypass = s.bypass := rfl
@[simp] theorem State.dropRay_lines (n : Nat) : (s.dropRay n).lines = s.lines := rfl
@[simp] theorem State.dropRay_tiles (n : Nat) : (s.dropRay n).tiles = s.tiles := rfl
@[simp] theorem State.dropRay_lts (n : Nat) : (s.dropRay n).lts = s.lts := rfl
@[simp] theorem State.dropRay_dieTlbs (n : Nat) : (s.dropRay n).dieTlbs = s.dieTlbs := rfl
@[simp] theorem State.dropRay_locks (n : Nat) : (s.dropRay n).locks = s.locks := rfl
@[simp] theorem State.dropRay_ops (n : Nat) : (s.dropRay n).ops = s.ops := rfl
@[simp] theorem State.dropRay_sigs (n : Nat) : (s.dropRay n).sigs = s.sigs := rfl
@[simp] theorem State.dropRay_faults (n : Nat) : (s.dropRay n).faults = s.faults := rfl
@[simp] theorem State.dropRay_win (n : Nat) : (s.dropRay n).win = s.win := rfl
@[simp] theorem State.dropRay_winExp (n : Nat) : (s.dropRay n).winExp = s.winExp := rfl
@[simp] theorem State.dropRay_wto (n : Nat) : (s.dropRay n).wto = s.wto := rfl
@[simp] theorem State.dropRay_rto (n : Nat) : (s.dropRay n).rto = s.rto := rfl
@[simp] theorem State.dropRay_streams (n : Nat) : (s.dropRay n).streams = s.streams := rfl
@[simp] theorem State.dropRay_device (n : Nat) : (s.dropRay n).device = s.device := rfl
@[simp] theorem State.dropRay_ptp (n : Nat) : (s.dropRay n).ptp = s.ptp := rfl
@[simp] theorem State.dropRay_stamps (n : Nat) : (s.dropRay n).stamps = s.stamps := rfl
@[simp] theorem State.dropRay_notices (n : Nat) : (s.dropRay n).notices = s.notices := rfl
@[simp] theorem State.dropRay_filters (n : Nat) : (s.dropRay n).filters = s.filters := rfl
@[simp] theorem State.dropRay_treelets (n : Nat) : (s.dropRay n).treelets = s.treelets := rfl
@[simp] theorem State.dropRay_tlq (n : Nat) : (s.dropRay n).tlq = s.tlq := rfl
@[simp] theorem State.dropRay_rays (n : Nat) : (s.dropRay n).rays = s.rays.erase n := rfl
@[simp] theorem State.dropRay_trring (n : Nat) : (s.dropRay n).trring = s.trring := rfl
@[simp] theorem State.dropRay_trqlim (n : Nat) : (s.dropRay n).trqlim = s.trqlim := rfl
@[simp] theorem State.dropRay_scmds (n : Nat) : (s.dropRay n).scmds = s.scmds := rfl
@[simp] theorem State.dropRay_sessions (n : Nat) : (s.dropRay n).sessions = s.sessions := rfl
@[simp] theorem State.dropRay_deferred (n : Nat) : (s.dropRay n).deferred = s.deferred := rfl
@[simp] theorem State.dropRay_plain (n : Nat) : (s.dropRay n).plain = s.plain := rfl
@[simp] theorem State.dropRay_rcmds (n : Nat) : (s.dropRay n).rcmds = s.rcmds := rfl
@[simp] theorem State.dropRay_heads (n : Nat) : (s.dropRay n).heads = s.heads := rfl
@[simp] theorem State.dropRay_eth (n : Nat) : (s.dropRay n).eth = s.eth := rfl
@[simp] theorem State.dropRay_fketype (n : Nat) : (s.dropRay n).fketype = s.fketype := rfl
@[simp] theorem State.dropRay_mail (n : Nat) : (s.dropRay n).mail = s.mail := rfl
@[simp] theorem State.dropRay_islands (n : Nat) : (s.dropRay n).islands = s.islands := rfl
@[simp] theorem State.dropRay_toRenweaz (n : Nat) : (s.dropRay n).toRenweaz = s.toRenweaz := rfl
@[simp] theorem State.dropRay_inReset (n : Nat) : (s.dropRay n).inReset = s.inReset := rfl

end Sys2Proof.Machine
end

