-- ==== Sys2Proof/Laws/Issue.lean ====
section
/-! SUPPORT. Lookups after updates, and what the two wrappers of every meaning do with an instruction that may issue. -/

namespace Sys2Proof.Machine

open Sys2Proof Host

/-! Lookups. -/

@[simp] theorem State.team?_setTeam_self (s : State) (c k : Nat) (t : Team) : (s.setTeam c k t).team? c k = some t := by
  simp [State.team?]

theorem State.team?_setTeam_ne (s : State) {c k c' k' : Nat} (t : Team) (h : teamKey c' k' ≠ teamKey c k) :
    (s.setTeam c k t).team? c' k' = s.team? c' k' := by
  simp [State.team?, Tbl.get?_set_ne _ _ h]

@[simp] theorem State.setTeam_setTeam (s : State) (c k : Nat) (t u : Team) : (s.setTeam c k t).setTeam c k u = s.setTeam c k u := by
  simp [State.setTeam]

@[simp] theorem State.coreOf_setTeam (s : State) (c k : Nat) (t : Team) (d : Nat) : (s.setTeam c k t).coreOf d = s.coreOf d := rfl

@[simp] theorem State.coreOf_setCore_self (s : State) (c : Nat) (x : Core) : (s.setCore c x).coreOf c = x := by
  simp [State.coreOf]

theorem State.coreOf_setCore_ne (s : State) {c d : Nat} (x : Core) (h : d ≠ c) : (s.setCore c x).coreOf d = s.coreOf d := by
  simp [State.coreOf, Tbl.get_set_ne _ _ _ h]

@[simp] theorem State.setCore_setCore (s : State) (c : Nat) (x y : Core) : (s.setCore c x).setCore c y = s.setCore c y := by
  simp [State.setCore]

@[simp] theorem State.ctl_setCtl_self (s : State) (c : Nat) (x : Ctl) : (s.setCtl c x).ctl c = x := by
  simp [State.ctl, State.setCtl]

@[simp] theorem State.setCtl_setCtl (s : State) (c : Nat) (x y : Ctl) : (s.setCtl c x).setCtl c y = s.setCtl c y := by
  simp [State.setCtl]

@[simp] theorem State.gang?_setGang_self (s : State) (n : Nat) (g : Gang) : (s.setGang n g).gang? n = some g := by
  simp [State.gang?]

theorem State.updTeam_of_team {s : State} {c k : Nat} {t : Team} (h : s.team? c k = some t) (f : Team → Team) :
    s.updTeam c k f = s.setTeam c k (f t) := by
  simp [State.updTeam, h]

@[simp] theorem State.updTeam_setTeam (s : State) (c k : Nat) (t : Team) (f : Team → Team) :
    (s.setTeam c k t).updTeam c k f = s.setTeam c k (f t) := by
  simp [State.updTeam]

/-! The acting agent. -/

/-- The site names the acting team, which is resident. -/
theorem State.site?_team {s : State} {si : Site} (h : s.site? = some si) : s.team? si.core si.slot = some si.team := by
  unfold State.site? at h
  repeat' split at h
  all_goals first | cases h; assumption | cases h

theorem State.site?_cur {s : State} {si : Site} (h : s.site? = some si) : s.cur = some (.team si.core si.slot) := by
  unfold State.site? at h
  repeat' split at h
  all_goals first | cases h; assumption | cases h

theorem State.ctlSite?_cur {s : State} {si : CtlSite} (h : s.ctlSite? = some si) : s.cur = some (.ctl si.core) := by
  unfold State.ctlSite? at h
  simp only at h
  split at h
  · rename_i core hc
    split at h
    · simp only [Option.some.injEq] at h
      subst h
      exact hc
    · cases h
  · cases h

theorem State.ctlSite?_ctl {s : State} {si : CtlSite} (h : s.ctlSite? = some si) : si.ctl = s.ctl si.core := by
  unfold State.ctlSite? at h
  simp only at h
  split at h
  · rename_i core hc
    split at h
    · simp only [Option.some.injEq] at h
      subst h
      rfl
    · cases h
  · cases h

theorem State.onTeam_site {s : State} {si : Site} (h : s.site? = some si) (f : Team → Team) :
    s.onTeam si f = s.setTeam si.core si.slot (f si.team) := State.updTeam_of_team (State.site?_team h) f

theorem State.retireIns_site {s : State} {si : Site} (h : s.site? = some si) (n : Nat) :
    s.retireIns si n = s.setTeam si.core si.slot ((si.team.count si s).stepOver si.entry si.pos n) :=
  State.updTeam_of_team (State.site?_team h) _

@[simp] theorem Team.count_setTeam (t : Team) (si : Site) (s : State) (c k : Nat) (u : Team) :
    t.count si (s.setTeam c k u) = t.count si s := rfl

@[simp] theorem State.retireIns_setTeam (s : State) (si : Site) (t : Team) (n : Nat) :
    (s.setTeam si.core si.slot t).retireIns si n = s.setTeam si.core si.slot ((t.count si s).stepOver si.entry si.pos n) := by
  simp [State.retireIns]

theorem issueTeam_goes {s : State} {si : Site} {o : Op} {w : Ins} (body : Site → TMask → Issue) (h : s.site? = some si)
    (g : si.goes s o w = true) : issueTeam o w s body = .next (s.finish si w.len.size (body si (si.exec w))) := by
  simp only [Site.goes, Bool.and_eq_true, Bool.not_eq_true', bne_iff_ne, ne_eq] at g
  obtain ⟨⟨⟨g1, g2⟩, g3⟩, g4⟩ := g
  have g5 : (si.exec w == 0) = false := by simpa using g4
  simp only [issueTeam, h, g1, g2, g3, g5, Bool.or_self, Bool.and_false, Bool.false_and, Bool.false_eq_true, if_false]

theorem issueBoth_team {s : State} {si : Site} {o : Op} {w : Ins} (t : Site → TMask → Issue) (c : CtlSite → CtlIssue)
    (h : s.site? = some si) : issueBoth o w s t c = issueTeam o w s t := by
  simp [issueBoth, State.site?_cur h]

theorem issueCtl_goes {s : State} {si : CtlSite} {o : Op} {w : Ins} (body : CtlSite → CtlIssue) (h : s.ctlSite? = some si)
    (g : si.goes s o w = true) : issueCtl o w s body = .next (s.finishCtl si w.len.size (body si)) := by
  simp only [CtlSite.goes, Bool.and_eq_true, Bool.not_eq_true', Option.isNone_iff_eq_none] at g
  simp [issueCtl, h, g.1, g.2]

theorem issueBoth_ctl {s : State} {si : CtlSite} {o : Op} {w : Ins} (t : Site → TMask → Issue) (c : CtlSite → CtlIssue)
    (h : s.ctlSite? = some si) : issueBoth o w s t c = issueCtl o w s c := by
  simp [issueBoth, State.ctlSite?_cur h]

/-- An instruction with a false guard in every executing thread only goes on (06 R157). -/
theorem issueTeam_masked {s : State} {si : Site} {o : Op} {w : Ins} (body : Site → TMask → Issue) (h : s.site? = some si)
    (hi : si.illegal o w = false) (hm : si.exec w = 0) (ho : o.closing = false) :
    issueTeam o w s body = .next (s.retireIns si w.len.size) := by
  simp [issueTeam, h, hi, hm, ho]

end Sys2Proof.Machine
end

