-- ==== Sys2Proof/Laws/Results.lean ====
section
/-! SUPPORT. What the destination operations of Operands write, register by register (05 R141, 06 R156). -/

namespace Sys2Proof.Machine

open Sys2Proof Host

/-! One register. -/

theorem Team.vreg_setV (t : Team) (tid r : Nat) (x : W32) (tid' r' : Nat) :
    (t.setV tid r x).vreg tid' r' = if 512 * tid' + r' = 512 * tid + r then x else t.vreg tid' r' := by
  simp [Team.vreg, Team.setV, Tbl.get_put]

@[simp] theorem Team.sreg_setV (t : Team) (tid r : Nat) (x : W32) (k : Nat) : (t.setV tid r x).sreg k = t.sreg k := rfl
@[simp] theorem Team.preg_setV (t : Team) (tid r : Nat) (x : W32) (k : Nat) : (t.setV tid r x).preg k = t.preg k := rfl

theorem Team.sreg_setS (t : Team) (r : Nat) (x : W32) (k : Nat) : (t.setS r x).sreg k = if k = r then x else t.sreg k := by
  simp [Team.sreg, Team.setS, Tbl.get_put]

@[simp] theorem Team.vreg_setS (t : Team) (r : Nat) (x : W32) (tid k : Nat) : (t.setS r x).vreg tid k = t.vreg tid k := rfl
@[simp] theorem Team.preg_setS (t : Team) (r : Nat) (x : W32) (k : Nat) : (t.setS r x).preg k = t.preg k := rfl

theorem Team.preg_setP (t : Team) (n : Nat) (m : TMask) (k : Nat) : (t.setP n m).preg k = if k = n then m else t.preg k := by
  simp [Team.preg, Team.setP, Tbl.get_put]

theorem Team.addTsr_regs (t : Team) (f : Flags) :
    t.addTsr f = { t with tsr := t.tsr ||| BitVec.ofNat 32 f } := rfl

/-! Threads of a mask. -/

theorem mem_threadsOf {n tid : Nat} {m : TMask} : tid ∈ threadsOf n m ↔ tid < n ∧ m.getLsbD tid = true := by
  simp [threadsOf]

theorem nodup_threadsOf (n : Nat) (m : TMask) : (threadsOf n m).Nodup := List.nodup_range.filter _

/-! One thread's run of one or two registers. -/

/-- Half i of a value. -/
def halfOf (x i : Nat) : W32 := BitVec.ofNat 32 (x / 2 ^ (32 * i))

theorem Team.writeRun_eq (t : Team) (wm : TMask) (zero : Bool) (tid r : Nat) (xs : List Nat) :
    t.writeRun wm zero tid r xs = { t with v := (t.writeRun wm zero tid r xs).v } := by
  have h : ∀ (f : Nat × Nat → W32) (l : List (Nat × Nat)) (t : Team),
      l.foldl (fun t x => t.setV tid (r + x.2) (f x)) t =
        { t with v := (l.foldl (fun t x => t.setV tid (r + x.2) (f x)) t).v } := by
    intro f l
    induction l with
    | nil => intro t; rfl
    | cons x l ih => intro t; rw [List.foldl_cons, ih]; rfl
  unfold Team.writeRun
  split
  · exact h (fun x => BitVec.ofNat 32 x.1) _ t
  · split
    · exact h (fun _ => 0) _ t
    · rfl

theorem Team.vreg_writeRun (t : Team) (wm : TMask) (zero : Bool) (tid d : Nat) (wide : Bool) (x tid' r : Nat)
    (hd : d + (if wide then 2 else 1) ≤ 512) (hr : r < 512) :
    (t.writeRun wm zero tid d (halves wide x)).vreg tid' r =
      if tid' = tid ∧ d ≤ r ∧ r < d + (if wide then 2 else 1) then
        (if wm.getLsbD tid then halfOf x (r - d) else if zero then 0 else t.vreg tid' r)
      else t.vreg tid' r := by
  have h32 : ∀ y : Nat, BitVec.ofNat 32 (y % 2 ^ 32) = BitVec.ofNat 32 y := by
    intro y; apply BitVec.eq_of_toNat_eq; simp
  cases wide with
  | false =>
    have e1 : ((512 * tid' + r = 512 * tid + d) ↔ (tid' = tid ∧ d ≤ r ∧ r < d + 1)) := by
      simp at hd; omega
    simp only [Team.writeRun, halves]
    by_cases hw : wm.getLsbD tid = true
    · simp only [hw, if_true, Bool.false_eq_true, if_false, List.zipIdx, List.foldl, Team.vreg_setV, Nat.add_zero]
      by_cases hc : tid' = tid ∧ d ≤ r ∧ r < d + 1
      · have : r - d = 0 := by omega
        rw [if_pos (e1.2 hc), if_pos hc, this, h32]; simp [halfOf]
      · rw [if_neg (fun h => hc (e1.1 h)), if_neg hc]
    · by_cases hz : zero = true
      · simp only [hw, hz, if_true, Bool.false_eq_true, if_false, List.zipIdx, List.foldl, Team.vreg_setV, Nat.add_zero]
        by_cases hc : tid' = tid ∧ d ≤ r ∧ r < d + 1
        · rw [if_pos (e1.2 hc), if_pos hc]
        · rw [if_neg (fun h => hc (e1.1 h)), if_neg hc]
      · simp [hw, hz]
  | true =>
    have e1 : ((512 * tid' + r = 512 * tid + d) ↔ (tid' = tid ∧ r = d)) := by simp at hd; omega
    have e2 : ((512 * tid' + r = 512 * tid + (d + 1)) ↔ (tid' = tid ∧ r = d + 1)) := by simp at hd; omega
    simp only [Team.writeRun, halves]
    by_cases hw : wm.getLsbD tid = true
    · simp only [hw, if_true, List.zipIdx, List.foldl, Team.vreg_setV, Nat.add_zero, Nat.zero_add, e1, e2]
      by_cases h2 : tid' = tid ∧ r = d + 1
      · have : r - d = 1 := by omega
        rw [if_pos h2, if_pos ⟨h2.1, by omega, by omega⟩, this, h32]; rfl
      · rw [if_neg h2]
        by_cases h1 : tid' = tid ∧ r = d
        · have : r - d = 0 := by omega
          rw [if_pos h1, if_pos ⟨h1.1, by omega, by omega⟩, this, h32]; simp [halfOf]
        · rw [if_neg h1, if_neg (by omega)]
    · by_cases hz : zero = true
      · simp only [hw, hz, if_true, Bool.false_eq_true, if_false, List.zipIdx, List.foldl, Team.vreg_setV, Nat.add_zero,
          Nat.zero_add, e1, e2]
        by_cases hc : tid' = tid ∧ d ≤ r ∧ r < d + 2
        · rw [if_pos hc]
          by_cases h2 : tid' = tid ∧ r = d + 1
          · rw [if_pos h2]
          · rw [if_neg h2, if_pos ⟨hc.1, by omega⟩]
        · rw [if_neg hc, if_neg (fun h => hc ⟨h.1, by omega, by omega⟩), if_neg (fun h => hc ⟨h.1, by omega, by omega⟩)]
      · simp [hw, hz]

/-! All threads. -/

theorem Team.foldl_writeRun_eq (wm : TMask) (zero : Bool) (d : Nat) (g : Nat → List Nat) (l : List Nat) (t : Team) :
    l.foldl (fun t tid => t.writeRun wm zero tid d (g tid)) t =
      { t with v := (l.foldl (fun t tid => t.writeRun wm zero tid d (g tid)) t).v } := by
  induction l generalizing t with
  | nil => rfl
  | cons x l ih => rw [List.foldl_cons, ih, Team.writeRun_eq t]

theorem Team.vreg_foldl_writeRun (wm : TMask) (zero : Bool) (d : Nat) (wide : Bool) (val : Nat → Nat) (tid r : Nat)
    (hd : d + (if wide then 2 else 1) ≤ 512) (hr : r < 512) (l : List Nat) (hl : l.Nodup) (t : Team) :
    (l.foldl (fun t tid => t.writeRun wm zero tid d (halves wide (val tid))) t).vreg tid r =
      if tid ∈ l ∧ d ≤ r ∧ r < d + (if wide then 2 else 1) then
        (if wm.getLsbD tid then halfOf (val tid) (r - d) else if zero then 0 else t.vreg tid r)
      else t.vreg tid r := by
  induction l generalizing t with
  | nil => simp
  | cons x l ih =>
    rw [List.nodup_cons] at hl
    rw [List.foldl_cons, ih hl.2, Team.vreg_writeRun t wm zero x d wide (val x) tid r hd hr]
    by_cases hx : tid = x
    · subst hx; simp [hl.1]
    · simp [hx]

theorem Team.foldl_pairs {α : Type} (f : Team → Nat → α → Team) (val : Nat → α) (l : List Nat) (t : Team) :
    (l.map fun tid => (tid, val tid)).foldl (fun t (x : Nat × α) => f t x.1 x.2) t = l.foldl (fun t tid => f t tid (val tid)) t := by
  induction l generalizing t with
  | nil => rfl
  | cons x l ih => simp [ih]

/-- The destination of a result changes registers v and s alone. -/
theorem Team.writeD_eq (t : Team) (w : Ins) (wide : Bool) (vals : List (Nat × Nat)) :
    t.writeD w wide vals = { t with v := (t.writeD w wide vals).v, s := (t.writeD w wide vals).s } := by
  unfold Team.writeD
  split
  · have h : ∀ (d : Nat) (l : List (Nat × Nat)) (t : Team) (wm : TMask),
        l.foldl (fun t (x : Nat × Nat) => t.writeRun wm w.zero x.1 d (halves wide x.2)) t =
          { t with v := (l.foldl (fun t (x : Nat × Nat) => t.writeRun wm w.zero x.1 d (halves wide x.2)) t).v } := by
      intro d l
      induction l with
      | nil => intro t wm; rfl
      | cons x l ih => intro t wm; rw [List.foldl_cons, ih, Team.writeRun_eq t]
    have := h ‹_› vals t (t.writeMask w)
    simp only at this ⊢
    rw [this]
  · split
    · have h : ∀ (d : Nat) (l : List (Nat × Nat)) (t : Team),
          l.foldl (fun t (x : Nat × Nat) => t.setS (d + x.2) (BitVec.ofNat 32 x.1)) t =
            { t with s := (l.foldl (fun t (x : Nat × Nat) => t.setS (d + x.2) (BitVec.ofNat 32 x.1)) t).s } := by
        intro d l
        induction l with
        | nil => intro t; rfl
        | cons x l ih => intro t; rw [List.foldl_cons, ih]; rfl
      rename_i d _ _ _ x _
      have := h d (halves wide x).zipIdx t
      simp only at this ⊢
      rw [this]
    · rfl
  · rfl

/-- What `writeD` writes with the results of the executing threads. -/
theorem Team.writeD_result (t : Team) (w : Ins) (e : TMask) (wide : Bool) (val : Nat → Nat) (l : List Nat)
    (hl : l = if w.d.isS then (threadsOf t.threads e).take 1 else threadsOf t.threads e)
    (hd : ∀ d, w.d = .v d → d + (if wide then 2 else 1) ≤ 512) :
    Team.Result t (t.writeD w wide (l.map fun tid => (tid, val tid))) w e wide val := by
  have h32 : ∀ y : Nat, BitVec.ofNat 32 (y % 2 ^ 32) = BitVec.ofNat 32 y := by
    intro y; apply BitVec.eq_of_toNat_eq; simp
  unfold Team.Result
  cases hw : w.d with
  | v d =>
    have hl' : l = threadsOf t.threads e := by rw [hl, hw]; rfl
    have e1 : t.writeD w wide (l.map fun tid => (tid, val tid)) =
        l.foldl (fun t' tid => t'.writeRun (t.writeMask w) w.zero tid d (halves wide (val tid))) t := by
      simp only [Team.writeD, hw]
      exact Team.foldl_pairs (fun t' tid x => t'.writeRun (t.writeMask w) w.zero tid d (halves wide x)) val l t
    rw [e1]
    refine ⟨?_, ?_, ?_⟩
    · intro tid r hr
      rw [Team.vreg_foldl_writeRun _ _ _ _ _ _ _ (hd d hw) hr _ (by rw [hl']; exact nodup_threadsOf _ _)]
      rw [hl']
      simp only [mem_threadsOf, halfOf, and_assoc]
    · intro r; rw [Team.foldl_writeRun_eq]; rfl
    · intro k; rw [Team.foldl_writeRun_eq]; rfl
  | s d =>
    have hl' : l = (threadsOf t.threads e).take 1 := by rw [hl, hw]; rfl
    cases ht : threadsOf t.threads e with
    | nil =>
      have : l = [] := by rw [hl', ht]; rfl
      subst this
      simp [Team.writeD, hw]
    | cons tid ts =>
      have : l = [tid] := by rw [hl', ht]; rfl
      subst this
      simp only [Team.writeD, hw, List.map_cons, List.map_nil, List.head?_cons]
      cases wide with
      | false =>
        simp only [halves, Bool.false_eq_true, if_false, List.zipIdx, List.foldl, Nat.add_zero]
        refine ⟨fun _ _ _ => rfl, fun r => ?_, fun _ => rfl⟩
        rw [Team.sreg_setS, h32]
        by_cases hr : r = d
        · subst hr; simp
        · rw [if_neg hr, if_neg (by omega)]
      | true =>
        simp only [halves, if_true, List.zipIdx, List.foldl, Nat.add_zero, Nat.zero_add]
        refine ⟨fun _ _ _ => rfl, fun r => ?_, fun _ => rfl⟩
        rw [Team.sreg_setS, Team.sreg_setS, h32, h32]
        by_cases h1 : r = d + 1
        · subst h1; rw [if_pos rfl, if_pos ⟨by omega, by omega⟩]; simp
        · rw [if_neg h1]
          by_cases h0 : r = d
          · subst h0; rw [if_pos rfl, if_pos ⟨by omega, by omega⟩]; simp
          · rw [if_neg h0, if_neg (by omega)]
  | _ => simp [Team.writeD, hw]

/-! Predicates. -/

theorem getLsbD_bitMask (tid j : Nat) (hj : j < 1024) : (bitMask tid).getLsbD j = decide (j = tid) := by
  simp only [bitMask, BitVec.getLsbD_ofNat, hj, decide_true, Bool.true_and, Nat.testBit_two_pow]
  exact decide_eq_decide.2 eq_comm

theorem Team.preg_setPbit (t : Team) (tid n : Nat) (b : Bool) (k j : Nat) (hj : j < 1024) :
    ((t.setPbit tid n b).preg k).getLsbD j = if k = n ∧ j = tid then b else (t.preg k).getLsbD j := by
  unfold Team.setPbit
  rw [Team.preg_setP]
  by_cases hk : k = n
  · subst hk
    cases b
    · simp only [Bool.false_eq_true, if_false, if_true, true_and, BitVec.getLsbD_and, BitVec.getLsbD_not, hj, decide_true,
        getLsbD_bitMask _ _ hj, Bool.true_and]
      by_cases h : j = tid <;> simp [h]
    · simp only [if_true, true_and, BitVec.getLsbD_or, getLsbD_bitMask _ _ hj]
      by_cases h : j = tid <;> simp [h]
  · simp [hk]

theorem Team.setPbit_eq (t : Team) (tid n : Nat) (b : Bool) : t.setPbit tid n b = { t with p := (t.setPbit tid n b).p } := rfl

theorem Team.writePbit_eq (t : Team) (wm : TMask) (zero : Bool) (tid n : Nat) (b : Bool) :
    t.writePbit wm zero tid n b = { t with p := (t.writePbit wm zero tid n b).p } := by
  unfold Team.writePbit
  repeat' split
  all_goals rfl

theorem Team.preg_writePbit_ne (t : Team) (wm : TMask) (zero : Bool) (tid n : Nat) (b : Bool) {k : Nat} (h : k ≠ n) :
    (t.writePbit wm zero tid n b).preg k = t.preg k := by
  unfold Team.writePbit Team.setPbit
  repeat' split
  all_goals simp [Team.preg_setP, h]

theorem Team.preg_writePbit (t : Team) (wm : TMask) (zero : Bool) (tid n : Nat) (b : Bool) (j : Nat) (hj : j < 1024) :
    ((t.writePbit wm zero tid n b).preg n).getLsbD j =
      if j = tid then (if wm.getLsbD tid then b else if zero then false else (t.preg n).getLsbD j)
      else (t.preg n).getLsbD j := by
  unfold Team.writePbit
  by_cases hw : wm.getLsbD tid = true
  · rw [if_pos hw, if_pos hw, Team.preg_setPbit _ _ _ _ _ _ hj]
    by_cases h : j = tid
    · rw [if_pos ⟨rfl, h⟩, if_pos h]
    · rw [if_neg (fun x => h x.2), if_neg h]
  · rw [if_neg hw, if_neg hw]
    by_cases hz : zero = true
    · rw [if_pos hz, if_pos hz, Team.preg_setPbit _ _ _ _ _ _ hj]
      by_cases h : j = tid
      · rw [if_pos ⟨rfl, h⟩, if_pos h]
      · rw [if_neg (fun x => h x.2), if_neg h]
    · rw [if_neg hz, if_neg hz]; split <;> rfl

/-- Writes of a predicate over threads. -/
theorem Team.preg_foldl_writePbit (wm : TMask) (zero : Bool) (n : Nat) (val : Nat → Bool) (j : Nat) (hj : j < 1024)
    (l : List Nat) (t : Team) :
    ((l.foldl (fun t tid => t.writePbit wm zero tid n (val tid)) t).preg n).getLsbD j =
      if j ∈ l then (if wm.getLsbD j then val j else if zero then false else (t.preg n).getLsbD j)
      else (t.preg n).getLsbD j := by
  induction l generalizing t with
  | nil => simp
  | cons x l ih =>
    rw [List.foldl_cons, ih, Team.preg_writePbit _ _ _ _ _ _ _ hj]
    by_cases hx : j = x
    · subst hx; simp; intros; split <;> simp_all
    · simp [hx]

theorem Team.foldl_writePbit_eq (wm : TMask) (zero : Bool) (n : Nat) (l : List (Nat × Bool)) (t : Team) :
    l.foldl (fun t (x : Nat × Bool) => t.writePbit wm zero x.1 n x.2) t =
      { t with p := (l.foldl (fun t (x : Nat × Bool) => t.writePbit wm zero x.1 n x.2) t).p } := by
  induction l generalizing t with
  | nil => rfl
  | cons x l ih => rw [List.foldl_cons, ih, Team.writePbit_eq t]

theorem Team.preg_foldl_writePbit_ne (wm : TMask) (zero : Bool) (n : Nat) (l : List (Nat × Bool)) (t : Team) {k : Nat}
    (h : k ≠ n) : (l.foldl (fun t (x : Nat × Bool) => t.writePbit wm zero x.1 n x.2) t).preg k = t.preg k := by
  induction l generalizing t with
  | nil => rfl
  | cons x l ih => rw [List.foldl_cons, ih, Team.preg_writePbit_ne _ _ _ _ _ _ h]

theorem Team.writeP_eq (t : Team) (w : Ins) (n : Nat) (vals : List (Nat × Bool)) :
    t.writeP w n vals = { t with p := (t.writeP w n vals).p } := Team.foldl_writePbit_eq _ _ _ _ _

/-- A predicate destination. -/
theorem Team.writeP_result (t : Team) (w : Ins) (e : TMask) (n : Nat) (val : Nat → Bool) :
    Team.Predicates t (t.writeP w n ((threadsOf t.threads e).map fun tid => (tid, val tid))) w e [(n, val)] := by
  refine ⟨?_, ?_, ?_, ?_⟩
  · intro x hx tid ht
    simp only [List.mem_singleton] at hx
    subst hx
    simp only [Team.writeP, Team.foldl_pairs (fun t' tid (b : Bool) => Team.writePbit t' (t.writeMask w) w.zero tid n b),
      Team.preg_foldl_writePbit _ _ _ _ _ ht, mem_threadsOf]
  · intro k hk
    exact Team.preg_foldl_writePbit_ne _ _ _ _ _ (by simpa using hk)
  · rw [Team.writeP_eq]
  · rw [Team.writeP_eq]

/-- A pair is its predicate and the complement after it (06 R162). -/
theorem Team.writePair_split (t : Team) (w : Ins) (n : Nat) (vals : List (Nat × Bool)) :
    (∀ j, j < 1024 → ((t.writePair w n vals).preg n).getLsbD j = ((t.writeP w n vals).preg n).getLsbD j) ∧
    (∀ j, j < 1024 → ((t.writePair w n vals).preg (n + 1)).getLsbD j =
      ((t.writeP w (n + 1) (vals.map fun x => (x.1, !x.2))).preg (n + 1)).getLsbD j) ∧
    (∀ k, k ≠ n → k ≠ n + 1 → (t.writePair w n vals).preg k = t.preg k) ∧
    t.writePair w n vals = { t with p := (t.writePair w n vals).p } := by
  unfold Team.writePair Team.writeP
  simp only
  generalize t.writeMask w = wm
  have h1 : ∀ (l : List (Nat × Bool)) (t u : Team), (∀ j, j < 1024 → (t.preg n).getLsbD j = (u.preg n).getLsbD j) →
      ∀ j, j < 1024 →
      ((l.foldl (fun t (x : Nat × Bool) => (t.writePbit wm w.zero x.1 n x.2).writePbit wm w.zero x.1 (n + 1) (!x.2)) t).preg n).getLsbD j
        = ((l.foldl (fun t (x : Nat × Bool) => t.writePbit wm w.zero x.1 n x.2) u).preg n).getLsbD j := by
    intro l
    induction l with
    | nil => intro t u h; exact h
    | cons x l ih =>
      intro t u h j hj
      rw [List.foldl_cons, List.foldl_cons]
      refine ih _ _ (fun i hi => ?_) j hj
      rw [Team.preg_writePbit_ne _ _ _ _ _ _ (by omega : n ≠ n + 1), Team.preg_writePbit _ _ _ _ _ _ _ hi,
        Team.preg_writePbit _ _ _ _ _ _ _ hi, h i hi]
  have h2 : ∀ (l : List (Nat × Bool)) (t u : Team),
      (∀ j, j < 1024 → (t.preg (n + 1)).getLsbD j = (u.preg (n + 1)).getLsbD j) → ∀ j, j < 1024 →
      ((l.foldl (fun t (x : Nat × Bool) => (t.writePbit wm w.zero x.1 n x.2).writePbit wm w.zero x.1 (n + 1) (!x.2)) t).preg
        (n + 1)).getLsbD j
        = (((l.map fun x => (x.1, !x.2)).foldl (fun t (x : Nat × Bool) => t.writePbit wm w.zero x.1 (n + 1) x.2) u).preg
          (n + 1)).getLsbD j := by
    intro l
    induction l with
    | nil => intro t u h; exact h
    | cons x l ih =>
      intro t u h j hj
      rw [List.map_cons, List.foldl_cons, List.foldl_cons]
      refine ih _ _ (fun i hi => ?_) j hj
      rw [Team.preg_writePbit _ _ _ _ _ _ _ hi, Team.preg_writePbit _ _ _ _ _ _ _ hi,
        Team.preg_writePbit_ne _ _ _ _ _ _ (by omega : n + 1 ≠ n), h i hi]
  have h3 : ∀ (l : List (Nat × Bool)) (t : Team) (k : Nat), k ≠ n → k ≠ n + 1 →
      (l.foldl (fun t (x : Nat × Bool) => (t.writePbit wm w.zero x.1 n x.2).writePbit wm w.zero x.1 (n + 1) (!x.2)) t).preg k
        = t.preg k := by
    intro l
    induction l with
    | nil => intro t k _ _; rfl
    | cons x l ih =>
      intro t k hk hk'
      rw [List.foldl_cons, ih _ _ hk hk', Team.preg_writePbit_ne _ _ _ _ _ _ hk', Team.preg_writePbit_ne _ _ _ _ _ _ hk]
  have h4 : ∀ (l : List (Nat × Bool)) (t : Team),
      l.foldl (fun t (x : Nat × Bool) => (t.writePbit wm w.zero x.1 n x.2).writePbit wm w.zero x.1 (n + 1) (!x.2)) t =
        { t with p := (l.foldl (fun t (x : Nat × Bool) =>
          (t.writePbit wm w.zero x.1 n x.2).writePbit wm w.zero x.1 (n + 1) (!x.2)) t).p } := by
    intro l
    induction l with
    | nil => intro t; rfl
    | cons x l ih =>
      intro t
      rw [List.foldl_cons, ih, Team.writePbit_eq (t.writePbit _ _ _ _ _), Team.writePbit_eq t]
  exact ⟨h1 _ _ _ (fun _ _ => rfl), h2 _ _ _ (fun _ _ => rfl), h3 _ _, h4 _ _⟩

theorem Team.writePair_result (t : Team) (w : Ins) (e : TMask) (n : Nat) (val : Nat → Bool) :
    Team.Predicates t (t.writePair w n ((threadsOf t.threads e).map fun tid => (tid, val tid))) w e
      [(n, val), (n + 1, fun tid => !val tid)] := by
  obtain ⟨h1, h2, h3, h4⟩ := Team.writePair_split t w n ((threadsOf t.threads e).map fun tid => (tid, val tid))
  refine ⟨?_, ?_, ?_, ?_⟩
  · intro x hx tid ht
    simp only [List.mem_cons, List.not_mem_nil, or_false] at hx
    rcases hx with rfl | rfl
    · rw [h1 _ ht]
      exact (Team.writeP_result t w e n val).1 _ (List.mem_singleton.2 rfl) tid ht
    · rw [h2 _ ht, List.map_map]
      exact (Team.writeP_result t w e (n + 1) fun tid => !val tid).1 _ (List.mem_singleton.2 rfl) tid ht
  · intro k hk
    simp only [List.map_cons, List.map_nil, List.mem_cons, List.not_mem_nil, or_false, not_or] at hk
    exact h3 k hk.1 hk.2
  · rw [h4]
  · rw [h4]

end Sys2Proof.Machine
end

