-- ==== Sys2Proof/Laws/IntegerOps.lean ====
section
/-! SUPPORT. What the shared wrappers of the vector instructions do where the instruction may issue (06 R156 to R167). -/

namespace Sys2Proof.Machine

open Sys2Proof Host

/-- The checks of a well-formed instruction's words. -/
theorem WellFormed.checked {sd : Side} {o : Op} {w : Ins} (h : WellFormed sd (Instr.ofOp o w) = true)
    (ho : (Instr.ofOp o w).toOp = some (o, w)) : o.check sd 512 w = none := by
  simp only [WellFormed, ho, Bool.and_eq_true, Option.isNone_iff_eq_none] at h
  exact h.2

theorem toOp_ofOp (o : Op) (w : Ins) : (Instr.ofOp o w).toOp = some (o, w) := by cases o <;> rfl

theorem Op.check_opds {sd : Side} {regs : Nat} {o : Op} {w : Ins} (h : o.check sd regs w = none) :
    o.opdsOk sd regs w = true ∧ w.d.inRegs regs = true := by
  unfold Op.check at h
  repeat' split at h
  all_goals first | cases h; done | skip
  simp_all

/-- The v registers of a destination of one or two registers lie in the register file. -/
theorem dst_bound {sd : Side} {wide : Bool} {x : Opd} (hd : Opd.dst sd wide x = true) (hr : x.inRegs 512 = true) :
    ∀ d, x = .v d → d + (if wide then 2 else 1) ≤ 512 := by
  rintro d rfl
  simp only [Opd.inRegs, decide_eq_true_eq] at hr
  cases wide with
  | false => simp; omega
  | true =>
    simp only [Opd.dst, if_true] at hd ⊢
    cases sd <;> simp at hd; omega

/-- A result written by every executing thread, or once to a uniform D. -/
theorem writeAll_done {s : State} {si : Site} (h : s.site? = some si) (w : Ins) (wide : Bool) (val : Nat → Nat × Flags)
    (hd : ∀ d, w.d = .v d → d + (if wide then 2 else 1) ≤ 512) :
    ∃ u : Team, s.finish si w.len.size (.done (writeAll s si w wide ((actors si w (si.exec w)).map fun t => (t, val t)))) =
        s.goneOn si w u ∧ si.team.SameBut u ∧ u.rng = si.team.rng ∧
      si.team.Result u w (si.exec w) wide (fun tid => (val tid).1) ∧
      u.tsr = si.team.tsr ||| BitVec.ofNat 32 (Flags.all ((actors si w (si.exec w)).map fun tid => (val tid).2)) := by
  refine ⟨(si.team.writeD w wide ((actors si w (si.exec w)).map fun t => (t, (val t).1))).addTsr
      (Flags.all ((actors si w (si.exec w)).map fun tid => (val tid).2)), ?_, ?_, ?_, ?_, ?_⟩
  · simp only [State.finish, writeAll, State.onTeam_site h, State.retireIns_setTeam, State.goneOn, List.map_map]
    rfl
  · unfold Team.SameBut; rw [Team.addTsr_regs, Team.writeD_eq]
  · rw [Team.addTsr_regs, Team.writeD_eq]
  · have := Team.writeD_result si.team w (si.exec w) wide (fun t => (val t).1) (actors si w (si.exec w)) rfl hd
    exact this
  · rw [Team.addTsr_regs, Team.writeD_eq]

theorem State.wW_team {s : State} {si : Site} (h : s.site? = some si) (w : Ins) : s.wW w = w.mb 49 := by
  simp [State.wW, onCtlSide, State.site?_cur h]

theorem State.wW_ctl {s : State} {si : CtlSite} (h : s.ctlSite? = some si) (w : Ins) : s.wW w = true := by
  simp [State.wW, onCtlSide, State.ctlSite?_cur h]

/-- An instruction of 0x040 on a team. -/
theorem intOp_team {s : State} {si : Site} (o : Op) (w : Ins) (sh : IntShape) (wide : Bool) (f : IntFn)
    (h : s.site? = some si) (g : si.goes s o w = true) (hd : ∀ d, w.d = .v d → d + (if wide then 2 else 1) ≤ 512) :
    ∃ u : Team, intOp o w s sh wide f = .next (s.goneOn si w u) ∧ si.team.SameBut u ∧ u.rng = si.team.rng ∧
      si.team.Result u w (si.exec w) wide (fun t => (f (rdW s si.core si.team sh.wide t w.a)
        (rdB s si.core si.team w sh.wideB t) (rdW s si.core si.team sh.wideC t w.c)).1) ∧
      u.tsr = si.team.tsr ||| BitVec.ofNat 32 (Flags.all ((actors si w (si.exec w)).map fun t =>
        (f (rdW s si.core si.team sh.wide t w.a) (rdB s si.core si.team w sh.wideB t)
          (rdW s si.core si.team sh.wideC t w.c)).2)) := by
  have := writeAll_done h w wide (fun t => f (rdW s si.core si.team sh.wide t w.a)
    (rdB s si.core si.team w sh.wideB t) (rdW s si.core si.team sh.wideC t w.c)) hd
  obtain ⟨u, h1, h2⟩ := this
  refine ⟨u, ?_, h2⟩
  rw [intOp, issueBoth_team _ _ h, issueTeam_goes _ h g]
  exact congrArg _ h1

theorem State.finishCtl_done {s : State} {si : CtlSite} (h : s.ctlSite? = some si) (w : Ins) (x : Nat) :
    s.finishCtl si w.len.size (.done (s.writeK si.core w.d x)) = s.ctlGoneOn si w (match w.d with
      | .k r => { si.ctl with k := si.ctl.k.put 0 r (BitVec.ofNat 64 x) }
      | _ => si.ctl) := by
  rw [State.ctlSite?_ctl h]
  cases hd : w.d <;> simp [State.finishCtl, State.onCtl, State.writeK, State.ctlGoneOn, Ctl.setK]

/-- An instruction of 0x040 on the control thread (06 R167). -/
theorem intOp_ctl {s : State} {si : CtlSite} (o : Op) (w : Ins) (sh : IntShape) (wide : Bool) (f : IntFn)
    (h : s.ctlSite? = some si) (g : si.goes s o w = true) :
    intOp o w s sh wide f = .next (s.ctlGoneOn si w (match w.d with
      | .k r => { si.ctl with k := si.ctl.k.put 0 r (BitVec.ofNat 64 (f (rdK s si.core w.a)
          (if w.litB then immB w sh.wideB else rdK s si.core w.b) (rdK s si.core w.c)).1) }
      | _ => si.ctl)) := by
  rw [intOp, issueBoth_ctl _ _ h, issueCtl_goes _ h g]
  exact congrArg _ (State.finishCtl_done h w _)

end Sys2Proof.Machine
end

