-- ==== Sys2Proof/Laws/FloatOps.lean ====
section
/-! SUPPORT. Random streams, and the shared wrappers of the float instructions and compares (04 R102, 06 R158, R162). -/

namespace Sys2Proof.Machine

open Sys2Proof Host

theorem Team.rand_setRand (t : Team) (tid : Nat) (x : W64) (k : Nat) :
    (t.setRand tid x).rand k = if k = tid then x else t.rand k := by
  by_cases h : k = tid
  · subst h; simp [Team.rand, Team.setRand]
  · simp [Team.rand, Team.setRand, Tbl.get?_set_ne _ _ h, h]

theorem Team.rand_foldl_setRand (f : Team → Nat → W64) (hf : ∀ t u k, t.rand k = u.rand k → f t k = f u k) :
    ∀ (l : List Nat) (t : Team) (k : Nat), l.Nodup →
      (l.foldl (fun t tid => t.setRand tid (f t tid)) t).rand k = if k ∈ l then f t k else t.rand k
  | [], t, k, _ => by simp
  | x :: l, t, k, h => by
    obtain ⟨hx, hl⟩ := List.nodup_cons.1 h
    rw [List.foldl_cons, Team.rand_foldl_setRand f hf l _ k hl]
    by_cases hk : k = x
    · subst hk; simp [hx, Team.rand_setRand]
    · by_cases hm : k ∈ l
      · simp only [hm, if_true, List.mem_cons, or_true]
        exact hf _ _ _ (by simp [Team.rand_setRand, hk])
      · simp [hm, hk, Team.rand_setRand]

theorem Team.foldl_setRand_eq (f : Team → Nat → W64) (l : List Nat) (t : Team) :
    l.foldl (fun t tid => t.setRand tid (f t tid)) t = { t with rng := (l.foldl (fun t tid => t.setRand tid (f t tid)) t).rng } := by
  induction l generalizing t with
  | nil => rfl
  | cons x l ih => rw [List.foldl_cons, ih]; rfl

theorem Team.drawn_eq (t : Team) (sto : Bool) (n : Nat) (ts : List Nat) :
    t.drawn sto n ts = { t with rng := (t.drawn sto n ts).rng } := by
  unfold Team.drawn
  split
  · exact Team.foldl_setRand_eq (fun t tid => (drawMany n (t.rand tid)).1) ts t
  · rfl

theorem Team.rand_drawn (t : Team) (sto : Bool) (n : Nat) (ts : List Nat) (h : ts.Nodup) (k : Nat) :
    (t.drawn sto n ts).rand k = if sto = true ∧ k ∈ ts then (drawMany n (t.rand k)).1 else t.rand k := by
  unfold Team.drawn
  cases sto with
  | false => simp
  | true => simp [Team.rand_foldl_setRand (fun t tid => (drawMany n (t.rand tid)).1) (fun t u k e => by simp [e]) ts t k h]

theorem nodup_actors (si : Site) (w : Ins) (e : TMask) : (actors si w e).Nodup := by
  unfold actors
  simp only
  split
  · exact (nodup_threadsOf _ _).sublist (List.take_sublist _ _)
  · exact nodup_threadsOf _ _

/-- A result written by every executing thread over a team whose streams have moved. -/
theorem writeAll_drawn {s : State} {si : Site} (h : s.site? = some si) (w : Ins) (wide : Bool) (val : Nat → Nat × Flags)
    (f : Team → Team) (hf : ∀ t, f t = { t with rng := (f t).rng })
    (hd : ∀ d, w.d = .v d → d + (if wide then 2 else 1) ≤ 512) :
    ∃ u : Team, s.finish si w.len.size (.done (writeAll (s.onTeam si f) si w wide
        ((actors si w (si.exec w)).map fun t => (t, val t)))) = s.goneOn si w u ∧ si.team.SameBut u ∧
      u.rng = (f si.team).rng ∧ si.team.Result u w (si.exec w) wide (fun tid => (val tid).1) ∧
      u.tsr = si.team.tsr ||| BitVec.ofNat 32 (Flags.all ((actors si w (si.exec w)).map fun tid => (val tid).2)) := by
  have ht := hf si.team
  refine ⟨((f si.team).writeD w wide ((actors si w (si.exec w)).map fun t => (t, (val t).1))).addTsr
      (Flags.all ((actors si w (si.exec w)).map fun tid => (val tid).2)), ?_, ?_, ?_, ?_, ?_⟩
  · have : (s.setTeam si.core si.slot (f si.team)).onTeam si = fun g => s.setTeam si.core si.slot (g (f si.team)) := by
      funext g; simp [State.onTeam]
    simp only [State.finish, writeAll, State.onTeam_site h, this, State.retireIns_setTeam, State.goneOn, List.map_map]
    rfl
  · unfold Team.SameBut; rw [Team.addTsr_regs, Team.writeD_eq, ht]
  · rw [Team.addTsr_regs, Team.writeD_eq]
  · have := Team.writeD_result (f si.team) w (si.exec w) wide (fun t => (val t).1) (actors si w (si.exec w))
      (by rw [ht]; rfl) hd
    rw [ht] at this ⊢
    exact this
  · rw [Team.addTsr_regs, Team.writeD_eq, ht]

/-- An instruction that rounds n times in each thread that computes. -/
theorem roundOp_team {s : State} {si : Site} (o : Op) (w : Ins) (wide : Bool) (n : Nat)
    (f : Site → RCtl → Nat → List Nat → Nat × Flags) (h : s.site? = some si) (g : si.goes s o w = true)
    (hd : ∀ d, w.d = .v d → d + (if wide then 2 else 1) ≤ 512) :
    let rc := si.team.rctl w
    let res (tid : Nat) := f si rc tid (si.team.roundBits (rc.mode == .sto) n tid)
    ∃ u : Team, roundOp o w s wide n f = .next (s.goneOn si w u) ∧ si.team.SameBut u ∧
      (∀ tid, u.rand tid = if rc.mode = .sto ∧ tid ∈ actors si w (si.exec w) then (drawMany n (si.team.rand tid)).1
        else si.team.rand tid) ∧
      si.team.Result u w (si.exec w) wide (fun tid => (res tid).1) ∧
      u.tsr = si.team.tsr ||| BitVec.ofNat 32 (Flags.all ((actors si w (si.exec w)).map fun tid => (res tid).2)) := by
  intro rc res
  obtain ⟨u, h1, h2, h3, h4⟩ := writeAll_drawn h w wide res
    (fun t => t.drawn (rc.mode == .sto) n (actors si w (si.exec w))) (fun t => Team.drawn_eq t _ _ _) hd
  refine ⟨u, ?_, h2, ?_, h4⟩
  · rw [roundOp, issueTeam_goes _ h g]
    exact congrArg _ h1
  · intro tid
    have hb := Team.rand_drawn si.team (rc.mode == .sto) n _ (nodup_actors si w (si.exec w)) tid
    have e : u.rand tid = (si.team.drawn (rc.mode == .sto) n (actors si w (si.exec w))).rand tid := by
      rw [h2, Team.drawn_eq]; simp [Team.rand, h3]
    rw [e, hb]
    simp

/-- A compare. -/
theorem setp_team {s : State} {si : Site} (w : Ins) (cond : Nat → Bool × Flags) (h : s.site? = some si) (n : Nat)
    (hn : w.d = .p n) :
    ∃ u : Team, s.finish si w.len.size (setp s si w (si.exec w) cond) = s.goneOn si w u ∧ si.team.SameBut u ∧
      u.rng = si.team.rng ∧
      (let q (tid : Nat) := combine w (cond tid).1 (rd32 s si.core si.team tid w.c != 0)
       si.team.Predicates u w (si.exec w) [(n, q), (n + 1, fun tid => !q tid)]) ∧
      u.tsr = si.team.tsr ||| BitVec.ofNat 32
        (Flags.all ((threadsOf si.team.threads (si.exec w)).map fun tid => (cond tid).2)) := by
  let q (tid : Nat) := combine w (cond tid).1 (rd32 s si.core si.team tid w.c != 0)
  have hp := Team.writePair_result si.team w (si.exec w) n q
  obtain ⟨-, -, -, he⟩ := Team.writePair_split si.team w n ((threadsOf si.team.threads (si.exec w)).map fun tid => (tid, q tid))
  refine ⟨(si.team.writePair w n ((threadsOf si.team.threads (si.exec w)).map fun tid => (tid, q tid))).addTsr
    (Flags.all ((threadsOf si.team.threads (si.exec w)).map fun tid => (cond tid).2)), ?_, ?_, ?_, ?_, ?_⟩
  · simp only [setp, hn, State.finish, State.onTeam_site h, State.retireIns_setTeam, State.goneOn, List.map_map]
    rfl
  · unfold Team.SameBut; rw [Team.addTsr_regs, he]
  · rw [Team.addTsr_regs, he]
  · exact hp
  · rw [Team.addTsr_regs, he]

end Sys2Proof.Machine
end

