-- ==== Sys2Proof/Laws/PerInstr.lean ====
section
/-! SUPPORT. A statement per instruction: its words take as many bytes as its length names, and a step of the device has none. -/

namespace Sys2Proof.Laws

open Sys2Proof

/-- The words of the instruction have exactly the bytes of its length (05 R122). -/
def Size.Statement (i : Instr) : Prop := (encode i).length = match i.toOp with
  | some (_, w) => w.len.size
  | none => 0

theorem leBytes_length (n x : Nat) : (leBytes n x).length = n := by
  induction n generalizing x with
  | zero => rfl
  | succ n h => simp [leBytes, h]

theorem size_statement (i : Instr) : Size.Statement i := by
  unfold Size.Statement encode
  cases h : i.toOp with
  | none => rfl
  | some x =>
    obtain ⟨o, w⟩ := x
    cases hl : w.len <;> cases hi : o.immExt <;> simp [hl, hi, leBytes_length, Len.size]

namespace Size

theorem nop : ∀ w, Statement (.nop w) := fun _ => size_statement _
theorem bra : ∀ w, Statement (.bra w) := fun _ => size_statement _
theorem brd : ∀ w, Statement (.brd w) := fun _ => size_statement _
theorem brx : ∀ w, Statement (.brx w) := fun _ => size_statement _
theorem brxd : ∀ w, Statement (.brxd w) := fun _ => size_statement _
theorem call : ∀ w, Statement (.call w) := fun _ => size_statement _
theorem callx : ∀ w, Statement (.callx w) := fun _ => size_statement _
theorem ret : ∀ w, Statement (.ret w) := fun _ => size_statement _
theorem syncr : ∀ w, Statement (.syncr w) := fun _ => size_statement _
theorem exit : ∀ w, Statement (.exit w) := fun _ => size_statement _
theorem yield : ∀ w, Statement (.yield w) := fun _ => size_statement _
theorem waitw : ∀ w, Statement (.waitw w) := fun _ => size_statement _
theorem sleep : ∀ w, Statement (.sleep w) := fun _ => size_statement _
theorem trap : ∀ w, Statement (.trap w) := fun _ => size_statement _
theorem bkpt : ∀ w, Statement (.bkpt w) := fun _ => size_statement _
theorem tvec : ∀ w, Statement (.tvec w) := fun _ => size_statement _
theorem tret : ∀ w, Statement (.tret w) := fun _ => size_statement _
theorem plop : ∀ w, Statement (.plop w) := fun _ => size_statement _
theorem pmovTov : ∀ w, Statement (.pmovTov w) := fun _ => size_statement _
theorem pmovSel : ∀ w, Statement (.pmovSel w) := fun _ => size_statement _
theorem vote : ∀ w, Statement (.vote w) := fun _ => size_statement _
theorem cjoin : ∀ w, Statement (.cjoin w) := fun _ => size_statement _
theorem cleave : ∀ w, Statement (.cleave w) := fun _ => size_statement _
theorem cbar : ∀ w, Statement (.cbar w) := fun _ => size_statement _
theorem barinit : ∀ w, Statement (.barinit w) := fun _ => size_statement _
theorem bararr : ∀ w, Statement (.bararr w) := fun _ => size_statement _
theorem barwait : ∀ w, Statement (.barwait w) := fun _ => size_statement _
theorem bartest : ∀ w, Statement (.bartest w) := fun _ => size_statement _
theorem role : ∀ w, Statement (.role w) := fun _ => size_statement _
theorem dqpop : ∀ w, Statement (.dqpop w) := fun _ => size_statement _
theorem crr : ∀ w, Statement (.crr w) := fun _ => size_statement _
theorem crw : ∀ w, Statement (.crw w) := fun _ => size_statement _
theorem mov : ∀ w, Statement (.mov w) := fun _ => size_statement _
theorem movi32 : ∀ w, Statement (.movi32 w) := fun _ => size_statement _
theorem movi64 : ∀ w, Statement (.movi64 w) := fun _ => size_statement _
theorem sel : ∀ w, Statement (.sel w) := fun _ => size_statement _
theorem iadd : ∀ w, Statement (.iadd w) := fun _ => size_statement _
theorem isub : ∀ w, Statement (.isub w) := fun _ => size_statement _
theorem imul : ∀ w, Statement (.imul w) := fun _ => size_statement _
theorem imulh : ∀ w, Statement (.imulh w) := fun _ => size_statement _
theorem imad : ∀ w, Statement (.imad w) := fun _ => size_statement _
theorem imin : ∀ w, Statement (.imin w) := fun _ => size_statement _
theorem imax : ∀ w, Statement (.imax w) := fun _ => size_statement _
theorem iabs : ∀ w, Statement (.iabs w) := fun _ => size_statement _
theorem ineg : ∀ w, Statement (.ineg w) := fun _ => size_statement _
theorem and : ∀ w, Statement (.and w) := fun _ => size_statement _
theorem or : ∀ w, Statement (.or w) := fun _ => size_statement _
theorem xor : ∀ w, Statement (.xor w) := fun _ => size_statement _
theorem andn : ∀ w, Statement (.andn w) := fun _ => size_statement _
theorem not : ∀ w, Statement (.not w) := fun _ => size_statement _
theorem shl : ∀ w, Statement (.shl w) := fun _ => size_statement _
theorem shr : ∀ w, Statement (.shr w) := fun _ => size_statement _
theorem sar : ∀ w, Statement (.sar w) := fun _ => size_statement _
theorem rot : ∀ w, Statement (.rot w) := fun _ => size_statement _
theorem popc : ∀ w, Statement (.popc w) := fun _ => size_statement _
theorem clz : ∀ w, Statement (.clz w) := fun _ => size_statement _
theorem brev : ∀ w, Statement (.brev w) := fun _ => size_statement _
theorem bfe : ∀ w, Statement (.bfe w) := fun _ => size_statement _
theorem bfi : ∀ w, Statement (.bfi w) := fun _ => size_statement _
theorem iaddc : ∀ w, Statement (.iaddc w) := fun _ => size_statement _
theorem lea : ∀ w, Statement (.lea w) := fun _ => size_statement _
theorem isetp : ∀ w, Statement (.isetp w) := fun _ => size_statement _
theorem fadd : ∀ w, Statement (.fadd w) := fun _ => size_statement _
theorem fmul : ∀ w, Statement (.fmul w) := fun _ => size_statement _
theorem ffma : ∀ w, Statement (.ffma w) := fun _ => size_statement _
theorem fmin : ∀ w, Statement (.fmin w) := fun _ => size_statement _
theorem fmax : ∀ w, Statement (.fmax w) := fun _ => size_statement _
theorem fsetp : ∀ w, Statement (.fsetp w) := fun _ => size_statement _
theorem fclass : ∀ w, Statement (.fclass w) := fun _ => size_statement _
theorem frcp : ∀ w, Statement (.frcp w) := fun _ => size_statement _
theorem frsq : ∀ w, Statement (.frsq w) := fun _ => size_statement _
theorem fsqrt : ∀ w, Statement (.fsqrt w) := fun _ => size_statement _
theorem fex2 : ∀ w, Statement (.fex2 w) := fun _ => size_statement _
theorem flg2 : ∀ w, Statement (.flg2 w) := fun _ => size_statement _
theorem fsin : ∀ w, Statement (.fsin w) := fun _ => size_statement _
theorem fcos : ∀ w, Statement (.fcos w) := fun _ => size_statement _
theorem ftanh : ∀ w, Statement (.ftanh w) := fun _ => size_statement _
theorem dadd : ∀ w, Statement (.dadd w) := fun _ => size_statement _
theorem dmul : ∀ w, Statement (.dmul w) := fun _ => size_statement _
theorem dfma : ∀ w, Statement (.dfma w) := fun _ => size_statement _
theorem dmin : ∀ w, Statement (.dmin w) := fun _ => size_statement _
theorem dmax : ∀ w, Statement (.dmax w) := fun _ => size_statement _
theorem dsetp : ∀ w, Statement (.dsetp w) := fun _ => size_statement _
theorem drcp : ∀ w, Statement (.drcp w) := fun _ => size_statement _
theorem hadd2 : ∀ w, Statement (.hadd2 w) := fun _ => size_statement _
theorem hmul2 : ∀ w, Statement (.hmul2 w) := fun _ => size_statement _
theorem hfma2 : ∀ w, Statement (.hfma2 w) := fun _ => size_statement _
theorem cvt : ∀ w, Statement (.cvt w) := fun _ => size_statement _
theorem cvtn : ∀ w, Statement (.cvtn w) := fun _ => size_statement _
theorem cvtw : ∀ w, Statement (.cvtw w) := fun _ => size_statement _
theorem lqscale : ∀ w, Statement (.lqscale w) := fun _ => size_statement _
theorem lq8 : ∀ w, Statement (.lq8 w) := fun _ => size_statement _
theorem lqd : ∀ w, Statement (.lqd w) := fun _ => size_statement _
theorem lqm : ∀ w, Statement (.lqm w) := fun _ => size_statement _
theorem shfl : ∀ w, Statement (.shfl w) := fun _ => size_statement _
theorem bcast : ∀ w, Statement (.bcast w) := fun _ => size_statement _
theorem redux : ∀ w, Statement (.redux w) := fun _ => size_statement _
theorem scan : ∀ w, Statement (.scan w) := fun _ => size_statement _
theorem rand : ∀ w, Statement (.rand w) := fun _ => size_statement _
theorem rseed : ∀ w, Statement (.rseed w) := fun _ => size_statement _
theorem ld : ∀ w, Statement (.ld w) := fun _ => size_statement _
theorem st : ∀ w, Statement (.st w) := fun _ => size_statement _
theorem ldu : ∀ w, Statement (.ldu w) := fun _ => size_statement _
theorem atom : ∀ w, Statement (.atom w) := fun _ => size_statement _
theorem red : ∀ w, Statement (.red w) := fun _ => size_statement _
theorem prf : ∀ w, Statement (.prf w) := fun _ => size_statement _
theorem cctl : ∀ w, Statement (.cctl w) := fun _ => size_statement _
theorem winf : ∀ w, Statement (.winf w) := fun _ => size_statement _
theorem winw : ∀ w, Statement (.winw w) := fun _ => size_statement _
theorem msend : ∀ w, Statement (.msend w) := fun _ => size_statement _
theorem mrecv : ∀ w, Statement (.mrecv w) := fun _ => size_statement _
theorem mpoll : ∀ w, Statement (.mpoll w) := fun _ => size_statement _
theorem kld : ∀ w, Statement (.kld w) := fun _ => size_statement _
theorem kst : ∀ w, Statement (.kst w) := fun _ => size_statement _
theorem kbr : ∀ w, Statement (.kbr w) := fun _ => size_statement _
theorem kjmp : ∀ w, Statement (.kjmp w) := fun _ => size_statement _
theorem kjx : ∀ w, Statement (.kjx w) := fun _ => size_statement _
theorem kcall : ∀ w, Statement (.kcall w) := fun _ => size_statement _
theorem kret : ∀ w, Statement (.kret w) := fun _ => size_statement _
theorem eqpop : ∀ w, Statement (.eqpop w) := fun _ => size_statement _
theorem eqwait : ∀ w, Statement (.eqwait w) := fun _ => size_statement _
theorem dqpush : ∀ w, Statement (.dqpush w) := fun _ => size_statement _
theorem launch : ∀ w, Statement (.launch w) := fun _ => size_statement _
theorem ksleep : ∀ w, Statement (.ksleep w) := fun _ => size_statement _
theorem khalt : ∀ w, Statement (.khalt w) := fun _ => size_statement _
theorem ktrap : ∀ w, Statement (.ktrap w) := fun _ => size_statement _
theorem kcsr : ∀ w, Statement (.kcsr w) := fun _ => size_statement _
theorem tclaim : ∀ w, Statement (.tclaim w) := fun _ => size_statement _
theorem trels : ∀ w, Statement (.trels w) := fun _ => size_statement _
theorem aclaim : ∀ w, Statement (.aclaim w) := fun _ => size_statement _
theorem arels : ∀ w, Statement (.arels w) := fun _ => size_statement _
theorem mfetch : ∀ w, Statement (.mfetch w) := fun _ => size_statement _
theorem mlist : ∀ w, Statement (.mlist w) := fun _ => size_statement _
theorem mnext : ∀ w, Statement (.mnext w) := fun _ => size_statement _
theorem mma : ∀ w, Statement (.mma w) := fun _ => size_statement _
theorem mzero : ∀ w, Statement (.mzero w) := fun _ => size_statement _
theorem mrd : ∀ w, Statement (.mrd w) := fun _ => size_statement _
theorem mwr : ∀ w, Statement (.mwr w) := fun _ => size_statement _
theorem mwrT : ∀ w, Statement (.mwrT w) := fun _ => size_statement _
theorem mst : ∀ w, Statement (.mst w) := fun _ => size_statement _
theorem mscl : ∀ w, Statement (.mscl w) := fun _ => size_statement _
theorem mstat : ∀ w, Statement (.mstat w) := fun _ => size_statement _
theorem cpkick : ∀ w, Statement (.cpkick w) := fun _ => size_statement _
theorem cpstat : ∀ w, Statement (.cpstat w) := fun _ => size_statement _
theorem texs : ∀ w, Statement (.texs w) := fun _ => size_statement _
theorem hgl : ∀ w, Statement (.hgl w) := fun _ => size_statement _
theorem resq : ∀ w, Statement (.resq w) := fun _ => size_statement _
theorem rays : ∀ w, Statement (.rays w) := fun _ => size_statement _
theorem hitr : ∀ w, Statement (.hitr w) := fun _ => size_statement _
theorem candv : ∀ w, Statement (.candv w) := fun _ => size_statement _
theorem tclose : ∀ w, Statement (.tclose w) := fun _ => size_statement _
theorem tlpub : ∀ w, Statement (.tlpub w) := fun _ => size_statement _
theorem trstat : ∀ w, Statement (.trstat w) := fun _ => size_statement _
theorem sred : ∀ w, Statement (.sred w) := fun _ => size_statement _
theorem sbank : ∀ w, Statement (.sbank w) := fun _ => size_statement _
theorem svb : ∀ w, Statement (.svb w) := fun _ => size_statement _
theorem smac : ∀ w, Statement (.smac w) := fun _ => size_statement _
theorem sacc : ∀ w, Statement (.sacc w) := fun _ => size_statement _
theorem sbexit : ∀ w, Statement (.sbexit w) := fun _ => size_statement _
theorem draw : ∀ w, Statement (.draw w) := fun _ => size_statement _
theorem rstate : ∀ w, Statement (.rstate w) := fun _ => size_statement _
theorem pxout : ∀ w, Statement (.pxout w) := fun _ => size_statement _
theorem rclear : ∀ w, Statement (.rclear w) := fun _ => size_statement _
theorem rresolve : ∀ w, Statement (.rresolve w) := fun _ => size_statement _
theorem rsync : ∀ w, Statement (.rsync w) := fun _ => size_statement _
theorem clauseStart : ∀ core slot, Statement (.clauseStart core slot) := fun _ _ => size_statement _
theorem quantumExpiry : ∀ core slot, Statement (.quantumExpiry core slot) := fun _ _ => size_statement _
theorem sleepExpiry : ∀ core slot entry, Statement (.sleepExpiry core slot entry) := fun _ _ _ => size_statement _
theorem issueStarvationPromote : ∀ core slot, Statement (.issueStarvationPromote core slot) := fun _ _ => size_statement _
theorem cohortPhaseSeen : ∀ core slot, Statement (.cohortPhaseSeen core slot) := fun _ _ => size_statement _
theorem cohortLeaveAtExit : ∀ core slot, Statement (.cohortLeaveAtExit core slot) := fun _ _ => size_statement _
theorem roleSwitch : ∀ core slot, Statement (.roleSwitch core slot) := fun _ _ => size_statement _
theorem teamRetire : ∀ core slot, Statement (.teamRetire core slot) := fun _ _ => size_statement _
theorem longLatencyComplete : ∀ core slot op part, Statement (.longLatencyComplete core slot op part) := fun _ _ _ _ => size_statement _
theorem storeComplete : ∀ who, Statement (.storeComplete who) := fun _ => size_statement _
theorem evictLastExpiry : ∀ crumb, Statement (.evictLastExpiry crumb) := fun _ => size_statement _
theorem arbiterCycle : ∀ arb reqs, Statement (.arbiterCycle arb reqs) := fun _ _ => size_statement _
theorem lockRegister : ∀ op, Statement (.lockRegister op) := fun _ => size_statement _
theorem engineOpRelease : ∀ op, Statement (.engineOpRelease op) := fun _ => size_statement _
theorem heldEventPost : ∀ core, Statement (.heldEventPost core) := fun _ => size_statement _
theorem faultRecordPost : ∀ who, Statement (.faultRecordPost who) := fun _ => size_statement _
theorem faultMend : ∀ rec ptes, Statement (.faultMend rec ptes) := fun _ _ => size_statement _
theorem pageDeliver : ∀ rec, Statement (.pageDeliver rec) := fun _ => size_statement _
theorem translationInvalidate : ∀ cx base len, Statement (.translationInvalidate cx base len) := fun _ _ _ => size_statement _
theorem wayConvert : ∀ die ways, Statement (.wayConvert die ways) := fun _ _ => size_statement _
theorem islandGate : ∀ island mode, Statement (.islandGate island mode) := fun _ _ => size_statement _
theorem launchRecordRead : ∀ cx queue, Statement (.launchRecordRead cx queue) := fun _ _ => size_statement _
theorem dispatchFaultResolve : ∀ rec, Statement (.dispatchFaultResolve rec) := fun _ => size_statement _
theorem gangPlace : ∀ die bases, Statement (.gangPlace die bases) := fun _ _ => size_statement _
theorem coresidentPlace : ∀ cx queue bases, Statement (.coresidentPlace cx queue bases) := fun _ _ _ => size_statement _
theorem gangRetire : ∀ gang, Statement (.gangRetire gang) := fun _ => size_statement _
theorem gangPreempt : ∀ gang, Statement (.gangPreempt gang) := fun _ => size_statement _
theorem gangRestore : ∀ gang cores bases, Statement (.gangRestore gang cores bases) := fun _ _ _ => size_statement _
theorem frameDeadline : ∀ part, Statement (.frameDeadline part) := fun _ => size_statement _
theorem framePreempt : ∀ part die, Statement (.framePreempt part die) := fun _ _ => size_statement _
theorem progressWatchdog : ∀ gang, Statement (.progressWatchdog gang) := fun _ => size_statement _
theorem commandTimeout : ∀ cmd, Statement (.commandTimeout cmd) := fun _ => size_statement _
theorem contextReset : ∀ cx, Statement (.contextReset cx) := fun _ => size_statement _
theorem flitDeliver : ∀ gang member port, Statement (.flitDeliver gang member port) := fun _ _ _ => size_statement _
theorem remoteApply : ∀ peer cx item, Statement (.remoteApply peer cx item) := fun _ _ _ => size_statement _
theorem windowAdvance : Statement .windowAdvance := size_statement _
theorem peerLost : ∀ peer, Statement (.peerLost peer) := fun _ => size_statement _
theorem fakalvoWrite : ∀ frame, Statement (.fakalvoWrite frame) := fun _ => size_statement _
theorem fakalvoRead : ∀ frame, Statement (.fakalvoRead frame) := fun _ => size_statement _
theorem fakalvoReadresp : ∀ frame, Statement (.fakalvoReadresp frame) := fun _ => size_statement _
theorem fakalvoAck : ∀ frame, Statement (.fakalvoAck frame) := fun _ => size_statement _
theorem fakalvoMarker : ∀ frame, Statement (.fakalvoMarker frame) := fun _ => size_statement _
theorem fakalvoRetransmit : ∀ peer, Statement (.fakalvoRetransmit peer) := fun _ => size_statement _
theorem ptpMessage : ∀ port offset, Statement (.ptpMessage port offset) := fun _ _ => size_statement _
theorem ethernetFrame : ∀ qset queue rx, Statement (.ethernetFrame qset queue rx) := fun _ _ _ => size_statement _
theorem claimGrant : ∀ core, Statement (.claimGrant core) := fun _ => size_statement _
theorem fetchComplete : ∀ op, Statement (.fetchComplete op) := fun _ => size_statement _
theorem fetchFaultUnmended : ∀ op, Statement (.fetchFaultUnmended op) := fun _ => size_statement _
theorem walkerEntryRead : ∀ core slot, Statement (.walkerEntryRead core slot) := fun _ _ => size_statement _
theorem walkerFaultResolve : ∀ core slot mend, Statement (.walkerFaultResolve core slot mend) := fun _ _ _ => size_statement _
theorem copyRegister : ∀ op, Statement (.copyRegister op) := fun _ => size_statement _
theorem accumCommit : ∀ op, Statement (.accumCommit op) := fun _ => size_statement _
theorem copyFinish : ∀ op, Statement (.copyFinish op) := fun _ => size_statement _
theorem copyFaultUnmended : ∀ op, Statement (.copyFaultUnmended op) := fun _ => size_statement _
theorem filterStep : ∀ stack act, Statement (.filterStep stack act) := fun _ _ => size_statement _
theorem filterRequestDone : ∀ stack req, Statement (.filterRequestDone stack req) := fun _ _ => size_statement _
theorem rayArrive : ∀ ray, Statement (.rayArrive ray) := fun _ => size_statement _
theorem spillRefill : ∀ stack vd, Statement (.spillRefill stack vd) := fun _ _ => size_statement _
theorem traversalRound : ∀ stack vd, Statement (.traversalRound stack vd) := fun _ _ => size_statement _
theorem candidateVerdict : ∀ gang index, Statement (.candidateVerdict gang index) := fun _ _ => size_statement _
theorem hitRecordPost : ∀ core slot, Statement (.hitRecordPost core slot) := fun _ _ => size_statement _
theorem treeletDrainDone : ∀ cx treelet, Statement (.treeletDrainDone cx treelet) := fun _ _ => size_statement _
theorem sredStep : ∀ op crumb, Statement (.sredStep op crumb) := fun _ _ => size_statement _
theorem sredComplete : ∀ op, Statement (.sredComplete op) := fun _ => size_statement _
theorem sbankEnter : ∀ stack, Statement (.sbankEnter stack) := fun _ => size_statement _
theorem smacBanksDone : ∀ op, Statement (.smacBanksDone op) := fun _ => size_statement _
theorem sessionTimeout : ∀ stack pc, Statement (.sessionTimeout stack pc) := fun _ _ => size_statement _
theorem deferredQueueServe : ∀ stack pc, Statement (.deferredQueueServe stack pc) := fun _ _ => size_statement _
theorem cdcTileFill : ∀ pa, Statement (.cdcTileFill pa) := fun _ => size_statement _
theorem cdcWriteback : ∀ pa, Statement (.cdcWriteback pa) := fun _ => size_statement _
theorem pageCChange : ∀ cx page setC, Statement (.pageCChange cx page setC) := fun _ _ _ => size_statement _
theorem pixelTeamSpawn : ∀ die base, Statement (.pixelTeamSpawn die base) := fun _ _ => size_statement _
theorem pxoutMerge : ∀ die crumb, Statement (.pxoutMerge die crumb) := fun _ _ => size_statement _
theorem drawComplete : ∀ die cmd, Statement (.drawComplete die cmd) := fun _ _ => size_statement _
theorem rasterFaultResolve : ∀ rec mend, Statement (.rasterFaultResolve rec mend) := fun _ _ => size_statement _
theorem scanOutStart : ∀ head, Statement (.scanOutStart head) := fun _ => size_statement _
theorem encodeFrameSend : ∀ head, Statement (.encodeFrameSend head) := fun _ => size_statement _
theorem thermalThrottle : ∀ die, Statement (.thermalThrottle die) := fun _ => size_statement _
theorem overtempShutdown : Statement .overtempShutdown := size_statement _
theorem powerLimit : Statement .powerLimit := size_statement _
theorem voltageFault : ∀ island, Statement (.voltageFault island) := fun _ => size_statement _
theorem eccError : ∀ cx corrected, Statement (.eccError cx corrected) := fun _ _ => size_statement _
theorem powerGood : ∀ digestOk, Statement (.powerGood digestOk) := fun _ => size_statement _
theorem vfFlr : ∀ vf, Statement (.vfFlr vf) := fun _ => size_statement _
theorem pfReset : Statement .pfReset := size_statement _
theorem prod : ∀ fn tag cx queue value, Statement (.prod fn tag cx queue value) := fun _ _ _ _ _ => size_statement _
theorem fclr : ∀ fn tag cx queue, Statement (.fclr fn tag cx queue) := fun _ _ _ _ => size_statement _
theorem ctlstart : ∀ fn tag cx core entry arg, Statement (.ctlstart fn tag cx core entry arg) := fun _ _ _ _ _ _ => size_statement _
theorem ctlstop : ∀ fn tag core, Statement (.ctlstop fn tag core) := fun _ _ _ => size_statement _
theorem winopen : ∀ fn tag cx base len stack bank, Statement (.winopen fn tag cx base len stack bank) := fun _ _ _ _ _ _ _ => size_statement _
theorem winclose : ∀ fn tag cx base, Statement (.winclose fn tag cx base) := fun _ _ _ _ => size_statement _
theorem memwr : ∀ fn tag cx va data, Statement (.memwr fn tag cx va data) := fun _ _ _ _ _ => size_statement _
theorem memrd : ∀ fn tag cx va len, Statement (.memrd fn tag cx va len) := fun _ _ _ _ _ => size_statement _
theorem getnote : ∀ fn tag, Statement (.getnote fn tag) := fun _ _ => size_statement _
theorem monitor : ∀ fn tag island, Statement (.monitor fn tag island) := fun _ _ _ => size_statement _
theorem headcfg : ∀ fn tag head reg value, Statement (.headcfg fn tag head reg value) := fun _ _ _ _ _ => size_statement _
theorem vdmake : ∀ fn tag req, Statement (.vdmake fn tag req) := fun _ _ _ => size_statement _
theorem arbset : ∀ fn tag req, Statement (.arbset fn tag req) := fun _ _ _ => size_statement _
theorem partmove : ∀ fn tag req, Statement (.partmove fn tag req) := fun _ _ _ => size_statement _
theorem sealRequest : ∀ fn tag req, Statement (.sealRequest fn tag req) := fun _ _ _ => size_statement _
theorem debugStop : ∀ fn tag who, Statement (.debugStop fn tag who) := fun _ _ _ => size_statement _
theorem debugRun : ∀ fn tag req, Statement (.debugRun fn tag req) := fun _ _ _ => size_statement _
theorem debugStep : ∀ fn tag who, Statement (.debugStep fn tag who) := fun _ _ _ => size_statement _
theorem debugGangStop : ∀ fn tag gang on, Statement (.debugGangStop fn tag gang on) := fun _ _ _ _ => size_statement _
theorem bkcfgWrite : ∀ arb slot value, Statement (.bkcfgWrite arb slot value) := fun _ _ _ => size_statement _
theorem wayqWrite : ∀ slice slot value, Statement (.wayqWrite slice slot value) := fun _ _ _ => size_statement _
theorem hdcfgWrite : ∀ head value, Statement (.hdcfgWrite head value) := fun _ _ => size_statement _
theorem trqlimWrite : ∀ stack vd ring qlim, Statement (.trqlimWrite stack vd ring qlim) := fun _ _ _ _ => size_statement _
theorem grpcfgWrite : ∀ stack group value, Statement (.grpcfgWrite stack group value) := fun _ _ _ => size_statement _
theorem frctlWrite : ∀ part value, Statement (.frctlWrite part value) := fun _ _ => size_statement _
theorem registerWrite : ∀ reg value, Statement (.registerWrite reg value) := fun _ _ => size_statement _
theorem ksleepExpiry : ∀ core, Statement (.ksleepExpiry core) := fun _ => size_statement _
theorem eqwaitTimeout : ∀ core, Statement (.eqwaitTimeout core) := fun _ => size_statement _
theorem leaseExpiry : ∀ core, Statement (.leaseExpiry core) := fun _ => size_statement _
theorem kldDataArrive : ∀ core, Statement (.kldDataArrive core) := fun _ => size_statement _
theorem cctlAnswer : ∀ core slot, Statement (.cctlAnswer core slot) := fun _ _ => size_statement _

end Size

end Sys2Proof.Laws
end

