-- ==== Sys2Proof/Laws/Turn.lean ====
section
/-! SUPPORT. What a step does with its turn: the lemmas that statements about steps cite. -/

namespace Sys2Proof.Machine

open Sys2Proof Host

theorem step_powered {s : State} (h : s.powered = true) : step s = turn s := by
  unfold step; rw [h]; rfl

/-- Whether an agent acts depends on the islands and the reset alone. -/
theorem State.letsAgent_congr {s t : State} (a : Agent) (hr : t.inReset = s.inReset) (hi : t.islands = s.islands) :
    t.letsAgent a = s.letsAgent a := by
  unfold State.letsAgent State.gated; rw [hr, hi]

theorem State.tickCore_inReset (s : State) (core n : Nat) : (s.tickCore core n).inReset = s.inReset := by
  unfold State.tickCore; split <;> rfl

theorem State.tickCore_islands (s : State) (core n : Nat) : (s.tickCore core n).islands = s.islands := by
  unfold State.tickCore; split <;> rfl

theorem turn_end {s : State} {a : Agent} (ha : s.agenda = []) (hc : s.cur = some a) (hl : s.letsAgent a = true) :
    turn s = agentTurn a ({ s with fresh := s.fresh + 1 }.tickCore (agentCore a) 1) := by
  have hl' : ({ s with fresh := s.fresh + 1 } : State).letsAgent a = true := hl
  unfold turn
  dsimp only
  simp only [ha, hc]
  simp only [ha, hc] at hl'
  exact if_pos hl'

theorem turn_agent {s : State} {t : Turn} {rest : List Turn} {a : Agent} (ha : s.agenda = t :: rest) (hact : t.act = .agent a)
    (hl : (({ s with fresh := s.fresh + 1, agenda := rest } : State).elapse t).letsAgent a = true) :
    turn s = agentTurn a { ({ s with fresh := s.fresh + 1, agenda := rest } : State).elapse t with cur := some a } := by
  unfold turn
  dsimp only
  simp only [ha, hact]
  exact if_pos hl

theorem turn_event {s : State} {t : Turn} {rest : List Turn} {i : Instr} (ha : s.agenda = t :: rest) (hact : t.act = .event i)
    (hi : i.toOp = none) (hl : (({ s with fresh := s.fresh + 1, agenda := rest } : State).elapse t).lets i = true) :
    turn s = exec i (({ s with fresh := s.fresh + 1, agenda := rest } : State).elapse t) := by
  unfold turn
  dsimp only
  simp only [ha, hact]
  refine if_neg ?_
  rw [hi, hl]
  exact Bool.false_ne_true

theorem teamTurn_issue {s : State} {core slot : Nat} {t : Team} {si : Site} (ht : s.team? core slot = some t)
    (hl : t.leaving = none) (hr : t.pendingRole = none ∨ t.between = false) (hs : s.site? = some si)
    (he : si.pos.atEnd = false) : teamTurn core slot s = issueAt s si := by
  have h2 : (t.pendingRole.isSome && t.between) = false := by rcases hr with h | h <;> simp [h]
  unfold teamTurn
  simp only [ht, hl, h2, hs, he, Option.isSome_none, Bool.false_eq_true, if_false]

end Sys2Proof.Machine
end

