-- ==== Sys2Proof/Tests/Slice0.lean ====
section
/-! SUPPORT. Tests of the model, and for the statements of Certificates/Slice0 states and operands that meet their hypotheses. -/

namespace Sys2Proof.Test

open Sys2Proof Host Machine Spec

set_option Elab.async false

/-! Builders. -/

/-- The acting team of State.withTeamAt stands at the instruction, changed by f, in a state changed by g. -/
def teamAt (i : Instr) (f : Team → Team) (g : State → State) : State :=
  g ((State.reset.withTeamAt (encode i)).updTeam 0 0 f)

/-- The control thread of core 0 stands at the instruction. -/
def ctlAt (i : Instr) (f : Ctl → Ctl) (g : State → State) : State := g ((State.reset.withCtlAt (encode i)).onCtl 0 f)

/-- The hypotheses that statements about a team's instruction share hold in the state, and so does a condition of their own. -/
def teamMeets (o : Op) (w : Ins) (s : State) (c : State → Site → Bool) : Bool :=
  match s.site? with
  | some si => WellFormed .team (Instr.ofOp o w) && si.goes s o w && c s si
  | none => false

def ctlMeets (o : Op) (w : Ins) (s : State) (c : State → CtlSite → Bool) : Bool :=
  match s.ctlSite? with
  | some si => WellFormed .ctl (Instr.ofOp o w) && si.goes s o w && c s si
  | none => false

/-- For a team's instruction o, a placed team that may issue it and a condition that holds there. -/
def team (o : Op) (w : Ins) (f : Team → Team) (g : State → State) (c : State → Site → Bool) : Bool :=
  teamMeets o w (teamAt (Instr.ofOp o w) f g) c

def ctl (o : Op) (w : Ins) (f : Ctl → Ctl) (g : State → State) (c : State → CtlSite → Bool) : Bool :=
  ctlMeets o w (ctlAt (Instr.ofOp o w) f g) c

/-- The word decodes to an instruction that is well-formed and may issue where State.withFetchWord places it. -/
def ready (x : Nat × Nat) : Bool :=
  let s := State.reset.withFetchWord x.1 x.2
  match (decodeTableWord x.1 x.2).bind (·.toOp) with
  | some (o, w) => teamMeets o w s (fun _ _ => true) || ctlMeets o w s (fun _ _ => true)
  | none => false

/-- The same for instructions of the control thread with the operands given. -/
def ctlReady (w : Ins) (l : List Op) : Bool := l.all fun o => ctl o w id id fun _ _ => true

/-! WellFormed: a term of each kind, and for each check a term that it refuses. -/

/-- ADD of 5 to v1, in v2 (05, the words of R133's example). -/
def addFive : Ins := { blank with d := .v 2, a := .v 1, b := .lit 5, mod := 6 }

theorem test_wellformed_add : WellFormed .team (.iadd addFive) = true := by decide +kernel
theorem test_wellformed_event : WellFormed .team (.pfReset) = true := by decide +kernel
theorem test_illformed_side : WellFormed .team (.khalt blank) = false ∧ WellFormed .ctl (.exit blank) = false := by decide +kernel
theorem test_illformed_length : WellFormed .team (.brd blank) = false := by decide +kernel
theorem test_illformed_guard : WellFormed .ctl (.khalt { blank with guard := some 0 }) = false ∧
    WellFormed .team (.iadd { addFive with guard := some 12 }) = false := by decide +kernel
theorem test_illformed_operand : WellFormed .team (.iadd { addFive with d := .v 512 }) = false ∧
    WellFormed .team (.iadd { addFive with d := .lit 1 }) = false ∧ WellFormed .team
        (.iadd { addFive with a := .k 1 }) = false := by
  decide +kernel
theorem test_illformed_pair : WellFormed .team (.mov { blank with d := .s 1, a := .s 2, mod := 1 }) = false := by decide +kernel
theorem test_illformed_uniform : WellFormed .team (.iadd { addFive with d := .s 2 }) = false := by decide +kernel
theorem test_illformed_mask : WellFormed .team (.iadd { addFive with len := .l96, d := .s 2, a := .s 1, wmask := some 1 }) = false := by
  decide +kernel
theorem test_illformed_fsel : WellFormed .team (.iadd { addFive with fsel := true }) = false := by decide +kernel
theorem test_illformed_modifier : WellFormed .team (.iadd { addFive with mod := 0 }) = false := by decide +kernel
theorem test_illformed_fields : WellFormed .team (.iadd { addFive with retain := 4 }) = false ∧
    WellFormed .team (.iadd { addFive with imm := 1 }) = false ∧
    WellFormed .team (.iadd { addFive with len := .l96, wmask := some 12 }) = false ∧
    WellFormed .team (.fadd { blank with len := .l96, d := .v 2, a := .v 1, b := .v 3, rnd := 6 }) = false := by decide +kernel

/-! Decoding: words written out from the encodings and the examples of the spec. -/

theorem test_decode_examples : (words.all fun x => decide (decodeTableWord x.1 x.2.1 = some x.2.2)) = true := by decide +kernel
theorem test_encode_examples : (words.all fun x => decide (leNat (encode x.2.2) = x.2.1)) = true := by decide +kernel
theorem test_decode_mlist : decodeTableWord 64 0x00003FF803FFF615 = some (.mlist { blank with a := .s 0 }) := by decide +kernel
theorem test_decode_dqpush : decodeTableWord 64 0x00003FF017FFF525 = some (.dqpush { blank with a := .k 5 }) := by decide +kernel
theorem test_decode_sred : decodeTableWord 64 0x00003FF007FFF741 = some (.sred { blank with a := .k 1 }) := by decide +kernel
theorem test_decode_svb : decodeTableWord 96 0x00003C031000014007FFF74A =
    some (.svb { blank with len := .l96, a := .k 1, b := .k 20, c := .k 3, mod := 0x800 }) := by decide +kernel
theorem test_decode_sacc : decodeTableWord 64 0x1F80006007FFF751 = some (.sacc { blank with a := .k 1, b := .k 6, mod := 0xFC0 }) := by
  decide +kernel
theorem test_decode_draw : decodeTableWord 64 0x00003C300FFFF781 = some (.draw { blank with a := .k 3, b := .lit 3 }) := by
  decide +kernel
theorem test_decode_rresolve : decodeTableWord 64 0x00023FF007FFF791 = some (.rresolve { blank with a := .k 1, mod := 1 }) := by
  decide +kernel
/-- The LQ8 line of 06's example. -/
theorem test_decode_lq8 : decodeTableWord 96 0x00003E000020010020110312 =
    some (.lq8 { blank with len := .l96, guard := some 0, d := .v 17, a := .v 8, b := .v 16, c := .s 0, mod := 16 }) := by
  decide +kernel
/-- A word whose opcode the table does not hold, and one with a reserved bit set. -/
theorem test_decode_reserved : decodeTableWord 64 0x00003FFFFFFFF0FD = none ∧ decodeTableWord 64 0x80003FFFFFFFF025 = none := by
  decide +kernel
/-- 05 R125: the header of a one-block clause with YIELD 0, SETA 15, SETB 15 and WAIT 0, and one with WAIT {0}. -/
theorem test_decode_header :
    decodeHeader .team 0x00FF0004 = .ok { yield := false, blocks := 1, setA := none, setB := none, wait := 0 } ∧
    decodeHeader .team 0x05F20014 = .ok { yield := true, blocks := 2, setA := some 2, setB := none, wait := 1 } := by decide +kernel

/-! Results, calculated by hand or taken from the spec's examples. -/

/-- The state that the instruction answers, where team 0 of core 0 has been changed by f. -/
def after (i : Instr) (f : Team → Team) : Option State :=
  match exec i (teamAt i f id) with
  | .next s => some s
  | _ => none

/-- A register of thread t of the acting team after the instruction. -/
def vAfter (i : Instr) (f : Team → Team) (t r : Nat) : Option W32 := ((after i f).bind (·.team? 0 0)).map (·.vreg t r)

def withV (l : List (Nat × Nat × W32)) (t : Team) : Team :=
  l.foldl (fun t x => { t with v := t.v.set (512 * x.1 + x.2.1) x.2.2 }) t

/-- 06 R163: the sum wraps; a thread beyond the team's keeps its registers. -/
theorem test_add_wraps : vAfter (.iadd addFive) (withV [(3, 1, 0xFFFFFFFE)]) 3 2 = some 3 ∧
    vAfter (.iadd addFive) (withV [(3, 1, 0xFFFFFFFE)]) 40 2 = some 0 := by decide +kernel
/-- 06 R163 under SAT: the largest signed number. -/
theorem test_add_saturates :
    vAfter (.iadd { addFive with len := .l96, sat := true }) (withV [(0, 1, 0x7FFFFFFE)]) 0 2 = some 0x7FFFFFFF := by decide +kernel
/-- 06 R164: a shift by the whole width leaves zeros, an arithmetic one the sign. -/
theorem test_shift_full_width : shlW 32 1 32 = 0 ∧ shrW 32 0x80000000 32 = 0 ∧ sarW 32 0x80000000 32 = 0xFFFFFFFF ∧
    rotW 32 0x80000001 33 = 3 := by decide +kernel
/-- The three points of 06's example at X8 code 126, with their live counts, and the overflow of the second. -/
theorem test_lq8_example :
    lq8Point 2 ([0x3EE00000, 0xBF100000, 0x3E000000, 0x3F000000, 0xBE800000, 0x3D800000, 0xBF600000, 0].map
      (Fmt.f32.read false)) 126 8 = (0x469A, 0) ∧
    lq8Point 2 ([0x3FB00000, 0x3D800000, 0xBE400000, 0x3EA00000, 0xBD800000, 0, 0x3EE00000, 0xBF000000].map
      (Fmt.f32.read false)) 126 8 = (0x9E63, Flags.lovf) ∧
    lq8Point 2 ([0xBEA00000, 0x3F300000, 0x3E800000, 0xBF300000, 0x40A00000, 0, 0, 0].map (Fmt.f32.read false)) 126 4 =
      (0x01AE, 0) := by decide +kernel
/-- 07 R216: TRAP 5 with the handler at 0x200 saves its address, cause and class, and goes to 0x200 + 32 · class. -/
theorem test_trap_to_handler :
    (((after (.trap { blank with mod := 5 }) fun t => { t with tvmask := 0x3FFF, tvb := 0x200 }).bind (·.team? 0 0)).map fun t =>
      (t.tpc, t.inh, bits t.tcause.toNat 3 0, bits t.tcause.toNat 23 16, (t.splits.get? 0).map (·.pc))) =
      some (8, true, clsTRAP, 5, some (0x200 + 32 * clsTRAP)) := by decide +kernel
/-- 07 R227: TVEC of class 14 is ILLOP; with no handler the gang stops. -/
theorem test_tvec_class :
    ((after (.tvec { blank with mod := 0x1E }) id).bind (·.team? 0 0)).map (fun t => (bits t.tcause.toNat 3 0, t.stops.fault)) =
      some (clsILLOP, true) := by decide +kernel
/-- 16 R435's example: 3840 by 2160 at 16,667 µs, four encoders, four tile rows. -/
theorem test_hdcfg_example : hdW 0x83D00823610E0F00 = 3840 ∧ hdH 0x83D00823610E0F00 = 2160 ∧ hdPeriod 0x83D00823610E0F00 = 16667 ∧
    hdTrlog 0x83D00823610E0F00 = 2 ∧ hdEncmask 0x83D00823610E0F00 = 15 := by decide +kernel
/-- Log 1: from reset with nothing placed nothing issues; only the model's counter of free values moves. -/
theorem test_reset_waits : (match step State.reset with
    | .next t => decide (t = { State.reset with fresh := 1 })
    | _ => false) = true := by decide +kernel

/-! Further states: the acting team's gang, its context, mapped memory. -/

def onGang (f : Gang → Gang) (s : State) : State := { s with gangs := s.gangs.map fun x => (x.1, f x.2) }
def onCtx (f : Ctx → Ctx) (s : State) : State := { s with ctxs := s.ctxs.map fun x => (x.1, f x.2) }
def onSplits (f : Split → Split) (t : Team) : Team := { t with splits := t.splits.map fun x => (x.1, f x.2) }

/-- Virtual addresses below 2^30 are physical ones, readable, writable, executable and open to windows (02 R46): a root at
0x1000, one table at 0x2000; listed bytes besides. The L2 has no way for slot 0 of any slice, so that its choices, which are free,
play no part. -/
def mapped (bytes : List Host.Cell) (s : State) : State :=
  { onCtx (fun c => { c with root := 0x1000, windows := [{ base := 0, len := 2 ^ 20, stack := 0, bank := true }] }) s with
    mem := [(0x1000, 1), (0x1001, 0x20), (0x2000, 0x1F)] ++ bytes
    wayqs := (List.range 512).map fun i => (16 * i, 0) }

/-- Vector, uniform and predicate operands for one-word forms. -/
def opV : Ins := { blank with d := .v 2, a := .v 4, b := .v 6, c := .v 8 }
def opP : Ins := { blank with d := .p 2, a := .v 4, b := .v 6 }

/-- No channel is in bank mode, and no deferred queue is still to be served. -/
def noBanks (s : State) : Bool := s.sessions.isEmpty && s.deferred.isEmpty

/-- Such a state meets the hypotheses on channels. -/
theorem test_no_banks (s : State) (h : noBanks s = true) (w : Waiter) (chans : List Nat) (ps : List Pend) :
    unbarred s w chans ∧ freeOfBanks s ps := by
  have h' : s.sessions = [] ∧ s.deferred = [] := by simpa [noBanks] using h
  have hb : ∀ w' c, s.barred w' c = false := fun w' c => by simp [State.barred, h', Tbl.get?, Tbl.get]
  exact ⟨by simp [unbarred, hb], fun _ _ _ _ _ _ _ _ _ _ _ _ _ => hb _ _⟩

/-! Witnesses, in the order of the statements. -/

theorem test_meets_control_words : ctlReady { blank with d := .k 2, a := .k 4, b := .k 6, mod := 1 }
      [.and, .or, .xor, .andn, .shl, .shr, .sar, .rot] = true ∧
    ctlReady { blank with d := .k 2, a := .k 4, mod := 1 } [.mov, .not, .popc, .clz, .brev] = true ∧
    ctlReady { blank with len := .l96, d := .k 2, a := .k 4, b := .k 6, c := .k 8, mod := 1 } [.bfi] = true := by decide +kernel
theorem test_meets_control_arithmetic : ctlReady { blank with d := .k 2, a := .k 4, b := .k 6, mod := 7 }
      [.iadd, .isub, .imul, .imulh, .imin, .imax, .lea, .bfe] = true ∧
    ctlReady { blank with d := .k 2, a := .k 4, mod := 7 } [.iabs, .ineg] = true ∧
    ctlReady { blank with len := .l96, d := .k 2, a := .k 4, b := .k 6, c := .k 8, mod := 7 } [.imad] = true ∧
    ctlReady { blank with len := .l96, d := .k 2, a := .k 4, b := .k 6, c := .k 8, mod := 3 } [.iaddc] = true := by decide +kernel
theorem test_meets_control_movi : ctlReady { blank with len := .l96, d := .k 2, imm := 0xFFFFFFFF } [.movi32] = true ∧
    ctlReady { blank with len := .l128, d := .k 2, imm := 0xFFFFFFFFFFFFFFFF } [.movi64] = true := by decide +kernel
theorem test_meets_compares : (team .isetp { opP with mod := 6 } id id fun _ _ => true) = true ∧
    (team .fsetp opP id id fun _ _ => true) = true ∧ (team .dsetp opP id id fun _ _ => true) = true := by decide +kernel
/-- Stochastic rounding, where each thread that computes draws. -/
theorem test_meets_stochastic : (team .fadd { opV with len := .l96, c := .z, rnd := 5 } id id fun _ si =>
    (si.team.rctl { opV with len := .l96, c := .z, rnd := 5 }).mode == .sto) = true := by decide +kernel
theorem test_meets_carry : (team .iaddc { opV with c := .z, mod := 2 } id id fun _ _ => true) = true ∧
    (team .iaddc { opV with len := .l96, mod := 2, xmod := 2 } id id fun _ _ =>
      ({ opV with len := .l96, mod := 2, xmod := 2 } : Ins).xm 88 85 == 2) = true := by decide +kernel

/-! Branches: targets on a block, and one of thread 0 that is not. -/

def branchA : Ins := { blank with a := .s 2 }
def allOnBlocks (w : Ins) (s : State) (si : Site) : Bool :=
  (threadsOf si.team.threads (si.exec w)).all fun tid => rd64 s si.core si.team tid w.a % 32 == 0
theorem test_meets_branches : (team .brx branchA id id fun s si => allOnBlocks branchA s si) = true ∧
    (team .ret branchA id id fun s si => allOnBlocks branchA s si) = true ∧
    (team .brxd { branchA with len := .l96 } id id fun s si => allOnBlocks branchA s si) = true ∧
    (team .callx { branchA with d := .s 4 } id id fun s si => allOnBlocks branchA s si) = true := by
  decide +kernel
theorem test_meets_misaligned_targets :
    ([(.brx, branchA), (.ret, branchA), (.brxd, { branchA with len := .l96 }), (.callx, { branchA with d := .s 4 })].all
      fun (x : Op × Ins) => team x.1 x.2 (fun t => { t with s := [(2, 4)] }) id fun s si =>
        (threadsOf si.team.threads (si.exec x.2)).find? (fun t => rd64 s si.core si.team t x.2.a % 32 != 0) == some 0) = true := by
  decide +kernel
/-- Two targets: thread 0 goes on, the others fall through. -/
theorem test_meets_transfer : transferGroups 32 (fullMask 32) 1 96 (fun _ => 32) = [(96, 0xFFFFFFFE), (32, 1)] ∧
    ((Team.fresh plainRecord 0 0 0 0 (fullMask 32)).splits.get? 0).isSome = true := by decide +kernel
theorem test_meets_predicates :
    (team .plop { blank with len := .l96, d := .p 2, a := .v 4, b := .v 6, c := .v 8 } id id fun _ _ => true) = true ∧
    (team .vote { blank with d := .v 2, a := .v 4, mod := 3 } id id fun _ _ => true) = true ∧
    (team .vote { blank with d := .v 2, a := .v 4, mod := 1 } id id fun _ _ => true) = true ∧
    (team .vote { blank with d := .p 2, a := .v 4, mod := 1 } id id fun _ _ => true) = true := by decide +kernel
/-- A launch with a role table, of a team with one split. -/
theorem test_meets_role : (team .role { blank with mod := 1 } id (fun s => { s with launches := s.launches.map fun x =>
      (x.1, { x.2 with record := { x.2.record with roles := [(0, 64, 0), (32, 64, 0)] } }) }) fun s si =>
    (s.launchOf si.team).any (fun l => decide (1 < l.record.roles.length)) && decide (si.team.splits.length ≤ 1) &&
      si.team.joins.isEmpty && si.team.spill.isEmpty && si.exec blank == si.team.alive) = true := by decide +kernel
/-- SYNCR with a join record, of all its threads and of some. -/
theorem test_meets_syncr : (team .syncr blank id id fun _ si => si.split.join == none) = true ∧
    (team .syncr blank (onSplits fun p => { p with join := some 0 }) id fun _ si =>
      si.split.join == some 0 && si.exec blank == si.split.mask) = true ∧
    (team .syncr { blank with guard := some 1 } (fun t => onSplits (fun p => { p with join := some 0 }) { t with p := [(1, 1)] }) id
      fun _ si => si.split.join == some 0 && si.exec { blank with guard := some 1 } != si.split.mask) = true := by decide +kernel
theorem test_meets_waits : (team .waitw { blank with mod := 1 } id id fun _ si => si.team.flagsZero 1) = true ∧
    (team .waitw { blank with mod := 1 } (fun t => { t with w := [(0, 1)] }) id fun _ si => !si.team.flagsZero 1) = true ∧
    (team .winf blank (fun t => { t with rpend := 1 }) id fun _ si => si.team.rpend != 0) = true ∧
    (ctl .winf blank id id fun _ si => si.ctl.rpend == 0) = true ∧
    (ctl .winf blank (fun c => { c with rpend := 1 }) id fun _ si => si.ctl.rpend != 0) = true ∧
    (team .winw blank id id fun s si => winwOver si.team.rwin s.win) = true ∧
    (team .winw blank (fun t => { t with rwin := some 0 }) id fun s si => !winwOver si.team.rwin s.win) = true ∧
    (ctl .winw blank id id fun s si => winwOver si.ctl.rwin s.win) = true ∧
    (ctl .winw blank (fun c => { c with rwin := some 0 }) id fun s si => !winwOver si.ctl.rwin s.win) = true := by decide +kernel
theorem test_meets_exit : (team .exit blank id id fun _ si => si.team.cohMask == 0) = true := by decide +kernel

/-! Barriers and cohorts. -/

/-- Barrier 0 of the gang counts team 0 and has begun its third phase. -/
def counted : Gang → Gang := fun g => g.setBar 0 { Barrier.init with members := 1, phase := 2 }
theorem test_meets_barinit : (team .barinit { blank with a := .s 2, b := .lit 5 } id id fun s si =>
    (barOf blank s si).arrived == 0 && (barOf blank s si).bytes == (barOf blank s si).byteInit && !s.barWaiters si.team.gang 0 &&
      decide (rd32 s si.core si.team 0 (.lit 5) < 2 ^ 24)) = true := by decide +kernel
theorem test_meets_barwait : (team .barwait { blank with a := .lit 1 } id (onGang counted) fun s si =>
      !(barOf blank s si).idle && phasePassed (barOf blank s si).phase 1) = true ∧
    (team .barwait { blank with a := .lit 2 } id (onGang counted) fun s si =>
      !(barOf blank s si).idle && !phasePassed (barOf blank s si).phase 2) = true := by decide +kernel
theorem test_meets_bartest : (team .bartest { blank with d := .s 2, mod := 0x10 } id (onGang counted) fun s si =>
      !(barOf blank s si).idle) = true ∧
    (team .bartest { blank with d := .p 2, a := .s 4 } id (onGang counted) fun s si => !(barOf blank s si).idle) = true := by
  decide +kernel
/-- BARARR of all threads, and of one of them. -/
theorem test_meets_bararr : ([{ blank with b := .lit 5 }, { blank with guard := some 1, b := .lit 5 }].all fun (w : Ins) =>
    team .bararr w (fun t => { t with p := [(1, 1)] }) (onGang counted) fun s si =>
      (s.gang? si.team.gang).any fun g => si.team.arrive.get 0 0 &&& si.exec w == 0 && (g.bar 0).arrived &&& teamBit si.team == 0 &&
        (g.bar 0).members &&& teamBit si.team != 0) = true := by decide +kernel
/-- The cohort record at 0x4000, which the team has joined where it leaves or arrives. -/
def inCohort (t : Team) : Team := { t with s := [(2, 0x4000)], cohorts := [{ addr := 0x4000, next := false, phase := 0 }] }
theorem test_meets_cohorts : ([(.cjoin, false), (.cleave, true), (.cbar, true)].all fun (x : Op × Bool) =>
    team x.1 branchA (if x.2 then inCohort else fun t => { t with s := [(2, 0x4000)] }) (mapped []) fun s si =>
      (s.cohortKeys si.team 0x4000).isOk && (si.team.member? 0x4000).isSome == x.2 && decide (si.team.cohorts.length < 4) &&
        si.team.cohMask == 0 && (si.team.cohMask ||| si.exec branchA) &&& si.team.alive == si.team.alive &&
        rd64 s si.core si.team 0 (.s 2) == 0x4000) = true := by decide +kernel
theorem test_meets_dqpop : (team .dqpop { blank with d := .s 2 } id (fun s => s.setCore 0 { s.coreOf 0 with dq := [(⟨0, 0⟩, 7)] })
    fun s si => s.teamCx si.team == some ⟨0, 0⟩ && s.dqTurn si.core si.slot si.entry ⟨0, 0⟩ &&
      (takeEntry ⟨0, 0⟩ (s.coreOf si.core).dq).isSome) = true := by decide +kernel

/-! Exceptions, accesses and messages. -/

theorem test_meets_decode_checks : ((teamAt (.iadd { addFive with mod := 0 }) id id).site?.any fun si =>
      si.illegal .iadd { addFive with mod := 0 }) = true ∧
    ((ctlAt (.kcsr { blank with d := .k 2, mod := 0x7F }) id id).ctlSite?.isSome &&
      (Op.kcsr.check .ctl 512 { blank with d := .k 2, mod := 0x7F }).isSome) = true := by decide +kernel
theorem test_meets_false_guards : ((teamAt (.iadd { addFive with guard := some 0 }) id id).site?.any fun si =>
      !si.illegal .iadd { addFive with guard := some 0 } && si.exec { addFive with guard := some 0 } == 0) = true ∧
    ((teamAt (.brx { branchA with guard := some 0 }) id id).site?.any fun si =>
      !si.illegal .brx { branchA with guard := some 0 } && si.exec { branchA with guard := some 0 } == 0 &&
        si.split.mask != 0) = true := by decide +kernel
theorem test_meets_handler_entry : ((teamAt (.nop blank) (fun t => { t with tvmask := 0x3FFF }) id).site?.any fun si =>
    si.team.tvmask.getLsbD clsALIGN && !si.team.inh && (si.team.splits.get? 0).isSome) = true ∧ clsALIGN < 14 := by decide +kernel
/-- BKPT without its bit; another trap without its bit, and one in a handler. -/
theorem test_meets_context_fault : ((teamAt (.nop blank) id id).site?.any fun si =>
      !si.team.tvmask.getLsbD clsBKPT && !si.team.tvmask.getLsbD clsALIGN &&
        ((teamAt (.nop blank) id id).gang? si.team.gang).isSome) = true ∧
    ((teamAt (.nop blank) (fun t => { t with tvmask := 0x3FFF, tcause := 0x80000000 }) id).site?.any fun si => si.team.inh) = true := by
  decide +kernel
theorem test_meets_traps : ([.trap, .bkpt].all fun o => team o blank id id fun _ _ => true) = true ∧
    ([.trap, .bkpt].all fun (o : Op) => (teamAt (Instr.ofOp o { blank with guard := some 0 }) id id).site?.any fun si =>
      si.exec { blank with guard := some 0 } == 0 && !si.illegal o { blank with guard := some 0 }) = true := by decide +kernel
/-- TRET outside a handler; in one, with and without TPC written. -/
theorem test_meets_trap_return : (team .tret blank id id fun _ si => !si.team.inh) = true ∧
    (team .tret blank (fun t => { t with tcause := 0x80000000 }) id fun _ si => si.team.inh && !si.team.tpcWritten) = true ∧
    (team .tret blank (fun t => { t with tcause := 0x80000000, tpcWritten := true, tpc := 64 }) id fun _ si =>
      si.team.inh && si.team.tpcWritten && si.team.tpc.toNat % 32 == 0) = true := by decide +kernel

/-- The wants pass the checks in the accesses' own memory. -/
def passing (s : State) (si : Site) (sp : Space) (acc : Acc) (l : List Want) : Bool :=
  match s.reachOf si.team with
  | some r => !s.walksStuck r.cx sp l && match s.check r sp acc l with
    | .ok places => places.all fun x => match x.2 with
      | .here _ => true
      | .remote .. => false
    | .error _ => false
  | none => false
/-- Such wants meet the hypothesis of AccessesComplete. -/
theorem test_passing_passes (s : State) (si : Site) (sp : Space) (acc : Acc) (l : List Want) (h : passing s si sp acc l = true) :
    ∃ places, passes s si sp acc l places ∧ ∀ x ∈ places, ∃ ks, x.2 = .here ks := by
  unfold passing at h
  split at h
  · next r hr =>
    obtain ⟨hw, h⟩ := Bool.and_eq_true_iff.mp h
    split at h
    · next places hp =>
      have all : ∀ x ∈ places, ∃ ks, x.2 = .here ks := fun x hx => by
        have := List.all_eq_true.mp h x hx
        split at this <;> simp_all
      exact ⟨places, ⟨r, hr, by simpa using hw, hp, fun _ => all⟩, all⟩
    · simp at h
  · simp at h
/-- SPACE s in MOD[63:61], type N32. -/
def inScratch : Ins := { blank with d := .v 2, a := .v 4, mod := 0x1002 }
theorem test_meets_accesses : (team .ld inScratch id id fun s si => passing s si .s .load (wantsOf inScratch s si)) = true ∧
    (team .ldu { inScratch with d := .s 2, a := .s 4 } id id fun s si =>
      passing s si .s .load ((wantsOf { inScratch with a := .s 4 } s si).take 1)) = true ∧
    (team .st inScratch id id fun s si =>
      passing s si .s .store (wantsOf inScratch s si)) = true ∧
    (team .atom { inScratch with b := .v 6 } id id fun s si =>
      passing s si .s .atomic (atomWants { inScratch with b := .v 6 } s si)) = true ∧
    (team .red { inScratch with d := .z, b := .v 6 } id id fun s si =>
      passing s si .s .atomic (atomWants { inScratch with d := .z, b := .v 6 } s si)) = true := by decide +kernel
/-- An address off its alignment, one beyond the allotment, and an unmapped one. -/
theorem test_meets_denied : ([(inScratch, 2), (inScratch, 0x100000)].all fun (x : Ins × W32) =>
      team .ld x.1 (withV [(5, 4, x.2)]) id fun s si => match s.reachOf si.team with
        | some r => !s.walksStuck r.cx (memSpace x.1) (wantsOf x.1 s si) && match s.check r (memSpace x.1) .load (wantsOf x.1 s si) with
          | .error (.trap _) => true
          | _ => false
        | none => false) = true ∧
    (team .ld { inScratch with mod := 2 } id id fun s si => match s.reachOf si.team with
      | some r => match s.check r (memSpace { inScratch with mod := 2 }) .load (wantsOf { inScratch with mod := 2 } s si) with
        | .error (.fault ..) => true
        | _ => false
      | none => false) = true := by decide +kernel
theorem test_meets_alignment_first : (let l : List Want := [{ tid := 0, ea := 4, len := 4, align := 4 },
      { tid := 1, ea := 0x100000, len := 4, align := 4 }, { tid := 2, ea := 2, len := 4, align := 4 }]
    (l.find? fun (x : Want) => x.ea % (x.align : Int) != 0).isSome && match (teamAt (.nop blank) id id).site? with
      | some si => (((teamAt (.nop blank) id id).reachOf si.team).any fun r =>
          ((l.take 2).find? fun x => !(teamAt (.nop blank) id id).inReach r .s x.ea x.len).isSome)
      | none => false) = true := by decide +kernel
/-- Bytes of one crumb and of two, and a core whose L1 holds nothing. -/
theorem test_meets_performing : plainLines State.reset [4, 5, 6, 7] ∧ plainLines State.reset [62, 63, 64] ∧
    State.reset.mem.wf = true ∧ [4, 5, 6, 7].Nodup ∧ (State.reset.coreOf 0).l1Hit 0 = none ∧
    (firstCrumb [4, 5, 6, 7]).2 = [] ∧ firstCrumb [62, 63, 64] = ([62, 63], [64]) := by
  refine ⟨⟨fun _ h => absurd h List.not_mem_nil, by decide⟩, ⟨fun _ h => absurd h List.not_mem_nil, by decide⟩, by decide,
    by decide, by decide, by decide, by decide⟩
theorem test_meets_cctl : (team .cctl { blank with a := .s 2, mod := 2 } id (mapped []) fun s si =>
    passing s si .g .cctl ((threadsOf si.team.threads (si.exec blank)).map fun tid =>
      { tid := tid, ea := effAddr s si { blank with a := .s 2, mod := 2 } .g true tid, len := 1,
          align := 1 })) = true := by decide +kernel
theorem test_meets_messages : (team .msend { blank with a := .s 8, b := .s 6 } id id fun s si =>
      (s.gang? si.team.gang).any (fun g => decide (0 < g.size) && decide ((g.txq si.team.member 0).length < 8)) &&
        (s.launchOf si.team).any (fun l => decide (0 < l.record.gangs)) && rd64 s si.core si.team 0 (.s 6) == 0) = true ∧
    (team .mpoll { blank with d := .s 2 } id id fun _ _ => true) = true ∧
    (team .mrecv { blank with d := .s 8 } id id fun _ _ => true) = true ∧
    (team .prf { blank with a := .s 2 } id (mapped []) fun s si => s.lines.all (fun x => !x.2.tile) &&
      (s.reachOf si.team).any fun r => (threadsOf si.team.threads (si.exec blank)).all fun tid =>
        (s.prefetchKey r (effAddr s si { blank with a := .s 2 } .g true tid)).all fun k => !isTileKey k) = true := by decide +kernel

/-! The control thread. -/

theorem test_meets_control_branches : (ctl .kbr { blank with d := .raw 0, a := .k 4, b := .k 6 } id id fun s si =>
      kCond 0 (rdK s si.core (.k 4)) (rdK s si.core (.k 6))) = true ∧
    (ctl .ktrap { blank with mod := 5 } id id fun _ _ => true) = true ∧
    (ctl .kbr { blank with d := .raw 0, a := .k 4, b := .k 6, mod := 1 } id id fun s si =>
      !kCond 1 (rdK s si.core (.k 4)) (rdK s si.core (.k 6))) = true ∧
    ([.kjx, .kret].all fun o => [0, 4, 2 ^ 48].all fun (x : Nat) =>
      ctl o { blank with a := .k 4 } (fun c => c.setK 4 x) id fun s si => rdK s si.core (.k 4) == x) = true := by decide +kernel
/-- Accesses of the control thread to mapped memory. -/
theorem test_meets_control_accesses : ([(.kld, { blank with d := .k 2, a := .k 4, b := .k 6, mod := 3 }),
      (.kst, { blank with d := .k 2, a := .k 4, b := .k 6, mod := 3 })].all fun (x : Op × Ins) =>
    ctl x.1 x.2 id (mapped []) fun s si => !s.walksStuck si.owner (spaceOf (x.2.m 63 61)) (ctlWant x.2 s si) && !si.ctl.winf &&
      match s.check (ctlReach si.core si.owner) (spaceOf (x.2.m 63 61)) (if x.1 == .kld then .load else .store)
          (ctlWant x.2 s si) with
      | .ok [(0, .here _)] => true
      | _ => false) = true := by decide +kernel
theorem test_meets_events : (ctl .eqpop { blank with d := .k 2 } id (fun s => s.setCore 0 { s.coreOf 0 with
      eq := [{ tag := 1, src := 2, status := 0, unit := 3, detail := 4 }] }) fun s si => !(s.coreOf si.core).eq.isEmpty) = true ∧
    (ctl .eqpop { blank with d := .k 2 } id id fun s si => (s.coreOf si.core).eq.isEmpty) = true ∧
    (ctl .eqwait { blank with a := .k 2 } id (fun s => s.setCore 0 { s.coreOf 0 with
      eq := [{ tag := 1, src := 2, status := 0, unit := 3, detail := 4 }] }) fun s si => !(s.coreOf si.core).eq.isEmpty) = true ∧
    (ctl .eqwait { blank with a := .k 2 } id id fun s si => (s.coreOf si.core).eq.isEmpty) = true ∧
    (ctl .ksleep { blank with a := .k 2 } id id fun s si => rdK s si.core (.k 2) == 0) = true ∧
    (ctl .ksleep { blank with a := .k 2 } (fun c => c.setK 2 5) id fun s si => rdK s si.core (.k 2) == 5) = true ∧
    (ctl .dqpush { blank with a := .k 5 } id id fun s si => decide ((s.coreOf si.core).dq.length < 256)) = true ∧
    (ctl .khalt blank id id fun _ _ => true) = true ∧ (ctl .kcsr { blank with d := .k 2, mod := 5 } id id fun _ _ => true) = true ∧
    (ctl .kcsr { blank with d := .k 2, a := .k 4, mod := 0x104 } id id fun _ _ => true) = true := by decide +kernel

/-- Queue 0 of the context: its header at 0x5000 with the ring at 0x6000, LOG2N 0, EN and FEED; the record to launch at 0x4000. -/
def queued (s : State) : State := mapped [(0x5001, 0x60), (0x5009, 3)]
  (onCtx (fun c => { c with queues := [(0, { header := 0x5000, die := 0, notes := [], passed := false, fault := none })] }) s)
def launchAt : Ins := { blank with len := .l96, a := .k 2, b := .k 4, c := .k 6 }
theorem test_meets_launch : (ctl .launch launchAt (fun c => c.setK 2 0x4000) id fun s si =>
      (s.findQueue si.owner.vd 0).isNone && rdK s si.core (.k 2) % 128 == 0 && decide (rdK s si.core (.k 4) < 16)) = true ∧
    (ctl .launch launchAt (fun c => c.setK 2 0x4000) queued fun s si =>
      let s₁ := s.drainCtl si.core
      (s.findQueue si.owner.vd 0).any fun q => match s₁.span q.1 q.2.header 64 false, s₁.span q.1 q.2.header 64 true with
        | .ok hk, .ok _ => let h := s₁.qhead hk
          h.enabled && h.feed && h.waiting != 2 ^ h.log2n && noBanks s₁ && match s₁.ctlBytes si 0x4000 128 128 with
            | .ok (s₂, _) => (s₂.span q.1 q.2.header 64 true).isOk && (s₂.span q.1 (h.slotVa h.prod) 128 true).isOk && noBanks s₂
            | .error _ => false
        | _, _ => false) = true := by decide +kernel

/-! The matrix engine. -/

/-- A slot that team slot 0 holds, full of 16 lines of 16 f32. -/
def fullSlot (roleB : Bool) : MSlot :=
  { holder := some 0, st := .full, ty := .f32, roleB := roleB, scaled := false, lines := 16, k := 16, tail := none
    image := List.replicate 1024 0, fifo := [] }
/-- Slots 0 and 1 and accumulators 0 and 1 of core 0 held by team slot 0. -/
def holding (s : State) : State := s.setMx 0 { slots := [(0, fullSlot false), (1, fullSlot true)]
                                               accs := [(0, ⟨some 0, List.replicate 256 0⟩), (1, ⟨some 0, List.replicate 256 0⟩)]
                                               claims := [] }
/-- 64-byte layout records of 16 by 16 f32 tiles of tensors of that size, at 0x3000 (role A) and 0x3040 (role B); a walk's
descriptor at 0x4000, with its list at 0x5000. -/
def records : List Host.Cell :=
  [(0x3001, 0x80), (0x3010, 16), (0x3014, 16), (0x3018, 16), (0x301C, 9), (0x3020, 16), (0x3022, 16),
   (0x3041, 0x90), (0x3050, 16), (0x3054, 16), (0x3058, 16), (0x305C, 9), (0x305D, 4), (0x3060, 16), (0x3062, 16),
   (0x4001, 0x50), (0x400A, 1), (0x400C, 1), (0x4010, 3), (0x4014, 1)]
def opS : Ins := { blank with a := .s 2 }
def setS (l : Tbl W32) (t : Team) : Team := { t with s := l, lrb := 0x3000 }

theorem test_meets_not_collective : (team .mzero { opS with guard := some 1 } (fun t => { t with p := [(1, 1)] }) id fun _ si =>
    si.exec { opS with guard := some 1 } != si.team.launched) = true := by decide +kernel
theorem test_meets_claims : ([.tclaim, .aclaim].all fun o => team o opS (setS [(2, 5)]) id fun s si =>
      si.exec opS == si.team.launched && uA opS s si == 5 && (s.mx si.core).claims.isEmpty &&
        [0, 2].all fun n => (s.mx si.core).isFree (o == .aclaim) n) = true ∧
    ([.tclaim, .aclaim].all fun o => team o opS (setS [(2, 5)]) (fun s => s.setMx 0 { Matrix.init with claims := [⟨1,
        0⟩] }) fun s si =>
      si.exec opS == si.team.launched && !(s.mx si.core).claims.isEmpty) = true := by decide +kernel
theorem test_meets_releases : ([.trels, .arels].all fun o => team o opS (setS [(2, 3)]) holding fun s si =>
      si.exec opS == si.team.launched && uA opS s si == 3 && !si.team.inRing 0 && !si.team.inRing 1 &&
        [0, 1].all fun n => if o == .arels then ((s.mx si.core).acc? si.slot n).isSome else
          ((s.mx si.core).held? si.slot n).isSome) = true ∧
    (team .mzero opS (setS [(2, 1)]) holding fun s si => ((s.mx si.core).acc? si.slot 1).isSome) = true := by decide +kernel
/-- 256 locks, which leave no entry of the table free. -/
def lockFull (s : State) : State :=
  { s with locks := List.replicate 256 ⟨0, ⟨0, 0⟩, { space := .chip 3, base := 0, len := 64, write := false }, 99⟩ }
/-- The fetch of tile (0, 0) of record 0 into slot 0 starts, and its locks settle or not. -/
def fetchSettles (s : State) (si : Site) (re : Reach) (yes : Bool) : Bool :=
  let s₁ := s.drainTeam si.core si.slot
  let base := si.team.lrb.toNat
  match s₁.readOperand (mySelf si) re base 0 with
  | .ok tile => (s₁.tileOut re tile 0 0).isNone && !s₁.barDead si.team.gang 0 &&
    let r := (s₁.recordRead (mySelf si) si.core re.cx base 0).startFetch si.core si.slot si.team re false (some (si.team.gang, 0))
      { slot := 0, tile := tile, row := 0, col := 0, walk := none }
    r.2.opsSettled [r.1] == yes
  | .error _ => false
/-- A fetch whose locks settle, and one that finds no entry for its locks. -/
theorem test_meets_fetch : (team .mfetch { blank with len := .l96, a := .s 2, b := .s 4, mod := 0 } (setS [])
      (fun s => holding (mapped records (onGang counted s))) fun s si =>
        si.exec opS == si.team.launched && (s.reachOf si.team).any fun re => ((s.mx si.core).held? si.slot 0).isSome &&
          !si.team.inRing 0 && fetchSettles s si re true) = true ∧
    (team .mfetch { blank with len := .l96, a := .s 2, b := .s 4, mod := 0 } (setS [])
      (fun s => lockFull (holding (mapped records (onGang counted s)))) fun s si =>
        (s.reachOf si.team).any fun re => fetchSettles s si re false) = true := by decide +kernel
theorem test_meets_walk_start : (team .mlist opS (setS [(2, 0x4000)]) (fun s => holding (mapped records (onGang counted s)))
    fun s si => (s.reachOf si.team).any fun re => !si.team.walkActive &&
      let s₁ := s.drainTeam si.core si.slot
      match s₁.readWalk (mySelf si) re (rd64 s si.core si.team 0 (.s 2)) with
      | .ok d => d.team == 0 && d.ok (s₁.mx si.core) si.slot && !s₁.barDead si.team.gang 0 &&
        (s₁.readOperand (mySelf si) re si.team.lrb.toNat d.ah).isOk && (s₁.readOperand (mySelf si) re si.team.lrb.toNat d.bh).isOk
      | .error _ => false) = true := by decide +kernel
/-- An active walk of slots 0 and 1 with an entry read. -/
def aWalk (ready : List WEntry) : Walk :=
  { id := 50, state := 1, list := 0x5000, ah := 0, bh := 1, ntile := 1, ring := [0, 1], maxent := 4, bar := 0, base := 0x3000
    byCtl := false, read := 0, stopped := false, next := 0, rows := 0, ready := ready, rot := 0, busy := [], last := none,
        fired := 0
    fault := none }
def anEntry : WEntry := { kind := 0, cls := 0, reason := 0, slotA := 0, slotB := 1, pair := 0 }
/-- A block that is ready, a bad entry, and none. -/
theorem test_meets_walk_next : ([[anEntry], [{ anEntry with kind := 3, cls := clsMLISTF, reason := 36 }], []].all fun l =>
    team .mnext { blank with d := .s 6 } (fun t => { t with walk := some (aWalk l) }) holding
      fun _ si => si.team.walk.any fun k => k.active && k.freeLast.ready == l) = true := by decide +kernel
def opMma : Ins := { blank with len := .l96, a := .s 2, b := .s 4, c := .s 6 }
theorem test_meets_mma : (team .mma opMma (setS [(4, 1)]) holding fun s si => si.exec opMma == si.team.launched &&
    match (s.mx si.core).held? si.slot (uA opMma s si), (s.mx si.core).held? si.slot (uB opMma s si),
        (s.mx si.core).acc? si.slot 0 with
    | some x, some y, some _ => (mmaBad (s.mx si.core) si.slot 0 0 0 x y).isNone && uC opMma s si == 0
    | _, _, _ => false) = true := by decide +kernel
theorem test_meets_matrix_moves :
    (team .mrd { opS with d := .v 2 } id holding fun s si => ((s.mx si.core).acc? si.slot 0).isSome) = true ∧
    (team .mstat { blank with d := .s 2 } id holding fun _ _ => true) = true ∧
    (team .mwr { blank with a := .v 4, b := .s 2 } id holding fun s si => ((s.mx si.core).acc? si.slot 0).isSome) = true ∧
    (team .mwrT { blank with len := .l96, a := .v 4, b := .s 2, c := .s 4, mod := 0x29 } (setS [(4, 0x101)]) holding fun s si =>
      (s.slotFor si 0).isOk && (shapeWord .f32 0x101).isSome && si.team.imageFits 4 256) = true ∧
    (team .mscl { blank with len := .l96, a := .v 4, b := .s 2, c := .s 4 } (setS [(4, 1)]) holding fun s si =>
      match s.slotFor si 0 with
      | .ok x => x.st == .full && decide (x.fifo.length + 1 ≤ 1024) && si.team.imageFits 4 1
      | .error _ => false) = true := by decide +kernel
theorem test_meets_matrix_store : (team .mst opMma (setS []) (fun s => holding (mapped records s)) fun s si =>
    let s₁ := s.drainTeam si.core si.slot
    (s.reachOf si.team).any fun re => ((s.mx si.core).acc? si.slot 0).isSome && match s₁.readTile (mySelf si) re si.team.lrb.toNat 0 with
      | .ok t => (mstBad t false).isNone && (s₁.mstScales re t 0 0).isOk && !t.splitsPoint 0 0 &&
        let wants : List Want := (mstWork opMma s si t []).map fun x => { tid := 0, ea := x.1.addr, len := x.1.len, align := 1 }
        let s₂ := (s₁.recordRead (mySelf si) si.core re.cx si.team.lrb.toNat 0).walkedFor si.core re.cx t.space wants
        !s₁.walksStuck re.cx t.space wants && (s₁.check re t.space .store wants).isOk &&
          !winfHolds si (s₂.mstItems si re t.space ((mstWork opMma s si t []).map (·.1)))
      | .error _ => false) = true := by decide +kernel

/-! Copies, filters, rays, stacks and raster commands. -/

/-- A number written at an address of the acting team's scratchpad. -/
def pokeS (a n x : Nat) (s : State) : State :=
  match s.site?.bind fun si => s.reachOf si.team with
  | some r => match s.check r .s .load [{ tid := 0, ea := a, len := n, align := 1 }] with
    | .ok [(_, .here keys)] => s.writeKeys keys x
    | _ => s
  | none => s
/-- A copy of 64 bytes from 0x8000 to 0x9000 of the global space, on barrier 0. -/
def aCopy : Nat := 1 + 2 ^ 64 * 0x8000 + 2 ^ 128 * 0x9000 + 2 ^ 192 * (64 + 2 ^ 16)
def opKick : Ins := { blank with a := .s 2, b := .lit 1 }
def kicked (o : State → State) (c : Bool → Bool) : Bool :=
  team .cpkick opKick id (fun s => o (pokeS 0 32 aCopy (mapped [] (onGang counted s)))) fun s si =>
    let s₁ := s.drainTeam si.core si.slot
    (s.reachOf si.team).any fun re => match s₁.kick (teamKicker si re) .s (uA opKick s si) (uB opKick s si) with
      | .ok l => let r := s₁.enterCopies (teamKicker si re) si.team.copySeq l
        c (r.2.opsSettled r.1)
      | _ => false
theorem test_meets_copies : kicked id id = true ∧ kicked lockFull (!·) = true := by decide +kernel
/-- The same from the control thread, whose barrier is that of the team in slot 0. -/
def withTeam (s : State) : State :=
  let t := State.reset.withTeamAt (encode (.nop blank))
  { s with teams := t.teams, gangs := t.gangs.map fun x => (x.1, counted x.2), launches := t.launches }
def copyCells (a : Nat) : List Host.Cell := [(a, 1), (a + 9, 0x80), (a + 17, 0x90), (a + 24, 64), (a + 26, 1)]
def opKickK : Ins := { blank with a := .k 2, b := .k 4 }
theorem test_meets_control_copies : ([(false, true), (true, false)].all fun x =>
    ctl .cpkick opKickK (fun c => (c.setK 2 0x4000).setK 4 1)
      (fun s => (if x.1 then lockFull else id) (mapped (copyCells 0x4000) (withTeam s))) fun s si =>
        match (s.drainCtl si.core).kick (ctlKicker si) .g (rdK s si.core (.k 2)) (rdK s si.core (.k 4)) with
        | .ok l => let r := (s.drainCtl si.core).enterCopies (ctlKicker si) si.ctl.copySeq l
          r.2.opsSettled r.1 == x.2
        | _ => false) = true := by decide +kernel
/-- A queue of 64 requests behind a running one has no room. -/
theorem test_meets_copy_full : (team .cpkick opKick id (fun s =>
    let s := pokeS 0 32 aCopy (mapped [] (onGang counted s))
    match s.site?.bind fun si => (s.reachOf si.team).map fun re => (si, re) with
    | some (si, re) => match s.kick (teamKicker si re) .s 0 1 with
      | .ok (x :: _) => (s.enterCopies (teamKicker si re) 0 (List.replicate 65 x)).2
      | _ => s
    | none => s) fun s si => (s.reachOf si.team).any fun re =>
      match (s.drainTeam si.core si.slot).kick (teamKicker si re) .s (uA opKick s si) (uB opKick s si) with
      | .full => true
      | _ => false) = true := by decide +kernel

/-- A texture of one texel at 0x10000, with its record at 0x4000; a grid record at 0x4040 with one level of 16 entries. -/
def filterCells : List Host.Cell :=
  [(0x4002, 1), (0x4009, 1), (0x4010, 1), (0x4012, 1), (0x4015, 1),
   (0x4042, 2), (0x4049, 1), (0x4050, 1), (0x4052, 1), (0x4080, 1), (0x4084, 4)]
def opFilter : Ins := { blank with d := .v 20, a := .s 4, b := .v 16 }
theorem test_meets_filters : ([(.texs, opFilter, 0x4000), (.hgl, opFilter, 0x4040), (.resq, opFilter, 0x4000)].all
    fun (x : Op × Ins × W32) => team x.1 x.2.1 (fun t => { t with s := [(4, x.2.2)] }) (mapped filterCells) fun s si =>
      (s.reachOf si.team).any fun re => ((s.drainTeam si.core si.slot).team? si.core si.slot).isSome &&
        (filterTable x.2.1).any fun y => y.1 == x.1 &&
          (y.2 (s.drainTeam si.core si.slot) re (rd64 s si.core si.team 0 (.s 4))).isOk) = true := by decide +kernel

/-- One ray of thread 0 along x; the limit of stack 0. -/
def aRayOf (t : Team) : Team := { t with p := [(0, 1)], v := [(83, 0x3F800000), (87, 0x3F800000)] }
def opRays : Ins := { blank with guard := some 0, a := .s 6, b := .v 80 }
def rayCount (s : State) (si : Site) : Nat :=
  (((threadsOf si.team.threads (si.exec opRays)).map (rayOf s si opRays ⟨0, 0⟩ 0)).filter fun r => !r.bad).length
theorem test_meets_rays : ([(0x100, true), (0, false)].all fun (x : W64 × Bool) =>
      team .rays opRays aRayOf (fun s => { s with trqlim := [(0, x.1)] }) fun s si => s.teamCx si.team == some ⟨0, 0⟩ &&
        rayCount s si == 1 && decide (si.team.rays + 1 ≤ 4096) && decide (1 ≤ s.raylim 0 0) == x.2) = true ∧
    (team .rays opRays (fun t => { t with p := [(0, 1)], v := [(83, 0x7FC00000)] }) id fun s si => rayCount s si == 0) = true := by
  decide +kernel
theorem test_meets_ray_records : (team .hitr { blank with d := .v 64 } id id fun _ _ => true) = true ∧
    (team .candv { blank with a := .v 2, b := .v 4 } id id fun s si =>
      (threadsOf si.team.threads (si.exec blank)).all fun tid => rd32 s si.core si.team tid (.v 4) ≤ 2) = true := by decide +kernel
theorem test_meets_treelets : ([(.tclose, { blank with a := .k 4 }), (.trstat, { blank with a := .k 4 }),
      (.tlpub, { blank with len := .l96, a := .k 4, b := .k 6, c := .k 3 })].all fun (x : Op × Ins) =>
    ctl x.1 x.2 id id fun s si => tlValid (rdK s si.core (.k 4))) = true := by decide +kernel

/-! Stack commands: in the window of stack 0, and outside it. -/

def opStack : Ins := { blank with a := .k 2, b := .k 4 }
theorem test_meets_stack_refusals : ([(.sbank, { blank with a := .k 2 }), (.sbexit, { blank with a := .k 2 }), (.smac, opStack),
      (.sacc, opStack), (.svb, { opStack with len := .l96, c := .k 3 })].all fun (x : Op × Ins) =>
      ctl x.1 x.2 (fun c => c.setK 2 (2 ^ 20)) (mapped []) fun s si => ((s.drainCtl si.core).channelAt si.owner (2 ^ 20)).isNone) =
      true ∧
    (ctl .sbank { blank with a := .k 2 } id (mapped []) fun s si => ((s.drainCtl si.core).channelAt si.owner 0).isSome &&
      !(s.drainCtl si.core).plain.get false 0) = true ∧
    (ctl .svb { opStack with len := .l96, c := .k 3 } (fun c => c.setK 3 16) (mapped []) fun s si =>
      ((s.drainCtl si.core).channelAt si.owner 0).isSome && decide (15 < rdK (s.drainCtl si.core) si.core (.k 3))) = true ∧
    (ctl .sred { blank with a := .k 2 } (fun c => c.setK 2 0x4000) (mapped []) fun s si =>
      match (s.drainCtl si.core).ctlBytes si 0x4000 64 64 with
      | .ok (_, bs) => !(parseSred bs).ok
      | .error _ => false) = true := by decide +kernel
/-- The channel of address 0 in a group of plain interleaving. -/
def plain (s : State) : State := { mapped [] s with plain := [(0, true)] }
theorem test_meets_stack_commands : ([(.sbank, { blank with a := .k 2 }), (.sbexit, { blank with a := .k 2 }),
      (.svb, { opStack with len := .l96, c := .k 3 })].all fun (x : Op × Ins) => ctl x.1 x.2 id plain fun s si =>
      match (s.drainCtl si.core).channelAt si.owner 0 with
      | some (stack, pc) => !(s.drainCtl si.core).stackFull stack && (s.drainCtl si.core).plain.get false (8 * stack + pc / 8)
      | none => false) = true ∧
    (ctl .smac opStack id plain fun s si => let s₁ := s.drainCtl si.core
      s₁.bankMapped si.owner 0 && bits (channelOffset ((s₁.windowPA si.owner 0).getD 0)) 13 10 == 0 &&
        bits (channelOffset ((s₁.windowPA si.owner 0).getD 0)) 4 0 == 0 && opStack.m 59 54 == 0) = true ∧
    (ctl .sacc opStack (fun c => c.setK 4 0x20040) plain fun s si => match (s.drainCtl si.core).channelAt si.owner 0 with
      | some (stack, pc) => (s.drainCtl si.core).inWindows si.owner 0x20040 64 &&
        !(s.drainCtl si.core).meetsChannel si.owner 0x20040 64 stack pc
      | none => false) = true := by decide +kernel
/-- A reduction of two sources of 16 words, at 0x6000 and 0x7000, to 0x8000; its block at 0x4000, its sources at 0x5000. -/
def sredCells : List Host.Cell :=
  [(0x4002, 2), (0x4004, 16), (0x4009, 0x50), (0x4011, 0x80), (0x5001, 0x60), (0x5009, 0x70)]
theorem test_meets_sred : (ctl .sred { blank with a := .k 2 } (fun c => c.setK 2 0x4000) (mapped sredCells) fun s si =>
    let s₁ := s.drainCtl si.core
    match s₁.ctlBytes si 0x4000 64 64 with
    | .ok (s₂, bs) => let b := parseSred bs
      b.ok && match s₂.ctlBytes si b.sptr (8 * b.nsrc) 8 with
        | .ok (s₃, cs) => let srcs := (List.range b.nsrc).map fun i => field cs (8 * i) 8
          (srcs.all fun x => x % 64 == 0) && match s₃.sredPlace si.owner b srcs with
            | .ok stack => !s₃.stackFull stack
            | .error _ => false
        | .error _ => false
    | .error _ => false) = true := by decide +kernel

/-! Raster commands. -/

def opState (imm : W64) : Ins := { blank with len := .l96, a := .k 2, imm := imm }
theorem test_meets_rstate : (ctl .rstate (opState 0) (fun c => c.setK 2 0x4000) id fun _ si =>
      (si.ctl.raster.write 0 0 true 0x4000).isSome) = true ∧
    (ctl .rstate (opState 0x20000000) id id fun _ si => (si.ctl.raster.write 2 0 true 0).isNone) = true := by decide +kernel
theorem test_meets_draws : (ctl .draw opStack id id fun _ _ => true) = true ∧
    (ctl .rclear { opStack with mod := 2 } id id fun _ _ => ({ opStack with mod := 2 } : Ins).mb 50) = true ∧
    (ctl .rsync opStack id id fun _ _ => true) = true := by decide +kernel
/-- A surface record at 0x4000 of one tile in compressed memory at 2^30, and one that is none. -/
def surfaced (s : State) : State :=
  mapped [(0x2008, 0x3F), (0x200B, 0x40), (0x4003, 0x40), (0x4010, 1), (0x4012, 1), (0x4018, 1)] s
theorem test_meets_rresolve : ([0x4000, 0x4040].all fun (a : Nat) =>
    ctl .rresolve { blank with a := .k 2 } (fun c => c.setK 2 a) surfaced fun s si =>
      match (s.drainCtl si.core).ctlBytes si a 64 64 with
      | .ok (s', bs) => match parseSurface bs with
        | some r => a == 0x4000 && r.cmp && s'.surfaceOk si.owner r
        | none => a == 0x4040
      | .error _ => false) = true := by decide +kernel
/-- PXOUT of no pixel team, of one that has sent its packet, and of one that has not. -/
theorem test_meets_pxout : (team .pxout { blank with a := .v 10 } id id fun _ si => si.team.pixel == none) = true ∧
    ([true, false].all fun b => team .pxout { blank with a := .v 10 } (fun t => { t with
        pixel := some { cmd := 0, tri := 0, tx := 0, ty := 0, sent := b, depth := [] } }) id fun _ si =>
      si.team.pixel.any fun px => px.sent == b) = true := by decide +kernel

/-! Steps of the device: states in which the premises of their statements hold. -/

/-- The next state that an instruction or a step answers. -/
def got (i : Instr) (s : State) : State :=
  match exec i s with
  | .next t => t
  | _ => State.reset
def nop0 (f : Team → Team) (g : State → State) : State := teamAt (.nop blank) f g
def team0 (s : State) (c : Team → Bool) : Bool := (s.team? 0 0).any c
def setClk (n : Nat) (s : State) : State := s.setCore 0 { s.coreOf 0 with clk := n }

/-! The sequencer. -/

theorem test_meets_quantum : (team0 (nop0 (fun t => { t with running := none }) id) fun t =>
    (nop0 (fun t => { t with running := none }) id).teamRuns t && t.leaving.isNone && t.mayPass) = true := by decide +kernel
theorem test_meets_clause_start : (let s := nop0 (onSplits fun p => { p with clause := none }) id;
    team0 s fun t => s.teamRuns t && t.running == some 0 &&
        (t.splits.get? 0).any fun p => p.clause.isNone && p.wait == .none) = true := by
  decide +kernel
theorem test_meets_sleep_end : (let s := nop0 (onSplits fun p => { p with wait := .sleep 5 }) (setClk 5);
    team0 s fun t => (t.splits.get? 0).any fun p => p.wait == .sleep 5 && decide (5 ≤ (s.coreOf 0).clk)) = true := by decide +kernel
theorem test_meets_starvation : (let s := nop0 id (setClk 1024);
    team0 s fun t => s.teamRuns t && t.running.isSome && decide (t.lastClk + 1024 ≤ (s.coreOf 0).clk)) = true := by decide +kernel
/-- A team that waits on the cohort at 0x4000, whose phase is 1. -/
theorem test_meets_cohort_seen : (let s := nop0 (onSplits fun p => { p with wait := .cohort 0x4000 0 true }) (mapped [(0x400C, 1)]);
    team0 s fun t => t.cohortWait == some (0x4000, 0, true) &&
      (s.cohortLook t 0x4000).any fun keys => (readCohort s keys).phase.toNat != 0) = true := by decide +kernel
theorem test_meets_cohort_leave : (let s := nop0 (fun t => { inCohort t with leaving := some 64 }) (mapped []);
    team0 s fun t => !t.cohorts.isEmpty && !t.stops.fault && !s.leaveWaits t &&
        (s.cohortKeys t 0x4000).isOk) = true := by decide +kernel
theorem test_meets_role_switch :
    (let s := nop0 (fun t => onSplits (fun p => { p with clause := none }) { t with pendingRole := some (1, 0) })
      (fun s => { s with launches := s.launches.map fun x =>
        (x.1, { x.2 with record := { x.2.record with roles := [(0, 64, 0), (32, 64, 0)] } }) });
    team0 s fun t => (s.launchOf t).any (fun l => l.record.roles[1]? == some (32, 64, 0)) && s.teamRuns t && t.between &&
      t.flagsZero 0xFFF && decide (64 ≤ t.regs)) = true := by decide +kernel
theorem test_meets_team_retire : (let s := nop0 (fun t => { t with leaving := some 64 }) id;
    team0 s fun t => t.cohorts.isEmpty && t.flagsZero 0xFFF && t.onlyStores && !t.stops.fault && noBanks s) =
      true := by decide +kernel
theorem test_meets_claim_grant :
    (let s := nop0 (onSplits fun p => { p with wait := .claim false 5 })
      (fun s => s.setMx 0 { Matrix.init with claims := [⟨0, 0⟩] });
    (s.claimOf 0 ⟨0, 0⟩).any fun cx => (unitsOf cx.2).all ((s.mx 0).isFree cx.1)) = true := by decide +kernel
theorem test_meets_cctl_answer :
    (let s := got (.cctl { blank with a := .s 2, mod := 2 })
      (teamAt (.cctl { blank with a := .s 2, mod := 2 }) id (mapped []));
    team0 s fun t => (s.teamCx t).isSome && noBanks s &&
      (t.pend.find? fun p => match p.work with
        | .cctl .. => true
        | _ => false).isSome) = true := by decide +kernel
theorem test_meets_control_waits : ([CtlMode.ksleep 5, .eqwait (some 5)].all fun m =>
      let s := ctlAt (.nop blank) (fun c => { c with mode := m }) (setClk 5);
      (s.ctl 0).mode == m && decide (5 ≤ (s.coreOf 0).clk)) = true ∧
    (let s := got (.kld { blank with d := .k 2, a := .k 4, b := .k 6, mod := 3 })
        (ctlAt (.kld { blank with d := .k 2, a := .k 4, b := .k 6, mod := 3 }) id (mapped []));
      (s.ctl 0).mode == .load && noBanks s && match ((s.drainCtl 0).ctl 0).pend with
        | p :: _ => match p.work with
          | .results .. => true
          | _ => false
        | [] => false) = true := by decide +kernel

/-! Accesses, lines, flits, arbiters, locks. -/

def issued (i : Instr) : State := got i (teamAt i id id)
/-- The operation may end, by its name the only one. -/
def endsAlone (t : Team) (q : Pend) : Bool :=
  q.flag.isSome && (t.pend.filter fun p => p.id == q.id).length == 1 && match q.work with
    | .results .. => true
    | .mem act _ items _ => (match act with
      | .load .. => true
      | _ => false) && items.all fun x => match x.place with
        | .here keys => decide (((keys.map (· / 64)).dedup).length ≤ 2)
        | .remote .. => false
    | _ => false
theorem test_meets_load_complete : (let s := issued (.ld inScratch);
      noBanks s && team0 s fun t => t.pend.any (endsAlone t)) = true ∧
    (let s := got (.mrd { opS with d := .v 2 }) (teamAt (.mrd { opS with d := .v 2 }) id holding);
      noBanks s && team0 s fun t => t.pend.any fun q => endsAlone t q && (match q.work with
        | .results .. => true
        | _ => false) && (pendsTo q.id t.pend).all fun p => p.events == 0) = true := by decide +kernel
theorem test_meets_store_complete : (let s := issued (.st inScratch);
    noBanks s && team0 s fun t => (t.pend.find? Pend.isStore).isSome) = true ∧
    (let s := got (.kst { blank with d := .k 2, a := .k 4, b := .k 6, mod := 3 })
        (ctlAt (.kst { blank with d := .k 2, a := .k 4, b := .k 6, mod := 3 }) id (mapped []));
      noBanks s && ((s.ctl 0).pend.find? Pend.isStore).isSome) = true := by decide +kernel
theorem test_meets_evict_last : (let s : State := { State.reset with fab := 65536, lines := [(5,
      { way := 0, prio := 2, vd := 0, pin := none, lent := false, lastEl := 0, excl := none, tile := false })] };
    (s.lines.get? 5).any fun l => l.prio == 2 && decide (l.lastEl + 65536 ≤ s.fab)) = true := by decide +kernel
/-- A flit to a gang that has retired, and one to another gang. -/
def sending (s : State) : State := { onGang (fun g => { g with tx := [(0, [{ words := [], gang := 5, member := 0 }])] }) s with
  launches := s.launches.map fun x => (x.1, { x.2 with nextGang := 6 }) }
theorem test_meets_flit : (let s := nop0 id sending;
    s.gangs.any fun x => match x.2.txq 0 0 with
      | f :: _ => (s.gangs.find? fun y => y.2.launch == x.2.launch && y.2.lin == f.gang).isNone &&
        (s.launch? x.2.launch).any fun l => decide (f.gang < l.nextGang)
      | [] => false) = true ∧
    (let s := nop0 id fun s => { sending s with gangs := (sending s).gangs ++ s.gangs.map fun x => (x.1 + 100, { x.2 with lin := 5 }) };
      s.gangs.any fun x => match x.2.txq 0 0 with
        | f :: _ => (s.gangs.find? fun y => y.2.launch == x.2.launch && y.2.lin == f.gang).any fun d =>
          (s.gang? x.1).isSome && (s.gang? d.1).isSome && d.1 != x.1 && d.2.resident && decide ((d.2.rxq f.member 0).length < 8) &&
            (s.receivers d.1 f.member 0).isEmpty
        | [] => false) = true := by decide +kernel
theorem test_meets_arbiter : (arbOk ⟨2, 0⟩ && [({ vd := 0, slot := none, cost := 1 } : ArbReq)].all
    (State.reset.arbReqOk ⟨2, 0⟩)) = true := by decide +kernel
/-- A fetch and a copy that wait for entries of the lock table, once it has room again. -/
def fetchIns : Ins := { blank with len := .l96, a := .s 2, b := .s 4, mod := 0 }
def fetchAt (g : State → State) : State :=
  got (.mfetch fetchIns) (teamAt (.mfetch fetchIns) (setS []) fun s => g (holding (mapped records (onGang counted s))))
def copyAt (x : Nat) (g : State → State) : State :=
  got (.cpkick opKick) (teamAt (.cpkick opKick) id fun s => g (pokeS 0 32 x (mapped [] (onGang counted s))))
theorem test_meets_registers : ([fetchAt lockFull, copyAt aCopy lockFull].all fun s =>
    let s : State := { s with locks := [] };
    s.ops.any fun x => s.mayRegister x.1 x.2) = true := by decide +kernel
/-- A registered copy whose bytes translate, in a state without channels in bank mode. -/
def copyReady (s : State) (c : CopyReq → Bool → Bool) : Bool :=
  noBanks s && s.ops.any fun x => (s.rcmds.get? x.1).isNone && (s.scmds.get? x.1).isNone && match x.2.work with
    | .copy r _ b => s.copyRuns x.2 && (s.copyKeys x.2.reach r).isOk && c r b
    | _ => false
theorem test_meets_finish : copyReady (copyAt aCopy id) (fun r b => r.kind != 4 && !b) = true := by decide +kernel
theorem test_meets_held_records : (let s := nop0 id fun s => s.setCore 0 { s.coreOf 0 with
      held := [(⟨0, 0⟩, { tag := 1, src := 2, status := 0, unit := 3, detail := 4 })] };
    !(s.coreOf 0).held.isEmpty && decide ((s.coreOf 0).eq.length < 64)) = true := by decide +kernel

/-! Faults. -/

/-- A load of an unmapped byte, whose record stands in the queue. -/
def faulted : State := issued (.ld { inScratch with mod := 2 })
theorem test_meets_waiting_fault : (let s := nop0 (onSplits fun p => { p with wait := .faultFull 1 1 0 0 }) id;
      s.faultRoom (coreDie 0) && team0 s fun t => t.fullWait.isSome && (s.teamCx t).isSome) = true ∧
    (let s := ctlAt (.nop blank) (fun c => { c with mode := .faultFull 1 1 0 0 }) id;
      s.faultRoom (coreDie 0) && (s.ctl 0).mode == .faultFull 1 1 0 0 && (s.ctl 0).owner.isSome) = true := by decide +kernel
/-- Renweaz may write these pages. -/
def mapsWell (s : State) (ptes : List (Nat × Nat)) : Bool :=
  ((s.writePtes ptes).ctxs.all fun x => (s.writePtes ptes).tablesGood ⟨x.1 / 64, x.1 % 64⟩ x.2) && !s.cmpComes (s.writePtes ptes)
theorem test_meets_faults : (faulted.faults.any fun x => match x.2.who with
    | .team g i e => mapsWell (faulted.dropFault x.1) [] &&
      (faulted.whereTeam g i).any fun y => (y.2.2.splits.get? e).any fun p => p.wait == .fault x.1
    | _ => false) = true := by decide +kernel
theorem test_meets_invalidate : (let s := nop0 id (mapped []);
    (s.ctx? ⟨0, 0⟩).isSome && !s.cxStuck ⟨0, 0⟩) = true := by decide +kernel
theorem test_meets_way_convert : (!State.reset.overPinned 0 4 && decide (State.reset.chipUnits 0 ≤ 64 * 4) &&
    State.reset.lines.isEmpty) = true := by decide +kernel

/-! Fetches, walks and copies. -/

theorem test_meets_fetch_steps : (let s := fetchAt id; noBanks s && s.ops.any fun x => match x.2.work with
      | .fetch f => x.2.registered && s.opLive x.2 && x.2.fault.isNone && !f.kept && (s.fetchTile x.2.reach f.tile f.row f.col).isOk
      | _ => false) = true ∧
    (let s := fetchAt id;
      let s : State := { s with ops := s.ops.map fun x => (x.1, { x.2 with fault := some 77 }) };
      s.ops.any fun x => x.2.fault.isSome && x.2.work.isFetch) = true := by decide +kernel
/-- A list entry that is none, and the first block. -/
def reading (l : List Host.Cell) (c : Found → Bool) : Bool :=
  let s := nop0 (fun t => { t with walk := some (aWalk []), lrb := 0x3000 }) fun s => holding (mapped (records ++ l) s)
  team0 s fun t => match t.walk, s.reachOf t with
    | some w, some re => w.state == 1 && !w.stopped && w.fault.isNone && t.leaving.isNone && !w.busy.contains w.rot &&
      c (s.walkRead re (w.reader 0 re) w)
    | _, _ => false
theorem test_meets_walker_read : reading [(0x5007, 0x80)] (fun | .entry .. => true | _ => false) = true ∧
    reading [] (fun | .block .. => true | _ => false) = true := by decide +kernel
theorem test_meets_walker_fault : (let s := nop0 (fun t => { t with walk := some { aWalk [] with fault := some 3 } }) id;
    team0 s fun t => (t.walk.any fun w => w.fault == some 3) && mapsWell (s.dropFault 3) []) = true := by decide +kernel
/-- An ACCUM of one f32 from 0x8000 into the cell at 0x9000, and the same committed. -/
def anAccum : Nat := 4 + 2 ^ 14 * 9 + 2 ^ 64 * 0x8000 + 2 ^ 128 * 0x9000 + 2 ^ 192 * (4 + 2 ^ 16)
def committed : State := (copyAt anAccum id).ops.foldl (fun s x => got (.accumCommit x.1) s) (copyAt anAccum id)
theorem test_meets_accum : copyReady (copyAt anAccum id) (fun r b => r.kind == 4 && !b) = true ∧
    copyReady committed (fun r b => r.kind == 4 && b) = true := by decide +kernel
theorem test_meets_copy_fault : (let s := copyAt aCopy id;
    let s : State := { s with ops := s.ops.map fun x => (x.1, { x.2 with fault := some 77 }) };
    s.ops.any fun x => x.2.fault.isSome && x.2.work.isCopy) = true := by decide +kernel

/-! The dispatcher. -/

def cx0 : CtxId := ⟨0, 0⟩
/-- A context with queue 0: its header at 0x5000,
    one launch record in the ring at 0x6000 of one gang of one team of 32 threads; more of the record's
bytes, and its class. -/
def launching (gang flags prio : Nat) (s : State) : State :=
  mapped [(0x5001, 0x60), (0x5009, 1), (0x500C, 1), (0x6001, 0x80), (0x6010, 1), (0x6014, 1), (0x6018, 1), (0x601C, 32),
      (0x601E, 64)]
    (onCtx (fun c => { c with queues := [(0, { header := 0x5000, die := 0, notes := [], passed := false, fault := none })] })
      { s with ctxs := [(0, Ctx.init)] })
  |> fun s => (((s.writePA 0x6020 1 gang).writePA 0x6021 1 1).writePA 0x6022 1 prio).writePA 0x6023 1 flags
def readOf (gang flags prio : Nat) : State := got (.launchRecordRead cx0 0) (launching gang flags prio State.reset)
theorem test_meets_record_read : (let s := launching 0 0 0 State.reset;
    noBanks s && (s.queue? cx0 0).any fun qu => !qu.passed && qu.fault.isNone && qu.todo.isNone && (s.headOf cx0 0).isNone &&
      match s.span cx0 qu.header 64 false with
      | .ok hk => let h := s.qhead hk
        let s₁ := ((s.undefer (.queue cx0 0)).walkedDie qu.die cx0 qu.header).touch cx0.vd 0 hk
        h.enabled && h.fstat == 0 && h.waiting != 0 && !s.issuerHeld qu h && noBanks s₁ &&
          match s₁.span cx0 (h.slotVa h.cons) 128 false with
          | .ok keys =>
            let s₂ := ((s₁.undefer (.queue cx0 0)).walkedDie qu.die cx0 (h.slotVa h.cons)).touch cx0.vd 0 keys
            (parseRecord (keys.map s₂.readKey)).any (fun x => x.2.count == 0 && !x.1.chip && !x.1.coresident) &&
              (s₂.span cx0 qu.header 64 true).isOk
          | .error _ => false
      | .error _ => false) = true := by decide +kernel
theorem test_meets_dispatch_fault : ([true, false].all fun b =>
    let s : State := { launching 0 0 0 State.reset with
      faults := [(4, { va := 0, cx := cx0, core := 0, slot := 0, kind := 1, access := 1, clk := 0, who := .queue cx0 0 b, addr := 0 })] };
    (s.faults.get? 4).any fun f => f.who == .queue cx0 0 b && (s.queue? cx0 0).any fun qu =>
      match s.span cx0 qu.header 64 true with
      | .ok hk => (qu.notes.get? ((s.qhead hk).cons % 2 ^ (s.qhead hk).log2n)).isNone
      | .error _ => false) = true := by decide +kernel
theorem test_meets_place : ((readOf 0 0 0).nextHead 0).any (fun x => (x.2.2.launch? x.1).any fun l =>
      !x.2.1.record.coresident && (x.2.2.chooseCores l).any fun cores => x.2.2.placesOk l.record cores [0]) = true ∧
    ((readOf 0 1 0).headOf cx0 0).any (fun x => ((readOf 0 1 0).nextHead x.2.die).any fun y => y.1 == x.1 &&
      x.2.record.coresident && x.2.record.gangs == 1 && ((y.2.2.launch? x.1).bind y.2.2.chooseCores).any (fun cores =>
        y.2.2.placesOk x.2.record cores ([0].take x.2.record.gang)) &&
      (y.2.2.placeMany x.1 x.2.record.gang x.2.record.gangs (some [0])).isSome) = true := by decide +kernel
def placed : State := got (.gangPlace 0 [0]) (readOf 0 0 0)
def savedGang : State := placed.gangs.foldl (fun s x => got (.gangPreempt x.1) s) placed
/-- The gang whose team has gone: the last of its launch, or one of two. -/
def goneGang (n : Nat) : State := { placed with
  teams := [], launches := placed.launches.map fun x => (x.1, { x.2 with record := { x.2.record with gx := n } }) }
/-- A team with a remote load outstanding. -/
def remoteLoad : Pend := { id := 9, flag := some 0, work := .remote false 4 1 32 [] [], dst := [] }
theorem test_meets_gangs : ([1, 2].all fun n => let s := goneGang n;
      noBanks s && s.gangs.any fun x => s.gangDone x.1 x.2 && (s.launch? x.2.launch).any fun l => l.draw.isNone &&
        (l.retired + 1 == l.record.gangs) == (n == 1) && l.record.doneAddr == 0 && (s.queue? l.qcx l.queue).any fun qu =>
          (s.span l.qcx qu.header 64 true).isOk) = true ∧
    (placed.gangs.any fun x => x.2.resident && (placed.together x.1 x.2 true).all fun y => placed.saveReady y.1) = true ∧
    (let s : State := { placed with teams := placed.teams.map fun x => (x.1, { x.2 with pend := [remoteLoad] }) };
      s.gangs.any fun x => x.2.resident && (s.together x.1 x.2 true).any (fun y => !s.saveReady y.1) &&
        (s.together x.1 x.2 true).any fun y => !y.2.toSave) = true ∧
    (savedGang.gangs.any fun x => !x.2.resident && x.2.size == 1 && savedGang.together x.1 x.2 false == [x] &&
      (savedGang.launch? x.2.launch).any fun l => !savedGang.restoreHeld l && savedGang.restorable l [0] &&
        savedGang.coreTakes x.1 x.2 l.record.units 0 0 0) = true := by decide +kernel
theorem test_meets_frame_deadline : (let s : State := { State.reset with parts := [(0, { Part.all with deadline := some 0 })] };
    (s.parts.get? 0).any fun p => (s.frameHead p).isNone && p.deadline == some 0) = true := by decide +kernel
/-- A launch of class 3 that finds no core, while another gang of the partition stands. -/
theorem test_meets_frame_preempt : (let s : State := { placed with
      parts := [(0, { Part.all with clusters := [], deadline := some 0, frctl := 0x8000000000000000 })]
      launches := placed.launches ++ placed.launches.map fun x => (x.1 + 100, { x.2 with
        nextGang := 0, record := { x.2.record with prio := 3 } }) };
    (s.parts.get? 0).any fun p => s.framePressed p && !s.framesFit (s.frameWaiting 0 (some 0)) &&
      (s.victim 0 0).any fun x => (s.together x.1 x.2 true).all fun y => s.saveReady y.1) = true := by decide +kernel
theorem test_meets_watchdog : (let s : State := { placed with ns := 3000000000 };
    s.gangs.any fun x => (s.launch? x.2.launch).any fun l => x.2.resident && !x.2.faultStop &&
        (s.teams.any fun y => y.2.gang == x.1) &&
      decide (x.2.lastFire + s.wdtOf l.cx ≤ s.ns) &&
      s.teams.all fun y => y.2.gang != x.1 || decide (y.2.lastIssue + s.wdtOf l.cx ≤ s.ns)) = true := by decide +kernel
/-- A ray on its way: the state after a RAYS of one thread. -/
def rayed : State := got (.rays opRays) (teamAt (.rays opRays) aRayOf fun s => mapped [] { s with trqlim := [(0,
    0x0000010000000100)] })
theorem test_meets_context_reset : ((placed.ctx? cx0).isSome &&
    !((placed.abortQueues cx0).endSessions cx0).cxStuck cx0) = true := by decide +kernel

/-! Filters and rays. -/

def filtered : State := got (.texs opFilter) (teamAt (.texs opFilter) (fun t => { t with s := [(4, 0x4000)] }) (mapped filterCells))
theorem test_meets_filter_steps : (noBanks filtered && filtered.filters.any fun x => (filtered.team? x.2.core x.2.slot).isSome &&
      (x.2.steps[0]?).isSome && x.2.got.isEmpty && x.2.work.reads 0x10000 4) = true ∧
    (let s : State := { filtered with filters := filtered.filters.map fun x => (x.1, { x.2 with steps := [] }) };
      s.filters.any fun x => x.2.steps.isEmpty && x.2.hole.isNone && s.postsNow x.2.core x.2.cx 4 x.2.stack) = true := by decide +kernel
def withRays (p : RayPlace) (e : RayEntry) : State :=
  { rayed with rays := rayed.rays.map fun x => (x.1, { x.2 with place := p, entry := e }) }
def openTreelet (st : TreeletState) (s : State) : State :=
  { s with treelets := [(0, { st := st, base := 0x10000, size := 64, version := 1, closers := [] })] }
theorem test_meets_ray_steps : (rayed.rays.any fun x => x.2.place == .flying false) = true ∧
    (let s := withRays .queued .spilled; decide (s.sramRays 0 0 < s.rqlim 0 0) && (oldestRay (s.rays.filter fun x =>
      tlStack x.2.treelet == 0 && x.2.cx.vd == 0 && x.2.queued && x.2.entry == .spilled)).isSome) = true ∧
    (chooseTreelet ((openTreelet .opened (withRays .queued .quota)).readyRays 0 0)).isSome = true := by decide +kernel
def aCandidate : Candidate := { handle := 7, t := 0, prim := 0, u := 0, v := 0 }
def aVisit : Visit := { base := 0x10000, size := 64, s := [], l := [], reads := 0 }
theorem test_meets_verdicts : (let s := (withRays .queued .quota).updTeam 0 0 fun t => { t with verdicts := [(7, 0)] };
      team0 s fun t => (s.teamRef t.gang t.index).isSome && !t.verdicts.isEmpty && (s.parkedRay t.gang t.index 7).isNone) = true ∧
    (let s := (withRays (.parked aVisit aCandidate true) .quota).updTeam 0 0 fun t => { t with verdicts := [(7, 1)] };
      noBanks s && team0 s fun t => (s.parkedRay t.gang t.index 7).isSome) = true ∧
    (let s := withRays (.posting []) .quota;
      team0 s fun t => decide (t.hits.length < 64) &&
        (s.rays.find? fun x => x.2.gang == t.gang && x.2.index == t.index && x.2.waitsPost).isSome) = true := by decide +kernel
theorem test_meets_drain : (let s := openTreelet .closing State.reset;
    (s.treelet cx0 0).st == .closing && !s.visited cx0 0 && s.tlq.isEmpty &&
        (s.treelet cx0 0).closers.isEmpty) = true := by decide +kernel

/-! The stacks. -/

def sredIns : Ins := { blank with a := .k 2 }
def reducing : State := got (.sred sredIns) (ctlAt (.sred sredIns) (fun c => c.setK 2 0x4000) (mapped sredCells))
def mapOps (f : EngOp → EngOp) (s : State) : State := { s with ops := s.ops.map fun x => (x.1, f x.2) }
def noneLeft (flag : Nat) (o : EngOp) : EngOp := { o with work := match o.work with
  | .sred r => .sred { r with left := [], flag := flag }
  | w => w }
theorem test_meets_sred_steps : (noBanks reducing && reducing.ops.any fun x => match x.2.work with
      | .sred r => reducing.opBegun x.1 && r.left == [0] && ((r.crumbVas 0).all fun a => (reducing.translate x.2.cx a).isOk) &&
        (reducing.translate x.2.cx r.dst).isOk
      | _ => false) = true ∧
    ([0, 0x8040].all fun a => let s := mapOps (noneLeft a) reducing;
      noBanks s && s.ops.any fun x => match x.2.work, s.stackOf? x.1 with
        | .sred r, some (_, c) => r.left.isEmpty && c.begun && ((s.clearLocks x.1).flagKeys x.2.cx r.flag).isEmpty == (a == 0)
        | _, _ => false) = true := by decide +kernel
/-- A session on the channel of address 0: SBANK, its entry, then an SMAC of one column by the same thread. -/
def banking : State := got (.sbank sredIns) (ctlAt (.sbank sredIns) id plain)
def entered : State := got (.sbankEnter 0) banking
def atCtl0 (i : Instr) (s : State) : State := s.onCtl 0 fun c => { c with clause := some (clauseAround (encode i)), mode := .running }
def smacked : State := got (.smac opStack) (atCtl0 (.smac opStack) entered)
theorem test_meets_sessions : (decide (banking.banksOn 0 < 32) && (banking.scmds.find? (banking.bankWaits 0)).any fun x =>
      match x.2.work with
      | .bank pc => (banking.sessions.get? (sessKey 0 pc)).isNone && (banking.deferred.get [] (sessKey 0 pc)).isEmpty
      | _ => false) = true ∧
    (smacked.scmds.any fun x => match x.2.work with
      | .smac pc .. => x.2.begun && (smacked.sessions.get? (sessKey x.2.stack pc)).isSome
      | _ => false) = true := by decide +kernel
/-- A SACC whose bank step is due, and whose first crumb is. -/
def opSacc : Ins := { opStack with mod := 0 }
def sacced : State := got (.sacc opSacc) ((atCtl0 (.sacc opSacc) entered).onCtl 0 fun c => c.setK 4 0x20040)
def saccRead : State := sacced.scmds.foldl (fun s x => got (.engineOpRelease x.1) s) sacced
theorem test_meets_sacc : (sacced.scmds.any fun x => x.2.begun && (sacced.rcmds.get? x.1).isNone && match x.2.work with
      | .sacc pc _ _ _ _ _ none => (sacced.sessions.get? (sessKey x.2.stack pc)).isSome
      | _ => false) = true ∧
    (saccRead.scmds.any fun x => x.2.begun && (saccRead.rcmds.get? x.1).isNone && match x.2.work with
      | .sacc _ d _ _ _ lock (some ((i, _) :: _)) => (match saccRead.translate x.2.cx (d + 64 * i) with
          | .ok l => !(saccRead.barred (some (.crumb lock i)) (chanOf l.pa))
          | .error _ => false) && (saccRead.ops.get? lock).all fun o => o.cx == x.2.cx
      | _ => false) = true := by decide +kernel
theorem test_meets_session_ends : (let s : State := { entered with ns := 50000 };
      s.sessions.any fun x => x.2.ending == none && decide (x.2.began + 50000 ≤ s.ns)) = true ∧
    (let s : State := { entered with sessions := entered.sessions.map fun x => (x.1, { x.2 with ending := some none }) };
      s.sessions.any fun x => s.sessionOver 0 x.1 x.2) = true := by decide +kernel

/-! Compressed tiles, raster commands, heads. -/

/-- A page of C = 1 at 2^30, its first tile's lines held; and the state in which its first tile is resident. -/
def compressed : State := nop0 id fun s => { surfaced s with wayqs := [], lines := [0x1000000, 0x1000001, 0x1000002, 0x1000003].map fun c => (c,
  { way := 0, prio := 1, vd := 0, pin := none, lent := false, lastEl := 0, excl := none, tile := true }) }
def resident : State := got (.cdcTileFill 0x40000000) compressed
theorem test_meets_tiles : ((compressed.tiles.get? 0x400000).isNone && !compressed.tileStuck 0x40000000 &&
      (compressed.compVd 0x40000000).any fun vd =>
        (compressed.fillTileLines vd 0 [0x1000000, 0x1000001, 0x1000002, 0x1000003]).isSome) = true ∧
    ([0x1000000, 0x1000001, 0x1000002, 0x1000003].all fun c => (compressed.lines.get? c).isSome) = true ∧
    ((resident.tiles.get? 0x400000).isSome && !resident.tileStuck 0x40000000) = true := by decide +kernel
theorem test_meets_page_change : ([(false, 0x4000), (true, 0)].all fun (x : Bool × Nat) => !compressed.cxStuck cx0 &&
    ((compressed.drainCx cx0).leafWhere? cx0 (x.2 * 65536)).any fun y =>
      bitAt y.2.1 5 != x.1 && !(compressed.drainCx cx0).filterReads cx0 (alignDown (x.2 * 65536) (leafBytes y.1)) (leafBytes y.1) && ((compressed.drainCx cx0).encodedTiles [leafRange y]).all fun t =>
        !(compressed.drainCx cx0).tileStuck (256 * t)) = true := by decide +kernel
/-- A DRAW of one triangle over the tile at 0x10000: the surface at 0x4000, the pixel kernel at 0x6000, the corners at 0x7000. -/
def drawCells : List Host.Cell :=
  [(0x4002, 1), (0x4010, 8), (0x4012, 8), (0x6001, 0x80), (0x601C, 64), (0x601E, 64), (0x6021, 1), (0x7012, 0, ), (0x7013, 0x41),
   (0x7027, 0x41)].filter fun x => x.2 != 0
def drawIns : Ins := { blank with a := .k 2, b := .lit 1 }
def drawing : State := got (.draw drawIns) (ctlAt (.draw drawIns)
  (fun c => { c.setK 2 0x7000 with raster := { RasterState.init with surf := 0x4000, pixk := 0x6000 } }) (mapped drawCells))
/-- The DRAW begins, and its three vertices are read. -/
def setUp : State := (List.range 4).foldl (fun s _ => got (.pixelTeamSpawn 0 0) s) drawing
theorem test_meets_vertex : (let s := got (.pixelTeamSpawn 0 0) drawing; s.rcmds.any fun x => x.2.die == 0 && !s.rasterWaits x.1 x.2 &&
    match x.2.work with
      | .draw va n _ (some r) => r.ended.isNone && r.tiles.isNone && r.tri < n &&
        (s.rasterRead (.work x.1) 0 x.2.cx (va + 48 * r.tri + 16 * (r.corners.length / 3)) 16).isOk
      | _ => false) = true := by decide +kernel
theorem test_meets_spawn : (decide (setUp.pixelTeams 0 < 4096) && (setUp.dispatchPick 0 (setUp.pixelHeads 0)).any fun x =>
      x.2.1.draw.any fun id => (x.2.2.rcmds.get? id).any fun c => match c.work with
        | .draw _ _ st (some r) => (r.tiles.any fun l => !l.isEmpty) && (setupTri st.cull (vertices r.corners)).isSome &&
          (x.2.2.chooseCores x.2.1).any fun cores => cores.length == 1 && x.2.2.placesOk x.2.1.record cores [0]
        | _ => false) = true := by decide +kernel
/-- The pixel team placed, its packet sent, and the team gone. -/
def spawned : State := got (.pixelTeamSpawn 0 0) setUp
def sentPacket (colour : W32) : State :=
  spawned.gangs.foldl (fun s g => { s with rcmds := s.rcmds.map fun x =>
    (x.1, { x.2 with work := x.2.work.addPacket g.1 { id := 99, after := [], frames := [], frags := [⟨0, colour, 0, false⟩] } }) })
    spawned
/-- A merge of crumb 0 of the packet may happen; true where it changes the crumb. -/
def mergesTo (colour : W32) (changes : Bool) : Bool :=
  let s := sentPacket colour
  noBanks s && (s.packetOf 0 99).any fun x => !s.rasterWaits x.1 x.2.1 && match x.2.1.work, x.2.2.2.packet with
      | .draw _ _ st _, some q =>
        let p := x.2.2.2
        let at' := x.2.2.1.surf.crumb p 0
        !s.packetHeld q && !s.mergeWaits x.1 x.2.1 st x.2.2.1 p && q.mayMerge st 0 && match s.span x.2.1.cx at' 64 false with
          | .ok ks =>
            let s₁ := (s.undefer (.crumb 99 0)).walkedDie 0 x.2.1.cx at'
            let s₂ := s₁.touch x.2.1.cx.vd 0 ks
            ((q.frags.foldl (mergeCrumb st 0) (ks.map s₁.readKey, [])).1 != ks.map s₁.readKey) == changes && noBanks s₂ &&
              (s₂.span x.2.1.cx at' 64 true).isOk
          | .error _ => false
      | _, _ => false
theorem test_meets_merge : (mergesTo 5 true && mergesTo 0 false) = true := by decide +kernel
/-- Every packet merged and every team retired. -/
def drawn : State :=
  let s := got (.pxoutMerge 0 ⟨99, 0⟩) (sentPacket 5);
  let s : State := { s with teams := [] };
  s.gangs.foldl (fun s g => got (.gangRetire g.1) s) s
theorem test_meets_draw_complete : (drawn.rcmds.any fun x => x.2.work.drawDone.any (fun d => d.ended.isNone) && x.2.die == 0 &&
    !drawn.rasterWaits x.1 x.2) = true := by decide +kernel
theorem test_meets_raster_fault : (let s : State := { drawing with faults := drawing.rcmds.map fun x =>
      (4, { va := 0, cx := cx0, core := 0, slot := 0, kind := 1, access := 5, clk := 0, who := .raster 0 x.1, addr := 0 }) };
    s.faults.any fun x => match x.2.who with
      | .raster _ id => (s.rcmds.get? id).isSome && mapsWell (s.dropFault 4) []
      | _ => false) = true := by decide +kernel
/-- An enabled head of the context at its scan-out start, and a frame that waits. -/
def shown (s : State) : State := s.updHead 0 fun h => { h with cx := some cx0, cfg := 0x83D00823610E0F00 }
def aFrame (size : Nat) : Frame := { number := 0, again := false, key := true, base := 0x8000, size := size, pixels := [] }
theorem test_meets_heads : (let s := nop0 id shown; (s.head 0).cx == some cx0 && (s.head 0).en && decide
    ((s.head 0).nextStart ≤ s.ns)) =
      true ∧
    (let s := nop0 id fun s => (shown s).updHead 0 fun h => { h with queue := [aFrame 0, aFrame 256], nextStart := 2 ^ 40 };
      noBanks s && (s.head 0).queue.map Frame.isRead == [true, false] && (s.headQset cx0).isSome &&
        decide (s.ns < (s.head 0).nextStart)) = true ∧
    (let s := nop0 id fun s => (shown (mapped [(0x8040, 9)] s)).updHead 0 fun h => { h with queue := [aFrame 256], nextStart := 2 ^ 40 };
      let t := got (.encodeFrameSend 0) (got (.scanOutStart 0) s)
      (t.head 0).queue.map (fun f => (f.pixels.length, f.pixels.getD 64 0)) == [(128, 9)]) = true := by decide +kernel

/-! Commands past their limit. -/

def late (s : State) : State := { s with ns := 100000000000 }
theorem test_meets_timeouts : (let s := late (fetchAt lockFull);
      s.ops.any fun x => !x.2.late && s.past x.2.cx x.2.began && s.opLive x.2 && x.2.work.isFetch) = true ∧
    (let s := late filtered; s.filters.any fun x => !x.2.late && s.past x.2.cx x.2.began) = true ∧
    (let s := late drawing; s.rcmds.any fun x => !x.2.late && s.past x.2.cx x.2.began && match x.2.work with
      | .done .. => false
      | _ => true) = true ∧
    (let s := late banking; s.scmds.any fun x => !x.2.late && s.past x.2.cx x.2.began) = true ∧
    (let s := late rayed; s.rays.any fun x => s.past x.2.cx x.2.began && (s.gang? x.2.gang).any (·.resident) && match x.2.place with
      | .posting _ => false
      | _ => true) = true := by decide +kernel

/-! Links, power, resets. -/

/-- Peer 1 of the window group, with a frame to acknowledge. -/
def peered (s : State) : State :=
  { mapped [] s with streams := [(1, { Stream.init with unacked := [⟨0, 1, cx0, [], 0, none⟩] })] }
theorem test_meets_remote : (let s := nop0 id peered;
    noBanks s && (s.peer? 1).any fun st => !st.unacked.isEmpty) = true := by decide +kernel
theorem test_meets_window : (let s := nop0 id fun s => { peered s with ns := 8000 };
    decide ((s.win + 1) * s.winLen ≤ s.groupTime) && s.peers.all fun x => x.2.closed s.win) = true := by decide +kernel
theorem test_meets_peer_lost : (let s := nop0 id fun s => { peered s with ns := 2000000 };
    noBanks s && (s.peer? 1).any fun st => decide ((st.missing + 2) * s.winLen + s.wto ≤ s.groupTime)) = true := by decide +kernel
/-- A frame in order, and one that is not. -/
def frameOf (seq : Nat) (items : List FkItem) : FkFrame :=
  { version := 1, peer := 1, dst := cx0, seq := seq, ack := 0, window := 0, items := items }
theorem test_meets_frames : (let s := nop0 id peered;
    noBanks s && (s.peer? 1).any fun st => (frameOf 1 []).seq != st.expect && (frameOf 0 []).seq == st.expect &&
      (frameOf 0 []).peer == 1 && (frameOf 0 []).version == 1) = true := by decide +kernel
theorem test_meets_ethernet : (let f : List Byte := List.replicate 14 0;
    decide (14 ≤ f.length) && decide (f.length ≤ 9216) && etherType f != State.reset.fkType 0 &&
      (let s := State.reset.setEth 0 { tx := [(0, [f])], rx := [] }; (s.ethSet 0).tx.get [] 0 == [f])) = true := by decide +kernel
theorem test_meets_power : (State.reset.mayGate 0 .gated && State.reset.mayGate 96 .lowered && ((nop0 id id).ctx? cx0).isSome && noBanks (nop0 id id) &&
    !(((nop0 id id).abortQueues cx0).endSessions cx0).cxStuck cx0 && ((nop0 id id).resetAll
        ((nop0 id id).contextsOf 0)).isSome) = true := by decide +kernel

/-! Requests and registers. -/

theorem test_meets_notices : (let s : State := { State.reset with notices := [(3, [⟨noticeEcc, [0]⟩])] };
    !(s.notices.get [] 3).isEmpty && (s.notices.get [] 4).isEmpty) = true := by decide +kernel
/-- A queue that the host feeds, one that LAUNCH feeds, one with an unmapped header, and none. -/
theorem test_meets_queues : ([false, true].all fun b =>
    let s := nop0 id fun s => if b then queued s else launching 0 0 0 s;
    noBanks s && s.ownsCtx 0 cx0 && (s.queue? cx0 0).any fun qu => match s.span cx0 qu.header 64 true with
      | .ok hk => (s.qhead hk).feed == b
      | .error _ => false) = true ∧
    (let s := nop0 id fun s => { queued s with mem := [] };
      s.ownsCtx 0 cx0 && (s.queue? cx0 0).any fun qu => !(s.span cx0 qu.header 64 true).isOk) = true ∧
    (State.reset.ownsCtx 0 cx0) = false := by decide +kernel
theorem test_meets_ctlstart : ((nop0 id id).ownsCtx 0 cx0 && (nop0 id id).coreIn cx0 0 &&
    ((nop0 id id).ctl 0).mode == .free) = true := by
  decide +kernel
theorem test_meets_ctlstop : (let s := ctlAt (.nop blank) id id; (s.ctl 0).owner == some cx0 && !s.stuck (s.ctl 0).pend &&
    (s.ctl 1).owner.isNone) = true := by decide +kernel
theorem test_meets_windows : (let s := nop0 id (mapped []);
    (s.ctx? cx0).any fun c => s.windowFits cx0 (2 ^ 20) (2 ^ 17) 0 true && decide (c.windows.length < 64) &&
      (c.windows.all fun w => decide (w.base + w.len ≤ 2 ^ 20)) && (c.windows.find? fun w => w.base == 0).any fun w =>
        !s.windowTreelets cx0 w && !s.windowNamed cx0 w && !s.windowRead cx0 w && (openTreelet .opened s).windowTreelets cx0 w) = true := by decide +kernel
/-- A transfer of 8 bytes over a crumb's edge: not begun, refused, at its first crumb and at its last. -/
def aTransfer (write : Bool) : Transfer := { tag := 7, cx := cx0, va := 0x803C, len := 8, write := write, moved := 0 }
def transferring (x : Transfer) : State := (nop0 id (mapped [])).setRun 1 (some x)
theorem test_meets_transfers : (let s := nop0 id (mapped []); (s.mailbox 1).run.isNone && !s.busy 1 && [true, false].all fun b =>
      (s.hostSpan 0 cx0 0x803C 8 b).isSome && (s.hostSpan 0 cx0 (2 ^ 47) 8 b).isNone && [0, 1].all fun k =>
        let y := { aTransfer b with moved := k }
        let u := transferring y
        noBanks u && u.busy 1 && ((u.hostSpan 0 cx0 y.crumb.1 y.crumb.2 b).isSome) &&
          !(u.lockHit cx0 .global y.crumb.1 y.crumb.2 b) && (decide (0x8044 ≤ y.crumb.1 + y.crumb.2) == (k == 1))) = true := by
  decide +kernel
/-- MEMWR moves its bytes crumb by crumb: after the second step the first crumb stands in memory alone, after the third the request is
answered. -/
theorem test_memwr : (let i : Instr := .memwr 1 7 cx0 0x803C [1, 2, 3, 4, 5, 6, 7, 8]
    let s := got i (got i (nop0 id (mapped [])))
    let t := got i s
    [s, t].map (fun u => ([0x803C, 0x803F, 0x8040, 0x8043].map u.readKey, u.busy 1, (u.mailbox 1).irq0)) ==
      [([1, 4, 0, 0], true, 0), ([1, 4, 5, 8], false, 1)]) = true := by decide +kernel
theorem test_meets_headcfg : ((nop0 id shown).head 0).cx = some cx0 := by decide +kernel
def aVd (s : State) : State := { s with vds := [(0, { part := 0, wdt := 2000000000, cto := 1000000000, remoteErr := 0 })] }
theorem test_meets_physical : ((aVd State.reset).destroyVd 0).isSome = true ∧ (State.reset.parts.get? 0).isSome = true ∧
    ((aVd State.reset).vds.get? 0).isSome = true ∧ arbOk ⟨2, 0⟩ = true ∧ 0 < arbSlots 2 := by decide +kernel
/-- A device of one context and one queue, whose tables map the header. -/
def aContext : CtxReq :=
  { ctx := 0, root := 0x1000, ptes := [(0x1000, 0x2001), (0x2000, 0x1F)]
    queues := [{ index := 0, header := 0x5000, die := 0, ring := 0x6000, log2n := 4, enabled := true, feed := true }], chip := [], remote := [], heads := [0] }
theorem test_meets_device : (let s := State.reset
    let r := s.writeTrqAll 0 (fun k => some (ringWord 0 [] k)) fun k => some (qlimWord [] 0 k)
    let t := [aContext].foldl (fun s c => s.makeCtx 0 c)
      { r.2 with vds := r.2.vds.set 0 { part := 0, wdt := 2000000000, cto := 10000000, remoteErr := 0 } }
    ctxReqGood Part.all s aContext && s.chipFits [aContext] && s.ringsFit 0 0 [] && wdtFits 2000000000 && ctoFits 10000000 && r.1 &&
      t.allTablesGood && t.headersMapped 0 [aContext]) = true := by decide +kernel
/-- Cluster 95, on which nothing stands; cluster 0, whose gang is not ready to be saved; another partition's; a queue set and a head;
a group without sessions, and with one. -/
theorem test_meets_moves : (let s := State.reset
      s.partOwns 0 95 (·.clusters) && (s.reslot 95 []).isSome && !s.moveHeld 95 0 && !s.clusterBusy 95 && s.gangs.isEmpty &&
        !s.partOwns 1 95 (·.clusters) && s.partOwns 0 5 (·.qsets) && s.partOwns 0 5 (·.heads) && !(s.head 5).en) = true ∧
    (let s := (nop0 (fun t => { t with pend := [remoteLoad] }) id);
      s.partOwns 0 0 (·.clusters) && !s.moveHeld 0 0 && !s.clusterBusy 0 &&
        match s.gangs.filter fun x => x.2.resident && x.2.cores.any fun k => coreCluster k == 0 with
        | [x] => s.gang? x.1 == some x.2 && !s.saveReady x.1 && (s.together x.1 x.2 true).contains x && !x.2.toSave
        | _ => false) = true ∧
    (let s := State.reset; let base := 0 * 2 ^ 36 + 7 * 2 ^ 33
      s.partOwns 0 7 (·.groups) && !s.groupUsed base && !s.groupWindowed 0 base && (s.groupSessions 0 7).isEmpty && s.groupQuiet 0 7 &&
        (s.partCtxs 0).all (fun cx => !s.cxStuck cx) && (s.migrate 0 base [] []).any fun t => t.groupLeft base) = true ∧
    (let s : State := { State.reset with sessions := entered.sessions.map fun x => (56, x.2) };
      s.partOwns 0 7 (·.groups) && !s.groupUsed (7 * 2 ^ 33) && !s.groupWindowed 0 (7 * 2 ^ 33) &&
        !(s.groupSessions 0 7).isEmpty) = true := by decide +kernel
/-- A sealed region that no context maps, and one that a context does. -/
theorem test_meets_seals : ([(0x4000000000, false), (0, true)].all fun (x : Nat × Bool) =>
    let s := nop0 id fun s => { mapped [] s with seals := [(0, { base := x.1, len := 65536, isSealed := true })] };
    (s.seals.get? 0).isSome && (s.ctxs.any fun c => s.ctxMaps c.2 x.1 65536) == x.2 && (s.seals.get? 1).isNone) = true ∧
    (let s : State := { State.reset with parts := [(0, { Part.all with groups := [] })] };
      s.sealFits 0 0 65536 && (s.seals.get? 0).isNone) = true := by decide +kernel
theorem test_meets_debugger : (let s := nop0 (fun t => { t with stops := { t.stops with debug := true } }) id;
      team0 s fun t => s.teamStopped t && (s.gang? t.gang).isSome) = true ∧
    (team0 (nop0 id id) fun t => !(nop0 id id).teamStopped t) = true ∧
    ((ctlAt (.nop blank) id id).ctl 0).mode = .running ∧ ((ctlAt (.nop blank)
        (fun c => { c with mode := .held }) id).ctl 0).mode = .held ∧
    (State.reset.ctl 0).mode = .free ∧
    (let s := ctlAt (.nop blank) (fun c => { c with mode := .stopped false }) id;
      (s.ctl 0).mode == .stopped false && (s.ctl 0).owner.isSome && !s.stuck (s.ctl 0).pend) = true := by decide +kernel
/-- Settings of the device, of a virtual device and of a stopped team. -/
theorem test_meets_settings : State.reset.streams.get? 5 = none ∧ State.reset.lines = [] ∧ State.reset.wayqs = [] ∧
    ((aVd State.reset).vds.get? 0).isSome = true ∧
    (let s := nop0 (fun t => { t with stops := { t.stops with debug := true } }) id;
      team0 s fun t => s.teamStopped t && decide (0 < t.threads) && decide (0 < t.regs)) = true := by decide +kernel
/-- Encoders 0 to 3 with a slot for the virtual device. -/
def encoders (s : State) : State := (List.range 4).foldl (fun s e => s.setArb ⟨12, e⟩ { s.arb ⟨12, e⟩ with
  slots := [(0, { Slot.init with cfg := 0x8000000000000000 })] }) s
theorem test_meets_registers_good : (let s := encoders (nop0 id shown);
      s.hdcfgOk { s.head 0 with cfg := 0 } (hdcfgOf 0x83D00823610E0F00) && !(State.reset.hdcfgOk (State.reset.head 0)
          (hdcfgOf 0x8000000000000000)) &&
        !(hdcfgOf 1).getLsbD 63 && !(State.reset.head 0).en) = true ∧
    (let k : ArbKey := ⟨2, 0⟩; (((State.reset.arb k).bkcfgBad k.kind 0
        (((State.reset.arb k).slot 0).configure k.kind 0)).isEmpty)) = true ∧
    State.reset.wayqBad 0 0 1 = false := by decide +kernel
theorem test_meets_plain : (State.reset.sessions.get? (sessKey 0 0)).isNone = true ∧ State.reset.deferred.get []
    (sessKey 0 0) = [] ∧
    (entered.sessions.any fun x => (entered.sessions.get? x.1).isSome) = true ∧
    regOk (.fketype 0) = true ∧ regOk (.slotmap ⟨2, 0⟩ 0) = true := by decide +kernel

/-! The whole machine. -/

theorem test_meets_round_trip : WellFormed .team (.iadd addFive) = true ∧ (encode (.iadd addFive)).length = 8 ∧
    (match decode .team 512 24 (encode (.iadd addFive)) with
      | .ok (.ins i n) => decide (i = .iadd addFive) && n == 8
      | _ => false) = true := by decide +kernel
/-- A step runs the instruction of the words, behind the agenda's end and as the agenda's turn. -/
theorem test_meets_step : (let s := State.reset.withFetchWord 64 0x000C3C500402F10D;
    s.powered && s.letsAgent (.team 0 0) && s.agenda.isEmpty && s.cur == some (.team 0 0) &&
      (s.site?.any fun si => !si.pos.atEnd && match si.pos.word .team si.team.regs with
        | .ok (.ins i _) => decide (i = .iadd addFive)
        | _ => false)) = true := by decide +kernel
/-- The same step's result: v2 of a thread whose v1 is 7. -/
theorem test_step_adds : (match step ((State.reset.withFetchWord 64 0x000C3C500402F10D).updTeam 0 0 (withV [(9, 1, 7)])) with
    | .next t => (t.team? 0 0).map (·.vreg 9 2)
    | _ => none) = some 12 := by decide +kernel
theorem test_meets_invariants : State.reset.mem.wf = true ∧
    (match step (State.reset.withFetchWord 64 0x00003FFFFFFFF001) with
      | .next t => t.mem.wf
      | _ => false) = true := by decide +kernel
theorem test_meets_legal_settings : ((teamAt (.crw { blank with a := .s 2, mod := 3 }) id id).site?.any fun si =>
    decide (1 ≤ si.team.qnt.toNat) && decide (si.team.tvb.toNat % 512 = 0) && decide (si.team.fpc.toNat < 16) &&
      decide (si.team.tsr.toNat < 256)) = true := by decide +kernel

/-! One word for each instruction of the streams, found by search: it decodes, is well-formed and may issue. -/

theorem test_ready_integer : [(64, 0x3FFFFFFFF101), (96, 0x3C000003FFFFFFFF106), (128, 0x4000003FFFFE0CF107), (64,
    0x241FFC28F109), (96, 0x3FFF00063FF863FFF10E), (64, 0xC242FFFFFF111), (96, 0x3FFF000603407810F116), (64,
    0xC1B7FFFFFF119), (96, 0x3FFF000620CFFFFFF11E), (64, 0xE214683FFF121), (64, 0x43FFF1618F125), (64, 0xC3FF03BFFF129), (64,
    0xC3FF873FFF12D), (64, 0x3FFF11B3F131), (64, 0x3C1FFFFFF135), (64, 0xE903FFF139), (64, 0x1AF861A3F13D), (64,
    0x3FFF3C3AF141), (96, 0x3FFF00003FFFFC1CF146), (64, 0x3C980210F149), (64, 0x2208FFC2AF14D), (64, 0x3FFFFFFFF151), (64,
    0x3FFF3988F155), (64, 0x3FF903FFF159), (96, 0x3FFF00003FFFFC02F15E), (64, 0x424207838F161), (64, 0x181823FFF165), (64,
    0x43FFF39AFF169), (64, 0xC3FF03806F16D), (64, 0x420C67642F171)].all ready = true := by decide +kernel

theorem test_ready_float : [(64, 0x3FFFFE1CF201), (64, 0x214905A9F205), (64, 0x1E3C3F2FFFF209), (64, 0x3FF0F3FFF20D), (64,
    0xC8519FF211), (64, 0x3FF80240F215), (64, 0x3FF81000F219), (64, 0x3FFFFFFFF21D), (64, 0x3FF6B7FFF221), (64,
    0x3FF6C41CF225), (64, 0x3FFF1028F229), (64, 0x3FFFFDABF22D), (64, 0x3FFFFC2CF231), (64, 0x3FFF1808F235), (64,
    0x3FF031A8F239), (64, 0x2FFC2AF23D), (64, 0x3FFFFFFFF241), (96, 0x3FFF00003FFFFFFFF246), (64, 0x3FF089BCF249), (64,
    0x3FF0A026F24D), (64, 0x103FF01242F251), (64, 0x3FFFFE1CF255), (64, 0x3C9FFC3EF259), (64, 0x3FF699B6F25D), (64,
    0x1280002F261)].all ready = true := by decide +kernel

theorem test_ready_formats_and_lanes : [(96, 0x3FFF000E3FFFFC2EF302), (64, 0x803FF9002CF305), (96, 0x3FFF00163FFF021CF30A),
    (64, 0x203FF61BFFF30D), (64, 0x203FF6100AF311), (96, 0x3E00045400000008F316), (96, 0x3FFF002003CFFFFFF31A), (64,
    0x208083FFF381), (64, 0x3FF0A3FFF385), (64, 0x43FFFFFFFF389), (64, 0xC3FFFFDA8F38D), (64, 0x3FFFFFFFF391), (64,
    0xAFFFFFF395)].all ready = true := by decide +kernel

theorem test_ready_sequencer : [(64, 0x3FFFFFFFF001), (64, 0x3FF843FFF005), (96, 0x3A000003CA6CFFFF00A), (64,
    0x3FF6DBFFF00D), (96, 0x1C000003FF863FFF012), (64, 0x3FFFFE08F015), (64, 0x3FFFFFFFF019), (64, 0x3FFFFFFFF01D), (64,
    0x3FFFFFFFF021), (64, 0x3FFFFFFFF025), (64, 0x3FFFFFFFF029), (64, 0x3FFFFFFFF02D), (64, 0x3FFFFFFFF031), (64,
    0x3FFFFFFFF035), (64, 0x3FFFFFFFF039), (64, 0x3FFFFFFFF03D), (64, 0x3FFFFFFFF041), (96, 0x3FFF0000187FFE43F046), (64,
    0x3FFFFC00F049), (64, 0x1E3FF0FBFFF049), (64, 0x3FF901A6F04D), (64, 0x3FF803FFF051), (64, 0x3FF863FFF055), (64,
    0x3FF863FFF059), (64, 0x163C5873FFF05D), (64, 0x3FFFFFFFF061), (64, 0x3FFFFFFFF065), (64, 0x3FF84242F069), (64,
    0x3FFFFFFFF06D), (64, 0x3FFFFE18F071), (64, 0x3FFFFE08F075), (64, 0x3FFF13FFF079)].all ready = true := by decide +kernel

theorem test_ready_memory : [(64, 0x3FFFFC3EF401), (64, 0x40003FF0CBFFF405), (128, 0x3FFF000A3FFFFE00F40B), (64,
    0xC01AFFC34F40D), (128, 0x3FFF000E3FF0C3FFF413), (64, 0x20CFFFFFF415), (64, 0x400AF2FFFF419), (64, 0x3FFFFFFFF41D), (64,
    0x3FFFFFFFF421), (64, 0x208843FFF425), (64, 0x13FFFFE10F429), (64, 0x3FFFFE08F42D)].all ready = true := by decide +kernel

theorem test_ready_control : [(64, 0x3FF0780AF501), (64, 0x43FF01BC7F505), (64, 0x4003FFFFFFFF509), (64, 0x320BBFFF50D), (64,
    0x3FF05BFFF511), (64, 0x3FF62C14F515), (64, 0x3FF0DBFFF519), (64, 0x3FFFFC00F51D), (64, 0x3FFFFFFFF521), (64,
    0x3FFFFFFFF525), (64, 0x3C708BFFF529), (64, 0x3FFFFFFFF52D), (64, 0x3FFFFFFFF531), (64, 0x1C3FFFFFFFF535), (64,
    0x63FFFFC02F539)].all ready = true := by decide +kernel

theorem test_ready_matrix_and_copies : [(64, 0x3FFFFFFFF601), (64, 0x3FFFFFFFF605), (64, 0x3FFFFFFFF609), (64,
    0x3FF843FFF60D), (96, 0x5E000003C3FFFFFF612), (64, 0x63FF0FBFFF615), (64, 0x3FFFFE10F619), (64, 0x3FF873FFF61D), (64,
    0x3FF823FFF621), (64, 0x3FF83000F625), (64, 0x3FF023FFF629), (96, 0x3FFF00403FF033FFF62A), (96, 0x3FFF00003FF873FFF62E),
    (96, 0x3FFF00003FF063FFF632), (64, 0x3FFFFE1CF635), (64, 0x204FFFFFF681), (64, 0x23FFFFE04F685)].all ready = true := by
    decide +kernel

theorem test_ready_filters_and_rays : [(96, 0x3FFF00011A08019AF6C2), (64, 0x51888303AF6C5), (64, 0x3C85012F6C9), (64,
    0xE196853FFF701), (64, 0x3FFFFC32F705), (64, 0x3FF0D3FFF709), (64, 0x3FF05BFFF70D), (96, 0x3C1000000160FBFFF712), (64,
    0x3FF0BBFFF715)].all ready = true := by decide +kernel

theorem test_ready_stacks_and_raster : [(64, 0x3FF003FFF741), (64, 0x3FF093FFF745), (96, 0x3C0000000240A3FFF74A), (64,
    0x63FF0B3FFF74D), (64, 0x2C033FFF751), (64, 0x3FF04BFFF755), (64, 0x3CF04BFFF781), (96, 0x10000003FFFFFFFF786), (64,
    0x18A617FFF789), (64, 0x23CF093FFF78D), (64, 0x3FF093FFF791), (64, 0x14FFFFFF795)].all ready = true := by decide +kernel

end Sys2Proof.Test
end

section
/-! PROOFS. What memory reads after a write of a number's bytes (02 R34). -/

namespace Sys2Proof.Machine

open Sys2Proof Host

theorem leNat_leBytes (n x : Nat) : leNat (leBytes n x) = x % 256 ^ n := by
  induction n generalizing x with
  | zero => simp [leBytes, leNat, Nat.mod_one]
  | succ n ih =>
    calc leNat (leBytes (n + 1) x) = x % 256 + 256 * (x / 256 % 256 ^ n) := by simp [leBytes, leNat, ih]
      _ = x % 256 ^ (n + 1) := by rw [pow_succ', Nat.mod_mul]

theorem Memory.map_read_writes_zip {m : Memory} {keys : List Nat} {bs : List Byte} (h : m.wf = true) (hk : keys.Nodup)
    (hl : bs.length = keys.length) : keys.map (m.writes (keys.zip bs)).read = bs := by
  induction keys generalizing m bs with
  | nil => simp [List.length_eq_zero_iff.mp hl]
  | cons a as ih =>
    obtain _ | ⟨b, bs⟩ := bs
    · simp at hl
    obtain ⟨ha, has⟩ := List.nodup_cons.mp hk
    have hw := Memory.wf_write a b h
    have head : ((m.write a b).writes (as.zip bs)).read a = b := by
      rw [Memory.read_writes_ne _ hw fun y hy => ne_of_mem_of_not_mem (List.of_mem_zip hy).1 ha]
      exact Memory.read_write_self a b h
    have tail := ih hw has (Nat.succ.inj hl)
    simp [Memory.writes, head, tail]

/-- Settles O25: the addresses are distinct, so each holds its own byte of the number after the writes (02 R34). -/
theorem memoryReadsBack : Obligations.MemoryReadsBack := by
  intro m keys x h hk
  rw [Memory.readKeys, Memory.writeKeys, Memory.map_read_writes_zip h hk (Laws.leBytes_length _ _), leNat_leBytes]

end Sys2Proof.Machine
end

section
/-! PROOFS. Register writes (00 R7): what an accepted write stores, what a refused one leaves, and what a change of PLAIN does. -/

namespace Sys2Proof.Machine

open Sys2Proof Host

@[simp] theorem enabled_some (s t : State) : enabled s (some t) = .next t := rfl

@[simp] theorem enabled_none (s : State) : enabled s none = .next s := rfl

@[simp] theorem State.arb_setArb_self (s : State) (k : ArbKey) (a : Arb) : (s.setArb k a).arb k = a := by
  simp [State.arb, State.setArb]

/-! Each register write issues its checked write where its address exists. -/

theorem exec_bkcfgWrite {arb : ArbKey} {slot : Nat} (v : W64) (s : State) (ha : arbOk arb = true) (hs : slot < arbSlots arb.kind) :
    exec (.bkcfgWrite arb slot v) s = .next (s.writeBkcfg arb slot v).2 := by
  change execBkcfgWrite arb slot v s = _
  simp [execBkcfgWrite, ha, hs]

theorem exec_wayqWrite {slice slot : Nat} (v : W64) (s : State) (hc : slice < 512) (hs : slot < 16) :
    exec (.wayqWrite slice slot v) s = .next (s.writeWayq slice slot v).2 := by
  change execWayqWrite slice slot v s = _
  simp [execWayqWrite, hc, hs]

theorem exec_hdcfgWrite {head : Nat} (v : W64) (s : State) (hh : head < 128) :
    exec (.hdcfgWrite head v) s = .next (s.writeHdcfg head v).2 := by
  change execHdcfgWrite head v s = _
  simp [execHdcfgWrite, hh]

theorem exec_trqlimWrite {stack vd : Nat} {ring : Option W64} (qlim : Option W64) {s : State} (hs : stack < 12) (hv : vd < 128)
    (hr : s.ringWordFits stack vd ring = true) :
    exec (.trqlimWrite stack vd ring qlim) s = .next (s.writeTrq stack vd ring qlim).2 := by
  change execTrqlimWrite stack vd ring qlim s = _
  simp [execTrqlimWrite, hs, hv, hr]

theorem exec_grpcfgWrite {stack group : Nat} (v : W64) (s : State) (hs : stack < 12) (hg : group < 8) :
    exec (.grpcfgWrite stack group v) s = .next (s.writeGrpcfg stack group v) := by
  change execGrpcfgWrite stack group v s = _
  simp [execGrpcfgWrite, hs, hg]

theorem exec_frctlWrite {part : Nat} (v : W64) {s : State} {p : Part} (hp : s.parts.get? part = some p) :
    exec (.frctlWrite part v) s = .next (s.writeFrctl part p v) := by
  change execFrctlWrite part v s = _
  simp [execFrctlWrite, hp]

theorem exec_registerWrite {reg : RegRef} (v : W64) (s : State) (h : regOk reg = true) :
    exec (.registerWrite reg v) s = enabled s (s.writeAny reg v) := by
  change execRegisterWrite reg v s = _
  simp [execRegisterWrite, h]

theorem exec_registerWrite_of_some {reg : RegRef} {v : W64} {s t : State} (h : regOk reg = true) (hw : s.writeAny reg v = some t) :
    exec (.registerWrite reg v) s = .next t := by
  rw [exec_registerWrite v s h, hw, enabled_some]

theorem exec_registerWrite_of_none {reg : RegRef} {v : W64} {s : State} (h : regOk reg = true) (hw : s.writeAny reg v = none) :
    exec (.registerWrite reg v) s = .next s := by
  rw [exec_registerWrite v s h, hw, enabled_none]

/-! BKCFG, WAYQ and HDCFG (03 R74, R81; 16 R435). -/

theorem State.writeBkcfg_accepted {s : State} {k : ArbKey} {n : Nat} {v : W64}
    (h : (s.arb k).bkcfgBad k.kind n (((s.arb k).slot n).configure k.kind (bkcfgOf v)) = []) :
    (s.writeBkcfg k n v).2 = s.setArb k ((s.arb k).setSlot n (((s.arb k).slot n).configure k.kind (bkcfgOf v))) := by
  simp [State.writeBkcfg, h]

theorem State.writeWayq_accepted {s : State} {slice slot : Nat} {v : W64} (h : s.wayqBad slice slot (wayMask v.toNat) = false) :
    (s.writeWayq slice slot v).2 = { s with wayqs := s.wayqs.set (16 * slice + slot) (wayqOf v) } := by
  simp [State.writeWayq, h]

theorem State.writeHdcfg_refused {s : State} {head : Nat} {v : W64} (h : s.hdcfgOk (s.head head) (hdcfgOf v) = false) :
    (s.writeHdcfg head v).2 = s := by
  simp [State.writeHdcfg, h]

theorem State.writeHdcfg_disabled {s : State} {head : Nat} {v : W64} (h : s.hdcfgOk (s.head head) (hdcfgOf v) = true)
    (hv : (hdcfgOf v).getLsbD 63 = false) (hen : (s.head head).en = false) :
    (s.writeHdcfg head v).2 = s.updHead head fun x => { x with cfg := hdcfgOf v } := by
  simp only [State.writeHdcfg, h, hv, hen]
  rfl

/-! TRRING and TRQLIM (13 R367). -/

/-- TRRING of a virtual device on a base die as a write leaves it, where it is accepted. -/
def State.newTrring (s : State) (stack vd : Nat) (ring : Option W64) : W64 :=
  ring.getD (s.trring.get 0 (128 * stack + vd)) &&& 0x000000FFFFFFFFFF

/-- TRQLIM of a virtual device on a base die as a write leaves it, where it is accepted. -/
def State.newTrqlim (s : State) (stack vd : Nat) (qlim : Option W64) : W64 :=
  qlim.getD (s.trqlim.get 0 (128 * stack + vd)) &&& 0x0003FFFF00FFFFFF

/-- The quota of the base die that the other virtual devices hold. -/
def State.othersQuota (s : State) (stack vd : Nat) : Nat :=
  ((s.trqlim.filter fun x => x.1 / 128 == stack && x.1 != 128 * stack + vd).map fun x => bits x.2.toNat 49 32).sum

/-- The write is refused: the quotas exceed the base die's, the ring is too small for RAYLIM, or it lies in another stack. -/
def State.trqBad (s : State) (stack vd : Nat) (ring qlim : Option W64) : Bool :=
  126976 < s.othersQuota stack vd + bits (s.newTrqlim stack vd qlim).toNat 49 32 ||
    bits (s.newTrring stack vd ring).toNat 15 0 * 1024 < bits (s.newTrqlim stack vd qlim).toNat 23 0 ||
    (ring.isSome && bits (s.newTrring stack vd ring).toNat 39 36 != stack)

theorem State.trqBad_iff (s : State) (stack vd : Nat) (ring qlim : Option W64) :
    s.trqBad stack vd ring qlim = true ↔
      (126976 < s.othersQuota stack vd + bits (s.newTrqlim stack vd qlim).toNat 49 32 ∨
        bits (s.newTrring stack vd ring).toNat 15 0 * 1024 < bits (s.newTrqlim stack vd qlim).toNat 23 0 ∨
        (ring ≠ none ∧ bits (s.newTrring stack vd ring).toNat 39 36 ≠ stack)) := by
  simp [State.trqBad, Option.isSome_iff_ne_none, or_assoc]

theorem State.writeTrq_eq (s : State) (stack vd : Nat) (ring qlim : Option W64) :
    s.writeTrq stack vd ring qlim =
      if s.trqBad stack vd ring qlim then
        (false, s.setArb ⟨8, 3 * stack + 1⟩ { s.arb ⟨8, 3 * stack + 1⟩ with
          err := BitVec.ofNat 64 (2 ^ 12 * (s.arb ⟨8, 3 * stack + 1⟩).slotOf 8 vd) |||
            ((s.arb ⟨8, 3 * stack + 1⟩).err &&& 0xF) ||| 1 })
      else
        (true, { s with trring := s.trring.set (128 * stack + vd) (s.newTrring stack vd ring)
                        trqlim := s.trqlim.set (128 * stack + vd) (s.newTrqlim stack vd qlim) }) :=
  rfl

theorem State.writeTrq_accepted {s : State} {stack vd : Nat} {ring qlim : Option W64} (h : s.trqBad stack vd ring qlim = false) :
    (s.writeTrq stack vd ring qlim).2 =
      { s with trring := s.trring.set (128 * stack + vd) (s.newTrring stack vd ring)
               trqlim := s.trqlim.set (128 * stack + vd) (s.newTrqlim stack vd qlim) } := by
  simp [State.writeTrq_eq, h]

/-- A refused write leaves both registers, and sets ARBERR.RATEREF. -/
theorem State.writeTrq_refused {s : State} {stack vd : Nat} {ring qlim : Option W64} (h : s.trqBad stack vd ring qlim = true) :
    (s.writeTrq stack vd ring qlim).2.trring = s.trring ∧ (s.writeTrq stack vd ring qlim).2.trqlim = s.trqlim ∧
      ((s.writeTrq stack vd ring qlim).2.arb ⟨8, 3 * stack + 1⟩).err.getLsbD 0 = true := by
  rw [State.writeTrq_eq, if_pos h]
  refine ⟨rfl, rfl, ?_⟩
  simp

/-! GRPCFG (14 R403). -/

theorem State.cleanTile_plain (s : State) (tile : Nat) : (s.cleanTile tile).plain = s.plain := by
  unfold State.cleanTile
  split
  · split <;> rfl
  · rfl

theorem State.evictCrumb_plain (s : State) (crumb : Nat) : (s.evictCrumb crumb).plain = s.plain := by
  unfold State.evictCrumb
  split
  · rfl
  · split
    · exact s.cleanTile_plain (crumb / 4)
    · rfl

theorem State.flushGroup_plain (s : State) (base : Nat) : (s.flushGroup base).plain = s.plain :=
  foldl_keeps (fun t : State => t.plain = s.plain) (fun t c => t.evictCrumb c)
    (fun t c h => (t.evictCrumb_plain c).trans h) _ s rfl

theorem State.setPlain_plain (s : State) (stack group : Nat) (on : Bool) :
    (s.setPlain stack group on).plain = s.plain.put false (8 * stack + group) on := by
  unfold State.setPlain
  dsimp only
  split
  · rfl
  · exact State.flushGroup_plain _ _

theorem State.setPlain_same {s : State} {stack group : Nat} {on : Bool} (h : s.plain.get false (8 * stack + group) = on) :
    s.setPlain stack group on = { s with plain := s.plain.put false (8 * stack + group) on } := by
  simp [State.setPlain, h]

/-- A key that is not listed reads 0. -/
theorem Memory.read_of_not_listed {m : Memory} {a : Nat} (h : ∀ x ∈ m, x.1 ≠ a) : m.read a = 0 := by
  induction m with
  | nil => rfl
  | cons x r ih =>
    have hx : (x.1 == a) = false := by simpa using h x (List.mem_cons_self ..)
    have hr : Memory.read r a = 0 := ih fun y hy => h y (List.mem_cons_of_mem _ hy)
    simp [Memory.read, hx, hr]

theorem State.zeroGroup_read {s : State} {base a : Nat} (ha : keyPA a = some a) (hl : base ≤ a) (hh : a < base + 2 ^ 33) :
    (s.zeroGroup base).mem.read a = 0 := by
  refine Memory.read_of_not_listed fun x hx hxa => ?_
  have hkeep := (List.mem_filter.mp hx).2
  simp only [hxa, ha, hl, hh, decide_true, Bool.and_self, Bool.not_true, Bool.false_eq_true] at hkeep

theorem State.setPlain_changed_read {s : State} {stack group : Nat} {on : Bool} (hs : stack < 12) (hg : group < 8)
    (h : s.plain.get false (8 * stack + group) ≠ on) {a : Nat} (ha : a / 2 ^ 33 = 8 * stack + group) :
    (s.setPlain stack group on).mem.read a = 0 := by
  have hpa : keyPA a = some a := if_pos (by omega)
  have hne : (s.plain.get false (8 * stack + group) == on) = false := beq_false_of_ne h
  simp only [State.setPlain, hne]
  exact State.zeroGroup_read hpa (by omega) (by omega)

/-- A channel of the group is in bank mode, or a deferred queue of it holds an entry. -/
def State.groupHeld (s : State) (stack group : Nat) : Prop :=
  ∃ q < 8, (s.sessions.get? (sessKey stack (8 * group + q))).isSome ∨ s.deferred.get [] (sessKey stack (8 * group + q)) ≠ []

theorem State.writeGrpcfg_held {s : State} {stack group : Nat} (v : W64) (h : s.groupHeld stack group) :
    s.writeGrpcfg stack group v = s := by
  refine if_pos ?_
  simpa [State.groupHeld] using h

theorem State.writeGrpcfg_free {s : State} {stack group : Nat} (v : W64) (h : ¬ s.groupHeld stack group) :
    s.writeGrpcfg stack group v = s.setPlain stack group (v.getLsbD 0) := by
  refine if_neg ?_
  simpa [State.groupHeld] using h

theorem State.not_groupHeld_iff (s : State) (stack group : Nat) :
    ¬ s.groupHeld stack group ↔ ∀ q < 8, s.sessions.get? (sessKey stack (8 * group + q)) = none ∧
      s.deferred.get [] (sessKey stack (8 * group + q)) = [] := by
  simp [State.groupHeld]

/-! FRCTL (03 R89). -/

theorem State.writeFrctl_parts (s : State) (part : Nat) (p : Part) (v : W64) :
    (s.writeFrctl part p v).parts.get? part = some { p with
      frctl := v &&& 0x8EFFFFFFFFFFFFFF
      deadline := if frPeriod (v &&& 0x8EFFFFFFFFFFFFFF) = 0 then none else some (s.ns + frPeriod (v &&& 0x8EFFFFFFFFFFFFFF)) } := by
  simp [State.writeFrctl]

/-! Settings (02 R45; 16 R441) and a debugger's writes (07 R217). -/

theorem State.setPeer_enters {s : State} {i : Nat} (hi : i < 64) (hd : i ≠ s.device) (hn : s.streams.get? i = none)
    (hl : s.streams.length < 63) : s.setPeer i true = some (s.setStream i Stream.init) := by
  have hi' : ¬ 64 ≤ i := by omega
  simp [State.setPeer, hi', hd, hn, hl]

theorem State.setPool_empty {s : State} {n : Nat} (hn : n ≤ 2) (hl : s.lines = []) (hw : s.wayqs = []) :
    s.setPool n = some { s with poolWays := n } := by
  have hn' : ¬ 2 < n := by omega
  simp [State.setPool, State.poolBad, hn', hl, hw]

theorem State.setPool_refused {s : State} {n : Nat} (hn : 2 < n) : s.setPool n = none := by
  simp [State.setPool, hn]

theorem State.writeTeamReg_running {s : State} {core slot : Nat} {t : Team} (ht : s.team? core slot = some t)
    (h : s.teamStopped t = false) (r : TeamReg) (x : Nat) : s.writeTeamReg core slot r x = none := by
  simp [State.writeTeamReg, ht, h]

theorem State.writeTeamReg_stopped {s : State} {core slot : Nat} {t : Team} (ht : s.team? core slot = some t)
    (h : s.teamStopped t = true) {r : TeamReg} (hr : t.hasReg r = true) (x : Nat) :
    s.writeTeamReg core slot r x = some (s.setTeam core slot (t.debugWrite r x)) := by
  simp [State.writeTeamReg, ht, h, hr]

/-! The obligation. -/

theorem checkedRegisters : Spec.CheckedRegisters := by
  intro s v
  refine ⟨?bkcfg, ?wayq, ?hdcfg, ?trq, ?grpcfg, ?frctl⟩
  case bkcfg =>
    intro arb slot ha hs
    exact ⟨exec_bkcfgWrite v s ha hs, State.writeBkcfg_accepted⟩
  case wayq =>
    intro slice slot hc hs
    exact ⟨exec_wayqWrite v s hc hs, State.writeWayq_accepted⟩
  case hdcfg =>
    intro head hh
    exact ⟨exec_hdcfgWrite v s hh, State.writeHdcfg_refused, State.writeHdcfg_disabled⟩
  case trq =>
    intro stack vd ring qlim hs hv hr
    have hbad := s.trqBad_iff stack vd ring qlim
    refine ⟨fun h => ?_, fun h => ⟨_, exec_trqlimWrite qlim hs hv hr, State.writeTrq_refused (hbad.mpr h)⟩⟩
    rw [exec_trqlimWrite qlim hs hv hr, State.writeTrq_accepted (Bool.eq_false_iff.mpr (mt hbad.mp h))]
    rfl
  case grpcfg =>
    intro stack group hs hg
    refine ⟨fun h => ⟨?_, s.setPlain_plain stack group _, fun hsame => ?_, fun hne a => State.setPlain_changed_read hs hg hne⟩,
      fun h => ?_⟩
    · rw [exec_grpcfgWrite v s hs hg, State.writeGrpcfg_free v ((s.not_groupHeld_iff stack group).mpr h)]
    · rw [State.setPlain_plain]
      exact State.setPlain_same hsame
    · rw [exec_grpcfgWrite v s hs hg, State.writeGrpcfg_held v h]
  case frctl =>
    intro part p hp
    exact ⟨_, _, exec_frctlWrite v hp, s.writeFrctl_parts part p v, rfl⟩

theorem plainRegisters : Spec.PlainRegisters := by
  intro s v reg h
  cases reg with
  | arbinfo | arbpool | bkstat | frstat | hdstat | carve | arberr | hdenc | hdpaddr | hdstream | fketype | slotmap =>
    exact exec_registerWrite_of_some h rfl
  | coreReg c n =>
    refine ⟨fun hn => ?_, fun hn => ?_⟩
    · subst hn
      exact exec_registerWrite_of_some h rfl
    · exact exec_registerWrite_of_some h (congrArg some (if_neg (by simpa using hn)))
  | winExp | wto | rto | ownIndex | peer | poolWays | wdt | cto | team => trivial

theorem registerSettings : Spec.Settings := by
  intro s v
  refine ⟨?winExp, ?wto, ?rto, ?ownIndex, ?peer, ?pool, ?noPool, ?vdev, ?team⟩
  case winExp =>
    rw [exec_registerWrite v s rfl, State.writeAny]
    split <;> rfl
  case wto =>
    rw [exec_registerWrite v s rfl, State.writeAny]
    simp only [Bool.and_eq_true, decide_eq_true_eq]
    split <;> rfl
  case rto =>
    rw [exec_registerWrite v s rfl, State.writeAny]
    simp only [Bool.and_eq_true, decide_eq_true_eq]
    split <;> rfl
  case ownIndex =>
    intro hv hn
    exact exec_registerWrite_of_some rfl (by simp [State.writeAny, hv, hn])
  case peer =>
    intro i hi hd hv hn hl
    refine exec_registerWrite_of_some rfl ?_
    have hon : (v.toNat != 0) = true := by simpa [← BitVec.toNat_inj] using hv
    rw [State.writeAny, hon, State.setPeer_enters hi hd hn hl]
  case pool => exact fun hv hl hw => exec_registerWrite_of_some rfl (State.setPool_empty hv hl hw)
  case noPool => exact fun hv => exec_registerWrite_of_none rfl (State.setPool_refused hv)
  case vdev =>
    intro vd hvd
    refine ⟨fun hlo hhi => exec_registerWrite_of_some rfl ?_, fun hlo hhi => exec_registerWrite_of_some rfl ?_⟩
    · simp [State.writeAny, wdtFits, hlo, hhi, hvd]
    · simp [State.writeAny, ctoFits, hlo, hhi, hvd]
  case team =>
    intro core slot t ht
    refine ⟨fun h r => exec_registerWrite_of_none rfl (State.writeTeamReg_running ht h r _),
      fun h => ⟨fun r hr => ?_, fun i r hi hr => ?_, ?_⟩⟩
    · exact exec_registerWrite_of_some rfl (State.writeTeamReg_stopped ht h (by simp [Team.hasReg, hr]) _)
    · exact exec_registerWrite_of_some rfl (State.writeTeamReg_stopped ht h (by simp [Team.hasReg, hi, hr]) _)
    · refine exec_registerWrite_of_some rfl ((State.writeTeamReg_stopped ht h rfl _).trans ?_)
      simp [Team.debugWrite]

/-- Settles O50, register group by register group (00 R7). -/
theorem registerWrites : Obligations.RegisterWrites := ⟨checkedRegisters, plainRegisters, registerSettings⟩

end Sys2Proof.Machine
end

section
/-! PROOFS. Tables: what is written is listed, and what is listed is found. -/

namespace Sys2Proof

variable {α : Type}

theorem Tbl.set_isEmpty (t : Tbl α) (n : Nat) (y : α) : (t.set n y).isEmpty = false := by
  cases t with
  | nil => rfl
  | cons x r =>
    rw [Tbl.set]
    split
    · rfl
    · split <;> rfl

theorem Tbl.get?_isSome_of_mem {t : Tbl α} {x : Nat × α} (h : x ∈ t) : (t.get? x.1).isSome = true := by
  induction t with
  | nil => cases h
  | cons y r ih =>
    rw [Tbl.get?]
    split
    · rfl
    · rename_i hk
      rcases List.mem_cons.mp h with rfl | h
      · simp at hk
      · exact ih h

end Sys2Proof
end

section
/-! PROOFS. What a reset of one context leaves as it was (03 R94, 16 R448): the marks of the other contexts, the mailboxes, and
whether a channel bars accesses. Operations that touch none of the three come first, each from the ones that it calls. -/

namespace Sys2Proof.Machine

open Sys2Proof Host

/-- What a function-level reset needs of the state between the resets of two contexts. -/
structure ResetView where
  /-- By the key of a context: whether it has been reset. -/
  mark : Nat → Option Bool
  mail : Tbl Mailbox
  anyBank : Bool

def State.resetView (s : State) : ResetView :=
  { mark := fun k => (s.ctxs.get? k).map (·.isReset), mail := s.mail, anyBank := s.anyBank }

theorem State.resetView_anyBank (s : State) : s.resetView.anyBank = s.anyBank := rfl

/-- The view with the context of a key marked as reset. -/
def ResetView.marked (v : ResetView) (k : Nat) : ResetView := { v with mark := fun j => if j = k then some true else v.mark j }

theorem ResetView.marked_mark (v : ResetView) (k j : Nat) : (v.marked k).mark j = if j = k then some true else v.mark j := rfl

@[simp] theorem ResetView.marked_mark_self (v : ResetView) (k : Nat) : (v.marked k).mark k = some true := by
  simp [ResetView.marked_mark]

theorem ResetView.marked_mark_isSome {v : ResetView} {k j : Nat} (h : (v.mark j).isSome = true) :
    ((v.marked k).mark j).isSome = true := by
  rw [ResetView.marked_mark]
  split
  · rfl
  · exact h

/-- A mark stays once it is set. -/
theorem ResetView.marked_mark_of_true {v : ResetView} {k j : Nat} (h : v.mark j = some true) : (v.marked k).mark j = some true := by
  rw [ResetView.marked_mark]
  split
  · rfl
  · exact h

theorem State.resetView_congr {s t : State} (hc : t.ctxs = s.ctxs) (hm : t.mail = s.mail) (hb : t.anyBank = s.anyBank) :
    t.resetView = s.resetView := by
  unfold State.resetView
  rw [hc, hm, hb]

theorem State.resetView_foldl {α : Type} {f : State → α → State} (hf : ∀ s x, (f s x).resetView = s.resetView) (l : List α)
    (s : State) : (l.foldl f s).resetView = s.resetView :=
  foldl_keeps (fun t => t.resetView = s.resetView) f (fun t x h => (hf t x).trans h) l s rfl

/-! Memory and the L2. -/

@[simp] theorem State.writeTileByte_resetView (s : State) (pa : Nat) (b : Byte) :
    (s.writeTileByte pa b).resetView = s.resetView := by
  unfold State.writeTileByte
  split <;> rfl

@[simp] theorem State.writeKey_resetView (s : State) (k : Nat) (b : Byte) : (s.writeKey k b).resetView = s.resetView := by
  unfold State.writeKey
  split
  · exact s.writeTileByte_resetView _ b
  · rfl

@[simp] theorem State.stampKeys_resetView (s : State) (keys : List Nat) : (s.stampKeys keys).resetView = s.resetView := rfl

@[simp] theorem State.writeKeys_resetView (s : State) (keys : List Nat) (x : Nat) :
    (s.writeKeys keys x).resetView = s.resetView := by
  refine (State.stampKeys_resetView ..).trans ?_
  exact State.resetView_foldl (fun s y => State.writeKey_resetView ..) _ s

@[simp] theorem State.putKeys_resetView (s : State) (keys : List Nat) (bs : List Byte) :
    (s.putKeys keys bs).resetView = s.resetView := by
  refine (State.stampKeys_resetView ..).trans ?_
  exact State.resetView_foldl (fun s y => State.writeKey_resetView ..) _ s

@[simp] theorem State.cleanTile_resetView (s : State) (tile : Nat) : (s.cleanTile tile).resetView = s.resetView := by
  unfold State.cleanTile
  split
  · rename_i t _
    -- What the codec makes of the tile does not matter, and is not to be evaluated.
    generalize encodeTile t.bytes = e
    split <;> rfl
  · rfl

@[simp] theorem State.fillTile_resetView (s : State) (tile : Nat) : (s.fillTile tile).resetView = s.resetView := by
  unfold State.fillTile
  split <;> rfl

@[simp] theorem State.evictCrumb_resetView (s : State) (crumb : Nat) : (s.evictCrumb crumb).resetView = s.resetView := by
  unfold State.evictCrumb
  split
  · rfl
  · split
    · exact s.cleanTile_resetView (crumb / 4)
    · rfl

theorem State.fillLine_resetView {s t : State} {vd hint crumb : Nat} {tile : Bool} (h : s.fillLine vd hint tile crumb = some t) :
    t.resetView = s.resetView := by
  obtain ⟨⟨way, old, lent⟩, -, rfl⟩ := Option.map_eq_some_iff.mp h
  cases old with
  | none => rfl
  | some c => exact s.evictCrumb_resetView c

@[simp] theorem State.hitLine_resetView (s : State) (hint crumb : Nat) (l : Line) :
    (s.hitLine hint crumb l).resetView = s.resetView := rfl

@[simp] theorem State.touchCrumb_resetView (s : State) (vd hint crumb : Nat) (demand : Bool) :
    (s.touchCrumb vd hint crumb demand).resetView = s.resetView := by
  unfold State.touchCrumb
  split
  · rfl
  · split
    · exact State.fillLine_resetView ‹_›
    · split <;> rfl

theorem State.fillTileLines_resetView {vd hint : Nat} {l : List Nat} {s t : State} (h : s.fillTileLines vd hint l = some t) :
    t.resetView = s.resetView := by
  induction l generalizing s with
  | nil => exact congrArg State.resetView (Option.some.inj h).symm
  | cons c cs ih =>
    rw [State.fillTileLines] at h
    split at h
    · exact (ih h).trans (State.hitLine_resetView ..)
    · split at h
      · exact (ih h).trans (State.fillLine_resetView ‹_›)
      · cases h

@[simp] theorem State.touchTile_resetView (s : State) (vd hint crumb : Nat) (demand : Bool) :
    (s.touchTile vd hint crumb demand).resetView = s.resetView := by
  unfold State.touchTile
  dsimp only
  split
  · rfl
  · split
    · exact (State.fillTile_resetView ..).trans (State.fillTileLines_resetView ‹_›)
    · split <;> rfl

@[simp] theorem State.touchAny_resetView (s : State) (vd hint : Nat) (demand : Bool) (x : Nat × Bool) :
    (s.touchAny vd hint demand x).resetView = s.resetView := by
  unfold State.touchAny
  split <;> simp

@[simp] theorem State.touch_resetView (s : State) (vd hint : Nat) (keys : List Nat) :
    (s.touch vd hint keys).resetView = s.resetView := by
  unfold State.touch
  exact State.resetView_foldl (fun s x => s.touchAny_resetView vd hint true x) _ s

@[simp] theorem State.dirtyKeys_resetView (s : State) (thru : Bool) (keys : List Nat) :
    (s.dirtyKeys thru keys).resetView = s.resetView := by
  unfold State.dirtyKeys
  split <;> rfl

@[simp] theorem State.setCore_resetView (s : State) (c : Nat) (x : Core) : (s.setCore c x).resetView = s.resetView := rfl

/-! Loads, stores and atomics through the L1. -/

@[simp] theorem State.grantLease_resetView (s : State) (core crumb pc : Nat) (data : List Byte) :
    (s.grantLease core crumb pc data).resetView = s.resetView := by
  unfold State.grantLease
  dsimp only
  split <;> rfl

@[simp] theorem State.loadCrumb_resetView (s : State) (via : Via) (crumb : Nat) :
    (s.loadCrumb via crumb).1.resetView = s.resetView := by
  unfold State.loadCrumb
  dsimp only
  split
  · rfl
  · simp

@[simp] theorem State.loadCrumbs_resetView (s : State) (via : Via) (l : List Nat) :
    (s.loadCrumbs via l).1.resetView = s.resetView := by
  induction l generalizing s with
  | nil => rfl
  | cons c cs ih => exact (ih _).trans (s.loadCrumb_resetView via c)

@[simp] theorem State.loadKeys_resetView (s : State) (via : Via) (keys : List Nat) :
    (s.loadKeys via keys).1.resetView = s.resetView := by
  unfold State.loadKeys
  split
  · rfl
  · exact s.loadCrumbs_resetView via _

@[simp] theorem State.storeKeys_resetView (s : State) (via : Via) (thru : Bool) (keys : List Nat) (x : Nat) :
    (s.storeKeys via thru keys x).resetView = s.resetView := by
  unfold State.storeKeys
  dsimp only
  split <;> simp

@[simp] theorem State.sync_resetView (s : State) (core : Nat) : (s.sync core).resetView = s.resetView := rfl

@[simp] theorem State.grantExcl_resetView (s : State) (core : Nat) (keys : List Nat) :
    (s.grantExcl core keys).resetView = s.resetView := rfl

/-! Issued accesses take their places. -/

@[simp] theorem State.performItem_resetView (s : State) (via : Via) (act : MemAct) (x : MemItem) (keys : List Nat) :
    (s.performItem via act x keys).1.resetView = s.resetView := by
  cases act with
  | load sg n cnt b =>
    simp only [State.performItem]
    split <;> exact State.loadKeys_resetView ..
  | store => exact State.storeKeys_resetView ..
  | atomic op t ret => simp [State.performItem]

theorem State.performFirst_resetView {s : State} {via : Via} {act : MemAct} {l : List MemItem}
    {y : State × List MemItem × List RegWrite} (h : s.performFirst via act l = some y) : y.1.resetView = s.resetView := by
  induction l generalizing y with
  | nil => cases h
  | cons x xs ih =>
    rw [State.performFirst] at h
    split at h
    · obtain ⟨z, hz, rfl⟩ := Option.map_eq_some_iff.mp h
      exact (ih hz :)
    · cases h
      exact State.performItem_resetView ..

@[simp] theorem State.performItems_resetView (via : Via) (act : MemAct) (n : Nat) (s : State) (l : List MemItem)
    (ws : List RegWrite) : (State.performItems via act n s l ws).1.resetView = s.resetView := by
  induction n generalizing s l ws with
  | zero => rfl
  | succ n ih =>
    rw [State.performItems]
    split
    · exact (ih ..).trans (State.performFirst_resetView ‹_›)
    · rfl

@[simp] theorem State.performPend_resetView (s : State) (core vd : Nat) (p : Pend) :
    (s.performPend core vd p).1.resetView = s.resetView := by
  unfold State.performPend State.performSome
  split
  · exact State.performItems_resetView ..
  · rfl

@[simp] theorem State.performAll_resetView (s : State) (core vd : Nat) (l : List Pend) :
    (s.performAll core vd l).1.resetView = s.resetView := by
  induction l generalizing s with
  | nil => rfl
  | cons p ps ih =>
    rw [State.performAll]
    split
    · rfl
    · exact (ih _).trans (s.performPend_resetView core vd p)

@[simp] theorem State.updTeam_resetView (s : State) (core slot : Nat) (f : Team → Team) :
    (s.updTeam core slot f).resetView = s.resetView := by
  unfold State.updTeam
  split <;> rfl

@[simp] theorem State.drainTeam_resetView (s : State) (core slot : Nat) : (s.drainTeam core slot).resetView = s.resetView := by
  unfold State.drainTeam
  split
  · exact (State.updTeam_resetView ..).trans (State.performAll_resetView ..)
  · rfl

@[simp] theorem State.drainCtl_resetView (s : State) (core : Nat) : (s.drainCtl core).resetView = s.resetView :=
  State.performAll_resetView ..

@[simp] theorem State.drainCx_resetView (s : State) (cx : CtxId) : (s.drainCx cx).resetView = s.resetView := by
  unfold State.drainCx
  refine (State.resetView_foldl (fun s x => ?ctl) _ _).trans (State.resetView_foldl (fun s x => ?team) _ _)
  case ctl => split <;> simp
  case team => split <;> simp

/-! Records and killed agents. -/

@[simp] theorem State.postEvent_resetView (s : State) (core : Nat) (cx : CtxId) (r : EventRec) :
    (s.postEvent core cx r).resetView = s.resetView := by
  unfold State.postEvent
  dsimp only
  split
  · split <;> rfl
  · split <;> rfl

@[simp] theorem State.launchRecord_resetView (s : State) (i : Issuer) (die index status fstat : Nat) :
    (s.launchRecord i die index status fstat).resetView = s.resetView := State.postEvent_resetView ..

@[simp] theorem State.abortRecord_resetView (s : State) (core : Nat) (cx : CtxId) (tag : W64) (src unit : Nat) :
    (s.abortRecord core cx tag src unit).resetView = s.resetView := State.postEvent_resetView ..

@[simp] theorem State.stackRecord_resetView (s : State) (core : Nat) (cx : CtxId) (tag : W64) (unit status reason hi : Nat) :
    (s.stackRecord core cx tag unit status reason hi).resetView = s.resetView := State.postEvent_resetView ..

@[simp] theorem State.mxRelease_resetView (s : State) (core slot : Nat) : (s.mxRelease core slot).resetView = s.resetView := by
  unfold State.mxRelease State.setMx
  exact State.setCore_resetView ..

@[simp] theorem State.dropRays_resetView (s : State) (gang index : Nat) : (s.dropRays gang index).resetView = s.resetView := rfl

@[simp] theorem State.dropFilters_resetView (s : State) (core slot : Nat) : (s.dropFilters core slot).resetView = s.resetView := rfl

@[simp] theorem State.eraseTeam_resetView (s : State) (k : Nat) : { s with teams := s.teams.erase k }.resetView = s.resetView := rfl

@[simp] theorem State.killTeam_resetView (s : State) (core slot : Nat) (t : Team) :
    (s.killTeam core slot t).resetView = s.resetView := by
  unfold State.killTeam
  refine (State.eraseTeam_resetView ..).trans ((State.setCore_resetView ..).trans ?_)
  exact (State.dropFilters_resetView ..).trans ((State.dropRays_resetView ..).trans (s.mxRelease_resetView core slot))

@[simp] theorem State.dropGang_resetView (s : State) (id : Nat) (g : Gang) : (s.dropGang id g).resetView = s.resetView := by
  refine Eq.trans ?_ (State.resetView_foldl (fun s k => s.setCore_resetView k ((s.coreOf k).release id)) g.cores s)
  exact State.resetView_congr rfl rfl rfl

@[simp] theorem State.killGangs_resetView (s : State) (cx : CtxId) : (s.killGangs cx).resetView = s.resetView := by
  unfold State.killGangs
  refine (State.resetView_foldl (fun s x => ?launch) _ _).trans
    ((State.resetView_foldl (fun s x => ?gang) _ _).trans (State.resetView_foldl (fun s x => ?team) _ _))
  case launch => split <;> simp
  case gang => exact s.dropGang_resetView x.1 x.2
  case team => exact s.killTeam_resetView _ _ x.2

/-- The stack commands and sessions of a core without its control thread. -/
theorem State.orphan_resetView (s : State) (cmds : Tbl StackCmd) (f : Nat × Session → Nat × Session) :
    { s with scmds := cmds, sessions := s.sessions.map f }.resetView = s.resetView := by
  refine State.resetView_congr rfl rfl ?_
  simp [State.anyBank]

@[simp] theorem State.dropCtlFaults_resetView (s : State) (core : Nat) : (s.dropCtlFaults core).resetView = s.resetView := rfl

@[simp] theorem State.freeCtl_resetView (s : State) (core : Nat) : (s.freeCtl core).resetView = s.resetView := by
  unfold State.freeCtl
  refine (State.resetView_foldl (fun s x => State.postEvent_resetView ..) _ _).trans ((State.setCore_resetView ..).trans ?_)
  exact (State.orphan_resetView ..).trans ((State.dropCtlFaults_resetView ..).trans (s.drainCtl_resetView core))

@[simp] theorem State.killCtls_resetView (s : State) (cx : CtxId) : (s.killCtls cx).resetView = s.resetView := by
  unfold State.killCtls
  exact State.resetView_foldl (fun s x => (State.setCore_resetView ..).trans (State.freeCtl_resetView ..)) _ s

/-! Aborted operations and commands. -/

@[simp] theorem State.scribbleVa_resetView (s : State) (cx : CtxId) (va n : Nat) :
    (s.scribbleVa cx va n).resetView = s.resetView := by
  unfold State.scribbleVa
  split
  · exact State.putKeys_resetView ..
  · rfl

theorem State.scribbleRanges_resetView (s : State) (cx : CtxId) (l : List Range) :
    (l.foldl (fun s r => if r.write then s.scribbleVa cx r.base r.len else s) s).resetView = s.resetView := by
  refine State.resetView_foldl (fun s r => ?_) l s
  split
  · exact State.scribbleVa_resetView ..
  · rfl

@[simp] theorem State.abortWrites_resetView (s : State) (o : EngOp) : (s.abortWrites o).resetView = s.resetView := by
  unfold State.abortWrites
  split
  · rfl
  · split
    · exact State.putKeys_resetView ..
    · exact State.scribbleVa_resetView ..
    · exact s.scribbleRanges_resetView o.cx o.ranges
    · exact s.scribbleRanges_resetView o.cx o.ranges
    · rfl

@[simp] theorem State.abortOp_resetView (s : State) (id : Nat) : (s.abortOp id).resetView = s.resetView := rfl

@[simp] theorem State.dropFills_resetView (s : State) (ids : List Nat) : (s.dropFills ids).resetView = s.resetView := rfl

@[simp] theorem State.abortOps_resetView (s : State) (cx : CtxId) : (s.abortOps cx).resetView = s.resetView := by
  unfold State.abortOps
  refine State.resetView_foldl (fun s x => ?_) _ s
  dsimp only
  split <;> simp

@[simp] theorem State.abortCommands_resetView (s : State) (cx : CtxId) : (s.abortCommands cx).resetView = s.resetView := by
  unfold State.abortCommands
  iterate 4 refine (State.resetView_foldl (fun s x => State.abortRecord_resetView ..) _ _).trans ?_
  rfl

@[simp] theorem State.updHead_resetView (s : State) (n : Nat) (f : Head → Head) : (s.updHead n f).resetView = s.resetView := rfl

@[simp] theorem State.sendPackets_resetView (s : State) (cx : CtxId) (h : Head) (f : Frame) (size n qset : Nat) :
    (s.sendPackets cx h f size n qset).resetView = s.resetView :=
  State.resetView_foldl (f := fun x i => x.transmit qset (bits h.stream.toNat 63 60) (s.packet cx h f size i)) (fun _ _ => rfl) _ s

@[simp] theorem State.endFrame_resetView (s : State) (head : Nat) : (s.endFrame head).resetView = s.resetView := by
  unfold State.endFrame
  dsimp only
  split
  · split <;> simp
  · rfl

/-! Commands of the stacks: a session is written only where there is one. -/

theorem State.anyBank_of_session? {s : State} {c : StackCmd} {pc : Nat} {x : Session} (h : s.session? c pc = some x) :
    s.anyBank = true := by
  unfold State.session? at h
  cases hs : s.sessions with
  | nil => simp [hs, Tbl.get?] at h
  | cons y r => simp [State.anyBank, hs]

theorem State.setSession_resetView {s : State} (stack pc : Nat) (x : Session) (h : s.anyBank = true) :
    (s.setSession stack pc x).resetView = s.resetView := by
  have ht : (s.setSession stack pc x).anyBank = true := by simp [State.anyBank, State.setSession, Tbl.set_isEmpty]
  unfold State.resetView
  rw [ht, h]
  rfl

@[simp] theorem State.beginStack_resetView (s : State) (id : Nat) (c : StackCmd) :
    (s.beginStack id c).resetView = s.resetView := rfl

@[simp] theorem State.doneStack_resetView (s : State) (id : Nat) (c : StackCmd) : (s.doneStack id c).resetView = s.resetView := by
  unfold State.doneStack
  dsimp only
  split
  · rfl
  · exact State.stackRecord_resetView ..

@[simp] theorem State.refuseStack_resetView (s : State) (id : Nat) (c : StackCmd) (reason : Nat) :
    (s.refuseStack id c reason).resetView = s.resetView := by
  refine (State.stackRecord_resetView ..).trans ?_
  split <;> rfl

theorem State.stackTurn_resetView {s t : State} {id : Nat} {c : StackCmd} (h : s.stackTurn id c = some t) :
    t.resetView = s.resetView := by
  unfold State.stackTurn at h
  split at h
  case h_1 =>
    split at h <;> cases h
    exact s.beginStack_resetView id c
  case h_2 =>
    split at h <;> cases h
    exact s.refuseStack_resetView id c 6
  case h_3 =>
    split at h <;> cases h
    · exact (State.doneStack_resetView ..).trans (State.setSession_resetView _ _ _ (State.anyBank_of_session? ‹_›))
    · exact s.refuseStack_resetView id c 7
  case h_6 =>
    split at h <;> cases h
    · exact State.setSession_resetView _ _ _ (State.anyBank_of_session? ‹_›)
    · exact s.refuseStack_resetView id c 7
  all_goals
    split at h
    · cases h
    · split at h <;> cases h
      · exact s.beginStack_resetView id c
      · exact s.refuseStack_resetView id c 7

@[simp] theorem State.stackRun_resetView (s : State) (core stack n : Nat) : (s.stackRun core stack n).resetView = s.resetView := by
  induction n generalizing s with
  | zero => rfl
  | succ n ih =>
    rw [State.stackRun]
    split
    · rfl
    · split
      · rfl
      · split
        · exact (ih _).trans (State.stackTurn_resetView ‹_›)
        · rfl

@[simp] theorem State.stackRunAll_resetView (s : State) : s.stackRunAll.resetView = s.resetView := by
  unfold State.stackRunAll
  exact State.resetView_foldl (fun s x => State.stackRun_resetView ..) _ s

/-! Queues and held things, which write the context's own entry. -/

/-- A context's entry that keeps its mark. -/
theorem State.setCtx_resetView {s : State} {cx : CtxId} {c : Ctx} (x : Ctx) (h : s.ctx? cx = some c) (hx : x.isReset = c.isReset) :
    (s.setCtx cx x).resetView = s.resetView := by
  have hm : (fun k => ((s.setCtx cx x).ctxs.get? k).map (·.isReset)) = fun k => (s.ctxs.get? k).map (·.isReset) := by
    funext k
    rw [State.setCtx_ctxs, Tbl.get?_set]
    split
    · subst k
      rw [show s.ctxs.get? (cxKey cx) = some c from h]
      exact congrArg some hx
    · rfl
  unfold State.resetView
  rw [hm]
  rfl

/-- A context's entry that is marked. -/
theorem State.setCtx_marked_resetView (s : State) (cx : CtxId) {x : Ctx} (hx : x.isReset = true) :
    (s.setCtx cx x).resetView = s.resetView.marked (cxKey cx) := by
  have hm : (fun k => ((s.setCtx cx x).ctxs.get? k).map (·.isReset)) = (s.resetView.marked (cxKey cx)).mark := by
    funext k
    rw [State.setCtx_ctxs, Tbl.get?_set, ResetView.marked_mark]
    split
    · exact congrArg some hx
    · rfl
  unfold State.resetView
  rw [hm]
  rfl

@[simp] theorem State.setQueue_resetView (s : State) (cx : CtxId) (q : Nat) (x : Queue) :
    (s.setQueue cx q x).resetView = s.resetView := by
  unfold State.setQueue
  split
  · rename_i c hc
    exact State.setCtx_resetView _ hc rfl
  · rfl

@[simp] theorem State.headTouched_resetView (s : State) (cx : CtxId) (header : Nat) (hk : List Nat) :
    (s.headTouched cx header hk).resetView = s.resetView := by
  simp [State.headTouched]

@[simp] theorem State.setQ32_resetView (s : State) (hk : List Nat) (off x : Nat) : (s.setQ32 hk off x).resetView = s.resetView :=
  State.writeKeys_resetView ..

@[simp] theorem State.setFstat_resetView (s : State) (hk : List Nat) (x : Nat) : (s.setFstat hk x).resetView = s.resetView :=
  State.writeKeys_resetView ..

@[simp] theorem State.abortQueue_resetView (s : State) (cx : CtxId) (q : Nat) (qu : Queue) :
    (s.abortQueue cx q qu).resetView = s.resetView := by
  unfold State.abortQueue
  split
  · exact State.setQueue_resetView ..
  · dsimp only
    split
    · exact State.setQueue_resetView ..
    · refine (State.resetView_foldl (fun s x => State.launchRecord_resetView ..) _ _).trans ?_
      exact (State.setQ32_resetView ..).trans ((State.setFstat_resetView ..).trans ((State.setQ32_resetView ..).trans
        ((State.headTouched_resetView ..).trans (State.setQueue_resetView ..))))

@[simp] theorem State.abortQueues_resetView (s : State) (cx : CtxId) : (s.abortQueues cx).resetView = s.resetView := by
  unfold State.abortQueues
  split
  · exact State.resetView_foldl (fun s x => State.abortQueue_resetView ..) _ s
  · rfl

theorem State.ctx?_isSome (s : State) (cx : CtxId) : (s.ctx? cx).isSome = (s.resetView.mark (cxKey cx)).isSome := by
  simp [State.ctx?, State.resetView]

/-- What the context holds goes, and the mark is set. -/
theorem State.dropHeld_resetView {s : State} {cx : CtxId} (h : (s.ctx? cx).isSome = true) :
    (s.dropHeld cx).resetView = s.resetView.marked (cxKey cx) := by
  have hf := State.resetView_foldl (fun s x => State.endFrame_resetView s x.1) (s.heads.filter fun x => x.2.cx == some cx) s
  rw [State.ctx?_isSome, ← hf, ← State.ctx?_isSome, Option.isSome_iff_exists] at h
  obtain ⟨c, hc⟩ := h
  unfold State.dropHeld
  dsimp only
  split
  · refine (State.setCtx_marked_resetView _ cx rfl).trans ?_
    rw [← hf]
    rfl
  · rename_i hn
    cases hc.symm.trans hn

theorem State.dropDeferred_resetView {s : State} (cx : CtxId) (h : s.anyBank = false) :
    (s.dropDeferred cx).resetView = s.resetView := by
  refine State.resetView_congr rfl rfl ?_
  have hd : s.deferred = [] := by simp_all [State.anyBank]
  simp [State.anyBank, State.dropDeferred, hd]

/-! Resets. -/

theorem State.endSessions_of_anyBank {s : State} (cx : CtxId) (h : s.anyBank = false) : s.endSessions cx = s := by
  have hs : s.sessions = [] := by simp_all [State.anyBank]
  simp [State.endSessions, hs]

theorem State.cxStuck_of_anyBank {s : State} (cx : CtxId) (h : s.anyBank = false) : s.cxStuck cx = false := by
  simp [State.cxStuck, State.stuck, h]

/-- Steps 1 to 3 of a reset, with the context's control threads (03 R94). -/
theorem State.abortAll_resetView (s : State) (cx : CtxId) :
    ((((((s.abortQueues cx).drainCx cx).killGangs cx).abortOps cx).abortCommands cx).killCtls cx).resetView = s.resetView := by
  simp only [State.killCtls_resetView, State.abortCommands_resetView, State.abortOps_resetView, State.killGangs_resetView,
    State.drainCx_resetView, State.abortQueues_resetView]

/-- Step 4 of a reset, with the commands that begin after it and the notice. -/
theorem State.dropAll_resetView {s : State} {cx : CtxId} (vf kind : Nat) (words : List Nat) (hb : s.anyBank = false)
    (hc : (s.ctx? cx).isSome = true) :
    (((s.dropHeld cx).dropDeferred cx).stackRunAll.postNotice vf kind words).resetView = s.resetView.marked (cxKey cx) := by
  have hh := State.dropHeld_resetView hc
  have hd : (s.dropHeld cx).anyBank = false := by rw [← State.resetView_anyBank, hh]; exact hb
  calc _ = ((s.dropHeld cx).dropDeferred cx).stackRunAll.resetView := rfl
    _ = (s.dropHeld cx).resetView := (State.stackRunAll_resetView _).trans (State.dropDeferred_resetView cx hd)
    _ = s.resetView.marked (cxKey cx) := hh

/-- A context's reset happens where no channel bars accesses, marks the context and leaves the marks of the others. -/
theorem State.resetContext_resetView {s : State} {cx : CtxId} (hb : s.anyBank = false) (hc : (s.ctx? cx).isSome = true) :
    ∃ t, s.resetContext cx = some t ∧ t.resetView = s.resetView.marked (cxKey cx) := by
  have hq : (s.abortQueues cx).anyBank = false := by
    rw [← State.resetView_anyBank, State.abortQueues_resetView, State.resetView_anyBank, hb]
  have hv := s.abortAll_resetView cx
  unfold State.resetContext
  simp only [State.endSessions_of_anyBank cx hq, State.cxStuck_of_anyBank cx hq, Option.isNone_eq_false_iff.mpr hc,
    Bool.false_eq_true, if_false]
  refine ⟨_, rfl, (State.dropAll_resetView _ _ _ ?bank ?ctx).trans (congrArg (·.marked (cxKey cx)) hv)⟩
  case bank => rw [← State.resetView_anyBank, hv, State.resetView_anyBank, hb]
  case ctx => rw [State.ctx?_isSome, hv, ← State.ctx?_isSome, hc]

/-- The contexts of a list are all reset where no channel bars accesses; marks set before stay, and so do the mailboxes. -/
theorem State.resetAll_marks {cs : List CtxId} {s : State} (hb : s.anyBank = false)
    (hc : ∀ cx ∈ cs, (s.ctx? cx).isSome = true) :
    ∃ t, s.resetAll cs = some t ∧ t.mail = s.mail ∧
      ∀ k, s.resetView.mark k = some true ∨ k ∈ cs.map cxKey → t.resetView.mark k = some true := by
  induction cs generalizing s with
  | nil => exact ⟨s, rfl, rfl, fun k hk => by simpa using hk⟩
  | cons cx cs ih =>
    obtain ⟨u, hu, hv⟩ := State.resetContext_resetView hb (hc cx (List.mem_cons_self ..))
    have hub : u.anyBank = false := (congrArg ResetView.anyBank hv).trans hb
    have hum : u.mail = s.mail := congrArg ResetView.mail hv
    have huc : ∀ d ∈ cs, (u.ctx? d).isSome = true := by
      intro d hd
      rw [State.ctx?_isSome, hv]
      exact ResetView.marked_mark_isSome ((State.ctx?_isSome s d).symm.trans (hc d (List.mem_cons_of_mem _ hd)))
    obtain ⟨t, ht, htm, htk⟩ := ih hub huc
    refine ⟨t, by rw [State.resetAll, hu]; exact ht, htm.trans hum, fun k hk => htk k ?_⟩
    rw [hv]
    rcases hk with hk | hk
    · exact .inl (ResetView.marked_mark_of_true hk)
    · rcases List.mem_cons.mp hk with rfl | hk
      · exact .inl (ResetView.marked_mark_self ..)
      · exact .inr hk

end Sys2Proof.Machine
end

section
/-! PROOFS. Islands, power, memory errors and resets (01 R32, R33; 03 R94; 16 R446, R448). -/

namespace Sys2Proof.Machine

open Sys2Proof Host

/-! Islands: those that run at full rate are lowered. -/

theorem State.setIsland_get (s : State) (island : Nat) (mode : IslandMode) (i : Nat) :
    (s.setIsland island mode).islands.get .full i = if i = island then mode else s.islands.get .full i :=
  Tbl.get_put ..

theorem State.lowerIslands_get (s : State) (l : List Nat) (i : Nat) :
    (s.lowerIslands l).islands.get .full i =
      if i ∈ l ∧ s.islands.get .full i = .full then .lowered else s.islands.get .full i := by
  induction l generalizing s with
  | nil => simp [State.lowerIslands]
  | cons x l ih =>
    have hl : s.lowerIslands (x :: l) = (if s.islands.get .full x == .full then s.setIsland x .lowered else s).lowerIslands l := rfl
    rw [hl, ih]
    by_cases hx : s.islands.get .full x = .full
    · by_cases hi : i = x
      · subst i
        simp [hx, State.setIsland_get]
      · simp [hx, hi, State.setIsland_get]
    · by_cases hi : i = x
      · subst i
        simp [hx]
      · simp [hx, hi]

/-- Lowering changes the islands' modes alone. -/
theorem State.lowerIslands_frame (s : State) (l : List Nat) :
    s.lowerIslands l = { s with islands := (s.lowerIslands l).islands } := by
  refine foldl_keeps (fun t : State => t = { s with islands := t.islands }) _ (fun t i ht => ?_) l s rfl
  split
  · unfold State.setIsland
    rw [ht]
  · exact ht

theorem exec_islandGate {s : State} {island : Nat} {mode : IslandMode} (h : s.mayGate island mode = true) :
    exec (.islandGate island mode) s = .next (s.setIsland island mode) := by
  change execIslandGate island mode s = _
  rw [execIslandGate, if_pos h, enabled_some]

theorem exec_thermalThrottle {die : Nat} (s : State) (h : die < 4) :
    exec (.thermalThrottle die) s = .next (s.lowerIslands (dieIslands die)) := by
  change execThermalThrottle die s = _
  rw [execThermalThrottle, if_neg (Nat.not_le.mpr h), enabled_some]

theorem exec_powerLimit (s : State) :
    exec .powerLimit s = .next (s.lowerIslands
      (if s.fullClusters.filter s.clusterBeyond = [] then s.fullClusters else s.fullClusters.filter s.clusterBeyond)) := by
  change execPowerLimit s = _
  simp only [execPowerLimit, enabled_some, List.isEmpty_iff]

theorem exec_voltageFault {island : Nat} (s : State) (h : island < 128) :
    exec (.voltageFault island) s = .next ((s.setIsland island .gated).postNotice 0 noticeIsland [island]) := by
  change execVoltageFault island s = _
  rw [execVoltageFault, if_neg (Nat.not_le.mpr h), enabled_some]

/-! Memory errors. -/

theorem exec_eccError_corrected {s : State} {cx : CtxId} {c : Ctx} (h : s.ctx? cx = some c) :
    exec (.eccError cx true) s = .next (s.setCtx cx { c with ecc := c.ecc + 1 }) := by
  change execEccError cx true s = _
  simp [execEccError, h]

theorem exec_eccError_uncorrected {s t : State} {cx : CtxId} {c : Ctx} (h : s.ctx? cx = some c) (ht : s.resetContext cx = some t) :
    exec (.eccError cx false) s = .next (t.postNotice (cx.vd + 1) noticeEcc [cx.ctx]) := by
  change execEccError cx false s = _
  simp [execEccError, h, ht]

/-- A context with no access left behind another's session can be reset. -/
theorem State.resetContext_isSome {s : State} {cx : CtxId} {c : Ctx} (h : s.ctx? cx = some c)
    (hs : ((s.abortQueues cx).endSessions cx).cxStuck cx = false) : ∃ t, s.resetContext cx = some t := by
  unfold State.resetContext
  simp only [h, hs, Option.isNone_some, Bool.false_eq_true, if_false]
  exact ⟨_, rfl⟩

/-! Function-level resets. -/

theorem exec_vfFlr {s t : State} {vf : Nat} (h0 : vf ≠ 0) (h : vf ≤ 128)
    (ht : { s with mail := s.mail.erase vf }.resetAll (s.contextsOf (vf - 1)) = some t) : exec (.vfFlr vf) s = .next t := by
  change execVfFlr vf s = _
  simp [execVfFlr, h0, Nat.not_lt.mpr h, ht]

/-- The contexts of a virtual device are contexts. -/
theorem State.ctx?_isSome_of_mem_contextsOf {s : State} {vd : Nat} {cx : CtxId} (h : cx ∈ s.contextsOf vd) :
    (s.ctx? cx).isSome = true := by
  obtain ⟨x, hx, rfl⟩ := List.mem_map.mp h
  have hk : cxKey ⟨x.1 / 64, x.1 % 64⟩ = x.1 := Nat.div_add_mod x.1 64
  rw [State.ctx?, hk]
  exact Tbl.get?_isSome_of_mem (List.mem_of_mem_filter hx)

theorem State.ctx?_isReset_of_mark {s : State} {cx : CtxId} (h : s.resetView.mark (cxKey cx) = some true) :
    ∃ c, s.ctx? cx = some c ∧ c.isReset = true :=
  Option.map_eq_some_iff.mp h

/-- Where no channel bars accesses, a function-level reset empties the function's mailbox and resets every context of its virtual
device. -/
theorem exec_vfFlr_resets {s : State} {vf : Nat} (h0 : vf ≠ 0) (h : vf ≤ 128) (hb : s.anyBank = false) :
    ∃ t, exec (.vfFlr vf) s = .next t ∧ t.mail.get? vf = none ∧
      ∀ cx ∈ s.contextsOf (vf - 1), ∃ c, t.ctx? cx = some c ∧ c.isReset = true := by
  obtain ⟨t, ht, hm, hk⟩ := State.resetAll_marks (s := { s with mail := s.mail.erase vf }) (cs := s.contextsOf (vf - 1)) hb
    fun cx hcx => State.ctx?_isSome_of_mem_contextsOf hcx
  refine ⟨t, exec_vfFlr h0 h ht, ?_, fun cx hcx => State.ctx?_isReset_of_mark (hk _ (.inr (List.mem_map_of_mem hcx)))⟩
  rw [hm]
  exact Tbl.get?_erase_self ..

/-- Settles O47, step by step; a function-level reset goes through the contexts one by one, each leaving the marks of those before
it (16 R448). -/
theorem powerAndResetSteps : Obligations.PowerAndResetSteps := by
  intro s
  refine ⟨fun _ _ h => exec_islandGate h, fun die hd => ?thermal, rfl, exec_powerLimit s, fun _ h => exec_voltageFault s h,
    fun cx c hc => ⟨exec_eccError_corrected hc, fun hs => ?uncorrected⟩, fun _ => ⟨_, rfl, rfl⟩, rfl, fun vf h0 h =>
    ⟨fun hs hd => exec_vfFlr_resets h0 h (by simp [State.anyBank, hs, hd]), fun _ ht => exec_vfFlr h0 h ht⟩⟩
  case thermal =>
    refine ⟨_, exec_thermalThrottle s hd, fun i hi => ?_, fun i hi => ?_, s.lowerIslands_frame _⟩
    · rw [State.lowerIslands_get]
      split
      · exact IslandMode.noConfusion
      · rename_i hn
        exact fun hf => hn ⟨hi, hf⟩
    · rw [State.lowerIslands_get, if_neg fun h => hi h.1]
  case uncorrected =>
    obtain ⟨t, ht⟩ := State.resetContext_isSome hc hs
    exact ⟨t, ht, exec_eccError_uncorrected hc ht⟩

end Sys2Proof.Machine
end

section
/-! PROOFS. Memory keeps its canonical form in every step (02 R34; 16 R448). -/

namespace Sys2Proof.Machine

open Sys2Proof Host

theorem OutcomeCanonical.next {s : State} (h : s.Canonical) : OutcomeCanonical (.next s) := by
  intro t ht
  cases ht
  exact h

/-- Every instruction and every step of the device keeps memory canonical: each by the lemma of its own meaning. -/
theorem exec_canonical (i : Instr) {s : State} (h : s.Canonical) : OutcomeCanonical (exec i s) :=
  match i with
  | .nop _ => execNop_canonical _ _ h
  | .bra _ => execBra_canonical _ _ h
  | .brd _ => execBrd_canonical _ _ h
  | .brx _ => execBrx_canonical _ _ h
  | .brxd _ => execBrxd_canonical _ _ h
  | .call _ => execCall_canonical _ _ h
  | .callx _ => execCallx_canonical _ _ h
  | .ret _ => execRet_canonical _ _ h
  | .syncr _ => execSyncr_canonical _ _ h
  | .exit _ => execExit_canonical _ _ h
  | .yield _ => execYield_canonical _ _ h
  | .waitw _ => execWaitw_canonical _ _ h
  | .sleep _ => execSleep_canonical _ _ h
  | .trap _ => execTrap_canonical _ _ h
  | .bkpt _ => execBkpt_canonical _ _ h
  | .tvec _ => execTvec_canonical _ _ h
  | .tret _ => execTret_canonical _ _ h
  | .plop _ => execPlop_canonical _ _ h
  | .pmovTov _ => execPmovTov_canonical _ _ h
  | .pmovSel _ => execPmovSel_canonical _ _ h
  | .vote _ => execVote_canonical _ _ h
  | .cjoin _ => execCjoin_canonical _ _ h
  | .cleave _ => execCleave_canonical _ _ h
  | .cbar _ => execCbar_canonical _ _ h
  | .barinit _ => execBarinit_canonical _ _ h
  | .bararr _ => execBararr_canonical _ _ h
  | .barwait _ => execBarwait_canonical _ _ h
  | .bartest _ => execBartest_canonical _ _ h
  | .role _ => execRole_canonical _ _ h
  | .dqpop _ => execDqpop_canonical _ _ h
  | .crr _ => execCrr_canonical _ _ h
  | .crw _ => execCrw_canonical _ _ h
  | .mov _ => execMov_canonical _ _ h
  | .movi32 _ => execMovi32_canonical _ _ h
  | .movi64 _ => execMovi64_canonical _ _ h
  | .sel _ => execSel_canonical _ _ h
  | .iadd _ => execIadd_canonical _ _ h
  | .isub _ => execIsub_canonical _ _ h
  | .imul _ => execImul_canonical _ _ h
  | .imulh _ => execImulh_canonical _ _ h
  | .imad _ => execImad_canonical _ _ h
  | .imin _ => execImin_canonical _ _ h
  | .imax _ => execImax_canonical _ _ h
  | .iabs _ => execIabs_canonical _ _ h
  | .ineg _ => execIneg_canonical _ _ h
  | .and _ => execAnd_canonical _ _ h
  | .or _ => execOr_canonical _ _ h
  | .xor _ => execXor_canonical _ _ h
  | .andn _ => execAndn_canonical _ _ h
  | .not _ => execNot_canonical _ _ h
  | .shl _ => execShl_canonical _ _ h
  | .shr _ => execShr_canonical _ _ h
  | .sar _ => execSar_canonical _ _ h
  | .rot _ => execRot_canonical _ _ h
  | .popc _ => execPopc_canonical _ _ h
  | .clz _ => execClz_canonical _ _ h
  | .brev _ => execBrev_canonical _ _ h
  | .bfe _ => execBfe_canonical _ _ h
  | .bfi _ => execBfi_canonical _ _ h
  | .iaddc _ => execIaddc_canonical _ _ h
  | .lea _ => execLea_canonical _ _ h
  | .isetp _ => execIsetp_canonical _ _ h
  | .fadd _ => execFadd_canonical _ _ h
  | .fmul _ => execFmul_canonical _ _ h
  | .ffma _ => execFfma_canonical _ _ h
  | .fmin _ => execFmin_canonical _ _ h
  | .fmax _ => execFmax_canonical _ _ h
  | .fsetp _ => execFsetp_canonical _ _ h
  | .fclass _ => execFclass_canonical _ _ h
  | .frcp _ => execFrcp_canonical _ _ h
  | .frsq _ => execFrsq_canonical _ _ h
  | .fsqrt _ => execFsqrt_canonical _ _ h
  | .fex2 _ => execFex2_canonical _ _ h
  | .flg2 _ => execFlg2_canonical _ _ h
  | .fsin _ => execFsin_canonical _ _ h
  | .fcos _ => execFcos_canonical _ _ h
  | .ftanh _ => execFtanh_canonical _ _ h
  | .dadd _ => execDadd_canonical _ _ h
  | .dmul _ => execDmul_canonical _ _ h
  | .dfma _ => execDfma_canonical _ _ h
  | .dmin _ => execDmin_canonical _ _ h
  | .dmax _ => execDmax_canonical _ _ h
  | .dsetp _ => execDsetp_canonical _ _ h
  | .drcp _ => execDrcp_canonical _ _ h
  | .hadd2 _ => execHadd2_canonical _ _ h
  | .hmul2 _ => execHmul2_canonical _ _ h
  | .hfma2 _ => execHfma2_canonical _ _ h
  | .cvt _ => execCvt_canonical _ _ h
  | .cvtn _ => execCvtn_canonical _ _ h
  | .cvtw _ => execCvtw_canonical _ _ h
  | .lqscale _ => execLqscale_canonical _ _ h
  | .lq8 _ => execLq8_canonical _ _ h
  | .lqd _ => execLqd_canonical _ _ h
  | .lqm _ => execLqm_canonical _ _ h
  | .shfl _ => execShfl_canonical _ _ h
  | .bcast _ => execBcast_canonical _ _ h
  | .redux _ => execRedux_canonical _ _ h
  | .scan _ => execScan_canonical _ _ h
  | .rand _ => execRand_canonical _ _ h
  | .rseed _ => execRseed_canonical _ _ h
  | .ld _ => execLd_canonical _ _ h
  | .st _ => execSt_canonical _ _ h
  | .ldu _ => execLdu_canonical _ _ h
  | .atom _ => execAtom_canonical _ _ h
  | .red _ => execRed_canonical _ _ h
  | .prf _ => execPrf_canonical _ _ h
  | .cctl _ => execCctl_canonical _ _ h
  | .winf _ => execWinf_canonical _ _ h
  | .winw _ => execWinw_canonical _ _ h
  | .msend _ => execMsend_canonical _ _ h
  | .mrecv _ => execMrecv_canonical _ _ h
  | .mpoll _ => execMpoll_canonical _ _ h
  | .kld _ => execKld_canonical _ _ h
  | .kst _ => execKst_canonical _ _ h
  | .kbr _ => execKbr_canonical _ _ h
  | .kjmp _ => execKjmp_canonical _ _ h
  | .kjx _ => execKjx_canonical _ _ h
  | .kcall _ => execKcall_canonical _ _ h
  | .kret _ => execKret_canonical _ _ h
  | .eqpop _ => execEqpop_canonical _ _ h
  | .eqwait _ => execEqwait_canonical _ _ h
  | .dqpush _ => execDqpush_canonical _ _ h
  | .launch _ => execLaunch_canonical _ _ h
  | .ksleep _ => execKsleep_canonical _ _ h
  | .khalt _ => execKhalt_canonical _ _ h
  | .ktrap _ => execKtrap_canonical _ _ h
  | .kcsr _ => execKcsr_canonical _ _ h
  | .tclaim _ => execTclaim_canonical _ _ h
  | .trels _ => execTrels_canonical _ _ h
  | .aclaim _ => execAclaim_canonical _ _ h
  | .arels _ => execArels_canonical _ _ h
  | .mfetch _ => execMfetch_canonical _ _ h
  | .mlist _ => execMlist_canonical _ _ h
  | .mnext _ => execMnext_canonical _ _ h
  | .mma _ => execMma_canonical _ _ h
  | .mzero _ => execMzero_canonical _ _ h
  | .mrd _ => execMrd_canonical _ _ h
  | .mwr _ => execMwr_canonical _ _ h
  | .mwrT _ => execMwrT_canonical _ _ h
  | .mst _ => execMst_canonical _ _ h
  | .mscl _ => execMscl_canonical _ _ h
  | .mstat _ => execMstat_canonical _ _ h
  | .cpkick _ => execCpkick_canonical _ _ h
  | .cpstat _ => execCpstat_canonical _ _ h
  | .texs _ => execTexs_canonical _ _ h
  | .hgl _ => execHgl_canonical _ _ h
  | .resq _ => execResq_canonical _ _ h
  | .rays _ => execRays_canonical _ _ h
  | .hitr _ => execHitr_canonical _ _ h
  | .candv _ => execCandv_canonical _ _ h
  | .tclose _ => execTclose_canonical _ _ h
  | .tlpub _ => execTlpub_canonical _ _ h
  | .trstat _ => execTrstat_canonical _ _ h
  | .sred _ => execSred_canonical _ _ h
  | .sbank _ => execSbank_canonical _ _ h
  | .svb _ => execSvb_canonical _ _ h
  | .smac _ => execSmac_canonical _ _ h
  | .sacc _ => execSacc_canonical _ _ h
  | .sbexit _ => execSbexit_canonical _ _ h
  | .draw _ => execDraw_canonical _ _ h
  | .rstate _ => execRstate_canonical _ _ h
  | .pxout _ => execPxout_canonical _ _ h
  | .rclear _ => execRclear_canonical _ _ h
  | .rresolve _ => execRresolve_canonical _ _ h
  | .rsync _ => execRsync_canonical _ _ h
  | .clauseStart _ _ => execClauseStart_canonical _ _ _ h
  | .quantumExpiry _ _ => execQuantumExpiry_canonical _ _ _ h
  | .sleepExpiry _ _ _ => execSleepExpiry_canonical _ _ _ _ h
  | .issueStarvationPromote _ _ => execIssueStarvationPromote_canonical _ _ _ h
  | .cohortPhaseSeen _ _ => execCohortPhaseSeen_canonical _ _ _ h
  | .cohortLeaveAtExit _ _ => execCohortLeaveAtExit_canonical _ _ _ h
  | .roleSwitch _ _ => execRoleSwitch_canonical _ _ _ h
  | .teamRetire _ _ => execTeamRetire_canonical _ _ _ h
  | .longLatencyComplete _ _ _ _ => execLongLatencyComplete_canonical _ _ _ _ _ h
  | .storeComplete _ => execStoreComplete_canonical _ _ h
  | .evictLastExpiry _ => execEvictLastExpiry_canonical _ _ h
  | .arbiterCycle _ _ => execArbiterCycle_canonical _ _ _ h
  | .lockRegister _ => execLockRegister_canonical _ _ h
  | .engineOpRelease _ => execEngineOpRelease_canonical _ _ h
  | .heldEventPost _ => execHeldEventPost_canonical _ _ h
  | .faultRecordPost _ => execFaultRecordPost_canonical _ _ h
  | .faultMend _ _ => execFaultMend_canonical _ _ _ h
  | .pageDeliver _ => execPageDeliver_canonical _ _ h
  | .translationInvalidate _ _ _ => execTranslationInvalidate_canonical _ _ _ _ h
  | .wayConvert _ _ => execWayConvert_canonical _ _ _ h
  | .islandGate _ _ => execIslandGate_canonical _ _ _ h
  | .launchRecordRead _ _ => execLaunchRecordRead_canonical _ _ _ h
  | .dispatchFaultResolve _ => execDispatchFaultResolve_canonical _ _ h
  | .gangPlace _ _ => execGangPlace_canonical _ _ _ h
  | .coresidentPlace _ _ _ => execCoresidentPlace_canonical _ _ _ _ h
  | .gangRetire _ => execGangRetire_canonical _ _ h
  | .gangPreempt _ => execGangPreempt_canonical _ _ h
  | .gangRestore _ _ _ => execGangRestore_canonical _ _ _ _ h
  | .frameDeadline _ => execFrameDeadline_canonical _ _ h
  | .framePreempt _ _ => execFramePreempt_canonical _ _ _ h
  | .progressWatchdog _ => execProgressWatchdog_canonical _ _ h
  | .commandTimeout _ => execCommandTimeout_canonical _ _ h
  | .contextReset _ => execContextReset_canonical _ _ h
  | .flitDeliver _ _ _ => execFlitDeliver_canonical _ _ _ _ h
  | .remoteApply _ _ _ => execRemoteApply_canonical _ _ _ _ h
  | .windowAdvance => execWindowAdvance_canonical _ h
  | .peerLost _ => execPeerLost_canonical _ _ h
  | .fakalvoWrite _ => execFakalvoWrite_canonical _ _ h
  | .fakalvoRead _ => execFakalvoRead_canonical _ _ h
  | .fakalvoReadresp _ => execFakalvoReadresp_canonical _ _ h
  | .fakalvoAck _ => execFakalvoAck_canonical _ _ h
  | .fakalvoMarker _ => execFakalvoMarker_canonical _ _ h
  | .fakalvoRetransmit _ => execFakalvoRetransmit_canonical _ _ h
  | .ptpMessage _ _ => execPtpMessage_canonical _ _ _ h
  | .ethernetFrame _ _ _ => execEthernetFrame_canonical _ _ _ _ h
  | .claimGrant _ => execClaimGrant_canonical _ _ h
  | .fetchComplete _ => execFetchComplete_canonical _ _ h
  | .fetchFaultUnmended _ => execFetchFaultUnmended_canonical _ _ h
  | .walkerEntryRead _ _ => execWalkerEntryRead_canonical _ _ _ h
  | .walkerFaultResolve _ _ _ => execWalkerFaultResolve_canonical _ _ _ _ h
  | .copyRegister _ => execCopyRegister_canonical _ _ h
  | .accumCommit _ => execAccumCommit_canonical _ _ h
  | .copyFinish _ => execCopyFinish_canonical _ _ h
  | .copyFaultUnmended _ => execCopyFaultUnmended_canonical _ _ h
  | .filterStep _ _ => execFilterStep_canonical _ _ _ h
  | .filterRequestDone _ _ => execFilterRequestDone_canonical _ _ _ h
  | .rayArrive _ => execRayArrive_canonical _ _ h
  | .spillRefill _ _ => execSpillRefill_canonical _ _ _ h
  | .traversalRound _ _ => execTraversalRound_canonical _ _ _ h
  | .candidateVerdict _ _ => execCandidateVerdict_canonical _ _ _ h
  | .hitRecordPost _ _ => execHitRecordPost_canonical _ _ _ h
  | .treeletDrainDone _ _ => execTreeletDrainDone_canonical _ _ _ h
  | .sredStep _ _ => execSredStep_canonical _ _ _ h
  | .sredComplete _ => execSredComplete_canonical _ _ h
  | .sbankEnter _ => execSbankEnter_canonical _ _ h
  | .smacBanksDone _ => execSmacBanksDone_canonical _ _ h
  | .sessionTimeout _ _ => execSessionTimeout_canonical _ _ _ h
  | .deferredQueueServe _ _ => execDeferredQueueServe_canonical _ _ _ h
  | .cdcTileFill _ => execCdcTileFill_canonical _ _ h
  | .cdcWriteback _ => execCdcWriteback_canonical _ _ h
  | .pageCChange _ _ _ => execPageCChange_canonical _ _ _ _ h
  | .pixelTeamSpawn _ _ => execPixelTeamSpawn_canonical _ _ _ h
  | .pxoutMerge _ _ => execPxoutMerge_canonical _ _ _ h
  | .drawComplete _ _ => execDrawComplete_canonical _ _ _ h
  | .rasterFaultResolve _ _ => execRasterFaultResolve_canonical _ _ _ h
  | .scanOutStart _ => execScanOutStart_canonical _ _ h
  | .encodeFrameSend _ => execEncodeFrameSend_canonical _ _ h
  | .thermalThrottle _ => execThermalThrottle_canonical _ _ h
  | .overtempShutdown => execOvertempShutdown_canonical _ h
  | .powerLimit => execPowerLimit_canonical _ h
  | .voltageFault _ => execVoltageFault_canonical _ _ h
  | .eccError _ _ => execEccError_canonical _ _ _ h
  | .powerGood _ => execPowerGood_canonical _ _ h
  | .vfFlr _ => execVfFlr_canonical _ _ h
  | .pfReset => execPfReset_canonical _ h
  | .prod _ _ _ _ _ => execProd_canonical _ _ _ _ _ _ h
  | .fclr _ _ _ _ => execFclr_canonical _ _ _ _ _ h
  | .ctlstart _ _ _ _ _ _ => execCtlstart_canonical _ _ _ _ _ _ _ h
  | .ctlstop _ _ _ => execCtlstop_canonical _ _ _ _ h
  | .winopen _ _ _ _ _ _ _ => execWinopen_canonical _ _ _ _ _ _ _ _ h
  | .winclose _ _ _ _ => execWinclose_canonical _ _ _ _ _ h
  | .memwr _ _ _ _ _ => execMemwr_canonical _ _ _ _ _ _ h
  | .memrd _ _ _ _ _ => execMemrd_canonical _ _ _ _ _ _ h
  | .getnote _ _ => execGetnote_canonical _ _ _ h
  | .monitor _ _ _ => execMonitor_canonical _ _ _ _ h
  | .headcfg _ _ _ _ _ => execHeadcfg_canonical _ _ _ _ _ _ h
  | .vdmake _ _ _ => execVdmake_canonical _ _ _ _ h
  | .arbset _ _ _ => execArbset_canonical _ _ _ _ h
  | .partmove _ _ _ => execPartmove_canonical _ _ _ _ h
  | .sealRequest _ _ _ => execSealRequest_canonical _ _ _ _ h
  | .debugStop _ _ _ => execDebugStop_canonical _ _ _ _ h
  | .debugRun _ _ _ => execDebugRun_canonical _ _ _ _ h
  | .debugStep _ _ _ => execDebugStep_canonical _ _ _ _ h
  | .debugGangStop _ _ _ _ => execDebugGangStop_canonical _ _ _ _ _ h
  | .bkcfgWrite _ _ _ => execBkcfgWrite_canonical _ _ _ _ h
  | .wayqWrite _ _ _ => execWayqWrite_canonical _ _ _ _ h
  | .hdcfgWrite _ _ => execHdcfgWrite_canonical _ _ _ h
  | .trqlimWrite _ _ _ _ => execTrqlimWrite_canonical _ _ _ _ _ h
  | .grpcfgWrite _ _ _ => execGrpcfgWrite_canonical _ _ _ _ h
  | .frctlWrite _ _ => execFrctlWrite_canonical _ _ _ h
  | .registerWrite _ _ => execRegisterWrite_canonical _ _ _ h
  | .ksleepExpiry _ => execKsleepExpiry_canonical _ _ h
  | .eqwaitTimeout _ => execEqwaitTimeout_canonical _ _ h
  | .leaseExpiry _ => execLeaseExpiry_canonical _ _ h
  | .kldDataArrive _ => execKldDataArrive_canonical _ _ h
  | .cctlAnswer _ _ => execCctlAnswer_canonical _ _ _ h

/-! An agent's turn. -/

theorem issueAt_canonical {s : State} (si : Site) (h : s.Canonical) : OutcomeCanonical (issueAt s si) := by
  unfold issueAt
  split
  · exact .next (State.trapSite_canonical _ _ _ _ h)
  · exact .next (State.updTeam_canonical _ _ _ _ h)
  · exact exec_canonical _ h

theorem teamTurn_canonical (core slot : Nat) {s : State} (h : s.Canonical) : OutcomeCanonical (teamTurn core slot s) := by
  unfold teamTurn
  split
  · exact .next h
  · split
    · exact exec_canonical _ h
    · split
      · exact exec_canonical _ h
      · split
        · split
          · exact .next (State.updTeam_canonical _ _ _ _ h)
          · exact issueAt_canonical _ h
        · split
          · exact exec_canonical _ h
          · exact exec_canonical _ h

theorem State.ctlFetch_canonical {s : State} (core : Nat) (cx : CtxId) (h : s.Canonical) : (s.ctlFetch core cx).Canonical := by
  unfold State.ctlFetch
  dsimp only
  split
  · exact State.raiseCtl_canonical _ _ _ _ _ h
  · exact State.faultCtl_canonical _ _ _ _ _ _ _ h
  · cases hd : s.deferAs (.fetch (.ctl core)) _ with
    | none => exact h
    | some t => exact State.deferAs_canonical _ _ _ h t hd
  · have hw := fun vas => State.walkedAll_canonical _ core cx vas (State.undefer_canonical s (.fetch (.ctl core)) h)
    split
    · exact State.onCtl_canonical _ _ _ (hw _)
    · exact State.onCtl_canonical _ _ _ (hw _)

/-- A wait that is over, or goes on. -/
theorem State.ctlWoken_canonical {s : State} (core : Nat) (f : Ctl → Ctl) (h : s.Canonical) :
    State.Canonical (if s.ctlWakes core then s.onCtl core f else s) := by
  split
  · exact State.onCtl_canonical _ _ _ h
  · exact h

theorem ctlTurn_canonical (core : Nat) {s : State} (h : s.Canonical) : OutcomeCanonical (ctlTurn core s) := by
  unfold ctlTurn
  dsimp only
  split
  · split
    · exact .next (State.ctlFetch_canonical _ _ h)
    · split
      · exact .next (State.onCtl_canonical _ _ _ h)
      · split
        · exact .next (State.raiseCtl_canonical _ _ _ _ _ h)
        · exact .next (State.onCtl_canonical _ _ _ h)
        · exact exec_canonical _ h
    · exact .next h
  · exact .next (State.ctlWoken_canonical _ _ h)
  · exact .next (State.ctlWoken_canonical _ _ h)
  · exact .next (State.ctlWoken_canonical _ _ h)

theorem agentTurn_canonical (a : Agent) {s : State} (h : s.Canonical) : OutcomeCanonical (agentTurn a s) := by
  cases a with
  | team core slot => exact teamTurn_canonical core slot h
  | ctl core => exact ctlTurn_canonical core h

/-! Time passes, and the turn is taken. -/

theorem State.tickCore_canonical {s : State} (core n : Nat) (h : s.Canonical) : (s.tickCore core n).Canonical := by
  unfold State.tickCore
  split
  · exact h
  · exact State.setCore_canonical _ _ _ h

theorem State.elapse_canonical {s : State} (t : Turn) (h : s.Canonical) : (s.elapse t).Canonical :=
  foldl_canonical _ (fun _ _ hs => State.tickCore_canonical _ _ hs) t.cycles s h

theorem turn_canonical {s : State} (h : s.Canonical) : OutcomeCanonical (turn s) := by
  unfold turn
  dsimp only
  split
  · rename_i t rest _
    have he : (({ s with fresh := s.fresh + 1, agenda := rest } : State).elapse t).Canonical := State.elapse_canonical t h
    split
    · split
      · exact agentTurn_canonical _ he
      · exact .next he
    · split
      · exact .next he
      · exact exec_canonical _ he
  · split
    · split
      · exact agentTurn_canonical _ (State.tickCore_canonical _ _ h)
      · exact .next h
    · exact .next h

theorem step_canonical {s : State} (h : s.Canonical) : OutcomeCanonical (step s) := by
  unfold step
  split
  · exact turn_canonical h
  · intro t ht
    cases ht

/-- Settles O57: a step takes a turn, and every meaning that a turn can run keeps the form. -/
theorem memoryStaysCanonical : Obligations.MemoryStaysCanonical := fun _ _ h => step_canonical h _

end Sys2Proof.Machine
end

section
/-! PROOFS. Access checks in their order, and accesses whose check fails (02 R34, R35, R49; 08 R236). -/

namespace Sys2Proof.Machine

open Sys2Proof Host

/-! The order of the first two checks. -/

/-- A misaligned address raises ALIGN, whatever the other checks would say. -/
theorem State.check_misaligned {s : State} {r : Reach} {sp : Space} {acc : Acc} {l : List Want} {x : Want}
    (h : l.find? (fun x : Want => x.ea % (x.align : Int) != 0) = some x) :
    s.check r sp acc l = .error (.trap ⟨clsALIGN, 0, BitVec.ofInt 64 x.base⟩) := by
  simp only [State.check, firstBad, h, addrWord]

/-- Where every address is aligned, one out of reach raises PROT. -/
theorem State.check_outOfReach {s : State} {r : Reach} {sp : Space} {acc : Acc} {l : List Want} {x : Want}
    (ha : ∀ y ∈ l, y.ea % (y.align : Int) = 0) (h : l.find? (fun x => !s.inReach r sp x.ea x.len) = some x) :
    s.check r sp acc l = .error (.trap ⟨clsPROT, 0, BitVec.ofInt 64 x.base⟩) := by
  have ha' : l.find? (fun x : Want => x.ea % (x.align : Int) != 0) = none := by
    rw [List.find?_eq_none]
    intro y hy
    simp [ha y hy]
  simp only [State.check, firstBad, ha', h, addrWord]

theorem alignmentBeforeReach : Spec.AlignmentBeforeReach :=
  fun _ _ _ _ _ _ => ⟨State.check_misaligned, State.check_outOfReach⟩

/-! What the checks deny does not reach the meaning. -/

section Denied

variable {s : State} {si : Site} {r : Reach} {sp : Space} {acc : Acc} {wants : List Want}

theorem checked_trap {y : Trap} (body : State → List (Nat × Place) → Issue) (hr : s.reachOf si.team = some r)
    (hw : s.walksStuck r.cx sp wants = false) (h : s.check r sp acc wants = .error (.trap y)) :
    checked s si sp acc wants body = .trap y := by
  simp only [checked, hr, hw, h, Bool.false_eq_true, if_false]

theorem checked_fault {k va ea : Nat} (body : State → List (Nat × Place) → Issue) (hr : s.reachOf si.team = some r)
    (hw : s.walksStuck r.cx sp wants = false) (h : s.check r sp acc wants = .error (.fault k va ea)) :
    checked s si sp acc wants body = .fault k acc.code va ea := by
  simp only [checked, hr, hw, h, Bool.false_eq_true, if_false]

end Denied

/-- An instruction of the team side whose meaning runs behind the checks of some accesses: a failed check leaves the trap alone, or
the fault record and the wait for it. -/
theorem issueTeam_denied {s : State} {si : Site} {r : Reach} {o : Op} {w : Ins} {sp : Space} {acc : Acc} {wants : List Want}
    {asks : Site → TMask → List Want} {act : Site → TMask → State → List (Nat × Place) → Issue}
    (hsi : s.site? = some si) (hr : s.reachOf si.team = some r) (hg : si.goes s o w = true)
    (hw : s.walksStuck r.cx sp wants = false) (ha : asks si (si.exec w) = wants) :
    (∀ y, s.check r sp acc wants = .error (.trap y) →
        issueTeam o w s (fun si e => checked s si sp acc (asks si e) (act si e)) = .next (s.trapSite si y w.len.size)) ∧
      ∀ k va ea, s.check r sp acc wants = .error (.fault k va ea) →
        issueTeam o w s (fun si e => checked s si sp acc (asks si e) (act si e)) = .next (s.faultSite si k acc.code va ea) := by
  refine ⟨fun y h => ?_, fun k va ea h => ?_⟩
  · rw [issueTeam_goes _ hsi hg, ha, checked_trap _ hr hw h]
    rfl
  · rw [issueTeam_goes _ hsi hg, ha, checked_fault _ hr hw h]
    rfl

theorem deniedAccesses : Spec.DeniedAccesses := by
  intro w s si r hsi hr x hx _ hg hw
  simp only [List.mem_cons, List.not_mem_nil, or_false] at hx
  rcases hx with rfl | rfl | rfl | rfl
  · change (∀ y, _ → execLd w s = _) ∧ ∀ k va ea, _ → execLd w s = _
    exact issueTeam_denied hsi hr hg hw rfl
  · change (∀ y, _ → execSt w s = _) ∧ ∀ k va ea, _ → execSt w s = _
    exact issueTeam_denied hsi hr hg hw rfl
  · change (∀ y, _ → execAtom w s = _) ∧ ∀ k va ea, _ → execAtom w s = _
    exact issueTeam_denied hsi hr hg hw rfl
  · change (∀ y, _ → execRed w s = _) ∧ ∀ k va ea, _ → execRed w s = _
    exact issueTeam_denied hsi hr hg hw rfl

/-- Settles O22: the checks in their order, and the four accesses that stand behind them. -/
theorem checkedAccesses : Obligations.CheckedAccesses := ⟨alignmentBeforeReach, deniedAccesses⟩

end Sys2Proof.Machine
end

section
/-! PROOFS. Fault records, mends, PAGE, invalidations and converted ways (02 R44, R47 to R50; 07 R216; 09 R273). -/

namespace Sys2Proof.Machine

open Sys2Proof Host

/-! Fault records. -/

/-- The record that State.postFault keeps: as it was sent, at the clock of its core. -/
theorem State.postFault_faults (s : State) (r : FaultRec) :
    (s.postFault r).2.faults.get? (s.postFault r).1 = some { r with clk := (s.coreOf r.core).clk } :=
  Tbl.get?_set_self ..

@[simp] theorem State.postFault_team? (s : State) (r : FaultRec) (core slot : Nat) :
    (s.postFault r).2.team? core slot = s.team? core slot := rfl

theorem exec_faultRecordPost_team {s : State} {core slot e k a va addr : Nat} {t : Team} {cx : CtxId}
    (hroom : s.faultRoom (coreDie core) = true) (ht : s.team? core slot = some t) (hw : t.fullWait = some (e, k, a, va, addr))
    (hcx : s.teamCx t = some cx) :
    exec (.faultRecordPost (.team core slot)) s =
      let p := s.postFault { va := va, cx := cx, core := core, slot := slot, kind := k, access := a, clk := 0
                             who := .team t.gang t.index e, addr := addr }
      .next (p.2.setTeam core slot { t with splits := t.splits.alter e fun q => { q with wait := .fault p.1 } }) := by
  change execFaultRecordPost (.team core slot) s = _
  simp only [execFaultRecordPost, agentCore, hroom, if_true, State.postWaiting, ht, hw, hcx, enabled_some]
  rw [State.updTeam_of_team ((State.postFault_team? ..).trans ht)]

theorem exec_faultRecordPost_ctl {s : State} {core k a va addr : Nat} {cx : CtxId} (hroom : s.faultRoom (coreDie core) = true)
    (hm : (s.ctl core).mode = .faultFull k a va addr) (ho : (s.ctl core).owner = some cx) :
    exec (.faultRecordPost (.ctl core)) s =
      let p := s.postFault { va := va, cx := cx, core := core, slot := 0xFF, kind := k, access := a, clk := 0
                             who := .ctl core, addr := addr }
      .next (p.2.onCtl core fun c => { c with mode := .fault p.1 }) := by
  change execFaultRecordPost (.ctl core) s = _
  simp only [execFaultRecordPost, agentCore, hroom, if_true, State.postWaiting, hm, ho, enabled_some]

/-! Mends. -/

theorem State.remap_of_mayMap {s : State} {ptes : List (Nat × Nat)} (h : Spec.mayMap s ptes) :
    s.remap ptes = some (s.writePtes ptes) := by
  obtain ⟨hgood, hcmp⟩ := h
  have hall : ((s.writePtes ptes).ctxs.all fun x => (s.writePtes ptes).tablesGood ⟨x.1 / 64, x.1 % 64⟩ x.2) = true :=
    List.all_eq_true.mpr hgood
  simp only [State.remap, hall, hcmp, Bool.not_false, Bool.and_self, if_true]

theorem State.mend_of_mayMap {s : State} {rec : Nat} {f : FaultRec} {ptes : List (Nat × Nat)}
    (h : Spec.mayMap (s.dropFault rec) ptes) : s.mend rec f ptes = some (((s.dropFault rec).writePtes ptes).replay f.who) := by
  simp only [State.mend, State.remap_of_mayMap h, Option.map_some]

/-- Faults of a launch's stores and of a raster engine are mended in steps of their own. -/
theorem exec_faultMend {s : State} {rec : Nat} {f : FaultRec} {ptes : List (Nat × Nat)} (hf : s.faults.get? rec = some f)
    (hl : ∀ id, f.who ≠ .launch id) (hr : ∀ d id, f.who ≠ .raster d id) :
    exec (.faultMend rec ptes) s = enabled s (s.mend rec f ptes) := by
  change execFaultMend rec ptes s = _
  rw [execFaultMend, hf]
  dsimp only
  split
  · exact absurd ‹_› (hr _ _)
  · exact absurd ‹_› (hl _)
  · rfl

/-! PAGE, and invalidation. -/

theorem exec_pageDeliver_team {s : State} {rec g i e core slot : Nat} {f : FaultRec} {t : Team} {p : Split}
    (hf : s.faults.get? rec = some f) (hw : f.who = .team g i e) (ht : s.whereTeam g i = some (core, slot, t))
    (hp : t.splits.get? e = some p) (hwait : p.wait = .fault rec) :
    exec (.pageDeliver rec) s = .next ((s.dropFault rec).raise t ⟨clsPAGE, 0, BitVec.ofNat 64 f.addr⟩
      { core := core, slot := slot, entry := e, pc := match p.clause with | some c => c.base + c.off | none => p.pc
        resume := p.clause }) := by
  have hwait' : (p.wait != .fault rec) = false := by simp [hwait]
  change execPageDeliver rec s = _
  simp only [execPageDeliver, hf, hw, State.pageTeam, ht, hp, hwait', Bool.false_eq_true, if_false, enabled_some] <;> rfl

theorem exec_translationInvalidate {s : State} {cx : CtxId} {base len : Nat} (hc : (s.ctx? cx).isSome = true)
    (hs : s.cxStuck cx = false) :
    exec (.translationInvalidate cx base len) s = .next ((s.drainCx cx).invalidate cx base len) := by
  have hc' : (s.ctx? cx).isNone = false := Option.isNone_eq_false_iff.mpr hc
  change execTranslationInvalidate cx base len s = _
  simp only [execTranslationInvalidate, hc', hs, Bool.or_self, Bool.false_eq_true, if_false, enabled_some]

/-! Converted ways. -/

/-- No line of the die stands in the ways that are to be converted. -/
theorem State.dieLines_gone_eq_nil {s : State} {die ways : Nat} (h : ∀ x ∈ s.dieLines die, x.2.way + ways < 16) :
    ((s.dieLines die).filter fun x => 16 ≤ x.2.way + ways) = [] := by
  rw [List.filter_eq_nil_iff]
  intro x hx
  simpa using h x hx

/-- With no line in the way, the ways change hands and what no allotment holds is zero. -/
theorem exec_wayConvert {s : State} {die ways : Nat} (hd : die < 4) (hw : ways ≤ 4) (hp : s.overPinned die ways = false)
    (hu : s.chipUnits die ≤ 64 * ways) (hl : ∀ x ∈ s.dieLines die, x.2.way + ways < 16) :
    exec (.wayConvert die ways) s = .next ({ s with convWays := s.convWays.put 0 die ways }.zeroChip fun c d =>
      d == die && s.chipOf c d == 0) := by
  have hd' : ¬ 4 ≤ die := Nat.not_le.mpr hd
  have hw' : ¬ 4 < ways := Nat.not_lt.mpr hw
  have hu' : ¬ unitsPerWay * ways < s.chipUnits die := Nat.not_lt.mpr hu
  change execWayConvert die ways s = _
  simp only [execWayConvert, State.dieLines_gone_eq_nil hl, hd', hw', hp, hu', List.filter_nil, List.foldl_nil, List.any_nil,
    decide_false, Bool.or_self, Bool.false_eq_true, if_false, enabled_some]

/-- Settles O40, event by event. -/
theorem translationSteps : Obligations.TranslationSteps := by
  refine ⟨?post, ?postCtl, ?mend, ?page, fun _ _ _ _ => exec_translationInvalidate, fun _ _ _ => exec_wayConvert⟩
  case post =>
    intro s core slot e k a va addr t cx hroom ht hw hcx
    exact ⟨_, _, _, _, exec_faultRecordPost_team hroom ht hw hcx, State.postFault_faults .., rfl, rfl, rfl, rfl, rfl, rfl, rfl,
      State.team?_setTeam_self .., rfl⟩
  case postCtl =>
    intro s core k a va addr cx hroom hm ho
    refine ⟨_, _, _, exec_faultRecordPost_ctl hroom hm ho, State.postFault_faults .., rfl, rfl, rfl, rfl, rfl, ?_⟩
    exact congrArg Ctl.mode (State.ctl_setCtl_self ..)
  case mend =>
    intro s rec f ptes hf hl hr hm
    rw [exec_faultMend hf hl hr, State.mend_of_mayMap hm, enabled_some]
  case page => exact fun _ _ _ _ _ _ _ _ _ _ => exec_pageDeliver_team

end Sys2Proof.Machine
end

section
/-! PROOFS. What accesses leave as it was when they take their place (02 R39 to R43, R52 to R54): everything beyond memory, the L2,
the tiles, the timestamps, the cores and the arbiters. -/

namespace Sys2Proof.Machine

open Sys2Proof Host

/-- The state without the parts that an access may change as it takes its place. -/
def State.beyondAccess (s : State) : State :=
  { s with mem := [], lines := [], tiles := [], lts := 0, cores := [], arbs := [], bypass := [] }

theorem State.streams_of_beyondAccess {s t : State} (h : t.beyondAccess = s.beyondAccess) : t.streams = s.streams :=
  (congrArg State.streams h :)

theorem State.anyBank_of_beyondAccess {s t : State} (h : t.beyondAccess = s.beyondAccess) : t.anyBank = s.anyBank :=
  (congrArg State.anyBank h :)

theorem State.beyondAccess_foldl {α : Type} {f : State → α → State} (hf : ∀ s x, (f s x).beyondAccess = s.beyondAccess)
    (l : List α) (s : State) : (l.foldl f s).beyondAccess = s.beyondAccess :=
  foldl_keeps (fun t => t.beyondAccess = s.beyondAccess) f (fun t x h => (hf t x).trans h) l s rfl

/-! Bytes and tiles. -/

theorem State.writeDram_beyondAccess (s : State) (pa : Nat) (bs : List Byte) :
    (s.writeDram pa bs).beyondAccess = s.beyondAccess := rfl

theorem State.writeTileByte_beyondAccess (s : State) (pa : Nat) (b : Byte) :
    (s.writeTileByte pa b).beyondAccess = s.beyondAccess := by
  unfold State.writeTileByte
  split
  · rfl
  · exact (State.writeDram_beyondAccess ..).trans (State.writeDram_beyondAccess ..)

theorem State.writeKey_beyondAccess (s : State) (k : Nat) (b : Byte) : (s.writeKey k b).beyondAccess = s.beyondAccess := by
  unfold State.writeKey
  split
  · exact State.writeTileByte_beyondAccess ..
  · rfl

theorem State.writeKeys_beyondAccess (s : State) (keys : List Nat) (x : Nat) :
    (s.writeKeys keys x).beyondAccess = s.beyondAccess :=
  State.beyondAccess_foldl (fun s (y : Nat × Byte) => s.writeKey_beyondAccess y.1 y.2) (keys.zip (leBytes keys.length x)) s

theorem State.fillTile_beyondAccess (s : State) (tile : Nat) : (s.fillTile tile).beyondAccess = s.beyondAccess := by
  unfold State.fillTile
  split <;> rfl

theorem State.cleanTile_beyondAccess (s : State) (tile : Nat) : (s.cleanTile tile).beyondAccess = s.beyondAccess := by
  unfold State.cleanTile
  split
  · rename_i t _
    -- What the codec makes of the tile does not matter, and is not to be evaluated.
    generalize encodeTile t.bytes = e
    split <;> rfl
  · rfl

/-! Lines of the L2. -/

theorem State.evictCrumb_beyondAccess (s : State) (crumb : Nat) : (s.evictCrumb crumb).beyondAccess = s.beyondAccess := by
  unfold State.evictCrumb
  split
  · rfl
  · split
    · exact s.cleanTile_beyondAccess (crumb / 4)
    · rfl

theorem State.fillLine_beyondAccess {s t : State} {vd hint crumb : Nat} {tile : Bool}
    (h : s.fillLine vd hint tile crumb = some t) : t.beyondAccess = s.beyondAccess := by
  obtain ⟨⟨way, old, lent⟩, -, rfl⟩ := Option.map_eq_some_iff.mp h
  cases old with
  | none => rfl
  | some c => exact s.evictCrumb_beyondAccess c

theorem State.touchCrumb_beyondAccess (s : State) (vd hint crumb : Nat) (demand : Bool) :
    (s.touchCrumb vd hint crumb demand).beyondAccess = s.beyondAccess := by
  unfold State.touchCrumb
  split
  · rfl
  · split
    · exact State.fillLine_beyondAccess ‹_›
    · split <;> rfl

theorem State.fillTileLines_beyondAccess {vd hint : Nat} {l : List Nat} {s t : State}
    (h : s.fillTileLines vd hint l = some t) : t.beyondAccess = s.beyondAccess := by
  induction l generalizing s with
  | nil => exact congrArg State.beyondAccess (Option.some.inj h).symm
  | cons c cs ih =>
    rw [State.fillTileLines] at h
    split at h
    · exact (ih h :)
    · split at h
      · exact (ih h).trans (State.fillLine_beyondAccess ‹_›)
      · cases h

theorem State.touchTile_beyondAccess (s : State) (vd hint crumb : Nat) (demand : Bool) :
    (s.touchTile vd hint crumb demand).beyondAccess = s.beyondAccess := by
  unfold State.touchTile
  dsimp only
  split
  · rfl
  · split
    · exact (State.fillTile_beyondAccess ..).trans (State.fillTileLines_beyondAccess ‹_›)
    · split <;> rfl

theorem State.touch_beyondAccess (s : State) (vd hint : Nat) (keys : List Nat) :
    (s.touch vd hint keys).beyondAccess = s.beyondAccess := by
  refine State.beyondAccess_foldl (fun s x => ?_) _ s
  unfold State.touchAny
  split
  · exact State.touchTile_beyondAccess ..
  · exact State.touchCrumb_beyondAccess ..

theorem State.dirtyKeys_beyondAccess (s : State) (thru : Bool) (keys : List Nat) :
    (s.dirtyKeys thru keys).beyondAccess = s.beyondAccess := by
  unfold State.dirtyKeys
  split <;> rfl

/-! Loads and stores through the L1. -/

theorem State.grantLease_beyondAccess (s : State) (core crumb pc : Nat) (data : List Byte) :
    (s.grantLease core crumb pc data).beyondAccess = s.beyondAccess := by
  unfold State.grantLease
  dsimp only
  split <;> rfl

theorem State.loadCrumb_beyondAccess (s : State) (via : Via) (crumb : Nat) :
    (s.loadCrumb via crumb).1.beyondAccess = s.beyondAccess := by
  unfold State.loadCrumb
  dsimp only
  split
  · rfl
  · exact (State.grantLease_beyondAccess ..).trans (State.touch_beyondAccess ..)

theorem State.loadCrumbs_beyondAccess (s : State) (via : Via) (l : List Nat) :
    (s.loadCrumbs via l).1.beyondAccess = s.beyondAccess := by
  induction l generalizing s with
  | nil => rfl
  | cons c cs ih => exact (ih _).trans (s.loadCrumb_beyondAccess via c)

theorem State.loadKeys_beyondAccess (s : State) (via : Via) (keys : List Nat) :
    (s.loadKeys via keys).1.beyondAccess = s.beyondAccess := by
  unfold State.loadKeys
  split
  · rfl
  · exact s.loadCrumbs_beyondAccess via _

theorem State.storeKeys_beyondAccess (s : State) (via : Via) (thru : Bool) (keys : List Nat) (x : Nat) :
    (s.storeKeys via thru keys x).beyondAccess = s.beyondAccess := by
  have h : (((s.touch via.vd via.hint keys).writeKeys keys x).dirtyKeys thru keys).beyondAccess = s.beyondAccess :=
    (State.dirtyKeys_beyondAccess ..).trans ((State.writeKeys_beyondAccess ..).trans (State.touch_beyondAccess ..))
  unfold State.storeKeys
  dsimp only
  split
  · exact h
  · exact (h :)

/-! Issued operations. -/

theorem State.performItem_beyondAccess (s : State) (via : Via) (act : MemAct) (x : MemItem) (keys : List Nat) :
    (s.performItem via act x keys).1.beyondAccess = s.beyondAccess := by
  cases act with
  | load sg n cnt b =>
    simp only [State.performItem]
    split <;> exact State.loadKeys_beyondAccess ..
  | store => exact State.storeKeys_beyondAccess ..
  | atomic op t ret =>
    have hw := fun x => (State.writeKeys_beyondAccess _ keys x).trans (s.touch_beyondAccess via.vd via.hint keys)
    exact (State.dirtyKeys_beyondAccess _ x.thru keys).trans (hw _)

theorem State.performFirst_beyondAccess {s : State} {via : Via} {act : MemAct} {l : List MemItem}
    {y : State × List MemItem × List RegWrite} (h : s.performFirst via act l = some y) :
    y.1.beyondAccess = s.beyondAccess := by
  induction l generalizing y with
  | nil => cases h
  | cons x xs ih =>
    rw [State.performFirst] at h
    split at h
    · obtain ⟨z, hz, rfl⟩ := Option.map_eq_some_iff.mp h
      exact (ih hz :)
    · cases h
      exact State.performItem_beyondAccess ..

theorem State.performItems_beyondAccess (via : Via) (act : MemAct) (n : Nat) (s : State) (l : List MemItem)
    (ws : List RegWrite) : (State.performItems via act n s l ws).1.beyondAccess = s.beyondAccess := by
  induction n generalizing s l ws with
  | zero => rfl
  | succ n ih =>
    rw [State.performItems]
    split
    · exact (ih ..).trans (State.performFirst_beyondAccess ‹_›)
    · rfl

theorem State.performPend_beyondAccess (s : State) (core vd : Nat) (p : Pend) :
    (s.performPend core vd p).1.beyondAccess = s.beyondAccess := by
  unfold State.performPend State.performSome
  split
  · exact State.performItems_beyondAccess ..
  · rfl

theorem State.performAll_beyondAccess (s : State) (core vd : Nat) (l : List Pend) :
    (s.performAll core vd l).1.beyondAccess = s.beyondAccess := by
  induction l generalizing s with
  | nil => rfl
  | cons p ps ih =>
    rw [State.performAll]
    split
    · rfl
    · exact (ih _).trans (s.performPend_beyondAccess core vd p)

theorem State.performTo_beyondAccess (s : State) (core vd id : Nat) (l : List Pend) :
    (s.performTo core vd id l).1.beyondAccess = s.beyondAccess := by
  induction l generalizing s with
  | nil => rfl
  | cons p ps ih =>
    rw [State.performTo]
    split
    · rfl
    · dsimp only
      split
      · exact s.performPend_beyondAccess core vd p
      · exact (ih _).trans (s.performPend_beyondAccess core vd p)

theorem State.drainCtl_beyondAccess (s : State) (core : Nat) : (s.drainCtl core).beyondAccess = s.beyondAccess :=
  State.performAll_beyondAccess ..

end Sys2Proof.Machine
end

section
/-! PROOFS. Frames of peers, windows between devices, the clock and the ports (02 R62 to R66; 16 R440, R441, R443). -/

namespace Sys2Proof.Machine

open Sys2Proof Host

/-! Deferred queues and streams. -/

theorem State.gate_of_unbarred {s : State} {w : Waiter} {chans : List Nat} (f : State → Option State)
    (h : Spec.unbarred s w chans) : s.gate w chans f = f (s.undefer w) :=
  if_neg (Bool.eq_false_iff.mp h)

theorem State.undefer_mem (s : State) (w : Waiter) : (s.undefer w).mem = s.mem := by
  unfold State.undefer
  split <;> rfl

theorem State.undefer_of_deferred_nil {s : State} (w : Waiter) (h : s.deferred = []) : s.undefer w = s := by
  simp [State.undefer, h]

@[simp] theorem State.stream_setStream_self (s : State) (peer : Nat) (x : Stream) : (s.setStream peer x).stream peer = x := by
  simp [State.stream]

/-! Acknowledgements: they change the stream and the counts of the agents whose stores are acknowledged. -/

theorem State.acked_frame (s : State) (who : OwnerRef) :
    s.acked who = { s with teams := (s.acked who).teams, gangs := (s.acked who).gangs, cores := (s.acked who).cores } := by
  cases who with
  | team g i =>
    simp only [State.acked, State.updTeamRef]
    split
    · rfl
    · split <;> rfl
  | ctl core run => rfl

theorem State.takeAck_frame (s : State) (peer ack : Nat) :
    s.takeAck peer ack =
      { s with streams := (s.takeAck peer ack).streams, teams := (s.takeAck peer ack).teams
               gangs := (s.takeAck peer ack).gangs, cores := (s.takeAck peer ack).cores } := by
  unfold State.takeAck
  dsimp only
  split
  · rfl
  · refine foldl_keeps (fun t : State => t = { s with
      streams := t.streams, teams := t.teams, gangs := t.gangs, cores := t.cores }) _ (fun t f ht => ?_) _ _ rfl
    split
    · rw [State.acked_frame, ht]
    · exact ht

theorem State.takeAck_mem (s : State) (peer ack : Nat) : (s.takeAck peer ack).mem = s.mem :=
  (congrArg State.mem (s.takeAck_frame peer ack) :)

theorem State.takeAck_anyBank (s : State) (peer ack : Nat) : (s.takeAck peer ack).anyBank = s.anyBank :=
  (congrArg State.anyBank (s.takeAck_frame peer ack) :)

/-! Replies. -/

theorem State.stuck_of_anyBank {s : State} (ps : List Pend) (h : s.anyBank = false) : s.stuck ps = false := by
  simp [State.stuck, h]

theorem State.updTeam_streams (s : State) (core slot : Nat) (f : Team → Team) : (s.updTeam core slot f).streams = s.streams := by
  unfold State.updTeam
  split <;> rfl

theorem State.updTeam_anyBank (s : State) (core slot : Nat) (f : Team → Team) : (s.updTeam core slot f).anyBank = s.anyBank :=
  congrArg ResetView.anyBank (s.updTeam_resetView core slot f)

/-- Where no channel bars accesses a reply reaches its load, which changes no stream. -/
theorem State.deliverReply_of_anyBank {s : State} (hb : s.anyBank = false) (who : OwnerRef) (id peer data : Nat) :
    ∃ t, s.deliverReply who id peer data = some t ∧ t.anyBank = false ∧ t.streams = s.streams := by
  cases who with
  | team g i =>
    unfold State.deliverReply
    dsimp only
    split
    · rename_i core slot t _
      have hp := s.performTo_beyondAccess core (s.teamVd t) id t.pend
      rw [State.stuck_of_anyBank _ hb, if_neg Bool.false_ne_true]
      exact ⟨_, rfl, (State.updTeam_anyBank ..).trans ((State.anyBank_of_beyondAccess hp).trans hb),
        (State.updTeam_streams ..).trans (State.streams_of_beyondAccess hp)⟩
    · exact ⟨s, rfl, hb, rfl⟩
  | ctl core run =>
    have hp := s.drainCtl_beyondAccess core
    unfold State.deliverReply
    dsimp only
    split
    · exact ⟨s, rfl, hb, rfl⟩
    · rw [State.stuck_of_anyBank _ hb, if_neg Bool.false_ne_true]
      exact ⟨_, rfl, (State.anyBank_of_beyondAccess hp).trans hb, State.streams_of_beyondAccess hp⟩

theorem State.failReads_of_anyBank {peer : Nat} {l : List (OwnerRef × Nat)} {s : State} (hb : s.anyBank = false) :
    ∃ t, s.failReads peer l = some t ∧ t.streams = s.streams := by
  induction l generalizing s with
  | nil => exact ⟨s, rfl, rfl⟩
  | cons x xs ih =>
    obtain ⟨t, ht, htb, hts⟩ := State.deliverReply_of_anyBank hb x.1 x.2 peer 0
    obtain ⟨u, hu, hus⟩ := ih htb
    refine ⟨u, ?_, hus.trans hts⟩
    rw [State.failReads, ht]
    exact hu

/-! The items of a frame. -/

theorem State.applyWrites_isSome {cx : CtxId} {l : List FkItem} (s : State) (h : ∀ x ∈ l, ∃ va data, x = .write va data) :
    ∃ t, s.applyWrites cx l = some t := by
  induction l generalizing s with
  | nil => exact ⟨s, rfl⟩
  | cons x xs ih =>
    obtain ⟨va, data, rfl⟩ := h x (List.mem_cons_self ..)
    exact ih (s.applyWrite cx va data) fun y hy => h y (List.mem_cons_of_mem _ hy)

theorem State.applyReads_isSome {cx : CtxId} {l : List FkItem} (s : State) (h : ∀ x ∈ l, ∃ va n, x = .read va n) :
    ∃ x, s.applyReads cx l = some x ∧ x.1.length = l.length := by
  induction l generalizing s with
  | nil => exact ⟨_, rfl, rfl⟩
  | cons x xs ih =>
    obtain ⟨va, n, rfl⟩ := h x (List.mem_cons_self ..)
    obtain ⟨y, hy, hlen⟩ := ih (s.applyRead cx va n).2 fun z hz => h z (List.mem_cons_of_mem _ hz)
    refine ⟨((s.applyRead cx va n).1 :: y.1, y.2), ?_, congrArg (· + 1) hlen⟩
    rw [State.applyReads, hy]
    rfl

theorem State.applyReplies_isSome {peer : Nat} {l : List FkItem} {s : State} (hb : s.anyBank = false)
    (h : ∀ x ∈ l, ∃ data failed, x = .resp data failed) : ∃ t, s.applyReplies peer l = some t := by
  induction l generalizing s with
  | nil => exact ⟨s, rfl⟩
  | cons x xs ih =>
    obtain ⟨data, failed, rfl⟩ := h x (List.mem_cons_self ..)
    have hr := fun y hy => h y (List.mem_cons_of_mem _ hy)
    rw [State.applyReplies]
    split
    · rename_i who id rest _
      obtain ⟨t, ht, htb, -⟩ := State.deliverReply_of_anyBank
        (s := s.setStream peer { s.stream peer with reads := rest }) hb who id peer (if failed then 0 else leNat data)
      obtain ⟨u, hu⟩ := ih htb hr
      exact ⟨u, by rw [ht]; exact hu⟩
    · exact ih hb hr

/-! Frames of a peer. -/

/-- A frame's effect once its items are applied: EXPECT passes it. -/
def State.passed (s : State) (peer : Nat) : State :=
  s.setStream peer { s.stream peer with expect := ((s.stream peer).expect + 1) % 2 ^ 32 }

theorem enabled_receive_outOfOrder {s : State} {f : FkFrame} {st : Stream} (body : State → Option State)
    (hp : s.peer? f.peer = some st) (hv : f.version = 1) (hs : f.seq ≠ st.expect) :
    enabled s (s.receive f body) = .next s := by
  simp [State.receive, hp, hv, hs]

theorem enabled_receive_inOrder {s t : State} {f : FkFrame} {st : Stream} {body : State → Option State}
    (hp : s.peer? f.peer = some st) (hv : f.version = 1) (hs : f.seq = st.expect)
    (hu : Spec.unbarred s (.peer f.peer f.seq) (f.items.flatMap (s.itemChans f.dst)).dedup)
    (hb : body ((s.undefer (.peer f.peer f.seq)).takeAck f.peer f.ack) = some t) :
    enabled s (s.receive f body) = .next (t.passed f.peer) := by
  simp only [State.receive, hp, hv, hs, bne_self_eq_false, Bool.false_eq_true, if_false, State.gateFrame]
  rw [← hs, State.gate_of_unbarred _ hu, hb]
  rfl

/-- A frame that is not the next of its stream changes nothing, of whichever kind it is (16 R441). -/
theorem exec_fakalvo_outOfOrder {s : State} {f : FkFrame} {st : Stream} (hp : s.peer? f.peer = some st) (hv : f.version = 1)
    (hs : f.seq ≠ st.expect) : exec (.fakalvoWrite f) s = .next s ∧ exec (.fakalvoRead f) s = .next s ∧
      exec (.fakalvoReadresp f) s = .next s ∧ exec (.fakalvoMarker f) s = .next s := by
  have h := fun body => enabled_receive_outOfOrder body hp hv hs
  exact ⟨h _, h _, h _, h _⟩

theorem exec_fakalvoAck {s : State} {f : FkFrame} {st : Stream} (hp : s.peer? f.peer = some st) (hv : f.version = 1) :
    exec (.fakalvoAck f) s = .next (s.takeAck f.peer f.ack) := by
  change execFakalvoAck f s = _
  simp [execFakalvoAck, hp, hv]

section InOrder

variable {s : State} {f : FkFrame} {st : Stream} (hp : s.peer? f.peer = some st) (hv : f.version = 1) (hs : f.seq = st.expect)
  (hu : Spec.unbarred s (.peer f.peer f.seq) (f.items.flatMap (s.itemChans f.dst)).dedup)

include hp hv hs hu

theorem exec_fakalvoWrite_inOrder (h : ∀ x ∈ f.items, ∃ va data, x = .write va data) :
    ∃ t, ((s.undefer (.peer f.peer f.seq)).takeAck f.peer f.ack).applyWrites f.dst f.items = some t ∧
      exec (.fakalvoWrite f) s = .next (t.passed f.peer) := by
  obtain ⟨t, ht⟩ := State.applyWrites_isSome (cx := f.dst) ((s.undefer (.peer f.peer f.seq)).takeAck f.peer f.ack) h
  exact ⟨t, ht, enabled_receive_inOrder (body := fun s => s.applyWrites f.dst f.items) hp hv hs hu ht⟩

theorem exec_fakalvoRead_inOrder (h : ∀ x ∈ f.items, ∃ va n, x = .read va n) :
    ∃ x, ((s.undefer (.peer f.peer f.seq)).takeAck f.peer f.ack).applyReads f.dst f.items = some x ∧
      x.1.length = f.items.length ∧
      exec (.fakalvoRead f) s = .next ((x.2.sendFrame f.peer fkReadResp f.dst x.1 0 none).passed f.peer) := by
  obtain ⟨x, hx, hlen⟩ := State.applyReads_isSome (cx := f.dst) ((s.undefer (.peer f.peer f.seq)).takeAck f.peer f.ack) h
  refine ⟨x, hx, hlen, enabled_receive_inOrder hp hv hs hu ?_⟩
  rw [hx]
  rfl

theorem exec_fakalvoReadresp_inOrder (h : ∀ x ∈ f.items, ∃ data failed, x = .resp data failed) (hb : s.anyBank = false) :
    ∃ t, ((s.undefer (.peer f.peer f.seq)).takeAck f.peer f.ack).applyReplies f.peer f.items = some t ∧
      exec (.fakalvoReadresp f) s = .next (t.passed f.peer) := by
  have hd : s.deferred = [] := by simp_all [State.anyBank]
  have hb' : ((s.undefer (.peer f.peer f.seq)).takeAck f.peer f.ack).anyBank = false := by
    rw [State.takeAck_anyBank, State.undefer_of_deferred_nil _ hd, hb]
  obtain ⟨t, ht⟩ := State.applyReplies_isSome (peer := f.peer) hb' h
  exact ⟨t, ht, enabled_receive_inOrder (body := fun s => s.applyReplies f.peer f.items) hp hv hs hu ht⟩

theorem exec_fakalvoMarker_inOrder :
    ∃ t, exec (.fakalvoMarker f) s = .next t ∧ (t.stream f.peer).markerIn = some f.window ∧ t.mem = s.mem := by
  refine ⟨_, enabled_receive_inOrder hp hv hs hu rfl, ?_, ?_⟩
  · simp [State.passed]
  · simp only [State.passed, State.setStream_mem, State.takeAck_mem, State.undefer_mem]

end InOrder

theorem exec_remoteApply_write {s : State} {peer va : Nat} {st : Stream} {cx : CtxId} {data : List Byte}
    (hp : s.peer? peer = some st) (hu : Spec.unbarred s (.peer peer (2 ^ 32)) (s.itemChans cx (.write va data))) :
    exec (.remoteApply peer cx (.write va data)) s = .next ((s.undefer (.peer peer (2 ^ 32))).applyWrite cx va data) := by
  change execRemoteApply peer cx (.write va data) s = _
  rw [execRemoteApply, hp, Option.bind_some, State.gate_of_unbarred _ hu, enabled_some]

theorem exec_remoteApply_read {s : State} {peer va n : Nat} {st : Stream} {cx : CtxId} (hp : s.peer? peer = some st)
    (hu : Spec.unbarred s (.peer peer (2 ^ 32)) (s.itemChans cx (.read va n))) :
    exec (.remoteApply peer cx (.read va n)) s =
      let x := (s.undefer (.peer peer (2 ^ 32))).applyRead cx va n
      .next (x.2.sendFrame peer fkReadResp cx [x.1] 0 none) := by
  change execRemoteApply peer cx (.read va n) s = _
  rw [execRemoteApply, hp, Option.bind_some, State.gate_of_unbarred _ hu, enabled_some]

theorem exec_fakalvoRetransmit {s : State} {peer : Nat} {st : Stream} (hp : s.peer? peer = some st) (h : st.unacked ≠ []) :
    exec (.fakalvoRetransmit peer) s = .next s := by
  change execFakalvoRetransmit peer s = _
  simp [execFakalvoRetransmit, hp, h]

theorem frameSteps : Spec.FrameSteps := by
  intro s peer st hp
  refine ⟨fun _ _ _ => exec_remoteApply_write hp, fun _ _ _ => exec_remoteApply_read hp, exec_fakalvoRetransmit hp, ?frames⟩
  case frames =>
    rintro f rfl hv
    refine ⟨exec_fakalvoAck hp hv, exec_fakalvo_outOfOrder hp hv, fun hs hu => ⟨exec_fakalvoWrite_inOrder hp hv hs hu,
      exec_fakalvoRead_inOrder hp hv hs hu, fun h hsess hdef => exec_fakalvoReadresp_inOrder hp hv hs hu h ?bank,
      exec_fakalvoMarker_inOrder hp hv hs hu⟩⟩
    case bank => simp [State.anyBank, hsess, hdef]

/-! Windows. -/

/-- A frame sent changes its stream alone. -/
theorem State.sendFrame_frame (s : State) (peer kind : Nat) (cx : CtxId) (items : List FkItem) (window : Nat)
    (who : Option OwnerRef) :
    s.sendFrame peer kind cx items window who = { s with streams := (s.sendFrame peer kind cx items window who).streams } := rfl

/-- The close markers of the window that ends, to the peers of a list. -/
def State.sendMarkers (s : State) (l : List (Nat × Stream)) : State :=
  l.foldl (fun s x => s.sendFrame x.1 fkMarker ⟨0, 0⟩ [] s.win none) s

theorem State.sendMarkers_frame (s : State) (l : List (Nat × Stream)) :
    s.sendMarkers l = { s with streams := (s.sendMarkers l).streams } := by
  refine foldl_keeps (fun t : State => t = { s with streams := t.streams }) _ (fun t x ht => ?_) l s rfl
  rw [State.sendFrame_frame, ht]

theorem State.sendMarkers_win (s : State) (l : List (Nat × Stream)) : (s.sendMarkers l).win = s.win :=
  (congrArg State.win (s.sendMarkers_frame l) :)

theorem State.sendMarkers_mem (s : State) (l : List (Nat × Stream)) : (s.sendMarkers l).mem = s.mem :=
  (congrArg State.mem (s.sendMarkers_frame l) :)

theorem exec_windowAdvance {s : State} (ht : (s.win + 1) * s.winLen ≤ s.groupTime)
    (hc : ∀ x ∈ s.peers, x.2.closed s.win = true) :
    exec .windowAdvance s =
      let t := s.sendMarkers s.peers
      .next { t with win := t.win + 1 } := by
  have ht' : ¬ s.groupTime < (s.win + 1) * s.winLen := Nat.not_lt.mpr ht
  have hc' : (s.peers.all fun x => x.2.closed s.win) = true := List.all_eq_true.mpr hc
  change execWindowAdvance s = _
  simp only [execWindowAdvance, ht', hc', decide_false, Bool.not_true, Bool.or_self, Bool.false_eq_true, if_false, enabled_some]
  rfl

/-! Lost peers. -/

theorem State.postEvent_streams (s : State) (core : Nat) (cx : CtxId) (r : EventRec) :
    (s.postEvent core cx r).streams = s.streams := by
  unfold State.postEvent
  dsimp only
  split
  · split <;> rfl
  · split <;> rfl

theorem State.postEvents_streams (s : State) (l : List (Nat × CtxId)) (r : EventRec) :
    (l.foldl (fun s x => s.postEvent x.1 x.2 r) s).streams = s.streams :=
  foldl_keeps (fun t : State => t.streams = s.streams) _ (fun t x ht => (t.postEvent_streams x.1 x.2 r).trans ht) l s rfl

theorem State.postNotices_streams (s : State) (l : List Nat) (kind : Nat) (words : List Nat) :
    (l.foldl (fun s v => s.postNotice (v + 1) kind words) s).streams = s.streams :=
  foldl_keeps (fun t : State => t.streams = s.streams) (fun t v => t.postNotice (v + 1) kind words) (fun _ _ ht => ht) l s rfl

/-- Where no channel bars accesses, a peer past its time is lost. -/
theorem exec_peerLost {s : State} {peer : Nat} {st : Stream} (hp : s.peer? peer = some st)
    (ht : (st.missing + 2) * s.winLen + s.wto ≤ s.groupTime) (hb : s.anyBank = false) :
    ∃ u, exec (.peerLost peer) s = .next u ∧ u.streams.get? peer = some { st with lost := true, reads := [] } := by
  have ht' : ¬ s.groupTime < (st.missing + 2) * s.winLen + s.wto := Nat.not_lt.mpr ht
  obtain ⟨t, hf, hs⟩ := State.failReads_of_anyBank (peer := peer) (l := st.reads)
    (s := s.setStream peer { st with lost := true, reads := [] }) hb
  change ∃ u, execPeerLost peer s = _ ∧ _
  simp only [execPeerLost, hp, Option.bind_some, ht', if_false, hf, Option.map_some, enabled_some]
  refine ⟨_, rfl, ?_⟩
  rw [State.postNotices_streams, State.postEvents_streams]
  change t.streams.get? peer = _
  rw [hs]
  exact Tbl.get?_set_self ..

/-! The clock and the ports. -/

theorem exec_ptpMessage {s : State} {port : Nat} (d : Int) (h : port < 8) :
    exec (.ptpMessage port none) s = .next { s with stamps := s.stamps.set port s.groupTime } ∧
      exec (.ptpMessage port (some d)) s = .next { s with stamps := s.stamps.set port s.groupTime, ptp := s.ptp + d } := by
  have h' : ¬ 8 ≤ port := Nat.not_le.mpr h
  change execPtpMessage port none s = _ ∧ execPtpMessage port (some d) s = _
  simp only [execPtpMessage, h', if_false, enabled_some]
  exact ⟨trivial, trivial⟩

section Ports

variable {s : State} {qset queue : Nat} (hs : qset < 64) (hq : queue < 16)

include hs hq

/-- A frame that is not Fakalvo's enters its receive queue. -/
theorem exec_ethernetFrame_receive {f : List Byte} (hlo : 14 ≤ f.length) (hhi : f.length ≤ 9216)
    (ht : etherType f ≠ s.fkType (qset / 8)) :
    exec (.ethernetFrame qset queue (some f)) s = .next (s.setEth qset { s.ethSet qset with
      rx := (s.ethSet qset).rx.set queue ((s.ethSet qset).rx.get [] queue ++ [f]) }) := by
  change execEthernetFrame qset queue (some f) s = _
  simp [execEthernetFrame, Nat.not_le.mpr hs, Nat.not_le.mpr hq, Nat.not_lt.mpr hlo, Nat.not_lt.mpr hhi, ht]

/-- The oldest frame of a transmit queue leaves. -/
theorem exec_ethernetFrame_transmit {f : List Byte} {rest : List (List Byte)} (h : (s.ethSet qset).tx.get [] queue = f :: rest) :
    exec (.ethernetFrame qset queue none) s = .next (s.setEth qset { s.ethSet qset with
      tx := (s.ethSet qset).tx.put [] queue rest }) := by
  change execEthernetFrame qset queue none s = _
  simp [execEthernetFrame, Nat.not_le.mpr hs, Nat.not_le.mpr hq, h]

end Ports

theorem windowAndPortSteps : Spec.WindowAndPortSteps := by
  intro s
  refine ⟨fun ht hc => ⟨_, exec_windowAdvance ht hc,
    congrArg (· + 1) (s.sendMarkers_win ..), s.sendMarkers_mem ..⟩, fun peer st hp ht hsess hdef => ?lost,
    fun port d h => exec_ptpMessage d h, fun qset queue f hs hq => ⟨exec_ethernetFrame_receive hs hq,
      fun rest => exec_ethernetFrame_transmit hs hq⟩⟩
  case lost =>
    obtain ⟨u, hu, hl⟩ := exec_peerLost hp ht (by simp [State.anyBank, hsess, hdef])
    exact ⟨u, _, hu, hl, rfl⟩

/-- Settles O46: frames, windows and ports, event by event. -/
theorem remoteSteps : Obligations.RemoteSteps := ⟨frameSteps, windowAndPortSteps⟩

end Sys2Proof.Machine
end

section
/-! PROOFS. Launch queues, records and gangs of the dispatcher (03 R85 to R94, R450). -/

namespace Sys2Proof.Machine

open Sys2Proof Host

/-! What an access of the dispatcher leaves as it was. -/

theorem State.undefer_frame (s : State) (w : Waiter) : s.undefer w = { s with deferred := (s.undefer w).deferred } := by
  unfold State.undefer
  split <;> rfl

theorem State.undefer_ctxs (s : State) (w : Waiter) : (s.undefer w).ctxs = s.ctxs := (congrArg State.ctxs (s.undefer_frame w) :)

theorem State.undefer_qhead (s : State) (w : Waiter) (hk : List Nat) : (s.undefer w).qhead hk = s.qhead hk := by
  rw [State.undefer_frame]
  rfl

theorem State.undefer_issuerHeld (s : State) (w : Waiter) (qu : Queue) (h : QHead) :
    (s.undefer w).issuerHeld qu h = s.issuerHeld qu h := by
  rw [State.undefer_frame]
  rfl

theorem State.ctxs_of_beyondAccess {s t : State} (h : t.beyondAccess = s.beyondAccess) : t.ctxs = s.ctxs :=
  (congrArg State.ctxs h :)

theorem State.touch_ctxs (s : State) (vd hint : Nat) (keys : List Nat) : (s.touch vd hint keys).ctxs = s.ctxs :=
  State.ctxs_of_beyondAccess (s.touch_beyondAccess vd hint keys)

theorem State.walkedDie_ctxs (s : State) (die : Nat) (cx : CtxId) (va : Nat) : (s.walkedDie die cx va).ctxs = s.ctxs := by
  unfold State.walkedDie State.walkedOn
  dsimp only
  split
  · exact foldl_keeps (fun t : State => t.ctxs = s.ctxs) _ (fun t pa h => (t.touch_ctxs ..).trans h) _ s rfl
  · rfl

theorem State.headTouched_ctxs (s : State) (cx : CtxId) (header : Nat) (hk : List Nat) :
    (s.headTouched cx header hk).ctxs = s.ctxs :=
  State.ctxs_of_beyondAccess ((State.dirtyKeys_beyondAccess ..).trans (State.touch_beyondAccess ..))

theorem State.setQ32_ctxs (s : State) (hk : List Nat) (off x : Nat) : (s.setQ32 hk off x).ctxs = s.ctxs :=
  State.ctxs_of_beyondAccess (State.writeKeys_beyondAccess ..)

/-! Translation reads memory, the sealed regions, the contexts and the TLBs: a change beyond them changes no span. -/

theorem walkFrom_congr {s t : State} (hm : t.mem = s.mem) (hs : t.seals = s.seals) (va : Nat) (l : List Level) (table : Nat) :
    walkFrom t va l table = walkFrom s va l table := by
  have hr (pa n : Nat) : t.readPA pa n = s.readPA pa n := by simp only [State.readPA, hm]
  have hl (x : Leaf) : t.seal x = s.seal x := by simp only [State.seal, State.sealedPA, hs]
  induction l generalizing table with
  | nil => rfl
  | cons x l ih => simp only [walkFrom, hr, hl, ih]

theorem State.spanKeys_congr {s t : State} {cx : CtxId} (h : ∀ va, t.translate cx va = s.translate cx va) (wr : Bool)
    (fuel va n : Nat) : t.spanKeys cx wr fuel va n = s.spanKeys cx wr fuel va n := by
  induction fuel generalizing va n with
  | zero => rfl
  | succ fuel ih => simp only [State.spanKeys, h, ih]

theorem State.dropFault_span (s : State) (rec : Nat) (cx : CtxId) (va n : Nat) (wr : Bool) :
    (s.dropFault rec).span cx va n wr = s.span cx va n wr := by
  refine State.spanKeys_congr (fun va => ?_) ..
  have hw (table : Nat) := walkFrom_congr (s := s) (t := s.dropFault rec) rfl rfl va levels table
  simp only [State.translate, hw]
  rfl

/-! Queues. -/

theorem State.setQueue_mem (s : State) (cx : CtxId) (q : Nat) (x : Queue) : (s.setQueue cx q x).mem = s.mem := by
  unfold State.setQueue
  split <;> rfl

theorem State.queue?_setQueue_self {s : State} {cx : CtxId} {c : Ctx} (h : s.ctx? cx = some c) (q : Nat) (x : Queue) :
    (s.setQueue cx q x).queue? cx q = some x := by
  simp [State.setQueue, State.queue?, State.setCtx, State.ctx?, show s.ctxs.get? (cxKey cx) = some c from h]

theorem State.ctx?_of_queue? {s : State} {cx : CtxId} {q : Nat} {qu : Queue} (h : s.queue? cx q = some qu) :
    ∃ c, s.ctx? cx = some c := by
  obtain ⟨c, hc, -⟩ := Option.bind_eq_some_iff.mp h
  exact ⟨c, hc⟩

theorem State.ctx?_congr {s t : State} (h : t.ctxs = s.ctxs) (cx : CtxId) : t.ctx? cx = s.ctx? cx := by
  simp only [State.ctx?, h]

/-! Reading a record (R85). -/

/-- A queue that is served, with a record to read: its header is read, then the record at CONS. -/
theorem exec_launchRecordRead {s : State} {cx : CtxId} {q : Nat} {qu : Queue} {hk : List Nat} (hq : s.queue? cx q = some qu)
    (hp : qu.passed = false) (hf : qu.fault = none) (ht : qu.todo = none) (hh : s.headOf cx q = none)
    (hs : s.span cx qu.header 64 false = .ok hk) (hu : Spec.unbarred s (.queue cx q) (s.headChans cx qu.header hk))
    (he : (s.qhead hk).enabled = true) (hz : (s.qhead hk).fstat = 0) (hw : (s.qhead hk).waiting ≠ 0)
    (hi : s.issuerHeld qu (s.qhead hk) = false) :
    exec (.launchRecordRead cx q) s = enabled s
      ((((s.undefer (.queue cx q)).walkedDie qu.die cx qu.header).touch cx.vd 0 hk).readHead cx q qu (s.qhead hk)) := by
  change execLaunchRecordRead cx q s = _
  simp only [execLaunchRecordRead, hq, hp, hf, hh, hs, Option.isSome_none, Bool.or_self, Bool.false_eq_true, if_false]
  rw [State.gate_of_unbarred _ hu]
  simp [ht, State.undefer_qhead, State.undefer_issuerHeld, he, hz, hw, hi]

/-- A good record of a launch without roles, chip scratchpad or co-residency is taken. -/
theorem State.readHead_of_plain {s : State} {cx : CtxId} {q : Nat} {qu : Queue} {h : QHead} {keys : List Nat} {r : LaunchRec}
    {tab : RoleTable} (hs : s.span cx (h.slotVa h.cons) 128 false = .ok keys)
    (hu : Spec.unbarred s (.queue cx q) (s.keysChans false keys)) (ht : tab.count = 0) (hc : r.chip = false)
    (hr : r.coresident = false) :
    let s' := ((s.undefer (.queue cx q)).walkedDie qu.die cx (h.slotVa h.cons)).touch cx.vd 0 keys
    parseRecord (keys.map s'.readKey) = some (r, tab) → s.readHead cx q qu h = s'.takeHead cx q qu r := by
  intro s' hrec
  unfold State.readHead
  simp only [hs]
  unfold State.queueRead
  rw [State.gate_of_unbarred _ hu]
  change (match parseRecord (keys.map s'.readKey) with | none => _ | some (r, tab) => _) = _
  simp only [hrec, ht, State.admitHead, hc, hr, Bool.false_and, Bool.or_self, beq_self_eq_true, if_true, Bool.false_eq_true,
    if_false]
  rfl

/-- A launch is taken: CONS passes its record, and it stands last in its queue. -/
theorem State.takeHead_some {s : State} {cx : CtxId} {q : Nat} {qu : Queue} {hk : List Nat} {c : Ctx} (r : LaunchRec)
    (hc : s.ctx? cx = some c) (hs : s.span cx qu.header 64 true = .ok hk) :
    ∃ t id l, s.takeHead cx q qu r = some t ∧ t.launches.get? id = some l ∧ l.record = r ∧ l.qcx = cx ∧ l.queue = q ∧
      l.die = qu.die ∧ l.index = (s.qhead hk).cons ∧ l.nextGang = 0 ∧
      l.issuer = qu.notes.get? (l.index % 2 ^ (s.qhead hk).log2n) ∧ (∃ qu', t.queue? cx q = some qu' ∧ qu'.last = some id) ∧
      t.mem = ((s.headTouched cx qu.header hk).setQ32 hk offCons (l.index + 1)).mem := by
  unfold State.takeHead
  simp only [hs]
  refine ⟨_, _, _, rfl, Tbl.get?_set_self .., rfl, rfl, rfl, rfl, rfl, rfl, rfl,
    ⟨_, State.queue?_setQueue_self (c := c) ?ctx q _, rfl⟩, ?mem⟩
  case ctx =>
    rw [← hc]
    exact State.ctx?_congr ((State.setQ32_ctxs ..).trans (State.headTouched_ctxs ..)) cx
  case mem => exact State.setQueue_mem ..

/-! Faults that are not mended (R450). -/

theorem exec_dispatchFaultResolve_header {s : State} {rec q : Nat} {f : FaultRec} {cx : CtxId} (hf : s.faults.get? rec = some f)
    (hw : f.who = .queue cx q true) : exec (.dispatchFaultResolve rec) s = .next ((s.dropFault rec).passQueue cx q) := by
  change execDispatchFaultResolve rec s = _
  simp only [execDispatchFaultResolve, hf, hw, enabled_some]

/-- The record is passed with FSTAT 3, where no LAUNCH waits for it. -/
theorem exec_dispatchFaultResolve_record {s : State} {rec q : Nat} {f : FaultRec} {cx : CtxId} {qu : Queue} {hk : List Nat}
    (hf : s.faults.get? rec = some f) (hw : f.who = .queue cx q false) (hq : s.queue? cx q = some qu)
    (hs : s.span cx qu.header 64 true = .ok hk) (hn : qu.notes.get? ((s.qhead hk).cons % 2 ^ (s.qhead hk).log2n) = none) :
    exec (.dispatchFaultResolve rec) s = .next ((((((s.dropFault rec).headTouched cx qu.header hk).setQ32 hk offFidx
      (s.qhead hk).cons).setFstat hk 3).setQ32 hk offCons ((s.qhead hk).cons + 1)).setQueue cx q { qu with
        notes := qu.notes.erase ((s.qhead hk).cons % 2 ^ (s.qhead hk).log2n), fault := none, todo := none }) := by
  have hq' : (s.dropFault rec).queue? cx q = some qu := hq
  have hs' : (s.dropFault rec).span cx qu.header 64 true = .ok hk := (s.dropFault_span ..).trans hs
  have hh : (s.dropFault rec).qhead hk = s.qhead hk := rfl
  change execDispatchFaultResolve rec s = _
  simp only [execDispatchFaultResolve, hf, hw, hq', Option.bind_some, State.failHead, hs', hh, hn, enabled_some]

/-! Placing (R87, R88). -/

theorem State.placeNext_of_placesOk {s : State} {id : Nat} {l : Launch} {cores bases : List Nat} (hl : s.launch? id = some l)
    (hc : s.chooseCores l = some cores) (hp : s.placesOk l.record cores bases = true) :
    s.placeNext id (some bases) = some (s.placeNew id cores bases) := by
  simp only [State.placeNext, hl, hc, Option.bind_some, Option.getD_some, hp, if_true]

theorem State.placeMany_one {s t : State} {id size : Nat} {bases : List Nat}
    (h : s.placeNext id (some (bases.take size)) = some t) : s.placeMany id size 1 (some bases) = some t := by
  simp only [State.placeMany, Option.map_some, h]

theorem exec_gangPlace {s s' t : State} {die id : Nat} {l : Launch} {bases : List Nat} (hn : s.nextHead die = some (id, l, s'))
    (hr : l.record.coresident = false) (ht : s'.placeNext id (some bases) = some t) :
    exec (.gangPlace die bases) s = .next (t.noteServed l) := by
  change execGangPlace die bases s = _
  simp only [execGangPlace, hn, hr, ht, Bool.false_eq_true, if_false, Option.map_some, enabled_some]

theorem exec_coresidentPlace {s s' t : State} {id : Nat} {l l' : Launch} {bases : List Nat}
    (hh : s.headOf l.qcx l.queue = some (id, l)) (hn : s.nextHead l.die = some (id, l', s')) (hr : l.record.coresident = true)
    (ht : s'.placeMany id l.record.gang l.record.gangs (some bases) = some t) :
    exec (.coresidentPlace l.qcx l.queue bases) s = .next (t.noteServed l) := by
  change execCoresidentPlace l.qcx l.queue bases s = _
  simp only [execCoresidentPlace, hh, hn, hr, ht, bne_self_eq_false, Bool.not_true, Bool.or_self, Bool.false_eq_true, if_false,
    Option.map_some, enabled_some]

theorem dispatcherSteps : Spec.DispatcherSteps := by
  intro s
  refine ⟨?read, fun rec q f cx hf => ⟨exec_dispatchFaultResolve_header hf, fun qu hk => exec_dispatchFaultResolve_record hf⟩,
    fun s' die id l bases cores hn hl hc => ⟨fun hr hp => exec_gangPlace hn hr (State.placeNext_of_placesOk hl hc hp),
      fun hr hh hd => ?whole⟩⟩
  case read =>
    intro cx q qu hk hk' keys r tab hq hp hf ht hh hs hu h he hz hw hi s₁ hs₁ hu₁ s₂ hrec hcount hchip hco hs₂
    obtain ⟨c, hc⟩ := State.ctx?_of_queue? hq
    have hc₂ : s₂.ctx? cx = some c := by
      rw [← hc]
      refine State.ctx?_congr ?_ cx
      simp only [s₂, s₁, State.touch_ctxs, State.walkedDie_ctxs, State.undefer_ctxs]
    obtain ⟨t, id, l, htake, hl⟩ := State.takeHead_some (q := q) r hc₂ hs₂
    refine ⟨t, id, l, ?_, hl⟩
    rw [exec_launchRecordRead hq hp hf ht hh hs hu he hz hw hi, State.readHead_of_plain hs₁ hu₁ hcount hchip hco hrec, htake,
      enabled_some]
  case whole =>
    subst hd
    refine ⟨fun h1 hp => ?_, fun t ht => exec_coresidentPlace hh hn hr ht⟩
    refine exec_coresidentPlace hh hn hr ?_
    rw [h1]
    exact State.placeMany_one (State.placeNext_of_placesOk hl hc hp)

end Sys2Proof.Machine
end

section
/-! PROOFS. Gangs, the frame class, the watchdog and timeouts of commands (03 R86, R89 to R93; 09 R271). -/

namespace Sys2Proof.Machine

open Sys2Proof Host

/-! Retiring. -/

theorem State.undefer_launch? (s : State) (w : Waiter) (id : Nat) : (s.undefer w).launch? id = s.launch? id := by
  rw [State.undefer_frame]
  rfl

theorem State.dropGang_launch? (s : State) (gang : Nat) (g : Gang) (id : Nat) : (s.dropGang gang g).launch? id = s.launch? id :=
  foldl_keeps (fun t : State => t.launch? id = s.launch? id) (fun t k => t.setCore k ((t.coreOf k).release gang)) (fun _ _ h => h)
    g.cores s rfl

/-- A gang with nothing left is gone, once no channel bars what its retirement reaches. -/
theorem exec_gangRetire {s : State} {gang : Nat} {g : Gang} (hg : s.gang? gang = some g) (hd : s.gangDone gang g = true)
    (hu : Spec.unbarred s (.work g.launch) (s.retireChans g)) :
    exec (.gangRetire gang) s = enabled s ((s.undefer (.work g.launch)).retireGang gang g) := by
  change execGangRetire gang s = _
  simp only [execGangRetire, hg, hd, if_true]
  rw [State.gate_of_unbarred _ hu]

/-- A retirement that completes no launch reaches no channel. -/
theorem State.retireChans_unbarred {s : State} {g : Gang} {l : Launch} (hl : s.launch? g.launch = some l)
    (h : l.draw.isSome = true ∨ l.retired + 1 ≠ l.record.gangs) : Spec.unbarred s (.work g.launch) (s.retireChans g) := by
  have hn : (l.draw.isNone && l.retired + 1 == l.record.gangs) = false := by
    rcases h with h | h
    · simp [Option.isSome_iff_ne_none.mp h]
    · simp [h]
  simp [Spec.unbarred, State.retireChans, hl, hn]

/-- A launch without DONEADDR, in a queue whose header may be written, counts in RETIRED and ends. -/
theorem State.completeLaunch_of_span {s : State} {id : Nat} {l : Launch} {qu : Queue} {hk : List Nat}
    (h0 : l.record.doneAddr = 0) (hq : s.queue? l.qcx l.queue = some qu) (hs : s.span l.qcx qu.header 64 true = .ok hk) :
    s.completeLaunch id l = some (((s.headTouched l.qcx qu.header hk).setQ32 hk offRetired ((s.qhead hk).retired + 1)).endLaunch
      id l) := by
  simp only [State.completeLaunch, State.storeDone, h0, beq_self_eq_true, if_true, State.countRetired, hq, hs]

/-- The state in which a gang has retired and its launch has counted it. -/
def State.gangGone (s : State) (gang : Nat) (g : Gang) (l : Launch) : State :=
  let t := (s.undefer (.work g.launch)).dropGang gang g
  { t with launches := t.launches.set g.launch { l with retired := l.retired + 1 } }

section Retire

variable {s : State} {gang : Nat} {g : Gang} {l : Launch} (hg : s.gang? gang = some g) (hl : s.launch? g.launch = some l)
  (hd : s.gangDone gang g = true)

include hl in
/-- A pixel team leaves its DRAW; the last gang of a launch completes it. -/
theorem State.retireGang_undefer :
    (s.undefer (.work g.launch)).retireGang gang g =
      if l.draw.isSome then some ((s.gangGone gang g l).pixelGone gang)
      else if l.retired + 1 == l.record.gangs then
        (s.gangGone gang g l).completeLaunch g.launch { l with retired := l.retired + 1 }
      else some (s.gangGone gang g l) := by
  unfold State.retireGang
  simp only [State.dropGang_launch?, State.undefer_launch?, hl]
  rfl

include hg hl hd

theorem exec_gangRetire_draw (hw : l.draw.isSome = true) :
    exec (.gangRetire gang) s = .next ((s.gangGone gang g l).pixelGone gang) := by
  rw [exec_gangRetire hg hd (State.retireChans_unbarred hl (.inl hw)), State.retireGang_undefer hl, if_pos hw, enabled_some]

theorem exec_gangRetire_notLast (hw : l.draw = none) (hr : l.retired + 1 ≠ l.record.gangs) :
    exec (.gangRetire gang) s = .next (s.gangGone gang g l) := by
  rw [exec_gangRetire hg hd (State.retireChans_unbarred hl (.inr hr)), State.retireGang_undefer hl]
  simp [hw, hr]

theorem exec_gangRetire_last (hw : l.draw = none) (hr : l.retired + 1 = l.record.gangs)
    (hu : Spec.unbarred s (.work g.launch) (s.retireChans g)) :
    exec (.gangRetire gang) s =
      enabled s ((s.gangGone gang g l).completeLaunch g.launch { l with retired := l.retired + 1 }) := by
  rw [exec_gangRetire hg hd hu, State.retireGang_undefer hl]
  simp [hw, hr]

end Retire

/-! Saving and restoring. -/

theorem State.preemptNow_of_ready {s : State} {gang : Nat} {g : Gang} (hr : g.resident = true)
    (h : ∀ x ∈ s.together gang g true, s.saveReady x.1 = true) :
    s.preemptNow gang g = some ((s.together gang g true).foldl (fun s x => s.saveGang x.1 x.2) s) := by
  have hall := List.all_eq_true.mpr h
  simp only [State.preemptNow, hr, hall, Bool.and_self, if_true]

theorem State.preempt_of_ready {s : State} {gang : Nat} {g : Gang} (hr : g.resident = true)
    (h : ∀ x ∈ s.together gang g true, s.saveReady x.1 = true) :
    s.preempt gang g = some ((s.together gang g true).foldl (fun s x => s.saveGang x.1 x.2) s) := by
  simp only [State.preempt, State.preemptNow_of_ready hr h]

theorem State.preemptNow_of_notReady {s : State} {gang : Nat} {g : Gang}
    (h : ∃ x ∈ s.together gang g true, s.saveReady x.1 = false) : s.preemptNow gang g = none := by
  have hall : ((s.together gang g true).all fun x => s.saveReady x.1) = false := List.all_eq_false.mpr (by simpa using h)
  simp only [State.preemptNow, hall, Bool.and_false, Bool.false_eq_true, if_false]

theorem State.chooseToSave_of_new {s : State} {l : Tbl Gang} (h : ∃ x ∈ l, x.2.toSave = false) :
    s.chooseToSave l = some (l.foldl (fun s x => s.setGang x.1 { x.2 with toSave := true }) s) := by
  have hall : (l.all fun x => x.2.toSave) = false := List.all_eq_false.mpr (by simpa using h)
  simp only [State.chooseToSave, hall, Bool.false_eq_true, if_false]

theorem State.preempt_of_notReady {s : State} {gang : Nat} {g : Gang} (hr : g.resident = true)
    (h : ∃ x ∈ s.together gang g true, s.saveReady x.1 = false) (hn : ∃ x ∈ s.together gang g true, x.2.toSave = false) :
    s.preempt gang g =
      some ((s.together gang g true).foldl (fun s x => s.setGang x.1 { x.2 with toSave := true }) s) := by
  simp only [State.preempt, State.preemptNow_of_notReady h, hr, if_true, State.chooseToSave_of_new hn]

theorem exec_gangPreempt {s : State} {gang : Nat} {g : Gang} (hg : s.gang? gang = some g) :
    exec (.gangPreempt gang) s = enabled s (s.preempt gang g) := by
  change execGangPreempt gang s = _
  simp only [execGangPreempt, hg, Option.bind_some]

/-- A gang of one core returns to a core that can take it. -/
theorem State.restoreGang_of_coreTakes {s : State} {gang core base : Nat} {g : Gang} {l : Launch} (h1 : g.size = 1)
    (hr : s.restorable l [core] = true) (ht : s.coreTakes gang g l.record.units 0 core base = true) :
    s.restoreGang gang g l [core] [base] =
      some (((s.setCore core ((s.coreOf core).allotTo gang base l.record.units fun c => Config.freeBool (s.freeIx c))).reseat core g
        (g.savedOf 0)).setGang gang { g with resident := true, cores := [core], bases := [base], saved := [], savedMx := [] }) := by
  simp [State.restoreGang, State.restoreCores, h1, hr, ht]

theorem exec_gangRestore_alone {s t : State} {gang core base : Nat} {g : Gang} {l : Launch} (hg : s.gang? gang = some g)
    (hl : s.launch? g.launch = some l) (hr : g.resident = false) (hh : s.restoreHeld l = false)
    (ha : s.together gang g false = [(gang, g)]) (h1 : g.size = 1) (ht : s.restoreGang gang g l [core] [base] = some t) :
    exec (.gangRestore gang [core] [base]) s = .next t := by
  change execGangRestore gang [core] [base] s = _
  simp [execGangRestore, hg, hl, hr, hh, ha, State.restoreAll, h1, ht]

theorem gangSteps : Spec.GangSteps := by
  intro s gang g l hg hl
  refine ⟨fun hd => ⟨exec_gangRetire_draw hg hl hd, exec_gangRetire_notLast hg hl hd, fun qu hk hw hr hu h0 hq hs => ?last⟩,
    fun hr => ⟨fun h => ?ready, fun h hn => ?notReady⟩, fun core base hr hh ha h1 hp ht => ?restore⟩
  case last =>
    exact (exec_gangRetire_last hg hl hd hw hr hu).trans (congrArg (enabled s)
      (State.completeLaunch_of_span (l := { l with retired := l.retired + 1 }) h0 hq hs))
  case ready => rw [exec_gangPreempt hg, State.preempt_of_ready hr h, enabled_some]
  case notReady => rw [exec_gangPreempt hg, State.preempt_of_notReady hr h hn, enabled_some]
  case restore => exact exec_gangRestore_alone hg hl hr hh ha h1 (State.restoreGang_of_coreTakes h1 hp ht)

/-! The frame class and the watchdog. -/

theorem exec_frameDeadline {s : State} {part d : Nat} {p : Part} (hp : s.parts.get? part = some p) (hh : s.frameHead p = none)
    (hd : p.deadline = some d) (hn : d ≤ s.ns) :
    exec (.frameDeadline part) s = .next { s with parts := s.parts.set part { p with
      deadline := some (d + frPeriod p.frctl)
      misses := if s.frameWaiting part none = [] then p.misses else p.misses + 1 } } := by
  change execFrameDeadline part s = _
  simp only [execFrameDeadline, hp, hh, hd, Nat.not_lt.mpr hn, if_false, enabled_some]
  cases s.frameWaiting part none <;> rfl

/-- Which of two the fold keeps, it is one of the list. -/
theorem foldl_pick_mem {α : Type} (f : α → α → Bool) (l : List α) (a : α) :
    l.foldl (fun a b => if f a b then b else a) a ∈ a :: l := by
  induction l generalizing a with
  | nil => exact List.mem_singleton_self a
  | cons b l ih =>
    rw [List.foldl_cons]
    split
    · exact List.mem_cons_of_mem _ (ih b)
    · rcases List.mem_cons.mp (ih a) with h | h
      · rw [h]
        exact List.mem_cons_self
      · exact List.mem_cons_of_mem _ (List.mem_cons_of_mem _ h)

/-- A victim is resident. -/
theorem State.victim_resident {s : State} {part die : Nat} {x : Nat × Gang} (h : s.victim part die = some x) :
    x.2.resident = true := by
  unfold State.victim at h
  dsimp only at h
  split at h
  · cases h
  · rename_i a r hl
    cases h
    have hm := foldl_pick_mem
      (fun a b : Nat × Nat × Gang => b.1 < a.1 || (b.1 == a.1 && a.2.2.placed < b.2.2.placed)) r a
    rw [← hl] at hm
    obtain ⟨y, -, hy⟩ := List.mem_filterMap.mp hm
    split at hy
    · split at hy
      · rename_i hc
        simp only [Bool.and_eq_true] at hc
        obtain ⟨⟨⟨hres, -⟩, -⟩, -⟩ := hc
        rw [← Option.some.inj hy]
        exact hres
      · cases hy
    · cases hy

theorem exec_framePreempt {s : State} {part die : Nat} {p : Part} {x : Nat × Gang} (hp : s.parts.get? part = some p)
    (hf : s.framePressed p = true) (hn : s.framesFit (s.frameWaiting part (some die)) = false) (hv : s.victim part die = some x) :
    exec (.framePreempt part die) s = enabled s (s.preempt x.1 x.2) := by
  change execFramePreempt part die s = _
  simp only [execFramePreempt, hp, hf, hn, hv, Bool.not_false, Bool.and_self, if_true, Option.bind_some]

theorem exec_progressWatchdog {s : State} {gang : Nat} {g : Gang} {l : Launch} (hg : s.gang? gang = some g)
    (hl : s.launch? g.launch = some l) (hr : g.resident = true) (hf : g.faultStop = false) (ht : ∃ x ∈ s.teams, x.2.gang = gang)
    (hw : g.lastFire + s.wdtOf l.cx ≤ s.ns) (hi : ∀ x ∈ s.teams, x.2.gang = gang → x.2.lastIssue + s.wdtOf l.cx ≤ s.ns) :
    exec (.progressWatchdog gang) s = .next ((s.setGang gang { g with lastFire := s.ns }).fireWatchdog l g) := by
  have hne : (s.teams.filter fun x => x.2.gang == gang).isEmpty = false := by
    obtain ⟨x, hx, hxg⟩ := ht
    refine List.isEmpty_eq_false_iff_exists_mem.mpr ⟨x, List.mem_filter.mpr ⟨hx, by simp [hxg]⟩⟩
  have hidle : ((s.teams.filter fun x => x.2.gang == gang).all fun x => x.2.lastIssue + s.wdtOf l.cx ≤ s.ns) = true :=
    List.all_eq_true.mpr fun x hx =>
      decide_eq_true (hi x (List.mem_of_mem_filter hx) (by simpa using List.of_mem_filter hx))
  change execProgressWatchdog gang s = _
  simp only [execProgressWatchdog, hg, hl, hr, hf, hne, hidle, hw, decide_true, Bool.not_true, Bool.or_self, Bool.false_eq_true,
    if_false, enabled_some]

theorem frameAndWatchdogSteps : Spec.FrameAndWatchdogSteps := by
  intro s
  refine ⟨fun _ _ _ => exec_frameDeadline, fun part die p x hp hf hn hv hr => ?preempt, fun _ _ _ => exec_progressWatchdog⟩
  rw [exec_framePreempt hp hf hn hv, State.preempt_of_ready (State.victim_resident hv) hr, enabled_some]

/-! Commands past their limit (R93). -/

/-- A record changes the cores and what Renweaz has been told, and nothing else. -/
theorem State.postEvent_frame (s : State) (core : Nat) (cx : CtxId) (r : EventRec) :
    s.postEvent core cx r =
      { s with cores := (s.postEvent core cx r).cores, toRenweaz := (s.postEvent core cx r).toRenweaz } := by
  unfold State.postEvent
  dsimp only
  split
  · split <;> rfl
  · split <;> rfl

theorem State.postFiring_frame (s : State) (core : Nat) (cx : CtxId) (r : EventRec) :
    s.postFiring core cx r =
      { s with cores := (s.postFiring core cx r).cores, toRenweaz := (s.postFiring core cx r).toRenweaz } := by
  unfold State.postFiring
  dsimp only
  rw [State.postEvent_frame]
  split <;> rfl

theorem State.postFiring_mem (s : State) (core : Nat) (cx : CtxId) (r : EventRec) : (s.postFiring core cx r).mem = s.mem :=
  (congrArg State.mem (s.postFiring_frame core cx r) :)

theorem State.postFiring_ops (s : State) (core : Nat) (cx : CtxId) (r : EventRec) : (s.postFiring core cx r).ops = s.ops :=
  (congrArg State.ops (s.postFiring_frame core cx r) :)

theorem State.postFiring_filters (s : State) (core : Nat) (cx : CtxId) (r : EventRec) :
    (s.postFiring core cx r).filters = s.filters := (congrArg State.filters (s.postFiring_frame core cx r) :)

theorem State.postFiring_rcmds (s : State) (core : Nat) (cx : CtxId) (r : EventRec) :
    (s.postFiring core cx r).rcmds = s.rcmds := (congrArg State.rcmds (s.postFiring_frame core cx r) :)

theorem State.postFiring_scmds (s : State) (core : Nat) (cx : CtxId) (r : EventRec) :
    (s.postFiring core cx r).scmds = s.scmds := (congrArg State.scmds (s.postFiring_frame core cx r) :)

theorem State.opTimeout_fires {s : State} (id : Nat) {o : EngOp} (hl : o.late = false) (hp : s.past o.cx o.began = true)
    (hv : s.opLive o = true) (hw : o.work.isCopy = true ∨ o.work.isFetch = true) :
    ∃ t, s.opTimeout id o = some t ∧ t.ops.get? id = some { o with late := true } ∧ t.mem = s.mem := by
  have hset (r : EventRec) : ((s.setOp id { o with late := true }).postFiring o.core o.cx r).ops.get? id =
      some { o with late := true } := by
    rw [State.postFiring_ops]
    exact Tbl.get?_set_self ..
  unfold State.opTimeout
  simp only [hl, hp, hv, Bool.not_true, Bool.or_self, Bool.false_eq_true, if_false]
  cases hk : o.work with
  | copy | fetch => exact ⟨_, rfl, by rw [← hk]; exact hset _, State.postFiring_mem ..⟩
  | sred | bank | resolve => simp [hk, OpWork.isCopy, OpWork.isFetch] at hw

theorem State.filterTimeout_fires {s : State} (req : Nat) {q : FilterReq} (hl : q.late = false)
    (hp : s.past q.cx q.began = true) :
    ∃ t, s.filterTimeout q.stack req q = some t ∧ t.filters.get? req = some { q with late := true } ∧ t.mem = s.mem := by
  unfold State.filterTimeout
  simp only [hl, hp, bne_self_eq_false, Bool.not_true, Bool.or_self, Bool.false_eq_true, if_false]
  refine ⟨_, rfl, ?_, State.postFiring_mem ..⟩
  rw [State.postFiring_filters]
  exact Tbl.get?_set_self ..

theorem State.rasterTimeout_fires {s : State} (id : Nat) {c : RasterCmd} (hl : c.late = false)
    (hp : s.past c.cx c.began = true) (hw : ∀ a b d, c.work ≠ .done a b d) :
    ∃ t, s.rasterTimeout c.die id c = some t ∧ t.rcmds.get? id = some { c with late := true } ∧ t.mem = s.mem := by
  unfold State.rasterTimeout
  -- A command that is not done, by hw, takes the last case of the match.
  simp only [hl, hp, bne_self_eq_false, Bool.not_true, Bool.or_self, Bool.false_eq_true, if_false]
  refine ⟨_, rfl, ?_, State.postFiring_mem ..⟩
  rw [State.postFiring_rcmds]
  exact Tbl.get?_set_self ..

theorem State.stackTimeout_fires {s : State} (id : Nat) {c : StackCmd} (hl : c.late = false)
    (hp : s.past c.cx c.began = true) :
    ∃ t, s.stackTimeout c.stack id c = some t ∧ t.scmds.get? id = some { c with late := true } ∧ t.mem = s.mem := by
  unfold State.stackTimeout
  simp only [hl, hp, bne_self_eq_false, Bool.not_true, Bool.or_self, Bool.false_eq_true, if_false]
  refine ⟨_, rfl, ?_, State.postFiring_mem ..⟩
  rw [State.postFiring_scmds]
  exact Tbl.get?_set_self ..

theorem State.rayTimeout_ends {s : State} (id : Nat) {r : Ray} {g : Gang} (hp : ∀ x, r.place ≠ .posting x)
    (hg : s.gang? r.gang = some g) (hr : g.resident = true) (ht : s.past r.cx r.began = true) :
    s.rayTimeout id r = some (s.errorRay id r 5 0) := by
  unfold State.rayTimeout
  split
  · exact absurd ‹_› (hp _)
  · simp only [hg, hr, ht, Bool.and_self, if_true]

/-! What a timeout answers is the step's, by the command's kind. -/

theorem exec_commandTimeout_op {s t : State} {id : Nat} {o : EngOp} (ho : s.ops.get? id = some o)
    (ht : s.opTimeout id o = some t) : exec (.commandTimeout (.op id)) s = .next t := by
  change execCommandTimeout (.op id) s = _
  simp only [execCommandTimeout, ho, Option.bind_some, ht, enabled_some]

theorem exec_commandTimeout_filter {s t : State} {stack req : Nat} {q : FilterReq} (hq : s.filters.get? req = some q)
    (ht : s.filterTimeout stack req q = some t) : exec (.commandTimeout (.filter stack req)) s = .next t := by
  change execCommandTimeout (.filter stack req) s = _
  simp only [execCommandTimeout, hq, Option.bind_some, ht, enabled_some]

theorem exec_commandTimeout_raster {s t : State} {die id : Nat} {c : RasterCmd} (hc : s.rcmds.get? id = some c)
    (ht : s.rasterTimeout die id c = some t) : exec (.commandTimeout (.raster die id)) s = .next t := by
  change execCommandTimeout (.raster die id) s = _
  simp only [execCommandTimeout, hc, Option.bind_some, ht, enabled_some]

theorem exec_commandTimeout_stack {s t : State} {stack id : Nat} {c : StackCmd} (hc : s.scmds.get? id = some c)
    (ht : s.stackTimeout stack id c = some t) : exec (.commandTimeout (.stackCmd stack id)) s = .next t := by
  change execCommandTimeout (.stackCmd stack id) s = _
  simp only [execCommandTimeout, hc, Option.bind_some, ht, enabled_some]

theorem exec_commandTimeout_ray {s t : State} {id : Nat} {r : Ray} (hr : s.rays.get? id = some r)
    (ht : s.rayTimeout id r = some t) : exec (.commandTimeout (.ray id)) s = .next t := by
  change execCommandTimeout (.ray id) s = _
  simp only [execCommandTimeout, hr, Option.bind_some, ht, enabled_some]

end Sys2Proof.Machine
end

section
/-! PROOFS. What a reset of a context leaves of it: nothing (03 R94). -/

namespace Sys2Proof.Machine

open Sys2Proof Host

/-! Tables. -/

theorem Tbl.erase_eq_filter {α : Type} (t : Tbl α) (n : Nat) : t.erase n = t.filter fun x => x.1 != n := by
  induction t with
  | nil => rfl
  | cons x t ih =>
    rw [Tbl.erase, List.filter_cons]
    split <;> simp_all

theorem Tbl.mem_erase_iff {α : Type} {t : Tbl α} {n : Nat} {x : Nat × α} : x ∈ t.erase n ↔ x ∈ t ∧ x.1 ≠ n := by
  rw [Tbl.erase_eq_filter, List.mem_filter, bne_iff_ne]

theorem Tbl.get?_map {α β : Type} (f : α → β) (t : Tbl α) (n : Nat) :
    Tbl.get? (t.map fun x => (x.1, f x.2)) n = (t.get? n).map f := by
  induction t with
  | nil => rfl
  | cons x t ih =>
    rw [List.map_cons, Tbl.get?, Tbl.get?]
    split
    · rfl
    · exact ih

theorem Tbl.mem_of_get? {α : Type} {t : Tbl α} {n : Nat} {x : α} (h : t.get? n = some x) : (n, x) ∈ t := by
  induction t with
  | nil => cases h
  | cons y t ih =>
    rw [Tbl.get?] at h
    split at h
    · rename_i hk
      have hk : y.1 = n := by simpa using hk
      cases h
      rw [← hk]
      exact List.mem_cons_self
    · exact List.mem_cons_of_mem _ (ih h)

/-! Launches and commands, by the contexts that they belong to. -/

/-- The contexts of the launches and commands that a state holds, in the order of its tables. -/
structure WorkView where
  launches : List CtxId
  ops : List CtxId
  stack : List CtxId
  raster : List CtxId

def State.workView (s : State) : WorkView :=
  { launches := s.launches.map (·.2.cx), ops := s.ops.map (·.2.cx), stack := s.scmds.map (·.2.cx)
    raster := s.rcmds.map (·.2.cx) }

theorem State.workView_of_beyondAccess {s t : State} (h : t.beyondAccess = s.beyondAccess) : t.workView = s.workView :=
  (congrArg State.workView h :)

theorem State.workView_foldl {α : Type} {f : State → α → State} (hf : ∀ s x, (f s x).workView = s.workView) (l : List α)
    (s : State) : (l.foldl f s).workView = s.workView :=
  foldl_keeps (fun t => t.workView = s.workView) f (fun t x h => (hf t x).trans h) l s rfl

theorem State.postEvent_workView (s : State) (core : Nat) (cx : CtxId) (r : EventRec) :
    (s.postEvent core cx r).workView = s.workView := (congrArg State.workView (s.postEvent_frame core cx r) :)

theorem State.abortRecord_workView (s : State) (core : Nat) (cx : CtxId) (tag : W64) (src unit : Nat) :
    (s.abortRecord core cx tag src unit).workView = s.workView := State.postEvent_workView ..

/-! Step 2: the context's launches are gone with its gangs. -/

theorem State.killGangs_launches (s : State) (cx : CtxId) : cx ∉ (s.killGangs cx).workView.launches := by
  unfold State.killGangs
  dsimp only
  rw [State.workView_foldl]
  · simp [State.workView]
  · intro s x
    split
    · exact State.postEvent_workView ..
    · rfl

/-! Step 3: its operations and commands are aborted. -/

theorem State.putKeys_beyondAccess (s : State) (keys : List Nat) (bs : List Byte) :
    (s.putKeys keys bs).beyondAccess = s.beyondAccess :=
  State.beyondAccess_foldl (fun s (y : Nat × Byte) => s.writeKey_beyondAccess y.1 y.2) (keys.zip bs) s

theorem State.scribbleVa_beyondAccess (s : State) (cx : CtxId) (va n : Nat) :
    (s.scribbleVa cx va n).beyondAccess = s.beyondAccess := by
  unfold State.scribbleVa
  split
  · exact State.putKeys_beyondAccess ..
  · rfl

theorem State.scribbleRanges_beyondAccess (s : State) (cx : CtxId) (l : List Range) :
    (l.foldl (fun s r => if r.write then s.scribbleVa cx r.base r.len else s) s).beyondAccess = s.beyondAccess := by
  refine State.beyondAccess_foldl (fun s r => ?_) l s
  split
  · exact State.scribbleVa_beyondAccess ..
  · rfl

theorem State.abortWrites_beyondAccess (s : State) (o : EngOp) : (s.abortWrites o).beyondAccess = s.beyondAccess := by
  unfold State.abortWrites
  split
  · rfl
  · split
    · exact State.putKeys_beyondAccess ..
    · exact State.scribbleVa_beyondAccess ..
    · exact s.scribbleRanges_beyondAccess o.cx o.ranges
    · exact s.scribbleRanges_beyondAccess o.cx o.ranges
    · rfl

/-- One operation is aborted, with its record: the step that State.abortOps makes of each. -/
def State.abortOne (s : State) (cx : CtxId) (x : Nat × EngOp) : State :=
  let s := (s.abortWrites x.2).abortOp x.1
  match x.2.work with
  | .copy .. => s.abortRecord x.2.core cx 0 2 x.2.core
  | .fetch _ => (s.dropFills [x.1]).abortRecord x.2.core cx 0 3 x.2.core
  | _ => s

theorem State.abortOps_eq_foldl (s : State) (cx : CtxId) :
    s.abortOps cx = (s.ops.filter fun x => x.2.cx == cx).foldl (fun s x => s.abortOne cx x) s := rfl

theorem State.abortOne_frame (s : State) (cx : CtxId) (x : Nat × EngOp) :
    (s.abortOne cx x).launches = s.launches ∧ (s.abortOne cx x).ops = s.ops.erase x.1 := by
  have hw := s.abortWrites_beyondAccess x.2
  have h : (s.abortWrites x.2).launches = s.launches ∧ (s.abortWrites x.2).ops.erase x.1 = s.ops.erase x.1 :=
    ⟨(congrArg State.launches hw :), (congrArg (·.ops.erase x.1) hw :)⟩
  unfold State.abortOne State.abortRecord
  dsimp only
  split
  · rw [State.postEvent_frame]
    exact h
  · rw [State.postEvent_frame]
    exact h
  · exact h

theorem State.abortOps_launches (s : State) (cx : CtxId) : (s.abortOps cx).launches = s.launches := by
  rw [State.abortOps_eq_foldl]
  exact foldl_keeps (fun t : State => t.launches = s.launches) _ (fun t x h => (t.abortOne_frame cx x).1.trans h) _ s rfl

theorem State.foldl_abortOne_ops (cx : CtxId) (l : Tbl EngOp) (s : State) {y : Nat × EngOp}
    (h : y ∈ (l.foldl (fun s x => s.abortOne cx x) s).ops) : y ∈ s.ops ∧ ∀ x ∈ l, y.1 ≠ x.1 := by
  induction l generalizing s with
  | nil => exact ⟨h, fun _ hx => by cases hx⟩
  | cons x l ih =>
    obtain ⟨hs, hl⟩ := ih _ h
    rw [(s.abortOne_frame cx x).2, Tbl.mem_erase_iff] at hs
    refine ⟨hs.1, fun z hz => ?_⟩
    rcases List.mem_cons.mp hz with rfl | hz
    · exact hs.2
    · exact hl z hz

theorem State.abortOps_ops (s : State) (cx : CtxId) : cx ∉ (s.abortOps cx).workView.ops := by
  intro h
  obtain ⟨y, hy, hcx⟩ := List.mem_map.mp h
  rw [State.abortOps_eq_foldl] at hy
  obtain ⟨hs, hl⟩ := State.foldl_abortOne_ops cx _ s hy
  exact hl y (List.mem_filter.mpr ⟨hs, by simp [hcx]⟩) rfl

/-- The commands of the context are gone; launches, operations and the commands of others stay. -/
theorem State.abortCommands_workView (s : State) (cx : CtxId) :
    (s.abortCommands cx).workView = { s.workView with
      stack := (s.scmds.filter fun x => x.2.cx != cx).map (·.2.cx)
      raster := (s.rcmds.filter fun x => x.2.cx != cx).map (·.2.cx) } := by
  unfold State.abortCommands
  iterate 4 refine (State.workView_foldl (fun s x => State.abortRecord_workView ..) _ _).trans ?_
  rfl

/-! Nothing of the context is left in the view, and the steps behind keep it so. -/

/-- No launch and no command of the view belongs to the context. -/
def WorkView.without (v : WorkView) (cx : CtxId) : Prop := cx ∉ v.launches ∧ cx ∉ v.ops ∧ cx ∉ v.stack ∧ cx ∉ v.raster

theorem State.abortAll_without (s : State) (cx : CtxId) :
    (((s.killGangs cx).abortOps cx).abortCommands cx).workView.without cx := by
  rw [State.abortCommands_workView]
  refine ⟨?launches, (s.killGangs cx).abortOps_ops cx, by simp, by simp⟩
  have h := s.killGangs_launches cx
  rw [State.workView] at h
  rw [State.workView]
  dsimp only at h ⊢
  rwa [State.abortOps_launches]

theorem State.freeCtl_workView (s : State) (core : Nat) : (s.freeCtl core).workView = s.workView := by
  have hd : (s.drainCtl core).workView = s.workView := State.workView_of_beyondAccess (s.drainCtl_beyondAccess core)
  unfold State.freeCtl
  refine (State.workView_foldl (fun s x => State.postEvent_workView ..) _ _).trans (Eq.trans ?_ hd)
  have hc (x : Nat × StackCmd) : (if x.2.core == core then { x.2 with orphan := true } else x.2).cx = x.2.cx := by
    split <;> rfl
  simp only [State.workView, State.setCore, State.dropCtlFaults, List.map_map, Function.comp_def, hc]

theorem State.setCore_workView (s : State) (c : Nat) (x : Core) : (s.setCore c x).workView = s.workView := rfl

theorem State.killCtls_workView (s : State) (cx : CtxId) : (s.killCtls cx).workView = s.workView := by
  unfold State.killCtls
  exact State.workView_foldl (fun s x => (State.setCore_workView ..).trans (State.freeCtl_workView ..)) _ s

/-- The frames of heads end in the heads and at the Ethernet ports. -/
theorem State.endFrame_frame (s : State) (head : Nat) :
    s.endFrame head = { s with heads := (s.endFrame head).heads, eth := (s.endFrame head).eth } := by
  have hp (cx : CtxId) (h : Head) (f : Frame) (size n q : Nat) :
      s.sendPackets cx h f size n q = { s with eth := (s.sendPackets cx h f size n q).eth } := by
    refine foldl_keeps (fun t : State => t = { s with eth := t.eth }) _ (fun t i ht => ?_) _ s rfl
    unfold State.transmit State.setEth
    rw [ht]
  unfold State.endFrame
  dsimp only
  split
  · split
    · rw [hp]
      rfl
    · rfl
  · rfl

theorem State.endFrames_frame (s : State) (l : Tbl Head) :
    l.foldl (fun s x => s.endFrame x.1) s = { s with
      heads := (l.foldl (fun s x => s.endFrame x.1) s).heads, eth := (l.foldl (fun s x => s.endFrame x.1) s).eth } := by
  refine foldl_keeps (fun t : State => t = { s with heads := t.heads, eth := t.eth }) _ (fun t x ht => ?_) l s rfl
  rw [State.endFrame_frame, ht]

end Sys2Proof.Machine
end

section
/-! PROOFS. Accesses leave every control thread as it was when they take their place (02 R39 to R43): the L2 reaches no core, and
the L1 of a core none of its control thread's registers. -/

namespace Sys2Proof.Machine

open Sys2Proof Host

/-! Bytes and tiles. -/

theorem State.writeTileByte_cores (s : State) (pa : Nat) (b : Byte) : (s.writeTileByte pa b).cores = s.cores := by
  unfold State.writeTileByte
  split <;> rfl

theorem State.writeKeys_cores (s : State) (keys : List Nat) (x : Nat) : (s.writeKeys keys x).cores = s.cores := by
  refine foldl_keeps (fun t : State => t.cores = s.cores) _ (fun t y ht => Eq.trans ?_ ht) (keys.zip (leBytes keys.length x)) s rfl
  unfold State.writeKey
  split
  · exact State.writeTileByte_cores ..
  · rfl

theorem State.fillTile_cores (s : State) (tile : Nat) : (s.fillTile tile).cores = s.cores := by
  unfold State.fillTile
  split <;> rfl

theorem State.cleanTile_cores (s : State) (tile : Nat) : (s.cleanTile tile).cores = s.cores := by
  unfold State.cleanTile
  split
  · rename_i t _
    -- What the codec makes of the tile does not matter, and is not to be evaluated.
    generalize encodeTile t.bytes = e
    split <;> rfl
  · rfl

/-! Lines of the L2. -/

theorem State.evictCrumb_cores (s : State) (crumb : Nat) : (s.evictCrumb crumb).cores = s.cores := by
  unfold State.evictCrumb
  split
  · rfl
  · split
    · exact s.cleanTile_cores (crumb / 4)
    · rfl

theorem State.fillLine_cores {s t : State} {vd hint crumb : Nat} {tile : Bool} (h : s.fillLine vd hint tile crumb = some t) :
    t.cores = s.cores := by
  obtain ⟨⟨way, old, lent⟩, -, rfl⟩ := Option.map_eq_some_iff.mp h
  cases old with
  | none => rfl
  | some c => exact s.evictCrumb_cores c

theorem State.touchCrumb_cores (s : State) (vd hint crumb : Nat) (demand : Bool) :
    (s.touchCrumb vd hint crumb demand).cores = s.cores := by
  unfold State.touchCrumb
  split
  · rfl
  · split
    · exact State.fillLine_cores ‹_›
    · split <;> rfl

theorem State.fillTileLines_cores {vd hint : Nat} {l : List Nat} {s t : State} (h : s.fillTileLines vd hint l = some t) :
    t.cores = s.cores := by
  induction l generalizing s with
  | nil => exact congrArg State.cores (Option.some.inj h).symm
  | cons c cs ih =>
    rw [State.fillTileLines] at h
    split at h
    · exact (ih h :)
    · split at h
      · exact (ih h).trans (State.fillLine_cores ‹_›)
      · cases h

theorem State.touchTile_cores (s : State) (vd hint crumb : Nat) (demand : Bool) :
    (s.touchTile vd hint crumb demand).cores = s.cores := by
  unfold State.touchTile
  dsimp only
  split
  · rfl
  · split
    · exact (State.fillTile_cores ..).trans (State.fillTileLines_cores ‹_›)
    · split <;> rfl

theorem State.touch_cores (s : State) (vd hint : Nat) (keys : List Nat) : (s.touch vd hint keys).cores = s.cores := by
  refine foldl_keeps (fun t : State => t.cores = s.cores) _ (fun t x ht => Eq.trans ?_ ht) _ s rfl
  unfold State.touchAny
  split
  · exact State.touchTile_cores ..
  · exact State.touchCrumb_cores ..

theorem State.dirtyKeys_cores (s : State) (thru : Bool) (keys : List Nat) : (s.dirtyKeys thru keys).cores = s.cores := by
  unfold State.dirtyKeys
  split <;> rfl

/-! Control threads: a core whose other parts change keeps its own. -/

theorem State.ctl_of_cores {s t : State} (h : t.cores = s.cores) : t.ctl = s.ctl := by
  funext k
  simp only [State.ctl, State.coreOf, h]

theorem State.ctl_setCore (s : State) (core k : Nat) (x : Core) :
    (s.setCore core x).ctl k = if k = core then x.ctl else s.ctl k := by
  unfold State.ctl
  split
  · subst k
    rw [State.coreOf_setCore_self]
  · rw [State.coreOf_setCore_ne _ _ ‹_›]

theorem State.ctl_setCore_keeps {s t : State} {core : Nat} {x : Core} (ht : t.ctl = s.ctl) (hx : x.ctl = t.ctl core) :
    (t.setCore core x).ctl = s.ctl := by
  funext k
  rw [State.ctl_setCore]
  split
  · subst k
    rw [hx, ht]
  · rw [ht]

theorem State.grantLease_ctl (s : State) (core crumb pc : Nat) (data : List Byte) :
    (s.grantLease core crumb pc data).ctl = s.ctl := by
  unfold State.grantLease
  dsimp only
  split
  · exact State.ctl_setCore_keeps (State.ctl_of_cores rfl) rfl
  · exact State.ctl_setCore_keeps rfl rfl

theorem State.loadCrumb_ctl (s : State) (via : Via) (crumb : Nat) : (s.loadCrumb via crumb).1.ctl = s.ctl := by
  unfold State.loadCrumb
  dsimp only
  split
  · exact State.ctl_setCore_keeps rfl rfl
  · exact (State.grantLease_ctl ..).trans (State.ctl_of_cores (State.touch_cores ..))

theorem State.loadCrumbs_ctl (s : State) (via : Via) (l : List Nat) : (s.loadCrumbs via l).1.ctl = s.ctl := by
  induction l generalizing s with
  | nil => rfl
  | cons c cs ih => exact (ih _).trans (s.loadCrumb_ctl via c)

theorem State.loadKeys_ctl (s : State) (via : Via) (keys : List Nat) : (s.loadKeys via keys).1.ctl = s.ctl := by
  unfold State.loadKeys
  split
  · rfl
  · exact s.loadCrumbs_ctl via _

theorem State.storeKeys_ctl (s : State) (via : Via) (thru : Bool) (keys : List Nat) (x : Nat) :
    (s.storeKeys via thru keys x).ctl = s.ctl := by
  have h : (((s.touch via.vd via.hint keys).writeKeys keys x).dirtyKeys thru keys).ctl = s.ctl :=
    State.ctl_of_cores ((State.dirtyKeys_cores ..).trans ((State.writeKeys_cores ..).trans (State.touch_cores ..)))
  unfold State.storeKeys
  dsimp only
  split
  · exact h
  · exact State.ctl_setCore_keeps h rfl

/-! Issued operations. -/

theorem State.performItem_ctl (s : State) (via : Via) (act : MemAct) (x : MemItem) (keys : List Nat) :
    (s.performItem via act x keys).1.ctl = s.ctl := by
  cases act with
  | load sg n cnt b =>
    simp only [State.performItem]
    split <;> exact State.loadKeys_ctl ..
  | store => exact State.storeKeys_ctl ..
  | atomic op t ret =>
    have hw := fun x => (State.writeKeys_cores _ keys x).trans (s.touch_cores via.vd via.hint keys)
    exact State.ctl_setCore_keeps (State.ctl_of_cores ((State.dirtyKeys_cores _ x.thru keys).trans (hw _))) rfl

theorem State.performFirst_ctl {s : State} {via : Via} {act : MemAct} {l : List MemItem}
    {y : State × List MemItem × List RegWrite} (h : s.performFirst via act l = some y) : y.1.ctl = s.ctl := by
  induction l generalizing y with
  | nil => cases h
  | cons x xs ih =>
    rw [State.performFirst] at h
    split at h
    · obtain ⟨z, hz, rfl⟩ := Option.map_eq_some_iff.mp h
      exact (ih hz :)
    · cases h
      exact State.performItem_ctl ..

theorem State.performItems_ctl (via : Via) (act : MemAct) (n : Nat) (s : State) (l : List MemItem) (ws : List RegWrite) :
    (State.performItems via act n s l ws).1.ctl = s.ctl := by
  induction n generalizing s l ws with
  | zero => rfl
  | succ n ih =>
    rw [State.performItems]
    split
    · exact (ih ..).trans (State.performFirst_ctl ‹_›)
    · rfl

theorem State.performPend_ctl (s : State) (core vd : Nat) (p : Pend) : (s.performPend core vd p).1.ctl = s.ctl := by
  unfold State.performPend State.performSome
  split
  · exact State.performItems_ctl ..
  · rfl

theorem State.performAll_ctl (s : State) (core vd : Nat) (l : List Pend) : (s.performAll core vd l).1.ctl = s.ctl := by
  induction l generalizing s with
  | nil => rfl
  | cons p ps ih =>
    rw [State.performAll]
    split
    · rfl
    · exact (ih _).trans (s.performPend_ctl core vd p)

end Sys2Proof.Machine
end

section
/-! PROOFS. The reset of a context, its steps together (03 R94; 09 R254), and the dispatcher's obligation. -/

namespace Sys2Proof.Machine

open Sys2Proof Host

/-! Control threads (step 2). -/

theorem State.drainCtl_owner (s : State) (core k : Nat) : ((s.drainCtl core).ctl k).owner = (s.ctl k).owner := by
  have h := s.performAll_ctl core (s.ctlVd core) (s.ctl core).pend
  unfold State.drainCtl State.setCtl
  dsimp only
  rw [State.ctl_setCore]
  split
  · subst k
    rw [h]
  · rw [h]

theorem State.postEvent_ctl (s : State) (core : Nat) (cx : CtxId) (r : EventRec) : (s.postEvent core cx r).ctl = s.ctl := by
  unfold State.postEvent
  dsimp only
  split
  · split <;> exact State.ctl_setCore_keeps rfl rfl
  · split <;> exact State.ctl_setCore_keeps rfl rfl

/-- A freed control thread has no owner; those of other cores keep theirs. -/
theorem State.freeCtl_owner (s : State) (core k : Nat) :
    ((s.freeCtl core).ctl k).owner = if k = core then none else (s.ctl k).owner := by
  unfold State.freeCtl
  dsimp only
  rw [foldl_keeps (fun t : State => t.ctl = _) _ (fun t x h => (t.postEvent_ctl ..).trans h) _ _ rfl, State.ctl_setCore]
  split
  · rfl
  · exact s.drainCtl_owner core k

/-- One control thread is killed: the step that State.killCtls makes of each. -/
def State.killCtl (s : State) (core : Nat) : State := (s.freeCtl core).setCore core ((s.freeCtl core).coreOf core).dropCtl

theorem State.killCtls_eq_foldl (s : State) (cx : CtxId) :
    s.killCtls cx = (s.cores.filter fun x => x.2.ctl.owner == some cx).foldl (fun s x => s.killCtl x.1) s := rfl

theorem State.killCtl_owner (s : State) (core k : Nat) :
    ((s.killCtl core).ctl k).owner = if k = core then none else (s.ctl k).owner := by
  rw [State.killCtl, State.ctl_setCore]
  split
  · rfl
  · rw [State.freeCtl_owner, if_neg ‹_›]

theorem State.foldl_killCtl_owner {cx : CtxId} {k : Nat} (l : Tbl Core) (s : State)
    (h : ((l.foldl (fun s x => s.killCtl x.1) s).ctl k).owner = some cx) :
    (s.ctl k).owner = some cx ∧ ∀ x ∈ l, k ≠ x.1 := by
  induction l generalizing s with
  | nil => exact ⟨h, fun _ hx => by cases hx⟩
  | cons x l ih =>
    obtain ⟨hs, hl⟩ := ih _ h
    rw [State.killCtl_owner] at hs
    split at hs
    · cases hs
    · refine ⟨hs, fun y hy => ?_⟩
      rcases List.mem_cons.mp hy with rfl | hy
      · assumption
      · exact hl y hy

/-- A control thread with an owner is listed. -/
theorem State.mem_cores_of_owner {s : State} {k : Nat} {cx : CtxId} (h : (s.ctl k).owner = some cx) :
    ∃ c, (k, c) ∈ s.cores ∧ c.ctl.owner = some cx := by
  unfold State.ctl State.coreOf Tbl.get at h
  cases hc : s.cores.get? k with
  | none =>
    rw [hc] at h
    cases h
  | some c =>
    rw [hc] at h
    exact ⟨c, Tbl.mem_of_get? hc, h⟩

theorem State.killCtls_owner (s : State) (cx : CtxId) (k : Nat) : ((s.killCtls cx).ctl k).owner ≠ some cx := by
  intro h
  rw [State.killCtls_eq_foldl] at h
  obtain ⟨ho, hl⟩ := State.foldl_killCtl_owner _ s h
  obtain ⟨c, hc, hco⟩ := State.mem_cores_of_owner ho
  exact hl (k, c) (List.mem_filter.mpr ⟨hc, by simp [hco]⟩) rfl

/-! What the context holds (step 4). -/

theorem State.ctl_of_cores_map {s t : State} {f : Core → Core} (hf : ∀ c, (f c).ctl = c.ctl)
    (h : t.cores = s.cores.map fun x => (x.1, f x.2)) : t.ctl = s.ctl := by
  funext k
  simp only [State.ctl, State.coreOf, Tbl.get, h, Tbl.get?_map]
  cases s.cores.get? k with
  | none => rfl
  | some c => exact hf c

theorem State.dropTlb_ctl (s : State) (f : TlbEntry → Bool) : (s.dropTlb f).ctl = s.ctl :=
  State.ctl_of_cores_map (f := fun c => { c with tlb := c.tlb.filter fun e => !f e }) (fun _ => rfl) rfl

/-- A core without the decision-queue entries and held records of a context. -/
def Core.dropCx (c : Core) (cx : CtxId) : Core :=
  { c with dq := c.dq.filter (fun y => y.1 != cx), held := c.held.filter fun y => y.1 != cx }

theorem State.dropHeld_ctl (s : State) (cx : CtxId) : (s.dropHeld cx).ctl = s.ctl := by
  have h {t : State} (ht : t.cores = s.cores.map fun x => (x.1, x.2.dropCx cx)) : t.ctl = s.ctl :=
    State.ctl_of_cores_map (f := fun c => c.dropCx cx) (fun _ => rfl) ht
  unfold State.dropHeld
  dsimp only
  split <;> exact (State.dropTlb_ctl ..).trans (h rfl)

theorem State.dropHeld_workView (s : State) (cx : CtxId) : (s.dropHeld cx).workView = s.workView := by
  have h : ((s.heads.filter fun x => x.2.cx == some cx).foldl (fun s x => s.endFrame x.1) s).workView = s.workView :=
    (congrArg State.workView (s.endFrames_frame _) :)
  unfold State.dropHeld
  dsimp only
  split <;> exact h

theorem ne_of_mem_filter {α : Type} {f : α → CtxId} {l : List α} {cx : CtxId} :
    ∀ x ∈ l.filter fun x => f x != cx, f x ≠ cx := fun _ hx => bne_iff_ne.mp (List.mem_filter.mp hx).2

theorem ne_of_not_mem_map {α : Type} {f : α → CtxId} {l : List α} {cx : CtxId} (h : cx ∉ l.map f) : ∀ x ∈ l, f x ≠ cx :=
  fun _ hx he => h (he ▸ List.mem_map_of_mem hx)

/-- Rays, requests of filters, locks and fault records of the context are dropped. -/
theorem State.dropHeld_drops (s : State) (cx : CtxId) :
    (∀ x ∈ (s.dropHeld cx).rays, x.2.cx ≠ cx) ∧ (∀ x ∈ (s.dropHeld cx).filters, x.2.cx ≠ cx) ∧
      (∀ l ∈ (s.dropHeld cx).locks, l.cx ≠ cx) ∧ ∀ x ∈ (s.dropHeld cx).faults, x.2.cx ≠ cx := by
  unfold State.dropHeld
  dsimp only
  split <;> exact ⟨ne_of_mem_filter, ne_of_mem_filter, ne_of_mem_filter, ne_of_mem_filter⟩

theorem State.dropHeld_ctx {s : State} {cx : CtxId} (hc : (s.ctx? cx).isSome = true) :
    ∃ c, (s.dropHeld cx).ctx? cx = some c ∧ c.windows = [] ∧ c.isReset = true := by
  have h : ((s.heads.filter fun x => x.2.cx == some cx).foldl (fun s x => s.endFrame x.1) s).ctxs = s.ctxs :=
    (congrArg State.ctxs (s.endFrames_frame _) :)
  rw [← State.ctx?_congr h] at hc
  unfold State.dropHeld
  dsimp only
  split
  · exact ⟨_, Tbl.get?_set_self .., rfl, rfl⟩
  · exact absurd ‹_› (Option.isSome_iff_ne_none.mp hc)

/-! Sessions end without a change of the contexts. -/

theorem State.updTeam_ctxs (s : State) (core slot : Nat) (f : Team → Team) : (s.updTeam core slot f).ctxs = s.ctxs := by
  unfold State.updTeam
  split <;> rfl

theorem State.performTo_ctxs (s : State) (core vd id : Nat) (l : List Pend) : (s.performTo core vd id l).1.ctxs = s.ctxs :=
  State.ctxs_of_beyondAccess (s.performTo_beyondAccess core vd id l)

theorem State.serveOne_ctxs (s : State) (who : Agent) (id : Nat) : (s.serveOne who id).ctxs = s.ctxs := by
  unfold State.serveOne
  cases who with
  | team core slot =>
    dsimp only
    split
    · exact (State.updTeam_ctxs ..).trans (State.performTo_ctxs ..)
    · rfl
  | ctl core => exact State.performTo_ctxs { s with deferred := [] } core _ id _

theorem State.serveHead_ctxs {s t : State} {all : Bool} {ch : Nat} (h : s.serveHead all ch = some t) : t.ctxs = s.ctxs := by
  unfold State.serveHead at h
  split at h
  · cases h
  · dsimp only at h
    split at h
    · split at h
      · split at h <;> cases h
        · rfl
        · exact (State.serveOne_ctxs ..).trans (State.undefer_ctxs ..)
      · cases h
        rfl
    · split at h <;> cases h
      rfl

theorem State.serveQueue_ctxs (s : State) (ch n : Nat) : (s.serveQueue ch n).ctxs = s.ctxs := by
  induction n generalizing s with
  | zero => rfl
  | succ n ih =>
    rw [State.serveQueue]
    split
    · exact (ih _).trans (State.serveHead_ctxs ‹_›)
    · rfl

theorem State.endSessions_ctxs (s : State) (cx : CtxId) : (s.endSessions cx).ctxs = s.ctxs :=
  foldl_keeps (fun t : State => t.ctxs = s.ctxs) (fun t (x : Nat × Session) => t.leaveBank (x.1 / 64) (x.1 % 64))
    (fun _ _ h => (State.serveQueue_ctxs ..).trans h) _ s rfl

/-! The steps together. -/

/-- What a reset leaves once what the context ran is aborted (R94 steps 1 to 3). -/
def State.aborted (s : State) (cx : CtxId) : State :=
  ((((((s.abortQueues cx).endSessions cx).drainCx cx).killGangs cx).abortOps cx).abortCommands cx).killCtls cx

/-- What it leaves once what the context held is dropped, before the stacks begin what the context held up (step 4). -/
def State.behindReset (s : State) (cx : CtxId) : State := ((s.aborted cx).dropHeld cx).dropDeferred cx

theorem exec_contextReset {s : State} {cx : CtxId} (hc : (s.ctx? cx).isSome = true)
    (hs : ((s.abortQueues cx).endSessions cx).cxStuck cx = false) :
    exec (.contextReset cx) s = .next ((s.behindReset cx).stackRunAll.postNotice (cx.vd + 1) noticeReset [cx.ctx]) := by
  change execContextReset cx s = _
  simp only [execContextReset, State.resetContext, Option.isNone_eq_false_iff.mpr hc, hs, Bool.false_eq_true, if_false,
    enabled_some, State.behindReset, State.aborted]

/-- The context still stands before what it holds is dropped. -/
theorem State.aborted_ctx? {s : State} {cx : CtxId} (hc : (s.ctx? cx).isSome = true) :
    ((s.aborted cx).ctx? cx).isSome = true := by
  rw [State.ctx?_isSome, State.aborted]
  simp only [State.killCtls_resetView, State.abortCommands_resetView, State.abortOps_resetView, State.killGangs_resetView,
    State.drainCx_resetView]
  rw [← State.ctx?_isSome, State.ctx?_congr (State.endSessions_ctxs ..), State.ctx?_isSome, State.abortQueues_resetView,
    ← State.ctx?_isSome, hc]

theorem State.dropDeferred_ctxs (s : State) (cx : CtxId) : (s.dropDeferred cx).ctxs = s.ctxs := rfl

theorem State.dropDeferred_ctl (s : State) (cx : CtxId) : (s.dropDeferred cx).ctl = s.ctl := rfl

theorem State.dropDeferred_workView (s : State) (cx : CtxId) : (s.dropDeferred cx).workView = s.workView := rfl

/-- Rays, requests of filters, locks and fault records do not wait in the deferred queues. -/
theorem State.dropDeferred_keeps (s : State) (cx : CtxId) :
    (s.dropDeferred cx).rays = s.rays ∧ (s.dropDeferred cx).filters = s.filters ∧ (s.dropDeferred cx).locks = s.locks ∧
      (s.dropDeferred cx).faults = s.faults := ⟨rfl, rfl, rfl, rfl⟩

theorem State.ne_of_without {s : State} {cx : CtxId} (h : s.workView.without cx) :
    (∀ x ∈ s.launches, x.2.cx ≠ cx) ∧ (∀ x ∈ s.ops, x.2.cx ≠ cx) ∧ (∀ x ∈ s.scmds, x.2.cx ≠ cx) ∧
      ∀ x ∈ s.rcmds, x.2.cx ≠ cx := by
  obtain ⟨hlaunches, hops, hstack, hraster⟩ := h
  exact ⟨ne_of_not_mem_map hlaunches, ne_of_not_mem_map hops, ne_of_not_mem_map hstack, ne_of_not_mem_map hraster⟩

/-- No launch and no command is left to the context. -/
theorem State.behindReset_without (s : State) (cx : CtxId) : (s.behindReset cx).workView.without cx := by
  rw [State.behindReset, State.dropDeferred_workView, State.dropHeld_workView, State.aborted, State.killCtls_workView]
  exact State.abortAll_without ..

theorem State.behindReset_owner (s : State) (cx : CtxId) (k : Nat) : ((s.behindReset cx).ctl k).owner ≠ some cx := by
  rw [State.behindReset, State.dropDeferred_ctl, State.dropHeld_ctl, State.aborted]
  exact State.killCtls_owner _ cx k

theorem State.behindReset_drops (s : State) (cx : CtxId) :
    (∀ x ∈ (s.behindReset cx).rays, x.2.cx ≠ cx) ∧ (∀ x ∈ (s.behindReset cx).filters, x.2.cx ≠ cx) ∧
      (∀ l ∈ (s.behindReset cx).locks, l.cx ≠ cx) ∧ ∀ x ∈ (s.behindReset cx).faults, x.2.cx ≠ cx := by
  obtain ⟨hr, hf, hl, hx⟩ := ((s.aborted cx).dropHeld cx).dropDeferred_keeps cx
  rw [State.behindReset, hr, hf, hl, hx]
  exact State.dropHeld_drops ..

theorem State.behindReset_ctx {s : State} {cx : CtxId} (hc : (s.ctx? cx).isSome = true) :
    ∃ c, (s.behindReset cx).ctx? cx = some c ∧ c.windows = [] ∧ c.isReset = true := by
  rw [State.behindReset, State.ctx?_congr (State.dropDeferred_ctxs ..)]
  exact State.dropHeld_ctx (State.aborted_ctx? hc)

theorem timeoutAndContextReset : Spec.TimeoutAndContextReset := by
  intro s
  refine ⟨fun id o ho hl hp hv hw => ?op, fun stack req q hq hl hs hp => ?filter, fun die id c hc hl hd hp hw => ?raster,
    fun stack id c hc hl hs hp => ?stack, fun id r g hr hp hg hv ht => exec_commandTimeout_ray hr (State.rayTimeout_ends id hp hg
      hv ht), fun cx hc hs => ?reset⟩
  case op =>
    obtain ⟨t, ht, h⟩ := State.opTimeout_fires id hl hp hv hw
    exact ⟨t, exec_commandTimeout_op ho ht, h⟩
  case filter =>
    subst hs
    obtain ⟨t, ht, h⟩ := State.filterTimeout_fires req hl hp
    exact ⟨t, exec_commandTimeout_filter hq ht, h⟩
  case raster =>
    subst hd
    obtain ⟨t, ht, h⟩ := State.rasterTimeout_fires id hl hp hw
    exact ⟨t, exec_commandTimeout_raster hc ht, h⟩
  case stack =>
    subst hs
    obtain ⟨t, ht, h⟩ := State.stackTimeout_fires id hl hp
    exact ⟨t, exec_commandTimeout_stack hc ht, h⟩
  case reset =>
    obtain ⟨hlaunches, hops, hstack, hraster⟩ := State.ne_of_without (s.behindReset_without cx)
    obtain ⟨hrays, hfilters, hlocks, hfaults⟩ := s.behindReset_drops cx
    exact ⟨s.behindReset cx, exec_contextReset hc hs, hlaunches, hops, hstack, hraster, hrays, hfilters, hlocks, hfaults,
      s.behindReset_owner cx, State.behindReset_ctx hc⟩

/-- Settles O42, step by step: a reset drops in order what the context owns, and none of its later steps brings any of it back. -/
theorem dispatchSteps : Obligations.DispatchSteps :=
  ⟨dispatcherSteps, gangSteps, frameAndWatchdogSteps, timeoutAndContextReset⟩

end Sys2Proof.Machine
end

section
/-! PROOFS. The values of the E2M1 codes (04 R95, R96). -/

namespace Sys2Proof

/-- Exponent field 0 (04 R95): the fraction counts halves. E2M1 is never flushed (R104), so `ftz` makes no difference. -/
theorem Fmt.read_e2m1_subnormal {c : Nat} (ftz : Bool) (h : bits c 2 1 = 0) :
    Fmt.e2m1.read ftz c = .num (bitAt c 3) (c % 2) (-1) := by
  simp [Fmt.read, Fmt.flushable, Fmt.e2m1, Fmt.f32, Fmt.f64, Fmt.emin, h]

/-- Any other exponent field, the one of all ones too: a normal number with its hidden bit (04 R95). -/
theorem Fmt.read_e2m1_normal {c : Nat} (ftz : Bool) (h : bits c 2 1 ≠ 0) :
    Fmt.e2m1.read ftz c = .num (bitAt c 3) (c % 2 + 2) (bits c 2 1 - 2) := by
  have hexp : (bits c 2 1 : Int) - 1 - 1 = bits c 2 1 - 2 := by omega
  simp [Fmt.read, Fmt.e2m1, h, hexp]

theorem bitAt_three_of_lt {c : Nat} (h : c < 16) : bitAt c 3 = decide (8 ≤ c) := by
  simp only [bitAt, beq_eq_decide, decide_eq_decide]
  omega

/-- The table of R96 beyond its first two codes, in halves: the significand shifted by the exponent field less one. -/
theorem e2m1_halves_normal : ∀ c < 16, bits c 2 1 ≠ 0 →
    (c % 2 + 2) * 2 ^ (bits c 2 1 - 1) = [0, 1, 2, 3, 4, 6, 8, 12].getD (c % 8) 0 := by decide

/-- The first two codes of the table of R96, in halves. -/
theorem e2m1_halves_subnormal : ∀ c < 16, bits c 2 1 = 0 →
    c % 2 = [0, 1, 2, 3, 4, 6, 8, 12].getD (c % 8) 0 := by decide

end Sys2Proof

namespace Sys2Proof.Machine

open Sys2Proof Host

/-- Settles O60: a code is subnormal or normal by its exponent field, and each kind's significand gives its entries of the table. -/
theorem e2M1Codes : Obligations.E2M1Codes := by
  intro c hc
  rw [← bitAt_three_of_lt hc]
  by_cases hexp : bits c 2 1 = 0
  case pos =>
    refine ⟨c % 2, -1, Fmt.read_e2m1_subnormal false hexp, by omega, ?_⟩
    simpa using e2m1_halves_subnormal c hc hexp
  case neg =>
    refine ⟨c % 2 + 2, bits c 2 1 - 2, Fmt.read_e2m1_normal false hexp, by omega, ?_⟩
    have hpow : ((bits c 2 1 : Int) - 2 + 1).toNat = bits c 2 1 - 1 := by omega
    rw [hpow]
    exact e2m1_halves_normal c hc hexp

end Sys2Proof.Machine
end

section
/-! PROOFS. The encoder and the decoder invert each other (05 R122 to R145). -/

namespace Sys2Proof

open Machine Laws

/-! Bytes (00 R2). -/

theorem leNat_lt (bs : List Byte) : leNat bs < 256 ^ bs.length := by
  induction bs with
  | nil => simp [leNat]
  | cons b bs ih =>
    have hb : b.toNat < 256 := b.isLt
    rw [leNat, List.length_cons, pow_succ]
    omega

theorem leBytes_leNat {n : Nat} {bs : List Byte} (h : bs.length = n) : leBytes n (leNat bs) = bs := by
  subst h
  induction bs with
  | nil => rfl
  | cons b bs ih =>
    have hb : b.toNat < 256 := b.isLt
    have hhead : BitVec.ofNat 8 (b.toNat + 256 * leNat bs) = b := by
      apply BitVec.eq_of_toNat_eq
      rw [BitVec.toNat_ofNat]
      omega
    have htail : (b.toNat + 256 * leNat bs) / 256 = leNat bs := by omega
    simp only [leNat, List.length_cons, leBytes, hhead, htail, ih]

theorem leBytes_append_leBytes {m x : Nat} (n y : Nat) (hx : x < 256 ^ m) :
    leBytes m x ++ leBytes n y = leBytes (m + n) (x + 256 ^ m * y) := by
  induction m generalizing x with
  | zero =>
    have : x = 0 := by simpa using hx
    simp [leBytes, this]
  | succ m ih =>
    have hlow : BitVec.ofNat 8 (x + 256 ^ (m + 1) * y) = BitVec.ofNat 8 x := by
      apply BitVec.eq_of_toNat_eq
      rw [BitVec.toNat_ofNat, BitVec.toNat_ofNat, pow_succ', mul_assoc]
      omega
    have hhigh : (x + 256 ^ (m + 1) * y) / 256 = x / 256 + 256 ^ m * y := by
      rw [pow_succ', mul_assoc]
      omega
    rw [Nat.add_right_comm, leBytes, leBytes, List.cons_append, ih (by rw [pow_succ] at hx; omega), hlow, hhigh]

/-! Fields of words. -/

theorem bits_lt (x hi lo : Nat) : bits x hi lo < 2 ^ (hi + 1 - lo) := Nat.mod_lt _ (by positivity)

theorem boolNat_lt (b : Bool) : boolNat b < 2 := by cases b <;> decide

theorem bitAt_eq_iff {x k : Nat} {b : Bool} : bitAt x k = b ↔ x / 2 ^ k % 2 = boolNat b := by
  cases b <;> simp [boolNat, bitAt]

/-- GUARD, WMASK and the set-flags (05 R125, R133, R134). -/
theorem optField_eq_some_iff {x : Nat} {g : Option Nat} : optField x = some g ↔ x = encOpt g ∧ g.getD 0 < 12 := by
  unfold optField
  cases g <;> grind [encOpt]

/-! Operands (05 R137 to R140). -/

theorem Special.code_bounds (x : Special) : 0x250 ≤ x.code ∧ x.code ≤ 0x25C := by cases x <;> decide

theorem Special.code_of_find {p : Special → Bool} {c : Nat} {x : Opd} (hp : ∀ y : Special, p y = true → y.code = c)
    (h : (Special.all.find? p).map Opd.sp = some x) : x.code = c ∧ c < 1024 := by
  obtain ⟨y, hy, rfl⟩ := Option.map_eq_some_iff.mp h
  have hcode : y.code = c := hp y (List.find?_some hy)
  have := y.code_bounds
  exact ⟨hcode, by omega⟩

/-- A code names at most one operand of its side, and that operand has the code. -/
theorem Opd.code_of_ofCode {sd : Side} {c : Nat} {x : Opd} (h : Opd.ofCode sd c = some x) : x.code = c ∧ c < 1024 := by
  simp only [Opd.ofCode, beq_iff_eq, Bool.and_eq_true, decide_eq_true_eq] at h
  by_cases hz : c = 0x3FF
  · rw [if_pos hz] at h
    cases h
    exact ⟨hz.symm, by omega⟩
  rw [if_neg hz] at h
  by_cases hlit : 0x3C0 ≤ c ∧ c ≤ 0x3DF
  · rw [if_pos hlit] at h
    cases h
    exact ⟨by simp only [Opd.code]; omega, by omega⟩
  rw [if_neg hlit] at h
  cases sd with
  | ctl =>
    dsimp only at h
    split at h
    · cases h
      exact ⟨rfl, by omega⟩
    · exact Special.code_of_find (by simp) h
  | team =>
    dsimp only at h
    split_ifs at h
    case neg => exact Special.code_of_find (by simp) h
    all_goals
      cases h
      grind [Opd.code]

/-- A field of ten bits is read as the operand with its code, where its side has one (05 R130, R137, R140). -/
theorem decodeOpd_eq_some_iff {sd : Side} {raw : Bool} {c : Nat} {x : Opd} (hc : c < 1024) :
    decodeOpd sd raw c = some x ↔ c = x.code ∧ x.wf sd raw = true := by
  unfold decodeOpd Opd.wf
  cases raw
  case true => cases x <;> grind [Opd.code]
  case false =>
    simp only [Bool.false_eq_true, if_false, decide_eq_true_eq]
    constructor
    · intro h
      have hcode := (Opd.code_of_ofCode h).1
      exact ⟨hcode.symm, by rw [hcode, h]⟩
    · rintro ⟨rfl, h⟩
      exact h

theorem Opd.code_lt_of_wf {sd : Side} {raw : Bool} {x : Opd} (h : x.wf sd raw = true) : x.code < 1024 := by
  unfold Opd.wf at h
  cases raw
  case true => cases x <;> simp_all [Opd.code]
  case false => exact (Opd.code_of_ofCode (of_decide_eq_true h)).2

/-! Opcodes (05 R143). -/

theorem Op.code_lt (o : Op) : o.code < 1024 := by cases o <;> decide

theorem Op.code_refine (o : Op) (len : Len) (mod : BitVec 15) : (o.refine len mod).code = o.code := by
  unfold Op.refine
  split
  · split <;> rfl
  · split <;> rfl
  · split <;> rfl
  · rfl

theorem Op.code_of_ofCode {c : Nat} {o : Op} (h : Op.ofCode c = some o) : o.code = c := by
  simpa using List.find?_some h

/-- The row that stands first among those that share the opcode. -/
def Op.first (o : Op) : Op :=
  match o with
  | .movi64 => .movi32
  | .pmovSel => .pmovTov
  | .mwrT => .mwr
  | o => o

theorem Op.ofCode_code (o : Op) : Op.ofCode o.code = some o.first := by cases o <;> rfl

theorem Instr.ofOp_of_toOp {i : Instr} {o : Op} {w : Ins} (h : i.toOp = some (o, w)) : Instr.ofOp o w = i := by
  cases i <;> cases h <;> rfl

theorem Op.check_eq_none {sd : Side} {regs : Nat} {o : Op} {w : Ins} (h : o.check sd regs w = none) :
    o.onSide sd = true ∧ o.lenOk w.len = true ∧ o.modsOk sd w = true := by
  unfold Op.check at h
  grind

/-- Rows that share an opcode are told apart by what their checks ask of length and MOD (06 R166, 07 R228, 10 R304). -/
theorem Op.refine_first {sd : Side} {o : Op} {w : Ins} (hlen : o.lenOk w.len = true) (hmods : o.modsOk sd w = true) :
    o.first.refine w.len w.mod = o := by
  simp only [Op.modsOk, Bool.and_eq_true, beq_iff_eq] at hmods
  obtain ⟨⟨⟨⟨⟨hmod, -⟩, hok⟩, -⟩, -⟩, -⟩ := hmods
  cases o
  case movi32 | movi64 => cases hl : w.len <;> simp_all [Op.lenOk, Op.offsetImm, Op.immB, Op.first, Op.refine]
  case pmovTov | mwr =>
    have hzero : w.mod.toNat = 0 := hmod.symm.trans (Nat.and_zero _)
    simp [Op.first, Op.refine, bitAt, hzero]
  case pmovSel | mwrT =>
    simp only [Op.modOk, Ins.mb, Bool.and_eq_true] at hok
    simp only [Op.first, Op.refine]
    rw [if_pos hok.1]
  all_goals rfl

/-! Words. -/

/-- A base word is the number of its fields (05 R133). -/
theorem base_eq_iff {x l o g d a b r f m : Nat} (hl : l < 4) (ho : o < 1024) (hg : g < 16) (hd : d < 1024)
    (ha : a < 1024) (hb : b < 1024) (hr : r < 4) (hf : f < 2) :
    x = l + 2 ^ 2 * o + 2 ^ 12 * g + 2 ^ 16 * d + 2 ^ 26 * a + 2 ^ 36 * b + 2 ^ 46 * r + 2 ^ 48 * f + 2 ^ 49 * m ↔
      x % 4 = l ∧ bits x 11 2 = o ∧ bits x 15 12 = g ∧ bits x 25 16 = d ∧ bits x 35 26 = a ∧ bits x 45 36 = b ∧
        bits x 47 46 = r ∧ x / 2 ^ 48 % 2 = f ∧ x / 2 ^ 49 = m := by
  simp only [bits, Nat.reducePow, Nat.reduceAdd, Nat.reduceSub]
  omega

/-- An extension word is the number of its fields (05 R134). -/
theorem ext_eq_iff {x c m z r s f n : Nat} (hc : c < 1024) (hm : m < 16) (hz : z < 2) (hr : r < 8) (hs : s < 2) (hf : f < 2) :
    x = c + 2 ^ 10 * m + 2 ^ 14 * z + 2 ^ 16 * r + 2 ^ 19 * s + 2 ^ 20 * f + 2 ^ 21 * n ↔
      bits x 9 0 = c ∧ bits x 13 10 = m ∧ bits x 15 14 = z ∧ bits x 18 16 = r ∧ x / 2 ^ 19 % 2 = s ∧ x / 2 ^ 20 % 2 = f ∧
        x / 2 ^ 21 = n := by
  simp only [bits, Nat.reducePow, Nat.reduceAdd, Nat.reduceSub]
  omega

/-- The X32 that the decoder reads: the one of the 64-bit form where the words hold none (05 R134, R136). -/
def Op.x32 (o : Op) (len : Len) (ext : Nat) : Nat := if o.immExt || len == .l64 then x32Default else ext % 2 ^ 32

/-- The literal that the decoder reads (05 R135, R136). -/
def Op.immField (o : Op) (len : Len) (ext : Nat) : W64 :=
  BitVec.ofNat 64 (if len == .l64 then 0 else if o.immExt then ext else ext / 2 ^ 32)

/-- The fields of two words are those of an instruction, each with a value that is not reserved (05 R133, R134, R145). -/
structure Fields (sd : Side) (len : Len) (base x : Nat) (o : Op) (w : Ins) : Prop where
  len : w.len = len
  opcode : bits base 11 2 = o.code
  guard : optField (bits base 15 12) = some w.guard
  d : decodeOpd sd o.rawD (bits base 25 16) = some w.d
  a : decodeOpd sd o.rawAB (bits base 35 26) = some w.a
  b : decodeOpd sd o.rawAB (bits base 45 36) = some w.b
  retain : w.retain = bits base 47 46
  fsel : w.fsel = bitAt base 48
  mod : w.mod = BitVec.ofNat 15 (base / 2 ^ 49)
  c : decodeOpd sd false (bits x 9 0) = some w.c
  wmask : optField (bits x 13 10) = some w.wmask
  zero : bits x 15 14 < 2 ∧ w.zero = (bits x 15 14 == 1)
  rnd : bits x 18 16 < 6 ∧ w.rnd = bits x 18 16
  sat : w.sat = bitAt x 19
  ftz : w.ftz = bitAt x 20
  xmod : w.xmod = BitVec.ofNat 11 (x / 2 ^ 21)

/-- What the decoder answers: the fields as it reads them, where none is reserved and every check passes. -/
theorem decodeOp_eq_ok_iff {sd : Side} {regs : Nat} {len : Len} {base ext : Nat} {o : Op} {w : Ins} :
    decodeOp sd regs len base ext = .ok (o, w) ↔
      Fields sd len base (o.x32 len ext) o w ∧ w.imm = o.immField len ext ∧ o.check sd regs w = none := by
  constructor
  · intro h
    unfold decodeOp at h
    split at h
    · cases h
    next o₀ hop =>
    dsimp only at h
    simp only [← Op.x32.eq_def, ← Op.immField.eq_def] at h
    split at h
    · cases h
    split at h
    · cases h
    split at h
    case h_2 => cases h
    next g m hg hm =>
    split at h
    · cases h
    next hres =>
    split at h
    case h_2 => cases h
    next d a b c hd ha hb hc =>
    split at h
    · cases h
    next hcheck =>
    cases h
    simp only [Bool.or_eq_true, decide_eq_true_eq, not_or, not_le, ge_iff_le] at hres
    exact ⟨{ len := rfl, opcode := by rw [Op.code_refine, Op.code_of_ofCode hop], guard := hg, d := hd, a := ha, b := hb
             retain := rfl, fsel := rfl, mod := rfl, c := hc, wmask := hm, zero := ⟨hres.1, rfl⟩, rnd := ⟨hres.2, rfl⟩
             sat := rfl, ftz := rfl,
             xmod := rfl }, rfl, hcheck⟩
  · rintro ⟨f, himm, hcheck⟩
    obtain ⟨hside, hlen, hmods⟩ := Op.check_eq_none hcheck
    have hrefine := Op.refine_first hlen hmods
    generalize hx : o.x32 len ext = x at f
    obtain ⟨len, guard, retain, fsel, d, a, b, c, mod, xmod, wmask, zero, rnd, sat, ftz, imm⟩ := w
    obtain ⟨rfl, hop, hguard, hd, ha, hb, rfl, rfl, rfl, hc, hwmask, ⟨hpol, rfl⟩, ⟨hrnd, rfl⟩, rfl, rfl, rfl⟩ := f
    dsimp only at himm hside hlen hrefine hguard hd ha hb hc hwmask
    unfold decodeOp
    rw [hop, Op.ofCode_code]
    dsimp only
    rw [hrefine, ← Op.x32.eq_def, ← Op.immField.eq_def, hx, ← himm, hside, hlen, hguard, hwmask, hd, ha, hb, hc]
    dsimp only
    rw [hcheck]
    simp [hpol, hrnd]

/-- No number in the words is reserved or too large for its place. -/
def Ins.numbersOk (w : Ins) : Prop := w.guard.getD 0 < 12 ∧ w.retain < 4 ∧ w.wmask.getD 0 < 12 ∧ w.rnd < 6

/-- Each operand is one of its position. -/
def Ins.operandsWf (sd : Side) (o : Op) (w : Ins) : Prop :=
  w.d.wf sd o.rawD = true ∧ w.a.wf sd o.rawAB = true ∧ w.b.wf sd o.rawAB = true ∧ w.c.wf sd false = true

theorem encOpt_lt {g : Option Nat} (h : g.getD 0 < 12) : encOpt g < 16 := by
  cases g
  · decide
  · exact Nat.lt_trans h (by decide)

theorem Len.code_lt (l : Len) : l.code < 4 := by cases l <;> decide

theorem ofNat_eq_iff {n m : Nat} {v : BitVec n} (h : m < 2 ^ n) : v = BitVec.ofNat n m ↔ m = v.toNat := by
  rw [← BitVec.toNat_inj, BitVec.toNat_ofNat, Nat.mod_eq_of_lt h, eq_comm]

theorem pol_iff {n : Nat} {b : Bool} : n < 2 ∧ b = (n == 1) ↔ n = boolNat b := by
  constructor
  · rintro ⟨h, rfl⟩
    interval_cases n <;> rfl
  · rintro rfl
    cases b <;> decide

theorem encodeX32_lt {sd : Side} {o : Op} {w : Ins} (hn : w.numbersOk) (hw : w.operandsWf sd o) : encodeX32 w < 2 ^ 32 := by
  obtain ⟨-, -, hm, hr⟩ := hn
  have hc := Opd.code_lt_of_wf hw.2.2.2
  have hm := encOpt_lt hm
  have hx := w.xmod.isLt
  have := boolNat_lt w.zero
  have := boolNat_lt w.sat
  have := boolNat_lt w.ftz
  unfold encodeX32
  omega

/-- The fields of two words are those of an instruction exactly where the words are those that the encoder writes for it. -/
theorem fields_iff {sd : Side} {len : Len} {base x : Nat} {o : Op} {w : Ins} (hb : base < 256 ^ 8) (hl : base % 4 = len.code)
    (hx : x < 2 ^ 32) :
    Fields sd len base x o w ↔
      w.len = len ∧ base = encodeBase o w ∧ x = encodeX32 w ∧ w.numbersOk ∧ w.operandsWf sd o := by
  have hmod : base / 2 ^ 49 < 2 ^ 15 := by omega
  have hxmod : x / 2 ^ 21 < 2 ^ 11 := by omega
  constructor
  · rintro ⟨hlen, hop, hg, hd, ha, hb', hr, hf, hm, hc, hwm, hz, hrnd, hs, hftz, hxm⟩
    obtain ⟨hg, hg'⟩ := optField_eq_some_iff.mp hg
    obtain ⟨hwm, hwm'⟩ := optField_eq_some_iff.mp hwm
    obtain ⟨hd, hd'⟩ := (decodeOpd_eq_some_iff (bits_lt ..)).mp hd
    obtain ⟨ha, ha'⟩ := (decodeOpd_eq_some_iff (bits_lt ..)).mp ha
    obtain ⟨hb', hb''⟩ := (decodeOpd_eq_some_iff (bits_lt ..)).mp hb'
    obtain ⟨hc, hc'⟩ := (decodeOpd_eq_some_iff (bits_lt ..)).mp hc
    have hr4 : w.retain < 4 := hr ▸ bits_lt ..
    refine ⟨hlen, ?_, ?_, ⟨hg', hr4, hwm', hrnd.2 ▸ hrnd.1⟩, hd', ha', hb'', hc'⟩
    · refine (base_eq_iff (Len.code_lt _) (Op.code_lt o) (encOpt_lt hg') (Opd.code_lt_of_wf hd') (Opd.code_lt_of_wf ha')
        (Opd.code_lt_of_wf hb'') hr4 (boolNat_lt _)).mpr
        ⟨hlen ▸ hl, hop, hg, hd, ha, hb', hr.symm, bitAt_eq_iff.mp hf.symm, (ofNat_eq_iff hmod).mp hm⟩
    · exact (ext_eq_iff (Opd.code_lt_of_wf hc') (encOpt_lt hwm') (boolNat_lt _) (by omega) (boolNat_lt _) (boolNat_lt _)).mpr
        ⟨hc, hwm, pol_iff.mp hz, hrnd.2.symm, bitAt_eq_iff.mp hs.symm, bitAt_eq_iff.mp hftz.symm,
          (ofNat_eq_iff hxmod).mp hxm⟩
  · rintro ⟨hlen, hbase, hext, ⟨hg', hr4, hwm', hrnd⟩, hd', ha', hb', hc'⟩
    obtain ⟨-, hop, hg, hd, ha, hb, hr, hf, hm⟩ := (base_eq_iff (Len.code_lt _) (Op.code_lt o) (encOpt_lt hg')
      (Opd.code_lt_of_wf hd') (Opd.code_lt_of_wf ha') (Opd.code_lt_of_wf hb') hr4 (boolNat_lt _)).mp hbase
    obtain ⟨hc, hwm, hz, hr', hs, hftz, hxm⟩ := (ext_eq_iff (Opd.code_lt_of_wf hc') (encOpt_lt hwm') (boolNat_lt _) (by omega)
      (boolNat_lt _) (boolNat_lt _)).mp hext
    exact { len := hlen, opcode := hop
            guard := optField_eq_some_iff.mpr ⟨hg, hg'⟩
            d := (decodeOpd_eq_some_iff (bits_lt ..)).mpr ⟨hd, hd'⟩
            a := (decodeOpd_eq_some_iff (bits_lt ..)).mpr ⟨ha, ha'⟩
            b := (decodeOpd_eq_some_iff (bits_lt ..)).mpr ⟨hb, hb'⟩
            retain := hr.symm, fsel := (bitAt_eq_iff.mpr hf).symm, mod := (ofNat_eq_iff hmod).mpr hm
            c := (decodeOpd_eq_some_iff (bits_lt ..)).mpr ⟨hc, hc'⟩
            wmask := optField_eq_some_iff.mpr ⟨hwm, hwm'⟩
            zero := pol_iff.mpr hz, rnd := ⟨hr'.symm ▸ hrnd, hr'.symm⟩, sat := (bitAt_eq_iff.mpr hs).symm
            ftz := (bitAt_eq_iff.mpr hftz).symm, xmod := (ofNat_eq_iff hxmod).mpr hxm }

/-- The extension that the encoder writes behind the base word, as a number (05 R134 to R136). -/
def encodeExt (o : Op) (w : Ins) : Nat :=
  match w.len with
  | .l64 => 0
  | .l96 => if o.immExt then w.imm.toNat else encodeX32 w
  | .l128 => if o.immExt then w.imm.toNat else encodeX32 w + 2 ^ 32 * w.imm.toNat

/-- The C, XMOD and other fields of X32 that the 64-bit form has (05 R134). -/
def Ins.plainX32 (w : Ins) : Prop :=
  w.c = .z ∧ w.xmod = 0 ∧ w.wmask = none ∧ w.zero = false ∧ w.rnd = 0 ∧ w.sat = false ∧ w.ftz = false

theorem encodeX32_eq_default_iff {sd : Side} {o : Op} {w : Ins} (hn : w.numbersOk) (hw : w.operandsWf sd o) :
    x32Default = encodeX32 w ↔ w.plainX32 := by
  obtain ⟨-, -, hm', hr⟩ := hn
  have hcw := hw.2.2.2
  constructor
  · intro h
    obtain ⟨hc, hm, hz, hr, hs, hf, hx⟩ := (ext_eq_iff (Opd.code_lt_of_wf hcw) (encOpt_lt hm') (boolNat_lt _) (by omega)
      (boolNat_lt _) (boolNat_lt _)).mp h
    have hread : decodeOpd sd false (bits x32Default 9 0) = some w.c := (decodeOpd_eq_some_iff (by decide)).mpr ⟨hc, hcw⟩
    have hopt : optField (bits x32Default 13 10) = some w.wmask := optField_eq_some_iff.mpr ⟨hm, hm'⟩
    refine ⟨?_, ?_, ?_, ?_, hr.symm, ?_, ?_⟩
    · cases sd <;> exact (Option.some.inj hread).symm
    · exact BitVec.eq_of_toNat_eq hx.symm
    · exact (Option.some.inj hopt).symm
    · exact (pol_iff.mpr hz).2
    · exact (bitAt_eq_iff.mpr hs).symm
    · exact (bitAt_eq_iff.mpr hf).symm
  · rintro ⟨hc, hx, hm, hz, hr, hs, hf⟩
    rw [encodeX32, hc, hx, hm, hz, hr, hs, hf]
    rfl

/-- The parts of `Ins.fits`: the numbers, what the length leaves out of X32, and the room of the literal (05 R134 to R136). -/
theorem fits_iff {o : Op} {w : Ins} :
    w.fits o = true ↔ w.numbersOk ∧ ((o.immExt || w.len == .l64) = true → w.plainX32) ∧
      (match w.len with
        | .l64 => w.imm = 0
        | .l96 => if o.immExt then w.imm.toNat < 2 ^ 32 else w.imm = 0
        | .l128 => o.immExt = true ∨ w.imm.toNat < 2 ^ 32) := by
  unfold Ins.fits Ins.numbersOk Ins.plainX32
  cases w.len <;> cases o.immExt <;> simp [and_assoc]

/-- The extension that the decoder reads is the one that the encoder writes. -/
theorem ext_fields_iff {sd : Side} {ext : Nat} {o : Op} {w : Ins} (hn : w.numbersOk) (hw : w.operandsWf sd o)
    (hext : ext < 256 ^ (w.len.size - 8)) :
    o.x32 w.len ext = encodeX32 w ∧ w.imm = o.immField w.len ext ↔ w.fits o = true ∧ ext = encodeExt o w := by
  have hx := encodeX32_lt hn hw
  have himm := w.imm.isLt
  have hdefault := encodeX32_eq_default_iff hn hw
  have hofNat : ∀ {m : Nat}, m < 2 ^ 64 → (w.imm = BitVec.ofNat 64 m ↔ m = w.imm.toNat) := ofNat_eq_iff
  have hzero : w.imm = 0#64 ↔ w.imm.toNat = 0 := (hofNat (by decide)).trans eq_comm
  simp only [fits_iff, hn, true_and]
  unfold Op.x32 Op.immField encodeExt
  cases hl : w.len <;> cases hi : o.immExt <;>
    simp only [hl, Len.size, Nat.reduceSub, Nat.reducePow, Nat.pow_zero] at hext <;>
    simp [hdefault, -BitVec.ofNat_eq_ofNat]
  case l64.false | l64.true => omega
  case l96.false =>
    rw [hofNat (by omega), hzero]
    omega
  case l96.true =>
    rw [hofNat (by omega), and_assoc]
    refine and_congr_right fun _ => ?_
    omega
  case l128.false =>
    rw [hofNat (by omega)]
    omega
  case l128.true => exact fun _ => hofNat hext

theorem wellFormed_iff {sd : Side} {i : Instr} {o : Op} {w : Ins} (h : i.toOp = some (o, w)) :
    WellFormed sd i = true ↔ w.fits o = true ∧ w.operandsWf sd o ∧ o.check sd 512 w = none := by
  simp only [WellFormed, h, Bool.and_eq_true, Option.isNone_iff_eq_none, Ins.operandsWf, and_assoc]

theorem encodeBase_mod (o : Op) (w : Ins) : encodeBase o w % 4 = w.len.code := by
  have := w.len.code_lt
  unfold encodeBase
  omega

theorem encodeBase_lt {sd : Side} {o : Op} {w : Ins} (hn : w.numbersOk) (hw : w.operandsWf sd o) : encodeBase o w < 256 ^ 8 := by
  obtain ⟨hg, hr, -, -⟩ := hn
  obtain ⟨hd, ha, hb, -⟩ := hw
  have := w.len.code_lt
  have := o.code_lt
  have := encOpt_lt hg
  have := Opd.code_lt_of_wf hd
  have := Opd.code_lt_of_wf ha
  have := Opd.code_lt_of_wf hb
  have := boolNat_lt w.fsel
  have := w.mod.isLt
  unfold encodeBase
  omega

theorem encodeExt_lt {sd : Side} {o : Op} {w : Ins} (hn : w.numbersOk) (hw : w.operandsWf sd o) (hf : w.fits o = true) :
    encodeExt o w < 256 ^ (w.len.size - 8) := by
  have hx := encodeX32_lt hn hw
  have himm := w.imm.isLt
  simp only [Ins.fits, Bool.and_eq_true] at hf
  have hf := hf.2
  unfold encodeExt
  cases hl : w.len <;> simp only [hl, Len.size] at hf ⊢ <;> grind

/-- The decoder and the encoder on words as numbers: a base word and an extension of the bytes that its length names decode to an
operation and its fields exactly where those are well-formed and the encoder writes these words for them. -/
theorem decodeOp_iff_encode {sd : Side} {len : Len} {base ext : Nat} {o : Op} {w : Ins} (hb : base < 256 ^ 8)
    (hl : base % 4 = len.code) (hext : ext < 256 ^ (len.size - 8)) :
    decodeOp sd 512 len base ext = .ok (o, w) ↔
      WellFormed sd (Instr.ofOp o w) = true ∧ w.len = len ∧ base = encodeBase o w ∧ ext = encodeExt o w := by
  have hx : o.x32 len ext < 2 ^ 32 := by
    unfold Op.x32
    split
    · decide
    · exact Nat.mod_lt _ (by decide)
  rw [decodeOp_eq_ok_iff, fields_iff hb hl hx, wellFormed_iff (toOp_ofOp o w)]
  constructor
  · rintro ⟨⟨rfl, hbase, hx32, hn, hw⟩, himm, hcheck⟩
    obtain ⟨hf, he⟩ := (ext_fields_iff hn hw hext).mp ⟨hx32, himm⟩
    exact ⟨⟨hf, hw, hcheck⟩, rfl, hbase, he⟩
  · rintro ⟨⟨hf, hw, hcheck⟩, rfl, hbase, he⟩
    have hn := (fits_iff.mp hf).1
    obtain ⟨hx32, himm⟩ := (ext_fields_iff hn hw hext).mpr ⟨hf, he⟩
    exact ⟨⟨rfl, hbase, hx32, hn, hw⟩, himm, hcheck⟩

/-- The bytes of an instruction are those of its base word and of its extension. -/
theorem encode_eq {sd : Side} {i : Instr} {o : Op} {w : Ins} (h : i.toOp = some (o, w)) (hn : w.numbersOk)
    (hw : w.operandsWf sd o) : encode i = leBytes 8 (encodeBase o w) ++ leBytes (w.len.size - 8) (encodeExt o w) := by
  have hx := encodeX32_lt hn hw
  simp only [encode, h, encodeExt]
  cases hl : w.len with
  | l64 => rfl
  | l96 => rfl
  | l128 =>
    dsimp only [Len.size]
    split
    · rfl
    · rw [leBytes_append_leBytes 4 _ hx]
      rfl

/-- The instruction of a given length at the head of the bytes, as `decode` reads it once it knows the length (05 R123). -/
def decodeIns (sd : Side) (regs room : Nat) (bytes : List Byte) (len : Len) : Except Reject Item :=
  if room < len.size then .error .crossesBlock
  else if bytes.length < len.size then .error .tooShort
  else match decodeOp sd regs len (leNat (bytes.take 8)) (leNat ((bytes.drop 8).take (len.size - 8))) with
    | .error r => .error r
    | .ok (o, w) => .ok (.ins (Instr.ofOp o w) len.size)

theorem decode_eq_decodeIns {sd : Side} {regs room : Nat} {bytes : List Byte} {len : Len} (hlong : 8 ≤ bytes.length)
    (hlen : leNat (bytes.take 8) % 4 = len.code) : decode sd regs room bytes = decodeIns sd regs room bytes len := by
  unfold decode decodeIns
  rw [if_neg (by omega)]
  dsimp only
  rw [hlen]
  cases len <;> rfl

/-- What the decoder finds an instruction in: bytes for its length within its block, whose words decode to it (05 R123). -/
theorem decode_eq_ins_iff {sd : Side} {regs room n : Nat} {bytes : List Byte} {i : Instr} :
    decode sd regs room bytes = .ok (.ins i n) ↔
      ∃ len o w, leNat (bytes.take 8) % 4 = len.code ∧ len.size ≤ room ∧ len.size ≤ bytes.length ∧
        decodeOp sd regs len (leNat (bytes.take 8)) (leNat ((bytes.drop 8).take (len.size - 8))) = .ok (o, w) ∧
        i = Instr.ofOp o w ∧ n = len.size := by
  constructor
  · intro h
    have hlong : 8 ≤ bytes.length := by
      by_contra hshort
      rw [decode, if_pos (by omega)] at h
      cases h
    have hlen : ∃ len : Len, leNat (bytes.take 8) % 4 = len.code := by
      have hmod := Nat.mod_lt (leNat (bytes.take 8)) (show 0 < 4 by decide)
      interval_cases hm : leNat (bytes.take 8) % 4
      · rw [decode, if_neg (by omega)] at h
        simp only [hm] at h
        split at h <;> cases h
      · exact ⟨.l64, rfl⟩
      · exact ⟨.l96, rfl⟩
      · exact ⟨.l128, rfl⟩
    obtain ⟨len, hlen⟩ := hlen
    rw [decode_eq_decodeIns hlong hlen, decodeIns] at h
    split_ifs at h with hroom hsize
    cases hop : decodeOp sd regs len (leNat (bytes.take 8)) (leNat ((bytes.drop 8).take (len.size - 8))) with
    | error r => rw [hop] at h; cases h
    | ok x =>
      rw [hop] at h
      cases h
      exact ⟨len, x.1, x.2, hlen, by omega, by omega, hop, rfl, rfl⟩
  · rintro ⟨len, o, w, hlen, hroom, hsize, hop, rfl, rfl⟩
    have h8 : 8 ≤ len.size := by cases len <;> decide
    rw [decode_eq_decodeIns (h8.trans hsize) hlen, decodeIns, if_neg (by omega), if_neg (by omega), hop]

/-- Settles O52: both words are numbers of their fields, so that the decoder reads back what the encoder put there, and rows that
share an opcode are told apart by what their checks ask. -/
theorem decodeOfEncode : Obligations.DecodeOfEncode := by
  intro sd i o w room rest hi hwf hroom
  obtain ⟨hf, hw, hcheck⟩ := (wellFormed_iff hi).mp hwf
  have hn := (fits_iff.mp hf).1
  have hbytes := encode_eq hi hn hw
  have hlen8 : (leBytes 8 (encodeBase o w)).length = 8 := leBytes_length ..
  have hlenx : (leBytes (w.len.size - 8) (encodeExt o w)).length = w.len.size - 8 := leBytes_length ..
  have hbase : leNat ((encode i ++ rest).take 8) = encodeBase o w := by
    rw [hbytes, List.append_assoc, List.take_left' hlen8, leNat_leBytes, Nat.mod_eq_of_lt (encodeBase_lt hn hw)]
  have hext : leNat (((encode i ++ rest).drop 8).take (w.len.size - 8)) = encodeExt o w := by
    rw [hbytes, List.append_assoc, List.drop_left' hlen8, List.take_left' hlenx, leNat_leBytes,
      Nat.mod_eq_of_lt (encodeExt_lt hn hw hf)]
  have hsize : w.len.size ≤ (encode i ++ rest).length := by
    have := size_statement i
    simp only [Size.Statement, hi] at this
    rw [List.length_append]
    omega
  refine decode_eq_ins_iff.mpr ⟨w.len, o, w, ?_, hroom, hsize, ?_, (Instr.ofOp_of_toOp hi).symm, rfl⟩
  · rw [hbase, encodeBase_mod]
  · rw [hbase, hext]
    exact (decodeOp_iff_encode (encodeBase_lt hn hw) (encodeBase_mod o w) (encodeExt_lt hn hw hf)).mpr
      ⟨by rwa [Instr.ofOp_of_toOp hi], rfl, rfl, rfl⟩

/-- Settles O53: every bit of the words stands in a field that the decoder reads. -/
theorem encodeOfDecode : Obligations.EncodeOfDecode := by
  intro sd room n bytes i h
  obtain ⟨len, o, w, hmod, hroom, hlong, hop, rfl, rfl⟩ := decode_eq_ins_iff.mp h
  have h8 : 8 ≤ len.size := by cases len <;> decide
  have hlen8 : (bytes.take 8).length = 8 := by rw [List.length_take]; omega
  have hlenx : ((bytes.drop 8).take (len.size - 8)).length = len.size - 8 := by rw [List.length_take, List.length_drop]; omega
  have hb : leNat (bytes.take 8) < 256 ^ 8 := by simpa only [hlen8] using leNat_lt (bytes.take 8)
  have hx : leNat ((bytes.drop 8).take (len.size - 8)) < 256 ^ (len.size - 8) := by
    simpa only [hlenx] using leNat_lt ((bytes.drop 8).take (len.size - 8))
  obtain ⟨hwf, rfl, hbase, hext⟩ := (decodeOp_iff_encode hb hmod hx).mp hop
  obtain ⟨hf, hw, -⟩ := (wellFormed_iff (toOp_ofOp o w)).mp hwf
  refine ⟨hwf, ?_, hroom⟩
  calc encode (Instr.ofOp o w)
      = leBytes 8 (encodeBase o w) ++ leBytes (w.len.size - 8) (encodeExt o w) :=
        encode_eq (toOp_ofOp o w) (fits_iff.mp hf).1 hw
    _ = bytes.take 8 ++ (bytes.drop 8).take (w.len.size - 8) := by
        rw [← hbase, ← hext, leBytes_leNat hlen8, leBytes_leNat hlenx]
    _ = bytes.take w.len.size := by rw [← List.take_add, Nat.add_sub_cancel' h8]

end Sys2Proof
end

section
/-! PROOFS. Clause headers, and the words of the spec's examples (05 R125, R133 to R144). -/

namespace Sys2Proof

open Machine Laws

/-- The set-flag that a field of a header names: none at 15 (05 R125). -/
theorem optField_of_setFlag {n : Nat} (h : n < 12 ∨ n = 15) : optField n = some (if n = 15 then none else some n) := by
  unfold optField
  grind

theorem optField_of_reserved {n : Nat} (h : ¬ (n < 12 ∨ n = 15)) : optField n = none := by
  unfold optField
  grind

theorem setFlag_isSome {n : Nat} : (if n = 15 then none else some n : Option Nat).isSome = true ↔ n ≠ 15 := by
  split <;> simp [*]

/-- A word of another kind, or with a reserved bit set, is no header (05 R125). -/
theorem decodeHeader_of_kind {sd : Side} {x : Nat} (h : ¬ (x % 16 = 4 ∧ x < 2 ^ 27)) : decodeHeader sd x = .error .noHeader := by
  have hcond : (bits x 3 0 != 4 || x / 2 ^ 27 != 0) = true := by
    simp only [bits, Bool.or_eq_true, bne_iff_ne, ne_eq]
    omega
  rw [decodeHeader, if_pos hcond]

/-- A word of the kind is read by its set-flags, and on the control thread it may name none and wait for nothing (05 R125). -/
theorem decodeHeader_of_flags {sd : Side} {x : Nat} (hk : x % 16 = 4) (hx : x < 2 ^ 27)
    (ha : bits x 19 16 < 12 ∨ bits x 19 16 = 15) (hb : bits x 23 20 < 12 ∨ bits x 23 20 = 15) :
    decodeHeader sd x =
      if sd = .ctl ∧ ¬ (bits x 15 4 = 0 ∧ bits x 19 16 = 15 ∧ bits x 23 20 = 15) then .error .noHeader
      else .ok { yield := bitAt x 26, blocks := bits x 25 24 + 1, wait := bits x 15 4
                 setA := if bits x 19 16 = 15 then none else some (bits x 19 16)
                 setB := if bits x 23 20 = 15 then none else some (bits x 23 20) } := by
  have hcond : ¬ (bits x 3 0 != 4 || x / 2 ^ 27 != 0) = true := by
    simp only [bits, Bool.or_eq_true, bne_iff_ne, ne_eq]
    omega
  rw [decodeHeader, if_neg hcond, optField_of_setFlag ha, optField_of_setFlag hb]
  dsimp only
  refine if_congr ?_ rfl rfl
  simp only [Bool.and_eq_true, Bool.or_eq_true, beq_iff_eq, bne_iff_ne, setFlag_isSome]
  tauto

/-- A set-flag of 12 to 14 is reserved (05 R125). -/
theorem decodeHeader_of_reserved {sd : Side} {x : Nat}
    (h : ¬ ((bits x 19 16 < 12 ∨ bits x 19 16 = 15) ∧ (bits x 23 20 < 12 ∨ bits x 23 20 = 15))) :
    ∃ r, decodeHeader sd x = .error r := by
  unfold decodeHeader
  split
  · exact ⟨_, rfl⟩
  rcases not_and_or.mp h with h | h
  · rw [optField_of_reserved h]
    exact ⟨_, rfl⟩
  · rw [optField_of_reserved h]
    cases optField (bits x 19 16) <;> exact ⟨_, rfl⟩

/-- Settles O54: past the kind and the reserved bits the decoder reads the two set-flags, and last asks what the control thread's side
leaves free. -/
theorem clauseHeaders : Obligations.ClauseHeaders := by
  intro sd x
  dsimp only
  constructor
  · rintro ⟨hk, hx, ha, hb, hctl⟩
    rw [decodeHeader_of_flags hk hx ha hb, if_neg (by tauto)]
  · intro hbad
    by_cases hkind : x % 16 = 4 ∧ x < 2 ^ 27
    case neg => exact ⟨_, decodeHeader_of_kind hkind⟩
    case pos =>
    by_cases hflags : (bits x 19 16 < 12 ∨ bits x 19 16 = 15) ∧ (bits x 23 20 < 12 ∨ bits x 23 20 = 15)
    case pos =>
      rw [decodeHeader_of_flags hkind.1 hkind.2 hflags.1 hflags.2, if_pos (by tauto)]
      exact ⟨_, rfl⟩
    case neg => exact decodeHeader_of_reserved hflags

/-- Settles O51: each word is decoded by evaluation. -/
theorem exampleWordsDecode : Obligations.ExampleWordsDecode := by
  unfold Obligations.ExampleWordsDecode
  decide +kernel


end Sys2Proof
end

section
/-! PROOFS. A step runs the instruction that its agent stands at (05 R123, R127, R145). -/

namespace Sys2Proof.Machine

open Sys2Proof Host Spec

theorem step_of_powered {s : State} (h : s.powered = true) : step s = turn s := by simp [step, h]

/-- An agent that acts takes its turn in the state of that turn (log 1). -/
theorem step_of_acts {s s₁ : State} {a : Agent} (h : acts s s₁ a) : step s = agentTurn a s₁ := by
  obtain ⟨hpower, hlets, ⟨hend, hcur, rfl⟩ | ⟨t, rest, hagenda, hact, rfl⟩⟩ := h
  · have hlets' : s.letsAgent a = true := by
      rw [← hlets]
      exact State.letsAgent_congr a (by rw [State.tickCore_inReset]) (by rw [State.tickCore_islands])
    rw [step_of_powered hpower, turn_end hend hcur hlets']
  · rw [step_of_powered hpower, turn_agent hagenda hact hlets]

theorem issueAt_ins {s : State} {si : Site} {i : Instr} {n : Nat} (h : si.pos.word .team si.team.regs = .ok (.ins i n)) :
    issueAt s si = exec i s := by rw [issueAt, h]

theorem issueAt_fill {s : State} {si : Site} (h : si.pos.word .team si.team.regs = .ok .fill) :
    issueAt s si = .next (s.updTeam si.core si.slot fun t => t.stepOver si.entry si.pos 8) := by rw [issueAt, h]

theorem issueAt_reject {s : State} {si : Site} {r : Reject} (h : si.pos.word .team si.team.regs = .error r) :
    issueAt s si = .next (s.trapSite si (rejectTrap r) 8) := by rw [issueAt, h]

/-- A running control thread inside a clause issues the word it stands at. -/
theorem ctlTurn_issue {s : State} {core : Nat} {cx : CtxId} {p : ClausePos} (hmode : (s.ctl core).mode = .running)
    (howner : (s.ctl core).owner = some cx) (hclause : (s.ctl core).clause = some p) (hend : p.atEnd = false) :
    (∀ i n, p.word .ctl 512 = .ok (.ins i n) → ctlTurn core s = exec i s) ∧
      ∀ r, p.word .ctl 512 = .error r → ctlTurn core s = .next (s.raiseCtl core (rejectTrap r) (p.base + p.off) (some p)) := by
  constructor
  · intro i n hword
    simp [ctlTurn, hmode, howner, hclause, hend, hword]
  · intro r hword
    simp [ctlTurn, hmode, howner, hclause, hend, hword]

/-- Settles O55: whose turn it is, the agent issues the word it stands at, and an event of the agenda is executed. -/
theorem stepRunsTheDecodedInstruction : Obligations.StepRunsTheDecodedInstruction := by
  intro s s₁
  refine ⟨?team, ?ctl, ?event⟩
  case team =>
    intro core slot t si hacts ht hleaving hrole hsite hend
    have hstep : step s = issueAt s₁ si := (step_of_acts hacts).trans (teamTurn_issue ht hleaving hrole hsite hend)
    exact ⟨fun i n h => hstep.trans (issueAt_ins h), fun h => hstep.trans (issueAt_fill h),
      fun r h => hstep.trans (issueAt_reject h)⟩
  case ctl =>
    intro core cx p hacts hmode howner hclause hend
    have hstep : step s = ctlTurn core s₁ := step_of_acts hacts
    obtain ⟨hins, hreject⟩ := ctlTurn_issue hmode howner hclause hend
    exact ⟨fun i n h => hstep.trans (hins i n h), fun r h => hstep.trans (hreject r h)⟩
  case event =>
    intro t rest i hpower hagenda hact hop hs hlets
    subst hs
    rw [step_of_powered hpower, turn_event hagenda hact hop hlets]

end Sys2Proof.Machine
end

section
/-! PROOFS. A failed decode check traps before any effect (05 R145, 09 R273). -/

namespace Sys2Proof.Machine

open Sys2Proof Host Spec

theorem issueTeam_illegal {s : State} {si : Site} {o : Op} {w : Ins} (body : Site → TMask → Issue) (h : s.site? = some si)
    (hi : si.illegal o w = true) : issueTeam o w s body = .next (s.trapSite si ⟨clsILLOP, 0, 0⟩ w.len.size) := by
  simp only [issueTeam, h, hi, if_true]
  rfl

theorem issueCtl_illegal {s : State} {si : CtlSite} {o : Op} {w : Ins} (body : CtlSite → CtlIssue) (h : s.ctlSite? = some si)
    (hi : (o.check .ctl 512 w).isSome = true) :
    issueCtl o w s body = .next (s.stopCtl si w.len.size ⟨clsILLOP, 0, 0⟩) := by
  simp only [issueCtl, h, hi, if_true]
  rfl

/-! The wrappers of the float and matrix instructions issue on a team. -/

theorem roundOp_issues (o : Op) (w : Ins) (s : State) (wide : Bool) (n : Nat)
    (f : Site → RCtl → Nat → List Nat → Nat × Flags) :
    ∃ body, roundOp o w s wide n f = issueTeam o w s body := ⟨_, rfl⟩

theorem floatOp_issues (o : Op) (w : Ins) (s : State) (f : Fmt) (g : Mode → Val → Val → Val → Val × Flags) :
    ∃ body, floatOp o w s f g = issueTeam o w s body := roundOp_issues ..

theorem halfOp_issues (o : Op) (w : Ins) (s : State) (g : Mode → Val → Val → Val → Val × Flags) :
    ∃ body, halfOp o w s g = issueTeam o w s body := by
  unfold halfOp
  exact roundOp_issues ..

theorem exactOp_issues (o : Op) (w : Ins) (s : State) (f : Fmt) (wide : Bool) (g : Bool → Nat → Nat → Nat × Flags) :
    ∃ body, exactOp o w s f wide g = issueTeam o w s body := ⟨_, rfl⟩

theorem minMaxOp_issues (o : Op) (w : Ins) (s : State) (f : Fmt) (isMax : Bool) :
    ∃ body, minMaxOp o w s f isMax = issueTeam o w s body := exactOp_issues ..

theorem fsetpOp_issues (o : Op) (w : Ins) (s : State) (f : Fmt) : ∃ body, fsetpOp o w s f = issueTeam o w s body := ⟨_, rfl⟩

theorem approxOp_issues (o : Op) (fn : Config.ApproxFn) (w : Ins) (s : State) :
    ∃ body, approxOp o fn w s = issueTeam o w s body := ⟨_, rfl⟩

theorem issueMx_issues (o : Op) (w : Ins) (s : State) (b : Site → Except MxBad Issue) :
    ∃ body, issueMx o w s b = issueTeam o w s body := ⟨_, rfl⟩

theorem claimUnits_issues (o : Op) (acc : Bool) (w : Ins) (s : State) : ∃ body, claimUnits o acc w s = issueTeam o w s body :=
  issueMx_issues ..

theorem releaseUnits_issues (o : Op) (acc : Bool) (w : Ins) (s : State) : ∃ body, releaseUnits o acc w s = issueTeam o w s body :=
  issueMx_issues ..

theorem issueFilter_issues (o : Op) (w : Ins) (s : State)
    (check : State → Reach → Nat → Checked (FilterWork × Window)) (n : Nat) :
    ∃ body, issueFilter o w s check n = issueTeam o w s body := ⟨_, rfl⟩

/-- An instruction of the team's side alone issues on a team. SEL shares the wrapper of the integer instructions of both sides. -/
theorem exec_teamSide {o : Op} (hteam : o.onSide .team = true) (hctl : o.onSide .ctl = false) (hsel : o ≠ .sel)
    (w : Ins) (s : State) :
    ∃ body, exec (Instr.ofOp o w) s = issueTeam o w s body := by
  cases o with
  | kld | kst | kbr | kjmp | kjx | kcall | kret | eqpop | eqwait | dqpush | launch | ksleep | khalt | ktrap | kcsr | tclose
    | tlpub | trstat | sred | sbank | svb | smac | sacc | sbexit | draw | rstate | rclear | rresolve | rsync => cases hteam
  | nop | winf | winw | mfetch | mlist | cpkick | mov | movi32 | movi64 | iadd | isub | imul | imulh | imad | imin | imax | iabs
    | ineg | and | or | xor | andn | not | shl | shr | sar | rot | popc | clz | brev | bfe | bfi | iaddc | lea => cases hctl
  | sel => exact absurd rfl hsel
  | fadd | fmul | ffma | frcp | fsqrt | dadd | dmul | dfma | drcp =>
    dsimp only [Instr.ofOp, exec]
    exact floatOp_issues ..
  | hadd2 | hmul2 | hfma2 =>
    dsimp only [Instr.ofOp, exec]
    exact halfOp_issues ..
  | fmin | fmax | dmin | dmax =>
    dsimp only [Instr.ofOp, exec]
    exact minMaxOp_issues ..
  | fclass =>
    dsimp only [Instr.ofOp, exec]
    exact exactOp_issues ..
  | fsetp | dsetp =>
    dsimp only [Instr.ofOp, exec]
    exact fsetpOp_issues ..
  | frsq | fex2 | flg2 | fsin | fcos | ftanh =>
    dsimp only [Instr.ofOp, exec]
    exact approxOp_issues ..
  | cvt | cvtn | cvtw =>
    dsimp only [Instr.ofOp, exec, execCvt, execCvtn, execCvtw]
    exact roundOp_issues ..
  | tclaim | aclaim =>
    dsimp only [Instr.ofOp, exec]
    exact claimUnits_issues ..
  | trels | arels =>
    dsimp only [Instr.ofOp, exec]
    exact releaseUnits_issues ..
  | mnext | mma | mzero | mrd | mwr | mwrT | mst | mscl | mstat =>
    dsimp only [Instr.ofOp, exec]
    exact issueMx_issues ..
  | texs | hgl | resq =>
    dsimp only [Instr.ofOp, exec, execHgl]
    exact issueFilter_issues ..
  | _ =>
    dsimp only [Instr.ofOp, exec]
    exact ⟨_, rfl⟩

theorem exec_bothSides {o : Op} (hteam : o.onSide .team = true) (hctl : o.onSide .ctl = true) (w : Ins) (s : State) :
    ∃ team ctl, exec (Instr.ofOp o w) s = issueBoth o w s team ctl := by
  cases o with
  | nop | winf | winw | mfetch | mlist | cpkick | mov | movi32 | movi64 | iadd | isub | imul | imulh | imad | imin | imax | iabs
    | ineg | and | or | xor | andn | not | shl | shr | sar | rot | popc | clz | brev | bfe | bfi | iaddc | lea => exact ⟨_, _, rfl⟩
  | kld | kst | kbr | kjmp | kjx | kcall | kret | eqpop | eqwait | dqpush | launch | ksleep | khalt | ktrap | kcsr | tclose
    | tlpub | trstat | sred | sbank | svb | smac | sacc | sbexit | draw | rstate | rclear | rresolve | rsync => cases hteam
  | _ => cases hctl

theorem exec_ctlSide {o : Op} (hctl : o.onSide .ctl = true) (hteam : o.onSide .team = false) (w : Ins) (s : State) :
    ∃ body, exec (Instr.ofOp o w) s = issueCtl o w s body := by
  cases o with
  | kld | kst | kbr | kjmp | kjx | kcall | kret | eqpop | eqwait | dqpush | launch | ksleep | khalt | ktrap | kcsr | tclose
    | tlpub | trstat | sred | sbank | svb | smac | sacc | sbexit | draw | rstate | rclear | rresolve | rsync => exact ⟨_, rfl⟩
  | _ => cases hteam

/-- An instruction of the team's side issues on the acting team. -/
theorem exec_onTeam {s : State} {si : Site} {o : Op} (hteam : o.onSide .team = true) (h : s.site? = some si) (w : Ins) :
    ∃ body, exec (Instr.ofOp o w) s = issueTeam o w s body := by
  by_cases hctl : o.onSide .ctl = true
  · obtain ⟨team, ctl, hexec⟩ := exec_bothSides hteam hctl w s
    exact ⟨team, hexec.trans (issueBoth_team team ctl h)⟩
  · by_cases hsel : o = .sel
    · subst hsel
      exact ⟨_, issueBoth_team _ _ h⟩
    · exact exec_teamSide hteam (Bool.eq_false_iff.mpr hctl) hsel w s

/-- An instruction of the control thread's side issues on the acting control thread. -/
theorem exec_onCtl {s : State} {si : CtlSite} {o : Op} (hctl : o.onSide .ctl = true) (h : s.ctlSite? = some si) (w : Ins) :
    ∃ body, exec (Instr.ofOp o w) s = issueCtl o w s body := by
  by_cases hteam : o.onSide .team = true
  · obtain ⟨team, ctl, hexec⟩ := exec_bothSides hteam hctl w s
    exact ⟨ctl, hexec.trans (issueBoth_ctl team ctl h)⟩
  · exact exec_ctlSide hctl (Bool.eq_false_iff.mpr hteam) w s

/-- ILLOP stops the control thread at the instruction, with no code and no address (09 R273). -/
theorem State.stopCtl_illop (s : State) (si : CtlSite) (size : Nat) :
    s.stopCtl si size ⟨clsILLOP, 0, 0⟩ = s.setCtl si.core { s.ctl si.core with
      step := false, got := [], mode := .stopped false, cause := clsILLOP, code := 0, pc := si.pc, fa := 0
      clause := some si.pos } := by
  unfold State.stopCtl State.onCtl State.raiseCtl
  simp only [State.ctl_setCtl_self, State.setCtl_setCtl]
  cases (s.ctl si.core).owner <;> rfl

/-- Settles O16: each side's wrapper asks the decode checks first, and what it does where one fails is the trap alone. -/
theorem decodeChecksTrap : Obligations.DecodeChecksTrap := by
  constructor
  · intro o w s si hteam h hill
    obtain ⟨body, hexec⟩ := exec_onTeam hteam h w
    exact hexec.trans (issueTeam_illegal body h hill)
  · intro o w s si hctl h hill
    obtain ⟨body, hexec⟩ := exec_onCtl hctl h w
    refine ⟨_, hexec.trans (issueCtl_illegal body h hill), ?_⟩
    rw [State.stopCtl_illop]
    simp [State.ctlSite?_ctl h]

end Sys2Proof.Machine
end

section
/-! PROOFS. Steps of the sequencer and ends of waits (05 R126 to R129; 07 R194 to R226; 09 R255, R265, R272). -/

namespace Sys2Proof.Machine

open Sys2Proof Host Spec

/-! Splits, roles and claims (07 R194 to R200, R212). -/

theorem exec_quantumExpiry {s : State} {core slot : Nat} {t : Team} (ht : s.team? core slot = some t) (hruns : s.teamRuns t = true)
    (hleaving : t.leaving = none) (hpass : t.mayPass = true) :
    exec (.quantumExpiry core slot) s = .next (s.switchSplit core slot t) := by
  simp [exec, execQuantumExpiry, ht, hruns, hleaving, hpass]

theorem exec_clauseStart {s : State} {core slot e : Nat} {t : Team} {p : Split} (ht : s.team? core slot = some t)
    (hruns : s.teamRuns t = true) (hleaving : t.leaving = none) (hrole : t.pendingRole = none) (hrunning : t.running = some e)
    (hp : t.splits.get? e = some p) (hclause : p.clause = none) (hwait : p.wait = .none) :
    exec (.clauseStart core slot) s = .next (s.startClause core slot e t) := by
  simp [exec, execClauseStart, ht, hruns, hleaving, hrole, hrunning, hp, hclause, hwait]

theorem exec_sleepExpiry {s : State} {core slot e til : Nat} {t : Team} {p : Split} (ht : s.team? core slot = some t)
    (hp : t.splits.get? e = some p) (hwait : p.wait = .sleep til) (htil : til ≤ (s.coreOf core).clk) :
    exec (.sleepExpiry core slot e) s =
      .next (s.setTeam core slot { t with splits := t.splits.set e { p with wait := .none } }) := by
  simp [exec, execSleepExpiry, ht, hp, hwait, htil]

theorem exec_issueStarvationPromote {s : State} {core slot : Nat} {t : Team} (ht : s.team? core slot = some t)
    (hruns : s.teamRuns t = true) (hrunning : t.running.isSome = true) (hclk : t.lastClk + 1024 ≤ (s.coreOf core).clk) :
    exec (.issueStarvationPromote core slot) s = .next (s.setTeam core slot { t with promoted := true }) := by
  simp [exec, execIssueStarvationPromote, ht, hruns, hrunning, hclk]

/-- A team that shrinks, or whose growth finds room in its turn, enters the role (07 R212). -/
theorem exec_roleSwitch {s : State} {core slot n k entry regs cls : Nat} {t : Team} {l : Launch} (ht : s.team? core slot = some t)
    (hrole : t.pendingRole = some (n, k)) (hl : s.launchOf t = some l) (hrec : l.record.roles[n]? = some (entry, regs, cls))
    (hruns : s.teamRuns t = true) (hbetween : t.between = true) (hleaving : t.leaving = none) (hflags : t.flagsZero 0xFFF = true)
    (hroom : regs ≤ t.regs ∨ (s.regsUsed core + t.threads * (regs - t.regs) ≤ coreRegs ∧
      s.growthBefore core slot (if k = 0 then s.nextId + 1 else k) = false)) :
    exec (.roleSwitch core slot) s = .next (s.setTeam core slot (t.enterRole n entry regs cls)) := by
  by_cases hshrinks : regs ≤ t.regs
  · simp [exec, execRoleSwitch, ht, hrole, hl, hrec, hruns, hbetween, hleaving, hflags, hshrinks]
  · obtain ⟨hregs, hturn⟩ := hroom.resolve_left hshrinks
    simp [exec, execRoleSwitch, ht, hrole, hl, hrec, hruns, hbetween, hleaving, hflags, hshrinks, hregs, hturn]

theorem exec_claimGrant {s : State} {core : Nat} {q : Claim} {cx : Bool × Nat} {rest : List Claim}
    (hclaims : (s.mx core).claims = q :: rest) (hclaim : s.claimOf core q = some cx)
    (hfree : ∀ n ∈ unitsOf cx.2, (s.mx core).isFree cx.1 n = true) :
    exec (.claimGrant core) s =
      .next ((s.setMx core { (s.mx core).take q.slot cx.1 (unitsOf cx.2) with claims := rest }).updTeam core q.slot fun t =>
        { t with splits := t.splits.alter q.entry fun p => { p with wait := .none } }) := by
  have hall : (unitsOf cx.2).all ((s.mx core).isFree cx.1) = true := List.all_eq_true.mpr hfree
  simp [exec, execClaimGrant, hclaims, hclaim, hall]

theorem splitSteps : SplitSteps := by
  intro s core slot e t p ht
  refine ⟨exec_quantumExpiry ht, ?_, ?_, exec_issueStarvationPromote ht, ?_, ?_⟩
  · intro hruns hleaving hrole hrunning hp hclause hwait
    exact exec_clauseStart ht hruns hleaving hrole hrunning hp hclause hwait
  · intro til hp hwait htil
    exact exec_sleepExpiry ht hp hwait htil
  · intro n k l entry regs cls hrole hl hrec hruns hbetween hleaving hflags hroom
    exact exec_roleSwitch ht hrole hl hrec hruns hbetween hleaving hflags hroom
  · rintro q cx rest hclaims rfl hclaim hfree
    exact exec_claimGrant hclaims hclaim hfree

/-! Accesses that no channel in bank mode bars (14 R401). -/

theorem State.keysStuck_of_free {s : State} {thru : Bool} {keys : List Nat}
    (h : ∀ c ∈ crumbsOf keys, s.barred none (chanOf (64 * c.1)) = false) : s.keysStuck thru keys = false := by
  unfold State.keysStuck State.keysChans
  rw [Bool.and_eq_false_iff]
  right
  rw [List.any_eq_false]
  intro ch hch
  obtain ⟨c, hc, rfl⟩ := List.mem_map.mp (List.mem_dedup.mp hch)
  simpa using h c (List.mem_of_mem_filter hc)

theorem State.stuck_of_freeOfBanks {s : State} {ps : List Pend} (h : freeOfBanks s ps) : s.stuck ps = false := by
  unfold State.stuck
  rw [Bool.and_eq_false_iff]
  right
  rw [List.any_eq_false]
  intro p hp
  unfold State.pendStuck
  split
  next act hint items ws hwork =>
    rw [Bool.not_eq_true, List.any_eq_false]
    intro x hx
    split
    next keys hplace =>
      rw [State.keysStuck_of_free (h p hp act hint items ws hwork x hx keys hplace)]
      exact Bool.false_ne_true
    next => exact Bool.false_ne_true
  next => exact Bool.false_ne_true

/-! What draining a team's accesses leaves of it. -/

theorem State.team?_of_beyondAccess {s t : State} (h : t.beyondAccess = s.beyondAccess) (core slot : Nat) :
    t.team? core slot = s.team? core slot := by
  have hteams : t.teams = s.teams := (congrArg State.teams h :)
  unfold State.team?
  rw [hteams]

/-- A team whose accesses have taken their place differs in its list of operations alone. -/
theorem State.drainTeam_team? {s : State} {core slot : Nat} {t : Team} (ht : s.team? core slot = some t) :
    ∃ ps, (s.drainTeam core slot).team? core slot = some { t with pend := ps } := by
  have hteam := State.team?_of_beyondAccess (s.performAll_beyondAccess core (s.teamVd t) t.pend) core slot
  unfold State.drainTeam
  rw [ht]
  dsimp only
  rw [State.updTeam_of_team (hteam.trans ht), State.team?_setTeam_self]
  exact ⟨_, rfl⟩

/-! Cohort phases and Leaves (07 R209, R210). -/

theorem State.undefer_readCohort (s : State) (w : Waiter) (keys : List Nat) : readCohort (s.undefer w) keys = readCohort s keys := by
  rw [State.undefer_frame]
  rfl

theorem exec_cohortPhaseSeen {s : State} {core slot addr ph : Nat} {arrived : Bool} {keys : List Nat} {t : Team}
    (ht : s.team? core slot = some t) (hwait : t.cohortWait = some (addr, ph, arrived)) (hlook : s.cohortLook t addr = some keys)
    (hfree : unbarred s (.fetch (.team core slot)) (s.keysChans false keys)) (hphase : (readCohort s keys).phase.toNat ≠ ph) :
    let s₁ := s.undefer (.fetch (.team core slot))
    (arrived = true → exec (.cohortPhaseSeen core slot) s = .next ((s₁.setTeam core slot t.cohortReady).sync core)) ∧
      ∀ keys', arrived = false → s₁.cohortKeys t addr = .ok keys' →
        exec (.cohortPhaseSeen core slot) s = .next ((writeCohort s₁ (s₁.teamVd t) keys' (readCohort s keys).arrive).setTeam
          core slot (t.cohortRearm addr (readCohort s keys).phase.toNat)) := by
  constructor
  · rintro rfl
    simp [exec, execCohortPhaseSeen, ht, hwait, hlook, State.gate_of_unbarred _ hfree, State.undefer_readCohort, hphase]
  · rintro keys' rfl hkeys
    simp [exec, execCohortPhaseSeen, ht, hwait, hlook, State.gate_of_unbarred _ hfree, State.undefer_readCohort, hphase, hkeys]

theorem exec_cohortLeaveAtExit {s : State} {core slot pc : Nat} {m : Membership} {rest : List Membership} {keys : List Nat} {t : Team}
    (ht : s.team? core slot = some t) (hleaving : t.leaving = some pc) (hcohorts : t.cohorts = m :: rest)
    (hfault : t.stops.fault = false) (hwaits : s.leaveWaits t = false) (hkeys : s.cohortKeys t m.addr = .ok keys)
    (hfree : unbarred s (.fetch (.team core slot)) (s.keysChans false keys)) :
    let s₂ := ((s.undefer (.fetch (.team core slot))).drainTeam core slot).sync core
    exec (.cohortLeaveAtExit core slot) s =
      .next ((writeCohort s₂ (s₂.teamVd t) keys ((readCohort s₂ keys).leave m)).updTeam core slot fun t =>
        { t with cohorts := rest }) := by
  simp [exec, execCohortLeaveAtExit, ht, hleaving, hcohorts, hfault, hwaits, hkeys, State.gate_of_unbarred _ hfree]

/-! A team leaves its slot (07 R225). -/

theorem State.walkEnd_mem (s : State) (core slot : Nat) : (s.walkEnd core slot).mem = s.mem := by
  have hfold : ∀ l : List Nat, (l.foldl State.abortOp s).mem = s.mem := fun l =>
    foldl_keeps (fun u : State => u.mem = s.mem) State.abortOp (fun _ _ h => h) l s rfl
  unfold State.walkEnd
  split
  · split
    · dsimp only
      split
      · exact hfold _
      · exact hfold _
    · rfl
  · rfl

/-- The unit of that number is not held by the team in the slot. -/
def Unheld {α : Type} (holder : α → Option Nat) (slot : Nat) (t : Tbl α) (n : Nat) : Prop :=
  ∀ x, t.get? n = some x → holder x ≠ some slot

section Units

variable {α : Type} {holder : α → Option Nat} {slot : Nat}

theorem unheld_of_not_listed {t : Tbl α} {n : Nat} (h : n ∉ (t.filter fun x => holder x.2 == some slot).map (·.1)) :
    Unheld holder slot t n := by
  intro x hx hholder
  exact h (List.mem_map.mpr ⟨(n, x), List.mem_filter.mpr ⟨Tbl.mem_of_get? hx, by simpa using hholder⟩, rfl⟩)

/-- Units released one by one: each release frees its own unit and leaves the others as they were. -/
theorem unheld_foldl {f : Tbl α → Nat → Tbl α} (hself : ∀ t n, Unheld holder slot (f t n) n)
    (hother : ∀ t k n, n ≠ k → (f t k).get? n = t.get? n) (l : List Nat) (t : Tbl α)
    (h : ∀ n, n ∉ l → Unheld holder slot t n) (n : Nat) : Unheld holder slot (l.foldl f t) n := by
  induction l generalizing t with
  | nil => exact h n (List.not_mem_nil)
  | cons k ks ih =>
    refine ih (f t k) fun m hm => ?_
    by_cases hk : m = k
    · subst hk
      exact hself t m
    · intro x hx
      rw [hother t k m hk] at hx
      exact h m (by simp [hk, hm]) x hx

end Units

/-- Every slot of the team is free, or left to the fetch that still fills it (10 R281). -/
theorem Matrix.unheld_drop_slots (m : Matrix) (slot n : Nat) :
    Unheld MSlot.holder slot (m.drop false ((m.slots.filter fun x => x.2.holder == some slot).map (·.1))).slots n := by
  refine unheld_foldl ?_ ?_ _ _ (fun _ => unheld_of_not_listed) n
  · intro t k x hx
    split at hx
    · split at hx
      · rw [Tbl.get?_set_self] at hx
        cases hx
        exact nofun
      · rw [Tbl.get?_erase_self] at hx
        cases hx
    next hnone => exact absurd hx (by rw [hnone]; exact nofun)
  · intro t k n hne
    split
    · split
      · exact Tbl.get?_set_ne _ _ hne
      · exact Tbl.get?_erase_ne _ hne
    · rfl

theorem Matrix.unheld_drop_accs (m : Matrix) (slot n : Nat) :
    Unheld MAcc.holder slot (m.drop true ((m.accs.filter fun x => x.2.holder == some slot).map (·.1))).accs n := by
  refine unheld_foldl ?_ ?_ _ _ (fun _ => unheld_of_not_listed) n
  · intro t k x hx
    rw [Tbl.get?_erase_self] at hx
    cases hx
  · intro t k n hne
    exact Tbl.get?_erase_ne _ hne

theorem State.mxRelease_unheld (s : State) (core slot n : Nat) :
    Unheld MSlot.holder slot ((s.mxRelease core slot).mx core).slots n ∧
      Unheld MAcc.holder slot ((s.mxRelease core slot).mx core).accs n := by
  unfold State.mxRelease State.setMx State.mx
  rw [State.coreOf_setCore_self]
  exact ⟨Matrix.unheld_drop_slots _ slot n, Matrix.unheld_drop_accs _ slot n⟩

theorem exec_teamRetire {s : State} {core slot : Nat} {t : Team} (ht : s.team? core slot = some t)
    (hleaving : t.leaving.isSome = true) (hcohorts : t.cohorts = []) (hflags : t.flagsZero 0xFFF = true)
    (hstores : t.onlyStores = true) (hfault : t.stops.fault = false) (hfree : freeOfBanks s t.pend) :
    ∃ u, exec (.teamRetire core slot) s = .next u ∧ u.team? core slot = none ∧ u.mem = (s.drainTeam core slot).mem ∧
      ∀ n, (∀ x, (u.mx core).slots.get? n = some x → x.holder ≠ some slot) ∧
        ∀ x, (u.mx core).accs.get? n = some x → x.holder ≠ some slot := by
  let r := ((s.drainTeam core slot).walkEnd core slot).mxRelease core slot
  refine ⟨{ r with teams := r.teams.erase (teamKey core slot) }, ?_, ?_, ?_, ?_⟩
  · obtain ⟨pc, hpc⟩ := Option.isSome_iff_exists.mp hleaving
    simp [exec, execTeamRetire, ht, hpc, hcohorts, hflags, hstores, hfault, State.stuck_of_freeOfBanks hfree, r]
  · exact Tbl.get?_erase_self ..
  · exact State.walkEnd_mem ..
  · exact fun n => State.mxRelease_unheld _ core slot n

/-! A CCTL is answered (08 R240). -/

theorem State.pinCrumb_beyondAccess (s : State) (cx : CtxId) (pa : Nat) : (s.pinCrumb cx pa).2.beyondAccess = s.beyondAccess := by
  have hrefused := s.touchCrumb_beyondAccess cx.vd 2 (pa / 64) true
  unfold State.pinCrumb
  dsimp only
  split
  · split
    · rfl
    · exact hrefused
  · split
    · exact hrefused
    · split
      · exact hrefused
      next way out _ =>
        cases out with
        | none => rfl
        | some c => exact s.evictCrumb_beyondAccess c

theorem State.cctlKey_beyondAccess (s : State) (cx : CtxId) (op k : Nat) :
    (s.cctlKey cx op k).2.beyondAccess = s.beyondAccess := by
  unfold State.cctlKey
  split
  · rfl
  next pa _ =>
  split
  · split
    · exact s.touchTile_beyondAccess cx.vd 2 (pa / 64) true
    · exact s.pinCrumb_beyondAccess cx pa
  · split
    · split <;> rfl
    · rfl
  · split
    · split
      · rfl
      · exact s.evictCrumb_beyondAccess (pa / 64)
    · rfl

theorem State.cctlAll_beyondAccess (s : State) (cx : CtxId) (op : Nat) (l : List (Nat × Nat)) :
    (s.cctlAll cx op l).2.beyondAccess = s.beyondAccess := by
  induction l generalizing s with
  | nil => rfl
  | cons x xs ih => exact (ih _).trans (s.cctlKey_beyondAccess cx op x.2)

/-- The answers write predicates, and nothing else of the team. -/
def Team.cctlAnswers (t : Team) (wm : TMask) (zero : Bool) (d : Option Nat) (qs : List (Nat × Bool)) : Team :=
  match d with
  | some n => qs.foldl (fun t x => (t.writePbit wm zero x.1 n x.2).writePbit wm zero x.1 (n + 1) (!x.2)) t
  | none => t

theorem Team.cctlAnswers_eq (t : Team) (wm : TMask) (zero : Bool) (d : Option Nat) (qs : List (Nat × Bool)) :
    t.cctlAnswers wm zero d qs = { t with p := (t.cctlAnswers wm zero d qs).p } := by
  cases d with
  | none => rfl
  | some n =>
    refine foldl_keeps (fun u : Team => u = { t with p := u.p }) _ (fun u x hu => ?_) qs t rfl
    rw [Team.writePbit_eq (Team.writePbit ..), Team.writePbit_eq, hu]

theorem exec_cctlAnswer {s : State} {core slot op entry : Nat} {q : Pend} {items : List (Nat × Nat)} {d : Option Nat} {wm : TMask}
    {zero : Bool} {cx : CtxId} {t : Team} (ht : s.team? core slot = some t)
    (hfind : t.pend.find? (fun p => match p.work with | .cctl .. => true | _ => false) = some q)
    (hwork : q.work = .cctl op entry items d wm zero) (hcx : s.teamCx t = some cx) (hfree : freeOfBanks s t.pend) :
    ∃ u v, exec (.cctlAnswer core slot) s = .next u ∧ u.team? core slot = some v ∧ v.v = t.v ∧ v.s = t.s ∧
      u.lines = ((s.drainTeam core slot).cctlAll cx op items).2.lines ∧ (∀ x ∈ v.pend, x.id ≠ q.id) ∧
      v.splits = t.splits.alter entry (fun p => { p with wait := .none }) ∧ (d = none → v.p = t.p) := by
  obtain ⟨ps, hdrained⟩ := State.drainTeam_team? ht
  let r := (s.drainTeam core slot).cctlAll cx op items
  have hteam : r.2.team? core slot = some { t with pend := ps } :=
    (State.team?_of_beyondAccess (State.cctlAll_beyondAccess ..) core slot).trans hdrained
  let t' : Team := { t with
    pend := ps.filter fun x => x.id != q.id
    splits := t.splits.alter entry fun sp => { sp with wait := .none } }
  have hanswers := Team.cctlAnswers_eq t' wm zero d r.1
  refine ⟨r.2.setTeam core slot (t'.cctlAnswers wm zero d r.1), t'.cctlAnswers wm zero d r.1, ?_, State.team?_setTeam_self ..,
    ?_, ?_, rfl, ?_, ?_, ?_⟩
  · simp only [exec, execCctlAnswer, ht]
    split
    next p cx' hp hcx' =>
      obtain rfl : p = q := Option.some.inj (hp.symm.trans hfind)
      obtain rfl : cx' = cx := Option.some.inj (hcx'.symm.trans hcx)
      simp only [State.stuck_of_freeOfBanks hfree, Bool.false_eq_true, if_false, hwork, enabled_some]
      exact congrArg _ (State.updTeam_of_team hteam _)
    next hnone => exact (hnone q cx hfind hcx).elim
  · rw [hanswers]
  · rw [hanswers]
  · rw [hanswers]
    simp [t']
  · rw [hanswers]
  · rintro rfl
    rfl

theorem cohortAndRetireSteps : CohortAndRetireSteps := by
  intro s core slot t ht
  refine ⟨?_, ?_, exec_teamRetire ht, ?_⟩
  · intro addr ph arrived keys hwait hlook hfree hphase
    exact exec_cohortPhaseSeen ht hwait hlook hfree hphase
  · intro pc m rest keys hleaving hcohorts hfault hwaits hkeys hfree
    exact exec_cohortLeaveAtExit ht hleaving hcohorts hfault hwaits hkeys hfree
  · intro q op entry items d wm zero cx hfind hwork hcx hfree
    exact exec_cctlAnswer ht hfind hwork hcx hfree

/-! Waits of the control thread (09 R255, R265, R272). -/

theorem exec_ksleepExpiry {s : State} {core til : Nat} (htil : til ≤ (s.coreOf core).clk) (hmode : (s.ctl core).mode = .ksleep til) :
    exec (.ksleepExpiry core) s = .next (ctlAwake s core) := by
  have hmode' : (s.coreOf core).ctl.mode = .ksleep til := hmode
  simp [exec, execKsleepExpiry, hmode', htil, ctlAwake, State.onCtl]

theorem exec_eqwaitTimeout {s : State} {core til : Nat} (htil : til ≤ (s.coreOf core).clk)
    (hmode : (s.ctl core).mode = .eqwait (some til)) : exec (.eqwaitTimeout core) s = .next (ctlAwake s core) := by
  have hmode' : (s.coreOf core).ctl.mode = .eqwait (some til) := hmode
  simp [exec, execEqwaitTimeout, hmode', htil, ctlAwake, State.onCtl]

/-- A result written in a k register, or a word kept for the instruction, leaves a debugger's mark. -/
theorem Ctl.applyWrite_step (c : Ctl) (x : RegWrite) : (c.applyWrite x).step = c.step := by
  unfold Ctl.applyWrite
  split <;> rfl

theorem Ctl.stepped_of_not_step {c : Ctl} (h : c.step = false) : c.stepped = c := by simp [Ctl.stepped, h]

theorem Ctl.stepped_pend (c : Ctl) : c.stepped.pend = c.pend := by
  unfold Ctl.stepped
  split <;> rfl

theorem Ctl.stepped_k (c : Ctl) : c.stepped.k = c.k := by
  unfold Ctl.stepped
  split <;> rfl

theorem State.drainCtl_step (s : State) (core : Nat) : ((s.drainCtl core).ctl core).step = (s.ctl core).step := by
  have h := s.performAll_ctl core (s.ctlVd core) (s.ctl core).pend
  unfold State.drainCtl
  dsimp only
  rw [State.ctl_setCtl_self, h]

theorem exec_kldDataArrive {s : State} {core fl : Nat} {p : Pend} {rest : List Pend} {ws : List RegWrite}
    (hmode : (s.ctl core).mode = .load) (hfree : freeOfBanks s (s.ctl core).pend)
    (hpend : ((s.drainCtl core).ctl core).pend = p :: rest) (hwork : p.work = .results ws fl) :
    ∃ u, exec (.kldDataArrive core) s = .next u ∧ u.mem = (s.drainCtl core).mem ∧ (u.ctl core).pend = rest ∧
      ((s.ctl core).step = false → (u.ctl core).mode = .running) ∧
      (u.ctl core).k = (ws.foldl Ctl.applyWrite ((s.drainCtl core).ctl core)).k := by
  let c : Ctl := { ws.foldl Ctl.applyWrite ((s.drainCtl core).ctl core) with pend := rest, mode := .running }
  have hstep : c.step = (s.ctl core).step :=
    foldl_keeps (fun c : Ctl => c.step = (s.ctl core).step) Ctl.applyWrite (fun c x h => (c.applyWrite_step x).trans h) ws _
      (s.drainCtl_step core)
  refine ⟨(s.drainCtl core).setCtl core (if ws.any RegWrite.isWord then c else c.stepped), ?_, rfl, ?_, ?_, ?_⟩
  · simp [exec, execKldDataArrive, hmode, State.stuck_of_freeOfBanks hfree, hpend, hwork, State.onCtl, c]
  · rw [State.ctl_setCtl_self, apply_ite Ctl.pend, Ctl.stepped_pend, ite_self]
  · intro hs
    rw [State.ctl_setCtl_self, Ctl.stepped_of_not_step (hstep.trans hs), ite_self]
  · rw [State.ctl_setCtl_self, apply_ite Ctl.k, Ctl.stepped_k, ite_self]

theorem controlWaitsEnd : ControlWaitsEnd := by
  intro s core til htil
  refine ⟨exec_ksleepExpiry htil, exec_eqwaitTimeout htil, ?_⟩
  intro p rest ws fl hmode hfree hpend hwork
  exact exec_kldDataArrive hmode hfree hpend hwork

/-- Settles O38, step by step: each step's rule lets it happen in the state at hand, and its accesses leave the team's registers. -/
theorem sequencerSteps : Obligations.SequencerSteps := ⟨splitSteps, cohortAndRetireSteps, controlWaitsEnd⟩

end Sys2Proof.Machine
end

section
/-! PROOFS. Results of vector instructions: the shared shapes of the statements, from what the wrappers do (05 R141; 06 R156). -/

namespace Sys2Proof.Machine

open Sys2Proof Host Spec

/-- Whether the result that a vector instruction leaves in D has 64 bits, for the opcodes that have one result in D. -/
def resultWidth (w : Ins) : Op → Option Bool
  | .mov | .sel | .and | .or | .xor | .andn | .not | .shl | .shr | .sar | .rot | .popc | .clz | .brev | .bfi | .shfl | .bcast =>
    some (w.mb 49)
  | .iadd | .isub | .imul | .imulh | .imad | .imin | .imax | .iabs | .ineg | .bfe | .iaddc | .redux | .scan => some w.wideT
  | .movi32 | .fadd | .fmul | .fmin | .fmax | .hadd2 | .hmul2 | .ffma | .hfma2 | .fclass | .frcp | .frsq | .fsqrt | .fex2 | .flg2
  | .fsin | .fcos | .ftanh | .cvtn | .cvtw | .lqscale | .lq8 | .lqm | .rand => some false
  | .movi64 | .lea | .dadd | .dmul | .dmin | .dmax | .dfma | .drcp => some true
  | .cvt => some ((w.ty.getD .n8).width == 64)
  | _ => none

/-- D of such an instruction is a destination of its result's width. -/
theorem dst_of_opdsOk {o : Op} {w : Ins} {regs : Nat} {wide : Bool} (hw : resultWidth w o = some wide)
    (h : o.opdsOk .team regs w = true) : Opd.dst .team wide w.d = true := by
  cases o with
  | mov | sel | and | or | xor | andn | not | shl | shr | sar | rot | popc | clz | brev | bfi | shfl | bcast =>
    obtain rfl : w.mb 49 = wide := Option.some.inj hw
    have hteam : w.wideW .team = w.mb 49 := Bool.false_or _
    simp only [Op.opdsOk, hteam, Bool.and_eq_true] at h
    simp only [h]
  | iadd | isub | imul | imulh | imad | imin | imax | iabs | ineg | bfe | iaddc | redux | scan =>
    obtain rfl : w.wideT = wide := Option.some.inj hw
    simp only [Op.opdsOk, Bool.and_eq_true] at h
    simp only [h]
  | movi32 | fadd | fmul | fmin | fmax | hadd2 | hmul2 | ffma | hfma2 | fclass | frcp | frsq | fsqrt | fex2 | flg2 | fsin | fcos
  | ftanh | cvtn | cvtw | lqscale | lq8 | lqm | rand | movi64 | lea | dadd | dmul | dmin | dmax | dfma | drcp | cvt =>
    obtain rfl := Option.some.inj hw
    simp only [Op.opdsOk, Bool.and_eq_true] at h
    simp only [h]
  | _ => cases hw

/-- The registers of a well-formed instruction's result lie in the register file. -/
theorem result_bound {o : Op} {w : Ins} {wide : Bool} (hwf : WellFormed .team (Instr.ofOp o w) = true)
    (hw : resultWidth w o = some wide) : ∀ d, w.d = .v d → d + (if wide then 2 else 1) ≤ 512 := by
  obtain ⟨hopds, hregs⟩ := Op.check_opds (WellFormed.checked hwf (toOp_ofOp o w))
  exact dst_bound (dst_of_opdsOk hw hopds) hregs

/-- An instruction that asks for one result of each thread that computes has it on a team. -/
theorem teamResult_of_writeAll {o : Op} {w : Ins} {wide : Bool} {val : State → Site → Nat → Nat × Flags}
    (hw : resultWidth w o = some wide)
    (hexec : ∀ s si, s.site? = some si → ∃ body, exec (Instr.ofOp o w) s = issueTeam o w s body ∧ body si (si.exec w) =
      .done (writeAll s si w wide ((actors si w (si.exec w)).map fun t => (t, val s si t)))) :
    TeamResult o w wide val := by
  intro s si hwf h g
  obtain ⟨body, hissue, hbody⟩ := hexec s si h
  obtain ⟨u, hu, hrest⟩ := writeAll_done h w wide (val s si) (result_bound hwf hw)
  refine ⟨u, ?_, hrest⟩
  rw [hissue, issueTeam_goes _ h g, hbody, hu]

/-- An instruction of the shared wrapper of 0x040 has its function's value on a team. -/
theorem teamResult_of_intOp {o : Op} {w : Ins} {wide : Bool} {sh : IntShape} {f : IntFn} (hw : resultWidth w o = some wide)
    (hexec : ∀ s si, s.site? = some si → exec (Instr.ofOp o w) s = intOp o w s sh wide f) :
    TeamResult o w wide (atThread w sh f) := by
  intro s si hwf h g
  rw [hexec s si h]
  exact intOp_team o w sh wide f h g (result_bound hwf hw)

/-- The same on the control thread. -/
theorem ctlResult_of_intOp {o : Op} {w : Ins} {wide : Bool} {sh : IntShape} {f : IntFn}
    (hexec : ∀ s si, s.ctlSite? = some si → exec (Instr.ofOp o w) s = intOp o w s sh wide f) :
    CtlResult o w (atCtl w sh f) := by
  intro s si _ h g
  rw [hexec s si h]
  exact intOp_ctl o w sh wide f h g

/-- An instruction that asks the control thread for one value in D has it there. -/
theorem ctlResult_of_writeK {o : Op} {w : Ins} {val : State → CtlSite → Nat}
    (hexec : ∀ s si, s.ctlSite? = some si → ∃ body, exec (Instr.ofOp o w) s = issueCtl o w s body ∧
      body si = .done (s.writeK si.core w.d (val s si))) : CtlResult o w val := by
  intro s si _ h g
  obtain ⟨body, hissue, hbody⟩ := hexec s si h
  rw [hissue, issueCtl_goes _ h g, hbody]
  exact congrArg _ (State.finishCtl_done h w _)

/-- An instruction of the rounding wrapper rounds as it says. -/
theorem teamRounded_of_roundOp {o : Op} {w : Ins} {wide : Bool} {n : Nat}
    {val : State → Site → RCtl → Nat → List Nat → Nat × Flags} (hw : resultWidth w o = some wide)
    (hexec : ∀ s, exec (Instr.ofOp o w) s = roundOp o w s wide n (val s)) : TeamRounded o w wide n val := by
  intro s si hwf h g
  rw [hexec s]
  exact roundOp_team o w wide n (val s) h g (result_bound hwf hw)

/-- An instruction that asks for a compare makes it. -/
theorem teamCompare_of_setp {o : Op} {w : Ins} {cond : State → Site → Nat → Bool × Flags}
    (hexec : ∀ s, exec (Instr.ofOp o w) s = issueTeam o w s fun si e => setp s si w e (cond s si)) : TeamCompare o w cond := by
  intro s si n _ h g hn
  obtain ⟨u, hu, hrest⟩ := setp_team w (cond s si) h n hn
  refine ⟨u, ?_, hrest⟩
  rw [hexec s, issueTeam_goes _ h g, hu]

end Sys2Proof.Machine
end

section
/-! PROOFS. Integer instructions: words, typed arithmetic, fields, addresses and compares (06 R162 to R167). -/

namespace Sys2Proof.Machine

open Sys2Proof Host Spec

/-- The word instructions share a wrapper: on every side their operands have the width that W names there. -/
theorem exec_wordTable {x : Op × Bool × (Nat → Nat → Nat → Nat → Nat)} (hx : x ∈ wordTable) (w : Ins) (s : State) :
    exec (Instr.ofOp x.1 w) s = intOp x.1 w s ⟨s.wW w, !x.2.1 && s.wW w, s.wW w⟩ (s.wW w)
      fun a b c => (x.2.2 (widthOf (s.wW w)) a b c, 0) := by
  simp only [wordTable, List.mem_cons, List.not_mem_nil, or_false] at hx
  rcases hx with rfl | rfl | rfl | rfl | rfl | rfl | rfl | rfl | rfl | rfl | rfl | rfl | rfl | rfl | rfl <;> rfl

theorem resultWidth_wordTable {x : Op × Bool × (Nat → Nat → Nat → Nat → Nat)} (hx : x ∈ wordTable) (w : Ins) :
    resultWidth w x.1 = some (w.mb 49) := by
  simp only [wordTable, List.mem_cons, List.not_mem_nil, or_false] at hx
  rcases hx with rfl | rfl | rfl | rfl | rfl | rfl | rfl | rfl | rfl | rfl | rfl | rfl | rfl | rfl | rfl <;> rfl

/-- Settles O1: every word instruction goes through one wrapper, which reads W as it stands on a team and as 1 on the control
thread. -/
theorem wordOperations : Obligations.WordOperations := by
  intro w x hx
  refine ⟨teamResult_of_intOp (resultWidth_wordTable hx w) fun s si h => ?team,
    fun _ => ctlResult_of_intOp (wide := true) fun s si h => ?ctl⟩
  case team => rw [exec_wordTable hx, State.wW_team h]
  case ctl =>
    rw [exec_wordTable hx, State.wW_ctl h, Bool.and_true]
    rfl

theorem exec_arithTable {w : Ins} {x : Op × (Int → Int → Int → Int)} (hx : x ∈ arithTable w) (s : State) :
    exec (Instr.ofOp x.1 w) s = intOp x.1 w s ⟨w.wideT, w.wideT, w.wideT⟩ w.wideT (arithFn w x.2) := by
  simp only [arithTable, List.mem_cons, List.not_mem_nil, or_false] at hx
  rcases hx with rfl | rfl | rfl | rfl | rfl | rfl | rfl | rfl | rfl <;> rfl

theorem resultWidth_arithTable {w : Ins} {x : Op × (Int → Int → Int → Int)} (hx : x ∈ arithTable w) :
    resultWidth w x.1 = some w.wideT := by
  simp only [arithTable, List.mem_cons, List.not_mem_nil, or_false] at hx
  rcases hx with rfl | rfl | rfl | rfl | rfl | rfl | rfl | rfl | rfl <;> rfl

/-- Settles O2: every typed arithmetic instruction wraps or saturates its exact value in one function, the same on both sides. -/
theorem typedArithmetic : Obligations.TypedArithmetic := fun _ _ hx =>
  ⟨teamResult_of_intOp (resultWidth_arithTable hx) fun s _ _ => exec_arithTable hx s,
    ctlResult_of_intOp fun s _ _ => exec_arithTable hx s⟩

/-- Settles O3: MOVI reads no operand, and BFE and LEA go through the integer wrapper. -/
theorem moveFieldAddress : Obligations.MoveFieldAddress := by
  intro w
  refine ⟨?movi32, ?movi32K, ?movi64, ?movi64K, ?bfe, ?bfeK, ?lea, ?leaK⟩
  case movi32 | movi64 => exact teamResult_of_writeAll rfl fun _ _ h => ⟨_, issueBoth_team _ _ h, rfl⟩
  case movi32K | movi64K => exact ctlResult_of_writeK fun _ _ h => ⟨_, issueBoth_ctl _ _ h, rfl⟩
  case bfe | lea => exact teamResult_of_intOp rfl fun _ _ _ => rfl
  case bfeK => exact ctlResult_of_intOp (wide := w.wideT) fun _ _ _ => rfl
  case leaK => exact ctlResult_of_intOp (wide := true) fun _ _ _ => rfl

/-- Settles O4: each compare asks for its condition on the operands, and the pair is written from it. -/
theorem compares : Obligations.Compares := fun _ =>
  ⟨teamCompare_of_setp fun _ => rfl, teamCompare_of_setp fun _ => rfl, teamCompare_of_setp fun _ => rfl⟩

end Sys2Proof.Machine
end

section
/-! PROOFS. Float instructions and conversions (06 R168 to R175). -/

namespace Sys2Proof.Machine

open Sys2Proof Host Spec

/-- The format's width is the result's, and each row rounds the value of its own function. -/
theorem floatTable_rounds {x : Op × Fmt × (Mode → Val → Val → Val → Val × Flags)} (hx : x ∈ floatTable) (w : Ins) :
    TeamRounded x.1 w (x.2.1 == .f64) 1 (floatValue w x.2.1 x.2.2) := by
  simp only [floatTable, List.mem_cons, List.not_mem_nil, or_false] at hx
  rcases hx with rfl | rfl | rfl | rfl | rfl | rfl | rfl | rfl | rfl <;> exact teamRounded_of_roundOp rfl fun _ => rfl

theorem halfTable_rounds {x : Op × (Mode → Val → Val → Val → Val × Flags)} (hx : x ∈ halfTable) (w : Ins) :
    TeamRounded x.1 w false 2 (halfValue w x.2) := by
  simp only [halfTable, List.mem_cons, List.not_mem_nil, or_false] at hx
  rcases hx with rfl | rfl | rfl <;> exact teamRounded_of_roundOp rfl fun _ => rfl

/-- An instruction that rounds nothing has its function's value of the modified sources; so has one that approximates. -/
theorem teamResult_of_exactOp {o : Op} {w : Ins} {f : Fmt} {wide : Bool} {g : Bool → Nat → Nat → Nat × Flags}
    (hw : resultWidth w o = some wide) (hexec : ∀ s, exec (Instr.ofOp o w) s = exactOp o w s f wide g) :
    TeamResult o w wide fun s si t => g (si.team.rctl w).ftz (fSrcA s si w f t) (fSrcB s si w f t) :=
  teamResult_of_writeAll hw fun s _ _ => ⟨_, hexec s, rfl⟩

theorem teamResult_of_approxOp {o : Op} {w : Ins} {fn : Config.ApproxFn} (hw : resultWidth w o = some false)
    (hexec : ∀ s, exec (Instr.ofOp o w) s = approxOp o fn w s) :
    TeamResult o w false fun s si t => Approx.eval fn (si.team.rctl w) (fSrcA s si w .f32 t) :=
  teamResult_of_writeAll hw fun s _ _ => ⟨_, hexec s, rfl⟩

theorem teamResult_of_minMaxOp {o : Op} {w : Ins} {f : Fmt} {isMax : Bool} (hw : resultWidth w o = some (f == .f64))
    (hexec : ∀ s, exec (Instr.ofOp o w) s = minMaxOp o w s f isMax) :
    TeamResult o w (f == .f64) fun s si t => minMax f isMax (plainA w f s si t) (plainB w f s si t) :=
  teamResult_of_exactOp hw hexec

/-- The arithmetic rounds once in each thread, or once in each half. -/
theorem floatArithmetic_rounds : Spec.FloatArithmetic := fun w =>
  ⟨fun _ hx => floatTable_rounds hx w, fun _ hx => halfTable_rounds hx w⟩

/-- What rounds nothing draws nothing: its value is a function of the thread's operands. -/
theorem floatExactAndApproximate : Spec.FloatExactAndApproximate := by
  intro w
  refine ⟨?minMax, ?cls, ?approx⟩
  case minMax =>
    intro x hx
    simp only [List.mem_cons, List.not_mem_nil, or_false] at hx
    rcases hx with rfl | rfl | rfl | rfl <;> exact teamResult_of_minMaxOp rfl fun _ => rfl
  case cls => exact teamResult_of_exactOp (o := .fclass) (g := fun _ a _ => (classOf .f32 a, 0)) rfl fun _ => rfl
  case approx =>
    intro x hx
    simp only [List.mem_cons, List.not_mem_nil, or_false] at hx
    rcases hx with rfl | rfl | rfl | rfl | rfl | rfl <;> exact teamResult_of_approxOp rfl fun _ => rfl

/-- Settles O5: the instructions that round go through the rounding wrapper, the others write what they compute. -/
theorem floatArithmetic : Obligations.FloatArithmetic := ⟨floatArithmetic_rounds, floatExactAndApproximate⟩

/-- Settles O6: the three conversions go through the rounding wrapper, with the draws that their types ask for. -/
theorem conversions : Obligations.Conversions := fun _ =>
  ⟨teamRounded_of_roundOp rfl fun _ => rfl, teamRounded_of_roundOp rfl fun _ => rfl, teamRounded_of_roundOp rfl fun _ => rfl⟩

end Sys2Proof.Machine
end

section
/-! PROOFS. An empty execution mask (06 R157): nothing but the split's place changes. -/

namespace Sys2Proof.Machine

open Sys2Proof Host Spec

theorem threadsOf_zero (n : Nat) : threadsOf n 0 = [] := by simp [threadsOf]

theorem Team.writeD_nil (t : Team) (w : Ins) (wide : Bool) : t.writeD w wide [] = t := by
  unfold Team.writeD
  split <;> rfl

/-- A transfer that no thread makes takes the whole split to the next clause (07 R223). -/
theorem transferGroups_zero {mask : TMask} (hmask : mask ≠ 0) (threads next : Nat) (target : Nat → Nat) :
    transferGroups threads mask 0 next target = [(next, mask)] := by
  have hrest : mask &&& ~~~ (0 : TMask) = mask := by rw [BitVec.ofNat_eq_ofNat, BitVec.not_zero, BitVec.and_allOnes]
  have hmask' : (mask == 0) = false := by simpa using hmask
  simp only [transferGroups, threadsOf_zero, hrest, hmask', List.foldl_nil, List.append_nil, Bool.false_eq_true, if_false]

/-- The acting team behind its clause, its registers as they were. -/
def State.clausePassed (s : State) (si : Site) : State :=
  s.setTeam si.core si.slot ((si.team.count si s).clauseDone si.entry si.pos.next si.pos.hdr.yield)

theorem State.transferTo_zero {s : State} {si : Site} (h : s.site? = some si) (hmask : si.split.mask ≠ 0) (rb : Option Nat)
    (target : Nat → Nat) : s.transferTo si 0 rb target = s.clausePassed si := by
  unfold State.transferTo
  rw [State.updTeam_of_team (State.site?_team h), transferGroups_zero hmask]
  rfl

theorem branchTo_zero (s : State) (si : Site) (rb : Option Nat) (target : Nat → Nat) :
    branchTo s si 0 rb target = .flow (s.transferTo si 0 rb target) := by
  simp only [branchTo, threadsOf_zero, List.find?_nil]

/-- A call that no thread makes leaves no return address. -/
theorem State.transferTo_linkTo_zero {s : State} {si : Site} (h : s.site? = some si) (hmask : si.split.mask ≠ 0) (w : Ins)
    (rb : Option Nat) (target : Nat → Nat) : (linkTo s si w 0).transferTo si 0 rb target = s.clausePassed si := by
  have hlink : linkTo s si w 0 = s.setTeam si.core si.slot si.team := by
    simp only [linkTo, State.onTeam_site h, threadsOf_zero, List.map_nil, Team.writeD_nil]
  rw [hlink]
  unfold State.transferTo
  rw [State.updTeam_setTeam, transferGroups_zero hmask, Team.count_setTeam]
  rfl

/-- A closing instruction runs its meaning under an empty mask too. -/
theorem issueTeam_closing {s : State} {si : Site} {o : Op} {w : Ins} (body : Site → TMask → Issue) (h : s.site? = some si)
    (hi : si.illegal o w = false) (hm : si.exec w = 0) (ho : o.closing = true) :
    issueTeam o w s body = .next (s.finish si w.len.size (body si 0)) := by
  simp [issueTeam, h, hi, hm, ho]

/-- The instructions that end their clause ask for a transfer, which an empty mask makes one to the next clause. -/
theorem closing_body_masked {o : Op} {s : State} {si : Site}
    (ho : o ∈ ([.bra, .brd, .brx, .brxd, .call, .callx, .ret, .tret] : List Op)) (h : s.site? = some si)
    (hmask : si.split.mask ≠ 0) (w : Ins) :
    o.closing = true ∧ ∃ body, exec (Instr.ofOp o w) s = issueTeam o w s body ∧
      s.finish si w.len.size (body si 0) = s.clausePassed si := by
  cases o with
  | bra | brd =>
    dsimp only [Instr.ofOp, exec]
    exact ⟨rfl, _, rfl, State.transferTo_zero h hmask _ _⟩
  | tret =>
    dsimp only [Instr.ofOp, exec]
    refine ⟨rfl, _, rfl, ?_⟩
    rw [if_pos (beq_self_eq_true _)]
    exact State.transferTo_zero h hmask _ _
  | brx | brxd | ret =>
    dsimp only [Instr.ofOp, exec]
    refine ⟨rfl, _, rfl, ?_⟩
    rw [branchTo_zero]
    exact State.transferTo_zero h hmask _ _
  | call =>
    dsimp only [Instr.ofOp, exec]
    exact ⟨rfl, _, rfl, State.transferTo_linkTo_zero h hmask _ _ _⟩
  | callx =>
    dsimp only [Instr.ofOp, exec]
    refine ⟨rfl, _, rfl, ?_⟩
    rw [branchTo_zero]
    exact State.transferTo_linkTo_zero h hmask _ _ _
  | _ => exact absurd ho (by decide)

/-- Settles O17: the wrapper asks for no meaning under an empty mask, except of an instruction that ends its clause. -/
theorem falseGuardsComplete : Obligations.FalseGuardsComplete := by
  constructor
  · intro o w s si hteam h hi hm ho
    obtain ⟨body, hexec⟩ := exec_onTeam hteam h w
    rw [hexec, issueTeam_masked body h hi hm ho, State.retireIns_site h]
    rfl
  · intro o w s si ho h hi hm hmask
    obtain ⟨hclosing, body, hexec, hbody⟩ := closing_body_masked ho h hmask w
    rw [hexec, issueTeam_closing body h hi hm hclosing, hbody]
    rfl

end Sys2Proof.Machine
end

section
/-! PROOFS. The integer functions are those of two's complement words (06 R163, R164). -/

namespace Sys2Proof.Machine

open Sys2Proof Host Spec

/-! Values of patterns, and wrapping. -/

theorem wrap_eq_ofInt (n : Nat) (x : Int) : wrap n x = (BitVec.ofInt n x).toNat := by rw [wrap, BitVec.toNat_ofInt]

theorem sx_toNat {n : Nat} (a : BitVec n) : sx n a.toNat = a.toInt := by
  rw [sx, Nat.mod_eq_of_lt a.isLt, BitVec.toInt_eq_toNat_cond]

theorem ival_unsigned {wide : Bool} (a : BitVec (widthOf wide)) : ival false wide a.toNat = a.toNat := by
  simp [ival, Nat.mod_eq_of_lt a.isLt]

theorem ival_signed {wide : Bool} (a : BitVec (widthOf wide)) : ival true wide a.toNat = a.toInt := sx_toNat a

/-- Both readings of a word are its value modulo 2^n. -/
theorem ofInt_ival {wide : Bool} (signed : Bool) (a : BitVec (widthOf wide)) :
    BitVec.ofInt (widthOf wide) (ival signed wide a.toNat) = a := by
  cases signed with
  | false => rw [ival_unsigned, BitVec.ofInt_natCast, BitVec.ofNat_toNat, BitVec.setWidth_eq]
  | true => rw [ival_signed, BitVec.ofInt_toInt]

/-- A result that does not saturate is wrapped. -/
theorem intResult_wraps (signed wide : Bool) (x : Int) :
    (intResult signed wide false x).1 = (BitVec.ofInt (widthOf wide) x).toNat := by
  rw [← wrap_eq_ofInt]
  rfl

/-! Shifts and rotation. -/

theorem shlW_toNat {n : Nat} (a : BitVec n) (c : Nat) : shlW n a.toNat c = (a <<< (c % 256)).toNat := by
  rw [shlW, BitVec.toNat_shiftLeft, Nat.shiftLeft_eq]
  split
  next h => rw [Nat.mod_eq_zero_of_dvd (Dvd.dvd.mul_left (pow_dvd_pow 2 h) _)]
  next => rfl

theorem shrW_toNat {n : Nat} (a : BitVec n) (c : Nat) : shrW n a.toNat c = (a >>> (c % 256)).toNat := by
  rw [shrW, BitVec.toNat_ushiftRight, Nat.shiftRight_eq_div_pow, Nat.mod_eq_of_lt a.isLt]
  split
  next h => rw [Nat.div_eq_of_lt (lt_of_lt_of_le a.isLt (Nat.pow_le_pow_right two_pos h))]
  next => rfl

/-- From the width up a division by a power of two leaves the sign alone. -/
theorem toInt_div_of_width_le {n k : Nat} (a : BitVec n) (h : n ≤ k) : a.toInt / (2 ^ n : Nat) = a.toInt / (2 ^ k : Nat) := by
  have hlt : a.toInt < (2 ^ n : Nat) := by
    have := a.isLt
    rw [BitVec.toInt_eq_toNat_cond]
    split <;> omega
  have hle : -((2 ^ n : Nat) : Int) ≤ a.toInt := by
    rw [BitVec.toInt_eq_toNat_cond]
    split <;> omega
  have hpow : ((2 ^ n : Nat) : Int) ≤ (2 ^ k : Nat) := by exact_mod_cast Nat.pow_le_pow_right two_pos h
  rcases lt_or_ge a.toInt 0 with hneg | hpos
  · rw [Int.ediv_eq_neg_one_of_neg_of_le hneg (by omega), Int.ediv_eq_neg_one_of_neg_of_le hneg (by omega)]
  · rw [Int.ediv_eq_zero_of_lt hpos hlt, Int.ediv_eq_zero_of_lt hpos (by omega)]

theorem sarW_toNat {n : Nat} (a : BitVec n) (c : Nat) : sarW n a.toNat c = (a.sshiftRight (c % 256)).toNat := by
  have hdiv : a.toInt / (2 ^ min (c % 256) n : Nat) = a.toInt / (2 ^ (c % 256) : Nat) := by
    rcases le_total (c % 256) n with h | h
    · rw [min_eq_left h]
    · rw [min_eq_right h, toInt_div_of_width_le a h]
  rw [sarW, sx_toNat, wrap_eq_ofInt, hdiv, BitVec.sshiftRight, Int.shiftRight_eq_div_pow]

/-- The two parts of a rotation share no bit, so that their sum is their disjunction. -/
theorem rotW_toNat {n : Nat} (hn : 0 < n) (a : BitVec n) (c : Nat) : rotW n a.toNat c = (a.rotateLeft (c % 256)).toNat := by
  have hk : c % 256 % n < n := Nat.mod_lt _ hn
  have hdisjoint : a <<< (c % 256 % n) &&& a >>> (n - c % 256 % n) = 0#n := by
    ext i hi
    rcases Nat.lt_or_ge i (c % 256 % n) with h | h
    · simp [h]
    · have hpast : n ≤ n - c % 256 % n + i := by omega
      simp [BitVec.getLsbD_of_ge a _ hpast]
  rw [BitVec.rotateLeft_def, ← BitVec.add_eq_or_of_and_eq_zero _ _ hdisjoint, BitVec.toNat_add, BitVec.toNat_shiftLeft,
    BitVec.toNat_ushiftRight, Nat.shiftLeft_eq, Nat.shiftRight_eq_div_pow, Nat.mod_add_mod, rotW, Nat.mod_eq_of_lt a.isLt]

/-! Complement, reversal and leading zeros. -/

theorem notW_toNat {n : Nat} (a : BitVec n) : notW n a.toNat = (~~~ a).toNat := by
  rw [notW, BitVec.toNat_not, Nat.mod_eq_of_lt a.isLt]

theorem bitRev_lt (n x : Nat) : bitRev n x < 2 ^ n := by
  induction n generalizing x with
  | zero => exact Nat.one_pos
  | succ n ih =>
    have hbit : x % 2 * 2 ^ n ≤ 1 * 2 ^ n := Nat.mul_le_mul_right _ (by omega)
    have hrest := ih (x / 2)
    rw [bitRev, pow_succ]
    omega

theorem testBit_bitRev (n x i : Nat) : (bitRev n x).testBit i = (decide (i < n) && x.testBit (n - 1 - i)) := by
  induction n generalizing x i with
  | zero => simp [bitRev]
  | succ n ih =>
    rw [bitRev, Nat.mul_comm, Nat.testBit_two_pow_mul_add _ (bitRev_lt n _)]
    split
    next h =>
      have hpred : n + 1 - 1 - i = n - 1 - i + 1 := by omega
      rw [ih, hpred, Nat.testBit_succ]
      simp [h, Nat.lt_succ_of_lt h]
    next h =>
      rcases Nat.lt_or_ge n i with hi | hi
      · have hone : 1 < 2 ^ (i - n) := Nat.one_lt_two_pow (by omega)
        rw [Nat.testBit_eq_false_of_lt (by omega), decide_eq_false (by omega), Bool.false_and]
      · obtain rfl : i = n := by omega
        simp

theorem bitRev_toNat {n : Nat} (a : BitVec n) : bitRev n a.toNat = a.reverse.toNat := by
  refine Nat.eq_of_testBit_eq fun i => ?_
  rw [testBit_bitRev, BitVec.testBit_toNat, BitVec.testBit_toNat, BitVec.getLsbD_reverse, BitVec.getMsbD_eq_getLsbD]

/-- The highest bit of a word that is not 0 stands behind its leading zeros. -/
theorem clzW_toNat {n : Nat} (hn : 0 < n) (a : BitVec n) : clzW n a.toNat = a.clz.toNat := by
  rw [clzW, Nat.mod_eq_of_lt a.isLt]
  by_cases ha : a = 0#n
  · subst ha
    rw [BitVec.clz_eq_iff_eq_zero.mpr rfl]
    simp [Nat.mod_eq_of_lt Nat.lt_two_pow_self]
  · have hne : a.toNat ≠ 0 := fun h => ha (BitVec.eq_of_toNat_eq (by simpa using h))
    have hclz : a.clz.toNat < n := by
      have := BitVec.clz_lt_iff_ne_zero.mpr ha
      simpa [BitVec.lt_def, Nat.mod_eq_of_lt (Nat.lt_two_pow_self (n := n))] using this
    have hlog : Nat.log2 a.toNat = n - 1 - a.clz.toNat := by
      refine (Nat.log2_eq_iff hne).mpr ⟨BitVec.two_pow_sub_clz_le_toNat_of_ne_zero hn ha, ?_⟩
      have hlt := BitVec.toNat_lt_two_pow_sub_clz (x := a)
      rwa [show n - a.clz.toNat = n - 1 - a.clz.toNat + 1 by omega] at hlt
    rw [if_neg (by simpa using hne), hlog]
    omega

theorem widthOf_pos (wide : Bool) : 0 < widthOf wide := by cases wide <;> decide

/-- Settles O59: wrapping is a homomorphism, and each bit function agrees with the word's bit by bit or in its value. -/
theorem wordFunctions : Obligations.WordFunctions := by
  intro wide a b c signed
  refine ⟨?add, ?sub, ?mul, ival_signed a, ival_unsigned a, shlW_toNat a c, shrW_toNat a c, sarW_toNat a c,
    rotW_toNat (widthOf_pos wide) a c, notW_toNat a, bitRev_toNat a, clzW_toNat (widthOf_pos wide) a⟩
  case add => rw [intResult_wraps, BitVec.ofInt_add, ofInt_ival, ofInt_ival]
  case sub =>
    rw [intResult_wraps, Int.sub_eq_add_neg, BitVec.ofInt_add, BitVec.ofInt_neg, ofInt_ival, ofInt_ival, ← BitVec.sub_eq_add_neg]
  case mul => rw [intResult_wraps, BitVec.ofInt_mul, ofInt_ival, ofInt_ival]

end Sys2Proof.Machine
end

section
/-! PROOFS. Addition with carry (06 R165). -/

namespace Sys2Proof.Machine

open Sys2Proof Host Spec

/-- No flags of any thread are no flags. -/
theorem Flags.all_zero {α : Type} (l : List α) : Flags.all (l.map fun _ => (0 : Flags)) = 0 := by
  induction l with
  | nil => rfl
  | cons x l ih => rwa [List.map_cons, Flags.all, List.foldl_cons, Flags.join, Nat.or_self]

/-- The exact sum, its carry-in written as a case. -/
theorem addCarry_eq (n a b c : Nat) : addCarry n a b c = a % 2 ^ n + b % 2 ^ n + if c = 0 then 0 else 1 := by
  rw [addCarry, boolNat]
  by_cases hc : c = 0 <;> simp [hc]

/-- A predicate written behind a result is written from the team's own masks: the result leaves threads and predicates. -/
theorem writeP_behind_result {t u₁ : Team} (h : u₁ = { t with v := u₁.v, s := u₁.s }) (w : Ins) (e : TMask)
    (n : Nat) (val : Nat → Bool) :
    let u := u₁.writeP w n ((threadsOf t.threads e).map fun tid => (tid, val tid))
    Team.Predicates t { u with v := t.v, s := t.s } w e [(n, val)] := by
  intro u
  have hpred := Team.writeP_result u₁ w e n val
  rw [h] at hpred
  obtain ⟨hbits, hothers, -, -⟩ := hpred
  have hu : u = ({ t with v := u₁.v, s := u₁.s } : Team).writeP w n
      ((threadsOf t.threads e).map fun tid => (tid, val tid)) := by rw [← h]
  rw [hu]
  exact ⟨hbits, hothers, rfl, rfl⟩

theorem Team.addTsr_zero (t : Team) : t.addTsr 0 = t := by rw [Team.addTsr_regs, BitVec.or_zero]

/-- A meaning that has written the acting team leaves it behind the instruction. -/
theorem State.finish_done_setTeam (s : State) (si : Site) (w : Ins) (u : Team) :
    s.finish si w.len.size (.done (s.setTeam si.core si.slot u)) = s.goneOn si w u := State.retireIns_setTeam s si u w.len.size

/-- The exact sum of a thread. -/
def carrySum (w : Ins) (s : State) (si : Site) (tid : Nat) : Nat :=
  addCarry (widthOf w.wideT) (rdW s si.core si.team w.wideT tid w.a) (rdB s si.core si.team w w.wideT tid)
    (rdW s si.core si.team w.wideT tid w.c)

/-- The acting team with the sums in D. -/
def sumsWritten (w : Ins) (s : State) (si : Site) : Team :=
  si.team.writeD w w.wideT ((actors si w (si.exec w)).map fun tid => (tid, carrySum w s si tid % 2 ^ widthOf w.wideT))

/-- The carry that the predicate of a thread takes: with a uniform D, that of the one sum. -/
def carryOf (w : Ins) (s : State) (si : Site) (tid : Nat) : Bool :=
  if w.d.isS then ((actors si w (si.exec w)).map fun t => decide (2 ^ widthOf w.wideT ≤ carrySum w s si t)).headD false
  else decide (2 ^ widthOf w.wideT ≤ carrySum w s si tid)

theorem writeAll_sums {s : State} {si : Site} (h : s.site? = some si) (w : Ins) :
    writeAll s si w w.wideT ((actors si w (si.exec w)).map fun tid => (tid, plain (carrySum w s si tid % 2 ^ widthOf w.wideT))) =
      s.setTeam si.core si.slot (sumsWritten w s si) := by
  rw [writeAll, State.onTeam_site h, List.map_map, List.map_map]
  exact congrArg _ ((congrArg _ (Flags.all_zero _)).trans (Team.addTsr_zero _))

/-- What the carry predicate is written from is the threads' carries. -/
theorem carries_eq (w : Ins) (s : State) (si : Site) :
    ((if w.d.isS then (threadsOf si.team.threads (si.exec w)).map fun t =>
        (t, ((((actors si w (si.exec w)).map fun t => (t, carrySum w s si t)).head?).map (·.2)).getD 0)
      else (actors si w (si.exec w)).map fun t => (t, carrySum w s si t)).map
        fun r => (r.1, decide (2 ^ widthOf w.wideT ≤ r.2))) =
      (threadsOf si.team.threads (si.exec w)).map fun tid => (tid, carryOf w s si tid) := by
  by_cases hd : w.d.isS = true
  · have hhead : decide (2 ^ widthOf w.wideT ≤
        ((((actors si w (si.exec w)).map fun t => (t, carrySum w s si t)).head?).map (·.2)).getD 0) =
        ((actors si w (si.exec w)).map fun t => decide (2 ^ widthOf w.wideT ≤ carrySum w s si t)).headD false := by
      cases actors si w (si.exec w) with
      | nil => exact decide_eq_false (Nat.not_le.mpr (Nat.two_pow_pos _))
      | cons x l => rfl
    simp only [hd, if_true, carryOf, List.map_map, ← hhead]
    rfl
  · have hactors : actors si w (si.exec w) = threadsOf si.team.threads (si.exec w) := if_neg hd
    simp only [hd, carryOf, hactors, List.map_map, Bool.false_eq_true, if_false]
    rfl

/-- IADDC writes the sums, and behind them the carries where it names a predicate. -/
theorem exec_iaddc {s : State} {si : Site} {w : Ins} (h : s.site? = some si) (g : si.goes s .iaddc w = true) :
    exec (.iaddc w) s = .next (s.goneOn si w (if w.xm 88 85 = 0 then sumsWritten w s si
      else (sumsWritten w s si).writeP w (w.xm 88 85 - 1)
        ((threadsOf si.team.threads (si.exec w)).map fun tid => (tid, carryOf w s si tid)))) := by
  refine (issueBoth_team _ _ h).trans ((issueTeam_goes _ h g).trans (congrArg _ ?_))
  have hsums := writeAll_sums h w
  have hcarries := carries_eq w s si
  unfold carrySum at hsums hcarries
  dsimp only
  rw [List.map_map, hcarries]
  split
  next hp =>
    rw [if_pos (by simpa using hp)]
    exact (congrArg (fun t => s.finish si w.len.size (.done t)) hsums).trans (State.finish_done_setTeam ..)
  next hp =>
    rw [if_neg (by simpa using hp), ← State.finish_done_setTeam]
    refine congrArg (fun t => s.finish si w.len.size (.done t)) ?_
    exact (congrArg (fun t => State.onTeam t si _) hsums).trans (State.updTeam_setTeam ..)

theorem iaddc_ctl (w : Ins) : CtlResult .iaddc w (fun s si => (rdK s si.core w.a % 2 ^ 64 +
    (if w.litB then immB w true else rdK s si.core w.b) % 2 ^ 64 + (if rdK s si.core w.c = 0 then 0 else 1)) % 2 ^ 64) := by
  refine ctlResult_of_writeK fun s si h => ⟨_, issueBoth_ctl _ _ h, ?_⟩
  dsimp only
  rw [addCarry_eq]

/-- Settles O9: the sums go to D as any result, and the predicate takes their carries under the masks from before. -/
theorem addWithCarry : Obligations.AddWithCarry := by
  intro w n
  refine ⟨iaddc_ctl w, fun s si hwf h g => ?_⟩
  have hsum (tid : Nat) : carrySum w s si tid = rdW s si.core si.team w.wideT tid w.a % 2 ^ n +
      rdB s si.core si.team w w.wideT tid % 2 ^ n + if rdW s si.core si.team w.wideT tid w.c = 0 then 0 else 1 :=
    addCarry_eq ..
  have hwrites : sumsWritten w s si = { si.team with v := (sumsWritten w s si).v, s := (sumsWritten w s si).s } :=
    Team.writeD_eq ..
  have hresult := Team.writeD_result si.team w (si.exec w) w.wideT (fun tid => carrySum w s si tid % 2 ^ n) _ rfl
    (result_bound (o := .iaddc) hwf rfl)
  simp only [← hsum]
  refine ⟨sumsWritten w s si, _, exec_iaddc h g, ?same, ?rng, ?tsr, hresult, fun hp => if_pos hp, fun hp => ?_⟩
  case same =>
    unfold Team.SameBut
    rw [hwrites]
  case rng => rw [hwrites]
  case tsr => rw [hwrites]
  rw [if_neg (by omega)]
  exact ⟨Team.writeP_eq .., writeP_behind_result hwrites w (si.exec w) (w.xm 88 85 - 1) (carryOf w s si)⟩

end Sys2Proof.Machine
end

section
/-! PROOFS. Lattice instructions, SHFL and BCAST (06 R176 to R182). -/

namespace Sys2Proof.Machine

open Sys2Proof Host Spec

/-! Runs of any length. -/

theorem Team.vreg_foldl_setV (tid d : Nat) (f : Nat → W32) (tid' r : Nat) (hr : r < 512) (xs : List Nat) (k : Nat) (t : Team)
    (hd : d + k + xs.length ≤ 512) :
    ((xs.zipIdx k).foldl (fun t x => t.setV tid (d + x.2) (f x.1)) t).vreg tid' r =
      if tid' = tid ∧ d + k ≤ r ∧ r < d + k + xs.length then f (xs.getD (r - (d + k)) 0) else t.vreg tid' r := by
  induction xs generalizing k t with
  | nil => simp
  | cons x xs ih =>
    rw [List.length_cons] at hd ⊢
    rw [List.zipIdx_cons, List.foldl_cons, ih (k + 1) _ (by omega), Team.vreg_setV]
    by_cases hrest : tid' = tid ∧ d + (k + 1) ≤ r ∧ r < d + (k + 1) + xs.length
    · have hnext : r - (d + k) = r - (d + (k + 1)) + 1 := by omega
      rw [if_pos hrest, if_pos (by omega), hnext, List.getD_cons_succ]
    · rw [if_neg hrest]
      by_cases hhere : 512 * tid' + r = 512 * tid + (d + k)
      · have hfirst : r - (d + k) = 0 := by omega
        rw [if_pos hhere, if_pos (by omega), hfirst, List.getD_cons_zero]
      · rw [if_neg hhere, if_neg (by omega)]

theorem Team.vreg_writeRun_run (t : Team) (wm : TMask) (zero : Bool) (tid d : Nat) (xs : List Nat) (tid' r : Nat)
    (hd : d + xs.length ≤ 512) (hr : r < 512) :
    (t.writeRun wm zero tid d xs).vreg tid' r =
      if tid' = tid ∧ d ≤ r ∧ r < d + xs.length then
        (if wm.getLsbD tid then BitVec.ofNat 32 (xs.getD (r - d) 0) else if zero then 0 else t.vreg tid' r)
      else t.vreg tid' r := by
  unfold Team.writeRun
  split
  · exact Team.vreg_foldl_setV tid d (fun x => BitVec.ofNat 32 x) tid' r hr xs 0 t hd
  · split
    · exact Team.vreg_foldl_setV tid d (fun _ => 0) tid' r hr xs 0 t hd
    · rw [ite_self]

/-- Every thread of a list writes its own run. -/
theorem Team.vreg_foldl_writeRun_run (wm : TMask) (zero : Bool) (d n : Nat) (g : Nat → List Nat) (hg : ∀ tid, (g tid).length = n)
    (tid r : Nat) (hd : d + n ≤ 512) (hr : r < 512) (l : List Nat) (hl : l.Nodup) (t : Team) :
    (l.foldl (fun t tid => t.writeRun wm zero tid d (g tid)) t).vreg tid r =
      if tid ∈ l ∧ d ≤ r ∧ r < d + n then
        (if wm.getLsbD tid then BitVec.ofNat 32 ((g tid).getD (r - d) 0) else if zero then 0 else t.vreg tid r)
      else t.vreg tid r := by
  induction l generalizing t with
  | nil => simp
  | cons x l ih =>
    obtain ⟨hx, hl⟩ := List.nodup_cons.mp hl
    rw [List.foldl_cons, ih hl, Team.vreg_writeRun_run _ _ _ _ _ _ _ _ (by rwa [hg]) hr, hg]
    by_cases htid : tid = x
    · subst htid
      simp [hx]
    · simp [htid]

/-! Results of one register. -/

theorem latticeTable_results {w : Ins} {x : Op × (State → Site → Nat → Nat × Flags)} (hx : x ∈ latticeTable w) :
    TeamResult x.1 w false x.2 := by
  simp only [latticeTable, List.mem_cons, List.not_mem_nil, or_false] at hx
  rcases hx with rfl | rfl | rfl <;> refine teamResult_of_writeAll rfl fun s si _ => ?_
  all_goals
    dsimp only [Instr.ofOp, exec]
    exact ⟨_, rfl, rfl⟩

theorem shfl_result (w : Ins) : TeamResult .shfl w (w.mb 49) fun s si tid =>
    (rdW s si.core si.team (w.mb 49) (shflFrom w si.team.threads tid (rd32 s si.core si.team tid w.b)) w.a, 0) :=
  teamResult_of_writeAll rfl fun s si _ => by
    dsimp only [Instr.ofOp, exec]
    exact ⟨_, rfl, rfl⟩

theorem bcast_result (w : Ins) : TeamResult .bcast w (w.mb 49) fun s si tid =>
    (if rd32 s si.core si.team tid w.b < si.team.threads then rdW s si.core si.team (w.mb 49) (rd32 s si.core si.team tid w.b) w.a
      else 0, 0) :=
  teamResult_of_writeAll rfl fun s si _ => by
    dsimp only [Instr.ofOp, exec]
    exact ⟨_, rfl, rfl⟩

/-! LQD. -/

theorem lqdRegs_length (half : Bool) (rc : RCtl) (l : List (Val × Flags)) :
    (lqdRegs half rc l).1.length = if half then 4 else 8 := by
  cases half <;> rfl

/-- What LQD decodes in a thread. -/
def lqdAt (w : Ins) (s : State) (si : Site) (tid : Nat) : List Nat × Flags :=
  lqdRegs (w.ty == some .f16) { si.team.rctl w with mode := .rne } (lqdVals (pointBytes w.ty2)
    (rd32 s si.core si.team tid w.a) (rd32 s si.core si.team tid w.c % 256) (liveCount (rd32 s si.core si.team tid w.b)))

/-- The acting team with the decoded points in its registers. -/
def lqdWritten (w : Ins) (s : State) (si : Site) (d : Nat) : Team :=
  (threadsOf si.team.threads (si.exec w)).foldl
    (fun t tid => t.writeRun (si.team.writeMask w) w.zero tid d (lqdAt w s si tid).1) si.team

theorem exec_lqd {s : State} {si : Site} {w : Ins} {d : Nat} (h : s.site? = some si) (g : si.goes s .lqd w = true)
    (hd : w.d = .v d) :
    exec (.lqd w) s = .next (s.goneOn si w ((lqdWritten w s si d).addTsr
      (Flags.all ((actors si w (si.exec w)).map fun tid => (lqdAt w s si tid).2)))) := by
  dsimp only [exec]
  refine (issueTeam_goes _ h g).trans (congrArg _ ?_)
  have hactors : actors si w (si.exec w) = threadsOf si.team.threads (si.exec w) := if_neg (by rw [hd]; exact Bool.false_ne_true)
  simp only [hd, hactors, State.onTeam_site h, List.foldl_map, List.map_map]
  exact State.finish_done_setTeam ..

theorem lqd_bound {w : Ins} {d : Nat} (hwf : WellFormed .team (.lqd w) = true) (hd : w.d = .v d) :
    d + (if w.ty == some .f16 then 4 else 8) ≤ 512 := by
  obtain ⟨hopds, -⟩ := Op.check_opds (o := .lqd) (WellFormed.checked hwf rfl)
  simp only [Op.opdsOk, hd, Opd.vRun, Bool.and_eq_true, decide_eq_true_eq] at hopds
  simp only [hopds]

/-- Settles O7: LQD writes runs of registers, the others one result of each thread. -/
theorem latticeAndShuffle : Obligations.LatticeAndShuffle := by
  intro w
  refine ⟨fun x hx => latticeTable_results hx, shfl_result w, bcast_result w, ?_⟩
  intro s si d hwf h g hd half val
  have hwrites : lqdWritten w s si d = { si.team with v := (lqdWritten w s si d).v } := Team.foldl_writeRun_eq ..
  refine ⟨_, exec_lqd h g hd, ?same, ?rng, ?s, ?p, ?vreg, ?tsr⟩
  case same =>
    unfold Team.SameBut
    rw [hwrites]
    rfl
  case rng | s | p => rw [hwrites]; rfl
  case tsr => rw [hwrites]; rfl
  case vreg =>
    intro tid r hr
    have hrun := Team.vreg_foldl_writeRun_run (si.team.writeMask w) w.zero d _ (fun tid => (lqdAt w s si tid).1)
      (fun tid => lqdRegs_length ..) tid r (lqd_bound hwf hd) hr _ (nodup_threadsOf si.team.threads (si.exec w)) si.team
    simp only [mem_threadsOf, and_assoc] at hrun
    exact hrun

end Sys2Proof.Machine
end

section
/-! PROOFS. Across threads: REDUX, SCAN, RAND and RSEED (06 R181 to R186). -/

namespace Sys2Proof.Machine

open Sys2Proof Host Spec

/-! Segments by number. -/

theorem foldl_segments (w : Ins) (ts acc : List Nat) (hacc : acc.Nodup) :
    let l := ts.foldl (fun l t => if l.contains (t / segSize w) then l else l ++ [t / segSize w]) acc
    l.Nodup ∧ ∀ g, g ∈ l ↔ g ∈ acc ∨ ∃ t ∈ ts, t / segSize w = g := by
  induction ts generalizing acc with
  | nil => simp [hacc]
  | cons t ts ih =>
    rw [List.foldl_cons]
    by_cases hmem : t / segSize w ∈ acc
    · rw [if_pos (by simpa using hmem)]
      refine ⟨(ih acc hacc).1, fun g => ((ih acc hacc).2 g).trans ?_⟩
      rw [List.exists_mem_cons_iff]
      refine ⟨Or.imp_right Or.inr, ?_⟩
      rintro (hg | rfl | hg)
      · exact .inl hg
      · exact .inl hmem
      · exact .inr hg
    · rw [if_neg (by simpa using hmem)]
      have hnext : (acc ++ [t / segSize w]).Nodup := by
        rw [List.nodup_append_comm]
        exact List.nodup_cons.mpr ⟨hmem, hacc⟩
      refine ⟨(ih _ hnext).1, fun g => ((ih _ hnext).2 g).trans ?_⟩
      rw [List.exists_mem_cons_iff, List.mem_append, List.mem_singleton, or_assoc, eq_comm (a := g)]

theorem nodup_segmentsOf (w : Ins) (ts : List Nat) : (segmentsOf w ts).Nodup := (foldl_segments w ts [] List.nodup_nil).1

theorem mem_segmentsOf {w : Ins} {ts : List Nat} {g : Nat} : g ∈ segmentsOf w ts ↔ ∃ t ∈ ts, t / segSize w = g :=
  ((foldl_segments w ts [] List.nodup_nil).2 g).trans (by simp)

theorem find?_keyed {α : Type} (f : Nat → α) {k : Nat} {l : List Nat} (h : k ∈ l) :
    (l.map fun g => (g, f g)).find? (fun x => x.1 == k) = some (k, f k) := by
  induction l with
  | nil => cases h
  | cons x l ih =>
    by_cases hx : x = k
    · simp [hx]
    · rw [List.map_cons, List.find?_cons_of_neg (by simpa using hx)]
      exact ih ((List.mem_cons.mp h).resolve_left (Ne.symm hx))

theorem actors_subset (si : Site) (w : Ins) (e : TMask) {t : Nat} (h : t ∈ actors si w e) : t ∈ threadsOf si.team.threads e := by
  unfold actors at h
  dsimp only at h
  split at h
  · exact List.mem_of_mem_take h
  · exact h

theorem mem_segmentOf_self {w : Ins} {si : Site} {t : Nat} (h : t ∈ actors si w (si.exec w)) : t ∈ segmentOf w si t :=
  List.mem_filter.mpr ⟨actors_subset si w _ h, beq_self_eq_true _⟩

/-- A thread that computes finds what was computed of its segment. -/
theorem find?_segment {α : Type} {w : Ins} {si : Site} {t : Nat} (h : t ∈ actors si w (si.exec w)) (f : Nat → α) :
    ((segmentsOf w (actors si w (si.exec w))).map fun g => (g, f g)).find? (fun x => x.1 == t / segSize w) =
      some (t / segSize w, f (t / segSize w)) :=
  find?_keyed f (mem_segmentsOf.mpr ⟨t, h, rfl⟩)

/-! Results over streams that may have moved. -/

theorem Team.rand_congr {t u : Team} (h : t.SameBut u) {r : Team} (hr : u.rng = r.rng) (hseed : r = { t with rng := r.rng })
    (tid : Nat) : u.rand tid = r.rand tid := by
  rw [h, hseed, Team.rand, Team.rand, hr]

/-- A result written over a team whose streams have moved where a condition holds. -/
theorem writeAll_streams {s : State} {si : Site} (h : s.site? = some si) (w : Ins) (wide : Bool) (val : Nat → Nat × Flags)
    (sto : Bool) (f : Team → Team) (hf : ∀ t, f t = { t with rng := (f t).rng })
    (hd : ∀ d, w.d = .v d → d + (if wide then 2 else 1) ≤ 512) :
    ∃ u : Team, s.finish si w.len.size (.done (writeAll (if sto then s.onTeam si f else s) si w wide
        ((actors si w (si.exec w)).map fun t => (t, val t)))) = s.goneOn si w u ∧ si.team.SameBut u ∧
      si.team.Result u w (si.exec w) wide (fun tid => (val tid).1) ∧
      u.tsr = si.team.tsr ||| BitVec.ofNat 32 (Flags.all ((actors si w (si.exec w)).map fun tid => (val tid).2)) ∧
      ∀ tid, u.rand tid = if sto then (f si.team).rand tid else si.team.rand tid := by
  cases sto with
  | true =>
    obtain ⟨u, hu, hsame, hrng, hresult, htsr⟩ := writeAll_drawn h w wide val f hf hd
    exact ⟨u, hu, hsame, hresult, htsr, Team.rand_congr hsame hrng (hf _)⟩
  | false =>
    obtain ⟨u, hu, hsame, hrng, hresult, htsr⟩ := writeAll_done h w wide val hd
    exact ⟨u, hu, hsame, hresult, htsr, Team.rand_congr hsame hrng rfl⟩

/-! REDUX. -/

/-- The lowest executing thread of a segment. -/
def segHead (w : Ins) (si : Site) (g : Nat) : Nat :=
  ((threadsOf si.team.threads (si.exec w)).find? fun u => u / segSize w == g).getD 0

/-- A segment's threads, by its number, and what REDUX makes of them. -/
def reduxOf (w : Ins) (s : State) (si : Site) (g : Nat) : Nat × Flags × W64 :=
  reduxSeg s si w ((threadsOf si.team.threads (si.exec w)).filter fun u => u / segSize w == g)

/-- The acting team after REDUX's draws: a segment's lowest thread keeps the stream that its tree leaves. -/
def reduxDrawn (w : Ins) (s : State) (si : Site) (t : Team) : Team :=
  (segmentsOf w (actors si w (si.exec w))).foldl (fun t g => t.setRand (segHead w si g) (reduxOf w s si g).2.2) t

theorem find?_of_segment {w : Ins} {si : Site} {g : Nat} (hg : g ∈ segmentsOf w (actors si w (si.exec w))) :
    (threadsOf si.team.threads (si.exec w)).find? (fun u => u / segSize w == g) = some (segHead w si g) := by
  obtain ⟨a, ha, rfl⟩ := mem_segmentsOf.mp hg
  have hsome : ((threadsOf si.team.threads (si.exec w)).find? fun u => u / segSize w == a / segSize w).isSome :=
    List.find?_isSome.mpr ⟨a, actors_subset si w _ ha, beq_self_eq_true _⟩
  obtain ⟨u, hu⟩ := Option.isSome_iff_exists.mp hsome
  rw [segHead, hu, Option.getD_some]

theorem segHead_div {w : Ins} {si : Site} {g : Nat} (hg : g ∈ segmentsOf w (actors si w (si.exec w))) :
    segHead w si g / segSize w = g := by
  simpa using List.find?_some (find?_of_segment hg)

/-- The lowest threads of the segments that compute. -/
theorem mem_segHeads {w : Ins} {si : Site} {tid : Nat} :
    tid ∈ (segmentsOf w (actors si w (si.exec w))).map (segHead w si) ↔
      ∃ a ∈ actors si w (si.exec w), (segmentOf w si a).head? = some tid := by
  have hhead {a : Nat} (ha : a ∈ actors si w (si.exec w)) :
      (segmentOf w si a).head? = some (segHead w si (a / segSize w)) := by
    rw [segmentOf, segThreads, List.head?_filter]
    exact find?_of_segment (mem_segmentsOf.mpr ⟨a, ha, rfl⟩)
  constructor
  · intro h
    obtain ⟨g, hg, rfl⟩ := List.mem_map.mp h
    obtain ⟨a, ha, rfl⟩ := mem_segmentsOf.mp hg
    exact ⟨a, ha, hhead ha⟩
  · rintro ⟨a, ha, h⟩
    rw [hhead ha] at h
    exact List.mem_map.mpr ⟨_, mem_segmentsOf.mpr ⟨a, ha, rfl⟩, Option.some.inj h⟩

/-- Each segment moves one stream, and no two segments the same. -/
theorem reduxDrawn_eq_setRand (w : Ins) (s : State) (si : Site) (t : Team) :
    reduxDrawn w s si t = ((segmentsOf w (actors si w (si.exec w))).map (segHead w si)).foldl
      (fun t tid => t.setRand tid (reduxOf w s si (tid / segSize w)).2.2) t := by
  rw [List.foldl_map]
  exact List.foldl_ext _ _ _ fun t g hg => by rw [segHead_div hg]

theorem reduxDrawn_eq (w : Ins) (s : State) (si : Site) (t : Team) :
    reduxDrawn w s si t = { t with rng := (reduxDrawn w s si t).rng } := by
  rw [reduxDrawn_eq_setRand]
  exact Team.foldl_setRand_eq (fun _ tid => (reduxOf w s si (tid / segSize w)).2.2) _ t

theorem rand_reduxDrawn (w : Ins) (s : State) (si : Site) (t : Team) (tid : Nat) :
    (reduxDrawn w s si t).rand tid = if ∃ a ∈ actors si w (si.exec w), (segmentOf w si a).head? = some tid then
      (reduxSeg s si w (segmentOf w si tid)).2.2 else t.rand tid := by
  have hnodup : ((segmentsOf w (actors si w (si.exec w))).map (segHead w si)).Nodup := by
    refine (nodup_segmentsOf w _).map_on fun g hg g' hg' heads => ?_
    rw [← segHead_div hg, heads, segHead_div hg']
  rw [reduxDrawn_eq_setRand,
    Team.rand_foldl_setRand (fun _ tid => (reduxOf w s si (tid / segSize w)).2.2) (fun _ _ _ _ => rfl) _ t tid hnodup]
  simp only [mem_segHeads]
  rfl

/-- The draws of a stochastic addition, and each computing thread's value of its own segment. -/
theorem exec_redux {s : State} {si : Site} {w : Ins} (h : s.site? = some si) (g : si.goes s .redux w = true) :
    exec (.redux w) s = .next (s.finish si w.len.size (.done (writeAll
      (if w.m 57 54 == 8 && (si.team.rctl w).mode == .sto then s.onTeam si (reduxDrawn w s si) else s) si w w.wideT
      ((actors si w (si.exec w)).map fun t =>
        (t, (reduxSeg s si w (segmentOf w si t)).1, (reduxSeg s si w (segmentOf w si t)).2.1))))) := by
  dsimp only [exec]
  refine (issueTeam_goes _ h g).trans (congrArg (fun x => Outcome.next (s.finish si w.len.size (.done x))) ?_)
  have hvals : (actors si w (si.exec w)).filterMap (fun t =>
      (((segmentsOf w (actors si w (si.exec w))).map fun g => (g, reduxOf w s si g)).find? fun x => x.1 == t / segSize w).map
        fun x => (t, x.2.1, x.2.2.1)) = (actors si w (si.exec w)).map fun t =>
      (t, (reduxSeg s si w (segmentOf w si t)).1, (reduxSeg s si w (segmentOf w si t)).2.1) :=
    List.filterMap_eq_map_iff_forall_eq_some.mpr fun t ht => by rw [find?_segment ht]; rfl
  unfold reduxOf at hvals
  rw [hvals]
  simp only [List.foldl_map]
  rfl

/-! SCAN. -/

theorem scanF_threads (w : Ins) (rc : RCtl) (acc : Nat) (l : List (Nat × Nat × W64)) :
    (scanF w rc acc l).map (·.1) = l.map (·.1) := by
  induction l generalizing acc with
  | nil => rfl
  | cons x l ih => rw [scanF, List.map_cons, List.map_cons, ih]

theorem scanI_threads (w : Ins) (acc : Int) (l : List (Nat × Int)) : (scanI w acc l).map (·.1) = l.map (·.1) := by
  induction l generalizing acc with
  | nil => rfl
  | cons x l ih => rw [scanI, List.map_cons, List.map_cons, ih]

theorem scanSeg_threads (s : State) (si : Site) (w : Ins) (us : List Nat) : (scanSeg s si w us).map (·.1) = us := by
  unfold scanSeg
  dsimp only
  split
  · simp [scanF_threads, Function.comp_def]
  · have hthreads := scanI_threads w (ival (tySigned w) w.wideT (identityOf w))
      (us.map fun u => (u, ival (tySigned w) w.wideT (rdW s si.core si.team w.wideT u w.a)))
    simp only [List.map_map, Function.comp_def, List.map_id'] at hthreads ⊢
    exact hthreads

/-- A computing thread's value, flags and stream after SCAN. -/
def scanned (w : Ins) (s : State) (si : Site) (tid : Nat) : (Nat × Flags) × W64 := (scanAt w s si tid).getD ((0, 0), 0)

theorem getD_scanAt {α : Type} (f : (Nat × Flags) × W64 → α) (w : Ins) (s : State) (si : Site) (tid : Nat) :
    ((scanAt w s si tid).map f).getD (f ((0, 0), 0)) = f (scanned w s si tid) := Option.getD_map ..

theorem find?_scanSeg {w : Ins} {s : State} {si : Site} {t : Nat} (ht : t ∈ actors si w (si.exec w)) :
    (scanSeg s si w (segmentOf w si t)).find? (fun y => y.1 == t) = some (t, scanned w s si t) := by
  have hmem : t ∈ (scanSeg s si w (segmentOf w si t)).map (·.1) := by
    rw [scanSeg_threads]
    exact mem_segmentOf_self ht
  obtain ⟨y, hy, hyt⟩ := List.mem_map.mp hmem
  obtain ⟨z, hz⟩ := Option.isSome_iff_exists.mp
    (List.find?_isSome (p := fun y => y.1 == t) |>.mpr ⟨y, hy, beq_iff_eq.mpr hyt⟩)
  have hzt : z.1 = t := by simpa using List.find?_some hz
  have hscanned : scanned w s si t = z.2 := by rw [scanned, scanAt, hz]; rfl
  rw [hz, hscanned, ← hzt]

/-- The acting team after SCAN's draws. -/
def scanDrawn (w : Ins) (s : State) (si : Site) (t : Team) : Team :=
  (actors si w (si.exec w)).foldl (fun t tid => t.setRand tid (scanned w s si tid).2) t

theorem exec_scan {s : State} {si : Site} {w : Ins} (h : s.site? = some si) (g : si.goes s .scan w = true) :
    exec (.scan w) s = .next (s.finish si w.len.size (.done (writeAll
      (if w.m 57 54 == 8 && (si.team.rctl w).mode == .sto then s.onTeam si (scanDrawn w s si) else s) si w w.wideT
      ((actors si w (si.exec w)).map fun t => (t, (scanned w s si t).1))))) := by
  dsimp only [exec]
  refine (issueTeam_goes _ h g).trans (congrArg (fun x => Outcome.next (s.finish si w.len.size (.done x))) ?_)
  have hvals : (actors si w (si.exec w)).filterMap (fun t =>
      (((segmentsOf w (actors si w (si.exec w))).map fun g =>
        (g, scanSeg s si w ((threadsOf si.team.threads (si.exec w)).filter fun u => u / segSize w == g))).find?
          fun x => x.1 == t / segSize w).bind fun x => x.2.find? fun y => y.1 == t) =
      (actors si w (si.exec w)).map fun t => (t, scanned w s si t) :=
    List.filterMap_eq_map_iff_forall_eq_some.mpr fun t ht => by
      rw [find?_segment ht]
      exact find?_scanSeg ht
  rw [hvals]
  simp only [List.foldl_map, List.map_map]
  rfl

/-! The obligation. -/

theorem sto_iff {w : Ins} {si : Site} : (w.m 57 54 == 8 && (si.team.rctl w).mode == .sto) = true ↔
    w.m 57 54 = 8 ∧ (si.team.rctl w).mode = .sto := by simp

theorem redux_team {s : State} {si : Site} {w : Ins} (hwf : WellFormed .team (.redux w) = true) (h : s.site? = some si)
    (g : si.goes s .redux w = true) :
    ∃ u : Team, exec (.redux w) s = .next (s.goneOn si w u) ∧ si.team.SameBut u ∧
      si.team.Result u w (si.exec w) w.wideT (fun tid => (reduxSeg s si w (segmentOf w si tid)).1) ∧
      u.tsr = si.team.tsr ||| BitVec.ofNat 32 (Flags.all ((actors si w (si.exec w)).map fun tid =>
        (reduxSeg s si w (segmentOf w si tid)).2.1)) ∧
      ∀ tid, u.rand tid = if (w.m 57 54 = 8 ∧ (si.team.rctl w).mode = .sto) ∧
          (∃ a ∈ actors si w (si.exec w), (segmentOf w si a).head? = some tid) then
        (reduxSeg s si w (segmentOf w si tid)).2.2 else si.team.rand tid := by
  obtain ⟨u, hu, hsame, hresult, htsr, hrand⟩ := writeAll_streams h w w.wideT
    (fun t => ((reduxSeg s si w (segmentOf w si t)).1, (reduxSeg s si w (segmentOf w si t)).2.1))
    (w.m 57 54 == 8 && (si.team.rctl w).mode == .sto) (reduxDrawn w s si) (reduxDrawn_eq w s si)
    (result_bound (o := .redux) hwf rfl)
  refine ⟨u, (exec_redux h g).trans (congrArg _ hu), hsame, hresult, htsr, fun tid => ?_⟩
  rw [hrand, rand_reduxDrawn]
  simp only [sto_iff, ite_and]

theorem scan_team {s : State} {si : Site} {w : Ins} (hwf : WellFormed .team (.scan w) = true) (h : s.site? = some si)
    (g : si.goes s .scan w = true) :
    ∃ u : Team, exec (.scan w) s = .next (s.goneOn si w u) ∧ si.team.SameBut u ∧
      si.team.Result u w (si.exec w) w.wideT (fun tid => (scanned w s si tid).1.1) ∧
      u.tsr = si.team.tsr ||| BitVec.ofNat 32 (Flags.all ((actors si w (si.exec w)).map fun tid => (scanned w s si tid).1.2)) ∧
      ∀ tid, u.rand tid = if (w.m 57 54 = 8 ∧ (si.team.rctl w).mode = .sto) ∧ tid ∈ actors si w (si.exec w) then
        (scanned w s si tid).2 else si.team.rand tid := by
  obtain ⟨u, hu, hsame, hresult, htsr, hrand⟩ := writeAll_streams h w w.wideT (fun t => (scanned w s si t).1)
    (w.m 57 54 == 8 && (si.team.rctl w).mode == .sto) (scanDrawn w s si)
    (fun t => Team.foldl_setRand_eq (fun _ tid => (scanned w s si tid).2) _ t) (result_bound (o := .scan) hwf rfl)
  refine ⟨u, (exec_scan h g).trans (congrArg _ hu), hsame, hresult, htsr, fun tid => ?_⟩
  rw [hrand, scanDrawn, Team.rand_foldl_setRand (fun _ tid => (scanned w s si tid).2) (fun _ _ _ _ => rfl) _ _ _
    (nodup_actors si w _)]
  simp only [sto_iff, ite_and]

theorem rand_team {s : State} {si : Site} {w : Ins} (hwf : WellFormed .team (.rand w) = true) (h : s.site? = some si)
    (g : si.goes s .rand w = true) :
    ∃ u : Team, exec (.rand w) s = .next (s.goneOn si w u) ∧ si.team.SameBut u ∧ u.tsr = si.team.tsr ∧
      si.team.Result u w (si.exec w) false (fun tid => randValue (w.mb 49) (next32 (si.team.rand tid)).2) ∧
      ∀ tid, u.rand tid = if tid ∈ actors si w (si.exec w) then (next32 (si.team.rand tid)).1 else si.team.rand tid := by
  obtain ⟨u, hu, hsame, hresult, htsr, hrand⟩ := writeAll_streams h w false
    (fun t => plain (randValue (w.mb 49) (next32 (si.team.rand t)).2)) true
    (fun t => t.drawn true 1 (actors si w (si.exec w))) (fun t => Team.drawn_eq t _ _ _) (result_bound (o := .rand) hwf rfl)
  refine ⟨u, ?_, hsame, ?_, hresult, fun tid => ?_⟩
  · dsimp only [exec]
    exact (issueTeam_goes _ h g).trans (congrArg _ hu)
  · exact htsr.trans ((congrArg (fun f => si.team.tsr ||| BitVec.ofNat 32 f) (Flags.all_zero _)).trans BitVec.or_zero)
  · rw [hrand, if_pos rfl, Team.rand_drawn _ _ _ _ (nodup_actors si w _)]
    simp only [true_and]
    rfl

/-- The seed that a thread takes from its operands. -/
def seedFrom (w : Ins) (s : State) (si : Site) (tid : Nat) : W64 :=
  let x := BitVec.ofNat 64 (rd32 s si.core si.team tid w.b * 2 ^ 32 + rd32 s si.core si.team tid w.a)
  if w.mb 49 then x ^^^ BitVec.ofNat 64 (tid * 0x9E3779B97F4A7C15) else x

theorem rseed_team {s : State} {si : Site} {w : Ins} (h : s.site? = some si) (g : si.goes s .rseed w = true) :
    ∃ u : Team, exec (.rseed w) s = .next (s.goneOn si w u) ∧ u = { si.team with rng := u.rng } ∧
      ∀ tid, u.rand tid = if tid ∈ threadsOf si.team.threads (si.exec w) then seedFrom w s si tid else si.team.rand tid := by
  refine ⟨(threadsOf si.team.threads (si.exec w)).foldl (fun t tid => t.setRand tid (seedFrom w s si tid)) si.team, ?_,
    Team.foldl_setRand_eq (fun _ tid => seedFrom w s si tid) _ _, fun tid => ?_⟩
  · dsimp only [exec]
    refine (issueTeam_goes _ h g).trans (congrArg _ ?_)
    rw [State.onTeam_site h]
    exact State.finish_done_setTeam ..
  · exact Team.rand_foldl_setRand (fun _ tid => seedFrom w s si tid) (fun _ _ _ _ => rfl) _ _ _ (nodup_threadsOf _ _)

/-- Settles O8: a computing thread finds its own segment among those reduced or scanned, and a segment has one lowest thread. -/
theorem acrossThreads : Obligations.AcrossThreads := by
  intro w s si h e ts sto
  refine ⟨fun hwf g => redux_team hwf h g, fun hwf g => ?_, fun hwf g => rand_team hwf h g, fun _ g => rseed_team h g⟩
  have hvalue (tid : Nat) : ((scanAt w s si tid).map (·.1.1)).getD 0 = (scanned w s si tid).1.1 := getD_scanAt (·.1.1) ..
  have hflags (tid : Nat) : ((scanAt w s si tid).map (·.1.2)).getD 0 = (scanned w s si tid).1.2 := getD_scanAt (·.1.2) ..
  have hstream (tid : Nat) : ((scanAt w s si tid).map (·.2)).getD 0 = (scanned w s si tid).2 := getD_scanAt (·.2) ..
  simp only [hvalue, hflags, hstream]
  exact scan_team hwf h g

end Sys2Proof.Machine
end

section
/-! PROOFS. Places of splits, and the shapes of the sequencer's statements (05 R128; 07 R192 to R198). -/

namespace Sys2Proof

theorem Tbl.get?_alter_self {α : Type} {t : Tbl α} {n : Nat} {x : α} (h : t.get? n = some x) (f : α → α) :
    (t.alter n f).get? n = some (f x) := by
  simp only [Tbl.alter, h, Tbl.get?_set_self]

theorem Tbl.get?_alter_ne {α : Type} (t : Tbl α) {n m : Nat} (f : α → α) (h : m ≠ n) : (t.alter n f).get? m = t.get? m := by
  unfold Tbl.alter
  split
  · exact Tbl.get?_set_ne _ _ h
  · rfl

end Sys2Proof

namespace Sys2Proof.Machine

open Sys2Proof Host Spec

/-! Ends of clauses and of turns change a team's places alone. -/

/-- Nothing of a team but its splits, their join records and whose turn it is differs. -/
def Team.PlaceOnly (t u : Team) : Prop :=
  u = { t with splits := u.splits, joins := u.joins, running := u.running, last := u.last }

theorem Team.PlaceOnly.refl (t : Team) : t.PlaceOnly t := rfl

theorem Team.PlaceOnly.trans {t u r : Team} (h : t.PlaceOnly u) (h' : u.PlaceOnly r) : t.PlaceOnly r := by
  unfold Team.PlaceOnly at *
  rw [h', h]

theorem Team.placeOnly_splits (t : Team) (l : Tbl Split) : t.PlaceOnly { t with splits := l } := rfl

theorem Team.placeOnly_pass (t : Team) (e : Nat) : t.PlaceOnly (t.pass e) := by
  unfold Team.pass
  split <;> rfl

theorem Team.pass_splits (t : Team) (e : Nat) : (t.pass e).splits = t.splits := by
  unfold Team.pass
  split <;> rfl

theorem Team.placeOnly_clauseEnds (t : Team) (e : Nat) (yield : Bool) : t.PlaceOnly (t.clauseEnds e yield) := by
  unfold Team.clauseEnds
  split
  · dsimp only
    split
    · exact (t.placeOnly_splits _).trans (Team.placeOnly_pass _ e)
    · exact t.placeOnly_splits _
  · exact .refl t

theorem Team.placeOnly_clauseDone (t : Team) (e next : Nat) (yield : Bool) : t.PlaceOnly (t.clauseDone e next yield) :=
  (t.placeOnly_splits _).trans (Team.placeOnly_clauseEnds _ e yield)

theorem Team.placeOnly_stepOver (t : Team) (e : Nat) (pos : ClausePos) (size : Nat) : t.PlaceOnly (t.stepOver e pos size) := by
  unfold Team.stepOver Team.standAt
  split
  · exact t.placeOnly_clauseDone ..
  · exact t.placeOnly_splits _

theorem Team.placeOnly_blockSplit (t : Team) (e : Nat) (w : Wait) : t.PlaceOnly (t.blockSplit e w) :=
  (t.placeOnly_splits _).trans (Team.placeOnly_pass _ e)

/-- At a clause's end the split's YIELD is used up. -/
theorem Team.clauseEnds_splits {t : Team} {e : Nat} {p : Split} (h : t.splits.get? e = some p) (yield : Bool) :
    (t.clauseEnds e yield).splits = t.splits.set e { p with yield := false } := by
  simp only [Team.clauseEnds, h]
  split
  · exact Team.pass_splits _ e
  · rfl

theorem Team.clauseDone_get?_self {t : Team} {e : Nat} {p : Split} (h : t.splits.get? e = some p) (next : Nat) (yield : Bool) :
    (t.clauseDone e next yield).splits.get? e = some { p with clause := none, pc := next, yield := false } := by
  unfold Team.clauseDone
  rw [Team.clauseEnds_splits (Tbl.get?_alter_self h _), Tbl.get?_set_self]

theorem Team.clauseEnds_get?_ne (t : Team) {e m : Nat} (yield : Bool) (h : m ≠ e) :
    (t.clauseEnds e yield).splits.get? m = t.splits.get? m := by
  cases hp : t.splits.get? e with
  | none => simp only [Team.clauseEnds, hp]
  | some p => rw [Team.clauseEnds_splits hp, Tbl.get?_set_ne _ _ h]

theorem Team.clauseDone_get?_ne (t : Team) {e m : Nat} (next : Nat) (yield : Bool) (h : m ≠ e) :
    (t.clauseDone e next yield).splits.get? m = t.splits.get? m := by
  unfold Team.clauseDone
  rw [Team.clauseEnds_get?_ne _ _ h, Tbl.get?_alter_ne _ _ h]

theorem Team.count_get?_ne (t : Team) (si : Site) (s : State) {m : Nat} (h : m ≠ si.entry) :
    (t.count si s).splits.get? m = t.splits.get? m := Tbl.get?_alter_ne _ _ h

/-! The statements' shapes, from what a meaning asks of the wrapper. -/

/-- An instruction of a team answers what its meaning `x` asks, where the condition holds. -/
theorem teamNext_of_body {o : Op} {w : Ins} {ok : State → Site → Prop} {next : State → Site → State}
    (x : Ins → State → Outcome State Fault Refusal) (hexec : ∀ s, exec (Instr.ofOp o w) s = x w s)
    (hx : ∀ s si, s.site? = some si → ∃ body, x w s = issueTeam o w s body ∧
      (ok s si → s.finish si w.len.size (body si (si.exec w)) = next s si)) : TeamNext o w ok next := by
  intro s si _ h g hok
  obtain ⟨body, hissue, hbody⟩ := hx s si h
  rw [hexec, hissue, issueTeam_goes body h g, hbody hok]

/-- The same on the control thread. -/
theorem ctlNext_of_body {o : Op} {w : Ins} {ok : State → CtlSite → Prop} {next : State → CtlSite → State}
    (x : Ins → State → Outcome State Fault Refusal) (hexec : ∀ s, exec (Instr.ofOp o w) s = x w s)
    (hx : ∀ s si, s.ctlSite? = some si → ∃ body, x w s = issueCtl o w s body ∧
      (ok s si → s.finishCtl si w.len.size (body si) = next s si)) : CtlNext o w ok next := by
  intro s si _ h g hok
  obtain ⟨body, hissue, hbody⟩ := hx s si h
  rw [hexec, hissue, issueCtl_goes body h g, hbody hok]

/-- A meaning that changes nothing leaves the team behind the instruction. -/
theorem State.finish_done {s : State} {si : Site} (h : s.site? = some si) (w : Ins) :
    s.finish si w.len.size (.done s) = s.goneOn si w si.team := State.retireIns_site h w.len.size

/-- The same of a meaning that changes other parts of the state, or has changed the team before. -/
theorem State.finish_done_of_team {s' : State} {si : Site} {u : Team} (h : s'.team? si.core si.slot = some u) (s : State) (w : Ins) :
    s.finish si w.len.size (.done s') = s'.goneOn si w u := State.updTeam_of_team h _

theorem State.finish_onTeam_of_team {s' : State} {si : Site} {u : Team} (h : s'.team? si.core si.slot = some u) (s : State)
    (w : Ins) (f : Team → Team) : s.finish si w.len.size (.done (s'.onTeam si f)) = s'.goneOn si w (f u) := by
  unfold State.onTeam
  rw [State.updTeam_of_team h]
  exact State.finish_done_setTeam ..

theorem State.finish_onTeam {s : State} {si : Site} (h : s.site? = some si) (w : Ins) (f : Team → Team) :
    s.finish si w.len.size (.done (s.onTeam si f)) = s.goneOn si w (f si.team) :=
  State.finish_onTeam_of_team (State.site?_team h) s w f

theorem State.finish_block_at {s : State} {si : Site} (h : s.site? = some si) (size : Nat) (wt : Wait) :
    s.finish si size (.block s wt false) = blockedAt s si wt := State.updTeam_of_team (State.site?_team h) _

theorem State.finish_block_behind {s : State} {si : Site} (h : s.site? = some si) (w : Ins) (wt : Wait) :
    s.finish si w.len.size (.block s wt true) = blockedBehind s si w si.team wt := State.updTeam_of_team (State.site?_team h) _

/-- The team waits behind the instruction in a state that its meaning has changed. -/
theorem State.finish_block_of_team {s' : State} {si : Site} {u : Team} (h : s'.team? si.core si.slot = some u) (s : State)
    (size : Nat) (f : Team → Team) (wt : Wait) : s.finish si size (.block (s'.onTeam si f) wt true) =
      s'.setTeam si.core si.slot ((((f u).count si s).stepOver si.entry si.pos size).blockSplit si.entry wt) := by
  unfold State.onTeam
  rw [State.updTeam_of_team h]
  exact State.updTeam_setTeam ..

theorem State.finish_block_onTeam {s : State} {si : Site} (h : s.site? = some si) (w : Ins) (f : Team → Team) (wt : Wait) :
    s.finish si w.len.size (.block (s.onTeam si f) wt true) = blockedBehind s si w (f si.team) wt := by
  exact State.finish_block_of_team (State.site?_team h) s w.len.size f wt

end Sys2Proof.Machine
end

section
/-! PROOFS. Branches, calls and returns, and the groups of a transfer (07 R192, R193, R223, R224). -/

namespace Sys2Proof.Machine

open Sys2Proof Host Spec

/-! Branches. -/

theorem State.transferTo_site {s : State} {si : Site} (h : s.site? = some si) (w : Ins) (rb : Option Nat) (target : Nat → Nat) :
    s.transferTo si (si.exec w) rb target = branched s si si.team w rb target := State.updTeam_of_team (State.site?_team h) _

/-- The acting team with the return address in D. -/
def linked (w : Ins) (si : Site) : Team :=
  si.team.writeD w true ((threadsOf si.team.threads (si.exec w)).map fun tid => (tid, si.pos.next))

theorem State.transferTo_linkTo {s : State} {si : Site} (h : s.site? = some si) (w : Ins) (rb : Option Nat)
    (target : Nat → Nat) :
    (linkTo s si w (si.exec w)).transferTo si (si.exec w) rb target = branched s si (linked w si) w rb target := by
  unfold linkTo
  rw [State.onTeam_site h]
  exact State.updTeam_setTeam ..

theorem branchTo_onBlocks {s : State} {si : Site} {w : Ins} (s' : State) (rb : Option Nat) (hblocks : onBlocks w s si) :
    branchTo s' si (si.exec w) rb (fun t => rd64 s si.core si.team t w.a) =
      .flow (s'.transferTo si (si.exec w) rb fun t => rd64 s si.core si.team t w.a) := by
  have hnone : (threadsOf si.team.threads (si.exec w)).find? (fun t => rd64 s si.core si.team t w.a % 32 != 0) = none := by
    simpa [onBlocks] using hblocks
  simp only [branchTo, hnone]

theorem branchTo_offBlock {si : Site} {w : Ins} (s' : State) (rb : Option Nat) {target : Nat → Nat} {tid : Nat}
    (hfirst : (threadsOf si.team.threads (si.exec w)).find? (fun t => target t % 32 != 0) = some tid) :
    branchTo s' si (si.exec w) rb target = .trap ⟨clsALIGN, 0, BitVec.ofNat 64 (target tid)⟩ := by
  simp only [branchTo, hfirst]

/-- A uniform destination takes the value of the first thread alone. -/
theorem Team.writeD_take_one {w : Ins} (hd : w.d.isS = true) (t : Team) (wide : Bool) (val : Nat → Nat) (l : List Nat) :
    t.writeD w wide ((l.take 1).map fun tid => (tid, val tid)) = t.writeD w wide (l.map fun tid => (tid, val tid)) := by
  cases hw : w.d with
  | s d => cases l <;> simp [Team.writeD, hw]
  | _ => simp [hw, Opd.isS] at hd

/-- What D holds after a write for every executing thread: a uniform D takes the first one's. -/
theorem Team.writeD_threads_result (t : Team) (w : Ins) (e : TMask) (wide : Bool) (val : Nat → Nat)
    (hd : ∀ d, w.d = .v d → d + (if wide then 2 else 1) ≤ 512) :
    t.Result (t.writeD w wide ((threadsOf t.threads e).map fun tid => (tid, val tid))) w e wide val := by
  have hresult := Team.writeD_result t w e wide val _ rfl hd
  by_cases hs : w.d.isS = true
  · rwa [if_pos hs, Team.writeD_take_one hs] at hresult
  · rwa [if_neg hs] at hresult

/-- The return address is a 64-bit result. -/
theorem linked_result {o : Op} {w : Ins} (ho : o = .call ∨ o = .callx) (hwf : WellFormed .team (Instr.ofOp o w) = true)
    (si : Site) : linked w si = { si.team with v := (linked w si).v, s := (linked w si).s } ∧
      si.team.Result (linked w si) w (si.exec w) true (fun _ => si.pos.next) := by
  obtain ⟨hopds, hregs⟩ := Op.check_opds (WellFormed.checked hwf (toOp_ofOp o w))
  have hdst : Opd.dst .team true w.d = true := by
    rcases ho with rfl | rfl <;> (simp only [Op.opdsOk, Bool.and_eq_true] at hopds; simp only [hopds])
  exact ⟨Team.writeD_eq .., Team.writeD_threads_result _ _ _ _ _ (dst_bound hdst hregs)⟩

/-- BRX, BRXD and RET ask for a transfer to their threads' own targets. -/
theorem indirect_next {o : Op} {w : Ins} {rb : Site → Option Nat} (x : Ins → State → Outcome State Fault Refusal)
    (hexec : ∀ s, exec (Instr.ofOp o w) s = x w s)
    (hx : ∀ s, x w s = issueTeam o w s fun si e => branchTo s si e (rb si) fun t => rd64 s si.core si.team t w.a) :
    TeamNext o w (onBlocks w) fun s si => branched s si si.team w (rb si) fun t => rd64 s si.core si.team t w.a := by
  refine teamNext_of_body x hexec fun s si h => ⟨_, hx s, fun hblocks => ?_⟩
  rw [branchTo_onBlocks s _ hblocks]
  exact State.transferTo_site h w _ _

theorem branches : Spec.BranchesComplete := by
  intro w
  refine ⟨?bra, ?brd, ?brx, ?brxd, ?ret, fun s si h => ⟨fun hwf g => ?call, fun hwf g hblocks => ?callx⟩⟩
  case bra => exact teamNext_of_body execBra (fun _ => rfl) fun s si h => ⟨_, rfl, fun _ => State.transferTo_site h w _ _⟩
  case brd => exact teamNext_of_body execBrd (fun _ => rfl) fun s si h => ⟨_, rfl, fun _ => State.transferTo_site h w _ _⟩
  case brx => exact indirect_next execBrx (fun _ => rfl) fun _ => rfl
  case brxd => exact indirect_next execBrxd (fun _ => rfl) fun _ => rfl
  case ret => exact indirect_next execRet (fun _ => rfl) fun _ => rfl
  case call =>
    refine ⟨linked w si, ?_, linked_result (.inl rfl) hwf si⟩
    show execCall w s = _
    exact (issueTeam_goes _ h g).trans (congrArg Outcome.next (State.transferTo_linkTo h w _ _))
  case callx =>
    refine ⟨linked w si, ?_, linked_result (.inr rfl) hwf si⟩
    show execCallx w s = _
    refine (issueTeam_goes _ h g).trans (congrArg Outcome.next ?_)
    rw [branchTo_onBlocks _ _ hblocks]
    exact State.transferTo_linkTo h w _ _

/-- A branch whose target in some executing thread is off a block asks for the trap, whatever it would have linked. -/
theorem offBlock_traps {o : Op} {w : Ins} {s : State} {si : Site} {tid : Nat} {linkedAt : Site → TMask → State}
    {rb : Site → Option Nat} (h : s.site? = some si) (g : si.goes s o w = true)
    (hfirst : (threadsOf si.team.threads (si.exec w)).find? (fun t => rd64 s si.core si.team t w.a % 32 != 0) = some tid) :
    (issueTeam o w s fun si e => branchTo (linkedAt si e) si e (rb si) fun t => rd64 s si.core si.team t w.a) =
      .next (s.trapSite si ⟨clsALIGN, 0, BitVec.ofNat 64 (rd64 s si.core si.team tid w.a)⟩ w.len.size) := by
  rw [issueTeam_goes _ h g, branchTo_offBlock _ _ hfirst]
  rfl

theorem misalignedTargetsTrap : Spec.MisalignedTargetsTrap := by
  intro w o ho s si tid _ h g hfirst
  simp only [List.mem_cons, List.not_mem_nil, or_false] at ho
  rcases ho with rfl | rfl | rfl | rfl
  · exact offBlock_traps (linkedAt := fun _ _ => s) (rb := fun _ => none) h g hfirst
  · exact offBlock_traps (linkedAt := fun _ _ => s) (rb := fun si => some (rejoinOf si w)) h g hfirst
  · exact offBlock_traps (linkedAt := fun _ _ => s) (rb := fun _ => none) h g hfirst
  · exact offBlock_traps (linkedAt := fun si e => linkTo s si w e) (rb := fun _ => none) h g hfirst

/-- Settles O10: a transfer is the acting team's own, counted and with its link written; one target off a block stops all. -/
theorem branchesComplete : Obligations.BranchesComplete := ⟨branches, misalignedTargetsTrap⟩

/-! Where the groups of a transfer go (R193). -/

/-- The team has a place for the group: an entry that was free before, or a record of the spill stack. -/
def Team.Placed (t u : Team) (x : Nat × TMask) : Prop :=
  (∃ e q, t.splits.get? e = none ∧ u.splits.get? e = some q ∧ q.pc = x.1 ∧ q.mask = x.2 ∧ q.clause = none) ∨
    ∃ g ∈ u.spill, g.pc = x.1 ∧ g.mask = x.2

theorem Tbl.free_get? {α : Type} {t : Tbl α} {n e : Nat} (h : t.free n = some e) : t.get? e = none := by
  simpa using List.find?_some h

/-- Placing groups leaves the entries in use. -/
theorem Team.placeGroups_get? (j : Option Nat) (gs : List (Nat × TMask)) (t : Team) {e : Nat} {q : Split}
    (h : t.splits.get? e = some q) : (t.placeGroups j gs).splits.get? e = some q := by
  induction gs generalizing t with
  | nil => exact h
  | cons x gs ih =>
    rw [Team.placeGroups]
    split
    next e' hfree =>
      have hne : e ≠ e' := by
        rintro rfl
        rw [Tbl.free_get? hfree] at h
        cases h
      exact ih _ ((Tbl.get?_set_ne _ _ hne).trans h)
    next => exact h

/-- A place found later was free before as well. -/
theorem Team.Placed.of_set {t u : Team} {x : Nat × TMask} {e : Nat} {q : Split}
    (h : Team.Placed { t with splits := t.splits.set e q } u x) : t.Placed u x := by
  refine h.imp_left ?_
  rintro ⟨e', q', hfree, hq'⟩
  refine ⟨e', q', ?_, hq'⟩
  rw [Tbl.get?_set] at hfree
  split at hfree
  · cases hfree
  · exact hfree

theorem Team.placeGroups_placed (j : Option Nat) (gs : List (Nat × TMask)) (t : Team) {x : Nat × TMask} (hx : x ∈ gs) :
    t.Placed (t.placeGroups j gs) x := by
  induction gs generalizing t with
  | nil => cases hx
  | cons y gs ih =>
    rw [Team.placeGroups]
    split
    next e hfree =>
      rcases List.mem_cons.mp hx with rfl | hx
      · exact .inl ⟨e, _, Tbl.free_get? hfree, Team.placeGroups_get? j gs _ (Tbl.get?_set_self ..), rfl, rfl, rfl⟩
      · exact (ih _ hx).of_set
    next =>
      exact .inr ⟨_, List.mem_append_left _ (List.mem_map_of_mem hx), rfl, rfl⟩

theorem Team.joinRef_splits (t : Team) (j rb : Option Nat) (n : Nat) : (t.joinRef j rb n).2.splits = t.splits := by
  unfold Team.joinRef
  split
  · rfl
  · split <;> rfl

/-- Of two groups or more, the first keeps the entry and the others are placed (R193). -/
theorem Team.transfer_placed {t : Team} {e : Nat} {p : Split} (h : t.splits.get? e = some p) (x₁ x₂ : Nat × TMask)
    (gs : List (Nat × TMask)) (rb : Option Nat) (yield : Bool) :
    let u := t.transfer e (x₁ :: x₂ :: gs) rb yield
    (∃ q, u.splits.get? e = some q ∧ q.pc = x₁.1 ∧ q.mask = x₁.2 ∧ q.clause = none) ∧
      ∀ x ∈ x₂ :: gs, (∃ e' q, u.splits.get? e' = some q ∧ q.pc = x.1 ∧ q.mask = x.2 ∧ q.clause = none) ∨
        ∃ g ∈ u.spill, g.pc = x.1 ∧ g.mask = x.2 := by
  dsimp only [Team.transfer]
  generalize hj : t.joinRef _ rb _ = jt
  obtain ⟨j, t₁⟩ := jt
  have ht₁ : t₁.splits = t.splits := (congrArg (fun y => y.2.splits) hj).symm.trans (Team.joinRef_splits ..)
  dsimp only
  have hfirst := Tbl.get?_alter_self (t := t₁.splits) (ht₁ ▸ h) fun p => { p with mask := x₁.2, join := j }
  refine ⟨⟨_, Team.clauseDone_get?_self (Team.placeGroups_get? j _ _ hfirst) _ _, rfl, rfl, rfl⟩, fun x hx => ?_⟩
  rcases Team.placeGroups_placed j (x₂ :: gs) { t₁ with splits := t₁.splits.alter e _ } hx with
    ⟨e', q, hfree, hq, hpc, hmask, hclause⟩ | ⟨g, hg, hgroup⟩
  · have hne : e' ≠ e := by
      rintro rfl
      exact absurd (hfree.symm.trans hfirst) nofun
    exact .inl ⟨e', q, (Team.clauseDone_get?_ne _ _ _ hne).trans hq, hpc, hmask, hclause⟩
  · refine .inr ⟨g, ?_, hgroup⟩
    rw [Team.placeOnly_clauseDone]
    exact hg

/-! The groups hold every thread of the split (R192). -/

/-- One more thread joins the group of its target. -/
def joinGroup (target : Nat → Nat) (l : List (Nat × TMask)) (t : Nat) : List (Nat × TMask) :=
  if l.any (fun g => g.1 == target t) then l.map fun g => if g.1 == target t then (g.1, g.2 ||| bitMask t) else g
  else l ++ [(target t, bitMask t)]

theorem transferGroups_eq (threads : Nat) (mask e : TMask) (next : Nat) (target : Nat → Nat) :
    transferGroups threads mask e next target =
      (if mask &&& ~~~ e == 0 then [] else [(next, mask &&& ~~~ e)]) ++ (threadsOf threads e).foldl (joinGroup target) [] := rfl

/-- Some group at a target holds a thread. -/
def holdsThread (l : List (Nat × TMask)) (pc tid : Nat) : Prop := ∃ x ∈ l, x.2.getLsbD tid = true ∧ x.1 = pc

theorem holdsThread_joinGroup {target : Nat → Nat} {l : List (Nat × TMask)} {pc tid : Nat} (h : holdsThread l pc tid) (t : Nat) :
    holdsThread (joinGroup target l t) pc tid := by
  obtain ⟨x, hx, hbit, hpc⟩ := h
  unfold joinGroup
  split
  · refine ⟨_, List.mem_map_of_mem hx, ?_⟩
    split
    · exact ⟨by rw [BitVec.getLsbD_or, hbit, Bool.true_or], hpc⟩
    · exact ⟨hbit, hpc⟩
  · exact ⟨x, List.mem_append_left _ hx, hbit, hpc⟩

theorem holdsThread_joinGroup_self (target : Nat → Nat) (l : List (Nat × TMask)) {t : Nat} (ht : t < 1024) :
    holdsThread (joinGroup target l t) (target t) t := by
  have hself : (bitMask t).getLsbD t = true := by rw [getLsbD_bitMask t t ht, decide_eq_true rfl]
  unfold joinGroup
  split
  next hany =>
    obtain ⟨g, hg, hpc⟩ := List.any_eq_true.mp hany
    refine ⟨_, List.mem_map_of_mem hg, ?_⟩
    rw [if_pos hpc]
    exact ⟨by rw [BitVec.getLsbD_or, hself, Bool.or_true], beq_iff_eq.mp hpc⟩
  next => exact ⟨_, List.mem_append_right _ (List.mem_singleton_self _), hself, rfl⟩

theorem holdsThread_foldl {target : Nat → Nat} {pc tid : Nat} (ts : List Nat) {l : List (Nat × TMask)} (h : holdsThread l pc tid) :
    holdsThread (ts.foldl (joinGroup target) l) pc tid := by
  induction ts generalizing l with
  | nil => exact h
  | cons t ts ih => exact ih (holdsThread_joinGroup h t)

theorem holdsThread_foldl_mem {target : Nat → Nat} {tid : Nat} (ht : tid < 1024) {ts : List Nat} (h : tid ∈ ts)
    (l : List (Nat × TMask)) : holdsThread (ts.foldl (joinGroup target) l) (target tid) tid := by
  induction ts generalizing l with
  | nil => cases h
  | cons t ts ih =>
    rcases List.mem_cons.mp h with rfl | h
    · exact holdsThread_foldl ts (holdsThread_joinGroup_self target l ht)
    · exact ih h _

theorem transferGroups_hold {threads tid : Nat} {mask : TMask} (htid : tid < threads) (hmask : mask.getLsbD tid = true)
    (e : TMask) (next : Nat) (target : Nat → Nat) :
    holdsThread (transferGroups threads mask e next target) (if e.getLsbD tid then target tid else next) tid := by
  have hlt : tid < 1024 := BitVec.lt_of_getLsbD hmask
  rw [transferGroups_eq]
  by_cases he : e.getLsbD tid = true
  · obtain ⟨x, hx, hheld⟩ := holdsThread_foldl_mem (target := target) hlt (mem_threadsOf.mpr ⟨htid, he⟩) []
    rw [if_pos he]
    exact ⟨x, List.mem_append_right _ hx, hheld⟩
  · have hrest : (mask &&& ~~~ e).getLsbD tid = true := by
      rw [BitVec.getLsbD_and, BitVec.getLsbD_not, hmask, Bool.eq_false_iff.mpr he, decide_eq_true hlt]
      rfl
    have hne : ¬ (mask &&& ~~~ e == 0) = true := by
      intro h0
      rw [beq_iff_eq.mp h0] at hrest
      simp at hrest
    rw [if_neg he, if_neg hne]
    exact ⟨_, List.mem_append_left _ (List.mem_singleton_self _), hrest, rfl⟩

/-- Settles O11: one group takes the whole split, several take its entry, free ones and the spill stack; the groups hold every
thread. -/
theorem transferKeepsThreads : Obligations.TransferKeepsThreads := by
  refine ⟨fun t e p groups rb yield x h hx => ?_, fun threads mask e next target tid htid hmask => ?_⟩
  · cases groups with
    | nil => cases hx
    | cons x₁ gs =>
      cases gs with
      | nil =>
        obtain rfl := List.mem_singleton.mp hx
        exact .inl ⟨e, _, Team.clauseDone_get?_self h _ _, rfl, fun hlen => absurd rfl hlen, rfl, fun _ => rfl⟩
      | cons x₂ gs =>
        have hlen : (x₁ :: x₂ :: gs).length ≠ 1 := by simp
        obtain ⟨⟨q₁, hq₁, hpc₁, hmask₁, hclause₁⟩, hothers⟩ := Team.transfer_placed h x₁ x₂ gs rb yield
        rcases List.mem_cons.mp hx with rfl | hx
        · exact .inl ⟨e, q₁, hq₁, hpc₁, fun _ => hmask₁, hclause₁, fun h1 => absurd h1 hlen⟩
        · refine (hothers x hx).imp_left ?_
          rintro ⟨e', q, hq, hpc, hmask, hclause⟩
          exact ⟨e', q, hq, hpc, fun _ => hmask, hclause, fun h1 => absurd h1 hlen⟩
  · exact transferGroups_hold htid hmask e next target

end Sys2Proof.Machine
end

section
/-! PROOFS. Predicates, votes, roles and control registers (07 R211, R214, R215, R228, R231; 06 R158, R159). -/

namespace Sys2Proof.Machine

open Sys2Proof Host Spec

/-! Results in D that every executing thread computes. -/

theorem single_bound {o : Op} {w : Ins} (hwf : WellFormed .team (Instr.ofOp o w) = true) :
    ∀ d, w.d = .v d → d + (if false then 2 else 1) ≤ 512 := by
  obtain ⟨-, hregs⟩ := Op.check_opds (WellFormed.checked hwf (toOp_ofOp o w))
  intro d hd
  rw [hd] at hregs
  exact Nat.succ_le_of_lt (of_decide_eq_true hregs)

/-- An instruction that leaves one register's value for each executing thread, and no flags. -/
theorem teamResult_of_writeD {o : Op} {w : Ins} {val : State → Site → Nat → Nat}
    (x : Ins → State → Outcome State Fault Refusal) (hexec : ∀ s, exec (Instr.ofOp o w) s = x w s)
    (hx : ∀ s si, s.site? = some si → ∃ body, x w s = issueTeam o w s body ∧
      body si (si.exec w) = .done (s.onTeam si fun t =>
        t.writeD w false ((threadsOf si.team.threads (si.exec w)).map fun tid => (tid, val s si tid)))) :
    TeamResult o w false fun s si tid => (val s si tid, 0) := by
  intro s si hwf h g
  obtain ⟨body, hissue, hbody⟩ := hx s si h
  refine ⟨_, ((hexec s).trans (hissue.trans (issueTeam_goes body h g))).trans
      (congrArg _ ((congrArg _ hbody).trans (State.finish_onTeam h w _))),
    ?same, ?rng, Team.writeD_threads_result _ _ _ _ _ (single_bound hwf), ?tsr⟩
  case same =>
    unfold Team.SameBut
    rw [Team.writeD_eq]
  case rng => rw [Team.writeD_eq]
  case tsr =>
    rw [Team.writeD_eq, Flags.all_zero]
    exact BitVec.or_zero.symm

/-! Predicates (R228). -/

theorem contains_threadsOf (n : Nat) (m : TMask) (y : Nat) : (threadsOf n m).contains y = (decide (y < n) && m.getLsbD y) := by
  rw [Bool.eq_iff_iff]
  simp [mem_threadsOf]

theorem boolNat_ne_zero (x : Nat) : boolNat (x != 0) = if x = 0 then 0 else 1 := by
  by_cases h : x = 0 <;> simp [boolNat, h]

theorem plop_predicates (w : Ins) : TeamPredicates .plop w (fun _ _ => True) fun s si n => [(n, fun tid =>
    bitAt (w.m 56 49) (4 * (if rd32 s si.core si.team tid w.a = 0 then 0 else 1) +
      2 * (if rd32 s si.core si.team tid w.b = 0 then 0 else 1) + if rd32 s si.core si.team tid w.c = 0 then 0 else 1))] := by
  intro s si n _ h g hd _
  simp only [← boolNat_ne_zero]
  refine ⟨_, ?_, Team.writeP_eq .., Team.writeP_result ..⟩
  show execPlop w s = _
  refine (issueTeam_goes _ h g).trans (congrArg _ ?_)
  simp only [hd]
  exact State.finish_onTeam h w _

theorem pmovTov_result (w : Ins) :
    TeamResult .pmovTov w false fun _ si tid => (maskOf 12 fun i => (si.team.preg i).getLsbD tid, 0) := by
  refine teamResult_of_writeD execPmovTov (fun _ => rfl) fun s si h => ⟨_, rfl, ?_⟩
  simp only [State.onTeam_site h]

theorem vote_ballot {w : Ins} (hmode : w.m 50 49 = 3) : TeamResult .vote w false fun s si tid => (maskOf 32 fun i =>
    decide (tid / 32 * 32 + i < si.team.threads) && (si.exec w).getLsbD (tid / 32 * 32 + i) &&
      rd32 s si.core si.team (tid / 32 * 32 + i) w.a != 0, 0) := by
  refine teamResult_of_writeD execVote (fun _ => rfl) fun s si h => ⟨_, rfl, ?_⟩
  simp only [hmode, beq_self_eq_true, if_true, contains_threadsOf]

theorem vote_value {w : Ins} (hmode : w.m 50 49 ≠ 3) (hd : w.d.isV = true) :
    TeamResult .vote w false fun s si _ => (boolNat (voteAnswer (w.m 50 49) (valuesA w s si)), 0) := by
  refine teamResult_of_writeD execVote (fun _ => rfl) fun s si h => ⟨_, rfl, ?_⟩
  cases hw : w.d with
  | v n =>
    simp only [beq_iff_eq, hmode, if_false]
    rfl
  | _ => simp [hw, Opd.isV] at hd

theorem vote_predicates {w : Ins} (hmode : w.m 50 49 ≠ 3) : TeamPredicates .vote w (fun _ _ => True) fun s si n =>
    [(n, fun _ => voteAnswer (w.m 50 49) (valuesA w s si)), (n + 1, fun _ => !voteAnswer (w.m 50 49) (valuesA w s si))] := by
  intro s si n _ h g hd _
  obtain ⟨-, -, -, hframe⟩ := Team.writePair_split si.team w n
    ((threadsOf si.team.threads (si.exec w)).map fun t => (t, voteAnswer (w.m 50 49) (valuesA w s si)))
  refine ⟨_, ?_, hframe, Team.writePair_result ..⟩
  show execVote w s = _
  refine (issueTeam_goes _ h g).trans (congrArg _ ?_)
  simp only [beq_iff_eq, hmode, if_false, hd]
  exact State.finish_onTeam h w _

/-- The listed predicates take the bits of a number for one thread. -/
def Team.setPbits (l : List Nat) (t : Team) (tid x : Nat) : Team := l.foldl (fun t i => t.setPbit tid i (bitAt x i)) t

theorem Team.setPbits_eq (l : List Nat) (t : Team) (tid x : Nat) :
    Team.setPbits l t tid x = { t with p := (Team.setPbits l t tid x).p } := by
  unfold Team.setPbits
  induction l generalizing t with
  | nil => rfl
  | cons i l ih => rw [List.foldl_cons, ih, Team.setPbit_eq t]

theorem Team.preg_setPbits (l : List Nat) (t : Team) (tid x k : Nat) {j : Nat} (hj : j < 1024) :
    ((Team.setPbits l t tid x).preg k).getLsbD j = if k ∈ l ∧ j = tid then bitAt x k else (t.preg k).getLsbD j := by
  unfold Team.setPbits
  induction l generalizing t with
  | nil => simp
  | cons i l ih =>
    rw [List.foldl_cons, ih, Team.preg_setPbit _ _ _ _ _ _ hj]
    by_cases hki : k = i
    · subst hki; simp only [List.mem_cons, true_or, true_and]; split <;> simp_all
    · simp [hki]

theorem Team.foldl_setPbits_eq (l : List Nat) (x : Nat → Nat) (ts : List Nat) (t : Team) :
    ts.foldl (fun t tid => Team.setPbits l t tid (x tid)) t =
      { t with p := (ts.foldl (fun t tid => Team.setPbits l t tid (x tid)) t).p } := by
  induction ts generalizing t with
  | nil => rfl
  | cons tid ts ih => rw [List.foldl_cons, ih, Team.setPbits_eq l t]

theorem Team.preg_foldl_setPbits (l : List Nat) (x : Nat → Nat) (ts : List Nat) (t : Team) (k : Nat) {j : Nat} (hj : j < 1024) :
    ((ts.foldl (fun t tid => Team.setPbits l t tid (x tid)) t).preg k).getLsbD j =
      if k ∈ l ∧ j ∈ ts then bitAt (x j) k else (t.preg k).getLsbD j := by
  induction ts generalizing t with
  | nil => simp
  | cons tid ts ih =>
    rw [List.foldl_cons, ih, Team.preg_setPbits _ _ _ _ _ hj]
    by_cases hjt : j = tid
    · subst hjt; simp only [List.mem_cons, true_or, and_true]; split <;> simp_all
    · simp [hjt]

theorem pmovSel_predicates {s : State} {si : Site} {w : Ins} (h : s.site? = some si) (g : si.goes s .pmovSel w = true) :
    ∃ u : Team, exec (.pmovSel w) s = .next (s.goneOn si w u) ∧ u = { si.team with p := u.p } ∧
      ∀ i tid, tid < 1024 → (u.preg i).getLsbD tid =
        if i < 12 ∧ bitAt (w.m 61 50) i = true ∧ tid < si.team.threads ∧ (si.exec w).getLsbD tid = true
        then bitAt (rd32 s si.core si.team tid w.a) i else (si.team.preg i).getLsbD tid := by
  refine ⟨(threadsOf si.team.threads (si.exec w)).foldl (fun t tid =>
      Team.setPbits ((List.range 12).filter (bitAt (w.m 61 50))) t tid (rd32 s si.core si.team tid w.a)) si.team,
    show execPmovSel w s = _ from (issueTeam_goes _ h g).trans (congrArg _ (State.finish_onTeam h w _)),
    Team.foldl_setPbits_eq _ (fun tid => rd32 s si.core si.team tid w.a) _ _, fun i tid htid => ?_⟩
  rw [Team.preg_foldl_setPbits _ (fun tid => rd32 s si.core si.team tid w.a) _ _ _ htid]
  simp only [List.mem_filter, List.mem_range, mem_threadsOf, and_assoc]

/-! Roles and control registers (R214, R231). -/

theorem role_next (w : Ins) : TeamNext .role w (fun s si => ∃ l, s.launchOf si.team = some l ∧
      w.m 51 49 < l.record.roles.length ∧ si.team.splits.length ≤ 1 ∧ si.team.joins = [] ∧ si.team.spill = [] ∧
      si.exec w = si.team.alive)
    fun s si => s.goneOn si w { si.team with pendingRole := some (w.m 51 49, 0) } := by
  refine teamNext_of_body execRole (fun _ => rfl) fun s si h => ⟨_, rfl, ?_⟩
  rintro ⟨l, hl, hrole, hsplits, hjoins, hspill, hall⟩
  have hrole' : ¬ l.record.roles.length ≤ w.m 51 49 := by omega
  have hsplits' : ¬ 1 < si.team.splits.length := by omega
  have hconv : (decide (1 < si.team.splits.length) || !si.team.joins.isEmpty || !si.team.spill.isEmpty ||
      si.exec w != si.team.alive) = false := by simp [hsplits', hjoins, hspill, hall]
  simp only [hl, hrole', hconv, if_false, Bool.false_eq_true]
  exact State.finish_onTeam h w _

theorem crr_next (w : Ins) : TeamNext .crr w (fun _ _ => True) fun s si =>
    s.goneOn si w (({ si.team with tsr := if w.m 53 49 = 2 then s.tsrSeen si.team else si.team.tsr } : Team).writeD w
      (crWide (w.m 53 49)) [(0, s.controlReg si.team (w.m 53 49))]) := by
  refine teamNext_of_body execCrr (fun _ => rfl) fun s si h => ⟨_, rfl, fun _ => (State.finish_onTeam h w _).trans ?_⟩
  by_cases hn : w.m 53 49 = 2
  · simp only [hn, beq_self_eq_true, if_true]
  · simp only [beq_iff_eq, hn, if_false]

theorem crw_next (w : Ins) : TeamNext .crw w (fun _ _ => True) fun s si =>
    s.goneOn si w (si.team.writeControl (w.m 53 49) (if crWide (w.m 53 49) then s.uni64 si w.a else s.uni si w.a)) :=
  teamNext_of_body execCrw (fun _ => rfl) fun _ _ h => ⟨_, rfl, fun _ => State.finish_onTeam h w _⟩

/-- Settles O12: each writes the acting team with one of the destination operations, whose writes are said once. -/
theorem predicatesAndControlRegisters : Obligations.PredicatesAndControlRegisters := fun w =>
  ⟨plop_predicates w, pmovTov_result w, vote_ballot, vote_value, vote_predicates, role_next w, crr_next w, crw_next w,
    fun _ _ _ h g => pmovSel_predicates h g⟩

/-! Legal settings (R214, R215). -/

/-- Bits of FPC as written: RND is a mode, and FTZ stands above it. -/
theorem fpcWrite_legal {old : W32} (hlow : 1 ≤ old.toNat % 8) (hhigh : old.toNat % 8 ≤ 5) (x : Nat) :
    1 ≤ (fpcWrite old x).toNat % 8 ∧ (fpcWrite old x).toNat % 8 ≤ 5 ∧ (fpcWrite old x).toNat < 16 := by
  have hftz : boolNat (bitAt x 3) ≤ 1 := by unfold boolNat; split <;> omega
  unfold fpcWrite
  dsimp only
  rw [BitVec.toNat_ofNat]
  split
  next hr =>
    obtain ⟨h1, h5⟩ : 1 ≤ x % 8 ∧ x % 8 ≤ 5 := by simpa using hr
    omega
  next => omega

theorem writeControl_legal {t : Team} (h : legalSettings t) (n x : Nat) : legalSettings (t.writeControl n x) := by
  obtain ⟨hqnt, hqnt', htvb, htvb', hvec, hrnd, hrnd', hfpc, htsr⟩ := h
  unfold Team.writeControl
  dsimp only
  split
  · split
    next hq =>
      obtain ⟨h1, h4096⟩ : 1 ≤ x % 2 ^ 13 ∧ x % 2 ^ 13 ≤ 4096 := by simpa using hq
      have hto : (BitVec.ofNat 32 (x % 2 ^ 13)).toNat = x % 2 ^ 13 := by rw [BitVec.toNat_ofNat]; omega
      exact ⟨hto.symm ▸ h1, hto.symm ▸ h4096, htvb, htvb', hvec, hrnd, hrnd', hfpc, htsr⟩
    next => exact ⟨hqnt, hqnt', htvb, htvb', hvec, hrnd, hrnd', hfpc, htsr⟩
  · obtain ⟨h1, h5, h16⟩ := fpcWrite_legal hrnd hrnd' x
    exact ⟨hqnt, hqnt', htvb, htvb', hvec, h1, h5, h16, htsr⟩
  · have hto : (BitVec.ofNat 32 (x % 256)).toNat < 256 := by rw [BitVec.toNat_ofNat]; omega
    exact ⟨hqnt, hqnt', htvb, htvb', hvec, hrnd, hrnd', hfpc, hto⟩
  · have hto : (BitVec.ofNat 64 (x / 2 ^ 9 * 2 ^ 9 % 2 ^ 48)).toNat = x / 2 ^ 9 * 2 ^ 9 % 2 ^ 48 := by
      rw [BitVec.toNat_ofNat]; omega
    exact ⟨hqnt, hqnt', by rw [hto]; omega, by rw [hto]; omega, hvec, hrnd, hrnd', hfpc, htsr⟩
  · exact ⟨hqnt, hqnt', htvb, htvb', hvec, hrnd, hrnd', hfpc, htsr⟩
  · have hto : (BitVec.ofNat 32 (x % 2 ^ 14)).toNat < 2 ^ 14 := by rw [BitVec.toNat_ofNat]; omega
    exact ⟨hqnt, hqnt', htvb, htvb', hto, hrnd, hrnd', hfpc, htsr⟩
  · split <;> exact ⟨hqnt, hqnt', htvb, htvb', hvec, hrnd, hrnd', hfpc, htsr⟩
  · exact ⟨hqnt, hqnt', htvb, htvb', hvec, hrnd, hrnd', hfpc, htsr⟩

/-- No control register write touches the general registers. -/
theorem writeControl_regs (t : Team) (n x : Nat) :
    (t.writeControl n x).v = t.v ∧ (t.writeControl n x).s = t.s ∧ (t.writeControl n x).p = t.p := by
  unfold Team.writeControl
  dsimp only
  repeat' split
  all_goals exact ⟨rfl, rfl, rfl⟩

/-- The acting team with TVEC's bit of TVMASK set or cleared. -/
def tvecWritten (w : Ins) (t : Team) : Team :=
  { t with tvmask := if w.mb 53 then t.tvmask ||| BitVec.ofNat 32 (2 ^ w.m 52 49)
                     else t.tvmask &&& ~~~ BitVec.ofNat 32 (2 ^ w.m 52 49) }

theorem tvec_next (w : Ins) : TeamNext .tvec w (fun _ _ => True) fun s si => s.goneOn si w (tvecWritten w si.team) :=
  teamNext_of_body execTvec (fun _ => rfl) fun _ _ h => ⟨_, rfl, fun _ => State.finish_onTeam h w _⟩

theorem tvecWritten_legal {w : Ins} {t : Team} (hcls : w.m 52 49 ≤ 13) (h : legalSettings t) : legalSettings (tvecWritten w t) := by
  obtain ⟨hqnt, hqnt', htvb, htvb', hvec, hrest⟩ := h
  refine ⟨hqnt, hqnt', htvb, htvb', ?_, hrest⟩
  unfold tvecWritten
  dsimp only
  split
  · have hbit : 2 ^ w.m 52 49 < 2 ^ 14 := Nat.pow_lt_pow_right (by omega) (by omega)
    have hto : (BitVec.ofNat 32 (2 ^ w.m 52 49)).toNat = 2 ^ w.m 52 49 := by
      rw [BitVec.toNat_ofNat, Nat.mod_eq_of_lt (by omega)]
    rw [BitVec.toNat_or, hto]
    exact Nat.or_lt_two_pow hvec hbit
  · rw [BitVec.toNat_and]
    exact Nat.lt_of_le_of_lt Nat.and_le_left hvec

/-- The check on TVEC's class (05 R145). -/
theorem tvec_class {w : Ins} {sd : Side} {regs : Nat} (h : Op.check sd regs .tvec w = none) : w.m 52 49 ≤ 13 := by
  obtain ⟨-, -, hmods⟩ := Op.check_eq_none h
  simp only [Op.modsOk, Bool.and_eq_true, Op.modOk, decide_eq_true_eq] at hmods
  simp only [hmods]

/-- What an instruction that only writes the acting team's settings answers. -/
theorem goneOn_legal {s : State} {si : Site} {w : Ins} {r : Team} (hlegal : legalSettings r)
    (hregs : r.v = si.team.v ∧ r.s = si.team.s ∧ r.p = si.team.p) :
    ∃ u, (s.goneOn si w r).team? si.core si.slot = some u ∧ legalSettings u ∧ u.v = si.team.v ∧ u.s = si.team.s ∧
      u.p = si.team.p ∧ (s.goneOn si w r).mem = s.mem ∧
      ∀ core slot, teamKey core slot ≠ teamKey si.core si.slot → (s.goneOn si w r).team? core slot = s.team? core slot := by
  obtain ⟨hv, hs, hp⟩ := hregs
  have hplace : ((r.count si s).stepOver si.entry si.pos w.len.size) = _ := Team.placeOnly_stepOver ..
  refine ⟨_, State.team?_setTeam_self .., ?_, ?_, ?_, ?_, rfl, fun core slot hne => State.team?_setTeam_ne _ _ hne⟩
  all_goals rw [hplace]
  · exact hlegal
  · exact hv
  · exact hs
  · exact hp

/-- Settles O58: each write keeps its register's table, and no other part of the state than the acting team is written. -/
theorem controlRegistersStayLegal : Obligations.ControlRegistersStayLegal := by
  intro w s t si h hlegal i hi hwf hgoes hexec
  simp only [List.mem_cons, List.not_mem_nil, or_false] at hi
  rcases hi with rfl | rfl
  · have hnext := crw_next w s si hwf h (hgoes .crw rfl) trivial
    obtain rfl := Outcome.next.inj (hnext.symm.trans hexec)
    exact goneOn_legal (writeControl_legal hlegal _ _) (writeControl_regs ..)
  · have hnext := tvec_next w s si hwf h (hgoes .tvec rfl) trivial
    obtain rfl := Outcome.next.inj (hnext.symm.trans hexec)
    exact goneOn_legal (tvecWritten_legal (tvec_class (WellFormed.checked hwf (toOp_ofOp .tvec w))) hlegal) ⟨rfl, rfl, rfl⟩

end Sys2Proof.Machine
end

section
/-! PROOFS. Ends of splits, and waits (05 R127; 07 R191, R195, R206, R225, R226; 08 R245). -/

namespace Sys2Proof.Machine

open Sys2Proof Host Spec

/-! What a control thread's meaning asks of the wrapper. -/

theorem State.finishCtl_done_self {s : State} {si : CtlSite} (h : s.ctlSite? = some si) (w : Ins) :
    s.finishCtl si w.len.size (.done s) = s.ctlGoneOn si w si.ctl := by
  rw [State.ctlSite?_ctl h]
  rfl

theorem State.finishCtl_done_onCtl {s : State} {si : CtlSite} (h : s.ctlSite? = some si) (w : Ins) (f : Ctl → Ctl) :
    s.finishCtl si w.len.size (.done (s.onCtl si.core f)) = ctlOn s si w f := by
  simp only [State.finishCtl, State.onCtl, State.ctl_setCtl_self, State.setCtl_setCtl, ctlOn, State.ctlGoneOn,
    State.ctlSite?_ctl h]

theorem State.finishCtl_wait {s : State} {si : CtlSite} (h : s.ctlSite? = some si) (size : Nat) (m : CtlMode) :
    s.finishCtl si size (.wait s m false) = ctlWaits s si m := by
  unfold ctlWaits
  rw [State.ctlSite?_ctl h]
  rfl

/-! SYNCR (R195, R225). -/

theorem syncr_next {w : Ins} {ok : State → Site → Prop} {next : State → Site → Team}
    (hnext : ∀ s si, ok s si → (match si.split.join with
      | none => (si.team.count si s).clauseDone si.entry si.pos.next si.pos.hdr.yield
      | some q =>
        if si.exec w == si.split.mask then ((si.team.count si s).arriveAt si.entry q).clauseEnds si.entry si.pos.hdr.yield
        else Team.clauseDone { si.team.count si s with
          joins := (si.team.count si s).joins.alter q fun j => { j with mask := j.mask ||| si.exec w }
          splits := (si.team.count si s).splits.alter si.entry fun p => { p with mask := p.mask &&& ~~~ si.exec w } }
          si.entry si.pos.next si.pos.hdr.yield) = next s si) :
    TeamNext .syncr w ok fun s si => s.setTeam si.core si.slot (next s si) :=
  teamNext_of_body execSyncr (fun _ => rfl) fun s si h =>
    ⟨_, rfl, fun hok => (State.onTeam_site h _).trans (congrArg _ (hnext s si hok))⟩

/-! Waits. -/

theorem winfOver_of_zero {n : Nat} (h : n = 0) : winfOver n = true := beq_iff_eq.mpr h

theorem winfOver_of_ne {n : Nat} (h : n ≠ 0) : winfOver n = false := beq_false_of_ne h

theorem synchronisingAndWaiting : Spec.SynchronisingAndWaiting := by
  intro w
  refine ⟨?syncr, fun q => ?all, fun q => ?some, ?yield, ?flags, ?noflags, ?sleep, ?winf, ?winfOut, ?kwinf, ?kwinfOut,
    ?winw, ?winwOut, ?kwinw, ?kwinwOut⟩
  case syncr => exact syncr_next fun s si hjoin => by simp only [hjoin]
  case all => exact syncr_next fun s si ⟨hjoin, hall⟩ => by simp only [hjoin, hall, beq_self_eq_true, if_true]
  case some => exact syncr_next fun s si ⟨hjoin, hsome⟩ => by simp only [hjoin, beq_iff_eq, hsome, if_false]
  case yield => exact teamNext_of_body execYield (fun _ => rfl) fun s si h => ⟨_, rfl, fun _ => State.finish_onTeam h w _⟩
  case flags =>
    refine teamNext_of_body execWaitw (fun _ => rfl) fun s si h => ⟨_, rfl, fun hzero => ?_⟩
    rw [if_pos hzero]
    exact State.finish_done h w
  case noflags =>
    refine teamNext_of_body execWaitw (fun _ => rfl) fun s si h => ⟨_, rfl, fun hzero => ?_⟩
    rw [if_neg (Bool.eq_false_iff.mp hzero)]
    exact State.finish_block_at h _ _
  case sleep => exact teamNext_of_body execSleep (fun _ => rfl) fun s si h => ⟨_, rfl, fun _ => State.finish_block_behind h w _⟩
  case winf =>
    refine teamNext_of_body execWinf (fun _ => rfl) fun s si h => ⟨_, issueBoth_team _ _ h, fun hzero => ?_⟩
    rw [if_pos (winfOver_of_zero hzero)]
    exact State.finish_done h w
  case winfOut =>
    refine teamNext_of_body execWinf (fun _ => rfl) fun s si h => ⟨_, issueBoth_team _ _ h, fun hne => ?_⟩
    rw [if_neg (Bool.eq_false_iff.mp (winfOver_of_ne hne))]
    split
    · exact State.finish_onTeam h w _
    · exact State.finish_block_at h _ _
  case kwinf =>
    refine ctlNext_of_body execWinf (fun _ => rfl) fun s si h => ⟨_, issueBoth_ctl _ _ h, fun hzero => ?_⟩
    rw [if_pos (winfOver_of_zero hzero)]
    exact State.finishCtl_done_self h w
  case kwinfOut =>
    refine ctlNext_of_body execWinf (fun _ => rfl) fun s si h => ⟨_, issueBoth_ctl _ _ h, fun hne => ?_⟩
    rw [if_neg (Bool.eq_false_iff.mp (winfOver_of_ne hne))]
    split
    · exact State.finishCtl_done_onCtl h w _
    · exact State.finishCtl_wait h _ _
  case winw =>
    refine teamNext_of_body execWinw (fun _ => rfl) fun s si h => ⟨_, issueBoth_team _ _ h, fun hover => ?_⟩
    rw [if_pos hover]
    exact State.finish_onTeam h w _
  case winwOut =>
    refine teamNext_of_body execWinw (fun _ => rfl) fun s si h => ⟨_, issueBoth_team _ _ h, fun hover => ?_⟩
    rw [if_neg (Bool.eq_false_iff.mp hover)]
    exact State.finish_block_at h _ _
  case kwinw =>
    refine ctlNext_of_body execWinw (fun _ => rfl) fun s si h => ⟨_, issueBoth_ctl _ _ h, fun hover => ?_⟩
    rw [if_pos hover]
    exact State.finishCtl_done_onCtl h w _
  case kwinwOut =>
    refine ctlNext_of_body execWinw (fun _ => rfl) fun s si h => ⟨_, issueBoth_ctl _ _ h, fun hover => ?_⟩
    rw [if_neg (Bool.eq_false_iff.mp hover)]
    exact State.finishCtl_wait h _ _

/-! EXIT (R191, R206). -/

theorem Team.placeOnly_joins (t : Team) (l : Tbl Split) (j : Tbl Join) : t.PlaceOnly { t with splits := l, joins := j } := rfl

theorem Team.placeOnly_arriveAt (t : Team) (e q : Nat) : t.PlaceOnly (t.arriveAt e q) := by
  unfold Team.arriveAt
  split
  · dsimp only
    split
    · exact (t.placeOnly_joins _ _).trans (Team.placeOnly_pass _ e)
    · exact t.placeOnly_joins _ _
  · exact .refl t

theorem Team.placeOnly_arrivals (n : Nat) (t : Team) (e : Nat) : t.PlaceOnly (Team.arrivals n t e) := by
  induction n generalizing t with
  | zero => exact .refl t
  | succ n ih =>
    rw [Team.arrivals]
    repeat' split
    any_goals exact .refl t
    · exact (t.placeOnly_splits _).trans (Team.placeOnly_pass _ e)
    · exact (t.placeOnly_arriveAt e _).trans (ih _)

theorem Team.placeOnly_arriveEmpty (t : Team) (e : Nat) : t.PlaceOnly (t.arriveEmpty e) := by
  unfold Team.arriveEmpty
  repeat' split
  · exact t.placeOnly_arrivals 40 e
  · exact .refl t
  · exact .refl t

/-- A change of one barrier reaches the gang's table alone. -/
theorem State.updBar_eq (s : State) (g b : Nat) (f : Barrier → Barrier) :
    s.updBar g b f = { s with gangs := (s.updBar g b f).gangs } := by
  unfold State.updBar
  split <;> rfl

theorem State.leaveBars_eq (s : State) (t : Team) : s.leaveBars t = { s with gangs := (s.leaveBars t).gangs } := by
  unfold State.leaveBars
  generalize List.range 16 = bs
  induction bs generalizing s with
  | nil => rfl
  | cons b bs ih =>
    rw [List.foldl_cons, ih]
    split
    · rfl
    · rw [State.updBar_eq]

theorem State.leaveBars_team? (s : State) (t : Team) (core slot : Nat) :
    (s.leaveBars t).team? core slot = s.team? core slot := by
  rw [State.leaveBars_eq]
  rfl

theorem State.leaveBars_mem (s : State) (t : Team) : (s.leaveBars t).mem = s.mem := by rw [State.leaveBars_eq]

theorem State.teamExits_team? (s : State) (core slot pc : Nat) (t : Team) : (s.teamExits core slot pc t).team? core slot =
    some { t with leaving := some pc, rays := 0, verdicts := [] } := State.team?_setTeam_self ..

/-- Arrivals that an EXIT completes empty arrival masks of the team; the rest of it stays, and so does memory. -/
theorem State.exitBars_team? (bs : List Nat) {s : State} {core slot : Nat} {u : Team} (t : Team)
    (h : s.team? core slot = some u) :
    (∃ l, (s.exitBars core slot t bs).team? core slot = some { u with arrive := l }) ∧
      (s.exitBars core slot t bs).mem = s.mem := by
  induction bs generalizing s u with
  | nil => exact ⟨⟨_, h⟩, rfl⟩
  | cons b bs ih =>
    have hcleared : ((s.updTeam core slot fun t => { t with arrive := t.arrive.erase b }).barArrive t b).team? core slot =
        some { u with arrive := u.arrive.erase b } := by
      rw [State.barArrive, State.updBar_eq, State.updTeam_of_team h]
      exact State.team?_setTeam_self ..
    obtain ⟨⟨l, hl⟩, hmem⟩ := ih hcleared
    refine ⟨⟨l, hl⟩, hmem.trans ?_⟩
    rw [State.barArrive, State.updBar_eq, State.updTeam_of_team h]
    rfl

/-- The acting team without the threads that exit, behind its clause. -/
def exited (s : State) (si : Site) (e : TMask) : Team :=
  ((((si.team.removeThreads e).count si s).clauseDone si.entry si.pos.next si.pos.hdr.yield).arriveEmpty si.entry)

theorem exited_frame (s : State) (si : Site) (e : TMask) :
    (exited s si e).alive = si.team.alive &&& ~~~ e ∧ (exited s si e).leaving = si.team.leaving ∧
      (exited s si e).v = si.team.v ∧ (exited s si e).s = si.team.s ∧ (exited s si e).p = si.team.p := by
  have h : ((si.team.removeThreads e).count si s).PlaceOnly (exited s si e) :=
    (Team.placeOnly_clauseDone ..).trans (Team.placeOnly_arriveEmpty ..)
  rw [h]
  exact ⟨rfl, rfl, rfl, rfl, rfl⟩

/-- EXIT that completes no cohort arrival: the last thread takes the team's barriers along, others complete arrivals at them. -/
theorem exitWith_none (s : State) (si : Site) (e : TMask) :
    exitWith s si e none = if (exited s si e).alive == 0
      then (s.teamExits si.core si.slot si.pc (exited s si e)).leaveBars (exited s si e)
      else (s.setTeam si.core si.slot (exited s si e)).exitBars si.core si.slot (exited s si e) (exited s si e).fullBars := by
  have hexit : exitWith s si e none =
      (let s' := if (exited s si e).alive == 0 then s.teamExits si.core si.slot si.pc (exited s si e)
        else s.setTeam si.core si.slot (exited s si e)
      if (exited s si e).alive == 0 then s'.leaveBars (exited s si e)
        else s'.exitBars si.core si.slot (exited s si e) (exited s si e).fullBars) := rfl
  rw [hexit]
  by_cases hlast : ((exited s si e).alive == 0) = true
  · simp only [hlast, if_true]
  · simp only [hlast, if_false, Bool.false_eq_true]

theorem exec_exit {s : State} {si : Site} {w : Ins} (h : s.site? = some si) (g : si.goes s .exit w = true)
    (hcoh : si.team.cohMask = 0 ∨ si.team.alive &&& ~~~ si.exec w = 0) :
    exec (.exit w) s = .next (exitWith s si (si.exec w) none) := by
  show execExit w s = _
  refine (issueTeam_goes _ h g).trans (congrArg _ ?_)
  have hnone : ((si.team.removeThreads (si.exec w)).alive != 0 && (si.team.removeThreads (si.exec w)).cohMask != 0) = false := by
    rcases hcoh with hcoh | hcoh <;> simp [Team.removeThreads, hcoh]
  simp only [hnone, Bool.false_and, Bool.false_eq_true, if_false]
  rfl

theorem exitRemovesThreads : Spec.ExitRemovesThreads := by
  intro w s si _ h g hcoh
  obtain ⟨halive, hleaving, hv, hs, hp⟩ := exited_frame s si (si.exec w)
  rw [exec_exit h g hcoh, exitWith_none]
  split
  next hlast =>
    refine ⟨_, _, rfl, (State.leaveBars_team? ..).trans (State.teamExits_team? ..), halive, fun _ => rfl, fun hne => ?_, hv, hs, hp,
      State.leaveBars_mem ..⟩
    exact absurd (beq_iff_eq.mp hlast) hne
  next hleft =>
    obtain ⟨⟨l, hl⟩, hmem⟩ := State.exitBars_team? (exited s si (si.exec w)).fullBars (exited s si (si.exec w))
      (State.team?_setTeam_self s si.core si.slot (exited s si (si.exec w)))
    refine ⟨_, _, rfl, hl, halive, fun hzero => ?_, fun _ => hleaving, hv, hs, hp, hmem⟩
    exact absurd (beq_iff_eq.mpr hzero) hleft

/-- Settles O13: each asks the wrapper for its turn's end; EXIT's arrivals and Leaves of barriers reach no register. -/
theorem synchronisingAndExit : Obligations.SynchronisingAndExit := ⟨synchronisingAndWaiting, exitRemovesThreads⟩

end Sys2Proof.Machine
end

section
/-! PROOFS. Named barriers (07 R202 to R206, R230). -/

namespace Sys2Proof.Machine

open Sys2Proof Host Spec

/-! Phases (R204, R205). -/

/-- The phase is complete: the barrier counts someone, and all have arrived. -/
def Barrier.complete (b : Barrier) : Bool := !b.idle && b.arrived == b.members && b.engineIn

/-- The barrier in its next phase. -/
def Barrier.nextPhase (b : Barrier) : Barrier :=
  { b with phase := b.phase + 1, arrived := 0, bytes := if b.byteInit == 0 then 0 else b.byteInit + min b.bytes 0 }

theorem Barrier.settle_succ (n : Nat) (b : Barrier) :
    Barrier.settle (n + 1) b = if b.complete then Barrier.settle n b.nextPhase else b := rfl

theorem Barrier.complete_iff {b : Barrier} : b.complete = true ↔
    (b.members ≠ 0 ∨ b.byteInit ≠ 0) ∧ b.arrived = b.members ∧ (b.byteInit = 0 ∨ b.bytes ≤ 0) := by
  simp [Barrier.complete, Barrier.idle, Barrier.engineIn, and_assoc, Classical.or_iff_not_imp_left]

/-- How many phases can end one after the other: surplus bytes arrive for the next ones. -/
def Barrier.rounds (b : Barrier) : Nat :=
  if b.complete then (if b.byteInit = 0 then 1 else (-b.bytes).toNat + 1) else 0

theorem Barrier.rounds_nextPhase {b : Barrier} (h : b.complete = true) : b.nextPhase.rounds < b.rounds := by
  obtain ⟨hcounts, harrived, hengine⟩ := Barrier.complete_iff.mp h
  unfold Barrier.rounds
  rw [if_pos h]
  by_cases hinit : b.byteInit = 0
  · have hnext : b.nextPhase.complete = false := by
      rw [Bool.eq_false_iff, ne_eq, Barrier.complete_iff]
      rintro ⟨-, hzero, -⟩
      exact (hcounts.resolve_right (not_not_intro hinit)) hzero.symm
    rw [if_neg (Bool.eq_false_iff.mp hnext), if_pos hinit]
    exact Nat.zero_lt_one
  · have hbytes : b.nextPhase.bytes = b.byteInit + min b.bytes 0 := if_neg (by simpa using hinit)
    have hinit' : ¬ b.nextPhase.byteInit = 0 := hinit
    rw [if_neg hinit, if_neg hinit']
    split
    next hnext =>
      obtain ⟨-, -, hengine'⟩ := Barrier.complete_iff.mp hnext
      have hdue := hengine.resolve_left hinit
      have hdue' := hengine'.resolve_left hinit'
      omega
    next => exact Nat.succ_pos _

theorem Barrier.settle_settles {n : Nat} {b : Barrier} (h : b.rounds ≤ n) : (Barrier.settle n b).complete = false := by
  induction n generalizing b with
  | zero =>
    rw [Barrier.settle, Bool.eq_false_iff]
    intro hcomplete
    have hnext := Barrier.rounds_nextPhase hcomplete
    omega
  | succ n ih =>
    rw [Barrier.settle_succ]
    split
    next hcomplete => exact ih (by have := Barrier.rounds_nextPhase hcomplete; omega)
    next hcomplete => exact Bool.eq_false_iff.mpr hcomplete

theorem Barrier.settled_complete (b : Barrier) : b.settled.complete = false := by
  refine Barrier.settle_settles ?_
  unfold Barrier.rounds
  repeat' split
  all_goals omega

theorem Barrier.settle_counts (n : Nat) (b : Barrier) :
    (Barrier.settle n b).members = b.members ∧ (Barrier.settle n b).byteInit = b.byteInit := by
  induction n generalizing b with
  | zero => exact ⟨rfl, rfl⟩
  | succ n ih =>
    rw [Barrier.settle_succ]
    split
    · exact ih b.nextPhase
    · exact ⟨rfl, rfl⟩

/-- A phase that ends leaves no arrivals. -/
theorem Barrier.settle_arrived (n : Nat) (b : Barrier) : Barrier.settle n b = b ∨ (Barrier.settle n b).arrived = 0 := by
  induction n generalizing b with
  | zero => exact .inl rfl
  | succ n ih =>
    rw [Barrier.settle_succ]
    split
    · refine .inr ((ih b.nextPhase).elim (fun h => ?_) id)
      rw [h]
      rfl
    · exact .inl rfl

theorem barrierSettles : Spec.BarrierSettles := by
  intro b
  obtain ⟨hmembers, hinit⟩ := Barrier.settle_counts (b.bytes.natAbs + 2) b
  refine ⟨?_, hmembers, hinit, fun _ => Barrier.settle_arrived _ b⟩
  have h := Barrier.settled_complete b
  unfold Barrier.complete at h
  rw [← Bool.not_eq_false', Bool.not_or, Bool.not_or, Bool.not_not, bne, Bool.not_not]
  exact h

/-! What the instructions do to the gang's barrier (R230). -/

theorem State.updBar_team? (s : State) (g b : Nat) (f : Barrier → Barrier) (core slot : Nat) :
    (s.updBar g b f).team? core slot = s.team? core slot := by
  rw [State.updBar_eq]
  rfl

theorem State.updBar_of_gang {s : State} {n b : Nat} {g : Gang} (h : s.gang? n = some g) (f : Barrier → Barrier) :
    s.updBar n b f = s.setGang n (g.setBar b (barrierAfter s b (f (g.bar b)))) := by
  simp only [State.updBar, h, barrierAfter]

@[simp] theorem Gang.bar_setBar_self (g : Gang) (n : Nat) (b : Barrier) : (g.setBar n b).bar n = b := Tbl.get_set_self ..

@[simp] theorem Gang.setBar_setBar (g : Gang) (n : Nat) (b c : Barrier) : (g.setBar n b).setBar n c = g.setBar n c := by
  simp only [Gang.setBar, Tbl.set_set]

@[simp] theorem State.setGang_setGang (s : State) (n : Nat) (g g' : Gang) : (s.setGang n g).setGang n g' = s.setGang n g' := by
  simp only [State.setGang, Tbl.set_set]

theorem State.sync_team? (s : State) (c core slot : Nat) : (s.sync c).team? core slot = s.team? core slot := rfl

/-- Synchronising with the order leaves what operands read. -/
theorem rd32_sync (s : State) (core : Nat) (t : Team) (tid : Nat) (x : Opd) :
    rd32 (s.sync core) core t tid x = rd32 s core t tid x := by
  have hclk : ((s.sync core).coreOf core).clk = (s.coreOf core).clk := by
    rw [State.sync, State.coreOf_setCore_self]
    rfl
  unfold rd32 readSpecial
  rw [hclk]
  rfl

theorem barinit_next (w : Ins) : TeamNext .barinit w
    (fun s si => (barOf w s si).arrived = 0 ∧ (barOf w s si).bytes = (barOf w s si).byteInit ∧
      s.barWaiters si.team.gang (w.m 52 49) = false ∧ rd32 s si.core si.team 0 w.b < 2 ^ 24)
    fun s si => (s.updBar si.team.gang (w.m 52 49) fun b => { b with
      members := BitVec.ofNat 64 (rd64 s si.core si.team 0 w.a), byteInit := rd32 s si.core si.team 0 w.b
      bytes := rd32 s si.core si.team 0 w.b, arrived := 0 }).goneOn si w si.team := by
  refine teamNext_of_body execBarinit (fun _ => rfl) fun s si h => ⟨_, rfl, ?_⟩
  rintro ⟨harrived, hbytes, hwaiters, hcount⟩
  unfold barOf at harrived hbytes
  have hcount' : ¬ 2 ^ 24 ≤ s.uni si w.b := Nat.not_le.mpr hcount
  simp only [harrived, hbytes, hwaiters, hcount', bne_self_eq_false, Bool.or_false, Bool.false_eq_true, if_false]
  exact State.finish_done_of_team ((State.updBar_team? ..).trans (State.site?_team h)) s w

theorem barwait_passed (w : Ins) : TeamNext .barwait w
    (fun s si => (barOf w s si).idle = false ∧ phasePassed (barOf w s si).phase (rd32 s si.core si.team 0 w.a) = true)
    fun s si => (s.sync si.core).goneOn si w si.team := by
  refine teamNext_of_body execBarwait (fun _ => rfl) fun s si h => ⟨_, rfl, ?_⟩
  rintro ⟨hidle, hpassed⟩
  have hpassed' : phasePassed (s.bar si.team (w.m 52 49)).phase (s.uni si w.a) = true := hpassed
  unfold barOf at hidle
  simp only [hidle, hpassed', Bool.false_eq_true, if_false, if_true]
  exact State.finish_done_of_team ((State.sync_team? ..).trans (State.site?_team h)) s w

theorem barwait_waits (w : Ins) : TeamNext .barwait w
    (fun s si => (barOf w s si).idle = false ∧ phasePassed (barOf w s si).phase (rd32 s si.core si.team 0 w.a) = false)
    fun s si => blockedAt s si (.barrier (w.m 52 49) (rd32 s si.core si.team 0 w.a)) := by
  refine teamNext_of_body execBarwait (fun _ => rfl) fun s si h => ⟨_, rfl, ?_⟩
  rintro ⟨hidle, hpassed⟩
  have hpassed' : phasePassed (s.bar si.team (w.m 52 49)).phase (s.uni si w.a) = false := hpassed
  unfold barOf at hidle
  simp only [hidle, hpassed', Bool.false_eq_true, if_false]
  exact State.finish_block_at h _ _

theorem bartest_phase {w : Ins} (hphase : w.mb 53 = true) : TeamNext .bartest w (fun s si => (barOf w s si).idle = false)
    fun s si => (s.sync si.core).goneOn si w (si.team.writeD w false [(0, (barOf w s si).phase.toNat)]) := by
  refine teamNext_of_body execBartest (fun _ => rfl) fun s si h => ⟨_, rfl, fun hidle => ?_⟩
  unfold barOf at hidle
  simp only [hidle, hphase, Bool.false_eq_true, if_false, if_true]
  exact State.finish_onTeam_of_team ((State.sync_team? ..).trans (State.site?_team h)) s w _

theorem bartest_passed {s : State} {si : Site} {w : Ins} {d : Nat} (h : s.site? = some si) (g : si.goes s .bartest w = true)
    (hphase : w.mb 53 = false) (hd : w.d = .p d) (hidle : (barOf w s si).idle = false) :
    let q := phasePassed (barOf w s si).phase (rd32 s si.core si.team 0 w.a)
    ∃ u : Team, exec (.bartest w) s = .next ((s.sync si.core).goneOn si w u) ∧ u = { si.team with p := u.p } ∧
      si.team.Predicates u w (si.exec w) [(d, fun _ => q), (d + 1, fun _ => !q)] := by
  intro q
  obtain ⟨-, -, -, hframe⟩ := Team.writePair_split si.team w d ((threadsOf si.team.threads (si.exec w)).map fun tid => (tid, q))
  refine ⟨_, show execBartest w s = _ from (issueTeam_goes _ h g).trans (congrArg _ ?_), hframe, Team.writePair_result ..⟩
  unfold barOf at hidle
  simp only [hidle, hphase, hd, State.uni, rd32_sync, Bool.false_eq_true, if_false]
  exact State.finish_onTeam_of_team ((State.sync_team? ..).trans (State.site?_team h)) s w _

/-- The team with further threads arrived at a barrier: a mask that is complete is cleared. -/
def withArrivals (t : Team) (n : Nat) (e : TMask) : Team :=
  { t with arrive := if (t.arrive.get 0 n ||| e) &&& t.alive = t.alive then t.arrive.erase n
                     else t.arrive.set n (t.arrive.get 0 n ||| e) }

/-- The barrier behind them: a complete mask sets the team's bit. -/
def arrivedBy (s : State) (t : Team) (n : Nat) (e : TMask) (b : Barrier) : Barrier :=
  if (t.arrive.get 0 n ||| e) &&& t.alive = t.alive then barrierAfter s n { b with arrived := b.arrived ||| teamBit t } else b

theorem State.setGang_setTeam_setGang (s : State) (n core slot : Nat) (g g' : Gang) (t : Team) :
    ((s.setGang n g).setTeam core slot t).setGang n g' = (s.setGang n g').setTeam core slot t :=
  congrArg (fun x => State.setTeam x core slot t) (State.setGang_setGang s n g g')

theorem State.countArrive_of_bar {s : State} {si : Site} (hteam : s.team? si.core si.slot = some si.team) (g : Gang) (n : Nat)
    (b : Barrier) (e : TMask) : (s.setGang si.team.gang (g.setBar n b)).countArrive si n e =
      (s.setGang si.team.gang (g.setBar n (arrivedBy s si.team n e b))).setTeam si.core si.slot (withArrivals si.team n e) := by
  have hteam' : (s.setGang si.team.gang (g.setBar n b)).team? si.core si.slot = some si.team := hteam
  have hgang (u : Team) : ((s.setGang si.team.gang (g.setBar n b)).setTeam si.core si.slot u).gang? si.team.gang =
      some (g.setBar n b) := State.gang?_setGang_self ..
  unfold State.countArrive State.onTeam arrivedBy withArrivals
  dsimp only
  by_cases hall : (si.team.arrive.get 0 n ||| e) &&& si.team.alive = si.team.alive
  · rw [if_pos (beq_iff_eq.mpr hall), if_pos hall, if_pos hall, State.updTeam_of_team hteam', State.barArrive,
      State.updBar_of_gang (hgang _), State.setGang_setTeam_setGang,
      Gang.bar_setBar_self, Gang.setBar_setBar]
    rfl
  · rw [if_neg (fun h => hall (beq_iff_eq.mp h)), if_neg hall, if_neg hall, State.updTeam_of_team hteam']

/-- BARARR: the count is added to BYTES, and then the threads arrive. -/
theorem exec_bararr {s : State} {si : Site} {w : Ins} {g : Gang} (h : s.site? = some si) (hgoes : si.goes s .bararr w = true)
    (hgang : s.gang? si.team.gang = some g) (hthreads : si.team.arrive.get 0 (w.m 52 49) &&& si.exec w = 0)
    (hteam : (g.bar (w.m 52 49)).arrived &&& teamBit si.team = 0) (hmember : (g.bar (w.m 52 49)).members &&& teamBit si.team ≠ 0)
    (hcount : rd32 s si.core si.team 0 w.b < 2 ^ 24) :
    let n := w.m 52 49
    let b₁ := barrierAfter s n { g.bar n with bytes := (g.bar n).bytes + rd32 s si.core si.team 0 w.b }
    exec (.bararr w) s = .next ((s.setGang si.team.gang (g.setBar n (arrivedBy s si.team n (si.exec w) b₁))).goneOn si w
      ((withArrivals si.team n (si.exec w)).writeD w false [(0, b₁.phase.toNat)])) := by
  intro n b₁
  have hbar : s.bar si.team n = g.bar n := by rw [State.bar, hgang]
  have hadded : (s.setGang si.team.gang (g.setBar n b₁)).bar si.team n = b₁ := by
    rw [State.bar, State.gang?_setGang_self]
    exact Gang.bar_setBar_self ..
  have hdone : s.updBar si.team.gang n (fun b => { b with bytes := b.bytes + s.uni si w.b }) =
      s.setGang si.team.gang (g.setBar n b₁) := State.updBar_of_gang hgang _
  have harrived : ((s.setGang si.team.gang (g.setBar n b₁)).countArrive si n (si.exec w)).team? si.core si.slot =
      some (withArrivals si.team n (si.exec w)) := by
    rw [State.countArrive_of_bar (State.site?_team h)]
    exact State.team?_setTeam_self ..
  have hcount' : ¬ 2 ^ 24 ≤ s.uni si w.b := Nat.not_le.mpr hcount
  have hthreads' : si.team.arrive.get 0 n &&& si.exec w = 0 := hthreads
  have hteam' : (g.bar n).arrived &&& teamBit si.team = 0 := hteam
  have hmember' : ((g.bar n).members &&& teamBit si.team == 0) = false := beq_false_of_ne hmember
  show execBararr w s = _
  refine (issueTeam_goes _ h hgoes).trans (congrArg _ ?_)
  simp only [show w.m 52 49 = n from rfl, hbar, hthreads', hteam', hmember', hcount', hdone, hadded, bne_self_eq_false,
    Bool.or_self, Bool.false_eq_true, if_false]
  rw [State.finish_onTeam_of_team harrived, State.countArrive_of_bar (State.site?_team h)]
  exact State.setTeam_setTeam ..

theorem namedBarrierInstructions : Spec.NamedBarriers := fun w =>
  ⟨barinit_next w, barwait_passed w, barwait_waits w, bartest_phase,
    fun _ _ _ _ h g hphase hd hidle => bartest_passed h g hphase hd hidle,
    fun _ _ _ _ h hgoes hgang hthreads hteam hmember hcount => exec_bararr h hgoes hgang hthreads hteam hmember hcount⟩

/-- Settles O14: a change of a barrier is fitted and settled, and a phase that ends brings the next one nearer to incomplete. -/
theorem namedBarriers : Obligations.NamedBarriers := ⟨namedBarrierInstructions, barrierSettles⟩

end Sys2Proof.Machine
end

section
/-! PROOFS. Exceptions, and the trap instructions (07 R215 to R222, R227). -/

namespace Sys2Proof.Machine

open Sys2Proof Host Spec

/-! TCAUSE (R215). -/

theorem bitAt_toNat {n : Nat} (x : BitVec n) (k : Nat) : bitAt x.toNat k = x.getLsbD k := by
  rw [BitVec.getLsbD, Nat.testBit_eq_decide_div_mod_eq, bitAt, beq_eq_decide]

theorem boolNat_le_one (b : Bool) : boolNat b ≤ 1 := by cases b <;> decide

/-- The fields of TCAUSE do not overlap. -/
theorem causeWord_toNat (inh after : Bool) (code split cls : Nat) : (causeWord inh after code split cls).toNat =
    2 ^ 31 * boolNat inh + 2 ^ 30 * boolNat after + 2 ^ 16 * (code % 256) + 2 ^ 8 * (split % 16) + cls % 16 := by
  have hinh := boolNat_le_one inh
  have hafter := boolNat_le_one after
  rw [causeWord, BitVec.toNat_ofNat]
  omega

theorem causeWord_inh (inh after : Bool) (code split cls : Nat) :
    (causeWord inh after code split cls).getLsbD 31 = inh := by
  have hinh := boolNat_le_one inh
  have hafter := boolNat_le_one after
  rw [← bitAt_toNat, causeWord_toNat, bitAt_eq_iff]
  omega

theorem causeWord_fields (inh after : Bool) (code split cls : Nat) :
    let c := (causeWord inh after code split cls).toNat
    bits c 30 30 = boolNat after ∧ bits c 23 16 = code % 256 ∧ bits c 11 8 = split % 16 ∧ bits c 3 0 = cls % 16 := by
  have hinh := boolNat_le_one inh
  have hafter := boolNat_le_one after
  dsimp only
  rw [causeWord_toNat]
  simp only [bits]
  refine ⟨?_, ?_, ?_, ?_⟩ <;> omega

/-! Taking an exception (R216, R217). -/

theorem State.raise_handled {s : State} {t : Team} {x : Trap} (a : TrapAt) (hmask : t.tvmask.getLsbD x.cls = true)
    (hinh : t.inh = false) : s.raise t x a = s.setTeam a.core a.slot (t.enterHandler x a) := by
  simp only [State.raise, bitAt_toNat, hmask, hinh, Bool.not_false, Bool.and_self, if_true]

/-- Settles O18: a handled trap writes the trap registers and the split's place, and nothing else of the team. -/
theorem handlerEntry : Obligations.HandlerEntry := by
  intro s t x a p hmask hinh hcls hp
  obtain ⟨hafter, hcode, hsplit, hclass⟩ := causeWord_fields true x.after x.code a.entry x.cls
  rw [Nat.mod_eq_of_lt (a := x.cls) (by omega)] at hclass
  exact ⟨t.enterHandler x a, State.raise_handled a hmask hinh, rfl, rfl, causeWord_inh .., hafter, hcode, hsplit, hclass,
    Tbl.get?_alter_self hp _, fun e he => Tbl.get?_alter_ne _ _ he, rfl, rfl, rfl, rfl, rfl, rfl, rfl, rfl, rfl, rfl⟩

theorem not_handled {t : Team} {x : Trap} (h : t.tvmask.getLsbD x.cls = false ∨ t.inh = true) :
    (bitAt t.tvmask.toNat x.cls && !t.inh) = false := by
  rw [bitAt_toNat]
  rcases h with h | h <;> simp [h]

theorem State.raise_debugStop {s : State} {t : Team} {x : Trap} (a : TrapAt) (hcls : x.cls = clsBKPT)
    (hmask : t.tvmask.getLsbD x.cls = false) : s.raise t x a = s.setTeam a.core a.slot (t.enterDebugStop a) := by
  have hbit : bitAt t.tvmask.toNat x.cls = false := (bitAt_toNat ..).trans hmask
  rw [State.raise, if_neg (Bool.eq_false_iff.mp (not_handled (.inl hmask))), hbit, hcls]
  rfl

theorem State.raise_contextFault {s : State} {t : Team} {x : Trap} (a : TrapAt)
    (h : t.tvmask.getLsbD x.cls = false ∨ t.inh = true) (hstop : ¬(x.cls = clsBKPT ∧ t.tvmask.getLsbD x.cls = false)) :
    s.raise t x a = s.contextFault a.core a.slot (t.enterContextFault x a) := by
  have hstop' : (x.cls == clsBKPT && !bitAt t.tvmask.toNat x.cls) = false := by
    rw [bitAt_toNat]
    simpa using hstop
  rw [State.raise, if_neg (Bool.eq_false_iff.mp (not_handled h)), if_neg (Bool.eq_false_iff.mp hstop')]

theorem State.teamCx_of_gang {s : State} {t : Team} {g : Gang} (h : s.gang? t.gang = some g) :
    s.teamCx t = (s.launch? g.launch).map (·.cx) := by
  simp only [State.teamCx, State.launchOf, h]

/-- The state in which a gang is stopped and its team written. -/
def State.faultStopped (s : State) (core slot : Nat) (t : Team) (g : Gang) : State :=
  (s.setTeam core slot t).setGang t.gang { g with faultStop := true }

theorem State.faultStopped_gang? (s : State) (core slot : Nat) (t : Team) (g : Gang) :
    (s.faultStopped core slot t g).gang? t.gang = some { g with faultStop := true } := State.gang?_setGang_self ..

/-- Context fault handling stops the gang, and Renweaz is told where the gang has a launch. -/
theorem State.contextFault_of_gang {s : State} {t : Team} {g : Gang} (core slot : Nat) (h : s.gang? t.gang = some g) :
    s.contextFault core slot t = match s.teamCx t with
      | some cx => (s.faultStopped core slot t g).postNotice (cx.vd + 1) noticeTrap
          [core, slot, t.tcause.toNat, t.tpc.toNat, t.taddr.toNat]
      | none => s.faultStopped core slot t g := by
  have hgang : (s.setTeam core slot t).gang? t.gang = some g := h
  have hcx : (s.faultStopped core slot t g).teamCx t = s.teamCx t := by
    rw [State.teamCx_of_gang h, State.teamCx_of_gang (State.faultStopped_gang? ..)]
    rfl
  rw [← hcx]
  unfold State.contextFault
  simp only [hgang]
  rfl

/-- What context fault handling leaves: the team, its gang stopped, memory, and one notice more. -/
theorem State.contextFault_leaves {s : State} {t : Team} {g : Gang} (core slot : Nat) (h : s.gang? t.gang = some g) :
    (s.contextFault core slot t).team? core slot = some t ∧
      (s.contextFault core slot t).gang? t.gang = some { g with faultStop := true } ∧
      (s.contextFault core slot t).mem = s.mem ∧
      ∀ cx, s.teamCx t = some cx → (s.contextFault core slot t).notices.get [] (cx.vd + 1) = s.notices.get [] (cx.vd + 1) ++
        [{ kind := noticeTrap, words := [core, slot, t.tcause.toNat, t.tpc.toNat, t.taddr.toNat] }] := by
  have hteam : (s.faultStopped core slot t g).team? core slot = some t := State.team?_setTeam_self ..
  have hgang := State.faultStopped_gang? s core slot t g
  rw [State.contextFault_of_gang core slot h]
  cases s.teamCx t with
  | none => exact ⟨hteam, hgang, rfl, nofun⟩
  | some cx =>
    refine ⟨hteam, hgang, rfl, fun cx' hcx => ?_⟩
    obtain rfl := Option.some.inj hcx
    exact Tbl.get_set_self ..

/-- Settles O19: the part of the team is its trap registers and its stop, that of the gang its mark, and the notice names them. -/
theorem contextFaultHandling : Obligations.ContextFaultHandling := by
  intro s t x a h
  refine ⟨fun ⟨hcls, hmask⟩ => ?_, fun hstop g hgang => ?_⟩
  · exact ⟨_, State.raise_debugStop a hcls hmask, rfl, rfl, rfl, rfl, rfl, rfl, rfl⟩
  · obtain ⟨-, -, -, hclass⟩ := causeWord_fields t.inh x.after x.code a.entry x.cls
    have hgang' : s.gang? (t.enterContextFault x a).gang = some g := hgang
    obtain ⟨hteam, hstopped, hmem, hnotices⟩ := State.contextFault_leaves a.core a.slot hgang'
    rw [State.raise_contextFault a h hstop]
    exact ⟨_, _, hteam, hstopped, rfl, rfl, rfl, rfl, causeWord_inh .., hclass, hmem, hnotices⟩

/-! NOP, TRAP, BKPT and TVEC (R222, R227). -/

/-- A class of trap that names no vector fails TVEC's check. -/
theorem tvec_illegal {si : Site} {w : Ins} (hcls : 14 ≤ w.m 52 49) : si.illegal .tvec w = true := by
  have hcheck : (Op.check .team si.team.regs .tvec w).isSome = true := by
    rw [Option.isSome_iff_ne_none]
    intro hnone
    have := tvec_class hnone
    omega
  simp only [Site.illegal, hcheck, Bool.true_or]

/-- Settles O20: each asks the wrapper for its trap or for nothing, and the decode check comes before either. -/
theorem nopAndTrapInstructions : Obligations.NopAndTrapInstructions := by
  intro w at'
  refine ⟨?nop, ?knop, ?trap, ?bkpt, fun s si h hmask => ⟨fun hill => ?_, fun hill => ?_⟩, tvec_next w, fun s si h hlen hcls => ?_⟩
  case nop => exact teamNext_of_body execNop (fun _ => rfl) fun s si h => ⟨_, issueBoth_team _ _ h, fun _ => State.finish_done h w⟩
  case knop => exact ctlNext_of_body execNop (fun _ => rfl) fun s si h =>
      ⟨_, issueBoth_ctl _ _ h, fun _ => State.finishCtl_done_self h w⟩
  case trap => exact teamNext_of_body execTrap (fun _ => rfl) fun s si h => ⟨_, rfl, fun _ => rfl⟩
  case bkpt => exact teamNext_of_body execBkpt (fun _ => rfl) fun s si h => ⟨_, rfl, fun _ => rfl⟩
  · show execTrap w s = _
    exact (issueTeam_masked _ h hill hmask rfl).trans (congrArg _ (State.retireIns_site h _))
  · show execBkpt w s = _
    exact (issueTeam_masked _ h hill hmask rfl).trans (congrArg _ (State.retireIns_site h _))
  · have hsize : w.len.size = 8 := by rw [hlen]; rfl
    rw [← hsize]
    show execTvec w s = _
    exact issueTeam_illegal _ h (tvec_illegal hcls)

/-! TRET (R219). -/

theorem goes_exec_ne {s : State} {si : Site} {o : Op} {w : Ins} (g : si.goes s o w = true) : (si.exec w == 0) = false := by
  simp only [Site.goes, Bool.and_eq_true, bne_iff_ne, ne_eq] at g
  exact beq_false_of_ne g.2

theorem Team.resumeFrom_placeOnly (t : Team) (entry : Nat) (toTpc yield : Bool) (saved : Option ClausePos) :
    t.PlaceOnly (t.resumeFrom entry toTpc yield saved) := by
  unfold Team.resumeFrom
  split
  · exact t.placeOnly_clauseDone ..
  · split
    · exact t.placeOnly_clauseDone ..
    · dsimp only
      split
      · exact (t.placeOnly_splits _).trans (Team.placeOnly_pass _ entry)
      · exact t.placeOnly_splits _

/-- Inside the saved clause the split stands there again, whether its turn ends or not. -/
theorem Team.resumeFrom_inside {t : Team} {entry : Nat} {toTpc yield : Bool} {saved : Option ClausePos} {c : ClausePos}
    (hsaved : (if toTpc then none else saved) = some c) (hend : c.atEnd = false) :
    (t.resumeFrom entry toTpc yield saved).splits =
      t.splits.alter entry fun p => { p with clause := some c, yield := t.savedYield } := by
  simp only [Team.resumeFrom, hsaved, hend, Bool.false_eq_true, if_false]
  split
  · exact Team.pass_splits ..
  · rfl

theorem Team.resumeFrom_get?_ne (t : Team) {entry e : Nat} (toTpc yield : Bool) (saved : Option ClausePos) (h : e ≠ entry) :
    (t.resumeFrom entry toTpc yield saved).splits.get? e = t.splits.get? e := by
  cases hsaved : (if toTpc then none else saved) with
  | none =>
    simp only [Team.resumeFrom, hsaved]
    exact Team.clauseDone_get?_ne _ _ _ h
  | some c =>
    by_cases hend : c.atEnd = true
    · simp only [Team.resumeFrom, hsaved, hend, if_true]
      exact Team.clauseDone_get?_ne _ _ _ h
    · rw [Team.resumeFrom_inside hsaved (Bool.eq_false_iff.mpr hend), Tbl.get?_alter_ne _ _ h]

/-- Where the split goes on: at TPC, at the clause behind the saved one's end, or inside the saved one. -/
theorem Team.resumeFrom_get?_self {t : Team} {entry : Nat} {p : Split} (h : t.splits.get? entry = some p) (toTpc yield : Bool)
    (saved : Option ClausePos) : ∃ q, (t.resumeFrom entry toTpc yield saved).splits.get? entry = some q ∧
      q.mask = p.mask ∧ q.join = p.join ∧ q.wait = p.wait ∧ (q.pc, q.clause) =
        match (if toTpc then none else saved) with
        | some c => if c.atEnd then (c.next, none) else (p.pc, some c)
        | none => (t.tpc.toNat, none) := by
  cases hsaved : (if toTpc then none else saved) with
  | none =>
    simp only [Team.resumeFrom, hsaved]
    exact ⟨_, Team.clauseDone_get?_self h _ _, rfl, rfl, rfl, rfl⟩
  | some c =>
    by_cases hend : c.atEnd = true
    · simp only [Team.resumeFrom, hsaved, hend, if_true]
      exact ⟨_, Team.clauseDone_get?_self h _ _, rfl, rfl, rfl, rfl⟩
    · rw [Team.resumeFrom_inside hsaved (Bool.eq_false_iff.mpr hend)]
      simp only [hend, Bool.false_eq_true, if_false]
      exact ⟨_, Tbl.get?_alter_self h _, rfl, rfl, rfl, rfl⟩

/-- TRET clears bit 31 of TCAUSE and no other. -/
theorem getLsbD_clearInh (x : W32) {i : Nat} (h : i ≤ 31) : (x &&& 0x7FFFFFFF).getLsbD i = (x.getLsbD i && decide (i < 31)) := by
  have hmask : (0x7FFFFFFF : W32) = BitVec.ofNat 32 (2 ^ 31 - 1) := rfl
  rw [BitVec.getLsbD_and, hmask, BitVec.getLsbD_ofNat, Nat.testBit_two_pow_sub_one]
  simp [show i < 32 by omega]

theorem exec_tret_outside {s : State} {si : Site} {w : Ins} (h : s.site? = some si) (g : si.goes s .tret w = true)
    (hinh : si.team.inh = false) : exec (.tret w) s = .next (s.trapSite si ⟨clsILLOP, 0, 0⟩ w.len.size) := by
  show execTret w s = _
  refine (issueTeam_goes _ h g).trans (congrArg _ ?_)
  simp only [goes_exec_ne g, hinh, Bool.not_false, Bool.false_eq_true, if_false, if_true]
  rfl

theorem exec_tret_handler {s : State} {si : Site} {w : Ins} (h : s.site? = some si) (g : si.goes s .tret w = true)
    (hinh : si.team.inh = true) (hblock : si.team.tpcWritten = true → si.team.tpc.toNat % 32 = 0) :
    exec (.tret w) s = .next (s.setTeam si.core si.slot ((si.team.count si s).leaveHandler si.entry si.pos.hdr.yield)) := by
  show execTret w s = _
  refine (issueTeam_goes _ h g).trans (congrArg _ ?_)
  have halign : (si.team.tpcWritten && si.team.tpc.toNat % 32 != 0) = false := by
    rw [Bool.and_eq_false_imp]
    intro hwritten
    simp [hblock hwritten]
  simp only [goes_exec_ne g, hinh, halign, Bool.not_true, Bool.false_eq_true, if_false]
  exact State.onTeam_site h _

/-- Settles O21: the return resumes the split and clears the trap state; the rest of the team has only its places changed. -/
theorem trapReturn : Obligations.TrapReturn := by
  intro w s si _ h g
  refine ⟨exec_tret_outside h g, fun hinh hblock => ⟨_, exec_tret_handler h g hinh hblock, ?_⟩⟩
  have hframe : (si.team.count si s).PlaceOnly
      ((si.team.count si s).resumeFrom si.entry si.team.tpcWritten si.pos.hdr.yield si.team.saved) := Team.resumeFrom_placeOnly ..
  refine ⟨?inh, fun i hi => ?cause, rfl, ?tpc, ?v, ?s, ?p, ?tsr, ?pend, fun e he => ?others, fun p hp => ?own⟩
  case inh =>
    refine (getLsbD_clearInh _ (Nat.le_refl 31)).trans ?_
    simp
  case cause =>
    refine (getLsbD_clearInh _ (Nat.le_of_lt hi)).trans ?_
    simp only [hi, decide_true, Bool.and_true]
    rfl
  case tpc => exact (congrArg Team.tpc hframe :)
  case v => exact (congrArg Team.v hframe :)
  case s => exact (congrArg Team.s hframe :)
  case p => exact (congrArg Team.p hframe :)
  case tsr => exact (congrArg Team.tsr hframe :)
  case pend => exact (congrArg Team.pend hframe :)
  case others => exact (Team.resumeFrom_get?_ne _ _ _ _ he).trans (Team.count_get?_ne _ _ _ he)
  case own => exact Team.resumeFrom_get?_self hp si.team.tpcWritten si.pos.hdr.yield si.team.saved

end Sys2Proof.Machine
end

section
/-! PROOFS. Cohort instructions and DQPOP (07 R207 to R209, R213; 09 R268). -/

namespace Sys2Proof.Machine

open Sys2Proof Host Spec

/-! The sequencer reaches a record behind the team's accesses. -/

theorem State.undefer_team? (s : State) (w : Waiter) (core slot : Nat) : (s.undefer w).team? core slot = s.team? core slot := by
  rw [State.undefer_frame]
  rfl

/-- Behind its accesses the team differs in its list of operations alone. -/
theorem reached_team? {s : State} {si : Site} (h : s.site? = some si) :
    ∃ ps, (reached s si).team? si.core si.slot = some { si.team with pend := ps } :=
  State.drainTeam_team? ((State.undefer_team? ..).trans (State.site?_team h))

theorem State.engineWrite_team? (s : State) (vd : Nat) (keys : List Nat) (bs : List Byte) (thru : Bool) (core slot : Nat) :
    (s.engineWrite vd keys bs thru).team? core slot = s.team? core slot :=
  State.team?_of_beyondAccess ((State.dirtyKeys_beyondAccess ..).trans
    ((State.putKeys_beyondAccess ..).trans (State.touch_beyondAccess ..))) core slot

theorem writeCohort_team? (s : State) (vd : Nat) (keys : List Nat) (c : Cohort) (core slot : Nat) :
    (writeCohort s vd keys c).team? core slot = s.team? core slot := State.engineWrite_team? ..

theorem cohortAccess_open {s : State} {si : Site} {addr : Nat} {keys : List Nat} (hopen : openRecord s si addr keys)
    (body : State → Issue) : cohortAccess s si keys body = body (reached s si) := by
  unfold cohortAccess
  exact if_neg (Bool.eq_false_iff.mp hopen.2)

/-- Where the acting team, become `r`, has gone on, its places and its counts of issue alone differ. -/
theorem goneOn_leaves (s : State) (si : Site) (w : Ins) (r : Team) :
    ∃ u, (s.goneOn si w r).team? si.core si.slot = some u ∧ (r.count si s).PlaceOnly u :=
  ⟨_, State.team?_setTeam_self .., Team.placeOnly_stepOver ..⟩

/-! CJOIN and CLEAVE (R208). -/

theorem exec_cjoin {s : State} {si : Site} {w : Ins} {keys : List Nat} (h : s.site? = some si)
    (hopen : openRecord s si (rd64 s si.core si.team 0 w.a) keys) (g : si.goes s .cjoin w = true)
    (hmember : si.team.member? (rd64 s si.core si.team 0 w.a) = none) (hroom : si.team.cohorts.length < 4) :
    let s₁ := reached s si
    let c := readCohort s₁ keys
    ∃ ps, exec (.cjoin w) s = .next ((writeCohort s₁ (s₁.teamVd si.team) keys c.join).goneOn si w { si.team with
      pend := ps
      cohorts := si.team.cohorts ++
        [{ addr := rd64 s si.core si.team 0 w.a, next := c.arrived != 0, phase := c.phase.toNat }] }) := by
  intro s₁ c
  obtain ⟨ps, hteam⟩ := reached_team? h
  have hkeys : s.cohortKeys si.team (s.uni64 si w.a) = .ok keys := hopen.1
  have hmember' : si.team.member? (s.uni64 si w.a) = none := hmember
  have hroom' : ¬ 4 ≤ si.team.cohorts.length := Nat.not_le.mpr hroom
  refine ⟨ps, ?_⟩
  show execCjoin w s = _
  refine (issueTeam_goes _ h g).trans (congrArg _ ?_)
  simp only [hmember', hroom', hkeys, cohortAccess_open hopen, Option.isSome_none, decide_false, Bool.or_self, Bool.false_eq_true,
    if_false]
  exact State.finish_onTeam_of_team ((writeCohort_team? ..).trans hteam) s w _

theorem exec_cleave {s : State} {si : Site} {w : Ins} {keys : List Nat} {m : Membership} (h : s.site? = some si)
    (hopen : openRecord s si (rd64 s si.core si.team 0 w.a) keys) (g : si.goes s .cleave w = true)
    (hmember : si.team.member? (rd64 s si.core si.team 0 w.a) = some m) :
    let s₁ := reached s si
    ∃ ps, exec (.cleave w) s = .next ((writeCohort s₁ (s₁.teamVd si.team) keys ((readCohort s₁ keys).leave m)).goneOn si w
      { si.team with
        pend := ps
        cohorts := si.team.cohorts.filter fun m => m.addr != rd64 s si.core si.team 0 w.a }) := by
  intro s₁
  obtain ⟨ps, hteam⟩ := reached_team? h
  have hkeys : s.cohortKeys si.team (s.uni64 si w.a) = .ok keys := hopen.1
  have hmember' : si.team.member? (s.uni64 si w.a) = some m := hmember
  refine ⟨ps, ?_⟩
  show execCleave w s = _
  refine (issueTeam_goes _ h g).trans (congrArg _ ?_)
  simp only [hmember', hkeys, cohortAccess_open hopen]
  exact State.finish_onTeam_of_team ((writeCohort_team? ..).trans hteam) s w _

/-! CBAR (R209). -/

/-- A member whose arrival mask is empty or of this cohort, and lacks the executing threads, passes CBAR's checks. -/
theorem cbar_checks {t : Team} {addr : Nat} {e : TMask} (hmember : (t.member? addr).isSome = true)
    (haddr : t.cohMask = 0 ∨ t.cohAddr = addr) (hthreads : t.cohMask &&& e = 0) :
    (t.member? addr).isNone = false ∧ (t.cohMask != 0 && t.cohAddr != addr) = false ∧ (t.cohMask &&& e != 0) = false := by
  refine ⟨by rw [← Option.not_isSome, hmember]; rfl, ?_, by simp [hthreads]⟩
  rcases haddr with h | h <;> simp [h]

theorem cbar_waits (w : Ins) : TeamNext .cbar w
    (fun s si => (si.team.member? (rd64 s si.core si.team 0 w.a)).isSome = true ∧
      (si.team.cohMask = 0 ∨ si.team.cohAddr = rd64 s si.core si.team 0 w.a) ∧ si.team.cohMask &&& si.exec w = 0 ∧
      (si.team.cohMask ||| si.exec w) &&& si.team.alive ≠ si.team.alive)
    fun s si => blockedBehind s si w { si.team with
      cohMask := si.team.cohMask ||| si.exec w, cohAddr := rd64 s si.core si.team 0 w.a }
      (.cohortTeam (rd64 s si.core si.team 0 w.a)) := by
  refine teamNext_of_body execCbar (fun _ => rfl) fun s si h => ⟨_, rfl, ?_⟩
  rintro ⟨hmember, haddr, hthreads, hsome⟩
  obtain ⟨hm, ha, ht⟩ := cbar_checks (addr := s.uni64 si w.a) hmember haddr hthreads
  have hsome' := beq_false_of_ne hsome
  simp only [hm, ha, ht, hsome', Bool.false_eq_true, if_false]
  exact State.finish_block_onTeam h w _ _

/-- The team's arrival clears its mask; the record changes unless the membership counts for the next phase. -/
theorem State.cohortArrive_fst (s : State) (core slot : Nat) (t : Team) (addr : Nat) (keys : List Nat) :
    let c := readCohort s keys
    let late := (t.member? addr).any fun m => m.next && m.phase == c.phase.toNat
    (s.cohortArrive core slot t addr keys).1 =
      (if late then s else writeCohort s (s.teamVd t) keys c.arrive).updTeam core slot fun t =>
        ({ t with cohMask := 0 } : Team).cohortWaits addr c.phase.toNat (!late) := by
  unfold State.cohortArrive
  cases t.member? addr <;> rfl

theorem State.cohortArrive_leaves {s : State} {core slot : Nat} {u : Team} (t : Team) (addr : Nat) (keys : List Nat)
    (h : s.team? core slot = some u) :
    (∃ l, (s.cohortArrive core slot t addr keys).1.team? core slot = some { u with cohMask := 0, splits := l }) ∧
      (s.cohortArrive core slot t addr keys).1.mem =
        (if (t.member? addr).any (fun m => m.next && m.phase == (readCohort s keys).phase.toNat) then s
          else writeCohort s (s.teamVd t) keys (readCohort s keys).arrive).mem := by
  have hteam : (if (t.member? addr).any (fun m => m.next && m.phase == (readCohort s keys).phase.toNat) then s
      else writeCohort s (s.teamVd t) keys (readCohort s keys).arrive).team? core slot = some u := by
    split
    · exact h
    · exact (writeCohort_team? ..).trans h
  rw [State.cohortArrive_fst, State.updTeam_of_team hteam]
  exact ⟨⟨_, State.team?_setTeam_self ..⟩, rfl⟩

theorem exec_cbar_arrives {s : State} {si : Site} {w : Ins} {keys : List Nat} (h : s.site? = some si)
    (hopen : openRecord s si (rd64 s si.core si.team 0 w.a) keys) (g : si.goes s .cbar w = true)
    (hmember : (si.team.member? (rd64 s si.core si.team 0 w.a)).isSome = true)
    (haddr : si.team.cohMask = 0 ∨ si.team.cohAddr = rd64 s si.core si.team 0 w.a)
    (hthreads : si.team.cohMask &&& si.exec w = 0) (hall : (si.team.cohMask ||| si.exec w) &&& si.team.alive = si.team.alive) :
    let s₁ := reached s si
    ∃ (t : State) (u : Team), exec (.cbar w) s = .next t ∧ t.team? si.core si.slot = some u ∧ u.cohMask = 0 ∧
      t.mem = (s₁.cohortArrive si.core si.slot si.team (rd64 s si.core si.team 0 w.a) keys).1.mem := by
  intro s₁
  obtain ⟨ps, hteam⟩ := reached_team? h
  obtain ⟨⟨l, hl⟩, -⟩ := State.cohortArrive_leaves si.team (s.uni64 si w.a) keys hteam
  obtain ⟨hm, ha, ht⟩ := cbar_checks (addr := s.uni64 si w.a) hmember haddr hthreads
  have hkeys : s.cohortKeys si.team (s.uni64 si w.a) = .ok keys := hopen.1
  have hplace (u : Team) (wt : Wait) :
      (u.count si s).PlaceOnly (((u.count si s).stepOver si.entry si.pos w.len.size).blockSplit si.entry wt) :=
    (Team.placeOnly_stepOver ..).trans (Team.placeOnly_blockSplit ..)
  have hexec : exec (.cbar w) s = .next (s.finish si w.len.size (.block
      ((s₁.cohortArrive si.core si.slot si.team (s.uni64 si w.a) keys).1.onTeam si fun t =>
        { t with cohSite := some (si.entry, si.pos, si.exec w) })
      (s₁.cohortArrive si.core si.slot si.team (s.uni64 si w.a) keys).2 true)) := by
    show execCbar w s = _
    refine (issueTeam_goes _ h g).trans (congrArg _ ?_)
    simp only [hm, ha, ht, hkeys, cohortAccess_open hopen, beq_iff_eq.mpr hall, Bool.false_eq_true, if_false, if_true]
    rfl
  refine ⟨_, _, hexec.trans (congrArg _ (State.finish_block_of_team hl s w.len.size _ _)), State.team?_setTeam_self .., ?_, rfl⟩
  exact (congrArg Team.cohMask (hplace ..) :)

/-! DQPOP (R213). -/

/-- A 64-bit value in an even pair of s registers. -/
theorem sreg_writeD_pair {w : Ins} {d : Nat} (hd : w.d = .s d) (t : Team) (tid x : Nat) :
    (t.writeD w true [(tid, x)]).sreg d = BitVec.ofNat 32 x ∧
      (t.writeD w true [(tid, x)]).sreg (d + 1) = BitVec.ofNat 32 (x / 2 ^ 32) := by
  have h32 (y : Nat) : BitVec.ofNat 32 (y % 2 ^ 32) = BitVec.ofNat 32 y := BitVec.eq_of_toNat_eq (by simp)
  simp only [Team.writeD, hd, halves, if_true, List.zipIdx, List.foldl, Nat.add_zero, Nat.zero_add, Team.sreg_setS, h32]
  refine ⟨?_, trivial⟩
  rw [if_neg (by omega)]

theorem exec_dqpop {s : State} {si : Site} {w : Ins} {cx : CtxId} {x : W64} {rest : List (CtxId × W64)} (h : s.site? = some si)
    (g : si.goes s .dqpop w = true) (hcx : s.teamCx si.team = some cx) (hturn : s.dqTurn si.core si.slot si.entry cx = true)
    (hentry : takeEntry cx (s.coreOf si.core).dq = some (x, rest)) :
    ∃ (s' : State) (ps : List Pend), exec (.dqpop w) s =
        .next (s'.goneOn si w (({ si.team with pend := ps } : Team).writeD w true [(0, x.toNat)])) ∧
      (s'.coreOf si.core).dq = rest := by
  obtain ⟨ps, hteam⟩ := State.drainTeam_team? (State.site?_team h)
  let c := (s.drainTeam si.core si.slot).coreOf si.core
  let s' := ((s.drainTeam si.core si.slot).setCore si.core
    { c with dq := rest, dqWait := c.dqWait.filter (· != (si.slot, si.entry)) }).sync si.core
  have hteam' : s'.team? si.core si.slot = some { si.team with pend := ps } := hteam
  refine ⟨s', ps, ?_, ?_⟩
  · show execDqpop w s = _
    refine (issueTeam_goes _ h g).trans (congrArg _ ?_)
    simp only [hcx, hturn, if_true, hentry]
    exact State.finish_onTeam_of_team hteam' s w _
  · show (((s.drainTeam si.core si.slot).setCore si.core _).sync si.core |>.coreOf si.core).dq = rest
    rw [State.sync, State.coreOf_setCore_self, State.coreOf_setCore_self]
    rfl

/-- Settles O15: the record is open and the team drained, so that each instruction is one change of both. -/
theorem cohortsAndDecisions : Obligations.CohortsAndDecisions := by
  intro w addr
  refine ⟨cbar_waits w, ?record, ?dqpop⟩
  case record =>
    intro s si keys h hopen s₁ vd c ms
    refine ⟨?cjoin, ?cleave, ?cbar⟩
    case cjoin =>
      intro _ g hmember hroom
      obtain ⟨ps, hexec⟩ := exec_cjoin h hopen g hmember hroom
      obtain ⟨u, hu, hplace⟩ := goneOn_leaves (writeCohort s₁ vd keys c.join) si w _
      exact ⟨_, u, hexec, hu, (congrArg Team.cohorts hplace :), rfl⟩
    case cleave =>
      intro m _ g hmember
      obtain ⟨ps, hexec⟩ := exec_cleave h hopen g hmember
      obtain ⟨u, hu, hplace⟩ := goneOn_leaves (writeCohort s₁ vd keys (c.leave m)) si w _
      exact ⟨_, u, hexec, hu, (congrArg Team.cohorts hplace :), rfl⟩
    case cbar =>
      intro _ g hmember haddr hthreads hall
      obtain ⟨ps, hteam⟩ := reached_team? h
      obtain ⟨t, u, hexec, hu, hmask, hmem⟩ := exec_cbar_arrives h hopen g hmember haddr hthreads hall
      obtain ⟨-, hrecord⟩ := State.cohortArrive_leaves si.team (addr s si) keys hteam
      exact ⟨t, u, hexec, hu, hmask, hmem.trans hrecord⟩
  case dqpop =>
    intro s si cx x rest d h _ g hcx hd hturn hentry
    obtain ⟨s', ps, hexec, hdq⟩ := exec_dqpop h g hcx hturn hentry
    obtain ⟨u, hu, hplace⟩ := goneOn_leaves s' si w (({ si.team with pend := ps } : Team).writeD w true [(0, x.toNat)])
    obtain ⟨hlow, hhigh⟩ := sreg_writeD_pair hd { si.team with pend := ps } 0 x.toNat
    exact ⟨_, u, hexec, hu, hdq, (congrArg (Team.sreg · d) hplace :).trans hlow,
      (congrArg (Team.sreg · (d + 1)) hplace :).trans hhigh⟩

end Sys2Proof.Machine
end

section
/-! PROOFS. Accesses to bytes outside compressed tiles (02 R34, R39 to R43; 08 R238, R239): while no line of the L2 is a tile's,
what reaches the slices moves no byte, and reads and writes are those of memory. -/

namespace Sys2Proof

theorem Tbl.mem_of_mem_set {α : Type} {t : Tbl α} {n : Nat} {y : α} {x : Nat × α} (h : x ∈ t.set n y) :
    x = (n, y) ∨ x ∈ t := by
  induction t with
  | nil => exact .inl (List.mem_singleton.mp h)
  | cons z t ih => grind [Tbl.set]

end Sys2Proof

namespace Sys2Proof.Machine

open Sys2Proof Host Spec

/-! Lines of the L2. -/

/-- The L2 still holds no line of a tile, and memory is as it was: nothing has been written back. -/
def State.keptPlain (s t : State) : Prop := noTileLines t ∧ t.mem = s.mem

theorem State.keptPlain.trans {s t u : State} (h : s.keptPlain t) (h' : t.keptPlain u) : s.keptPlain u := ⟨h'.1, h'.2.trans h.2⟩

/-- One more line that is not a tile's. -/
theorem State.keptPlain_setLine {s t : State} {n : Nat} {l : Line} (h : noTileLines s) (hl : l.tile = false)
    (hlines : t.lines = s.lines.set n l) (hmem : t.mem = s.mem) : s.keptPlain t := by
  refine ⟨fun x hx => ?_, hmem⟩
  rw [hlines] at hx
  rcases Tbl.mem_of_mem_set hx with rfl | hx
  · exact hl
  · exact h x hx

theorem State.evictCrumb_keptPlain {s : State} (h : noTileLines s) (crumb : Nat) : s.keptPlain (s.evictCrumb crumb) := by
  unfold State.evictCrumb
  split
  next => exact ⟨h, rfl⟩
  next l hl =>
    have htile : l.tile = false := h _ (Tbl.mem_of_get? hl)
    rw [htile, if_neg Bool.false_ne_true]
    exact ⟨fun x hx => h x (Tbl.mem_erase_iff.mp hx).1, rfl⟩

theorem State.fillLine_keptPlain {s t : State} {vd hint crumb : Nat} (h : noTileLines s)
    (hfill : s.fillLine vd hint false crumb = some t) : s.keptPlain t := by
  obtain ⟨⟨way, old, lent⟩, -, rfl⟩ := Option.map_eq_some_iff.mp hfill
  cases old with
  | none => exact State.keptPlain_setLine h rfl rfl rfl
  | some c =>
    have hevict := State.evictCrumb_keptPlain h c
    exact hevict.trans (State.keptPlain_setLine hevict.1 rfl rfl rfl)

theorem State.hitLine_keptPlain {s : State} {crumb : Nat} {l : Line} (h : noTileLines s) (hl : s.lines.get? crumb = some l)
    (hint : Nat) : s.keptPlain (s.hitLine hint crumb l) := by
  have htile : l.tile = false := h _ (Tbl.mem_of_get? hl)
  refine State.keptPlain_setLine h ?_ rfl rfl
  exact htile

theorem State.touchCrumb_keptPlain {s : State} (h : noTileLines s) (vd hint crumb : Nat) (demand : Bool) :
    s.keptPlain (s.touchCrumb vd hint crumb demand) := by
  unfold State.touchCrumb
  split
  next l hl => exact State.hitLine_keptPlain h hl hint
  next =>
    split
    next t hfill => exact State.fillLine_keptPlain h hfill
    next => split <;> exact ⟨h, rfl⟩

theorem crumbsOf_plain {keys : List Nat} (h : ∀ k ∈ keys, isTileKey k = false) : ∀ x ∈ crumbsOf keys, x.2 = false := by
  refine List.foldlRecOn keys _ (motive := fun l : List (Nat × Bool) => ∀ x ∈ l, x.2 = false)
    (fun _ hx => absurd hx List.not_mem_nil) fun l hl k hk => ?_
  split
  · split
    · exact hl
    · intro x hx
      rcases List.mem_append.mp hx with hx | hx
      · exact hl x hx
      · rw [List.mem_singleton.mp hx]
        exact h k hk
  · exact hl

/-- Crumbs that are not of a tile, touched one after another. -/
theorem State.touchAll_keptPlain {s : State} (h : noTileLines s) (vd hint : Nat) (demand : Bool) {l : List (Nat × Bool)}
    (hl : ∀ x ∈ l, x.2 = false) : s.keptPlain (l.foldl (fun s c => s.touchAny vd hint demand c) s) := by
  refine List.foldlRecOn l _ (motive := s.keptPlain) ⟨h, rfl⟩ fun t ht x hx => ht.trans ?_
  rw [State.touchAny, hl x hx, if_neg Bool.false_ne_true]
  exact State.touchCrumb_keptPlain ht.1 vd hint x.1 demand

theorem State.touch_keptPlain {s : State} {keys : List Nat} (h : plainLines s keys) (vd hint : Nat) :
    s.keptPlain (s.touch vd hint keys) := State.touchAll_keptPlain h.1 vd hint true (crumbsOf_plain h.2)

theorem State.touch_mem {s : State} {keys : List Nat} (h : plainLines s keys) (vd hint : Nat) :
    (s.touch vd hint keys).mem = s.mem := (State.touch_keptPlain h vd hint).2

/-! Bytes at keys. -/

section Keys

variable {keys : List Nat}

theorem State.map_readKey_plain (s : State) (h : ∀ k ∈ keys, isTileKey k = false) : keys.map s.readKey = keys.map s.mem.read :=
  List.map_congr_left fun k hk => by rw [State.readKey, h k hk, if_neg Bool.false_ne_true]

theorem State.readKeys_plain (s : State) (h : ∀ k ∈ keys, isTileKey k = false) : s.readKeys keys = s.mem.readKeys keys := by
  cases keys with
  | nil => rfl
  | cons k ks =>
    simp only [State.readKeys, h k List.mem_cons_self, Bool.false_eq_true, if_false]
    rw [State.map_readKey_plain s h, Memory.readKeys]

theorem State.foldl_writeKey_mem (s : State) {l : List (Nat × Byte)} (h : ∀ x ∈ l, isTileKey x.1 = false) :
    (l.foldl (fun s y => s.writeKey y.1 y.2) s).mem = s.mem.writes l := by
  induction l generalizing s with
  | nil => rfl
  | cons x l ih =>
    have hx : s.writeKey x.1 x.2 = { s with mem := s.mem.write x.1 x.2 } := by
      rw [State.writeKey, h x List.mem_cons_self, if_neg Bool.false_ne_true]
    rw [List.foldl_cons, hx, ih _ fun y hy => h y (List.mem_cons_of_mem _ hy)]
    rfl

theorem State.writeKeys_mem (s : State) (x : Nat) (h : ∀ k ∈ keys, isTileKey k = false) :
    (s.writeKeys keys x).mem = s.mem.writeKeys keys x :=
  s.foldl_writeKey_mem fun _ hy => h _ (List.of_mem_zip hy).1

end Keys

theorem State.dirtyKeys_mem (s : State) (thru : Bool) (keys : List Nat) : (s.dirtyKeys thru keys).mem = s.mem := by
  unfold State.dirtyKeys
  split <;> rfl

/-! Loads and stores through the L1. -/

theorem State.grantLease_mem (s : State) (core crumb pc : Nat) (data : List Byte) :
    (s.grantLease core crumb pc data).mem = s.mem := by
  unfold State.grantLease
  dsimp only
  split <;> rfl

theorem isTileKey_of_crumb {a b : Nat} (h : a / 64 = b / 64) : isTileKey a = isTileKey b := by
  have hregion (k : Nat) : k / 2 ^ 44 = k / 64 / 2 ^ 38 := by omega
  rw [isTileKey, isTileKey, hregion a, hregion b, h]

/-- What a load that no L1 copy serves brings of a crumb. -/
theorem State.loadCrumb_plain {s : State} {via : Via} {crumb : Nat} (h : noTileLines s) (hcrumb : isTileKey (64 * crumb) = false)
    (hmiss : (s.coreOf via.core).l1Hit crumb = none) :
    (s.loadCrumb via crumb).1.mem = s.mem ∧ (s.loadCrumb via crumb).2 = (keysFrom (64 * crumb) 64).map s.mem.read := by
  have hkeys : ∀ k ∈ keysFrom (64 * crumb) 64, isTileKey k = false := by
    intro k hk
    obtain ⟨i, hi, rfl⟩ := List.mem_map.mp hk
    rw [List.mem_range] at hi
    exact (isTileKey_of_crumb (by omega)).trans hcrumb
  have hmem : (s.touch via.vd via.hint (keysFrom (64 * crumb) 64)).mem = s.mem := State.touch_mem ⟨h, hkeys⟩ ..
  simp only [State.loadCrumb, hmiss]
  refine ⟨(State.grantLease_mem ..).trans hmem, ?_⟩
  rw [State.readKeys_plain _ hkeys, hmem]
  exact leBytes_leNat (by simp [keysFrom])

/-- A load within one crumb that no L1 copy serves brings the bytes of memory, and changes none. -/
theorem State.loadKeys_plain {s : State} {via : Via} {keys : List Nat} {crumb : Nat} (h : plainLines s keys)
    (hcrumb : ∀ k ∈ keys, k / 64 = crumb) (hmiss : (s.coreOf via.core).l1Hit crumb = none) :
    (s.loadKeys via keys).1.mem = s.mem ∧ (s.loadKeys via keys).2 = s.mem.readKeys keys := by
  unfold State.loadKeys
  split
  · exact ⟨rfl, s.readKeys_plain h.2⟩
  · next hglobal =>
    cases keys with
    | nil => exact absurd rfl hglobal
    | cons k ks =>
      have hk := hcrumb k List.mem_cons_self
      have hcrumbs : (((k :: ks).map (· / 64)).dedup) = [crumb] := by
        rw [List.map_congr_left (g := fun _ => crumb) hcrumb, List.map_const']
        exact List.replicate_dedup (Nat.succ_ne_zero _)
      have hplain : isTileKey (64 * crumb) = false := (isTileKey_of_crumb (by omega)).trans (h.2 k List.mem_cons_self)
      obtain ⟨hmem, hdata⟩ := State.loadCrumb_plain (via := via) h.1 hplain hmiss
      simp only [hcrumbs, State.loadCrumbs, Memory.readKeys]
      refine ⟨hmem, congrArg leNat (List.map_congr_left fun a ha => ?_)⟩
      have ha' := hcrumb a ha
      have hplace : 64 * crumb + a % 64 = a := by omega
      simp [ha', hdata, keysFrom, Nat.mod_lt, hplace]

theorem State.storeKeys_plain {s : State} {keys : List Nat} (h : plainLines s keys) (via : Via) (thru : Bool) (x : Nat) :
    (s.storeKeys via thru keys x).mem = s.mem.writeKeys keys x := by
  have hmem : (((s.touch via.vd via.hint keys).writeKeys keys x).dirtyKeys thru keys).mem = s.mem.writeKeys keys x := by
    rw [State.dirtyKeys_mem, State.writeKeys_mem _ x h.2, State.touch_mem h]
  unfold State.storeKeys
  dsimp only
  split
  · exact hmem
  · exact (hmem :)

/-! The events of an operation. -/

theorem firstCrumb_plain {s : State} {keys : List Nat} (h : plainLines s keys) : plainLines s (firstCrumb keys).1 :=
  ⟨h.1, fun k hk => h.2 k (List.mem_of_mem_filter hk)⟩

theorem firstCrumb_crumb (keys : List Nat) : ∀ k ∈ (firstCrumb keys).1, k / 64 = keys.headD 0 / 64 :=
  fun _ hk => by simpa using (List.mem_filter.mp hk).2

section Perform

variable {s : State} {via : Via} {x : MemItem} {keys : List Nat} (h : plainLines s keys)

include h

theorem State.performItem_load (sg : Bool) (n cnt b : Nat) (hmiss : (s.coreOf via.core).l1Hit (keys.headD 0 / 64) = none) :
    let k := (firstCrumb keys).1
    let rest := (firstCrumb keys).2
    let got := x.got ++ leBytes k.length (s.mem.readKeys k)
    ∃ t, t.mem = s.mem ∧ s.performItem via (.load sg n cnt b) x keys =
      if rest = [] then (t, none, loadWrites x sg n cnt b (leNat got))
      else (t, some { x with place := .here rest, got := got }, []) := by
  intro k rest got
  obtain ⟨hmem, hdata⟩ := State.loadKeys_plain (via := via) (firstCrumb_plain h) (firstCrumb_crumb keys) hmiss
  refine ⟨_, hmem, ?_⟩
  simp only [State.performItem, hdata, List.isEmpty_iff]
  rfl

theorem State.performItem_store :
    let k := (firstCrumb keys).1
    let rest := (firstCrumb keys).2
    ∃ t left, s.performItem via .store x keys = (t, left, []) ∧ (left = none ↔ rest = []) ∧
      t.mem = s.mem.writeKeys k (if x.keep = 0 then x.data else (s.mem.readKeys k &&& x.keep) ||| x.data) := by
  intro k rest
  have hk : plainLines s k := firstCrumb_plain h
  refine ⟨s.storeKeys via x.thru k (s.stored x k), if rest.isEmpty then none else some
    { x with place := .here rest, data := x.data / 2 ^ (8 * k.length), keep := x.keep / 2 ^ (8 * k.length) }, rfl, ?_, ?_⟩
  · cases rest <;> simp
  · rw [State.storeKeys_plain hk, State.stored, State.readKeys_plain _ hk.2]
    simp only [beq_iff_eq]

theorem State.performItem_atomic (op : Nat) (ty : DType) (ret : Bool) :
    ∃ t, s.performItem via (.atomic op ty ret) x keys =
        (t, none, if ret then dstWrites x.dst (8 * keys.length) x.live (s.mem.readKeys keys) else []) ∧
      t.mem = s.mem.writeKeys keys (atomicNew op ty (s.mem.readKeys keys) x.data x.cmp) := by
  have hmem := State.touch_mem h via.vd via.hint
  have hold : (s.touch via.vd via.hint keys).readKeys keys = s.mem.readKeys keys := by rw [State.readKeys_plain _ h.2, hmem]
  refine ⟨_, by simp only [State.performItem, hold]; rfl, ?_⟩
  calc _ = (((s.touch via.vd via.hint keys).writeKeys keys _).dirtyKeys x.thru keys).mem := rfl
    _ = _ := by rw [State.dirtyKeys_mem, State.writeKeys_mem _ _ h.2, hmem]

end Perform

/-- Settles O24: the touch of the slices moves no byte of memory, so each event reads and writes the bytes of its keys in it. -/
theorem accessesPerform : Obligations.AccessesPerform := by
  intro s via x keys h hwf k rest got old
  refine ⟨fun sg n cnt b hmiss => State.performItem_load h sg n cnt b hmiss, ?store, fun op ty ret => ?atomic⟩
  case store =>
    obtain ⟨t, left, hperform, hleft, hmem⟩ := State.performItem_store (via := via) (x := x) h
    exact ⟨t, left, hperform, hleft, hmem, fun a ha => hmem ▸ Memory.read_writeKeys_ne hwf _ _ ha⟩
  case atomic =>
    obtain ⟨t, hperform, hmem⟩ := State.performItem_atomic (via := via) (x := x) h op ty ret
    exact ⟨t, hperform, hmem, fun a ha => hmem ▸ Memory.read_writeKeys_ne hwf _ _ ha⟩

end Sys2Proof.Machine
end

section
/-! PROOFS. Accesses that pass their checks: what the walker's reads of the tables leave as it was (02 R46 to R48), and the meaning
behind the checks (08 R236). -/

namespace Sys2Proof.Machine

open Sys2Proof Host Spec

/-! The walker's reads reach what accesses reach, and the TLBs. -/

/-- The state without the parts that a translation may change, and the clock of every core. -/
def State.beyondWalk (s : State) : State × (Nat → Nat) := ({ s.beyondAccess with dieTlbs := [] }, fun c => (s.coreOf c).clk)

theorem State.beyondWalk_of_beyondAccess {s t : State} (h : t.beyondAccess = s.beyondAccess) (hc : t.cores = s.cores) :
    t.beyondWalk = s.beyondWalk := by
  unfold State.beyondWalk State.coreOf
  rw [h, hc]

theorem State.touch_beyondWalk (s : State) (vd hint : Nat) (keys : List Nat) : (s.touch vd hint keys).beyondWalk = s.beyondWalk :=
  State.beyondWalk_of_beyondAccess (State.touch_beyondAccess ..) (State.touch_cores ..)

theorem State.clk_setCore {s : State} {core : Nat} {x : Core} (h : x.clk = (s.coreOf core).clk) (c : Nat) :
    ((s.setCore core x).coreOf c).clk = (s.coreOf c).clk := by
  by_cases hc : c = core
  · rw [hc, State.coreOf_setCore_self, h]
  · rw [State.coreOf_setCore_ne _ _ hc]

theorem State.setTlb_beyondWalk (s : State) (core : Nat) (l : List TlbEntry) :
    (s.setCore core { s.coreOf core with tlb := l }).beyondWalk = s.beyondWalk :=
  Prod.ext rfl (funext (State.clk_setCore (s := s) rfl))

theorem State.setDieTlbs_beyondWalk (s : State) (l : Tbl (List TlbEntry)) :
    ({ s with dieTlbs := l } : State).beyondWalk = s.beyondWalk := rfl

/-- The walker's reads of the tables, as ordinary loads. -/
theorem State.touchEach_beyondWalk (s : State) (vd hint : Nat) (pas : List Nat) :
    (pas.foldl (fun s pa => s.touch vd hint [pa]) s).beyondWalk = s.beyondWalk :=
  foldl_keeps (fun t : State => t.beyondWalk = s.beyondWalk) _ (fun t pa h => (t.touch_beyondWalk vd hint [pa]).trans h) pas s rfl

theorem State.walkedOn_beyondWalk (s : State) (die : Nat) (core : Option Nat) (cx : CtxId) (va : Nat) :
    (s.walkedOn die core cx va).beyondWalk = s.beyondWalk := by
  unfold State.walkedOn
  dsimp only
  split
  next c _ _ _ =>
    have hreads := s.touchEach_beyondWalk cx.vd 0 (walkReads s va levels c.root)
    rw [State.setDieTlbs_beyondWalk]
    cases core with
    | none => exact hreads
    | some k => exact (State.setTlb_beyondWalk ..).trans hreads
  next => rfl

theorem State.walkedFor_beyondWalk (s : State) (core : Nat) (cx : CtxId) (sp : Space) (wants : List Want) :
    (s.walkedFor core cx sp wants).beyondWalk = s.beyondWalk := by
  unfold State.walkedFor State.walkedAll
  split
  · exact foldl_keeps (fun t : State => t.beyondWalk = s.beyondWalk) _
      (fun t p h => (t.walkedOn_beyondWalk (coreDie core) (some core) cx (65536 * p)).trans h) _ s rfl
  · rfl

theorem looked_beyondWalk (s : State) (si : Site) (sp : Space) (wants : List Want) :
    (looked s si sp wants).beyondWalk = s.beyondWalk := by
  unfold looked
  split
  · exact State.walkedFor_beyondWalk ..
  · rfl

theorem looked_team? (s : State) (si : Site) (sp : Space) (wants : List Want) (core slot : Nat) :
    (looked s si sp wants).team? core slot = s.team? core slot := by
  have hteams : (looked s si sp wants).teams = s.teams := (congrArg (State.teams ·.1) (looked_beyondWalk s si sp wants) :)
  rw [State.team?, hteams, State.team?]

theorem Team.count_of_beyondWalk {s s' : State} (h : s'.beyondWalk = s.beyondWalk) (t : Team) (si : Site) :
    t.count si s' = t.count si s := by
  have hns : s'.ns = s.ns := (congrArg (State.ns ·.1) h :)
  have hclk : (s'.coreOf si.core).clk = (s.coreOf si.core).clk := (congrArg (·.2 si.core) h :)
  rw [Team.count, Team.count, hns, hclk]

/-! They move no byte where the tables lie in DRAM. -/

/-- The root table of every context lies in DRAM, as VDMAKE asks (16 R444). A root among the keys of tiles would have the
walker fill a tile. -/
def rootsInDram (s : State) : Prop := ∀ cx c, s.ctx? cx = some c → c.root < 2 ^ 40

theorem pteAddr_lt (e : Nat) : pteAddr e < 2 ^ 40 := by
  have h := bits_lt e 39 8
  unfold pteAddr
  omega

theorem walkReads_inDram (s : State) (va : Nat) {l : List Level} {table : Nat} (htable : table < 2 ^ 40)
    (hl : ∀ x ∈ l, x.width ≤ 9) : ∀ pa ∈ walkReads s va l table, isTileKey pa = false := by
  induction l generalizing table with
  | nil => exact fun _ hpa => absurd hpa List.not_mem_nil
  | cons x l ih =>
    have hplain : isTileKey (table + 8 * bits va (x.shift + x.width - 1) x.shift) = false := by
      have hindex : bits va (x.shift + x.width - 1) x.shift < 2 ^ 9 :=
        (bits_lt ..).trans_le (Nat.pow_le_pow_right (by decide) (by have := hl x List.mem_cons_self; omega))
      unfold isTileKey
      rw [beq_eq_false_iff_ne]
      omega
    intro pa hpa
    rw [walkReads] at hpa
    split at hpa
    · rw [List.mem_singleton.mp hpa]
      exact hplain
    · rcases List.mem_cons.mp hpa with rfl | hpa
      · exact hplain
      · exact ih (pteAddr_lt _) (fun y hy => hl y (List.mem_cons_of_mem _ hy)) pa hpa

theorem State.walkedOn_keptPlain {s : State} (h : noTileLines s) (hroots : rootsInDram s) (die : Nat) (core : Option Nat)
    (cx : CtxId) (va : Nat) : s.keptPlain (s.walkedOn die core cx va) := by
  unfold State.walkedOn
  dsimp only
  split
  next c _ _ hc =>
    have hplain := walkReads_inDram s va (hroots cx c hc) (l := levels) (by decide)
    have hreads : s.keptPlain ((walkReads s va levels c.root).foldl (fun s pa => s.touch cx.vd 0 [pa]) s) :=
      List.foldlRecOn _ _ ⟨h, rfl⟩ fun t ht pa hpa => ht.trans (State.touch_keptPlain
        ⟨ht.1, fun k hk => List.mem_singleton.mp hk ▸ hplain pa hpa⟩ ..)
    cases core <;> exact hreads
  next => exact ⟨h, rfl⟩

theorem rootsInDram_of_beyondWalk {s t : State} (h : t.beyondWalk = s.beyondWalk) (hroots : rootsInDram s) : rootsInDram t := by
  have hctxs : t.ctxs = s.ctxs := (congrArg (State.ctxs ·.1) h :)
  intro cx c hc
  rw [State.ctx?, hctxs] at hc
  exact hroots cx c hc

theorem State.walkedFor_keptPlain {s : State} (h : noTileLines s) (hroots : rootsInDram s) (core : Nat) (cx : CtxId) (sp : Space)
    (wants : List Want) : s.keptPlain (s.walkedFor core cx sp wants) := by
  unfold State.walkedFor State.walkedAll
  split
  · refine (List.foldlRecOn _ _ (motive := fun t => s.keptPlain t ∧ rootsInDram t) ⟨⟨h, rfl⟩, hroots⟩ ?_).1
    rintro t ⟨ht, htroots⟩ page -
    have hwalked := State.walkedOn_keptPlain ht.1 htroots (coreDie core) (some core) cx (65536 * page)
    exact ⟨ht.trans hwalked, rootsInDram_of_beyondWalk (State.walkedOn_beyondWalk ..) htroots⟩
  · exact ⟨h, rfl⟩

theorem looked_mem {s : State} (h : noTileLines s) (hroots : rootsInDram s) (si : Site) (sp : Space) (wants : List Want) :
    (looked s si sp wants).mem = s.mem := by
  unfold looked
  split
  · exact (State.walkedFor_keptPlain h hroots ..).2
  · rfl

/-! Behind the checks. -/

/-- Accesses that pass the checks reach the meaning, on the places found. -/
theorem checked_passes {s : State} {si : Site} {sp : Space} {acc : Acc} {wants : List Want} {places : List (Nat × Place)}
    (h : passes s si sp acc wants places) (body : State → List (Nat × Place) → Issue) :
    checked s si sp acc wants body = body (looked s si sp wants) places := by
  obtain ⟨r, hreach, hwalks, hcheck, -⟩ := h
  simp only [checked, looked, hreach, hwalks, hcheck, Bool.false_eq_true, if_false]

/-- An instruction whose meaning runs behind the checks of some accesses runs it on their places. -/
theorem issueTeam_checked {s : State} {si : Site} {o : Op} {w : Ins} {sp : Space} {acc : Acc} {places : List (Nat × Place)}
    {asks : Site → TMask → List Want} {act : Site → TMask → State → List (Nat × Place) → Issue} (h : s.site? = some si)
    (g : si.goes s o w = true) (hpass : passes s si sp acc (asks si (si.exec w)) places) :
    issueTeam o w s (fun si e => checked s si sp acc (asks si e) (act si e)) =
      .next (s.finish si w.len.size (act si (si.exec w) (looked s si sp (asks si (si.exec w))) places)) := by
  rw [issueTeam_goes _ h g, checked_passes hpass]

end Sys2Proof.Machine
end

section
/-! PROOFS. Loads, stores, atomics and reductions that pass their checks join the team's accesses (05 R131; 08 R237 to R239). -/

namespace Sys2Proof.Machine

open Sys2Proof Host Spec

/-! An operation behind the team's others. -/

theorem Team.enqueue_keepsRegs (t : Team) (p : Pend) : keepsRegs t (t.enqueue p) := by
  unfold Team.enqueue
  cases p.flag <;> exact ⟨rfl, rfl, rfl, rfl, rfl, rfl, rfl, rfl, rfl, rfl, rfl, rfl, rfl⟩

theorem Team.enqueue_pend (t : Team) (p : Pend) : (t.enqueue p).pend = t.pend ++ [p] := by
  unfold Team.enqueue
  cases p.flag <;> rfl

theorem Team.enqueue_flag (t : Team) (p : Pend) (f : Nat) :
    (t.enqueue p).flag f = t.flag f + (if p.flag = some f then 1 else 0) := by
  unfold Team.enqueue
  cases p.flag with
  | none => rfl
  | some g =>
    refine (Tbl.get_put 0 t.w g f (t.flag g + 1)).trans ?_
    by_cases hf : f = g
    · simp [hf]
    · simp [hf, Ne.symm hf, Team.flag]

/-- The team has gone on with the operation behind its others, in a state whose memory is that of `s`. -/
theorem issuedAs_enqueue {s s' : State} {si : Site} (w : Ins) (p : Pend) (hmem : s'.mem = s.mem) :
    issuedAs s si (s'.goneOn si w (si.team.enqueue p)) p := by
  obtain ⟨u, hu, hplace⟩ := goneOn_leaves s' si w (si.team.enqueue p)
  rw [Team.PlaceOnly] at hplace
  refine ⟨u, hu, ?_, ?_, hmem, fun f => ?_⟩ <;> rw [hplace]
  · exact si.team.enqueue_keepsRegs p
  · exact si.team.enqueue_pend p
  · exact si.team.enqueue_flag p f

/-! Items and their places. -/

/-- Each item has the thread and the place of the access it was made for. -/
def standAt (items : List MemItem) (places : List (Nat × Place)) : Prop := items.map (fun x => (x.tid, x.place)) = places

/-- No place is at a peer. -/
def allHere (places : List (Nat × Place)) : Prop := ∀ x ∈ places, ∃ ks, x.2 = Place.here ks

theorem isRemote_of_allHere {items : List MemItem} {places : List (Nat × Place)} (hitems : standAt items places)
    (hhere : allHere places) : ∀ x ∈ items, x.isRemote = false := by
  intro x hx
  obtain ⟨ks, hks⟩ := hhere (x.tid, x.place) (hitems ▸ List.mem_map.mpr ⟨x, hx, rfl⟩)
  have hplace : x.place = .here ks := hks
  rw [MemItem.isRemote, hplace]

/-- No WINF of the team holds accesses whose remote ones meet none. -/
theorem winfHolds_of_standAt {si : Site} {items : List MemItem} {places : List (Nat × Place)} (hitems : standAt items places)
    (hwinf : si.team.winfHolds = true → allHere places) : winfHolds si items = false := by
  unfold winfHolds
  cases hholds : si.team.winfHolds with
  | false => exact Bool.and_false _
  | true =>
    rw [Bool.and_true, List.any_eq_false]
    exact fun x hx => Bool.eq_false_iff.mp (isRemote_of_allHere hitems (hwinf hholds) x hx)

theorem standAt_loadItems (w : Ins) (si : Site) (places : List (Nat × Place)) : standAt (loadItems w si places) places := by
  simp only [standAt, loadItems, List.map_map]
  exact List.zipIdx_map_fst 0 places

theorem standAt_atomItems (s : State) (si : Site) (w : Ins) (places : List (Nat × Place)) :
    standAt (atomItems s si w places) places := by
  simp only [standAt, atomItems, List.map_map]
  exact List.map_id places

theorem standAt_storeItems (s : State) (si : Site) (w : Ins) {wants : List Want} {places : List (Nat × Place)}
    (hlength : places.length = wants.length) : standAt (storeItems s si w wants places) places := by
  have hplaces : ((wants.zip places).zipIdx.map (·.1)).map (·.2) = places := by
    rw [List.zipIdx_map_fst, List.map_snd_zip hlength.le]
  rw [List.map_map] at hplaces
  simp only [standAt, storeItems, List.map_map]
  exact hplaces

/-- A place for each want. -/
theorem State.check_length {s : State} {r : Reach} {sp : Space} {acc : Acc} {wants : List Want} {places : List (Nat × Place)}
    (h : s.check r sp acc wants = .ok places) : places.length = wants.length := by
  unfold State.check at h
  dsimp only at h
  repeat' split at h
  all_goals cases h
  exact List.length_map ..

/-! Items are sent, and wait for their turn. -/

/-- Sending the remote items of a load changes the streams alone. -/
theorem State.sendLoads_frame (s : State) (who : OwnerRef) (id : Nat) (items : List MemItem) :
    s.sendLoads who id items = { s with streams := (s.sendLoads who id items).streams } := by
  induction items generalizing s with
  | nil => rfl
  | cons x xs ih =>
    rw [State.sendLoads]
    split
    · exact ih s
    · exact (ih _).trans rfl

theorem State.sendStores_local (s : State) (who : OwnerRef) {items : List MemItem} (h : ∀ x ∈ items, x.isRemote = false) :
    s.sendStores who items = (0, s) := by
  induction items with
  | nil => rfl
  | cons x xs ih =>
    have hx := h x List.mem_cons_self
    rw [State.sendStores]
    split
    · exact ih fun y hy => h y (List.mem_cons_of_mem _ hy)
    next hplace =>
      rw [MemItem.isRemote, hplace] at hx
      cases hx

/-- What a load of this instruction's type does. -/
def loadAct (w : Ins) : MemAct := .load (w.ty.getD .n8).signed (elemBytes w) (partElems w) (32 * elemRegs w)

section Issue

variable {s s' : State} {si : Site} {w : Ins} {places : List (Nat × Place)} (h : s'.team? si.core si.slot = some si.team)

include h

theorem issueLoad_issues (o : Op) (hwinf : si.team.winfHolds = true → allHere places) :
    ∃ t p, s.finish si w.len.size (issueLoad o w si s' places) = t ∧ issuedAs s' si t p ∧ p.flag = si.flagOf w ∧
      actsOn p (loadAct w) (memHint w) places := by
  have hitems := standAt_loadItems w si places
  let sent := s'.newId.2.sendLoads si.team.owner s'.newId.1 (loadItems w si places)
  have hsent : sent = _ := State.sendLoads_frame ..
  have hteam : sent.team? si.core si.slot = some si.team := by
    rw [hsent]
    exact h
  have hmem : sent.mem = s'.mem := by rw [hsent]; rfl
  rw [issueLoad, winfHolds_of_standAt hitems hwinf, if_neg Bool.false_ne_true]
  exact ⟨_, _, State.finish_onTeam_of_team hteam s w _, issuedAs_enqueue w _ hmem, rfl, _, rfl, hitems⟩

theorem issueStore_issues (hint : Nat) (act : MemAct) {items : List MemItem} (hitems : standAt items places)
    (hhere : allHere places) :
    ∃ t p, s.finish si w.len.size (issueStore s' si hint act items) = t ∧ issuedAs s' si t p ∧ p.flag = none ∧
      actsOn p act hint places := by
  have hlocal := isRemote_of_allHere hitems hhere
  have hfilter : items.filter (fun x => !x.isRemote) = items := List.filter_eq_self.mpr fun x hx => by rw [hlocal x hx]; rfl
  have hteam : s'.newId.2.team? si.core si.slot = some si.team := h
  rw [issueStore, winfHolds_of_standAt hitems fun _ => hhere, if_neg Bool.false_ne_true]
  simp only [State.sendStores_local _ _ hlocal, hfilter, beq_self_eq_true, if_true]
  exact ⟨_, _, State.finish_onTeam_of_team hteam s w _, issuedAs_enqueue w _ rfl, rfl, _, rfl, hitems⟩

theorem issueAtom_issues (act : MemAct) {items : List MemItem} (hitems : standAt items places) :
    ∃ t p, s.finish si w.len.size (.done (s'.newId.2.onTeam si fun t => t.enqueue
        { id := s'.newId.1, flag := si.flagOf w, work := .mem act (memHint w) items []
          dst := dstCodes .atom w t.threads })) = t ∧
      issuedAs s' si t p ∧ p.flag = si.flagOf w ∧ actsOn p act (memHint w) places := by
  have hteam : s'.newId.2.team? si.core si.slot = some si.team := h
  exact ⟨_, _, State.finish_onTeam_of_team hteam s w _, issuedAs_enqueue w _ rfl, rfl, _, rfl, hitems⟩

end Issue

/-! The instructions. -/

theorem passes_winf {s : State} {si : Site} {sp : Space} {acc : Acc} {wants : List Want} {places : List (Nat × Place)}
    (h : passes s si sp acc wants places) : si.team.winfHolds = true → allHere places := by
  obtain ⟨_, -, -, -, hwinf⟩ := h
  exact hwinf

theorem passes_length {s : State} {si : Site} {sp : Space} {acc : Acc} {wants : List Want} {places : List (Nat × Place)}
    (h : passes s si sp acc wants places) : places.length = wants.length := by
  obtain ⟨_, -, -, hcheck, -⟩ := h
  exact State.check_length hcheck

section Instructions

variable {s : State} {si : Site} {w : Ins} {places : List (Nat × Place)} (h : s.site? = some si)

include h

theorem looked_site {sp : Space} {wants : List Want} : (looked s si sp wants).team? si.core si.slot = some si.team :=
  (looked_team? ..).trans (State.site?_team h)

/-- Loads whose accesses pass the checks are issued on their places. -/
theorem issueTeam_load {o : Op} {asks : Site → TMask → List Want} (g : si.goes s o w = true)
    (hpass : passes s si (memSpace w) .load (asks si (si.exec w)) places) :
    ∃ t p, issueTeam o w s (fun si e => checked s si (memSpace w) .load (asks si e) (issueLoad o w si)) = .next t ∧
      issuedAs (looked s si (memSpace w) (asks si (si.exec w))) si t p ∧ p.flag = si.flagOf w ∧
      actsOn p (loadAct w) (memHint w) places := by
  obtain ⟨_, p, rfl, hissued⟩ := issueLoad_issues (s := s) (w := w) (looked_site h) o (passes_winf hpass)
  exact ⟨_, p, issueTeam_checked h g hpass, hissued⟩

/-- So are local stores and reductions. -/
theorem issueTeam_store {o : Op} {acc : Acc} {act : MemAct} {asks : Site → TMask → List Want}
    {items : Site → TMask → List (Nat × Place) → List MemItem} (g : si.goes s o w = true)
    (hpass : passes s si (memSpace w) acc (asks si (si.exec w)) places) (hhere : allHere places)
    (hitems : standAt (items si (si.exec w) places) places) :
    ∃ t p, issueTeam o w s (fun si e => checked s si (memSpace w) acc (asks si e) fun s' places =>
        issueStore s' si (memHint w) act (items si e places)) = .next t ∧
      issuedAs (looked s si (memSpace w) (asks si (si.exec w))) si t p ∧ p.flag = none ∧ actsOn p act (memHint w) places := by
  obtain ⟨_, p, rfl, hissued⟩ := issueStore_issues (s := s) (w := w) (looked_site h) (memHint w) act hitems hhere
  exact ⟨_, p, issueTeam_checked h g hpass, hissued⟩

theorem ld_issues (g : si.goes s .ld w = true) (hpass : passes s si (memSpace w) .load (wantsOf w s si) places) :
    ∃ t p, exec (.ld w) s = .next t ∧ issuedAs (looked s si (memSpace w) (wantsOf w s si)) si t p ∧ p.flag = si.flagOf w ∧
      actsOn p (loadAct w) (memHint w) places :=
  issueTeam_load (asks := fun si e => memAsks s si w (threadsOf si.team.threads e)) h g hpass

theorem ldu_issues (g : si.goes s .ldu w = true)
    (hpass : passes s si (memSpace w) .load (wantsOfFirst w s si) places) :
    ∃ t p, exec (.ldu w) s = .next t ∧ issuedAs (looked s si (memSpace w) (wantsOfFirst w s si)) si t p ∧
      p.flag = si.flagOf w ∧ actsOn p (loadAct w) (memHint w) places :=
  issueTeam_load (asks := fun si e => memAsks s si w ((threadsOf si.team.threads e).take 1)) h g hpass

theorem st_issues (g : si.goes s .st w = true) (hpass : passes s si (memSpace w) .store (wantsOf w s si) places)
    (hhere : allHere places) :
    ∃ t p, exec (.st w) s = .next t ∧ issuedAs (looked s si (memSpace w) (wantsOf w s si)) si t p ∧ p.flag = none ∧
      actsOn p .store (memHint w) places :=
  issueTeam_store (asks := fun si e => memAsks s si w (threadsOf si.team.threads e))
    (items := fun si e => storeItems s si w (memAsks s si w (threadsOf si.team.threads e))) h g hpass hhere
    (standAt_storeItems s si w (passes_length hpass))

theorem red_issues (g : si.goes s .red w = true) (hpass : passes s si (memSpace w) .atomic (atomWants w s si) places)
    (hhere : allHere places) :
    ∃ t p, exec (.red w) s = .next t ∧ issuedAs (looked s si (memSpace w) (atomWants w s si)) si t p ∧ p.flag = none ∧
      actsOn p (.atomic (w.m 58 54) (w.ty.getD .n32) false) (memHint w) places :=
  issueTeam_store (asks := fun si e => (threadsOf si.team.threads e).map fun t =>
    atomWant w (effAddr s si w (memSpace w) false t) t) (items := fun si _ => atomItems s si w) h g hpass hhere
    (standAt_atomItems s si w places)

/-- An atomic that returns nothing is issued as a reduction is, any other as a load is. -/
theorem atom_issues (g : si.goes s .atom w = true) (hpass : passes s si (memSpace w) .atomic (atomWants w s si) places)
    (hhere : allHere places) :
    ∃ t p, exec (.atom w) s = .next t ∧ issuedAs (looked s si (memSpace w) (atomWants w s si)) si t p ∧
      p.flag = (if w.d = .z then none else si.flagOf w) ∧
      actsOn p (.atomic (w.m 58 54) (w.ty.getD .n32) (w.d != .z)) (memHint w) places := by
  have hitems := standAt_atomItems s si w places
  have hexec : execAtom w s = _ := issueTeam_checked h g hpass
  by_cases hd : w.d = .z
  · obtain ⟨_, p, rfl, hissued⟩ := issueStore_issues (s := s) (w := w) (looked_site h) (memHint w)
      (.atomic (w.m 58 54) (w.ty.getD .n32) (w.d != .z)) hitems hhere
    rw [if_pos hd]
    rw [beq_iff_eq.mpr hd, if_pos rfl] at hexec
    exact ⟨_, p, hexec, hissued⟩
  · obtain ⟨_, p, rfl, hissued⟩ := issueAtom_issues (s := s) (w := w) (looked_site h)
      (.atomic (w.m 58 54) (w.ty.getD .n32) (w.d != .z)) hitems
    rw [if_neg hd]
    rw [beq_false_of_ne hd, if_neg Bool.false_ne_true] at hexec
    exact ⟨_, p, hexec, hissued⟩

end Instructions

end Sys2Proof.Machine
end

section
/-! PROOFS. AccessesComplete (08 R237 to R239) where no two crumbs share a set of the L2. The set is a free value without a body
(02 R40; log 13), so that no proof can say whether they do. -/

namespace Sys2Proof.Machine

open Sys2Proof Host Spec

/-! Nothing leaves the L2 to make room. -/

section Injective

variable (hset : Function.Injective Config.setIndex)

include hset

theorem State.setLines_of_miss {s : State} {crumb : Nat} (hmiss : s.lines.get? crumb = none) (slice : Nat) :
    s.setLines slice (Config.setIndex crumb) = [] := by
  refine List.filter_eq_nil_iff.mpr fun x hx hmeets => ?_
  have hcrumb : x.1 = crumb := hset (beq_iff_eq.mp (Bool.and_eq_true_iff.mp hmeets).2)
  have hhit := Tbl.get?_isSome_of_mem hx
  rw [hcrumb, hmiss] at hhit
  cases hhit

theorem State.fillWay_evictsNone {s : State} {slice crumb vd : Nat} {x : Nat × Option Nat × Bool}
    (hmiss : s.lines.get? crumb = none) (hway : s.fillWay slice crumb vd = some x) : x.2.1 = none := by
  have hempty := State.setLines_of_miss hset hmiss slice
  unfold State.fillWay State.poolWay at hway
  simp only [hempty, List.filter_nil, List.find?_nil, pickVictim, Option.map_none] at hway
  repeat' split at hway
  all_goals cases hway
  all_goals rfl

theorem State.fillLine_mem {s t : State} {vd hint crumb : Nat} {tile : Bool} (hmiss : s.lines.get? crumb = none)
    (hfill : s.fillLine vd hint tile crumb = some t) : t.mem = s.mem := by
  obtain ⟨x, hway, rfl⟩ := Option.map_eq_some_iff.mp hfill
  rw [State.fillWay_evictsNone hset hmiss hway]

theorem State.touchCrumb_mem (s : State) (vd hint crumb : Nat) (demand : Bool) :
    (s.touchCrumb vd hint crumb demand).mem = s.mem := by
  unfold State.touchCrumb
  split
  · rfl
  next hmiss =>
    split
    next hfill => exact State.fillLine_mem hset hmiss hfill
    next => split <;> rfl

theorem State.fillTileLines_mem {vd hint : Nat} {l : List Nat} {s t : State} (h : s.fillTileLines vd hint l = some t) :
    t.mem = s.mem := by
  induction l generalizing s with
  | nil => exact congrArg State.mem (Option.some.inj h).symm
  | cons c cs ih =>
    rw [State.fillTileLines] at h
    split at h
    next => exact (ih h :)
    next hmiss =>
      split at h
      next hfill => exact (ih h).trans (State.fillLine_mem hset hmiss hfill)
      next => cases h

theorem State.touchTile_mem (s : State) (vd hint crumb : Nat) (demand : Bool) :
    (s.touchTile vd hint crumb demand).mem = s.mem := by
  have hresident (t : State) (tile : Nat) : (t.fillTile tile).mem = t.mem := by
    unfold State.fillTile
    split <;> rfl
  unfold State.touchTile
  dsimp only
  split
  next => rfl
  next =>
    split
    next hfill => exact (hresident _ _).trans (State.fillTileLines_mem hset hfill)
    next => split <;> rfl

theorem State.touch_mem_of_injective (s : State) (vd hint : Nat) (keys : List Nat) : (s.touch vd hint keys).mem = s.mem := by
  refine foldl_keeps (fun t : State => t.mem = s.mem) _ (fun t x ht => Eq.trans ?_ ht) _ s rfl
  unfold State.touchAny
  split
  · exact State.touchTile_mem hset ..
  · exact State.touchCrumb_mem hset ..

theorem State.walkedOn_mem (s : State) (die : Nat) (core : Option Nat) (cx : CtxId) (va : Nat) :
    (s.walkedOn die core cx va).mem = s.mem := by
  unfold State.walkedOn
  dsimp only
  split
  next c _ _ _ =>
    have hreads : ((walkReads s va levels c.root).foldl (fun s pa => s.touch cx.vd 0 [pa]) s).mem = s.mem :=
      foldl_keeps (fun t : State => t.mem = s.mem) _ (fun t pa ht => (t.touch_mem_of_injective hset ..).trans ht) _ s rfl
    cases core <;> exact hreads
  next => rfl

theorem looked_mem_of_injective (s : State) (si : Site) (sp : Space) (wants : List Want) :
    (looked s si sp wants).mem = s.mem := by
  unfold looked State.walkedFor State.walkedAll
  split
  · split
    · exact foldl_keeps (fun t : State => t.mem = s.mem) _ (fun t p ht => (t.walkedOn_mem hset ..).trans ht) _ s rfl
    · rfl
  · rfl

/-- With one set for each crumb, AccessesComplete holds. -/
theorem accessesComplete_of_injective : Obligations.AccessesComplete := by
  intro w s si places h sp ty act
  exact ⟨fun l _ => looked_mem_of_injective hset s si sp l, fun _ g hpass => ld_issues h g hpass,
    fun _ g hpass => ldu_issues h g hpass, fun _ g hpass hhere => st_issues h g hpass hhere,
    fun _ g hpass hhere => atom_issues h g hpass hhere, fun _ g hpass hhere => red_issues h g hpass hhere⟩

end Injective

end Sys2Proof.Machine
end

section
/-! PROOFS. AccessesComplete (08 R237 to R239) where two crumbs of one tile share a set of the L2: a root table among the keys of
tiles, which the statement does not shut out, has the walker write the tile back (02 R40, R46; 15 R409, R413). -/

namespace Sys2Proof.Machine

open Sys2Proof Host Spec

/-- A line of the given way that is not a tile's. -/
def plainLine (way : Nat) : Line :=
  { way := way, prio := 1, vd := 0, pin := none, lent := false, lastEl := 0, excl := none, tile := false, wts := 0, rts := 0 }

/-- The key of byte 0x1000 of the compressed pages. -/
def tileRoot : Nat := 2 ^ 45 + 0x1000

/-- A team acts in a context whose root table stands at tileRoot and maps its lowest 2^30 bytes. Tile 16, which holds the root's
first entry, is resident with a crumb to be written back, and its slice has way 0 alone for the tile's lines; no line is a
tile's. -/
def rootInTile : State :=
  let s := State.reset.withTeamAt []
  { s with
    ctxs := s.ctxs.map fun x => (x.1, { x.2 with root := tileRoot })
    mem := [(0x2000, 0x1F), (tileRoot, 1), (tileRoot + 1, 0x20)]
    wayqs := [(16 * 64, 1)]
    lines := [(66, plainLine 1), (67, plainLine 1), (128, plainLine 1)]
    tiles := [(16, { bytes := List.replicate 256 7, dirty := [true, false, false, false] })] }

/-- The first crumb of the tile has its line. -/
def oneFilled : State :=
  { rootInTile with lines := [(64, { plainLine 0 with tile := true })] ++ rootInTile.lines }

/-- A state once its line of the tile's first crumb has made room for the second. -/
def State.secondFilled (s : State) : State :=
  let t := s.evictCrumb 64
  { t with lines := t.lines.set 65 { plainLine 0 with tile := true, lastEl := t.fab, wts := t.lts, rts := t.lts } }

/-- The tile is filled: its first crumb's line is gone, and the tile has been written back on the way. -/
def tileFilled : State := ((oneFilled.secondFilled.fillTileLines 0 0 [66, 67]).getD oneFilled).fillTile 16

theorem oneFilled_fillLine (hset : Config.setIndex 64 = Config.setIndex 65) :
    oneFilled.fillLine 0 0 true 65 = some oneFilled.secondFilled := by
  have hlines : oneFilled.setLines 64 (Config.setIndex 65) = [(64, { plainLine 0 with tile := true })] := by
    refine (List.filter_cons_of_pos ?_).trans (congrArg (List.cons _) rfl)
    exact Bool.and_eq_true_iff.mpr ⟨by decide +kernel, beq_iff_eq.mpr hset⟩
  have hway : oneFilled.fillWay (crumbSlice true 65) 65 0 = some (0, some 64, false) := by
    have hslice : crumbSlice true 65 = 64 := by decide +kernel
    rw [hslice]
    unfold State.fillWay
    simp only [hlines]
    decide +kernel
  rw [State.fillLine, hway]
  rfl

theorem rootInTile_fillTileLines (hset : Config.setIndex 64 = Config.setIndex 65) :
    rootInTile.fillTileLines 0 0 [64, 65, 66, 67] = oneFilled.secondFilled.fillTileLines 0 0 [66, 67] := by
  have hfirst : rootInTile.fillLine 0 0 true 64 = some oneFilled := rfl
  have hmiss : rootInTile.lines.get? 64 = none := by decide +kernel
  have hmiss' : oneFilled.lines.get? 65 = none := by decide +kernel
  simp only [State.fillTileLines, hmiss, hfirst, hmiss', oneFilled_fillLine hset]

theorem rootInTile_touchTile (hset : Config.setIndex 64 = Config.setIndex 65) :
    rootInTile.touchTile 0 0 64 true = tileFilled := by
  have hmiss : rootInTile.lines.get? 64 = none := by decide +kernel
  have hfilled : (oneFilled.secondFilled.fillTileLines 0 0 [66, 67]).isSome = true := by decide +kernel
  obtain ⟨t, ht⟩ := Option.isSome_iff_exists.mp hfilled
  have hfill := (rootInTile_fillTileLines hset).trans ht
  have htile : tileFilled = t.fillTile 16 := by rw [tileFilled, ht, Option.getD_some]
  simp only [State.touchTile, hmiss, hfill, htile, Nat.reduceDiv, Nat.reduceMul, Nat.reduceAdd]
  cases rootInTile.tiles.get? 16 <;> rfl

/-- A walk writes what its reads of the tables write back. -/
theorem State.walkedOn_mem_of_leaf {s : State} {cx : CtxId} {va level pte : Nat} {c : Ctx}
    (htlb : s.tlbEntry cx (va / 65536) = none) (hleaf : s.leafOf? cx va = some (level, pte)) (hctx : s.ctx? cx = some c)
    (die : Nat) (core : Option Nat) :
    (s.walkedOn die core cx va).mem = ((walkReads s va levels c.root).foldl (fun s pa => s.touch cx.vd 0 [pa]) s).mem := by
  simp only [State.walkedOn, htlb, hleaf, hctx]
  cases core <;> rfl

/-- The walk for address 0 reads the root in the tile, and the table at 0x2000, whose crumb has its line. -/
theorem rootInTile_walked (hset : Config.setIndex 64 = Config.setIndex 65) :
    (rootInTile.walked 0 ⟨0, 0⟩ 0).mem = (tileFilled.touch 0 0 [0x2000]).mem := by
  have htlb : rootInTile.tlbEntry ⟨0, 0⟩ (0 / 65536) = none := by decide +kernel
  have hleaf : rootInTile.leafOf? ⟨0, 0⟩ 0 = some (1, 0x1F) := by decide +kernel
  have hctx : rootInTile.ctx? ⟨0, 0⟩ = some { Ctx.init with root := tileRoot } := by decide +kernel
  have hreads : walkReads rootInTile 0 levels tileRoot = [tileRoot, 0x2000] := by decide +kernel
  have htouch : rootInTile.touch 0 0 [tileRoot] = tileFilled := rootInTile_touchTile hset
  refine (State.walkedOn_mem_of_leaf htlb hleaf hctx ..).trans ?_
  rw [hreads, List.foldl_cons, List.foldl_cons, List.foldl_nil, htouch]

/-- The access of byte 0, which the walk is made for. -/
def atZero : List Want := [{ tid := 0, ea := 0, len := 1, align := 1 }]

theorem rootInTile_walkedFor (hset : Config.setIndex 64 = Config.setIndex 65) :
    (rootInTile.walkedFor 0 ⟨0, 0⟩ .g atZero).mem.read 0x1000 = 7 := by
  have hlocal : (rootInTile.remoteOf ⟨0, 0⟩ 0).isNone = true := by decide +kernel
  have hwalked : rootInTile.walkedFor 0 ⟨0, 0⟩ .g atZero = rootInTile.walked 0 ⟨0, 0⟩ 0 := by
    simp [State.walkedFor, State.walkedAll, atZero, hlocal]
  rw [hwalked, rootInTile_walked hset]
  decide +kernel

/-- With crumbs 64 and 65, of tile 16, in one set, AccessesComplete fails. -/
theorem not_accessesComplete_of_setIndex (hset : Config.setIndex 64 = Config.setIndex 65) : ¬ Obligations.AccessesComplete := by
  intro h
  have hteam : (rootInTile.site?.any fun si =>
      si.core == 0 && (rootInTile.reachOf si.team).any fun r => r.cx == ⟨0, 0⟩) = true := by decide +kernel
  obtain ⟨si, hsite, hsi⟩ := (Option.any_eq_true ..).mp hteam
  obtain ⟨hcore, hreach⟩ := Bool.and_eq_true_iff.mp hsi
  obtain ⟨r, hr, hcx⟩ := (Option.any_eq_true ..).mp hreach
  have hlines : noTileLines rootInTile := List.forall_mem_cons.mpr ⟨rfl, List.forall_mem_cons.mpr ⟨rfl,
    List.forall_mem_singleton.mpr rfl⟩⟩
  have hlooked : looked rootInTile si .g atZero = rootInTile.walkedFor 0 ⟨0, 0⟩ .g atZero := by
    simp only [looked, hr, beq_iff_eq.mp hcore, beq_iff_eq.mp hcx]
  obtain ⟨hkept, -⟩ := h Spec.blank rootInTile si [] hsite
  have hmem : (looked rootInTile si .g atZero).mem = rootInTile.mem := hkept atZero hlines
  have hseven := rootInTile_walkedFor hset
  rw [← hlooked, hmem] at hseven
  exact absurd hseven (by decide +kernel)

end Sys2Proof.Machine
end

section
/-! PROOFS. Prefetches, cache control and message ports (08 R240, R241, R246 to R250). -/

namespace Sys2Proof.Machine

open Sys2Proof Host Spec

/-! PRF (R241). -/

/-- The keys that PRF's executing threads may ask for, of a team of the given reach. -/
def prfKeys (w : Ins) (s : State) (si : Site) (r : Reach) : List Nat :=
  (threadsOf si.team.threads (si.exec w)).filterMap fun tid => s.prefetchKey r (effAddr s si w .g true tid)

/-- The state once their crumbs have been asked for. -/
def prefetched (w : Ins) (s : State) (si : Site) (r : Reach) : State :=
  let s' := (crumbsOf (prfKeys w s si r)).foldl (fun s c => s.touchAny r.cx.vd (memHint w) false c) s
  if w.mb 54 then s'.prefetchL1 si.core (prfKeys w s si r) else s'

theorem State.prefetchL1_beyondAccess (s : State) (core : Nat) (keys : List Nat) :
    (s.prefetchL1 core keys).beyondAccess = s.beyondAccess := by
  refine State.beyondAccess_foldl (fun s c => ?_) _ s
  dsimp only
  split
  · exact State.grantLease_beyondAccess ..
  · rfl

theorem State.prefetchL1_mem (s : State) (core : Nat) (keys : List Nat) : (s.prefetchL1 core keys).mem = s.mem := by
  refine foldl_keeps (fun t : State => t.mem = s.mem) _ (fun t c h => ?_) _ s rfl
  dsimp only
  split
  · exact (State.grantLease_mem ..).trans h
  · exact h

theorem State.touchAny_beyondAccess (s : State) (vd hint : Nat) (demand : Bool) (x : Nat × Bool) :
    (s.touchAny vd hint demand x).beyondAccess = s.beyondAccess := by
  unfold State.touchAny
  split
  · exact State.touchTile_beyondAccess ..
  · exact State.touchCrumb_beyondAccess ..

theorem prefetched_beyondAccess (w : Ins) (s : State) (si : Site) (r : Reach) :
    (prefetched w s si r).beyondAccess = s.beyondAccess := by
  have htouched := State.beyondAccess_foldl (fun s => s.touchAny_beyondAccess r.cx.vd (memHint w) false)
    (crumbsOf (prfKeys w s si r)) s
  unfold prefetched
  dsimp only
  split
  · exact (State.prefetchL1_beyondAccess ..).trans htouched
  · exact htouched

theorem prefetched_mem {w : Ins} {s : State} {si : Site} {r : Reach} (h : noTileLines s)
    (hkeys : ∀ k ∈ prfKeys w s si r, isTileKey k = false) : (prefetched w s si r).mem = s.mem := by
  have htouched := (State.touchAll_keptPlain h r.cx.vd (memHint w) false (crumbsOf_plain hkeys)).2
  unfold prefetched
  dsimp only
  split
  · exact (State.prefetchL1_mem ..).trans htouched
  · exact htouched

theorem exec_prf {s : State} {si : Site} {w : Ins} (h : s.site? = some si) (g : si.goes s .prf w = true) :
    exec (.prf w) s = .next ((match s.reachOf si.team with
      | some r => prefetched w s si r
      | none => s).goneOn si w si.team) := by
  show execPrf w s = _
  refine (issueTeam_goes _ h g).trans (congrArg _ ?_)
  cases hreach : s.reachOf si.team with
  | none =>
    dsimp only
    exact State.finish_done h w
  | some r =>
    have hteam := State.team?_of_beyondAccess (prefetched_beyondAccess w s si r) si.core si.slot
    dsimp only
    exact State.finish_done_of_team (hteam.trans (State.site?_team h)) s w

theorem prf_acts {s : State} {si : Site} {w : Ins} (h : s.site? = some si) (g : si.goes s .prf w = true) :
    ∃ s' : State, exec (.prf w) s = .next (s'.goneOn si w si.team) ∧ s'.beyondAccess = s.beyondAccess ∧
      (noTileLines s → (∀ r, s.reachOf si.team = some r → ∀ tid ∈ threadsOf si.team.threads (si.exec w),
        ∀ k, s.prefetchKey r (effAddr s si w .g true tid) = some k → isTileKey k = false) → s'.mem = s.mem) := by
  refine ⟨_, exec_prf h g, ?_⟩
  split
  next r hreach =>
    refine ⟨prefetched_beyondAccess w s si r, fun hlines hkeys => prefetched_mem hlines fun k hk => ?_⟩
    obtain ⟨tid, htid, hkey⟩ := List.mem_filterMap.mp hk
    exact hkeys r hreach tid htid k hkey
  next => exact ⟨rfl, fun _ _ => rfl⟩

/-! CCTL (R240). -/

/-- The first byte of each thread's place, with the thread. -/
def cctlItems (places : List (Nat × Place)) : List (Nat × Nat) :=
  places.filterMap fun x => match x.2 with
    | .here (k :: _) => some (x.1, k)
    | _ => none

theorem mem_cctlItems {places : List (Nat × Place)} {tid k : Nat} {ks : List Nat} (h : (tid, Place.here (k :: ks)) ∈ places) :
    (tid, k) ∈ cctlItems places := List.mem_filterMap.mpr ⟨_, h, rfl⟩

theorem exec_cctl {s : State} {si : Site} {w : Ins} {places : List (Nat × Place)} (h : s.site? = some si)
    (g : si.goes s .cctl w = true) :
    let wants : List Want := (threadsOf si.team.threads (si.exec w)).map fun tid =>
      { tid := tid, ea := effAddr s si w .g true tid, len := 1, align := 1 }
    passes s si .g .cctl wants places →
    let s' := (looked s si .g wants).newId
    exec (.cctl w) s = .next (blockedBehind s'.2 si w (si.team.enqueue
      { id := s'.1, flag := none, dst := []
        work := .cctl (w.m 51 49) si.entry (cctlItems places) (predOf w) (si.team.writeMask w) w.zero }) .cctl) := by
  intro wants hpass s'
  have hteam : s'.2.team? si.core si.slot = some si.team := (looked_team? s si .g wants ..).trans (State.site?_team h)
  have hcount (t : Team) : t.count si s'.2 = t.count si s := Team.count_of_beyondWalk (looked_beyondWalk s si .g wants) t si
  show execCctl w s = _
  refine (issueTeam_checked h g hpass).trans (congrArg _ ?_)
  refine (State.finish_block_of_team hteam s w.len.size _ .cctl).trans ?_
  rw [blockedBehind, hcount]
  rfl

/-! Message ports (R246 to R250). -/

theorem exec_msend {s : State} {si : Site} {w : Ins} {gang : Gang} {l : Launch} {a : Nat} (h : s.site? = some si)
    (g : si.goes s .msend w = true) (hgang : s.gang? si.team.gang = some gang) (hlaunch : s.launchOf si.team = some l)
    (ha : w.a = .s a) :
    let dst := rd64 s si.core si.team 0 w.b
    let port := w.m 50 49
    dst < 2 ^ 34 → bits dst 33 32 < gang.size → dst % 2 ^ 32 < l.record.gangs → (gang.txq si.team.member port).length < 8 →
    let s₁ := s.drainTeam si.core si.slot
    exec (.msend w) s = .next ((s₁.setGang si.team.gang { gang with
      tx := gang.tx.set (4 * si.team.member + port) (gang.txq si.team.member port ++
        [{ words := (List.range 8).map fun i => si.team.sreg (a + i), gang := dst % 2 ^ 32, member := bits dst 33 32
           ts := s₁.lts }]) }).retireIns si w.len.size) := by
  intro dst port (hdst : s.uni64 si w.b < 2 ^ 34) (hmember : bits (s.uni64 si w.b) 33 32 < gang.size)
    (hgangs : s.uni64 si w.b % 2 ^ 32 < l.record.gangs) hroom s₁
  have hrange : (s.uni64 si w.b / 2 ^ 34 != 0 || decide (gang.size ≤ bits (s.uni64 si w.b) 33 32) ||
      decide (l.record.gangs ≤ s.uni64 si w.b % 2 ^ 32)) = false := by
    rw [Nat.div_eq_of_lt hdst, decide_eq_false (Nat.not_le.mpr hmember), decide_eq_false (Nat.not_le.mpr hgangs)]
    rfl
  have hfree : ¬ 8 ≤ (gang.txq si.team.member (portOf w)).length := Nat.not_le.mpr hroom
  show execMsend w s = _
  refine (issueTeam_goes _ h g).trans (congrArg _ ?_)
  simp only [hgang, hlaunch, ha]
  rw [if_neg (Bool.eq_false_iff.mp hrange), if_neg hfree]
  rfl

theorem exec_mrecv {s : State} {si : Site} {w : Ins} {d : Nat} (h : s.site? = some si) (g : si.goes s .mrecv w = true)
    (hd : w.d = .s d) :
    let s₁ := s.drainTeam si.core si.slot
    let p : Pend := { id := s₁.nextId, flag := si.flagOf w, work := .mrecv (w.m 50 49) d
                      dst := dstCodes .mrecv w si.team.threads }
    exec (.mrecv w) s = .next (((s₁.newId.2.updTeam si.core si.slot fun t => t.enqueue p).matchFlits si.team.gang si.team.member
      (w.m 50 49) 8).retireIns si w.len.size) := by
  intro s₁ p
  obtain ⟨ps, hteam⟩ := State.drainTeam_team? (State.site?_team h)
  have hteam' : s₁.newId.2.team? si.core si.slot = some { si.team with pend := ps } := hteam
  show execMrecv w s = _
  refine (issueTeam_goes _ h g).trans (congrArg _ ?_)
  simp only [hd]
  rw [State.updTeam_of_team hteam', State.onTeam, State.updTeam_of_team hteam']
  rfl

theorem exec_mpoll {s : State} {si : Site} {w : Ins} {d : Nat} (h : s.site? = some si) (g : si.goes s .mpoll w = true)
    (hd : w.d = .s d) : exec (.mpoll w) s = .next (s.goneOn si w
      (si.team.setS d (BitVec.ofNat 32 (s.mpollWord si.team (w.m 50 49) % 2 ^ 32)))) := by
  show execMpoll w s = _
  refine (issueTeam_goes _ h g).trans (congrArg _ ?_)
  refine (State.finish_onTeam h w _).trans ?_
  simp only [Team.writeD, hd, halves]
  rfl

/-- Settles O26, instruction by instruction: the wrapper gives each its state behind the accesses that come before it. -/
theorem cacheHintsAndMessages : Obligations.CacheHintsAndMessages := by
  intro w s si h
  refine ⟨fun _ g => ?prf, fun places _ g => ?cctl, fun gang l a _ g hgang hlaunch ha => exec_msend h g hgang hlaunch ha,
    fun d _ g hd => exec_mrecv h g hd, fun d _ g hd => exec_mpoll h g hd⟩
  case prf =>
    obtain ⟨s', hexec, hbeyond, hmem⟩ := prf_acts h g
    exact ⟨s', hexec, (congrArg State.teams hbeyond :), (congrArg State.gangs hbeyond :), (congrArg State.locks hbeyond :),
      (congrArg State.faults hbeyond :), (congrArg State.sessions hbeyond :), hmem⟩
  case cctl =>
    intro wants hpass s'
    exact ⟨cctlItems places, exec_cctl h g hpass, fun _ _ _ => mem_cctlItems⟩

end Sys2Proof.Machine
end

section
/-! PROOFS. Accesses and page walks leave every core but its logical clock, its L1 and its TLB (02 R39, R48, R53): queues, event
records and control threads stand as they were. -/

namespace Sys2Proof.Machine

open Sys2Proof Host

/-- A core without its logical clock and its caches. -/
def Core.beyondCaches (c : Core) : Core := { c with lclk := 0, l1 := [], tlb := [] }

/-- Every core without its logical clock and its caches. -/
def State.beyondCaches (s : State) : Nat → Core := fun k => (s.coreOf k).beyondCaches

theorem State.beyondCaches_of_cores {s t : State} (h : t.cores = s.cores) : t.beyondCaches = s.beyondCaches := by
  unfold State.beyondCaches State.coreOf
  rw [h]

theorem State.beyondCaches_setCore {s t : State} {core : Nat} {x : Core} (ht : t.beyondCaches = s.beyondCaches)
    (hx : x.beyondCaches = t.beyondCaches core) : (t.setCore core x).beyondCaches = s.beyondCaches := by
  funext k
  rw [← ht]
  by_cases hk : k = core
  · rw [hk, State.beyondCaches, State.coreOf_setCore_self, hx]
  · rw [State.beyondCaches, State.coreOf_setCore_ne _ _ hk, State.beyondCaches]

theorem State.ctl_of_beyondCaches {s t : State} (h : t.beyondCaches = s.beyondCaches) : t.ctl = s.ctl :=
  funext fun k => (congrArg Core.ctl (congrFun h k) :)

/-! Loads and stores through the L1. -/

theorem State.grantLease_beyondCaches (s : State) (core crumb pc : Nat) (data : List Byte) :
    (s.grantLease core crumb pc data).beyondCaches = s.beyondCaches := by
  unfold State.grantLease
  dsimp only
  split
  · exact State.beyondCaches_setCore (State.beyondCaches_of_cores rfl) rfl
  · exact State.beyondCaches_setCore rfl rfl

theorem State.loadCrumb_beyondCaches (s : State) (via : Via) (crumb : Nat) :
    (s.loadCrumb via crumb).1.beyondCaches = s.beyondCaches := by
  unfold State.loadCrumb
  dsimp only
  split
  · exact State.beyondCaches_setCore rfl rfl
  · exact (State.grantLease_beyondCaches ..).trans (State.beyondCaches_of_cores (State.touch_cores ..))

theorem State.loadCrumbs_beyondCaches (s : State) (via : Via) (l : List Nat) :
    (s.loadCrumbs via l).1.beyondCaches = s.beyondCaches := by
  induction l generalizing s with
  | nil => rfl
  | cons c cs ih => exact (ih _).trans (s.loadCrumb_beyondCaches via c)

theorem State.loadKeys_beyondCaches (s : State) (via : Via) (keys : List Nat) :
    (s.loadKeys via keys).1.beyondCaches = s.beyondCaches := by
  unfold State.loadKeys
  split
  · rfl
  · exact s.loadCrumbs_beyondCaches via _

theorem State.storeKeys_beyondCaches (s : State) (via : Via) (thru : Bool) (keys : List Nat) (x : Nat) :
    (s.storeKeys via thru keys x).beyondCaches = s.beyondCaches := by
  have h : (((s.touch via.vd via.hint keys).writeKeys keys x).dirtyKeys thru keys).beyondCaches = s.beyondCaches :=
    State.beyondCaches_of_cores ((State.dirtyKeys_cores ..).trans ((State.writeKeys_cores ..).trans (State.touch_cores ..)))
  unfold State.storeKeys
  dsimp only
  split
  · exact h
  · exact State.beyondCaches_setCore h rfl

/-! Issued operations. -/

theorem State.performItem_beyondCaches (s : State) (via : Via) (act : MemAct) (x : MemItem) (keys : List Nat) :
    (s.performItem via act x keys).1.beyondCaches = s.beyondCaches := by
  cases act with
  | load sg n cnt b =>
    simp only [State.performItem]
    split <;> exact State.loadKeys_beyondCaches ..
  | store => exact State.storeKeys_beyondCaches ..
  | atomic op t ret =>
    have hw := fun x => (State.writeKeys_cores _ keys x).trans (s.touch_cores via.vd via.hint keys)
    exact State.beyondCaches_setCore (State.beyondCaches_of_cores ((State.dirtyKeys_cores _ x.thru keys).trans (hw _))) rfl

theorem State.performFirst_beyondCaches {s : State} {via : Via} {act : MemAct} {l : List MemItem}
    {y : State × List MemItem × List RegWrite} (h : s.performFirst via act l = some y) :
    y.1.beyondCaches = s.beyondCaches := by
  induction l generalizing y with
  | nil => cases h
  | cons x xs ih =>
    rw [State.performFirst] at h
    split at h
    · obtain ⟨z, hz, rfl⟩ := Option.map_eq_some_iff.mp h
      exact (ih hz :)
    · cases h
      exact State.performItem_beyondCaches ..

theorem State.performItems_beyondCaches (via : Via) (act : MemAct) (n : Nat) (s : State) (l : List MemItem)
    (ws : List RegWrite) : (State.performItems via act n s l ws).1.beyondCaches = s.beyondCaches := by
  induction n generalizing s l ws with
  | zero => rfl
  | succ n ih =>
    rw [State.performItems]
    split
    · exact (ih ..).trans (State.performFirst_beyondCaches ‹_›)
    · rfl

theorem State.performPend_beyondCaches (s : State) (core vd : Nat) (p : Pend) :
    (s.performPend core vd p).1.beyondCaches = s.beyondCaches := by
  unfold State.performPend State.performSome
  split
  · exact State.performItems_beyondCaches ..
  · rfl

theorem State.performAll_beyondCaches (s : State) (core vd : Nat) (l : List Pend) :
    (s.performAll core vd l).1.beyondCaches = s.beyondCaches := by
  induction l generalizing s with
  | nil => rfl
  | cons p ps ih =>
    rw [State.performAll]
    split
    · rfl
    · exact (ih _).trans (s.performPend_beyondCaches core vd p)

/-- A control thread whose accesses have taken their place differs in its list of operations alone. -/
theorem State.drainCtl_beyondCaches (s : State) (core : Nat) : ∃ ps, (s.drainCtl core).beyondCaches core =
    { s.beyondCaches core with ctl := { s.ctl core with pend := ps } } := by
  have h := s.performAll_beyondCaches core (s.ctlVd core) (s.ctl core).pend
  unfold State.drainCtl
  generalize s.performAll core (s.ctlVd core) (s.ctl core).pend = y at h ⊢
  refine ⟨y.2, ?_⟩
  rw [← congrFun h core, ← State.ctl_of_beyondCaches h]
  exact congrArg Core.beyondCaches (State.coreOf_setCore_self ..)

/-! Page walks. -/

theorem State.walkedOn_beyondCaches (s : State) (die : Nat) (core : Option Nat) (cx : CtxId) (va : Nat) :
    (s.walkedOn die core cx va).beyondCaches = s.beyondCaches := by
  unfold State.walkedOn
  dsimp only
  split
  next c _ _ _ =>
    have hreads : ((walkReads s va levels c.root).foldl (fun s pa => s.touch cx.vd 0 [pa]) s).beyondCaches = s.beyondCaches :=
      State.beyondCaches_of_cores (foldl_keeps (fun t : State => t.cores = s.cores) _
        (fun t _ ht => (t.touch_cores ..).trans ht) _ s rfl)
    cases core with
    | none => exact hreads
    | some k => exact State.beyondCaches_setCore hreads rfl
  next => rfl

theorem State.walkedFor_beyondCaches (s : State) (core : Nat) (cx : CtxId) (sp : Space) (wants : List Want) :
    (s.walkedFor core cx sp wants).beyondCaches = s.beyondCaches := by
  unfold State.walkedFor State.walkedAll
  split
  · exact foldl_keeps (fun t : State => t.beyondCaches = s.beyondCaches) _
      (fun t _ ht => (t.walkedOn_beyondCaches ..).trans ht) _ s rfl
  · rfl

end Sys2Proof.Machine
end

section
/-! PROOFS. The control thread's transfers, traps, loads and stores (09 R259 to R262, R272, R273). -/

namespace Sys2Proof.Machine

open Sys2Proof Host Spec

/-! What a meaning asks of the wrapper. -/

theorem State.finishCtl_goto {s : State} {si : CtlSite} (h : s.ctlSite? = some si) (size target : Nat) :
    s.finishCtl si size (.goto s target) = ctlJumped s si id target := by
  unfold ctlJumped
  rw [State.ctlSite?_ctl h]
  rfl

/-- What a write of a destination leaves of the control thread; z takes none. -/
def Ctl.writeK (c : Ctl) (d : Opd) (x : Nat) : Ctl :=
  match d with
  | .k r => c.setK r x
  | _ => c

theorem State.onCtl_writeK (s : State) (core : Nat) (d : Opd) (x : Nat) (f : Ctl → Ctl) :
    (s.writeK core d x).onCtl core f = s.setCtl core (f ((s.ctl core).writeK d x)) := by
  cases d with
  | k r => simp [State.writeK, State.onCtl, Ctl.writeK]
  | _ => rfl

theorem State.ctl_onCtl (s : State) (core : Nat) (f : Ctl → Ctl) : (s.onCtl core f).ctl core = f (s.ctl core) :=
  State.ctl_setCtl_self ..

/-- The control thread once it has gone on behind an instruction that has changed it. -/
theorem State.finishCtl_done_ctl {s' : State} {si : CtlSite} (h : s'.ctl si.core = si.ctl) (s : State) (size : Nat)
    (f : Ctl → Ctl) : (s.finishCtl si size (.done (s'.onCtl si.core f))).ctl si.core =
      ((f si.ctl).stepOver si.pos size).stepped := by
  rw [State.finishCtl, State.ctl_onCtl, State.ctl_onCtl, h]

/-- The same where it waits there. -/
theorem State.finishCtl_wait_ctl {s' : State} {si : CtlSite} (h : s'.ctl si.core = si.ctl) (s : State) (size : Nat)
    (f : Ctl → Ctl) (m : CtlMode) : (s.finishCtl si size (.wait (s'.onCtl si.core f) m true)).ctl si.core =
      { (f si.ctl).stepOver si.pos size with mode := m } := by
  rw [State.finishCtl, State.ctl_onCtl, State.ctl_onCtl, h]
  rfl

theorem Ctl.stepOver_k (c : Ctl) (pos : ClausePos) (size : Nat) : (c.stepOver pos size).k = c.k := by
  unfold Ctl.stepOver
  dsimp only
  split <;> rfl

theorem Ctl.stepOver_pend (c : Ctl) (pos : ClausePos) (size : Nat) : (c.stepOver pos size).pend = c.pend := by
  unfold Ctl.stepOver
  dsimp only
  split <;> rfl

/-! Transfers and traps. -/

/-- KJX and KRET go where their address leads, or trap with it (09 R262). -/
theorem kIndirect_next {o : Op} {w : Ins} (hexec : ∀ s, exec (Instr.ofOp o w) s = issueCtl o w s fun si => kIndirect s si w) :
    CtlNext o w (fun s si => rdK s si.core w.a % 32 = 0 ∧ rdK s si.core w.a < 2 ^ 48)
      (fun s si => ctlJumped s si id (rdK s si.core w.a)) ∧
    CtlNext o w (fun s si => rdK s si.core w.a % 32 ≠ 0)
      (fun s si => s.stopCtl si w.len.size ⟨clsALIGN, 0, BitVec.ofNat 64 (rdK s si.core w.a)⟩) ∧
    CtlNext o w (fun s si => rdK s si.core w.a % 32 = 0 ∧ 2 ^ 48 ≤ rdK s si.core w.a)
      (fun s si => s.stopCtl si w.len.size ⟨clsPROT, 0, BitVec.ofNat 64 (rdK s si.core w.a)⟩) := by
  have hnext {ok : State → CtlSite → Prop} {next : State → CtlSite → State} (hx : ∀ s si, s.ctlSite? = some si → ok s si →
      s.finishCtl si w.len.size (kIndirect s si w) = next s si) : CtlNext o w ok next :=
    fun s si _ h g hok => (hexec s).trans ((issueCtl_goes _ h g).trans (congrArg _ (hx s si h hok)))
  refine ⟨hnext fun s si h ⟨halign, hin⟩ => ?block, hnext fun s si _ halign => ?misaligned,
    hnext fun s si _ ⟨halign, hout⟩ => ?outside⟩
  case block =>
    simp only [kIndirect, halign, bne_self_eq_false, Bool.false_eq_true, if_false, Nat.not_le.mpr hin]
    exact State.finishCtl_goto h ..
  case misaligned =>
    simp only [kIndirect, bne_iff_ne, ne_eq, halign, not_false_eq_true, if_true]
    rfl
  case outside =>
    simp only [kIndirect, halign, bne_self_eq_false, Bool.false_eq_true, if_false, hout, if_true]
    rfl

/-! Loads and stores. -/

theorem State.sendLoads_ctl (s : State) (who : OwnerRef) (id : Nat) (items : List MemItem) :
    (s.sendLoads who id items).ctl = s.ctl := by
  rw [State.sendLoads_frame]
  rfl

theorem State.sendLoads_mem (s : State) (who : OwnerRef) (id : Nat) (items : List MemItem) :
    (s.sendLoads who id items).mem = s.mem := (congrArg State.mem (s.sendLoads_frame who id items) :)

/-- The state once the walker has read the tables for the access of a KLD or KST. -/
def ctlLooked (w : Ins) (s : State) (si : CtlSite) : State :=
  s.walkedFor si.core si.owner (spaceOf (w.m 63 61)) (ctlWant w s si)

theorem ctlLooked_ctl {s : State} {si : CtlSite} (h : s.ctlSite? = some si) (w : Ins) :
    (ctlLooked w s si).ctl si.core = si.ctl := by
  rw [ctlLooked, State.ctl_of_beyondCaches (State.walkedFor_beyondCaches ..), State.ctlSite?_ctl h]

/-- What a KLD asks of memory, and what a KST does, at their place. -/
def kldItem (w : Ins) (pl : Place) : MemItem :=
  { tid := 0, place := pl, data := 0, cmp := 0, live := true
    dst := match w.d with
      | .k r => some (.k r)
      | _ => none }

def kstItem (w : Ins) (s : State) (si : CtlSite) (pl : Place) : MemItem :=
  { tid := 0, place := pl, data := rdK s si.core w.d % 2 ^ (8 * elemBytes w), cmp := 0, dst := none, live := true
    thru := s.throughAt si.owner (spaceOf (w.m 63 61)) (kAddr s si w) }

/-- An operation of the control thread over one item. -/
def kPend (s : State) (act : MemAct) (x : MemItem) : Pend :=
  { id := s.nextId, flag := none, work := .mem act 0 [x] [], dst := [] }

/-- An access that passes the checks reaches the meaning, on the place found. -/
theorem kChecked_passes {s : State} {si : CtlSite} {w : Ins} {acc : Acc} {pl : Place}
    (hwalks : s.walksStuck si.owner (spaceOf (w.m 63 61)) (ctlWant w s si) = false)
    (hcheck : s.check (ctlReach si.core si.owner) (spaceOf (w.m 63 61)) acc (ctlWant w s si) = .ok [(0, pl)])
    (hwinf : si.ctl.winfHolds pl = false) (body : State → Place → CtlIssue) :
    kChecked s si w acc body = body (ctlLooked w s si) pl := by
  simp only [ctlWant, elemBytes] at hwalks hcheck
  simp only [kChecked, kAddr, hwalks, hcheck, hwinf, Bool.false_eq_true, if_false]
  rfl

section Access

variable {s : State} {si : CtlSite} {w : Ins} {pl : Place} (h : s.ctlSite? = some si)
  (hwalks : s.walksStuck si.owner (spaceOf (w.m 63 61)) (ctlWant w s si) = false)

include h hwalks

/-- KLD joins the thread's operations and waits behind itself for its data (09 R255, R260). -/
theorem kld_issues (g : si.goes s .kld w = true) (hwinf : si.ctl.winfHolds pl = false)
    (hcheck : s.check (ctlReach si.core si.owner) (spaceOf (w.m 63 61)) .load (ctlWant w s si) = .ok [(0, pl)]) :
    ∃ t p, exec (.kld w) s = .next t ∧ (t.ctl si.core).mode = .load ∧ (t.ctl si.core).pend = si.ctl.pend ++ [p] ∧
      (t.ctl si.core).k = si.ctl.k ∧ t.mem = (ctlLooked w s si).mem ∧
      actsOn p (.load (w.ty.getD .n8).signed (elemBytes w) 1 64) 0 [(0, pl)] := by
  let act : MemAct := .load (w.ty.getD .n8).signed (elemBytes w) 1 64
  let p := kPend (ctlLooked w s si) act (kldItem w pl)
  let sent := (ctlLooked w s si).newId.2.sendLoads si.ref (ctlLooked w s si).nextId [kldItem w pl]
  have hsent : sent.ctl si.core = si.ctl := (congrFun (State.sendLoads_ctl ..) _).trans (ctlLooked_ctl h w)
  have hexec : exec (.kld w) s = .next (s.finishCtl si w.len.size (.wait (sent.onCtl si.core (·.enqueue p)) .load true)) :=
    (issueCtl_goes _ h g).trans (by rw [kChecked_passes hwalks hcheck hwinf]; rfl)
  have hctl := State.finishCtl_wait_ctl hsent s w.len.size (·.enqueue p) .load
  refine ⟨_, p, hexec, ?_, ?_, ?_, State.sendLoads_mem .., [kldItem w pl], rfl, rfl⟩
  · rw [hctl]
  · rw [hctl]
    exact Ctl.stepOver_pend ..
  · rw [hctl]
    exact Ctl.stepOver_k ..

/-- KST of a local place joins the thread's operations, and the thread goes on (09 R255, R260). -/
theorem kst_issues (g : si.goes s .kst w = true) (hhere : ∃ ks, pl = .here ks)
    (hcheck : s.check (ctlReach si.core si.owner) (spaceOf (w.m 63 61)) .store (ctlWant w s si) = .ok [(0, pl)]) :
    ∃ t p, exec (.kst w) s = .next t ∧ (t.ctl si.core).pend = si.ctl.pend ++ [p] ∧ (t.ctl si.core).k = si.ctl.k ∧
      t.mem = (ctlLooked w s si).mem ∧ actsOn p .store 0 [(0, pl)] := by
  obtain ⟨ks, rfl⟩ := hhere
  let x := kstItem w (ctlLooked w s si) si (.here ks)
  let p := kPend (ctlLooked w s si) .store x
  have hexec : exec (.kst w) s =
      .next (s.finishCtl si w.len.size (.done ((ctlLooked w s si).newId.2.onCtl si.core (·.enqueue p)))) :=
    (issueCtl_goes _ h g).trans (by rw [kChecked_passes hwalks hcheck rfl]; rfl)
  have hctl := State.finishCtl_done_ctl (s' := (ctlLooked w s si).newId.2) (ctlLooked_ctl h w) s w.len.size (·.enqueue p)
  refine ⟨_, p, hexec, ?_, ?_, rfl, [x], rfl, rfl⟩
  · rw [hctl, Ctl.stepped_pend, Ctl.stepOver_pend]
    rfl
  · rw [hctl, Ctl.stepped_k, Ctl.stepOver_k]
    rfl

end Access

/-- Settles O27, instruction by instruction: each asks its target, its trap or its operation of the wrapper. -/
theorem controlTransfersAndAccesses : Obligations.ControlTransfersAndAccesses := by
  intro w a off
  refine ⟨?taken, ?nottaken, ?trap, ?jump, ?call, ?indirect, ?accesses⟩
  case taken =>
    refine ctlNext_of_body execKbr (fun _ => rfl) fun s si h => ⟨_, rfl, fun hcond => ?_⟩
    rw [if_pos hcond]
    exact State.finishCtl_goto h ..
  case nottaken =>
    refine ctlNext_of_body execKbr (fun _ => rfl) fun s si h => ⟨_, rfl, fun hcond => ?_⟩
    rw [if_neg (Bool.eq_false_iff.mp hcond)]
    exact State.finishCtl_goto h ..
  case trap => exact ctlNext_of_body execKtrap (fun _ => rfl) fun s si h => ⟨_, rfl, fun _ => rfl⟩
  case jump => exact ctlNext_of_body execKjmp (fun _ => rfl) fun s si h => ⟨_, rfl, fun _ => State.finishCtl_goto h ..⟩
  case call =>
    refine ctlNext_of_body execKcall (fun _ => rfl) fun s si h => ⟨_, rfl, fun _ => ?_⟩
    rw [State.finishCtl, State.onCtl_writeK, ← State.ctlSite?_ctl h]
    rfl
  case indirect =>
    intro o ho
    rcases List.mem_pair.mp ho with rfl | rfl
    · exact kIndirect_next fun _ => rfl
    · exact kIndirect_next fun _ => rfl
  case accesses =>
    intro s si pl h
    exact ⟨fun _ g hwalks hwinf hcheck => kld_issues h hwalks g hwinf hcheck,
      fun _ g hwalks hcheck hhere => kst_issues h hwalks g hhere hcheck⟩

end Sys2Proof.Machine
end

section
/-! PROOFS. The control thread's queues, sleeps, halt and registers (09 R254, R256, R266, R267, R272). -/

namespace Sys2Proof.Machine

open Sys2Proof Host Spec

/-! What a meaning asks of the wrapper. -/

theorem State.finishCtl_wait_behind {s : State} {si : CtlSite} (h : s.ctlSite? = some si) (w : Ins) (m : CtlMode) :
    s.finishCtl si w.len.size (.wait s m true) = ctlWaitsBehind s si w m := by
  unfold ctlWaitsBehind
  rw [State.ctlSite?_ctl h]
  rfl

/-- A change of the control thread leaves the rest of its core. -/
theorem State.coreOf_onCtl (s : State) (core : Nat) (f : Ctl → Ctl) :
    (s.onCtl core f).coreOf core = { s.coreOf core with ctl := f (s.ctl core) } := State.coreOf_setCore_self ..

/-! The event queue (R266). -/

/-- A core whose oldest event record EQPOP has taken. -/
def Core.popped (c : Core) (r : EventRec) (rest : List EventRec) : Core := { c.advance r.ts with eq := rest }

theorem eqpop_takes {w : Ins} {s : State} {si : CtlSite} {d : Nat} {r : EventRec} {rest : List EventRec} (h : s.ctlSite? = some si)
    (g : si.goes s .eqpop w = true) (hd : w.d = .k d) (heq : (s.coreOf si.core).eq = r :: rest) :
    ∃ t, exec (.eqpop w) s = .next t ∧ (t.coreOf si.core).eq = rest ∧ t.mem = s.mem ∧
      (t.ctl si.core).k = ((si.ctl.setK d r.tag.toNat).setK (d + 1) r.word1).k ∧
      (t.coreOf si.core).lclk = max (s.coreOf si.core).lclk r.ts := by
  let s' := s.setCore si.core ((s.coreOf si.core).popped r rest)
  let f (c : Ctl) : Ctl := (c.setK d r.tag.toNat).setK (d + 1) r.word1
  have hexec : exec (.eqpop w) s = .next (s.finishCtl si w.len.size (.done (s'.onCtl si.core f))) :=
    (issueCtl_goes _ h g).trans (by simp only [hd, heq]; rfl)
  have hcore : s'.coreOf si.core = (s.coreOf si.core).popped r rest := State.coreOf_setCore_self ..
  have hctl : s'.ctl si.core = si.ctl := (congrArg Core.ctl hcore).trans (State.ctlSite?_ctl h).symm
  refine ⟨_, hexec, ?_, rfl, ?_, ?_⟩
  · rw [State.finishCtl, State.coreOf_onCtl, State.coreOf_onCtl, hcore]
    rfl
  · rw [State.finishCtl_done_ctl hctl, Ctl.stepped_k, Ctl.stepOver_k]
  · rw [State.finishCtl, State.coreOf_onCtl, State.coreOf_onCtl, hcore]
    rfl

/-! The decision queue (R267). -/

theorem dqpush_appends {w : Ins} {s : State} {si : CtlSite} (h : s.ctlSite? = some si) (g : si.goes s .dqpush w = true)
    (hroom : (s.coreOf si.core).dq.length < 256) :
    ∃ t, exec (.dqpush w) s = .next t ∧ t.mem = (s.drainCtl si.core).mem ∧ (t.ctl si.core).k = si.ctl.k ∧
      (t.coreOf si.core).dq = (s.coreOf si.core).dq ++ [(si.owner, BitVec.ofNat 64 (rdK s si.core w.a))] := by
  let c := (s.drainCtl si.core).coreOf si.core
  let c' : Core := { c with dq := c.dq ++ [(si.owner, BitVec.ofNat 64 (rdK s si.core w.a))] }
  have hexec : exec (.dqpush w) s =
      .next (s.finishCtl si w.len.size (.done ((s.drainCtl si.core).setCore si.core c'))) :=
    (issueCtl_goes _ h g).trans (by rw [if_neg (Nat.not_le.mpr hroom)])
  obtain ⟨ps, hdrain⟩ := s.drainCtl_beyondCaches si.core
  have hk : c.ctl.k = si.ctl.k := (congrArg (·.ctl.k) hdrain).trans (congrArg Ctl.k (State.ctlSite?_ctl h).symm)
  have hdq : c.dq = (s.coreOf si.core).dq := (congrArg Core.dq hdrain :)
  have hcore : ((s.drainCtl si.core).setCore si.core c').coreOf si.core = c' := State.coreOf_setCore_self ..
  refine ⟨_, hexec, rfl, ?_, ?_⟩
  · rw [State.finishCtl, State.ctl_onCtl, Ctl.stepped_k, Ctl.stepOver_k, State.ctl, hcore, hk]
  · rw [State.finishCtl, State.coreOf_onCtl, hcore]
    exact congrArg (· ++ _) hdq

/-! KHALT (R254, R265). -/

/-- A record that is posted for a core without an owner is counted as dropped. -/
theorem State.postEvent_unowned {s : State} {core : Nat} (h : (s.ctl core).owner = none) (cx : CtxId) (r : EventRec) :
    (s.postEvent core cx r).coreOf core = { s.coreOf core with drops := ((s.coreOf core).drops + 1) % 2 ^ 16 } := by
  have howner : ((s.coreOf core).ctl.owner == some cx) = false := beq_false_of_ne (h ▸ nofun)
  unfold State.postEvent
  simp only [howner, Bool.false_eq_true, if_false]
  split <;> exact State.coreOf_setCore_self ..

theorem State.postEvents_unowned (l : List (CtxId × EventRec)) {s : State} {core : Nat} (h : (s.ctl core).owner = none) :
    ∃ n, (l.foldl (fun s x => s.postEvent core x.1 x.2) s).coreOf core = { s.coreOf core with drops := n } ∧
      n % 2 ^ 16 = ((s.coreOf core).drops + l.length) % 2 ^ 16 := by
  induction l generalizing s with
  | nil => exact ⟨_, rfl, rfl⟩
  | cons x l ih =>
    have hone := State.postEvent_unowned h x.1 x.2
    obtain ⟨n, hcore, hn⟩ := ih (s := s.postEvent core x.1 x.2) (by rw [State.postEvent_ctl, h])
    rw [hone] at hcore hn
    refine ⟨n, hcore, hn.trans ?_⟩
    simp only [List.length_cons]
    omega

theorem State.postEvents_mem (l : List (CtxId × EventRec)) (s : State) (core : Nat) :
    (l.foldl (fun s x => s.postEvent core x.1 x.2) s).mem = s.mem :=
  foldl_keeps (fun t : State => t.mem = s.mem) _
    (fun t x ht => (congrArg State.mem (t.postEvent_frame core x.1 x.2)).trans ht) l s rfl

/-- A core whose control thread has become free. -/
def Core.freed (c : Core) : Core := { c with
  eq := []
  held := []
  ctl := { c.ctl with owner := none, mode := .free, clause := none, pend := [], step := false, raster := RasterState.init } }

theorem State.postEvents_freed (s : State) (core : Nat) (c : Core) (l : List (CtxId × EventRec)) :
    ∃ n, (l.foldl (fun s x => s.postEvent core x.1 x.2) (s.setCore core c.freed)).coreOf core = { c.freed with drops := n } ∧
      n % 2 ^ 16 = (c.drops + l.length) % 2 ^ 16 := by
  have hcore : (s.setCore core c.freed).coreOf core = c.freed := State.coreOf_setCore_self ..
  have h := State.postEvents_unowned l (s := s.setCore core c.freed) (core := core) (congrArg (·.ctl.owner) hcore)
  rwa [hcore] at h

/-- A freed control thread's core: its records are gone, and the held ones are counted. -/
theorem State.freeCtl_coreOf (s : State) (core : Nat) : ∃ n,
    (s.freeCtl core).coreOf core = { ((s.drainCtl core).coreOf core).freed with drops := n } ∧
      n % 2 ^ 16 = ((s.coreOf core).drops + (s.coreOf core).held.length) % 2 ^ 16 := by
  obtain ⟨ps, hdrain⟩ := s.drainCtl_beyondCaches core
  have hdrops : ((s.drainCtl core).coreOf core).drops = (s.coreOf core).drops := (congrArg Core.drops hdrain :)
  have hheld : ((s.drainCtl core).coreOf core).held = (s.coreOf core).held := (congrArg Core.held hdrain :)
  rw [← hdrops, ← hheld]
  exact State.postEvents_freed ..

theorem State.freeCtl_mem (s : State) (core : Nat) : (s.freeCtl core).mem = (s.drainCtl core).mem := State.postEvents_mem ..

theorem khalt_frees {w : Ins} {s : State} {si : CtlSite} (h : s.ctlSite? = some si) (g : si.goes s .khalt w = true) :
    ∃ t, exec (.khalt w) s = .next t ∧ (t.ctl si.core).mode = .free ∧ (t.ctl si.core).owner = none ∧
      (t.coreOf si.core).eq = [] ∧ (t.coreOf si.core).held = [] ∧ (t.ctl si.core).pend = [] ∧
      (t.coreOf si.core).drops % 2 ^ 16 = ((s.coreOf si.core).drops + (s.coreOf si.core).held.length) % 2 ^ 16 ∧
      t.mem = (s.drainCtl si.core).mem := by
  obtain ⟨n, hcore, hn⟩ := s.freeCtl_coreOf si.core
  refine ⟨s.freeCtl si.core, issueCtl_goes _ h g, ?_⟩
  rw [State.ctl, hcore]
  exact ⟨rfl, rfl, rfl, rfl, rfl, hn, s.freeCtl_mem si.core⟩

/-! Core registers (R256, R272). Synchronising with the order leaves what KCSR and the operands of the control thread read. -/

theorem State.sync_coreOf (s : State) (core : Nat) : (s.sync core).coreOf core = (s.coreOf core).advance s.lts :=
  State.coreOf_setCore_self ..

theorem State.sync_ctl (s : State) (core : Nat) : (s.sync core).ctl core = s.ctl core := by
  rw [State.ctl, State.sync_coreOf]
  rfl

theorem rdK_sync (s : State) (core : Nat) (x : Opd) : rdK (s.sync core) core x = rdK s core x := by
  unfold rdK
  rw [State.sync_ctl, State.sync_coreOf]
  rfl

theorem State.coreReg_sync (s : State) (core n : Nat) : (s.sync core).coreReg core n = s.coreReg core n := by
  unfold State.coreReg State.waiters State.dqLine
  rw [State.sync_coreOf]
  rfl

/-- A core register is read, and under .w CLRB is written, in one step. -/
theorem State.finishCtl_kcsr {s : State} {si : CtlSite} (h : s.ctlSite? = some si) (w : Ins) (x a : Nat) :
    s.finishCtl si w.len.size (.done (if w.mb 57 then
      ((s.sync si.core).writeK si.core w.d x).onCtl si.core fun c => { c with clrb := clrbOf a }
      else (s.sync si.core).writeK si.core w.d x)) =
    ctlOn (s.sync si.core) si w fun c => if w.mb 57 then { c.writeK w.d x with clrb := clrbOf a } else c.writeK w.d x := by
  have hctl : (s.sync si.core).ctl si.core = si.ctl := (s.sync_ctl si.core).trans (State.ctlSite?_ctl h).symm
  unfold ctlOn State.ctlGoneOn
  split
  · rw [State.finishCtl, State.onCtl_writeK, State.onCtl, State.ctl_setCtl_self, State.setCtl_setCtl, hctl]
  · rw [State.finishCtl, State.onCtl_writeK, hctl]

/-- Settles O28, instruction by instruction: what a drain and a synchronisation leave of the core is what each asks for. -/
theorem controlQueuesAndWaits : Obligations.ControlQueuesAndWaits := by
  intro w n
  refine ⟨fun d hd => ⟨fun s si r rest _ h g heq => eqpop_takes h g hd heq, ?empty⟩, ?ready, ?waits, ?nop, ?sleeps,
    fun s si h => ⟨fun _ g hroom => dqpush_appends h g hroom, fun _ g => khalt_frees h g⟩, ?register⟩
  case empty =>
    refine ctlNext_of_body execEqpop (fun _ => rfl) fun s si h => ⟨_, rfl, fun heq => ?_⟩
    simp only [hd, heq]
    exact State.finishCtl_done_onCtl h w _
  case ready =>
    refine ctlNext_of_body execEqwait (fun _ => rfl) fun s si h => ⟨_, rfl, fun heq => ?_⟩
    simp only [List.isEmpty_eq_false_iff.mpr heq, Bool.not_false, if_true]
    exact State.finishCtl_done_self h w
  case waits =>
    refine ctlNext_of_body execEqwait (fun _ => rfl) fun s si h => ⟨_, rfl, fun heq => ?_⟩
    simp only [heq, List.isEmpty_nil, Bool.not_true, Bool.false_eq_true, if_false, beq_iff_eq]
    exact State.finishCtl_wait_behind h w _
  case nop =>
    refine ctlNext_of_body execKsleep (fun _ => rfl) fun s si h => ⟨_, rfl, fun hzero => ?_⟩
    rw [if_pos (beq_iff_eq.mpr hzero)]
    exact State.finishCtl_done_self h w
  case sleeps =>
    refine ctlNext_of_body execKsleep (fun _ => rfl) fun s si h => ⟨_, rfl, fun hne => ?_⟩
    rw [if_neg (mt beq_iff_eq.mp hne)]
    exact State.finishCtl_wait_behind h w _
  case register =>
    refine ctlNext_of_body execKcsr (fun _ => rfl) fun s si h => ⟨_, rfl, fun _ => ?_⟩
    simp only [beq_iff_eq, State.coreReg_sync, rdK_sync]
    exact State.finishCtl_kcsr h w _ _

end Sys2Proof.Machine
end

section
/-! PROOFS. LAUNCH (09 R264, R269). -/

namespace Sys2Proof.Machine

open Sys2Proof Host Spec

/-! The record, as KLDs read it. -/

theorem ctlWants_length (a n align : Nat) : (ctlWants a n align).length = n / 8 := by
  simp [ctlWants]

theorem State.ctlTake_length (si : CtlSite) (l : List (Want × Place)) (s : State) : (s.ctlTake si l).2.length = 8 * l.length := by
  induction l generalizing s with
  | nil => rfl
  | cons x l ih =>
    obtain ⟨x, p⟩ := x
    rw [State.ctlTake.eq_def]
    simp only [List.length_append, Laws.leBytes_length, ih, List.length_cons]
    omega

/-- A read that succeeds has all its bytes. -/
theorem State.ctlBytes_length {s s' : State} {si : CtlSite} {a n align : Nat} {bs : List Byte}
    (h : s.ctlBytes si a n align = .ok (s', bs)) : bs.length = 8 * (n / 8) := by
  unfold State.ctlBytes at h
  dsimp only at h
  split at h
  · cases h
  split at h
  · cases h
  · cases h
  next places hcheck =>
    split at h
    · split at h
      · cases h
      · have hbs : _ = bs := congrArg Prod.snd (Except.ok.inj h)
        rw [← hbs, State.ctlTake_length, List.length_zip, List.length_map,
          State.check_length hcheck, Nat.min_self, ctlWants_length]
    · cases h

/-! What the append writes: the same whatever waits for channels. -/

/-- The bytes of storage, and the decoded bytes of resident tiles: what a write of bytes reads and changes. -/
def State.bytes (s : State) : Memory × Tbl Tile := (s.mem, s.tiles)

theorem State.writeKey_bytes {s t : State} (h : t.bytes = s.bytes) (k : Nat) (b : Byte) :
    (t.writeKey k b).bytes = (s.writeKey k b).bytes := by
  obtain ⟨hmem, htiles⟩ := Prod.mk.inj h
  unfold State.writeKey
  split
  · unfold State.writeTileByte
    rw [htiles]
    split
    · exact Prod.ext hmem rfl
    · simp only [State.bytes, State.writeRaw, State.writeDram, State.tileBytes, State.dram, hmem, htiles]
  · exact Prod.ext (congrArg (·.write k b) hmem) htiles

theorem State.foldl_writeKey_bytes (l : List (Nat × Byte)) {s t : State} (h : t.bytes = s.bytes) :
    (l.foldl (fun s y => s.writeKey y.1 y.2) t).bytes = (l.foldl (fun s y => s.writeKey y.1 y.2) s).bytes := by
  induction l generalizing s t with
  | nil => exact h
  | cons y l ih => exact ih (State.writeKey_bytes h y.1 y.2)

theorem State.putKeys_bytes {s t : State} (h : t.bytes = s.bytes) (keys : List Nat) (bs : List Byte) :
    (t.putKeys keys bs).bytes = (s.putKeys keys bs).bytes := State.foldl_writeKey_bytes _ h

theorem State.writeKeys_bytes {s t : State} (h : t.bytes = s.bytes) (keys : List Nat) (x : Nat) :
    (t.writeKeys keys x).bytes = (s.writeKeys keys x).bytes := State.foldl_writeKey_bytes _ h

theorem State.undefer_bytes (s : State) (wt : Waiter) : (s.undefer wt).bytes = s.bytes :=
  (congrArg State.bytes (s.undefer_frame wt) :)

/-- The append, behind the deferred queues, writes the record and PROD (09 R269). -/
theorem launchAppend_mem (s : State) (wt : Waiter) (qcx : CtxId) (q : Nat) (qu : Queue) (hd : QHead) (hk rk : List Nat)
    (bs : List Byte) (note : Issuer) : (launchAppend (s.undefer wt) qcx q qu hd hk rk bs note).mem =
      ((s.putKeys rk bs).setQ32 hk offProd (hd.prod + 1)).mem :=
  (State.setQueue_mem ..).trans
    (congrArg Prod.fst (State.writeKeys_bytes (State.putKeys_bytes (s.undefer_bytes wt) rk bs) _ _))

theorem kGate_of_unbarred {s : State} {si : CtlSite} {chans : List Nat} (body : State → CtlIssue)
    (h : chans.any (s.barred (some (.fetch (.ctl si.core)))) = false) :
    kGate s si chans body = body (s.undefer (.fetch (.ctl si.core))) := if_neg (Bool.eq_false_iff.mp h)

section Launch

variable {s : State} {si : CtlSite} {w : Ins} (h : s.ctlSite? = some si) (g : si.goes s .launch w = true)
  (halign : rdK s si.core w.a % 128 = 0) (hqueue : rdK s si.core w.b < 16)

include h g halign hqueue

/-- A LAUNCH to a queue that no context has bound posts its record at once and appends nothing. -/
theorem launch_refused (hnone : s.findQueue si.owner.vd (rdK s si.core w.b) = none) :
    ∃ t, exec (.launch w) s = .next t ∧ t.mem = s.mem ∧
      t.coreOf si.core = { (s.postEvent si.core si.owner { tag := BitVec.ofNat 64 (rdK s si.core w.c), src := 1, status := 3
                                                           unit := coreDie si.core, detail := 0 }).coreOf si.core with
        ctl := t.ctl si.core } := by
  have hexec : exec (.launch w) s =
      .next (s.finishCtl si w.len.size (launchRefused s si (rdK s si.core w.c) 0)) :=
    (issueCtl_goes _ h g).trans (by
      simp only [halign, bne_self_eq_false, Bool.false_eq_true, if_false, Nat.not_le.mpr hqueue, hnone])
  refine ⟨_, hexec, (congrArg State.mem (State.postEvent_frame ..) :), ?_⟩
  rw [launchRefused, State.finishCtl, State.ctl_onCtl]
  exact State.coreOf_onCtl ..

/-- A LAUNCH that may append writes its record and PROD in one event (09 R269). -/
theorem launch_appends {qcx : CtxId} {qu : Queue} {hk hk' rk : List Nat} {s₁ s₂ : State} {bs : List Byte}
    (hdrain : s.drainCtl si.core = s₁) (hfind : s.findQueue si.owner.vd (rdK s si.core w.b) = some (qcx, qu))
    (hhead : s₁.span qcx qu.header 64 false = .ok hk) (hen : (s₁.qhead hk).enabled = true) (hfeed : (s₁.qhead hk).feed = true)
    (hdie : w.mb 49 = true → qu.die = coreDie si.core) (hroom : (s₁.qhead hk).waiting ≠ 2 ^ (s₁.qhead hk).log2n)
    (hbytes : s₁.ctlBytes si (rdK s si.core w.a) 128 128 = .ok (s₂, bs)) (hhead' : s₂.span qcx qu.header 64 true = .ok hk')
    (hring : s₂.span qcx ((s₁.qhead hk).slotVa (s₁.qhead hk).prod) 128 true = .ok rk)
    (hfree : (s₂.keysChans false (hk' ++ rk)).any (s₂.barred (some (.fetch (.ctl si.core)))) = false) :
    ∃ t, exec (.launch w) s = .next t ∧ bs.length = 128 ∧
      t.mem = ((s₂.putKeys rk bs).setQ32 hk' 12 ((s₁.qhead hk).prod + 1)).mem := by
  have hdie' : (w.mb 49 && qu.die != coreDie si.core) = false := by
    rw [Bool.and_eq_false_imp]
    exact fun hlocal => bne_eq_false_iff_eq.mpr (hdie hlocal)
  have hroom' : ((s₁.qhead hk).waiting == 2 ^ (s₁.qhead hk).log2n) = false := beq_false_of_ne hroom
  let note : Issuer := { cx := si.owner, core := si.core, near := w.mb 49, tag := BitVec.ofNat 64 (rdK s si.core w.c) }
  let t := launchAppend (s₂.undefer (.fetch (.ctl si.core))) qcx (rdK s si.core w.b) qu (s₁.qhead hk) hk' rk bs note
  have hexec : exec (.launch w) s = .next (s.finishCtl si w.len.size (.done t)) :=
    (issueCtl_goes _ h g).trans (by
      simp only [halign, bne_self_eq_false, Bool.false_eq_true, if_false, Nat.not_le.mpr hqueue, hfind, hdrain, hhead, hen,
        hfeed, Bool.not_true, Bool.or_self, hdie', hroom', hbytes, hhead', hring, kGate_of_unbarred _ hfree]
      rfl)
  exact ⟨_, hexec, State.ctlBytes_length hbytes, launchAppend_mem ..⟩

end Launch

/-- Settles O29: a queue that is not found refuses at once, and the append is one event behind every check. -/
theorem launchCompletes : Obligations.LaunchCompletes := by
  intro w s si _ h g a b s₁ halign hqueue
  exact ⟨fun hnone => launch_refused h g halign hqueue hnone,
    fun _ _ _ _ _ _ _ hfind hhead hen hfeed hdie hroom hbytes hhead' hring hfree =>
      launch_appends h g halign hqueue rfl hfind hhead hen hfeed hdie hroom hbytes hhead' hring hfree⟩

end Sys2Proof.Machine
end

section
/-! PROOFS. Claims, releases and clears of the matrix engine's units (10 R279 to R281, R293). -/

namespace Sys2Proof.Machine

open Sys2Proof Host Spec

/-! The collective mask (R279). -/

/-- A meaning behind the collective mask is not asked where some launched thread does not issue. -/
theorem issueTeam_conv {s : State} {si : Site} {o : Op} {w : Ins} {body : Site → TMask → Issue} (h : s.site? = some si)
    (g : si.goes s o w = true) (hpart : ¬collective w si) :
    issueTeam o w s (fun si e => if e != si.team.launched then .trap (.mk0 clsCONV) else body si e) =
      .next (s.trapSite si ⟨clsCONV, 0, 0⟩ w.len.size) := by
  rw [issueTeam_goes _ h g, if_pos (bne_iff_ne.mpr hpart)]
  rfl

/-- Every launched thread issues: the meaning is asked. -/
theorem issueTeam_collective {s : State} {si : Site} {o : Op} {w : Ins} {body : Site → TMask → Issue} (h : s.site? = some si)
    (g : si.goes s o w = true) (hall : collective w si) :
    issueTeam o w s (fun si e => if e != si.team.launched then .trap (.mk0 clsCONV) else body si e) =
      .next (s.finish si w.len.size (body si (si.exec w))) := by
  rw [issueTeam_goes _ h g, if_neg (by rw [bne_iff_ne, not_not]; exact hall)]

/-- A matrix instruction whose checks pass does what its meaning asks. -/
theorem issueMx_ok {s : State} {si : Site} {o : Op} {w : Ins} {body : Site → Except MxBad Issue} {r : Issue}
    (h : s.site? = some si) (g : si.goes s o w = true) (hall : collective w si) (hbody : body si = .ok r) :
    issueMx o w s body = .next (s.finish si w.len.size r) := by
  unfold issueMx
  rw [issueTeam_collective h g hall, hbody]

/-- The same in the shape of the sequencer's statements. -/
theorem teamNext_of_issueMx {o : Op} {w : Ins} {ok : State → Site → Prop} {next : State → Site → State}
    (body : State → Site → Except MxBad Issue) (hexec : ∀ s, exec (Instr.ofOp o w) s = issueMx o w s (body s))
    (hbody : ∀ s si, s.site? = some si → ok s si →
      collective w si ∧ ∃ r, body s si = .ok r ∧ s.finish si w.len.size r = next s si) : TeamNext o w ok next := by
  intro s si _ h g hok
  obtain ⟨hall, r, hr, hnext⟩ := hbody s si h hok
  rw [hexec, issueMx_ok h g hall hr, hnext]

theorem issueMx_conv {s : State} {si : Site} {o : Op} {w : Ins} {body : Site → Except MxBad Issue} (h : s.site? = some si)
    (g : si.goes s o w = true) (hpart : ¬collective w si) :
    issueMx o w s body = .next (s.trapSite si ⟨clsCONV, 0, 0⟩ w.len.size) := by
  unfold issueMx
  exact issueTeam_conv h g hpart

theorem collectiveMask : Spec.CollectiveMask := by
  intro w s si h hpart o ho _ g
  cases o with
  | tclaim | trels | aclaim | arels | mnext | mma | mzero | mrd | mwr | mwrT | mst | mscl | mstat =>
    dsimp only [Instr.ofOp, exec]
    exact issueMx_conv h g hpart
  | mfetch | mlist =>
    dsimp only [Instr.ofOp, exec]
    exact (issueBoth_team _ _ h).trans (issueTeam_conv h g hpart)
  | _ => exact absurd ho (by decide)

/-! The engine of a core, replaced. -/

theorem State.setMx_team? (s : State) (core : Nat) (m : Matrix) (c k : Nat) : (s.setMx core m).team? c k = s.team? c k := rfl

@[simp] theorem Team.count_setMx (t : Team) (si : Site) (s : State) (m : Matrix) :
    t.count si (s.setMx si.core m) = t.count si s := by
  simp [Team.count, State.setMx]

theorem State.finish_setMx {s : State} {si : Site} (h : s.site? = some si) (w : Ins) (m : Matrix) :
    s.finish si w.len.size (.done (s.setMx si.core m)) = (s.setMx si.core m).goneOn si w si.team :=
  State.finish_done_of_team ((State.setMx_team? ..).trans (State.site?_team h)) s w

theorem State.finish_setMx_block {s : State} {si : Site} (h : s.site? = some si) (w : Ins) (m : Matrix) (wt : Wait) :
    s.finish si w.len.size (.block (s.setMx si.core m) wt true) = blockedBehind (s.setMx si.core m) si w si.team wt := by
  rw [blockedBehind, Team.count_setMx]
  exact State.updTeam_of_team ((State.setMx_team? ..).trans (State.site?_team h)) _

/-! Claims and releases (R280, R281). -/

/-- The team holds a unit: an accumulator or a slot. -/
def Matrix.holds (m : Matrix) (team : Nat) (acc : Bool) (n : Nat) : Bool :=
  if acc then (m.acc? team n).isSome else (m.held? team n).isSome

theorem mem_unitsOf {mask n : Nat} : n ∈ unitsOf mask ↔ n < 32 ∧ bitAt mask n = true := by
  rw [unitsOf, List.mem_filter, List.mem_range]

/-- A free unit is no team's. -/
theorem Matrix.holds_of_isFree {m : Matrix} {acc : Bool} {n : Nat} (h : m.isFree acc n = true) (team : Nat) :
    m.holds team acc n = false := by
  cases acc with
  | true =>
    have hnone : m.accs.get? n = none := Option.isNone_iff_eq_none.mp h
    simp [Matrix.holds, Matrix.acc?, hnone]
  | false =>
    have hnone : m.slots.get? n = none := Option.isNone_iff_eq_none.mp h
    simp [Matrix.holds, Matrix.held?, hnone]

/-- A mask names units of the kind, every one of which meets a condition. -/
def unitsMeet (acc : Bool) (mask : Nat) (f : Nat → Bool) : Prop :=
  (acc = true → mask < 2 ^ 16) ∧ ∀ n, n < 32 → bitAt mask n = true → f n = true

theorem unitsMeet.inRange {acc : Bool} {mask : Nat} {f : Nat → Bool} (h : unitsMeet acc mask f) :
    (acc && decide (2 ^ 16 ≤ mask)) = false := by
  rw [Bool.and_eq_false_imp]
  exact fun hacc => decide_eq_false (Nat.not_le.mpr (h.1 hacc))

theorem unitsMeet.of_mem {acc : Bool} {mask n : Nat} {f : Nat → Bool} (h : unitsMeet acc mask f) (hn : n ∈ unitsOf mask) :
    f n = true := h.2 n (mem_unitsOf.mp hn).1 (mem_unitsOf.mp hn).2

/-- None of the units meets what the condition shuts out. -/
theorem unitsMeet.any_eq_false {acc : Bool} {mask : Nat} {f g : Nat → Bool} (h : unitsMeet acc mask f)
    (hfg : ∀ n, f n = true → g n = false) : (unitsOf mask).any g = false :=
  List.any_eq_false.mpr fun n hn => Bool.eq_false_iff.mp (hfg n (h.of_mem hn))

section Units

variable {o : Op} {w : Ins} {acc : Bool}

/-- A claim of free units, with no other before it, takes them. -/
theorem claim_takes (hexec : ∀ s, exec (Instr.ofOp o w) s = claimUnits o acc w s) :
    TeamNext o w (fun s si => (collective w si ∧ unitsMeet acc (uA w s si) ((s.mx si.core).isFree acc)) ∧
        unitsOf (uA w s si) ≠ [] ∧ (s.mx si.core).claims = [])
      fun s si => withMx s si w fun m => m.take si.slot acc (unitsOf (uA w s si)) := by
  refine teamNext_of_issueMx _ hexec fun s si h => ?_
  rintro ⟨⟨hall, hfree⟩, hunits, hclaims⟩
  have hheld : (unitsOf (s.uni si w.a)).any ((s.mx si.core).holds si.slot acc) = false :=
    hfree.any_eq_false fun n hn => Matrix.holds_of_isFree hn si.slot
  have hempty : (unitsOf (s.uni si w.a)).isEmpty = false := Bool.eq_false_iff.mpr fun he => hunits (List.isEmpty_iff.mp he)
  have hfirst : ((s.mx si.core).claims.isEmpty && (unitsOf (s.uni si w.a)).all ((s.mx si.core).isFree acc)) = true := by
    rw [hclaims, List.isEmpty_nil, Bool.true_and, List.all_eq_true]
    exact fun n hn => hfree.of_mem hn
  refine ⟨hall, _, ?_, State.finish_setMx h w _⟩
  refine (if_neg (Bool.eq_false_iff.mp hfree.inRange)).trans ((if_neg (Bool.eq_false_iff.mp hheld)).trans ?_)
  rw [hempty, hfirst, if_neg Bool.false_ne_true, if_pos rfl]
  rfl

/-- A claim behind others joins them, and the split waits behind the instruction. -/
theorem claim_waits (hexec : ∀ s, exec (Instr.ofOp o w) s = claimUnits o acc w s) :
    TeamNext o w (fun s si => (collective w si ∧ unitsMeet acc (uA w s si) fun n => !(s.mx si.core).holds si.slot acc n) ∧
        unitsOf (uA w s si) ≠ [] ∧ (s.mx si.core).claims ≠ [])
      fun s si => blockedBehind (s.setMx si.core { s.mx si.core with
        claims := (s.mx si.core).claims ++ [{ slot := si.slot, entry := si.entry }] }) si w si.team (.claim acc (uA w s si)) := by
  refine teamNext_of_issueMx _ hexec fun s si h => ?_
  rintro ⟨⟨hall, hnone⟩, hunits, hclaims⟩
  have hheld : (unitsOf (s.uni si w.a)).any ((s.mx si.core).holds si.slot acc) = false :=
    hnone.any_eq_false fun n hn => by simpa using hn
  have hempty : (unitsOf (s.uni si w.a)).isEmpty = false := Bool.eq_false_iff.mpr fun he => hunits (List.isEmpty_iff.mp he)
  have hlater : (s.mx si.core).claims.isEmpty = false := Bool.eq_false_iff.mpr fun he => hclaims (List.isEmpty_iff.mp he)
  refine ⟨hall, _, ?_, State.finish_setMx_block h w _ _⟩
  refine (if_neg (Bool.eq_false_iff.mp hnone.inRange)).trans ((if_neg (Bool.eq_false_iff.mp hheld)).trans ?_)
  rw [hempty, hlater, Bool.false_and, if_neg Bool.false_ne_true, if_neg Bool.false_ne_true]
  rfl

/-- A release of units that the team holds, none of its walk's ring, frees them. -/
theorem release_drops (hexec : ∀ s, exec (Instr.ofOp o w) s = releaseUnits o acc w s) :
    TeamNext o w (fun s si => (collective w si ∧ unitsMeet acc (uA w s si) ((s.mx si.core).holds si.slot acc)) ∧
        (acc = false → ∀ n ∈ unitsOf (uA w s si), si.team.inRing n = false))
      fun s si => withMx s si w fun m => m.drop acc (unitsOf (uA w s si)) := by
  refine teamNext_of_issueMx _ hexec fun s si h => ?_
  rintro ⟨⟨hall, hheld⟩, hring⟩
  have hnone : (unitsOf (s.uni si w.a)).any (fun n => !(s.mx si.core).holds si.slot acc n) = false :=
    hheld.any_eq_false fun n hn => by simpa using hn
  have hring' : (!acc && (unitsOf (s.uni si w.a)).any si.team.inRing) = false := by
    rw [Bool.and_eq_false_imp]
    intro hacc
    exact List.any_eq_false.mpr fun n hn => Bool.eq_false_iff.mp (hring (by simpa using hacc) n hn)
  have hbody : (unitsOf (s.uni si w.a)).any (fun n => if acc then ((s.mx si.core).acc? si.slot n).isNone else
      ((s.mx si.core).held? si.slot n).isNone) = false := by
    refine Eq.trans (congrArg _ (funext fun n => ?_)) hnone
    unfold Matrix.holds
    cases acc <;> simp
  refine ⟨hall, _, ?_, State.finish_setMx h w _⟩
  refine (if_neg (Bool.eq_false_iff.mp hheld.inRange)).trans ((if_neg (Bool.eq_false_iff.mp hbody)).trans ?_)
  rw [hring', if_neg Bool.false_ne_true]
  rfl

end Units

/-- MZERO clears an accumulator that the team holds (R293). -/
theorem mzero_clears (w : Ins) (y : MAcc) : TeamNext .mzero w
    (fun s si => collective w si ∧ uA w s si < 16 ∧ (s.mx si.core).acc? si.slot (uA w s si) = some y)
    fun s si => withMx s si w fun m => { m with accs := m.accs.set (uA w s si) { y with words := List.replicate 256 0 } } := by
  refine teamNext_of_issueMx _ (fun _ => rfl) fun s si h => ?_
  rintro ⟨hall, hrange, hacc⟩
  have hrange' : ¬16 ≤ s.uni si w.a := Nat.not_le.mpr hrange
  have hacc' : (s.mx si.core).acc? si.slot (s.uni si w.a) = some y := hacc
  refine ⟨hall, _, ?_, State.finish_setMx h w _⟩
  simp only [if_neg hrange', hacc']
  rfl

theorem matrixUnits_act : Spec.MatrixUnits := by
  intro w
  refine ⟨fun x hx => ?claim, fun x hx => ?release, mzero_clears w⟩
  case claim =>
    simp only [List.mem_cons, List.not_mem_nil, or_false] at hx
    rcases hx with rfl | rfl <;> exact ⟨claim_takes fun _ => rfl, claim_waits fun _ => rfl⟩
  case release =>
    simp only [List.mem_cons, List.not_mem_nil, or_false] at hx
    rcases hx with rfl | rfl <;> exact release_drops fun _ => rfl

/-- Settles O30: the mask is asked for before the meaning, and the units of a claim or a release pass its checks one by one. -/
theorem matrixUnits : Obligations.MatrixUnits := ⟨collectiveMask, matrixUnits_act⟩

end Sys2Proof.Machine
end

section
/-! PROOFS. MMA, the moves between registers, slots and accumulators, and MSTAT (10 R288 to R294, R302). -/

namespace Sys2Proof.Machine

open Sys2Proof Host Spec

theorem keepsRegs.refl (t : Team) : keepsRegs t t := ⟨rfl, rfl, rfl, rfl, rfl, rfl, rfl, rfl, rfl, rfl, rfl, rfl, rfl⟩

theorem keepsRegs.trans {t u r : Team} (h : keepsRegs t u) (h' : keepsRegs u r) : keepsRegs t r := by
  unfold keepsRegs at *
  grind

/-- A team that differs from another in no register and no operation goes on with one more operation. -/
theorem issuedFrom_enqueue {s s' : State} {si : Site} {t u : Team} (hregs : keepsRegs t u) (hpend : u.pend = t.pend)
    (hflags : u.w = t.w) (hmem : s'.mem = s.mem) (w : Ins) (p : Pend) :
    issuedFrom s t si (s'.goneOn si w (u.enqueue p)) p := by
  obtain ⟨r, hr, hplace⟩ := goneOn_leaves s' si w (u.enqueue p)
  rw [Team.PlaceOnly] at hplace
  refine ⟨r, hr, ?_, ?_, hmem, fun f => ?_⟩ <;> rw [hplace]
  · exact keepsRegs.trans hregs (u.enqueue_keepsRegs p)
  · exact (u.enqueue_pend p).trans (congrArg (· ++ [p]) hpend)
  · refine (u.enqueue_flag p f).trans (congrArg (· + _) ?_)
    rw [Team.flag, hflags, Team.flag]

/-- Results that are known at issue join the operations of the team, which stands as `u` where they are issued. -/
theorem issueResults_joins {s' : State} {si : Site} {u : Team} (hu : s'.team? si.core si.slot = some u) (s : State) (o : Op)
    (w : Ins) (ws : List RegWrite) (fl : Nat) :
    ∃ p, s.finish si w.len.size (issueResults o w s' si ws fl) = s'.newId.2.goneOn si w (u.enqueue p) ∧
      p.flag = si.flagOf w ∧
      p.work = .results ws fl := by
  have hteam : s'.newId.2.team? si.core si.slot = some u := hu
  exact ⟨_, State.finish_onTeam_of_team hteam s w _, rfl, rfl⟩

/-- Results of a matrix instruction wait among the team's operations, with the flags that it shows. -/
theorem mxResults_issues {s : State} {si : Site} (h : s.site? = some si) (o : Op) (w : Ins) (ws : List RegWrite) :
    ∃ t p, s.finish si w.len.size (mxResults o w s si ws) = t ∧ issuedFrom s si.team si t p ∧ p.flag = si.flagOf w ∧
      p.work = .results ws si.team.mflags := by
  let u : Team := { si.team with mflags := 0 }
  have hu : (s.onTeam si fun t => { t with mflags := 0 }).team? si.core si.slot = some u := by
    rw [State.onTeam_site h, State.team?_setTeam_self]
  obtain ⟨p, hfinish, hp⟩ := issueResults_joins hu s o w ws si.team.mflags
  refine ⟨_, p, hfinish, issuedFrom_enqueue (u := u) (keepsRegs.refl _) rfl rfl ?_ w p, hp⟩
  rw [State.onTeam_site h]
  rfl

/-- The words of an MMA name units, and no reserved bit is set. -/
theorem mma_inRange {a b c : Nat} (ha : a < 32) (hb : b < 32) (hc : c < 2 ^ 20) (hlow : bits c 7 4 = 0)
    (hhigh : bits c 15 12 = 0) :
    (decide (32 ≤ a) || decide (32 ≤ b) || bits c 7 4 != 0 || bits c 15 12 != 0 || decide (2 ^ 20 ≤ c)) = false := by
  rw [hlow, hhigh, decide_eq_false (Nat.not_le.mpr ha), decide_eq_false (Nat.not_le.mpr hb),
    decide_eq_false (Nat.not_le.mpr hc)]
  rfl

section Moves

variable {s : State} {si : Site} {w : Ins} (h : s.site? = some si) (hall : collective w si)

include h hall

theorem mma_accumulates {x y : MSlot} {z : MAcc} (g : si.goes s .mma w = true) (ha : uA w s si < 32) (hb : uB w s si < 32)
    (hc : uC w s si < 2 ^ 20) (hlow : bits (uC w s si) 7 4 = 0) (hhigh : bits (uC w s si) 15 12 = 0)
    (hx : (s.mx si.core).held? si.slot (uA w s si) = some x) (hy : (s.mx si.core).held? si.slot (uB w s si) = some y)
    (hz : (s.mx si.core).acc? si.slot (bits (uC w s si) 3 0) = some z)
    (hok : mmaBad (s.mx si.core) si.slot (bits (uC w s si) 3 0) (bits (uC w s si) 11 8) (bits (uC w s si) 19 16) x y = none) :
    let r := (s.mx si.core).mma (bits (uC w s si) 3 0) (bits (uC w s si) 11 8) (bits (uC w s si) 19 16) x y
    exec (.mma w) s = .next ((s.setMx si.core r.1).goneOn si w { si.team with mflags := si.team.mflags ||| r.2 }) := by
  intro r
  have hrange := mma_inRange (a := s.uni si w.a) (b := s.uni si w.b) (c := s.uni si w.c) ha hb hc hlow hhigh
  have hx' : (s.mx si.core).held? si.slot (s.uni si w.a) = some x := hx
  have hy' : (s.mx si.core).held? si.slot (s.uni si w.b) = some y := hy
  have hz' : (s.mx si.core).acc? si.slot (bits (s.uni si w.c) 3 0) = some z := hz
  have hok' : mmaBad (s.mx si.core) si.slot (bits (s.uni si w.c) 3 0) (bits (s.uni si w.c) 11 8) (bits (s.uni si w.c) 19 16) x y =
      none := hok
  have hteam : (s.setMx si.core r.1).team? si.core si.slot = some si.team := State.site?_team h
  refine (issueMx_ok h g hall ?_).trans
    (congrArg _ (State.finish_onTeam_of_team hteam s w fun t => { t with mflags := t.mflags ||| r.2 }))
  simp only [hrange, Bool.false_eq_true, if_false, hx', hy', hz', hok']
  rfl

theorem mrd_issues {d : Nat} {x : MAcc} (g : si.goes s .mrd w = true) (hd : w.d = .v d) (ha : uA w s si < 16)
    (hx : (s.mx si.core).acc? si.slot (uA w s si) = some x) :
    ∃ t p, exec (.mrd w) s = .next t ∧ issuedFrom s si.team si t p ∧ p.flag = si.flagOf w ∧
      p.work = .results ((x.words.zipIdx).map fun y => .v (y.2 % si.team.threads) (d + y.2 / si.team.threads) y.1)
        si.team.mflags := by
  have ha' : ¬16 ≤ s.uni si w.a := Nat.not_le.mpr ha
  have hx' : (s.mx si.core).acc? si.slot (s.uni si w.a) = some x := hx
  obtain ⟨t, p, rfl, hp⟩ := mxResults_issues h .mrd w
    ((x.words.zipIdx).map fun y => .v (y.2 % si.team.threads) (d + y.2 / si.team.threads) y.1)
  refine ⟨_, p, issueMx_ok h g hall ?_, hp⟩
  simp only [hd, if_neg ha', hx']

/-- MSTAT takes its word at once, or waits for it behind the team's fetches (R302). -/
theorem mstat_issues {d : Nat} (g : si.goes s .mstat w = true) (hd : w.d = .s d) :
    ∃ t p, exec (.mstat w) s = .next t ∧ issuedFrom s si.team si t p ∧ p.flag = si.flagOf w ∧
      p.work = if s.matrixBusy si.team s.nextId then .mstat (w.m 50 49) d
        else .results [.s d (BitVec.ofNat 32 (s.mstatWord si.core si.slot si.team (w.m 50 49)))] si.team.mflags := by
  cases hbusy : s.matrixBusy si.team s.nextId with
  | true =>
    let p : Pend := { id := s.nextId, flag := si.flagOf w, work := .mstat (w.m 50 49) d,
                      dst := dstCodes .mstat w si.team.threads }
    have hteam : s.newId.2.team? si.core si.slot = some si.team := State.site?_team h
    refine ⟨s.newId.2.goneOn si w (si.team.enqueue p), p, ?_, ?_, rfl, rfl⟩
    · refine (issueMx_ok h g hall ?_).trans (congrArg _ (State.finish_onTeam_of_team hteam s w fun t => t.enqueue
        { id := s.nextId, flag := si.flagOf w, work := .mstat (w.m 50 49) d, dst := dstCodes .mstat w t.threads }))
      simp only [hd, hbusy, if_true]
      rfl
    · exact issuedFrom_enqueue (keepsRegs.refl _) rfl rfl rfl w p
  | false =>
    obtain ⟨t, p, rfl, hp⟩ := mxResults_issues h .mstat w
      [.s d (BitVec.ofNat 32 (s.mstatWord si.core si.slot si.team (w.m 50 49)))]
    refine ⟨_, p, issueMx_ok h g hall ?_, hp⟩
    simp only [hd, hbusy, Bool.false_eq_true, if_false]

theorem mwr_writes {a : Nat} {x : MAcc} (g : si.goes s .mwr w = true) (ha : w.a = .v a) (hb : uB w s si < 16)
    (hx : (s.mx si.core).acc? si.slot (uB w s si) = some x) :
    exec (.mwr w) s = .next (withMx s si w fun m =>
      { m with accs := m.accs.set (uB w s si) { x with words := imageWords si.team a 256 } }) := by
  have hb' : ¬16 ≤ s.uni si w.b := Nat.not_le.mpr hb
  have hx' : (s.mx si.core).acc? si.slot (s.uni si w.b) = some x := hx
  refine (issueMx_ok h g hall ?_).trans (congrArg _ (State.finish_setMx h w _))
  simp only [ha, if_neg hb', hx']
  rfl

theorem mwrT_fills {a tr tc : Nat} {x : MSlot} {roleB sc : Bool} (g : si.goes s .mwrT w = true) (ha : w.a = .v a)
    (hx : s.slotFor si (uB w s si) = .ok x) (hshape : shapeWord (w.ty.getD .n8) (uC w s si) = some (tr, tc, roleB, sc))
    (hfits : si.team.imageFits a (tr * tc * (w.ty.getD .n8).elemBits / 32) = true) :
    exec (.mwrT w) s = .next (withMx s si w fun m => { m with slots := m.slots.set (uB w s si) { x with
      st := .full, ty := w.ty.getD .n8, roleB := roleB, scaled := sc, lines := if roleB then tc else tr
      k := if roleB then tr else tc, tail := none, fifo := []
      image := (imageWords si.team a (tr * tc * (w.ty.getD .n8).elemBits / 32)).flatMap fun y => leBytes 4 y.toNat } }) := by
  have hx' : s.slotFor si (s.uni si w.b) = .ok x := hx
  have hshape' : shapeWord (w.ty.getD .n8) (s.uni si w.c) = some (tr, tc, roleB, sc) := hshape
  refine (issueMx_ok h g hall ?_).trans (congrArg _ (State.finish_setMx h w _))
  simp only [ha, hx', hshape', hfits, Bool.not_true, Bool.false_eq_true, if_false]
  rfl

theorem mscl_appends {a : Nat} {x : MSlot} (g : si.goes s .mscl w = true) (ha : w.a = .v a)
    (hx : s.slotFor si (uB w s si) = .ok x) (hfull : x.st = .full) (hsome : 0 < uC w s si)
    (hroom : x.fifo.length + uC w s si ≤ 1024) (hfits : si.team.imageFits a (ceilDiv (uC w s si) 4) = true) :
    exec (.mscl w) s = .next (withMx s si w fun m => { m with slots := m.slots.set (uB w s si) { x with
      fifo := x.fifo ++ ((imageWords si.team a (ceilDiv (uC w s si) 4)).flatMap
          fun y => leBytes 4 y.toNat).take (uC w s si) } }) := by
  have hx' : s.slotFor si (s.uni si w.b) = .ok x := hx
  have hcount : (decide (0 < s.uni si w.c) && decide (x.fifo.length + s.uni si w.c ≤ 1024)) = true := by
    rw [Bool.and_eq_true, decide_eq_true_eq, decide_eq_true_eq]
    exact ⟨hsome, hroom⟩
  have hfits' : si.team.imageFits a (ceilDiv (s.uni si w.c) 4) = true := hfits
  have hempty : x.isEmpty = false := by rw [MSlot.isEmpty, hfull]; rfl
  have hfilling : x.isFilling = false := by rw [MSlot.isFilling, hfull]
  have hfaulted : x.faultedAt = none := by rw [MSlot.faultedAt, hfull]
  refine (issueMx_ok h g hall ?_).trans (congrArg _ (State.finish_setMx h w _))
  simp only [ha, hx', firstFail, hempty, hfilling, hfaulted, hcount, hfits', Bool.not_false, Option.isNone_none, if_true]
  rfl

end Moves

theorem matrixArithmeticAndMoves_act : Spec.MatrixArithmeticAndMoves := by
  intro w s si h hall m
  exact ⟨fun _ _ _ _ g ha hb hc hlow hhigh hx hy hz hok => mma_accumulates h hall g ha hb hc hlow hhigh hx hy hz hok,
    fun _ _ _ g hd ha hx => mrd_issues h hall g hd ha hx, fun _ _ g hd => mstat_issues h hall g hd,
    fun _ _ _ g ha hb hx => mwr_writes h hall g ha hb hx,
    fun _ _ _ _ _ _ _ g ha hx hshape hfits => mwrT_fills h hall g ha hx hshape hfits,
    fun _ _ _ g ha hx hfull hsome hroom hfits => mscl_appends h hall g ha hx hfull hsome hroom hfits⟩

end Sys2Proof.Machine
end

section
/-! PROOFS. MST (10 R295, R296): its stores join the team's operations behind the record that it reads. -/

namespace Sys2Proof.Machine

open Sys2Proof Host Spec

/-! What reading a record behind the team's accesses leaves as it was. -/

theorem State.updTeam_frame (s : State) (core slot : Nat) (f : Team → Team) :
    s.updTeam core slot f = { s with teams := (s.updTeam core slot f).teams } := by
  unfold State.updTeam
  split <;> rfl

/-- Draining a team changes what accesses change, and the teams. -/
theorem State.drainTeam_beyondAccess (s : State) (core slot : Nat) :
    ({ (s.drainTeam core slot).beyondAccess with teams := [] } : State) = { s.beyondAccess with teams := [] } := by
  unfold State.drainTeam
  split
  next t _ =>
    dsimp only
    rw [State.updTeam_frame]
    exact (congrArg (fun t : State => { t with teams := [] }) (s.performAll_beyondAccess core (s.teamVd t) t.pend) :)
  next => rfl

theorem State.drainTeam_beyondCaches (s : State) (core slot : Nat) : (s.drainTeam core slot).beyondCaches = s.beyondCaches := by
  unfold State.drainTeam
  split
  · dsimp only
    rw [State.updTeam_frame]
    exact State.performAll_beyondCaches ..
  · rfl

theorem State.drainTeam_gang? (s : State) (core slot g : Nat) : (s.drainTeam core slot).gang? g = s.gang? g := by
  have hgangs : (s.drainTeam core slot).gangs = s.gangs := (congrArg State.gangs (s.drainTeam_beyondAccess core slot) :)
  rw [State.gang?, hgangs, State.gang?]

theorem State.drainTeam_launchOf (s : State) (core slot : Nat) (t : Team) :
    (s.drainTeam core slot).launchOf t = s.launchOf t := by
  have hlaunches : (s.drainTeam core slot).launches = s.launches :=
    (congrArg State.launches (s.drainTeam_beyondAccess core slot) :)
  unfold State.launchOf State.launch?
  rw [State.drainTeam_gang?, hlaunches]

theorem State.drainTeam_reachOf (s : State) (core slot : Nat) (t : Team) : (s.drainTeam core slot).reachOf t = s.reachOf t := by
  unfold State.reachOf
  rw [State.drainTeam_gang?, State.drainTeam_launchOf]

/-- No special of a team depends on what its accesses change. -/
theorem State.drainTeam_readSpecial (s : State) (core slot c tid : Nat) (t : Team) (x : Special) :
    readSpecial (s.drainTeam core slot) c t tid x = readSpecial s c t tid x := by
  have hclk : ((s.drainTeam core slot).coreOf c).clk = (s.coreOf c).clk :=
    (congrArg Core.clk (congrFun (s.drainTeam_beyondCaches core slot) c) :)
  have hwin : (s.drainTeam core slot).win = s.win := (congrArg State.win (s.drainTeam_beyondAccess core slot) :)
  cases x <;> simp only [readSpecial, State.teamCx, State.drainTeam_launchOf, hclk, hwin]

theorem State.drainTeam_uni (s : State) (core slot : Nat) (si : Site) (x : Opd) :
    (s.drainTeam core slot).uni si x = s.uni si x := by
  unfold State.uni
  cases x with
  | sp y => exact s.drainTeam_readSpecial ..
  | _ => rfl

theorem State.mx_of_beyondCaches {s t : State} (h : t.beyondCaches = s.beyondCaches) (core : Nat) : t.mx core = s.mx core :=
  (congrArg Core.mx (congrFun h core) :)

theorem State.team?_of_beyondWalk {s t : State} (h : t.beyondWalk = s.beyondWalk) (core slot : Nat) :
    t.team? core slot = s.team? core slot := by
  have hteams : t.teams = s.teams := (congrArg (State.teams ·.1) h :)
  rw [State.team?, hteams, State.team?]

theorem State.walked_team? (s : State) (core : Nat) (cx : CtxId) (va c k : Nat) : (s.walked core cx va).team? c k = s.team? c k :=
  State.team?_of_beyondWalk (State.walkedOn_beyondWalk ..) c k

theorem State.recordRead_team? (s : State) (who : Waiter) (core : Nat) (cx : CtxId) (base n c k : Nat) :
    (s.recordRead who core cx base n).team? c k = s.team? c k :=
  (State.walked_team? ..).trans (State.undefer_team? ..)

theorem State.undefer_beyondCaches (s : State) (who : Waiter) : (s.undefer who).beyondCaches = s.beyondCaches := by
  rw [State.undefer_frame]
  rfl

theorem State.recordRead_beyondCaches (s : State) (who : Waiter) (core : Nat) (cx : CtxId) (base n : Nat) :
    (s.recordRead who core cx base n).beyondCaches = s.beyondCaches :=
  (State.walkedOn_beyondCaches ..).trans (s.undefer_beyondCaches who)

/-! Stores that are sent and join the team's operations. -/

theorem State.sendStores_frame (s : State) (who : OwnerRef) (items : List MemItem) :
    (s.sendStores who items).2 = { s with streams := (s.sendStores who items).2.streams } := by
  induction items generalizing s with
  | nil => rfl
  | cons x xs ih =>
    rw [State.sendStores]
    split
    · exact ih s
    · exact (ih _).trans rfl

/-- Every remote item is sent. -/
theorem State.sendStores_count (s : State) (who : OwnerRef) (items : List MemItem) :
    (s.sendStores who items).1 = (items.filter MemItem.isRemote).length := by
  induction items generalizing s with
  | nil => rfl
  | cons x xs ih =>
    rw [State.sendStores]
    split
    next hplace =>
      rw [List.filter_cons_of_neg (by simp [MemItem.isRemote, hplace])]
      exact ih s
    next hplace =>
      rw [List.filter_cons_of_pos (by simp [MemItem.isRemote, hplace]), List.length_cons]
      exact congrArg (· + 1) (ih _)

/-- The team with one more operation, `n` items of which have been sent to peers in window `win`. -/
def Team.withStores (t : Team) (p : Pend) (n win : Nat) : Team :=
  let t := t.enqueue p
  if n == 0 then t else { t with rpend := t.rpend + n, rwin := some (BitVec.ofNat 32 win), winf := false }

theorem Team.withStores_keepsRegs (t : Team) (p : Pend) (n win : Nat) : keepsRegs t (t.withStores p n win) := by
  unfold Team.withStores
  dsimp only
  split <;> exact t.enqueue_keepsRegs p

theorem Team.withStores_pend (t : Team) (p : Pend) (n win : Nat) : (t.withStores p n win).pend = t.pend ++ [p] := by
  unfold Team.withStores
  dsimp only
  split <;> exact t.enqueue_pend p

theorem Team.enqueue_rpend (t : Team) (p : Pend) : (t.enqueue p).rpend = t.rpend := by
  unfold Team.enqueue
  cases p.flag <;> rfl

theorem Team.withStores_rpend (t : Team) (p : Pend) (n win : Nat) : (t.withStores p n win).rpend = t.rpend + n := by
  unfold Team.withStores
  dsimp only
  split
  next hn => rw [beq_iff_eq.mp hn, Nat.add_zero, Team.enqueue_rpend]
  next => exact congrArg (· + n) (t.enqueue_rpend p)

/-- Stores that no WINF holds join the operations of the team, which stands as `u` where they are issued. -/
theorem issueStore_joins {s s' : State} {si : Site} {u : Team} {items : List MemItem} (hu : s'.team? si.core si.slot = some u)
    (hwinf : winfHolds si items = false) (w : Ins) (hint : Nat) (act : MemAct) :
    ∃ t' r p, s.finish si w.len.size (issueStore s' si hint act items) = t' ∧ t'.team? si.core si.slot = some r ∧
      r.pend = u.pend ++ [p] ∧ p.flag = none ∧ p.work = .mem act hint (items.filter fun x => !x.isRemote) [] ∧
        t'.mem = s'.mem ∧
      t'.cores = s'.cores ∧ r.rpend = u.rpend + (items.filter MemItem.isRemote).length ∧ keepsRegs u r := by
  let p : Pend := { id := s'.nextId, flag := none, work := .mem act hint (items.filter fun x => !x.isRemote) [], dst := [] }
  let sent := s'.newId.2.sendStores si.team.owner items
  have hsent : sent.2 = _ := State.sendStores_frame ..
  have hteam : sent.2.team? si.core si.slot = some u := by
    rw [hsent]
    exact hu
  have hmem : sent.2.mem = s'.mem := by rw [hsent]; rfl
  have hcores : sent.2.cores = s'.cores := by rw [hsent]; rfl
  have hcount : sent.1 = (items.filter MemItem.isRemote).length := State.sendStores_count ..
  obtain ⟨r, hr, hplace⟩ := goneOn_leaves sent.2 si w (u.withStores p sent.1 sent.2.win)
  rw [Team.PlaceOnly] at hplace
  refine ⟨_, r, p, ?_, hr, ?_, rfl, rfl, hmem, hcores, ?_, ?_⟩
  · rw [issueStore, hwinf, if_neg Bool.false_ne_true]
    exact State.finish_onTeam_of_team hteam s w _
  · rw [hplace]
    exact u.withStores_pend ..
  · rw [hplace, ← hcount]
    exact u.withStores_rpend ..
  · rw [hplace]
    exact u.withStores_keepsRegs ..

/-! The instruction. -/

section Store

variable {s : State} {si : Site} {w : Ins} {re : Reach} {t : TileRec} {sc : List (Nat × Nat)} {places : List (Nat × Place)}

/-- What MST's stores ask of the checks. -/
def mstWants (w : Ins) (s : State) (si : Site) (t : TileRec) (sc : List (Nat × Nat)) : List Want :=
  (mstWork w s si t sc).map fun x => { tid := 0, ea := x.1.addr, len := x.1.len, align := 1 }

/-- The state behind the team's accesses in which the record and the translations of the stores have been read. -/
def mstRead (w : Ins) (s : State) (si : Site) (re : Reach) (t : TileRec) (sc : List (Nat × Nat)) : State :=
  ((s.drainTeam si.core si.slot).recordRead (mySelf si) si.core re.cx si.team.lrb.toNat (uB w s si)).walkedFor si.core re.cx
    t.space (mstWants w s si t sc)

theorem mstRead_team? (core slot : Nat) :
    (mstRead w s si re t sc).team? core slot = (s.drainTeam si.core si.slot).team? core slot :=
  (State.team?_of_beyondWalk (State.walkedFor_beyondWalk ..) core slot).trans (State.recordRead_team? ..)

theorem mstRead_mx (core : Nat) : (mstRead w s si re t sc).mx core = s.mx core :=
  State.mx_of_beyondCaches ((State.walkedFor_beyondCaches ..).trans
    ((State.recordRead_beyondCaches ..).trans (s.drainTeam_beyondCaches si.core si.slot))) core

/-- An MST whose checks pass asks for its stores, its flags in TSR. -/
theorem exec_mst (h : s.site? = some si) (g : si.goes s .mst w = true) (hall : collective w si)
    (hreach : s.reachOf si.team = some re) (ha : uA w s si < 16)
    (hacc : ((s.mx si.core).acc? si.slot (uA w s si)).isSome = true)
    (hwide : w.mb 49 = true → uA w s si % 2 = 0 ∧ ((s.mx si.core).acc? si.slot (uA w s si + 1)).isSome = true)
    (htile : (s.drainTeam si.core si.slot).readTile (mySelf si) re si.team.lrb.toNat (uB w s si) = .ok t)
    (hbad : mstBad t (w.mb 49) = none)
    (hscales : (s.drainTeam si.core si.slot).mstScales re t (bits (uC w s si) 15 0) (bits (uC w s si) 31 16) = .ok sc)
    (hsplit : t.splitsPoint (bits (uC w s si) 15 0) (bits (uC w s si) 31 16) = false)
    (hwalks : (s.drainTeam si.core si.slot).walksStuck re.cx t.space (mstWants w s si t sc) = false)
    (hcheck : (s.drainTeam si.core si.slot).check re t.space .store (mstWants w s si t sc) = .ok places) :
    exec (.mst w) s = .next (s.finish si w.len.size (issueStore ((mstRead w s si re t sc).onTeam si fun u =>
      u.addTsr (Flags.all ((mstWork w s si t sc).map (·.2)))) si 0 .store
        ((mstRead w s si re t sc).mstItems si re t.space ((mstWork w s si t sc).map (·.1))))) := by
  have ha' : s.uni si w.a < 16 := ha
  have hacc' : ((s.mx si.core).acc? si.slot (s.uni si w.a)).isSome = true := hacc
  have hwide' : (!w.mb 49 || (s.uni si w.a % 2 == 0 && ((s.mx si.core).acc? si.slot (s.uni si w.a + 1)).isSome)) = true := by
    rw [Bool.or_eq_true, Bool.not_eq_true', Bool.and_eq_true, beq_iff_eq, or_iff_not_imp_left, Bool.not_eq_false]
    exact hwide
  have htile' : (s.drainTeam si.core si.slot).readTile (.fetch (.team si.core si.slot)) re si.team.lrb.toNat (s.uni si w.b) =
      .ok t := htile
  have hscales' : (s.drainTeam si.core si.slot).mstScales re t (bits (s.uni si w.c) 15 0) (bits (s.uni si w.c) 31 16) = .ok sc :=
    hscales
  have hsplit' : t.splitsPoint (bits (s.uni si w.c) 15 0) (bits (s.uni si w.c) 31 16) = false := hsplit
  refine issueMx_ok h g hall ?_
  simp only [firstFail, decide_eq_true ha', hacc', hwide', hreach, State.drainTeam_uni, htile', hbad, hscales', hsplit', if_true,
    Bool.false_eq_true, if_false]
  refine (if_neg (Bool.eq_false_iff.mp hwalks)).trans ?_
  simp only [mstWants, mstWork, uA, uC] at hcheck
  simp only [State.uni, hcheck]
  rfl

end Store

theorem matrixStore : Spec.MatrixStore := by
  intro w s si re t sc places _ h g hall hreach ha hacc hwide s₁ base htile hbad hscales hsplit wants
    hwalks hcheck s₂ items hwinf
  obtain ⟨ps, hteam⟩ := State.drainTeam_team? (State.site?_team h)
  have hread : s₂.team? si.core si.slot = some { si.team with pend := ps } := (mstRead_team? ..).trans hteam
  let addFlags : Team → Team := fun u => u.addTsr (Flags.all ((mstWork w s si t sc).map (·.2)))
  have hflagged : s₂.onTeam si addFlags = s₂.setTeam si.core si.slot (addFlags { si.team with pend := ps }) :=
    State.updTeam_of_team hread addFlags
  have hu : (s₂.onTeam si addFlags).team? si.core si.slot = some (addFlags { si.team with pend := ps }) := by
    rw [hflagged, State.team?_setTeam_self]
  obtain ⟨t', r, p, ht', hr, hpend, hflag, hwork, hmem, hcores, hrpend, hv, hs, hp, -, htsr, -⟩ :=
    issueStore_joins hu hwinf w 0 .store
  have hexec := exec_mst h g hall hreach ha hacc hwide htile hbad hscales hsplit hwalks hcheck
  rw [hflagged] at hmem hcores
  refine ⟨t', _, r, p, hexec.trans (congrArg _ ht'), hteam, hr, hpend, hflag, hwork, hmem, hrpend, ?_, hv, hs, hp, htsr⟩
  have hmx : t'.mx si.core = s₂.mx si.core := by
    unfold State.mx State.coreOf
    rw [hcores]
    rfl
  rw [hmx]
  exact congrArg Matrix.accs (mstRead_mx si.core)

/-- Settles O32: each move's checks pass one by one, and an MST asks for its stores behind the record it reads. -/
theorem matrixArithmeticAndMoves : Obligations.MatrixArithmeticAndMoves := ⟨matrixArithmeticAndMoves_act, matrixStore⟩

end Sys2Proof.Machine
end

section
/-! PROOFS. Steps of fetches, walks and copies (10 R285 to R287, R297 to R301; 11 R316 to R324). -/

namespace Sys2Proof.Machine

open Sys2Proof Host Spec

/-! Operations, their faults and locks, and memory: what the end of an operation changes of them. -/

/-- The engines' operations, the faults at Renweaz, the locks and memory. -/
def State.engineView (s : State) : Tbl EngOp × Tbl FaultRec × List Lock × Memory := (s.ops, s.faults, s.locks, s.mem)

theorem State.updTeamRef_engineView (s : State) (gang index : Nat) (f : Team → Team) :
    (s.updTeamRef gang index f).engineView = s.engineView := by
  unfold State.updTeamRef
  repeat' split
  all_goals rfl

theorem State.barBytes_engineView (s : State) (g b n : Nat) : (s.barBytes g b n).engineView = s.engineView := by
  unfold State.barBytes State.updBar
  split <;> rfl

theorem State.postEvent_engineView (s : State) (core : Nat) (cx : CtxId) (r : EventRec) :
    (s.postEvent core cx r).engineView = s.engineView := by
  rw [State.postEvent_frame]
  rfl

theorem State.fireSignals_engineView (s : State) (n : Nat) : (s.fireSignals n).engineView = s.engineView := by
  induction n generalizing s with
  | zero => rfl
  | succ n ih =>
    rw [State.fireSignals]
    split
    · exact (ih _).trans (State.barBytes_engineView ..)
    · rfl

theorem State.signal_engineView (s : State) (name : Option Nat) : (s.signal name).engineView = s.engineView := by
  cases name with
  | none => rfl
  | some k => exact State.fireSignals_engineView ..

theorem State.endFill_engineView (s : State) (core id n : Nat) (f : MSlot → MSlot) :
    (s.endFill core id n f).engineView = s.engineView := by
  unfold State.endFill
  dsimp only
  repeat' split
  all_goals rfl

theorem State.endFillOf_engineView (s : State) (id : Nat) (o : EngOp) (n : Nat) (f : MSlot → MSlot) :
    (s.endFillOf id o n f).engineView = s.engineView := by
  unfold State.endFillOf
  repeat' split
  · exact State.endFill_engineView ..
  · rfl
  · exact State.endFill_engineView ..

theorem State.countCopy_engineView (s : State) (o : EngOp) (seq : Nat) (faulted : Bool) :
    (s.countCopy o seq faulted).engineView = s.engineView := by
  unfold State.countCopy
  split
  · rfl
  · exact State.updTeamRef_engineView ..

/-- An operation that ends is gone with its locks. -/
theorem State.endOp_engineView (s : State) (id : Nat) (o : EngOp) :
    (s.endOp id o).engineView = (s.ops.erase id, s.faults, s.locks.filter fun l => l.op != id, s.mem) := by
  have hdrop {t u : State} (h : t.engineView = u.engineView) : (t.dropOp id).engineView = (u.dropOp id).engineView := by
    obtain ⟨hops, hrest⟩ := Prod.mk.inj h
    exact Prod.ext (congrArg (·.erase id) hops) hrest
  unfold State.endOp
  dsimp only
  split
  · exact (hdrop (State.barBytes_engineView ..)).trans rfl
  · rfl

/-- What is left where operation `op` has ended: neither it, nor a lock of it. -/
theorem ended_of_engineView {t : State} {op : Nat} {ops : Tbl EngOp} {faults : Tbl FaultRec} {locks : List Lock} {mem : Memory}
    (h : t.engineView = (ops.erase op, faults, locks.filter fun l => l.op != op, mem)) :
    t.ops.get? op = none ∧ t.faults = faults ∧ (∀ l ∈ t.locks, l.op ≠ op) ∧ t.mem = mem := by
  obtain ⟨hops, hfaults, hlocks, hmem⟩ : t.ops = _ ∧ t.faults = _ ∧ t.locks = _ ∧ t.mem = _ := by
    simpa [State.engineView] using h
  refine ⟨?_, hfaults, fun l hl => ?_, hmem⟩
  · rw [hops, Tbl.get?_erase_self]
  · rw [hlocks] at hl
    exact bne_iff_ne.mp (List.mem_filter.mp hl).2

/-! Fetches (10 R285 to R287). -/

section Fetch

variable {s : State} {op : Nat} {o : EngOp} {f : Fetch} (ho : s.ops.get? op = some o) (hwork : o.work = .fetch f)

include ho hwork

theorem exec_fetchComplete {x : Filled} (hreg : o.registered = true) (hlive : s.opLive o = true) (hfault : o.fault = none)
    (hkept : f.kept = false) (hx : s.fetchTile o.reach f.tile f.row f.col = .ok x)
    (hfree : unbarred s (.work op) (s.keysChans false x.keys)) :
    let s₁ := ((s.undefer (.work op)).tileWalked o.core o.reach f.tile f.row f.col).touch o.cx.vd 0 x.keys
    exec (.fetchComplete op) s = .next (((s₁.endFill o.core op f.slot fun y => { y with
      st := .full, ty := f.tile.ty, roleB := f.tile.roleB, scaled := f.tile.scaled, lines := f.tile.kLines, k := f.tile.k
      tail := f.tile.tailOf f.row f.col, image := x.image, fifo := x.fifo }).endOp op o).signal f.walk) := by
  intro s₁
  show execFetchComplete op s = _
  have hready : (!o.registered || !s.opLive o || o.fault.isSome || f.kept) = false := by rw [hreg, hlive, hfault, hkept]; rfl
  simp only [execFetchComplete, ho, hwork, State.finishFetch, hready, Bool.false_eq_true, if_false, hx,
    State.gate_of_unbarred _ hfree, enabled_some]
  rfl

theorem fetchFaultUnmended_ends {rec : Nat} (hfault : o.fault = some rec) :
    ∃ t, exec (.fetchFaultUnmended op) s = .next t ∧ t.ops.get? op = none ∧ t.faults.get? rec = none ∧
      (∀ l ∈ t.locks, l.op ≠ op) ∧ t.mem = s.mem := by
  have hexec : ∃ r fill, exec (.fetchFaultUnmended op) s =
      .next (((((s.dropFault rec).endFillOf op o f.slot fill).endOp op o).signal f.walk).postEvent o.core o.cx r) := by
    show ∃ r fill, execFetchFaultUnmended op s = _
    simp only [execFetchFaultUnmended, ho, hwork, hfault, enabled_some]
    exact ⟨_, _, rfl⟩
  obtain ⟨r, fill, hexec⟩ := hexec
  have hfilled := (State.endFillOf_engineView (s.dropFault rec) op o f.slot fill :)
  have hended := State.endOp_engineView ((s.dropFault rec).endFillOf op o f.slot fill) op o
  obtain ⟨hops, hfaults, hlocks, hmem⟩ := ended_of_engineView
    ((State.postEvent_engineView ..).trans ((State.signal_engineView ..).trans hended))
  have hview : ((s.dropFault rec).endFillOf op o f.slot fill).faults = s.faults.erase rec ∧
      ((s.dropFault rec).endFillOf op o f.slot fill).mem = s.mem :=
    ⟨(congrArg (·.2.1) hfilled :), (congrArg (·.2.2.2) hfilled :)⟩
  refine ⟨_, hexec, hops, ?_, hlocks, hmem.trans hview.2⟩
  rw [hfaults, hview.1, Tbl.get?_erase_self]

end Fetch

/-! Walks (10 R297 to R301). -/

theorem State.writePtes_teams (s : State) (ptes : List (Nat × Nat)) : (s.writePtes ptes).teams = s.teams :=
  foldl_keeps (fun t : State => t.teams = s.teams) (fun t (x : Nat × Nat) => t.writePA x.1 8 x.2) (fun _ _ h => h)
    ptes s rfl

section Walk

variable {s : State} {core slot : Nat} {t : Team} {w : Walk} (ht : s.team? core slot = some t) (hw : t.walk = some w)

include ht hw

theorem exec_walkerEntryRead {re : Reach} (hreach : s.reachOf t = some re) (hstate : w.state = 1) (hstopped : w.stopped = false)
    (hfault : w.fault = none) (hleaving : t.leaving = none) :
    let s₁ := ((s.undefer (.work w.id)).walked core re.cx (w.list + 8 * w.read)).dropKept core slot w
    (∀ x stop, s.walkRead re (w.reader core re) w = .entry x stop →
      exec (.walkerEntryRead core slot) s =
          .next (s₁.1.updTeam core slot fun t => { t with walk := some (s₁.2.push x stop) })) ∧
    ∀ bidx bcol a b, s.walkRead re (w.reader core re) w = .block bidx bcol a b → w.rot ∉ w.busy →
      exec (.walkerEntryRead core slot) s = .next (s₁.1.walkFetch core slot t s₁.2 re bidx bcol a b) := by
  intro s₁
  have hready : (w.state != 1 || w.stopped || w.fault.isSome || t.leaving.isSome) = false := by
    rw [hstate, hstopped, hfault, hleaving]
    rfl
  constructor
  · intro x stop hfound
    show execWalkerEntryRead core slot s = _
    simp only [execWalkerEntryRead, ht, hw, hreach, hready, Bool.false_eq_true, if_false, hfound, enabled_some]
    rfl
  · intro bidx bcol a b hfound hpair
    have hpair' : w.busy.contains w.rot = false := by simpa using hpair
    show execWalkerEntryRead core slot s = _
    simp only [execWalkerEntryRead, ht, hw, hreach, hready, Bool.false_eq_true, if_false, hfound, hpair', enabled_some]
    rfl

theorem exec_walkerFaultResolve {rec : Nat} (hfault : w.fault = some rec) :
    exec (.walkerFaultResolve core slot none) s = .next ((s.dropFault rec).setTeam core slot { t with
      walk := some ({ w with fault := none }.push (.bad clsMLISTF 36) true) }) ∧
    ∀ ptes, mayMap (s.dropFault rec) ptes → exec (.walkerFaultResolve core slot (some ptes)) s =
      .next (((s.dropFault rec).writePtes ptes).setTeam core slot { t with walk := some { w with fault := none } }) := by
  have hteam : (s.dropFault rec).team? core slot = some t := ht
  constructor
  · show execWalkerFaultResolve core slot none s = _
    simp only [execWalkerFaultResolve, ht, hw, hfault, State.updTeam_of_team hteam, enabled_some]
  · intro ptes hmap
    have hmapped : ((s.dropFault rec).writePtes ptes).team? core slot = some t := by
      rw [State.team?, State.writePtes_teams]
      exact hteam
    show execWalkerFaultResolve core slot (some ptes) s = _
    simp only [execWalkerFaultResolve, ht, hw, hfault, State.remap_of_mayMap hmap, Option.map_some, State.updTeam_of_team hmapped,
      enabled_some]

end Walk

theorem fetchSteps : Spec.FetchSteps := fun _ =>
  ⟨fun _ _ _ _ ho hwork hreg hlive hfault hkept hx hfree => exec_fetchComplete ho hwork hreg hlive hfault hkept hx hfree,
    fun _ _ _ _ ho hwork hfault => fetchFaultUnmended_ends ho hwork hfault,
    fun _ _ _ _ _ ht hw hreach hstate hstopped hfault hleaving =>
      exec_walkerEntryRead ht hw hreach hstate hstopped hfault hleaving,
    fun _ _ _ _ _ ht hw hfault => exec_walkerFaultResolve ht hw hfault⟩

/-! Copies (11 R316 to R324). -/

/-- Undefined bytes do not depend on the faults at Renweaz. -/
theorem State.scribble_dropFault_mem (s : State) (rec : Nat) (keys : List Nat) :
    ((s.dropFault rec).scribble keys).mem = (s.scribble keys).mem :=
  congrArg Prod.fst (State.putKeys_bytes (s := s) (t := s.dropFault rec) rfl keys _)

theorem State.undefer_readKey (s : State) (w : Waiter) : (s.undefer w).readKey = s.readKey := by
  rw [State.undefer_frame]
  rfl

section Copy

variable {s : State} {op seq : Nat} {o : EngOp} {r : CopyReq} (ho : s.ops.get? op = some o)

include ho

theorem exec_accumCommit {sk dk : List Nat} (hwork : o.work = .copy r seq false) (hruns : s.copyRuns o = true)
    (hkeys : s.copyKeys o.reach r = .ok (sk, dk)) (hfree : unbarred s (.work op) (s.keysChans false sk ++ s.keysChans true dk))
    (hkind : r.kind = 4) :
    exec (.accumCommit op) s = .next ((((s.undefer (.work op)).copyWalked o.core o.reach r).accumInto o.cx.vd r
      (sk.map s.readKey) dk).setOp op { o with work := .copy r seq true }) := by
  have hready : (r.kind != 4 || !s.copyRuns o) = false := by rw [hkind, hruns]; rfl
  show execAccumCommit op s = _
  simp only [execAccumCommit, ho, hwork, hready, Bool.false_eq_true, if_false, hkeys, State.gate_of_unbarred _ hfree,
    State.undefer_readKey, enabled_some]

theorem exec_copyFinish {sk dk : List Nat} (hwork : o.work = .copy r seq false) (hruns : s.copyRuns o = true)
    (hkeys : s.copyKeys o.reach r = .ok (sk, dk)) (hfree : unbarred s (.work op) (s.keysChans false sk ++ s.keysChans true dk))
    (hkind : r.kind ≠ 4) :
    let s₁ := (s.undefer (.work op)).copyWalked o.core o.reach r
    exec (.copyFinish op) s = .next (((s₁.engineWrite o.cx.vd dk (s₁.copyData r sk)).endOp op o).countCopy o seq false) := by
  intro s₁
  show execCopyFinish op s = _
  simp only [execCopyFinish, ho, State.finishCopy, hwork, hruns, Bool.not_true, Bool.false_eq_true, if_false,
    beq_false_of_ne hkind, hkeys, State.gate_of_unbarred _ hfree, enabled_some]
  rfl

theorem exec_copyFinish_committed (hwork : o.work = .copy r seq true) (hkind : r.kind = 4) (hruns : s.copyRuns o = true) :
    exec (.copyFinish op) s = .next ((s.endOp op o).countCopy o seq false) := by
  show execCopyFinish op s = _
  simp only [execCopyFinish, ho, State.finishCopy, hwork, hruns, hkind, Bool.not_true, Bool.false_eq_true, if_false,
    beq_self_eq_true, if_true, enabled_some]

theorem copyFaultUnmended_ends {rec : Nat} {b : Bool} (hwork : o.work = .copy r seq b) (hfault : o.fault = some rec) :
    ∃ t, exec (.copyFaultUnmended op) s = .next t ∧ t.ops.get? op = none ∧ (∀ l ∈ t.locks, l.op ≠ op) ∧
      t.mem = (s.scribble (s.copyReached o.reach r)).mem := by
  have hexec : ∃ x, exec (.copyFaultUnmended op) s =
      .next (((((s.dropFault rec).scribble (s.copyReached o.reach r)).endOp op o).countCopy o seq true).postEvent
        o.core o.cx x) := by
    show ∃ x, execCopyFaultUnmended op s = _
    simp only [execCopyFaultUnmended, ho, hwork, hfault, enabled_some]
    exact ⟨_, rfl⟩
  obtain ⟨x, hexec⟩ := hexec
  obtain ⟨hops, -, hlocks, hmem⟩ := ended_of_engineView ((State.postEvent_engineView ..).trans
    ((State.countCopy_engineView ..).trans (State.endOp_engineView ((s.dropFault rec).scribble (s.copyReached o.reach r)) op o)))
  exact ⟨_, hexec, hops, hlocks, hmem.trans (State.scribble_dropFault_mem ..)⟩

end Copy

theorem copySteps : Spec.CopySteps := fun _ _ _ _ _ ho =>
  ⟨fun _ _ hwork hruns hkeys hfree => ⟨exec_accumCommit ho hwork hruns hkeys hfree,
      exec_copyFinish ho hwork hruns hkeys hfree⟩,
    exec_copyFinish_committed ho, fun _ _ hwork hfault => copyFaultUnmended_ends ho hwork hfault⟩

/-- Settles O41: each step does what its engine's rule names, and what ends leaves neither its entry nor a lock. -/
theorem engineSteps : Obligations.EngineSteps := ⟨fetchSteps, copySteps⟩

end Sys2Proof.Machine
end

section
/-! PROOFS. MFETCH, MLIST and MNEXT on a team (10 R282 to R287, R297 to R301). -/

namespace Sys2Proof.Machine

open Sys2Proof Host Spec

/-! MFETCH (R285). -/

/-- A fetch whose record, tile and barrier pass the checks starts. -/
theorem State.fetchInto_starts {s : State} {who : Waiter} {reader re : Reach} {base n : Nat} {tile : TileRec} {t : Team}
    {at' : Nat × Nat} {bar : Nat} (hrecord : s.readOperand who reader base n = .ok tile) (hreach : s.reachOf t = some re)
    (hout : s.tileOut re tile at'.1 at'.2 = none) (hbar : s.barDead t.gang bar = false) (core slot into : Nat) (byCtl : Bool) :
    s.fetchInto who core slot t reader base n byCtl into bar at' =
      .ok ((s.recordRead who core re.cx base n).startFetch core slot t re byCtl (some (t.gang, bar))
        { slot := into, tile := tile, row := at'.1, col := at'.2, walk := none }) := by
  simp only [State.fetchInto, hrecord, hreach, hout, hbar, Bool.false_eq_true, if_false]

section Instructions

variable {s : State} {si : Site} {w : Ins} {re : Reach} (h : s.site? = some si) (hall : collective w si)

include h hall

theorem mfetch_starts {tile : TileRec} (hreach : s.reachOf si.team = some re) (g : si.goes s .mfetch w = true)
    (hslot : ((s.mx si.core).held? si.slot (w.m 57 53)).isSome = true) (hring : si.team.inRing (w.m 57 53) = false) :
    let s₁ := s.drainTeam si.core si.slot
    let base := si.team.lrb.toNat
    let at' := fetchCoords w.imm.toNat (uA w s si)
    s₁.readOperand (mySelf si) re base (uB w s si) = .ok tile → s₁.tileOut re tile at'.1 at'.2 = none →
    s₁.barDead si.team.gang (w.m 52 49) = false →
    let r := (s₁.recordRead (mySelf si) si.core re.cx base (uB w s si)).startFetch si.core si.slot si.team re false
      (some (si.team.gang, w.m 52 49)) { slot := w.m 57 53, tile := tile, row := at'.1, col := at'.2, walk := none }
    (r.2.opsSettled [r.1] = true → exec (.mfetch w) s = .next (r.2.retireIns si w.len.size)) ∧
      (r.2.opsSettled [r.1] = false → exec (.mfetch w) s = .next (r.2.updTeam si.core si.slot fun t =>
        ((t.count si s).stepOver si.entry si.pos w.len.size).blockSplit si.entry (.locks [r.1]))) := by
  intro s₁ base at' hrecord hout hbar r
  have hstart : s₁.fetchInto (.fetch (.team si.core si.slot)) si.core si.slot si.team re si.team.lrb.toNat (s.uni si w.b) false
      (w.m 57 53) (w.m 52 49) (fetchCoords w.imm.toNat (s.uni si w.a)) = .ok r :=
    State.fetchInto_starts hrecord ((State.drainTeam_reachOf ..).trans hreach) hout hbar ..
  have hslot' : ((s.mx si.core).held? si.slot (w.m 57 53)).isNone = false := by rw [← Option.not_isSome, hslot]; rfl
  have hexec : exec (.mfetch w) s = .next (s.finish si w.len.size
      (if r.2.opsSettled [r.1] then .done r.2 else .block r.2 (.locks [r.1]) true)) := by
    show execMfetch w s = _
    refine (issueBoth_team _ _ h).trans ((issueTeam_collective h g hall).trans (congrArg _ ?_))
    simp only [hslot', hring, Bool.false_eq_true, if_false, hreach, hstart, s₁]
  constructor <;> intro hsettled <;> rw [hexec, hsettled] <;> rfl

/-! MNEXT (R300). -/

theorem mnext_waits {k : Walk} {d : Nat} (g : si.goes s .mnext w = true) (hk : si.team.walk = some k) (hd : w.d = .s d)
    (hactive : k.active = true) (hnone : k.freeLast.ready = []) :
    exec (.mnext w) s = .next (s.setTeam si.core si.slot
      ({ si.team with walk := some k.freeLast }.blockSplit si.entry .mnext)) := by
  refine (issueMx_ok h g hall (r := .block (s.onTeam si fun t => { t with walk := some k.freeLast }) .mnext false) ?_).trans
    (congrArg _ ?_)
  · simp only [hk, hd, hactive, Bool.not_true, Bool.false_eq_true, if_false, hnone]
  · rw [State.onTeam_site h]
    exact State.updTeam_setTeam ..

theorem mnext_delivers {k : Walk} {d : Nat} {x : WEntry} {rest : List WEntry} (g : si.goes s .mnext w = true)
    (hk : si.team.walk = some k) (hd : w.d = .s d) (hactive : k.active = true) (hready : k.freeLast.ready = x :: rest)
    (hgood : x.kind ≠ 3) :
    exec (.mnext w) s = .next (s.goneOn si w (({ si.team with walk := some (k.freeLast.deliver x) }.setS d
      (x.words k.freeLast.rows).1).setS (d + 1) (x.words k.freeLast.rows).2)) := by
  refine (issueMx_ok h g hall ?_).trans (congrArg _ (State.finish_onTeam h w fun t =>
    ({ t with walk := some (k.freeLast.deliver x) }.setS d (x.words k.freeLast.rows).1).setS (d + 1) (x.words k.freeLast.rows).2))
  simp only [hk, hd, hactive, Bool.not_true, Bool.false_eq_true, if_false, hready, beq_false_of_ne hgood]

theorem mnext_traps {k : Walk} {d : Nat} {x : WEntry} {rest : List WEntry} (g : si.goes s .mnext w = true)
    (hk : si.team.walk = some k) (hd : w.d = .s d) (hactive : k.active = true) (hready : k.freeLast.ready = x :: rest)
    (hbad : x.kind = 3) :
    let bad := Team.noteMx x.cls x.reason { si.team with walk := some { k.freeLast with ready := [] } }
    exec (.mnext w) s = .next (s.trapSite { si with team := bad } ⟨x.cls, 0, 0⟩ w.len.size) := by
  refine issueMx_ok h g hall (r := .trapWith (fun t => Team.noteMx x.cls x.reason
    { t with walk := some { k.freeLast with ready := [] } }) (.mk0 x.cls)) ?_
  simp only [hk, hd, hactive, Bool.not_true, Bool.false_eq_true, if_false, hready, hbad, beq_self_eq_true, if_true]

end Instructions

/-! MLIST (R297). -/

/-- A walk of a team's own as it starts from a descriptor. -/
def WalkDesc.started (d : WalkDesc) (id base bar : Nat) : Walk :=
  { id := id, state := 1, list := d.list, ah := d.ah, bh := d.bh, ntile := d.ntile, ring := unitsOf d.ring, maxent := d.maxent
    bar := bar, base := base, byCtl := false, read := 0, stopped := false, next := 0, rows := 0, ready := [], rot := 0, busy := []
    last := none, fired := 0, fault := none }

/-- The two records of a walk have been read. -/
def State.walkRecordsRead (s : State) (who : Waiter) (core : Nat) (cx : CtxId) (base : Nat) (d : WalkDesc) : State :=
  (s.recordRead who core cx base d.ah).walked core cx (base + 64 * d.bh)

theorem State.walkRecordsRead_team? (s : State) (who : Waiter) (core : Nat) (cx : CtxId) (base : Nat) (d : WalkDesc) (c k : Nat) :
    (s.walkRecordsRead who core cx base d).team? c k = s.team? c k :=
  (State.walked_team? ..).trans (State.recordRead_team? ..)

theorem State.startWalk_starts {s : State} {who : Waiter} {core slot base bar : Nat} {t : Team} {re : Reach} {d : WalkDesc}
    {a b : TileRec} (hok : d.ok (s.mx core) slot = true) (hbar : s.barDead t.gang bar = false)
    (ha : s.readOperand who re base d.ah = .ok a) (hb : s.readOperand who re base d.bh = .ok b) :
    s.startWalk who core slot t re base bar false d = .ok ((s.walkRecordsRead who core re.cx base d).newId.2.updTeam core slot
      fun t => { t with walk := some (d.started (s.walkRecordsRead who core re.cx base d).newId.1 base bar) }) := by
  simp only [State.startWalk, hok, hbar, ha, hb, Bool.not_true, Bool.false_eq_true, if_false]
  rfl

section Start

variable {s : State} {si : Site} {w : Ins} {re : Reach} {d : WalkDesc} {a b : TileRec}

/-- MLIST of a valid descriptor leaves the team with the walk at its first entry, and changes memory only as the walker's reads
of the tables do. -/
theorem mlist_starts (h : s.site? = some si) (hall : collective w si) (hreach : s.reachOf si.team = some re)
    (g : si.goes s .mlist w = true) (hidle : si.team.walkActive = false) :
    let s₁ := s.drainTeam si.core si.slot
    let base := si.team.lrb.toNat
    s₁.readWalk (mySelf si) re (rd64 s si.core si.team 0 w.a) = .ok d →
    d.team = 0 → d.ok (s₁.mx si.core) si.slot = true →
    s₁.barDead si.team.gang (w.m 52 49) = false → s₁.readOperand (mySelf si) re base d.ah = .ok a →
    s₁.readOperand (mySelf si) re base d.bh = .ok b →
    ∃ t u id, exec (.mlist w) s = .next t ∧ t.team? si.core si.slot = some u ∧
      u.walk = some (d.started id base (w.m 52 49)) ∧
      keepsRegs si.team u ∧ t.mem = (s₁.walkRecordsRead (mySelf si) si.core re.cx base d).mem := by
  intro s₁ base hdesc hteam hok hbar ha hb
  obtain ⟨ps, hdrained⟩ := State.drainTeam_team? (State.site?_team h)
  have hdesc' : s₁.readWalk (.fetch (.team si.core si.slot)) re (s.uni64 si w.a) = .ok d := hdesc
  let s₂ := s₁.walkRecordsRead (mySelf si) si.core re.cx base d
  let k := d.started s₂.newId.1 base (w.m 52 49)
  have hstart : s₁.startWalk (.fetch (.team si.core si.slot)) si.core si.slot si.team re si.team.lrb.toNat (w.m 52 49) false d =
      .ok (s₂.newId.2.onTeam si fun t => { t with walk := some k }) := State.startWalk_starts hok hbar ha hb
  have hread : s₂.newId.2.team? si.core si.slot = some { si.team with pend := ps } :=
    (State.walkRecordsRead_team? ..).trans hdrained
  have hexec : exec (.mlist w) s = .next (s.finish si w.len.size (.done (s₂.newId.2.onTeam si fun t =>
      { t with walk := some k }))) := by
    show execMlist w s = _
    refine (issueBoth_team _ _ h).trans ((issueTeam_collective h g hall).trans (congrArg _ ?_))
    simp only [hidle, Bool.false_eq_true, if_false, hreach, hdesc', hteam, bne_self_eq_false, hstart, s₁]
  obtain ⟨u, hu, hplace⟩ := goneOn_leaves s₂.newId.2 si w { si.team with pend := ps, walk := some k }
  rw [Team.PlaceOnly] at hplace
  refine ⟨_, u, s₂.newId.1, hexec.trans (congrArg _ (State.finish_onTeam_of_team hread s w _)), hu, ?_, ?_, rfl⟩
  · rw [hplace]
    rfl
  · rw [hplace]
    exact keepsRegs.refl _

end Start

/-! Memory behind MLIST. Where no two crumbs share a set of the L2 the walker's reads of the tables move no byte. The set is a
free value without a body (02 R40; log 13), so that no proof can say whether they do. -/

theorem State.walkRecordsRead_mem_of_injective (hset : Function.Injective Config.setIndex) (s : State) (who : Waiter) (core : Nat)
    (cx : CtxId) (base : Nat) (d : WalkDesc) : (s.walkRecordsRead who core cx base d).mem = s.mem :=
  (State.walkedOn_mem hset ..).trans ((State.walkedOn_mem hset ..).trans (s.undefer_mem who))

/-- With one set for each crumb, FetchesAndWalks holds. -/
theorem fetchesAndWalks_of_injective (hset : Function.Injective Config.setIndex) : Obligations.FetchesAndWalks := by
  intro w s si re h hall hreach s₁ base
  refine ⟨?mfetch, ?mlist, ?mnext⟩
  case mfetch =>
    intro tile _ g hslot hring hrecord at' hout hbar
    exact mfetch_starts h hall hreach g hslot hring hrecord hout hbar
  case mlist =>
    intro d a b _ g hidle hdesc hteam hok hbar ha hb
    obtain ⟨t, u, id, hexec, hu, hk, hregs, hmem⟩ := mlist_starts h hall hreach g hidle hdesc hteam hok hbar ha hb
    exact ⟨t, u, _, hexec, hu, hk, rfl, rfl, rfl, rfl, rfl, rfl, rfl, rfl, rfl, rfl, rfl, hregs,
      fun _ => hmem.trans (State.walkRecordsRead_mem_of_injective hset ..)⟩
  case mnext =>
    intro k d _ g hk hd hactive
    exact ⟨mnext_waits h hall g hk hd hactive, fun _ _ hready => ⟨mnext_delivers h hall g hk hd hactive hready,
      mnext_traps h hall g hk hd hactive hready⟩⟩

end Sys2Proof.Machine
end

section
/-! PROOFS. FetchesAndWalks (10 R297) where two crumbs of one tile share a set of the L2: the walk of a root table among the keys
of tiles, which the statement does not shut out, has MLIST write the tile back (02 R40, R46; 15 R409, R413). -/

namespace Sys2Proof.Machine

open Sys2Proof Host Spec

/-- The state of rootInTile, in which the team holds slots 0 and 1 and s2 names a walk's descriptor at 0x4000, whose two records
are the one at 0x3000. -/
def walkInTile : State :=
  { rootInTile with
    teams := rootInTile.teams.map fun x => (x.1, { x.2 with s := [(2, 0x4000)], lrb := 0x3000 })
    gangs := rootInTile.gangs.map fun x => (x.1, x.2.setBar 0 { Barrier.init with members := 1 })
    cores := (rootInTile.setMx 0 { slots := [(0, .fresh 0), (1, .fresh 0)], accs := [], claims := [] }).cores
    mem := [(0x2000, 0x1F), (0x3001, 0x80), (0x3010, 16), (0x3014, 16), (0x3018, 16), (0x301C, 9), (0x3020, 16), (0x3022, 16),
      (0x4001, 0x50), (0x4010, 3), (0x4014, 1), (tileRoot, 1), (tileRoot + 1, 0x20)] }

/-- MLIST of s2. -/
def listS2 : Ins := { Spec.blank with a := .s 2 }

def walkStarts (s : State) (si : Site) (re : Reach) : Bool :=
  match s.readWalk (mySelf si) re (rd64 s si.core si.team 0 (.s 2)) with
  | .ok d => d.team == 0 && d.ok (s.mx si.core) si.slot && d.ah == 0 && d.bh == 0 &&
      (s.readOperand (mySelf si) re si.team.lrb.toNat 0).isOk
  | .error _ => false

theorem walkInTile_meets : (walkInTile.site?.any fun si => WellFormed .team (.mlist listS2) && si.goes walkInTile .mlist listS2 &&
    si.exec listS2 == si.team.launched && si.core == 0 && si.slot == 0 && si.team.lrb == 0x3000 && !si.team.walkActive &&
    !walkInTile.barDead si.team.gang 0 && (walkInTile.reachOf si.team).any fun re =>
      re.cx == ⟨0, 0⟩ && walkStarts walkInTile si re) =
      true ∧ walkInTile.drainTeam 0 0 = walkInTile := by decide +kernel

/-! The first walk enters the TLBs, and the second reads no table. -/

theorem State.walkedOn_of_tlb {s : State} {cx : CtxId} {va : Nat} (h : (s.tlbEntry cx (va / 65536)).isSome = true) (die : Nat)
    (core : Option Nat) : s.walkedOn die core cx va = s := by
  obtain ⟨e, he⟩ := Option.isSome_iff_exists.mp h
  simp only [State.walkedOn, he]

theorem State.tlbEntry_of_dieTlb {s : State} {die : Nat} {l : List TlbEntry} {e : TlbEntry} (hl : s.dieTlbs.get? die = some l)
    (he : e ∈ l) : (s.tlbEntry e.cx e.page).isSome = true := by
  have hfound : (s.dieTlbs.findSome? fun x => x.2.find? fun y => y.isFor e.cx e.page).isSome = true := by
    rw [List.findSome?_isSome_iff]
    exact ⟨_, Tbl.mem_of_get? hl, List.find?_isSome.mpr ⟨e, he, by simp [TlbEntry.isFor]⟩⟩
  obtain ⟨x, hx⟩ := Option.isSome_iff_exists.mp hfound
  rw [State.tlbEntry, hx]
  rfl

/-- A translation that a walk has found is held. -/
theorem State.walkedOn_tlbEntry {s : State} {cx : CtxId} {va level pte : Nat} {c : Ctx}
    (hleaf : s.leafOf? cx va = some (level, pte)) (hctx : s.ctx? cx = some c) (die : Nat) (core : Option Nat) :
    ((s.walkedOn die core cx va).tlbEntry cx (va / 65536)).isSome = true := by
  cases htlb : s.tlbEntry cx (va / 65536) with
  | some e =>
    have hheld : (s.tlbEntry cx (va / 65536)).isSome = true := by rw [htlb]; rfl
    rw [State.walkedOn_of_tlb hheld, hheld]
  | none =>
    simp only [State.walkedOn, htlb, hleaf, hctx]
    exact State.tlbEntry_of_dieTlb (e := { cx := cx, page := va / 65536, pte := pte, level := level })
      (Tbl.get?_set_self ..) (List.mem_append_right _ List.mem_cons_self)

/-! The walk's reads fill the tile, whose second crumb has the first one's line leave, and with it the tile. -/

/-- The first crumb of the tile has its line. -/
def walkOneFilled : State := { walkInTile with lines := oneFilled.lines }

/-- The tile is filled: it has been written back on the way. -/
def walkTileFilled : State := ((walkOneFilled.secondFilled.fillTileLines 0 0 [66, 67]).getD walkOneFilled).fillTile 16

theorem walkOneFilled_fillLine (hset : Config.setIndex 64 = Config.setIndex 65) :
    walkOneFilled.fillLine 0 0 true 65 = some walkOneFilled.secondFilled := by
  have hlines : walkOneFilled.setLines 64 (Config.setIndex 65) = [(64, { plainLine 0 with tile := true })] := by
    refine (List.filter_cons_of_pos ?_).trans (congrArg (List.cons _) rfl)
    exact Bool.and_eq_true_iff.mpr ⟨by decide +kernel, beq_iff_eq.mpr hset⟩
  have hslice : crumbSlice true 65 = 64 := by decide +kernel
  have hway : walkOneFilled.fillWay (crumbSlice true 65) 65 0 = some (0, some 64, false) := by
    rw [hslice]
    unfold State.fillWay
    simp only [hlines]
    decide +kernel
  rw [State.fillLine, hway]
  rfl

theorem walkInTile_fillTileLines (hset : Config.setIndex 64 = Config.setIndex 65) :
    walkInTile.fillTileLines 0 0 [64, 65, 66, 67] = walkOneFilled.secondFilled.fillTileLines 0 0 [66, 67] := by
  have hfirst : walkInTile.fillLine 0 0 true 64 = some walkOneFilled := rfl
  have hmiss : walkInTile.lines.get? 64 = none := by decide +kernel
  have hmiss' : walkOneFilled.lines.get? 65 = none := by decide +kernel
  simp only [State.fillTileLines, hmiss, hfirst, hmiss', walkOneFilled_fillLine hset]

theorem walkInTile_touch (hset : Config.setIndex 64 = Config.setIndex 65) : walkInTile.touch 0 0 [tileRoot] = walkTileFilled := by
  have hmiss : walkInTile.lines.get? 64 = none := by decide +kernel
  have hfilled : (walkOneFilled.secondFilled.fillTileLines 0 0 [66, 67]).isSome = true := by decide +kernel
  obtain ⟨t, ht⟩ := Option.isSome_iff_exists.mp hfilled
  have hfill := (walkInTile_fillTileLines hset).trans ht
  have htile : walkTileFilled = t.fillTile 16 := by rw [walkTileFilled, ht, Option.getD_some]
  show walkInTile.touchTile 0 0 64 true = walkTileFilled
  simp only [State.touchTile, hmiss, hfill, htile, Nat.reduceDiv, Nat.reduceMul, Nat.reduceAdd]
  cases walkInTile.tiles.get? 16 <;> rfl

theorem walkInTile_recordsRead (hset : Config.setIndex 64 = Config.setIndex 65) (who : Waiter) {d : WalkDesc} (ha : d.ah = 0)
    (hb : d.bh = 0) : (walkInTile.walkRecordsRead who 0 ⟨0, 0⟩ 0x3000 d).mem.read 0x1000 = 7 := by
  have htlb : walkInTile.tlbEntry ⟨0, 0⟩ (0x3000 / 65536) = none := by decide +kernel
  have hleaf : walkInTile.leafOf? ⟨0, 0⟩ 0x3000 = some (1, 0x1F) := by decide +kernel
  have hctx : walkInTile.ctx? ⟨0, 0⟩ = some { Ctx.init with root := tileRoot } := by decide +kernel
  have hreads : walkReads walkInTile 0x3000 levels tileRoot = [tileRoot, 0x2000] := by decide +kernel
  have hfirst : (walkInTile.walked 0 ⟨0, 0⟩ 0x3000).mem = (walkTileFilled.touch 0 0 [0x2000]).mem := by
    refine (State.walkedOn_mem_of_leaf htlb hleaf hctx ..).trans ?_
    rw [hreads, List.foldl_cons, List.foldl_cons, List.foldl_nil, walkInTile_touch hset]
  have hsecond : walkInTile.walkRecordsRead who 0 ⟨0, 0⟩ 0x3000 d = walkInTile.walked 0 ⟨0, 0⟩ 0x3000 := by
    rw [State.walkRecordsRead, State.recordRead, ha, hb, State.undefer_of_deferred_nil who (s := walkInTile) rfl]
    exact State.walkedOn_of_tlb (State.walkedOn_tlbEntry hleaf hctx ..) ..
  rw [hsecond, hfirst]
  decide +kernel

/-- The statement asks that reading the two records of a walk move no byte, whatever the root table is. -/
theorem walkRecordsRead_mem_of_fetchesAndWalks (hall : Obligations.FetchesAndWalks) {s s₁ : State} {si : Site} {w : Ins}
    {re : Reach} {d : WalkDesc} {a b : TileRec} (h : s.site? = some si) (hs₁ : s.drainTeam si.core si.slot = s₁)
    (hmask : collective w si) (hreach : s.reachOf si.team = some re) (hwf : WellFormed .team (.mlist w) = true)
    (g : si.goes s .mlist w = true) (hidle : si.team.walkActive = false)
    (hdesc : s₁.readWalk (mySelf si) re (rd64 s si.core si.team 0 w.a) = .ok d) (hteam : d.team = 0)
    (hok : d.ok (s₁.mx si.core) si.slot = true) (hbar : s₁.barDead si.team.gang (w.m 52 49) = false)
    (ha : s₁.readOperand (mySelf si) re si.team.lrb.toNat d.ah = .ok a)
    (hb : s₁.readOperand (mySelf si) re si.team.lrb.toNat d.bh = .ok b) (hlines : noTileLines s₁) :
    (s₁.walkRecordsRead (mySelf si) si.core re.cx si.team.lrb.toNat d).mem = s₁.mem := by
  subst hs₁
  obtain ⟨-, hlist, -⟩ := hall w s si re h hmask hreach
  obtain ⟨t, -, -, hexec, -, -, -, -, -, -, -, -, -, -, -, -, -, -, hkept⟩ :=
    hlist d a b hwf g hidle hdesc hteam hok hbar ha hb
  obtain ⟨t', -, -, hexec', -, -, -, hmem⟩ := mlist_starts h hmask hreach g hidle hdesc hteam hok hbar ha hb
  obtain rfl : t' = t := Outcome.next.inj (hexec'.symm.trans hexec)
  exact hmem.symm.trans (hkept hlines)

/-- With crumbs 64 and 65, of tile 16, in one set, FetchesAndWalks fails. -/
theorem not_fetchesAndWalks_of_setIndex (hset : Config.setIndex 64 = Config.setIndex 65) : ¬ Obligations.FetchesAndWalks := by
  intro hall
  obtain ⟨hmeets, hdrained⟩ := walkInTile_meets
  obtain ⟨si, hsite, hsi⟩ := (Option.any_eq_true ..).mp hmeets
  simp only [Bool.and_eq_true, beq_iff_eq, Bool.not_eq_true', Option.any_eq_true] at hsi
  obtain ⟨⟨⟨⟨⟨⟨⟨⟨hwf, g⟩, hmask⟩, hcore⟩, hslot⟩, hlrb⟩, hidle⟩, hbar⟩,
    re, hreach, hcx, hstarts⟩ :=
    hsi
  have hdrained' : walkInTile.drainTeam si.core si.slot = walkInTile := by rw [hcore, hslot, hdrained]
  unfold walkStarts at hstarts
  split at hstarts
  next d hdesc =>
    simp only [Bool.and_eq_true, beq_iff_eq] at hstarts
    obtain ⟨⟨⟨⟨hteam, hok⟩, hah⟩, hbh⟩, hrecord⟩ := hstarts
    obtain ⟨x, hx⟩ : ∃ x, walkInTile.readOperand (mySelf si) re si.team.lrb.toNat 0 = .ok x := by
      cases hread : walkInTile.readOperand (mySelf si) re si.team.lrb.toNat 0 with
      | ok x => exact ⟨x, rfl⟩
      | error e =>
        rw [hread] at hrecord
        cases hrecord
    have hlines : noTileLines walkInTile := List.forall_mem_cons.mpr ⟨rfl, List.forall_mem_cons.mpr ⟨rfl,
      List.forall_mem_singleton.mpr rfl⟩⟩
    have hkept := walkRecordsRead_mem_of_fetchesAndWalks hall hsite hdrained' hmask hreach hwf g hidle hdesc hteam hok hbar
      (hah.symm ▸ hx) (hbh.symm ▸ hx) hlines
    have hseven := walkInTile_recordsRead hset (mySelf si) hah hbh
    have hbase : si.team.lrb.toNat = 0x3000 := by rw [hlrb]; rfl
    rw [hcore, hcx, hbase] at hkept
    rw [hkept] at hseven
    exact absurd hseven (by decide +kernel)
  next => cases hstarts

end Sys2Proof.Machine
end

section
/-! PROOFS. The state after reset (02 R62; 03 R67; 16 R448). -/

namespace Sys2Proof.Machine

open Sys2Proof Host Spec

/-- Under mode 0 a tile is its bytes as they lie (15 R411). -/
theorem decodeTile_raw (raw : List Byte) : decodeTile 0 raw = raw := rfl

/-- With no byte listed and no tile resident, every byte reads 0. -/
theorem State.readKey_of_empty {s : State} (hmem : s.mem = []) (htiles : s.tiles = []) (k : Nat) : s.readKey k = 0 := by
  have hread : s.mem.read = fun _ => 0 := by rw [hmem]; rfl
  unfold State.readKey
  split
  · have hbytes : s.tileBytes (tilePA k / 256) = (keysFrom (256 * (tilePA k / 256)) 256).map fun _ => 0 := by
      simp only [State.tileBytes, htiles, Tbl.get?, hread, State.dram]
      exact decodeTile_raw _
    rw [hbytes]
    exact List.getD_map (d := 0) _ fun _ => 0
  · rw [hread]

/-- Partition 0 is the only one, and owns everything (03 R67). -/
theorem State.reset_parts {n : Nat} {p : Part} (h : State.reset.parts.get? n = some p) : n = 0 ∧ p = Part.all := by
  have hone : (if 0 == n then some Part.all else none) = some p := h
  split at hone
  next hn => exact ⟨(beq_iff_eq.mp hn).symm, (Option.some.inj hone).symm⟩
  next => cases hone

/-- Settles O56: every table of the state after reset is empty but that of the partitions. -/
theorem stateAfterReset : Obligations.StateAfterReset := by
  refine ⟨rfl, rfl, rfl, State.readKey_of_empty rfl rfl, rfl, rfl, rfl, rfl, rfl, rfl, rfl, rfl, rfl,
    fun _ => ⟨rfl, rfl, rfl, rfl⟩, fun n p h => ?_, rfl, fun _ => rfl, fun _ => rfl⟩
  obtain ⟨hn, rfl⟩ := State.reset_parts h
  exact ⟨hn, fun _ hc => ⟨List.mem_range.mpr hc, List.mem_range.mpr hc⟩, fun _ hq => List.mem_range.mpr hq,
    fun _ hh => List.mem_range.mpr hh⟩

end Sys2Proof.Machine
end

section
/-! PROOFS. Requests of the physical function (02 R45; 03 R67 to R69, R83, R84; 07 R217, R220; 09 R273; 16 R444). -/

namespace Sys2Proof.Machine

open Sys2Proof Host Spec

/-! The physical function's mailbox is never busy: every request of it is answered or stays deferred. -/

theorem pfCommand_some (tag : Nat) (s : State) (r : Reply) :
    pfCommand 0 tag s (some r) = .next (r.st.respond 0 tag r.status r.results) := rfl

/-! Virtual devices and registers (03 R67 to R69; 13 R367). -/

/-- A request that is good in itself and fits the device is set up. -/
theorem State.makeVd_of_good {s : State} {vd part raylim : Nat} {rqlim : List Nat} {units : Nat} {bases : List Nat}
    {cs : List CtxReq} {wdt cto : Nat} {p : Part} (hpart : s.parts.get? part = some p) (hvd : vd < 128)
    (hnew : s.vds.get? vd = none) (hsome : cs ≠ []) (hctx : distinct (cs.map (·.ctx)) = true)
    (hqueues : distinct ((cs.flatMap (·.queues)).map (·.index)) = true) (hheads : distinct (cs.flatMap (·.heads)) = true)
    (hgood : ∀ c ∈ cs, ctxReqGood p s c = true) (hchip : s.chipFits cs = true) (hrings : s.ringsFit vd units bases = true)
    (hray : raylim < 2 ^ 24) (hrq : ∀ n ∈ rqlim, n ≤ 126976) (hwdt : wdtFits wdt = true) (hcto : ctoFits cto = true) :
    s.makeVd vd part raylim rqlim units bases cs wdt cto = s.setUpVd vd part cs wdt cto
      (s.writeTrqAll vd (fun k => some (ringWord units bases k)) fun k => some (qlimWord rqlim raylim k)) := by
  have hgood' : cs.all (ctxReqGood p s) = true := List.all_eq_true.mpr hgood
  have hrq' : (rqlim.all fun n => n ≤ 126976) = true := List.all_eq_true.mpr fun n hn => decide_eq_true (hrq n hn)
  have hsome' : cs.isEmpty = false := List.isEmpty_eq_false_iff.mpr hsome
  simp only [State.makeVd, hpart, hnew, hsome', hctx, hqueues, hheads, hgood', hchip, hrings, hrq', hwdt, hcto,
    decide_eq_false (Nat.not_le.mpr hvd), decide_eq_false (Nat.not_le.mpr hray), Option.isSome_none, Bool.not_true,
    Bool.or_self, Bool.false_eq_true, if_false]

theorem destroyVd_gone {s : State} {vd : Nat} {r : Reply} (h : s.destroyVd vd = some r) (hdone : r.status = stDone) :
    r.st.vds.get? vd = none := by
  unfold State.destroyVd at h
  split at h
  next =>
    obtain rfl := Option.some.inj h
    cases hdone
  next =>
    obtain ⟨t, -, h⟩ := Option.bind_eq_some_iff.mp h
    dsimp only at h
    split at h
    · cases h
    · obtain rfl := Option.some.inj h
      exact Tbl.get?_erase_self ..

/-- A register write through the mailbox answers whether the device took it. -/
theorem replyOf_eq (r : Bool × State) : replyOf r = ⟨if r.1 then stDone else stRefused, [], r.2⟩ := by
  obtain ⟨_ | _, s⟩ := r <;> rfl

theorem pfCommand_replyOf (tag : Nat) (s : State) (r : Bool × State) :
    pfCommand 0 tag s (some (replyOf r)) = .next (r.2.respond 0 tag (if r.1 then stDone else stRefused) []) := by
  rw [replyOf_eq, pfCommand_some]

theorem exec_vdmake (tag : Nat) (s : State) (req : VdReq) : exec (.vdmake 0 tag req) s = execVdmake 0 tag req s := rfl

theorem exec_arbset (tag : Nat) (s : State) (req : ArbWrite) : exec (.arbset 0 tag req) s = execArbset 0 tag req s := rfl

/-- A device whose registers are taken, whose tables keep the rules and whose headers are mapped is done. -/
theorem State.setUpVd_done {s : State} {vd part wdt cto : Nat} {cs : List CtxReq} {r : Bool × State} {t : State}
    (hok : r.1 = true) (ht : cs.foldl (fun s c => s.makeCtx vd c)
      { r.2 with vds := r.2.vds.set vd { part := part, wdt := wdt, cto := cto, remoteErr := 0 } } = t)
    (htables : t.allTablesGood = true) (hheaders : t.headersMapped vd cs = true) :
    s.setUpVd vd part cs wdt cto r = t.done := by
  subst ht
  simp only [State.setUpVd, hok, Bool.not_true, Bool.false_eq_true, if_false, htables, hheaders, Bool.and_self, if_true]

theorem deviceMaking : Spec.DeviceMaking := by
  intro s tag
  refine ⟨?make, fun vd r hr => ⟨?destroy, destroyVd_gone hr⟩, ?bucket, ?way, ?frame, ?traversal⟩
  case make =>
    intro vd part raylim rqlim units bases cs wdt cto p hpart hvd hnew hsome hctx hqueues hheads hgood hchip hrings hray hrq hwdt
      hcto r t hok htables hheaders
    rw [exec_vdmake, execVdmake]
    rw [State.makeVd_of_good hpart hvd hnew hsome hctx hqueues hheads hgood hchip hrings hray hrq hwdt hcto,
      State.setUpVd_done hok rfl htables hheaders, pfCommand_some]
    rfl
  case destroy =>
    rw [exec_vdmake, execVdmake]
    rw [hr, pfCommand_some]
  case bucket =>
    intro arb slot v harb hslot
    rw [exec_arbset, execArbset]
    simp only [harb, hslot, decide_true, Bool.and_self, if_true, pfCommand_replyOf]
  case way =>
    intro slice slot v hslice hslot
    rw [exec_arbset, execArbset]
    simp only [hslice, hslot, decide_true, Bool.and_self, if_true, pfCommand_replyOf]
  case frame =>
    intro part p v hpart
    rw [exec_arbset, execArbset]
    simp only [hpart, pfCommand_some, State.done]
  case traversal =>
    intro stack vd ring qlim hstack hvd
    rw [exec_arbset, execArbset]
    simp only [hstack, hvd, decide_true, Bool.and_self, if_true, pfCommand_replyOf]

/-! Moves between partitions (03 R83, R84). -/

/-- A move of a resource between two partitions is what the resource's rule makes of it. -/
def State.moveOf (s : State) (tag : Nat) (req : PartReq) : Outcome State Fault Refusal :=
  match req with
  | .cluster c src dst slots => pfAsk 0 tag s (s.moveCluster c src dst slots)
  | .group stack g src dst copies ptes => pfAsk 0 tag s (s.moveGroup stack g src dst copies ptes)
  | .qset q src dst => pfCommand 0 tag s (some (s.moveQset q src dst))
  | .head h src dst => pfCommand 0 tag s (some (s.moveHead h src dst))

theorem exec_partmove {s : State} {req : PartReq} {src dst : Nat} (hreq : movesBetween req = (src, dst)) (hsrc : src ≤ 16)
    (hdst : dst ≤ 16) (hne : src ≠ dst) (tag : Nat) : exec (.partmove 0 tag req) s = s.moveOf tag req := by
  have hexec : exec (.partmove 0 tag req) s = execPartmove 0 tag req s := rfl
  have hbad : ((0 : Nat) != 0 || decide (16 < src) || decide (16 < dst) || src == dst) = false := by
    rw [decide_eq_false (Nat.not_lt.mpr hsrc), decide_eq_false (Nat.not_lt.mpr hdst), beq_false_of_ne hne]
    rfl
  rw [hexec]
  unfold execPartmove
  simp only [hreq, hbad, Bool.false_eq_true, if_false]
  rfl

/-- The resident gangs on a cluster. -/
def State.gangsOn (s : State) (c : Nat) : Tbl Gang := s.gangs.filter fun x => x.2.resident && x.2.cores.any fun k => coreCluster k == c

section Cluster

variable {s : State} {c src : Nat} {slots : List SlotReq} (hc : c < 96) (howns : s.partOwns src c (·.clusters) = true)
  (hheld : s.moveHeld c src = false) (hbusy : s.clusterBusy c = false)

include hc howns hheld hbusy

/-- A cluster that no gang holds moves at once. -/
theorem State.moveCluster_empty {u : State} (hslots : s.reslot c slots = some u) (hempty : s.gangsOn c = []) (dst : Nat) :
    s.moveCluster c src dst slots = some (.reply ((u.onPart src fun p => { p with clusters := p.clusters.erase c }).onPart dst
      fun p => { p with clusters := withItem p.clusters c }).done) := by
  unfold State.gangsOn at hempty
  simp only [State.moveCluster, decide_eq_false (Nat.not_le.mpr hc), howns, hslots, hheld, hbusy, hempty, Option.isNone_some,
    Bool.not_true, Bool.or_self, Bool.false_eq_true, if_false, State.preemptCluster, List.foldl_nil, Option.map_some]

/-- The gangs of a busy cluster are chosen for pre-emption. -/
theorem State.moveCluster_chooses {x : Nat × Gang} (hslots : (s.reslot c slots).isSome = true) (hone : s.gangsOn c = [x])
    (hgang : s.gang? x.1 = some x.2) (hready : s.saveReady x.1 = false) (hmem : x ∈ s.together x.1 x.2 true)
    (hfresh : x.2.toSave = false) (dst : Nat) : s.moveCluster c src dst slots =
      some (.deferred ((s.together x.1 x.2 true).foldl (fun s y => s.setGang y.1 { y.2 with toSave := true }) s)) := by
  have hnotReady : ((s.together x.1 x.2 true).all fun y => s.saveReady y.1) = false :=
    List.all_eq_false.mpr ⟨x, hmem, Bool.eq_false_iff.mp hready⟩
  have hnotChosen : ((s.together x.1 x.2 true).all fun y => y.2.toSave) = false :=
    List.all_eq_false.mpr ⟨x, hmem, Bool.eq_false_iff.mp hfresh⟩
  have hresident : x.2.resident = true := by
    have hx : x ∈ s.gangsOn c := hone ▸ List.mem_singleton_self x
    exact (Bool.and_eq_true_iff.mp (List.mem_filter.mp hx).2).1
  have hnone : s.preemptCluster [x] = none := by
    simp only [State.preemptCluster, List.foldl_cons, List.foldl_nil, Option.bind_some, hgang, hresident, State.preemptNow,
      hnotReady, Bool.and_false, Bool.false_eq_true, if_true, if_false]
  obtain ⟨u, hu⟩ := Option.isSome_iff_exists.mp hslots
  unfold State.gangsOn at hone
  simp only [State.moveCluster, decide_eq_false (Nat.not_le.mpr hc), howns, hu, hheld, hbusy, hone, Option.isNone_some,
    Bool.not_true, Bool.or_self, Bool.false_eq_true, if_false, hnone, List.flatMap_cons, List.flatMap_nil, List.append_nil,
    State.chooseToSave, hnotChosen, Option.map_some]

end Cluster

/-! A group's move (R84). -/

section Group

variable {s : State} {stack g src : Nat} (hstack : stack < 12) (hg : g < 8)
  (howns : s.partOwns src (8 * stack + g) (·.groups) = true) (hused : s.groupUsed (stack * 2 ^ 36 + g * 2 ^ 33) = false)
  (hwindowed : s.groupWindowed src (stack * 2 ^ 36 + g * 2 ^ 33) = false)

include hstack hg howns hused hwindowed

/-- While channels of the group are in bank mode their sessions are forced to end. -/
theorem State.moveGroup_ends (hbank : s.groupSessions stack g ≠ []) (dst : Nat) (ptes : List (Nat × Nat)) :
    s.moveGroup stack g src dst [] ptes = some (.deferred { s with sessions := s.sessions.map fun x =>
      (x.1, if (s.groupSessions stack g).contains x.1 && x.2.ending.isNone then { x.2 with ending := some none } else x.2) }) := by
  simp only [State.moveGroup, gt_iff_lt, hstack, hg, howns, hused, hwindowed, List.isEmpty_eq_false_iff.mpr hbank, List.all_nil, decide_true,
    Bool.and_self, Bool.not_true, Bool.not_false, Bool.or_self, Bool.false_eq_true, if_false, if_true]

/-- A quiet group whose pages have left it moves. -/
theorem State.moveGroup_moves {t : State} {ptes : List (Nat × Nat)} (hbank : s.groupSessions stack g = [])
    (hquiet : s.groupQuiet stack g = true) (hfree : ∀ cx ∈ s.partCtxs src, s.cxStuck cx = false)
    (hmigrate : s.migrate src (stack * 2 ^ 36 + g * 2 ^ 33) [] ptes = some t)
    (hleft : t.groupLeft (stack * 2 ^ 36 + g * 2 ^ 33) = true) (dst : Nat) :
    s.moveGroup stack g src dst [] ptes = some (.reply (((t.zeroGroup (stack * 2 ^ 36 + g * 2 ^ 33)).onPart src
      fun p => { p with groups := p.groups.erase (8 * stack + g) }).onPart dst
      fun p => { p with groups := withItem p.groups (8 * stack + g) }).done) := by
  have hfree' : (s.partCtxs src).any s.cxStuck = false := List.any_eq_false.mpr fun cx hcx => Bool.eq_false_iff.mp (hfree cx hcx)
  simp only [State.moveGroup, gt_iff_lt, hstack, hg, howns, hused, hwindowed, hbank, hquiet, hfree', hmigrate, hleft, List.isEmpty_nil,
    List.all_nil, decide_true, Bool.and_self, Bool.not_true, Bool.or_self, Bool.false_eq_true, if_false]

end Group

theorem partitionMoves : Spec.PartitionMoves := by
  intro s tag src dst hsrc hdst hne
  have hmove (req : PartReq) (hreq : movesBetween req = (src, dst)) := exec_partmove (s := s) hreq hsrc hdst hne tag
  refine ⟨fun c slots hc howns => ⟨?empty, ?busy⟩, ?refused, ?qset, ?head, ?group⟩
  case empty =>
    intro u hslots hheld hbusy hnone
    have hempty : s.gangsOn c = [] := by
      refine List.filter_eq_nil_iff.mpr fun x hx hon => ?_
      obtain ⟨hres, hany⟩ := Bool.and_eq_true_iff.mp hon
      obtain ⟨k, hk, hkc⟩ := List.any_eq_true.mp hany
      exact hnone x hx hres k hk (beq_iff_eq.mp hkc)
    refine (hmove (.cluster c src dst slots) rfl).trans ?_
    rw [State.moveOf, State.moveCluster_empty hc howns hheld hbusy hslots hempty]
    rfl
  case busy =>
    intro x hslots hheld hbusy hone hgang hready hmem hfresh
    refine (hmove (.cluster c src dst slots) rfl).trans ?_
    rw [State.moveOf, State.moveCluster_chooses hc howns hheld hbusy hslots hone hgang hready hmem hfresh]
    rfl
  case refused =>
    intro c slots howns
    refine (hmove (.cluster c src dst slots) rfl).trans ?_
    simp only [State.moveOf, State.moveCluster, howns, Bool.not_false, Bool.or_true, Bool.true_or, if_true]
    rfl
  case qset =>
    intro q hq howns
    refine (hmove (.qset q src dst) rfl).trans ?_
    simp only [State.moveOf, State.moveQset, howns, decide_eq_false (Nat.not_le.mpr hq), Bool.not_true, Bool.or_self,
      Bool.false_eq_true, if_false]
    rfl
  case head =>
    intro h hh howns hen
    refine (hmove (.head h src dst) rfl).trans ?_
    simp only [State.moveOf, State.moveHead, howns, hen, decide_eq_false (Nat.not_le.mpr hh), Bool.not_true, Bool.or_self,
      Bool.false_eq_true, if_false]
    rfl
  case group =>
    intro stack g hstack hg base howns hused hwindowed
    constructor
    · intro ptes hbank
      refine (hmove (.group stack g src dst [] ptes) rfl).trans ?_
      rw [State.moveOf, State.moveGroup_ends hstack hg howns hused hwindowed hbank]
      rfl
    · intro ptes t hbank hquiet hfree hmigrate hleft
      refine (hmove (.group stack g src dst [] ptes) rfl).trans ?_
      rw [State.moveOf, State.moveGroup_moves hstack hg howns hused hwindowed hbank hquiet hfree hmigrate hleft]
      rfl

/-! Sealed regions (02 R45). -/

theorem exec_sealRequest (tag : Nat) (req : SealReq) (s : State) :
    exec (.sealRequest 0 tag req) s = execSealRequest 0 tag req s := rfl

theorem sealRequests : Spec.SealRequests := by
  intro s tag id
  refine ⟨?fill, fun x hx => ⟨?sealing, ?retire, ?mapped⟩, fun hnone => ⟨?sealNone, ?retireNone⟩⟩
  case fill =>
    intro base len data hfits hlen hopen
    refine ⟨{ ({ s with mem := Memory.writes s.mem (((List.range data.length).map (base + ·)).zip data) }.replaced base
      data.length) with seals := s.seals.set id { base := base, len := len, isSealed := false } }, ?_, rfl, rfl⟩
    rw [exec_sealRequest, execSealRequest]
    cases hx : s.seals.get? id with
    | none =>
      simp only [State.sealFill, hx, hfits, decide_eq_false (Nat.not_lt.mpr hlen), Bool.not_true, Bool.or_self,
        Bool.false_eq_true, if_false]
      rfl
    | some x =>
      simp only [State.sealFill, hx, hopen x hx, hfits, decide_eq_false (Nat.not_lt.mpr hlen), Bool.not_true, Bool.or_self,
        Bool.false_eq_true, if_false]
      rfl
  case sealing =>
    rw [exec_sealRequest, execSealRequest]
    simp only [hx]
    rfl
  case retire =>
    intro hfree
    rw [exec_sealRequest, execSealRequest]
    simp only [hx, hfree, Bool.false_eq_true, if_false]
    rfl
  case mapped =>
    intro hmaps
    rw [exec_sealRequest, execSealRequest]
    simp only [hx, hmaps, if_true]
    rfl
  case sealNone =>
    rw [exec_sealRequest, execSealRequest]
    simp only [hnone]
    rfl
  case retireNone =>
    rw [exec_sealRequest, execSealRequest]
    simp only [hnone]
    rfl

/-! The debugger's requests (07 R217, R220; 09 R273). -/

theorem exec_debugStop (tag : Nat) (who : Agent) (s : State) : exec (.debugStop 0 tag who) s = execDebugStop 0 tag who s := rfl

theorem exec_debugRun (tag : Nat) (req : RunReq) (s : State) : exec (.debugRun 0 tag req) s = execDebugRun 0 tag req s := rfl

theorem exec_debugStep (tag : Nat) (who : Agent) (s : State) : exec (.debugStep 0 tag who) s = execDebugStep 0 tag who s := rfl

theorem exec_debugGangStop (tag gang : Nat) (on : Bool) (s : State) :
    exec (.debugGangStop 0 tag gang on) s = execDebugGangStop 0 tag gang on s := rfl

/-- A gang that context fault handling does not hold stays as it is. -/
theorem State.resumeGang_of_free {s : State} {gang : Nat} {g : Gang} (h : s.gang? gang = some g) (hfree : g.faultStop = false) :
    s.resumeGang gang = s := by
  simp only [State.resumeGang, h, hfree, Bool.not_false, if_true]

theorem State.debugCtl_some {s : State} {core : Nat} {f : Ctl → Option Ctl} {c : Ctl} (h : f (s.ctl core) = some c) :
    s.debugCtl core f = (s.setCtl core c).done := by
  simp only [State.debugCtl, h]

theorem State.debugCtl_none {s : State} {core : Nat} {f : Ctl → Option Ctl} (h : f (s.ctl core) = none) :
    s.debugCtl core f = s.refuse := by
  simp only [State.debugCtl, h]

/-- A control thread that a debugger or a trap stopped goes on. -/
theorem Ctl.debugGo_of_stopped {c : Ctl} (h : c.mode = .held ∨ ∃ b, c.mode = .stopped b) (step : Bool) :
    c.debugGo step = some { c with mode := .running, step := step } := by
  obtain h | ⟨b, h⟩ := h <;> simp only [Ctl.debugGo, h]

theorem debugRequests : Spec.DebugRequests := by
  intro s tag
  refine ⟨fun core slot t ht => ⟨?stopTeam, ?runTeam, fun e arg => ?runAt, fun g hg hfree => ?notHeld, fun hstopped => ?stepTeam,
    fun hruns => ?stepRefused⟩, fun core => ⟨fun hmode => ?stopCtl, fun hmode => ⟨?runCtl, ?stepCtl⟩,
    fun b cx e arg hmode howner halign hbelow hfree => ?restart, fun hmode x => ?free⟩, fun gang g on hg => ?gangStop⟩
  case stopTeam =>
    rw [exec_debugStop, execDebugStop]
    simp only [ht]
    rfl
  case runTeam =>
    rw [exec_debugRun, execDebugRun]
    simp only [ht]
    rfl
  case runAt =>
    rw [exec_debugRun, execDebugRun]
    simp only [ht]
    rfl
  case notHeld =>
    have hset : (s.setTeam core slot t).gang? t.gang = some g := hg
    simp only [State.debugGo, State.resumeGang_of_free hset hfree]
  case stepTeam =>
    rw [exec_debugStep, execDebugStep]
    simp only [ht, hstopped, if_true]
    rfl
  case stepRefused =>
    rw [exec_debugStep, execDebugStep]
    simp only [ht, hruns, Bool.false_eq_true, if_false]
    rfl
  case stopCtl =>
    have hstop : (s.ctl core).debugStop = some { s.ctl core with mode := .held, step := false } := by
      simp only [Ctl.debugStop, hmode]
    rw [exec_debugStop, execDebugStop]
    simp only [State.debugCtl_some hstop]
    rfl
  case runCtl =>
    rw [exec_debugRun, execDebugRun]
    simp only [State.debugCtl_some (f := fun c => c.debugGo false) (Ctl.debugGo_of_stopped hmode false)]
    rfl
  case stepCtl =>
    rw [exec_debugStep, execDebugStep]
    simp only [State.debugCtl_some (f := fun c => c.debugGo true) (Ctl.debugGo_of_stopped hmode true)]
    rfl
  case restart =>
    have hbad : (e % 32 != 0 || decide (2 ^ 48 ≤ e)) = false := by
      rw [halign, decide_eq_false (Nat.not_le.mpr hbelow)]
      rfl
    rw [exec_debugRun, execDebugRun]
    simp only [State.restartCtl, hmode, howner, hbad, hfree, Bool.false_eq_true, if_false]
    rfl
  case free =>
    have hstop : (s.ctl core).debugStop = none := by simp only [Ctl.debugStop, hmode]
    have hgo (step : Bool) : (s.ctl core).debugGo step = none := by simp only [Ctl.debugGo, hmode]
    refine List.forall_mem_cons.mpr ⟨?_, List.forall_mem_cons.mpr ⟨?_, List.forall_mem_singleton.mpr ?_⟩⟩
    · rw [exec_debugStop, execDebugStop]
      simp only [State.debugCtl_none hstop]
      rfl
    · rw [exec_debugRun, execDebugRun]
      cases x with
      | none =>
        simp only [State.debugCtl_none (f := fun c => c.debugGo false) (hgo false)]
        rfl
      | some x =>
        simp only [State.restartCtl, hmode]
        rfl
    · rw [exec_debugStep, execDebugStep]
      simp only [State.debugCtl_none (f := fun c => c.debugGo true) (hgo true)]
      rfl
  case gangStop =>
    rw [exec_debugGangStop, execDebugGangStop]
    simp only [hg]
    rfl

/-- Settles O49: each request is what its rule answers, the physical function's mailbox never being busy. -/
theorem physicalFunctionRequests : Obligations.PhysicalFunctionRequests :=
  ⟨deviceMaking, partitionMoves, sealRequests, debugRequests⟩

end Sys2Proof.Machine
end

section
/-! PROOFS. CPKICK and CPSTAT (11 R310 to R316, R326). -/

namespace Sys2Proof.Machine

open Sys2Proof Host Spec

/-! What a control thread's accesses change leaves its operands as they were. -/

/-- No operand of a control thread depends on what its accesses change. -/
theorem State.drainCtl_rdK (s : State) (core : Nat) (x : Opd) : rdK (s.drainCtl core) core x = rdK s core x := by
  obtain ⟨ps, hcore⟩ := s.drainCtl_beyondCaches core
  have hctl : (s.drainCtl core).ctl core = { s.ctl core with pend := ps } := (congrArg Core.ctl hcore :)
  have hclk : ((s.drainCtl core).coreOf core).clk = (s.coreOf core).clk := (congrArg Core.clk hcore :)
  have hwin : (s.drainCtl core).win = s.win := (congrArg State.win (s.drainCtl_beyondAccess core) :)
  cases x with
  | sp y => cases y <;> simp only [rdK, hctl, hclk, hwin]
  | _ => simp only [rdK, hctl]

/-! CPKICK (R313 to R316). -/

/-- A kick's requests, entered for a team: their names, and the state that counts them in the team's sequence. -/
def State.teamCopies (s : State) (si : Site) (re : Reach) (l : List (CopySlot × Nat)) : List Nat × State :=
  let r := ((s.drainTeam si.core si.slot).undefer (mySelf si)).enterCopies (teamKicker si re) si.team.copySeq l
  (r.1, r.2.updTeam si.core si.slot fun t => { t with copySeq := (t.copySeq + l.length) % 2 ^ 16 })

/-- The same of a control thread. -/
def State.ctlCopies (s : State) (si : CtlSite) (l : List (CopySlot × Nat)) : List Nat × State :=
  let r := ((s.drainCtl si.core).undefer (.fetch (.ctl si.core))).enterCopies (ctlKicker si) si.ctl.copySeq l
  (r.1, r.2.onCtl si.core fun c => { c with copySeq := (c.copySeq + l.length) % 2 ^ 16 })

section Team

variable {s : State} {si : Site} {re : Reach} {w : Ins} (h : s.site? = some si) (hreach : s.reachOf si.team = some re)
  (g : si.goes s .cpkick w = true)

include h hreach g

theorem cpkick_enters {l : List (CopySlot × Nat)}
    (hkick : (s.drainTeam si.core si.slot).kick (teamKicker si re) .s (uA w s si) (uB w s si) = .ok l) :
    exec (.cpkick w) s = .next (s.finish si w.len.size (if (s.teamCopies si re l).2.opsSettled (s.teamCopies si re l).1 then
      .done (s.teamCopies si re l).2 else .block (s.teamCopies si re l).2 (.locks (s.teamCopies si re l).1) true)) := by
  refine (issueBoth_team _ _ h).trans ((issueTeam_goes _ h g).trans (congrArg _ (congrArg _ ?_)))
  have hkick' : (s.drainTeam si.core si.slot).kick (teamKicker si re) .s (s.uni si w.a) (s.uni si w.b) = .ok l := hkick
  unfold teamKicker at hkick'
  simp only [hreach, State.drainTeam_uni, hkick']
  rfl

theorem cpkick_full (hkick : (s.drainTeam si.core si.slot).kick (teamKicker si re) .s (uA w s si) (uB w s si) = .full) :
    exec (.cpkick w) s = .next (s.finish si w.len.size (.block (s.drainTeam si.core si.slot) .room false)) := by
  refine (issueBoth_team _ _ h).trans ((issueTeam_goes _ h g).trans (congrArg _ (congrArg _ ?_)))
  have hkick' : (s.drainTeam si.core si.slot).kick (teamKicker si re) .s (s.uni si w.a) (s.uni si w.b) = .full := hkick
  unfold teamKicker at hkick'
  simp only [hreach, State.drainTeam_uni, hkick']

end Team

theorem cpkick_ctl_enters {s : State} {si : CtlSite} {w : Ins} {l : List (CopySlot × Nat)} (h : s.ctlSite? = some si)
    (g : si.goes s .cpkick w = true)
    (hkick : (s.drainCtl si.core).kick (ctlKicker si) .g (rdK s si.core w.a) (rdK s si.core w.b) = .ok l) :
    exec (.cpkick w) s = .next (s.finishCtl si w.len.size (if (s.ctlCopies si l).2.opsSettled (s.ctlCopies si l).1 then
      .done (s.ctlCopies si l).2 else .wait (s.ctlCopies si l).2 (.locks (s.ctlCopies si l).1) true)) := by
  refine (issueBoth_ctl _ _ h).trans ((issueCtl_goes _ h g).trans (congrArg _ (congrArg _ ?_)))
  unfold ctlKicker at hkick
  simp only [State.drainCtl_rdK, hkick]
  rfl

/-! CPSTAT (R326). -/

theorem cpstat_issues {s : State} {si : Site} {w : Ins} {d : Nat} (h : s.site? = some si) (g : si.goes s .cpstat w = true)
    (hd : w.d = .s d) : ∃ t p, exec (.cpstat w) s = .next t ∧ issuedFrom s si.team si t p ∧ p.flag = si.flagOf w ∧
      p.work = .results [.s d (BitVec.ofNat 32 (s.cpstatWord si.team (w.mb 49)))] 0 := by
  obtain ⟨p, hfinish, hp⟩ := issueResults_joins (State.site?_team h) s .cpstat w
    [.s d (BitVec.ofNat 32 (s.cpstatWord si.team (w.mb 49)))] 0
  refine ⟨s.newId.2.goneOn si w (si.team.enqueue p), p, ?_, issuedFrom_enqueue (keepsRegs.refl _) rfl rfl rfl w p, hp⟩
  show execCpstat w s = _
  refine (issueTeam_goes _ h g).trans (congrArg _ ?_)
  simp only [hd, hfinish]

/-- Settles O33: behind its checks a CPKICK ends by whether its requests' locks settle; CPSTAT's word is known at issue. -/
theorem copiesComplete : Obligations.CopiesComplete := by
  intro w
  refine ⟨?team, ?ctl, fun s si d h _ g hd => cpstat_issues h g hd⟩
  case team =>
    intro s si re h hreach _ _ g
    refine ⟨fun l hkick => ⟨fun hsettled => ?_, fun hwaits => ?_⟩, fun hkick => ?_⟩
    · rw [cpkick_enters h hreach g hkick]
      exact congrArg (fun x => Outcome.next (s.finish si w.len.size x)) (if_pos hsettled)
    · rw [cpkick_enters h hreach g hkick]
      exact congrArg (fun x => Outcome.next (s.finish si w.len.size x)) (if_neg (Bool.eq_false_iff.mp hwaits))
    · rw [cpkick_full h hreach g hkick]
      rfl
  case ctl =>
    intro s si l h _ g hkick
    refine ⟨fun hsettled => ?_, fun hwaits => ?_⟩
    · rw [cpkick_ctl_enters h g hkick]
      exact congrArg (fun x => Outcome.next (s.finishCtl si w.len.size x)) (if_pos hsettled)
    · rw [cpkick_ctl_enters h g hkick]
      exact congrArg (fun x => Outcome.next (s.finishCtl si w.len.size x)) (if_neg (Bool.eq_false_iff.mp hwaits))

end Sys2Proof.Machine
end

section
/-! PROOFS. TEXS, HGL and RESQ (12 R344 to R348). -/

namespace Sys2Proof.Machine

open Sys2Proof Host Spec

/-- A request that enters an engine joins the operations of the team, which stands as `t₁` behind its accesses. -/
theorem sendFilter_issues {s₁ : State} {si : Site} {w : Ins} {t₁ : Team} {b : Nat} (hteam : s₁.team? si.core si.slot = some t₁)
    (hb : w.b = .v b) (s : State) (o : Op) (e : TMask) (cx : CtxId) (win : Window) (work : FilterWork) (levels : Nat) :
    ∃ t p q, s.finish si w.len.size (sendFilter o w s₁ si e cx win work levels) = t ∧ issuedFrom s₁ t₁ si t p ∧
      p.flag = si.flagOf w ∧ p.work = .filter ∧ t.filters.get? p.id = some q ∧ q.stack = win.stack ∧ q.work = work ∧ q.cx = cx ∧
      q.args = (threadsOf si.team.threads e).map fun tid =>
        { tid := tid, a := si.team.vreg tid b, b := si.team.vreg tid (b + 1), c := si.team.vreg tid (b + 2) } := by
  unfold sendFilter
  dsimp only
  refine ⟨_, _, _, State.finish_onTeam_of_team (u := t₁) ?team s w _, issuedFrom_enqueue (keepsRegs.refl t₁) rfl rfl rfl w _, rfl,
    rfl, Tbl.get?_set_self .., rfl, rfl, rfl, ?args⟩
  case team => exact hteam
  case args => simp only [hb, Nat.add_zero]

/-- A request whose record passes its checks is sent. -/
theorem issueFilter_sends {s : State} {si : Site} {re : Reach} {w : Ins} {b : Nat} (h : s.site? = some si)
    (hreach : s.reachOf si.team = some re) (hb : w.b = .v b) {o : Op} (g : si.goes s o w = true) {t₁ : Team}
    (hteam : (s.drainTeam si.core si.slot).team? si.core si.slot = some t₁)
    {check : State → Reach → Nat → Checked (FilterWork × Window)} {work : FilterWork} {win : Window}
    (hcheck : check (s.drainTeam si.core si.slot) re (rd64 s si.core si.team 0 w.a) = .ok (work, win)) (levels : Nat) :
    ∃ t p q, issueFilter o w s check levels = .next t ∧ issuedFrom (s.drainTeam si.core si.slot) t₁ si t p ∧
      p.flag = si.flagOf w ∧ p.work = .filter ∧ t.filters.get? p.id = some q ∧ q.stack = win.stack ∧ q.work = work ∧
      q.cx = re.cx ∧ q.args = (threadsOf si.team.threads (si.exec w)).map fun tid =>
        { tid := tid, a := si.team.vreg tid b, b := si.team.vreg tid (b + 1), c := si.team.vreg tid (b + 2) } := by
  obtain ⟨t, p, q, rfl, hp⟩ := sendFilter_issues hteam hb s o (si.exec w) re.cx win work levels
  have hcheck' : check (s.drainTeam si.core si.slot) re (s.uni64 si w.a) = .ok (work, win) := hcheck
  refine ⟨_, p, q, (issueTeam_goes _ h g).trans (congrArg _ ?_), hp⟩
  simp only [hreach, hcheck']

/-- Settles O34: the three instructions send their request by one rule, each behind its own check. -/
theorem filterRequests : Obligations.FilterRequests := by
  intro w s si re b h hreach hb
  refine List.forall_mem_cons.mpr ⟨?texs, List.forall_mem_cons.mpr ⟨?hgl, List.forall_mem_singleton.mpr ?resq⟩⟩
  case texs =>
    intro t₁ work win _ g hteam hcheck
    exact issueFilter_sends h hreach hb g hteam hcheck 1
  case hgl =>
    intro t₁ work win _ g hteam hcheck
    exact issueFilter_sends h hreach hb g hteam hcheck (w.m 56 53 + 1)
  case resq =>
    intro t₁ work win _ g hteam hcheck
    exact issueFilter_sends h hreach hb g hteam hcheck 1

end Sys2Proof.Machine
end

section
/-! PROOFS. RAYS, HITR, CANDV and the treelet commands (13 R366, R377 to R386). -/

namespace Sys2Proof.Machine

open Sys2Proof Host Spec

section Rays

variable {s : State} {si : Site} {w : Ins} (h : s.site? = some si)

include h

/-- RAYS with a valid root: its rays are sent, or it waits where the good ones do not fit (R378, R379). -/
theorem exec_rays {cx : CtxId} (hcx : s.teamCx si.team = some cx) (g : si.goes s .rays w = true) (hid : uA w s si < 2 ^ 16)
    (hroot : tlValid (uA w s si) = true) :
    let rs := (threadsOf si.team.threads (si.exec w)).map (rayOf s si w cx (uA w s si))
    let n := (rs.filter fun r => !r.bad).length
    exec (.rays w) s = .next (s.finish si w.len.size (if 0 < n ∧ (4096 < si.team.rays + n ∨
        s.raylim (tlStack (uA w s si)) cx.vd < (s.rays.filter fun x => x.2.cx.vd == cx.vd).length + n) then .block s .rays false
      else .done ((s.drainTeam si.core si.slot).sendRays si rs))) := by
  intro rs n
  have hvalid : (decide (2 ^ 16 ≤ s.uni si w.a) || !tlValid (s.uni si w.a)) = false := by
    rw [decide_eq_false (Nat.not_le.mpr (show s.uni si w.a < 2 ^ 16 from hid)), show tlValid (s.uni si w.a) = true from hroot]
    rfl
  show execRays w s = _
  refine (issueTeam_goes _ h g).trans (congrArg _ (congrArg _ ?_))
  simp only [hvalid, Bool.false_eq_true, if_false, hcx]
  refine if_congr ?_ rfl rfl
  simp only [Bool.and_eq_true, Bool.or_eq_true, decide_eq_true_eq]
  rfl

theorem hitr_issues {d : Nat} (g : si.goes s .hitr w = true) (hd : w.d = .v d) :
    ∃ t p, exec (.hitr w) s = .next t ∧ issuedFrom s si.team si t p ∧ p.flag = si.flagOf w ∧
      p.work = .hitr (threadsOf si.team.threads (si.exec w)) d (si.team.writeMask w) w.zero (w.mb 49) := by
  have hteam : s.newId.2.team? si.core si.slot = some si.team := State.site?_team h
  let p : Pend := { id := s.nextId, flag := si.flagOf w, dst := dstCodes .hitr w si.team.threads
                    work := .hitr (threadsOf si.team.threads (si.exec w)) d (si.team.writeMask w) w.zero (w.mb 49) }
  refine ⟨s.newId.2.goneOn si w (si.team.enqueue p), p, ?_, issuedFrom_enqueue (keepsRegs.refl _) rfl rfl rfl w p, rfl, rfl⟩
  show execHitr w s = _
  refine (issueTeam_goes _ h g).trans (congrArg _ ?_)
  simp only [hd]
  exact State.finish_onTeam_of_team hteam s w fun t => t.enqueue
    { id := s.nextId, flag := si.flagOf w
      work := .hitr (threadsOf t.threads (si.exec w)) d (t.writeMask w) w.zero (w.mb 49), dst := dstCodes .hitr w t.threads }

/-- CANDV whose verdicts are all 0 to 2 adds them in thread order (R371). -/
theorem exec_candv (g : si.goes s .candv w = true)
    (hverdicts : ∀ tid ∈ threadsOf si.team.threads (si.exec w), rd32 s si.core si.team tid w.b ≤ 2) :
    exec (.candv w) s = .next (s.goneOn si w { si.team with verdicts := si.team.verdicts ++
      ((threadsOf si.team.threads (si.exec w)).map fun tid =>
        (BitVec.ofNat 32 (rd32 s si.core si.team tid w.a), rd32 s si.core si.team tid w.b)) }) := by
  have hgood : ((threadsOf si.team.threads (si.exec w)).map fun tid =>
      (BitVec.ofNat 32 (rd32 s si.core si.team tid w.a), rd32 s si.core si.team tid w.b)).find? (fun x => 2 < x.2) = none := by
    refine List.find?_eq_none.mpr fun x hx => ?_
    obtain ⟨tid, htid, rfl⟩ := List.mem_map.mp hx
    rw [decide_eq_true_eq]
    exact Nat.not_lt.mpr (hverdicts tid htid)
  show execCandv w s = _
  refine (issueTeam_goes _ h g).trans (congrArg _ ?_)
  simp only [hgood]
  exact State.finish_onTeam h w _

end Rays

theorem rayInstructions : Spec.RayInstructions := by
  intro w s si cx h hcx ts rs n
  refine ⟨fun _ g hid hroot => ⟨fun hfits => ?_, fun hwaits => ?_⟩, fun d _ g hd => hitr_issues h g hd,
    fun _ g hverdicts => exec_candv h g hverdicts⟩
  · have hnot : ¬(0 < n ∧ (4096 < si.team.rays + n ∨
        s.raylim (tlStack (uA w s si)) cx.vd < (s.rays.filter fun x => x.2.cx.vd == cx.vd).length + n)) := by
      omega
    exact (exec_rays h hcx g hid hroot).trans (congrArg (fun x => Outcome.next (s.finish si w.len.size x)) (if_neg hnot))
  · refine ((exec_rays h hcx g hid hroot).trans (congrArg (fun x => Outcome.next (s.finish si w.len.size x)) (if_pos hwaits))).trans ?_
    exact congrArg _ (State.finish_block_at h ..)

/-! The treelet commands (R354, R355, R372, R373, R381, R382). -/

/-- A command of a valid treelet id joins its engine's commands, which run as far as they may. -/
theorem issueTreelet_joins {s : State} {si : CtlSite} {o : Op} {w : Ins} (h : s.ctlSite? = some si) (g : si.goes s o w = true)
    (hid : rdK s si.core w.a < 2 ^ 16) (hvalid : tlValid (rdK s si.core w.a) = true) (kind : Nat) :
    let s₁ := s.drainCtl si.core
    let id := rdK s si.core w.a
    let k := 16 * si.core + tlStack id
    let c : TlCmd := { cx := si.owner, kind := kind, id := id, base := rdK s si.core w.b, size := rdK s si.core w.c }
    issueTreelet o w s kind =
      .next (ctlThen ({ s₁ with tlq := s₁.tlq.set k (s₁.tlq.get [] k ++ [c]) }.tlRunAll si.core (tlStack id)) si w) := by
  refine (issueCtl_goes _ h g).trans (congrArg _ ?_)
  simp only [decide_eq_false (Nat.not_le.mpr hid), hvalid, Bool.not_true, Bool.or_self, Bool.false_eq_true, if_false]
  rfl

theorem treeletCommands : Spec.TreeletCommands := by
  intro w s si h hid hvalid
  exact List.forall_mem_cons.mpr ⟨fun _ g => issueTreelet_joins h g hid hvalid 0,
    List.forall_mem_cons.mpr ⟨fun _ g => issueTreelet_joins h g hid hvalid 1,
      List.forall_mem_singleton.mpr fun _ g => issueTreelet_joins h g hid hvalid 2⟩⟩

/-- Settles O35: RAYS waits exactly where its good rays do not fit; a treelet command joins its engine's and these run. -/
theorem raysAndTreelets : Obligations.RaysAndTreelets := ⟨rayInstructions, treeletCommands⟩

end Sys2Proof.Machine
end

section
/-! PROOFS. The commands of the stack arithmetic engines at issue (14 R388 to R400). -/

namespace Sys2Proof.Machine

open Sys2Proof Host Spec

/-! What a command on a channel meets at issue (R393, R396 to R400). -/

section Bank

variable {s : State} {si : CtlSite} {o : Op} {w : Ins} (h : s.ctlSite? = some si) (g : si.goes s o w = true) (silent : Bool)
  (work : State → CtlSite → Nat → Nat → Except Nat (StackWork × Option (List Range)))

include h g

theorem issueBank_nowhere (hat : (s.drainCtl si.core).channelAt si.owner (rdK (s.drainCtl si.core) si.core w.a) = none) :
    issueBank o w s silent work = .next (ctlThen ((s.drainCtl si.core).stackRecord si.core si.owner
      (BitVec.ofNat 64 (rdK (s.drainCtl si.core) si.core w.a)) 0xFFFF 3
      (if o == .sacc && rdK (s.drainCtl si.core) si.core w.b % 64 != 0 then 8 else 3) 0) si w) := by
  refine (issueCtl_goes _ h g).trans (congrArg _ ?_)
  simp only [hat]
  rfl

variable {stack pc : Nat}
  (hat : (s.drainCtl si.core).channelAt si.owner (rdK (s.drainCtl si.core) si.core w.a) = some (stack, pc))

include hat

theorem issueBank_refuses {reason : Nat} (hwork : work (s.drainCtl si.core) si stack pc = .error reason) :
    issueBank o w s silent work = .next (ctlThen ((s.drainCtl si.core).stackRecord si.core si.owner
      (BitVec.ofNat 64 (rdK (s.drainCtl si.core) si.core w.a)) stack 3 reason pc) si w) := by
  refine (issueCtl_goes _ h g).trans (congrArg _ ?_)
  simp only [hat, hwork]
  rfl

variable (hroom : (s.drainCtl si.core).stackFull stack = false)

include hroom

/-- A command without a lock enters its engine. -/
theorem issueBank_enters {x : StackWork} (hwork : work (s.drainCtl si.core) si stack pc = .ok (x, none)) :
    issueBank o w s silent work = .next (s.finishCtl si w.len.size (enterStack (s.drainCtl si.core) si stack
      (BitVec.ofNat 64 (rdK (s.drainCtl si.core) si.core w.a)) silent x none)) := by
  refine (issueCtl_goes _ h g).trans (congrArg _ ?_)
  simp only [hat, hwork, hroom, Bool.false_eq_true, if_false]

/-- An SMAC enters its engine behind the registration of its row's lock. -/
theorem issueBank_smac {row col n acc op : Nat} {e : Option Nat} {l : List Range}
    (hwork : work (s.drainCtl si.core) si stack pc = .ok (.smac pc row col n e acc op, some l)) :
    let r := (s.drainCtl si.core).enterOp (stackOp (s.drainCtl si.core) si l .bank)
    issueBank o w s silent work = .next (s.finishCtl si w.len.size (enterStack r.2 si stack
      (BitVec.ofNat 64 (rdK (s.drainCtl si.core) si.core w.a)) silent (.smac pc row col n e acc r.1) (some r.1))) := by
  refine (issueCtl_goes _ h g).trans (congrArg _ ?_)
  simp only [hat, hwork, hroom, Bool.false_eq_true, if_false]

/-- A SACC enters its engine behind the registration of its destination's lock. -/
theorem issueBank_sacc {dst first n op : Nat} {clear : Bool} {got : Option (List (Nat × List Byte))} {l : List Range}
    (hwork : work (s.drainCtl si.core) si stack pc = .ok (.sacc pc dst first n clear op got, some l)) :
    let r := (s.drainCtl si.core).enterOp (stackOp (s.drainCtl si.core) si l .bank)
    issueBank o w s silent work = .next (s.finishCtl si w.len.size (enterStack r.2 si stack
      (BitVec.ofNat 64 (rdK (s.drainCtl si.core) si.core w.a)) silent (.sacc pc dst first n clear r.1 none) (some r.1))) := by
  refine (issueCtl_goes _ h g).trans (congrArg _ ?_)
  simp only [hat, hwork, hroom, Bool.false_eq_true, if_false]

end Bank

/-! SRED (R392 to R394). -/

/-- What an SRED does with its block: the sources that the block's list gives, and where they go. -/
def sredOf (b : SredBlock) (srcs : List Nat) (stack : Nat) : SredReq :=
  { stack := stack, op := b.op, ty := sredType b.fmt, count := b.count, srcs := srcs, dst := b.dst, flag := b.flag
    fval := BitVec.ofNat 64 b.fval, tag := BitVec.ofNat 64 b.tag, left := List.range (ceilDiv b.bytes 64) }

/-- The ranges that an SRED locks: its sources to read, its destination to write. -/
def sredRanges (b : SredBlock) (srcs : List Nat) : List Range :=
  (srcs.map fun x => { space := .global, base := x, len := b.bytes, write := false }) ++
    [{ space := .global, base := b.dst, len := b.bytes, write := true }]

section Sred

variable {s s₂ : State} {si : CtlSite} {w : Ins} {bs : List Byte} (h : s.ctlSite? = some si) (g : si.goes s .sred w = true)
  (hread : (s.drainCtl si.core).ctlBytes si (rdK (s.drainCtl si.core) si.core w.a) 64 64 = .ok (s₂, bs))

include h g hread

theorem exec_sred_badBlock (hbad : (parseSred bs).ok = false) :
    exec (.sred w) s = .next (ctlThen (s₂.stackRecord si.core si.owner (BitVec.ofNat 64 (parseSred bs).tag) 0xFFFF 3 1
      (parseSred bs).nsrc) si w) := by
  show execSred w s = _
  refine (issueCtl_goes _ h g).trans (congrArg _ ?_)
  simp only [hread, hbad, Bool.not_false, if_true]
  rfl

theorem exec_sred_enters {s₃ : State} {cs : List Byte} {stack : Nat} (hok : (parseSred bs).ok = true)
    (hlist : s₂.ctlBytes si (parseSred bs).sptr (8 * (parseSred bs).nsrc) 8 = .ok (s₃, cs))
    (haligned : ∀ x ∈ (List.range (parseSred bs).nsrc).map fun i => field cs (8 * i) 8, x % 64 = 0)
    (hplace : s₃.sredPlace si.owner (parseSred bs) ((List.range (parseSred bs).nsrc).map fun i => field cs (8 * i) 8) = .ok stack)
    (hroom : s₃.stackFull stack = false) :
    let srcs := (List.range (parseSred bs).nsrc).map fun i => field cs (8 * i) 8
    let r := s₃.enterOp (stackOp s₃ si (sredRanges (parseSred bs) srcs) (.sred (sredOf (parseSred bs) srcs stack)))
    exec (.sred w) s = .next (s.finishCtl si w.len.size
      (enterStack r.2 si stack (BitVec.ofNat 64 (parseSred bs).tag) false (.sred r.1) (some r.1))) := by
  have hall : ((List.range (parseSred bs).nsrc).map fun i => field cs (8 * i) 8).any (fun a => a % 64 != 0) = false := by
    refine List.any_eq_false.mpr fun x hx => ?_
    rw [haligned x hx]
    exact Bool.false_ne_true
  show execSred w s = _
  refine (issueCtl_goes _ h g).trans (congrArg _ ?_)
  simp only [hread, hok, Bool.not_true, Bool.false_eq_true, if_false, hlist, hall, hplace, hroom]
  rfl

end Sred

theorem stackRefusals : Spec.StackRefusals := by
  intro w s si h s₁ a refused
  refine ⟨?nowhere, fun _ g hat => ?sacc, fun stack pc hat => ⟨fun _ g hplain => ?sbank, fun _ g hentry => ?svb⟩,
    fun s₂ bs _ g hread hbad => exec_sred_badBlock h g hread hbad⟩
  case nowhere =>
    exact List.forall_mem_cons.mpr ⟨fun _ g hat => show execSbank w s = _ from issueBank_nowhere h g _ _ hat,
      List.forall_mem_cons.mpr ⟨fun _ g hat => show execSvb w s = _ from issueBank_nowhere h g _ _ hat,
        List.forall_mem_cons.mpr ⟨fun _ g hat => show execSmac w s = _ from issueBank_nowhere h g _ _ hat,
          List.forall_mem_singleton.mpr fun _ g hat => show execSbexit w s = _ from issueBank_nowhere h g _ _ hat⟩⟩⟩
  case sacc =>
    show execSacc w s = _
    refine (issueBank_nowhere h g _ _ hat).trans ?_
    by_cases haligned : rdK s₁ si.core w.b % 64 = 0
    · rw [if_pos haligned, haligned]
      rfl
    · rw [if_neg haligned, show (rdK (s.drainCtl si.core) si.core w.b % 64 != 0) = true from bne_iff_ne.mpr haligned]
      rfl
  case sbank =>
    show execSbank w s = _
    refine issueBank_refuses h g _ _ hat ?_
    exact if_neg (Bool.eq_false_iff.mp hplain)
  case svb =>
    show execSvb w s = _
    refine issueBank_refuses h g _ _ hat ?_
    exact if_pos hentry

theorem stackCommands_enter : Spec.StackCommands := by
  intro w s si h s₁ a tag enters
  refine ⟨fun stack pc hat hroom => ⟨fun _ g hplain => ?sbank, fun _ g => ?sbexit, fun b _ g hb hentry => ?svb,
    ?smac, ?sacc⟩, ?sred⟩
  case sbank =>
    show execSbank w s = _
    refine issueBank_enters h g _ _ hat hroom ?_
    exact if_pos hplain
  case sbexit =>
    show execSbexit w s = _
    exact issueBank_enters h g _ _ hat hroom rfl
  case svb =>
    show execSvb w s = _
    refine issueBank_enters h g _ _ hat hroom ?_
    dsimp only
    rw [if_neg (Nat.not_lt.mpr hentry), hb]
    rfl
  case smac =>
    intro _ g hmapped o b hcolumn hlow hb hcols haccs
    have hgood : (bits o 13 10 != 0 || bits o 4 0 != 0 || decide (32 ≤ b) || decide (32 < bits o 9 5 + b + 1) ||
        decide (64 < w.m 59 54 + b + 1)) = false := by
      rw [hcolumn, hlow, decide_eq_false (Nat.not_le.mpr hb), decide_eq_false (Nat.not_lt.mpr hcols),
        decide_eq_false (Nat.not_lt.mpr haccs)]
      rfl
    show execSmac w s = _
    refine issueBank_smac (op := 0) h g _ _ hat hroom ?_
    show (if (!s₁.bankMapped si.owner a) = true then _ else if _ then _ else _) = _
    rw [if_neg (by rw [hmapped]; exact Bool.false_ne_true)]
    exact if_neg (Bool.eq_false_iff.mp hgood)
  case sacc =>
    intro _ g d n haligned hin hapart
    show execSacc w s = _
    refine issueBank_sacc (op := 0) (got := none) h g _ _ hat hroom ?_
    show (if (d % 64 != 0) = true then _ else if (!s₁.inWindows si.owner d (64 * n)) = true then _ else
      if s₁.meetsChannel si.owner d (64 * n) stack pc = true then _ else _) = _
    rw [haligned, hin, hapart]
    rfl
  case sred =>
    intro s₂ s₃ bs cs stack _ g hread b hok hlist srcs haligned hplace hroom
    exact exec_sred_enters h g hread hok hlist haligned hplace hroom

/-- Settles O36: a command's checks at issue either refuse it with their reason or let it enter its engine. -/
theorem stackCommands : Obligations.StackCommands := ⟨stackRefusals, stackCommands_enter⟩

end Sys2Proof.Machine
end

section
/-! PROOFS. The raster commands at issue, and PXOUT (15 R417 to R431). -/

namespace Sys2Proof.Machine

open Sys2Proof Host Spec

/-! The commands of a control thread. -/

section Ctl

variable {s : State} {si : CtlSite} {w : Ins} (h : s.ctlSite? = some si)

include h

/-- RSTATE sets the item that it names (R417). -/
theorem exec_rstate_sets (g : si.goes s .rstate w = true) {r : RasterState}
    (hitem : si.ctl.raster.write (bits w.imm.toNat 31 28) (bits w.imm.toNat 27 0) w.a.isK (rdK s si.core w.a) = some r) :
    exec (.rstate w) s = .next (ctlThen ((s.onCtl si.core fun c => { c with raster := r }).enterRaster si (rdK s si.core w.a)
      (.done 0 (BitVec.ofNat 64 (rdK s si.core w.a)) 0)) si w) := by
  show execRstate w s = _
  refine (issueCtl_goes _ h g).trans (congrArg _ ?_)
  simp only [hitem]
  rfl

theorem exec_rstate_refused (g : si.goes s .rstate w = true)
    (hitem : si.ctl.raster.write (bits w.imm.toNat 31 28) (bits w.imm.toNat 27 0) w.a.isK (rdK s si.core w.a) = none) :
    exec (.rstate w) s = .next (ctlThen (s.enterRaster si (rdK s si.core w.a)
      (.done 3 (BitVec.ofNat 64 (rdK s si.core w.a)) 4)) si w) := by
  show execRstate w s = _
  refine (issueCtl_goes _ h g).trans (congrArg _ ?_)
  simp only [hitem]
  rfl

theorem exec_draw (g : si.goes s .draw w = true) :
    let s₁ := s.drainCtl si.core
    exec (.draw w) s = .next (ctlThen (s₁.enterRaster si (rdK s₁ si.core w.a)
      (.draw (rdK s₁ si.core w.a) (rdK s₁ si.core w.b) si.ctl.raster none)) si w) := by
  show execDraw w s = _
  exact issueCtl_goes _ h g

/-- RCLEAR of a depth, or of a colour where B is not read (R427). -/
theorem exec_rclear (g : si.goes s .rclear w = true) (hform : w.mb 50 = true ∨ w.mb 49 = true ∧ w.b = .z) :
    let s₁ := s.drainCtl si.core
    exec (.rclear w) s = .next (ctlThen (s₁.enterRaster si (rdK s₁ si.core w.a)
      (.clear (rdK s₁ si.core w.a) (w.mb 49) (w.mb 50) (BitVec.ofNat 32 (rdK s₁ si.core w.b)) none)) si w) := by
  have hgood : ((!w.mb 49 && !w.mb 50) || (!w.mb 50 && w.b != .z)) = false := by
    obtain hdepth | ⟨hcolour, hb⟩ := hform
    · rw [hdepth, Bool.not_true, Bool.and_false, Bool.false_and, Bool.or_self]
    · rw [hcolour, hb, Bool.not_true, Bool.false_and, bne_self_eq_false, Bool.and_false, Bool.or_self]
  show execRclear w s = _
  refine (issueCtl_goes _ h g).trans (congrArg _ ?_)
  simp only [hgood, Bool.false_eq_true, if_false]
  rfl

theorem exec_rsync (g : si.goes s .rsync w = true) :
    let s₁ := s.drainCtl si.core
    exec (.rsync w) s = .next (ctlThen (s₁.enterRaster si (rdK s₁ si.core w.a)
      (.sync (rdK s₁ si.core w.a) (rdK s₁ si.core w.b) none)) si w) := by
  show execRsync w s = _
  exact issueCtl_goes _ h g

variable {s' : State} {bs : List Byte} (g : si.goes s .rresolve w = true)
  (hread : (s.drainCtl si.core).ctlBytes si (rdK (s.drainCtl si.core) si.core w.a) 64 64 = .ok (s', bs))

include g hread

/-- RRESOLVE of a record that is no surface is refused in its place (R430). -/
theorem exec_rresolve_refused (hsurface : parseSurface bs = none) :
    exec (.rresolve w) s = .next (ctlThen (s'.enterRaster si (rdK (s.drainCtl si.core) si.core w.a)
      (.done 3 (BitVec.ofNat 64 (rdK (s.drainCtl si.core) si.core w.a)) 1)) si w) := by
  show execRresolve w s = _
  refine (issueCtl_goes _ h g).trans (congrArg _ ?_)
  simp only [hread, hsurface]
  rfl

/-- RRESOLVE of a surface takes its place behind the registration of its lock (R430). -/
theorem exec_rresolve_enters {r : Surface} (hsurface : parseSurface bs = some r) (hcmp : r.cmp = true)
    (hok : s'.surfaceOk si.owner r = true) :
    let e := s'.enterOp (stackOp s' si [resolveRange r (w.mb 49)] .resolve)
    let c := rasterCmd e.2 si (rdK (s.drainCtl si.core) si.core w.a) (.resolve r (w.mb 49) 0 0)
    let s₂ := { e.2 with rcmds := e.2.rcmds.set e.1 c }
    exec (.rresolve w) s = .next (s.finishCtl si w.len.size (if s₂.opsSettled [e.1] then .done s₂ else
      .wait s₂ (.locks [e.1]) true)) := by
  show execRresolve w s = _
  refine (issueCtl_goes _ h g).trans (congrArg _ ?_)
  simp only [hread, hsurface, hcmp, hok, Bool.not_true, Bool.false_eq_true, if_false]

end Ctl

theorem rasterCommands : Spec.RasterCommands := by
  intro w s si h s₁ a a₁ imm
  refine ⟨fun r _ g hitem => exec_rstate_sets h g hitem, fun _ g hitem => exec_rstate_refused h g hitem,
    fun _ g => exec_draw h g, fun _ g hform => exec_rclear h g hform, fun _ g => exec_rsync h g, fun s' bs _ g hread =>
      ⟨fun hsurface => exec_rresolve_refused h g hread hsurface, ?resolve⟩⟩
  case resolve =>
    intro r hsurface hcmp hok e s₂
    refine (exec_rresolve_enters h g hread hsurface hcmp hok).trans ?_
    by_cases hsettled : s₂.opsSettled [e.1] = true
    · exact (congrArg (fun x => Outcome.next (s.finishCtl si w.len.size x)) (if_pos hsettled)).trans
        (congrArg Outcome.next (if_pos hsettled).symm)
    · exact (congrArg (fun x => Outcome.next (s.finishCtl si w.len.size x)) (if_neg hsettled)).trans
        (congrArg Outcome.next (if_neg hsettled).symm)

/-! PXOUT (R422). -/

theorem pixelOutput : Spec.PixelOutput := by
  intro w s si _ h g
  refine ⟨fun hnone => ?trap, ?packet⟩
  case trap =>
    show execPxout w s = _
    refine (issueTeam_goes _ h g).trans (congrArg _ ?_)
    obtain hpx | ⟨px, hpx, hsent⟩ := hnone
    · simp only [hpx]
      rfl
    · simp only [hpx, hsent, if_true]
      rfl
  case packet =>
    intro px hpx hsent n q
    let r : Team := { si.team with pixel := some { px with sent := true } }
    let s' : State := { n.2.setTeam si.core si.slot r with
      rcmds := s.rcmds.alter px.cmd fun c => { c with work := c.work.addPacket si.team.gang q } }
    have hteam : n.2.team? si.core si.slot = some si.team := State.site?_team h
    have hmarked : s'.team? si.core si.slot = some r := State.team?_setTeam_self ..
    have hexec : exec (.pxout w) s = .next (s'.goneOn si w r) := by
      show execPxout w s = _
      refine (issueTeam_goes _ h g).trans (congrArg _ ?_)
      simp only [hpx, hsent, Bool.false_eq_true, if_false]
      rw [State.updTeam_of_team hteam]
      exact State.finish_done_of_team hmarked s w
    obtain ⟨u, hu, hplace⟩ := goneOn_leaves s' si w r
    rw [Team.PlaceOnly] at hplace
    refine ⟨_, u, hexec, hu, ?_, ?_, ?_, ?_, ?_, rfl, rfl⟩ <;> rw [hplace] <;> rfl

/-- Settles O37: each command's meaning at issue is its rule; a packet leaves only the pixel's mark in the team. -/
theorem rasterCommandsAndOutput : Obligations.RasterCommandsAndOutput := ⟨rasterCommands, pixelOutput⟩

end Sys2Proof.Machine
end

section
/-! PROOFS. Steps of the stack arithmetic engines (14 R388, R389, R394, R396, R398 to R402). -/

namespace Sys2Proof.Machine

open Sys2Proof Host Spec

/-- No fault holds a step whose addresses all translate. -/
theorem State.stepFault_of_mapped {s : State} {o : EngOp} {vas : List Nat} (hmapped : allMapped s o.cx vas) (op : Nat) :
    s.stepFault op o vas = none := by
  unfold State.stepFault
  rw [List.findSome?_eq_none_iff.mpr, Option.map_none]
  intro a ha
  obtain ⟨l, hl⟩ := hmapped a ha
  rw [hl]

/-! SRED (R388, R389, R394). -/

section Sred

variable {s : State} {op : Nat} {o : EngOp} {r : SredReq} (ho : s.ops.get? op = some o) (hwork : o.work = .sred r)

include ho hwork

theorem exec_sredStep {crumb : Nat} {l : Leaf} (hleft : crumb ∈ r.left) (hbegun : s.opBegun op = true)
    (hmapped : allMapped s o.cx (r.crumbVas crumb)) (hl : s.translate o.cx (r.dst + 64 * crumb) = .ok l)
    (hfree : unbarred s (.crumb op crumb) (s.vaChans o.cx (r.crumbVas crumb))) :
    let s₁ := s.undefer (.crumb op crumb)
    exec (.sredStep op crumb) s = .next ((s₁.engWrite l (s₁.sredBytes o.cx r crumb)).setOp op { o with
      work := .sred { r with left := r.left.filter (· != crumb) } }) := by
  show execSredStep op crumb s = _
  unfold execSredStep
  simp only [ho, hwork, List.contains_eq_mem, hleft, hbegun, decide_true, Bool.not_true, Bool.or_self, Bool.false_eq_true,
    if_false, State.stepFault_of_mapped hmapped, hl, State.gate_of_unbarred _ hfree, enabled_some]

/-- An SRED without a crumb left ends: its flag is stored, then its record posted. -/
theorem exec_sredComplete {id : Nat} {c : StackCmd} (hc : s.stackOf? op = some (id, c)) (hleft : r.left = [])
    (hbegun : c.begun = true) :
    let s₁ := if s.locks.any fun l => l.op == op then s.clearLocks op else s
    let keys := s₁.flagKeys o.cx r.flag
    unbarred s₁ (.work op) (s₁.keysChans true keys) →
    let s₂ := s₁.undefer (.work op)
    exec (.sredComplete op) s = .next (((((if keys.isEmpty then s₂ else
      s₂.engineWrite o.cx.vd keys (leBytes 8 r.fval.toNat) true).doneStack id c).dropOp op).stackRunOn c.core c.stack)) := by
  intro s₁ keys hfree s₂
  show execSredComplete op s = _
  unfold execSredComplete
  simp only [ho, hc, hwork, hleft, hbegun, List.isEmpty_nil, Bool.not_true, Bool.or_self, Bool.false_eq_true, if_false,
    enabled_some]
  exact congrArg (fun x => Outcome.next (Option.getD x s₁)) (State.gate_of_unbarred _ hfree)

end Sred

theorem sredSteps : Spec.SredSteps := by
  intro s op o r ho hwork
  refine ⟨fun crumb l hleft hbegun hmapped hl hfree => exec_sredStep ho hwork hleft hbegun hmapped hl hfree, ?_⟩
  intro id c hc hleft hbegun s₁ keys hfree s₂
  refine ⟨fun hnone => ?_, fun hsome => ?_⟩ <;> rw [exec_sredComplete ho hwork hc hleft hbegun hfree]
  · rw [if_pos (List.isEmpty_iff.mpr hnone)]
  · rw [if_neg (mt List.isEmpty_iff.mp hsome)]

/-! All-bank mode (R396, R398 to R402). -/

/-- The next SBANK of a stack opens its session. -/
theorem exec_sbankEnter {s : State} {stack id pc : Nat} {c : StackCmd} (hroom : s.banksOn stack < 32)
    (hnext : s.scmds.find? (s.bankWaits stack) = some (id, c)) (hwork : c.work = .bank pc)
    (hfree : s.sessions.get? (sessKey stack pc) = none) (hserved : s.deferred.get [] (sessKey stack pc) = []) :
    let x : Session := { core := c.core, cx := c.cx, tag := c.tag, began := s.ns, entries := [], accs := [], ending := none
                         orphan := c.orphan }
    exec (.sbankEnter stack) s = .next (((s.setSession stack pc x).doneStack id c).stackRunOn c.core stack) := by
  show execSbankEnter stack s = _
  unfold execSbankEnter
  simp only [if_neg (Nat.not_le.mpr hroom), hnext, hwork, hfree, hserved, Option.isSome_none, List.isEmpty_nil, Bool.not_true,
    Bool.false_eq_true, if_false, enabled_some]

theorem exec_smacBanksDone {s : State} {op pc row col n acc lock : Nat} {entry : Option Nat} {c : StackCmd} {x : Session}
    (hc : s.scmds.get? op = some c) (hwork : c.work = .smac pc row col n entry acc lock) (hbegun : c.begun = true)
    (hx : s.sessions.get? (sessKey c.stack pc) = some x) :
    exec (.smacBanksDone op) s = .next (((((s.setSession c.stack pc { x with
      accs := s.macAccs c.stack pc row col n entry acc x }).clearLocks lock).dropOp lock).doneStack op c).stackRunOn
        c.core c.stack) := by
  show execSmacBanksDone op s = _
  unfold execSmacBanksDone
  simp only [hc, hwork, hbegun, hx, Bool.not_true, Bool.false_eq_true, if_false, enabled_some]

section Sacc

variable {s : State} {op pc d first n lock : Nat} {clr : Bool} {c : StackCmd} (hraster : s.rcmds.get? op = none)
  (hc : s.scmds.get? op = some c) (hbegun : c.begun = true)

include hraster hc hbegun

/-- A SACC's bank step reads its accumulators (R398). -/
theorem exec_sacc_reads {x : Session} (hwork : c.work = .sacc pc d first n clr lock none)
    (hx : s.sessions.get? (sessKey c.stack pc) = some x) :
    let s₁ := s.setStack op { c with work := .sacc pc d first n clr lock (some ((List.range n).map fun i =>
      (i, x.crumb (first + i)))) }
    exec (.engineOpRelease op) s = .next (if clr then s₁.setSession c.stack pc (x.clear first n) else s₁) := by
  show execEngineOpRelease op s = _
  unfold execEngineOpRelease State.stepSacc
  simp only [hraster, hc, hwork, hbegun, hx, Bool.not_true, Bool.false_eq_true, if_false, enabled_some]

/-- A SACC's destination crumb that translates is written, and the last ends the command (R388, R399). -/
theorem exec_sacc_writes {i : Nat} {bs : List Byte} {rest : List (Nat × List Byte)} {l : Leaf}
    (hwork : c.work = .sacc pc d first n clr lock (some ((i, bs) :: rest))) (hl : s.translate c.cx (d + 64 * i) = .ok l)
    (hcx : ∀ o, s.ops.get? lock = some o → o.cx = c.cx) (hfree : unbarred s (.crumb lock i) [chanOf l.pa]) :
    let s₁ := (s.undefer (.crumb lock i)).engWrite l bs
    exec (.engineOpRelease op) s = .next (if rest.isEmpty then
      (((s₁.clearLocks lock).dropOp lock).doneStack op c).stackRunOn c.core c.stack else
        s₁.setStack op { c with work := .sacc pc d first n clr lock (some rest) }) := by
  have hfault : ((s.ops.get? lock).bind fun o => s.stepFault lock o [d + 64 * i]) = none := by
    cases ho : s.ops.get? lock with
    | none => rfl
    | some o =>
      refine State.stepFault_of_mapped (fun a ha => ⟨l, ?_⟩) lock
      rw [List.mem_singleton.mp ha, hcx o ho, hl]
  show execEngineOpRelease op s = _
  unfold execEngineOpRelease State.stepSacc State.saccCrumb
  simp only [hraster, hc, hwork, hbegun, Bool.not_true, Bool.false_eq_true, if_false, hfault, hl,
    State.gate_of_unbarred _ hfree, enabled_some]

end Sacc

section Session

variable {s : State} {stack pc : Nat} {x : Session} (hx : s.sessions.get? (sessKey stack pc) = some x)

include hx

theorem exec_sessionTimeout (hopen : x.ending = none) (hlate : x.began + 50000 ≤ s.ns) :
    exec (.sessionTimeout stack pc) s = .next (s.setSession stack pc { x with ending := some none }).stackRunAll := by
  show execSessionTimeout stack pc s = _
  unfold execSessionTimeout
  simp only [hx, hopen, Option.isSome_none, decide_eq_false (Nat.not_lt.mpr hlate), Bool.or_self, Bool.false_eq_true, if_false,
    enabled_some]

variable (hover : s.sessionOver stack pc x = true)

include hover

/-- The record of a session that ends by force, or with its free control thread (R402). -/
theorem exec_deferredQueueServe_forced (hforced : x.ending = some none ∨ x.ending = none) :
    exec (.deferredQueueServe stack pc) s =
      .next ((s.leaveBank stack pc).stackRecord x.core x.cx x.tag stack 4 10 pc).stackRunAll := by
  show execDeferredQueueServe stack pc s = _
  unfold execDeferredQueueServe
  obtain hend | hend := hforced <;>
    simp only [hx, hover, hend, Bool.not_true, Bool.false_eq_true, if_false, enabled_some]

/-- The record of an SBEXIT (R401). -/
theorem exec_deferredQueueServe_exit {id : Nat} {c : StackCmd} (hend : x.ending = some (some id))
    (hc : (s.leaveBank stack pc).scmds.get? id = some c) :
    exec (.deferredQueueServe stack pc) s = .next ((s.leaveBank stack pc).doneStack id c).stackRunAll := by
  show execDeferredQueueServe stack pc s = _
  unfold execDeferredQueueServe
  simp only [hx, hover, hend, hc, Bool.not_true, Bool.false_eq_true, if_false, enabled_some]

end Session

theorem bankSteps : Spec.BankSteps := by
  intro s
  refine ⟨fun stack id pc c hroom hnext hwork hfree hserved => exec_sbankEnter hroom hnext hwork hfree hserved,
    fun op pc row col n entry acc lock c x hc hwork hbegun hx => exec_smacBanksDone hc hwork hbegun hx, ?sacc, ?session⟩
  case sacc =>
    intro op pc d first n clr lock c hraster hc hbegun put
    refine ⟨fun x hwork hx => exec_sacc_reads hraster hc hbegun hwork hx, ?_⟩
    intro i bs rest l hwork hl hcx hfree s₁
    refine (exec_sacc_writes hraster hc hbegun hwork hl hcx hfree).trans (congrArg Outcome.next ?_)
    exact if_congr List.isEmpty_iff rfl rfl
  case session =>
    intro stack pc x hx
    refine ⟨fun hopen hlate => exec_sessionTimeout hx hopen hlate, ?_⟩
    intro hover s₁
    exact ⟨fun hforced => exec_deferredQueueServe_forced hx hover hforced,
      fun id c hend hc => exec_deferredQueueServe_exit hx hover hend hc⟩

/-- Settles O44: each step's meaning runs to its end, as its addresses translate and no channel bars it. -/
theorem stackSteps : Obligations.StackSteps := ⟨sredSteps, bankSteps⟩

end Sys2Proof.Machine
end

section
/-! PROOFS. Steps of the filter engines (12 R348 to R350) and of the traversal engines (13 R359 to R372, R385). -/

namespace Sys2Proof.Machine

open Sys2Proof Host Spec

/-! The filter engines. -/

/-- With no channel in bank mode in the way, a request acts behind its team's earlier accesses. -/
theorem State.afterEarlier_of_free {s : State} {q : FilterReq} {t : Team} {req : Nat} (ht : s.team? q.core q.slot = some t)
    (hfree : freeOfBanks s (pendsTo req t.pend)) (f : State → Option State) :
    s.afterEarlier req q f = f (behindEarlier s req q t) := by
  unfold State.afterEarlier behindEarlier
  simp only [ht, State.stuck_of_freeOfBanks hfree, Bool.false_eq_true, if_false]

section Filter

variable {s : State} {req : Nat} {q : FilterReq} (hq : s.filters.get? req = some q)

include hq

theorem exec_filterStep_step (n : Nat) : exec (.filterStep q.stack ⟨req, n, none⟩) s = enabled s (s.filterStep req q n) := by
  show execFilterStep q.stack ⟨req, n, none⟩ s = _
  unfold execFilterStep
  simp only [hq, bne_self_eq_false, Bool.false_eq_true, if_false]

theorem exec_filterStep_fetch (n tid va len : Nat) :
    exec (.filterStep q.stack ⟨req, n, some (tid, va, len)⟩) s = enabled s (s.filterFetch req q tid va len) := by
  show execFilterStep q.stack ⟨req, n, some (tid, va, len)⟩ s = _
  unfold execFilterStep
  simp only [hq, bne_self_eq_false, Bool.false_eq_true, if_false]

variable {t : Team} (ht : s.team? q.core q.slot = some t) (hfree : freeOfBanks s (pendsTo req t.pend))

include ht hfree

/-- A step of a request ends (R348). -/
theorem filterStep_ends {n wf level : Nat} (hn : q.steps[n]? = some (wf, level)) :
    let s₁ := behindEarlier s req q t
    let j := joinStep ((q.args.filter fun x => x.tid / 32 == wf).map (s₁.filterThread q level))
    unbarred s₁ (.work req) ((j.2.1.pas ++ j.2.2.filterMap (s₁.feedbackPA q)).map chanOf) →
    exec (.filterStep q.stack ⟨req, n, none⟩) s =
      .next { j.2.2.foldl (fun s j => s.setFeedback q j) (s₁.undefer (.work req)) with
        filters := (j.2.2.foldl (fun s j => s.setFeedback q j) (s₁.undefer (.work req))).filters.set req { q with
          steps := q.steps.eraseIdx n, ws := q.ws ++ j.1, hole := lowerHole q.hole j.2.1.holes } } := by
  intro s₁ j hopen
  rw [exec_filterStep_step hq]
  unfold State.filterStep
  simp only [hn, State.afterEarlier_of_free ht hfree]
  exact congrArg (enabled s) (State.gate_of_unbarred _ hopen)

/-- A fetch of a request is made (R350). -/
theorem filterStep_fetches {tid va len : Nat} (hreads : q.work.reads va len = true)
    (hnew : ∀ g ∈ q.got, ¬(g.tid = tid ∧ g.va = va ∧ g.n = len)) (n : Nat) :
    let s₁ := behindEarlier s req q t
    let x := s₁.engLook q.cx [] tid va len
    unbarred s₁ (.work req) (((x.map (·.2)).getD []).map chanOf) →
    exec (.filterStep q.stack ⟨req, n, some (tid, va, len)⟩) s = .next { s₁.undefer (.work req) with
      filters := (s₁.undefer (.work req)).filters.set req { q with
        got := q.got ++ [{ tid := tid, va := va, n := len, x := x.map (·.1) }] } } := by
  intro s₁ x hopen
  have hgot : q.got.any (fun g => g.tid == tid && g.va == va && g.n == len) = false := by
    refine List.any_eq_false.mpr fun g hg => ?_
    rw [Bool.and_eq_true, Bool.and_eq_true, beq_iff_eq, beq_iff_eq, beq_iff_eq, and_assoc]
    exact hnew g hg
  rw [exec_filterStep_fetch hq]
  unfold State.filterFetch
  simp only [hreads, hgot, Bool.not_false, Bool.and_self, if_true, State.afterEarlier_of_free ht hfree]
  exact congrArg (enabled s) (State.gate_of_unbarred _ hopen)

end Filter

section Done

variable {s : State} {req : Nat} {q : FilterReq} (hq : s.filters.get? req = some q) (hsteps : q.steps = [])

include hq hsteps

/-- A request without a step left and without a hole leaves, its results on their way (R348). -/
theorem exec_filterRequestDone (hhole : q.hole = none) :
    exec (.filterRequestDone q.stack req) s =
      .next ({ s with filters := s.filters.erase req }.updTeam q.core q.slot fun u => { u with
        pend := u.pend.map fun (p : Pend) => if p.id == req then { p with work := .results q.ws 0 } else p }) := by
  show execFilterRequestDone q.stack req s = _
  unfold execFilterRequestDone
  simp only [hq, hsteps, hhole, bne_self_eq_false, List.isEmpty_nil, Bool.not_true, Option.isSome_none, Bool.false_and,
    Bool.or_self, Bool.false_eq_true, if_false, enabled_some]

/-- With a hole, its record comes before the results (R349). -/
theorem exec_filterRequestDone_hole {a : Nat} (hhole : q.hole = some a) (hposts : s.postsNow q.core q.cx 4 q.stack = true) :
    let r : EventRec := { tag := BitVec.ofNat 64 a, src := 4, status := 2, unit := q.stack
                          detail := BitVec.ofNat 32 (2 ^ 8 * q.slot + 1) }
    exec (.filterRequestDone q.stack req) s =
      .next (({ s with filters := s.filters.erase req }.postEvent q.core q.cx r).updTeam q.core q.slot fun u => { u with
        pend := u.pend.map fun (p : Pend) => if p.id == req then { p with work := .results q.ws 0 } else p }) := by
  show execFilterRequestDone q.stack req s = _
  unfold execFilterRequestDone
  simp only [hq, hsteps, hhole, hposts, bne_self_eq_false, List.isEmpty_nil, Bool.not_true, Option.isSome_some, Bool.true_and,
    Bool.or_self, Bool.false_eq_true, if_false, enabled_some]

end Done

theorem filterSteps : Spec.FilterSteps := by
  intro s req q hq
  refine ⟨?acts, ?leaves⟩
  case acts =>
    intro t ht hfree s₁
    refine ⟨?step, ?fetch⟩
    case step =>
      intro n wf level hn j hopen
      refine ⟨_, filterStep_ends hq ht hfree hn hopen, Tbl.get?_set_self .., fun hmarks => ?_⟩
      show (j.2.2.foldl (fun s j => s.setFeedback q j) (s₁.undefer (.work req))).mem = s₁.mem
      rw [hmarks, List.foldl_nil, State.undefer_mem]
    case fetch =>
      intro n tid va len hreads hnew x hopen
      exact ⟨_, filterStep_fetches hq ht hfree hreads hnew n hopen, State.undefer_mem .., Tbl.get?_set_self ..⟩
  case leaves =>
    intro hsteps done s₁
    exact ⟨fun hhole => exec_filterRequestDone hq hsteps hhole,
      fun a hhole hposts => exec_filterRequestDone_hole hq hsteps hhole hposts⟩

/-! The traversal engines: no byte of memory is theirs to change. -/

theorem State.updTeamRef_mem (s : State) (gang index : Nat) (f : Team → Team) : (s.updTeamRef gang index f).mem = s.mem := by
  unfold State.updTeamRef
  split
  · rfl
  · split <;> rfl

theorem State.postEvent_mem (s : State) (core : Nat) (cx : CtxId) (r : EventRec) : (s.postEvent core cx r).mem = s.mem :=
  (congrArg State.mem (s.postEvent_frame core cx r) :)

theorem State.postRay_mem (s : State) (id : Nat) : (s.postRay id).mem = s.mem := by
  unfold State.postRay
  split
  · rfl
  · split
    · rfl
    · split
      · rfl
      · split
        · exact State.updTeamRef_mem ..
        · exact State.updTeamRef_mem ..
        · rfl

theorem State.errorRay_mem (s : State) (id : Nat) (r : Ray) (status addr : Nat) : (s.errorRay id r status addr).mem = s.mem := by
  unfold State.errorRay State.endRay
  rw [State.postRay_mem, State.setRay_mem]
  split
  · exact State.postEvent_mem ..
  · exact State.postFiring_mem ..
  · rfl

theorem State.tlRecord_mem (s : State) (core : Nat) (cx : CtxId) (id status : Nat) (tag : W64) (detail : Nat) :
    (s.tlRecord core cx id status tag detail).mem = s.mem := State.postEvent_mem ..

theorem State.publish_mem (s : State) (core : Nat) (cx : CtxId) (id base size : Nat) (t : Treelet) :
    (s.publish core cx id base size t).mem = s.mem := State.tlRecord_mem ..

theorem State.retire_mem (s : State) (core : Nat) (cx : CtxId) (id : Nat) (t : Treelet) : (s.retire core cx id t).mem = s.mem :=
  (State.tlRecord_mem ..).trans (foldl_keeps (fun u : State => u.mem = s.mem) _
    (fun _ _ h => (State.errorRay_mem ..).trans h) _ _ rfl)

theorem State.tclose_mem (s : State) (core : Nat) (cx : CtxId) (id : Nat) : (s.tclose core cx id).mem = s.mem := by
  unfold State.tclose
  dsimp only
  split
  · exact State.tlRecord_mem ..
  · exact State.tlRecord_mem ..
  · rfl
  · split
    · rfl
    · exact State.tlRecord_mem ..

theorem State.tlpub_mem (s : State) (core : Nat) (cx : CtxId) (id base size : Nat) : (s.tlpub core cx id base size).mem = s.mem := by
  unfold State.tlpub
  dsimp only
  split
  · exact State.tlRecord_mem ..
  · exact State.tlRecord_mem ..
  · split
    · exact State.tlRecord_mem ..
    · split
      · exact State.tlRecord_mem ..
      · split
        · exact State.tlRecord_mem ..
        · exact State.publish_mem ..
  · split
    · exact State.retire_mem ..
    · split
      · exact State.tlRecord_mem ..
      · exact State.publish_mem ..

theorem State.tlAct_mem (s : State) (core : Nat) (c : TlCmd) : (s.tlAct core c).mem = s.mem := by
  unfold State.tlAct
  split
  · exact State.tclose_mem ..
  · exact State.tlpub_mem ..
  · exact State.tlRecord_mem ..

theorem State.tlRun_mem (s : State) (core stack n : Nat) : (s.tlRun core stack n).mem = s.mem := by
  induction n generalizing s with
  | zero => rfl
  | succ n ih =>
    rw [State.tlRun]
    split
    · split
      · rfl
      · exact (ih _).trans (State.tlAct_mem ..)
    · rfl

/-- The treelets, the rays and the commands that wait. -/
def State.traversalView (s : State) : Tbl Treelet × Tbl Ray × Tbl (List TlCmd) := (s.treelets, s.rays, s.tlq)

theorem State.tlRecord_traversalView (s : State) (core : Nat) (cx : CtxId) (id status : Nat) (tag : W64) (detail : Nat) :
    (s.tlRecord core cx id status tag detail).traversalView = s.traversalView := by
  unfold State.tlRecord
  rw [State.postEvent_frame]
  rfl

theorem State.treelet_setTreelet_self (s : State) (cx : CtxId) (id : Nat) (t : Treelet) :
    (s.setTreelet cx id t).treelet cx id = t := Tbl.get_put_self ..

/-- The records of the TCLOSEs that waited for a treelet's visits. -/
def State.closedRecords (s : State) (cx : CtxId) (treelet : Nat) (cores : List Nat) : State :=
  cores.foldl (fun s c => s.tlRecord c cx treelet 0 (BitVec.ofNat 64 treelet) (s.queuedAt cx treelet)) s

theorem State.closedRecords_mem (s : State) (cx : CtxId) (treelet : Nat) (cores : List Nat) :
    (s.closedRecords cx treelet cores).mem = s.mem :=
  foldl_keeps (fun u : State => u.mem = s.mem) _ (fun _ _ h => (State.tlRecord_mem ..).trans h) _ _ rfl

theorem State.closedRecords_traversalView (s : State) (cx : CtxId) (treelet : Nat) (cores : List Nat) :
    (s.closedRecords cx treelet cores).traversalView = s.traversalView :=
  foldl_keeps (fun u : State => u.traversalView = s.traversalView) _
    (fun _ _ h => (State.tlRecord_traversalView ..).trans h) _ _ rfl

/-- A drained CLOSING treelet is PROOFING, and its TCLOSEs complete; then the commands behind them run (R372). -/
def State.proofed (s : State) (cx : CtxId) (treelet : Nat) : State :=
  (s.setTreelet cx treelet { s.treelet cx treelet with
    st := .proofing, closers := [], held := s.queuedAt cx treelet }).closedRecords cx treelet (s.treelet cx treelet).closers

theorem exec_treeletDrainDone {s : State} {cx : CtxId} {treelet : Nat} (hclosing : (s.treelet cx treelet).st = .closing)
    (hdrained : s.visited cx treelet = false) : exec (.treeletDrainDone cx treelet) s =
      .next (((s.proofed cx treelet).tlq.map (·.1)).foldl
        (fun s k => if k % 16 == tlStack treelet then s.tlRunAll (k / 16) (k % 16) else s) (s.proofed cx treelet)) := by
  show execTreeletDrainDone cx treelet s = _
  unfold execTreeletDrainDone
  simp only [hclosing, hdrained, bne_self_eq_false, Bool.or_self, Bool.false_eq_true, if_false, enabled_some]
  rfl

theorem treeletDrainDone_proofs {s : State} {cx : CtxId} {treelet : Nat} (hclosing : (s.treelet cx treelet).st = .closing)
    (hdrained : s.visited cx treelet = false) :
    ∃ t, exec (.treeletDrainDone cx treelet) s = .next t ∧ t.mem = s.mem ∧
      (s.tlq = [] → t.rays = s.rays ∧ (t.treelet cx treelet).st = .proofing ∧ (t.treelet cx treelet).closers = [] ∧
        (t.treelet cx treelet).held = s.queuedAt cx treelet) := by
  refine ⟨_, exec_treeletDrainDone hclosing hdrained, ?mem, fun hidle => ?idle⟩
  case mem =>
    refine foldl_keeps (fun u : State => u.mem = s.mem) _ (fun u k hu => ?_) _ _ (State.closedRecords_mem ..)
    split
    · exact (State.tlRun_mem ..).trans hu
    · exact hu
  case idle =>
    let p : Treelet := { s.treelet cx treelet with st := .proofing, closers := [], held := s.queuedAt cx treelet }
    have hview : (s.proofed cx treelet).traversalView = (s.setTreelet cx treelet p).traversalView :=
      State.closedRecords_traversalView ..
    have htlq : (s.proofed cx treelet).tlq = [] := (congrArg (·.2.2) hview).trans hidle
    have htreelets : (s.proofed cx treelet).treelets = (s.setTreelet cx treelet p).treelets := (congrArg (·.1) hview :)
    have hp : (s.proofed cx treelet).treelet cx treelet = p := by
      rw [State.treelet, htreelets]
      exact State.treelet_setTreelet_self ..
    rw [htlq, List.map_nil, List.foldl_nil, hp]
    exact ⟨(congrArg (·.2.1) hview :), rfl, rfl, rfl⟩

theorem traversalSteps : Spec.TraversalSteps := by
  intro s
  refine ⟨fun ray r fwd hr hplace => ?arrive, fun stack vd x hroom hx => ?refill, fun stack vd k hk => ?round, ?verdict,
    fun core slot t x ht hroom hx => ?post, fun cx treelet hclosing hdrained => treeletDrainDone_proofs hclosing hdrained⟩
  case arrive =>
    show execRayArrive ray s = _
    simp only [execRayArrive, hr, hplace, enabled_some]
  case refill =>
    show execSpillRefill stack vd s = _
    simp only [execSpillRefill, if_neg (Nat.not_le.mpr hroom), hx, Option.map_some, enabled_some]
  case round =>
    show execTraversalRound stack vd s = _
    simp only [execTraversalRound, hk, Option.map_some, enabled_some]
  case verdict =>
    intro gang index t h v rest ht hverdicts taken
    refine ⟨fun hnone => ?_, fun id r w c hparked hopen => ?_⟩
    · show execCandidateVerdict gang index s = _
      simp only [execCandidateVerdict, ht, hverdicts, hnone, enabled_some]
      rfl
    · show execCandidateVerdict gang index s = _
      simp only [execCandidateVerdict, ht, hverdicts, hparked, State.gate_of_unbarred _ hopen, enabled_some]
      rfl
  case post =>
    show execHitRecordPost core slot s = _
    simp only [execHitRecordPost, ht, if_neg (Nat.not_le.mpr hroom), hx, Option.map_some, enabled_some]

/-- Settles O43: with no channel in bank mode in the way each step's meaning runs to its end. -/
theorem filterAndTraversalSteps : Obligations.FilterAndTraversalSteps := ⟨filterSteps, traversalSteps⟩

end Sys2Proof.Machine
end

section
/-! PROOFS. Steps of the slices' codecs, and the C bit (15 R413, R414, R449). -/

namespace Sys2Proof.Machine

open Sys2Proof Host Spec

/-! A tile's fill and its write-back (R413, R414). -/

/-- Where every crumb has a line, filling a tile's lines only touches them. -/
theorem State.fillTileLines_of_hits (vd hint : Nat) (cs : List Nat) {s : State}
    (h : ∀ c ∈ cs, (s.lines.get? c).isSome = true) : ∃ ls, s.fillTileLines vd hint cs = some { s with lines := ls } := by
  induction cs generalizing s with
  | nil => exact ⟨s.lines, rfl⟩
  | cons c cs ih =>
    obtain ⟨l, hl⟩ := Option.isSome_iff_exists.mp (h c List.mem_cons_self)
    have hkept : ∀ d ∈ cs, ((s.hitLine hint c l).lines.get? d).isSome = true := by
      intro d hd
      unfold State.hitLine
      rw [Tbl.get?_set]
      split
      · rfl
      · exact h d (List.mem_cons_of_mem c hd)
    obtain ⟨ls, hls⟩ := ih hkept
    refine ⟨ls, ?_⟩
    rw [State.fillTileLines]
    simp only [hl, hls]
    rfl

theorem exec_cdcTileFill {s t : State} {pa vd : Nat} (hout : s.tiles.get? (pa / 256) = none) (hfree : s.tileStuck pa = false)
    (hvd : s.compVd pa = some vd)
    (hlines : s.fillTileLines vd 0 [pa / 256 * 4, pa / 256 * 4 + 1, pa / 256 * 4 + 2, pa / 256 * 4 + 3] = some t) :
    exec (.cdcTileFill pa) s = .next (t.fillTile (pa / 256)) := by
  show execCdcTileFill pa s = _
  simp only [execCdcTileFill, hout, hfree, hvd, hlines, Option.isSome_none, Bool.or_self, Bool.false_eq_true, if_false,
    Option.bind_some, Option.map_some, enabled_some]

theorem exec_cdcWriteback {s : State} {pa : Nat} (hin : (s.tiles.get? (pa / 256)).isSome = true)
    (hfree : s.tileDirty pa = false ∨ s.tileStuck pa = false) :
    exec (.cdcWriteback pa) s = .next { s.cleanTile (pa / 256) with
      tiles := (s.cleanTile (pa / 256)).tiles.erase (pa / 256)
      lines := (s.cleanTile (pa / 256)).lines.filter fun x => !(x.2.tile && x.1 / 4 == pa / 256) } := by
  have hgo : ((s.tiles.get? (pa / 256)).isNone || (s.tileDirty pa && s.tileStuck pa)) = false := by
    obtain ⟨u, hu⟩ := Option.isSome_iff_exists.mp hin
    rw [hu, Option.isNone_some, Bool.false_or, Bool.and_eq_false_iff]
    exact hfree
  show execCdcWriteback pa s = _
  simp only [execCdcWriteback, hgo, Bool.false_eq_true, if_false, enabled_some]

/-! The C bit (R449). -/

section Page

variable {s : State} {cx : CtxId} {page : Nat} {x : Nat × Nat × Nat} (hcx : s.cxStuck cx = false)
  (hx : (s.drainCx cx).leafWhere? cx (page * 65536) = some x)
  (hfree : ∀ t ∈ (s.drainCx cx).encodedTiles [leafRange x], (s.drainCx cx).tileStuck (256 * t) = false)

include hcx hx hfree

theorem exec_pageCChange {setC : Bool} (hbit : bitAt x.2.1 5 ≠ setC) (hreads : (setC && (s.drainCx cx).filterReads cx
    (alignDown (page * 65536) (leafBytes x.1)) (leafBytes x.1)) = false) :
    exec (.pageCChange cx page setC) s = .next ((State.setCbit (if setC then ((s.drainCx cx).dropLines [leafRange x]).zeroModes
      [leafRange x] else (s.drainCx cx).rawRanges [leafRange x]) x setC).invalidate cx
        (alignDown (page * 65536) (leafBytes x.1)) (leafBytes x.1)) := by
  have hopen : ((s.drainCx cx).encodedTiles [leafRange x]).any (fun t => (s.drainCx cx).tileStuck (256 * t)) = false :=
    List.any_eq_false.mpr fun t ht => Bool.eq_false_iff.mp (hfree t ht)
  show execPageCChange cx page setC s = _
  simp only [execPageCChange, hcx, hx, beq_false_of_ne hbit, hreads, hopen, Bool.or_self, Bool.false_eq_true, if_false,
    enabled_some]

end Page

theorem codecSteps : Spec.CodecSteps := by
  intro s
  refine ⟨?fill, fun pa hin hfree => ?writeback, ?page⟩
  case fill =>
    intro pa vd hout hfree hvd crumbs
    refine ⟨fun hlines => ?_, fun t ht => exec_cdcTileFill hout hfree hvd ht⟩
    obtain ⟨ls, hls⟩ := State.fillTileLines_of_hits vd 0 crumbs hlines
    refine ⟨_, { bytes := s.tileBytes (pa / 256), dirty := [false, false, false, false] },
      exec_cdcTileFill hout hfree hvd hls, ?_, rfl, rfl, ?_⟩ <;> simp only [State.fillTile, hout]
    exact Tbl.get?_set_self ..
  case writeback =>
    refine ⟨_, exec_cdcWriteback hin hfree, rfl, Tbl.get?_erase_self .., fun x hx htile => ?_⟩
    have hkept := (List.mem_filter.mp hx).2
    rw [htile, beq_self_eq_true, Bool.and_true, Bool.not_eq_true'] at hkept
    exact hkept
  case page =>
    intro cx page setC x hcx hx hbit s₁ base hfree
    refine ⟨fun hset hreads => ?_, fun hclear => ?_⟩
    · subst hset
      exact exec_pageCChange hcx hx hfree hbit hreads
    · subst hclear
      exact exec_pageCChange hcx hx hfree hbit rfl

end Sys2Proof.Machine
end

section
/-! PROOFS. Steps of the raster engines (15 R418 to R425, R432). -/

namespace Sys2Proof.Machine

open Sys2Proof Host Spec

/-! Seating a gang. -/

/-- The state without what seating a gang may change: the cores and the teams. -/
def State.beyondSeats (s : State) : State := { s with cores := [], teams := [] }

theorem State.seat_beyondSeats (s : State) (core : Nat) (ts : List Team) : (s.seat core ts).beyondSeats = s.beyondSeats := by
  induction ts generalizing s with
  | nil => rfl
  | cons t ts ih =>
    rw [State.seat]
    split
    · exact (ih _).trans rfl
    · rfl

theorem State.seatGang_beyondSeats (s : State) (gang units : Nat) (teams : Nat → List Team) (m : Nat) (places : List (Nat × Nat)) :
    (s.seatGang gang units teams m places).beyondSeats = s.beyondSeats := by
  induction places generalizing s m with
  | nil => rfl
  | cons x xs ih => exact (ih _ _).trans (State.seat_beyondSeats ..)

/-! Pixel teams (R420, R421). -/

/-- A DRAW's next pixel team, its core and its base given, is placed as a gang of one core. -/
theorem State.placePixel_of_places {s : State} {id va n core base tx ty : Nat} {c : RasterCmd} {l : Launch} {st : RasterState}
    {r : DrawRun} {rest : List (Nat × Nat)} {tri : Tri} (hwork : c.work = .draw va n st (some r))
    (htiles : r.tiles = some ((tx, ty) :: rest)) (htri : setupTri st.cull (vertices r.corners) = some tri)
    (hcore : s.chooseCores l = some [core]) (hplaces : s.placesOk l.record [core] [base] = true) :
    ∃ t gid g, s.placePixel id c l base = some t ∧ t.gang? gid = some g ∧ g.cores = [core] ∧ g.bases = [base] ∧
      g.lin = ty * r.surf.tw + tx ∧ g.resident = true ∧
      t.rcmds.get? id = some { c with work := .draw va n st (some (r.spawn gid tx ty rest)) } ∧ t.mem = s.mem := by
  let g := Gang.fresh r.launch (ty * r.surf.tw + tx) l.record [core] [base] s.nextId
  let s₁ := { s.newId.2.setGang s.nextId g with launches := s.launches.set r.launch { l with nextGang := l.nextGang + 1 } }
  let team := pixelTeam tri l.record (drawRect r.surf st) id s.nextId (ty * r.surf.tw + tx) r.tri va tx ty
  let s₂ := s₁.seatGang s.nextId l.record.units (fun _ => [team]) 0 [(core, base)]
  have hseated : s₂.beyondSeats = s₁.beyondSeats := State.seatGang_beyondSeats ..
  have hgangs : s₂.gangs = s₁.gangs := (congrArg State.gangs hseated :)
  refine ⟨s₂.setRaster id c (.draw va n st (some (r.spawn s.nextId tx ty rest))), s.nextId, g, ?_, ?_, rfl, rfl, rfl, rfl,
    Tbl.get?_set_self .., (congrArg State.mem hseated :)⟩
  · unfold State.placePixel
    simp only [hwork, htiles, htri, hcore, hplaces, Bool.not_true, Bool.false_eq_true, if_false]
    rfl
  · show s₂.gangs.get? s.nextId = some g
    rw [hgangs]
    exact State.gang?_setGang_self ..

theorem pixelTeam_spawns {s s₂ : State} {die base id va n core tx ty k : Nat} {c : RasterCmd} {l : Launch} {st : RasterState}
    {r : DrawRun} {rest : List (Nat × Nat)} {tri : Tri} (hroom : s.pixelTeams die < 4096)
    (hpick : s.dispatchPick die (s.pixelHeads die) = some (k, l, s₂)) (hdraw : l.draw = some id)
    (hc : s₂.rcmds.get? id = some c) (hwork : c.work = .draw va n st (some r)) (htiles : r.tiles = some ((tx, ty) :: rest))
    (htri : setupTri st.cull (vertices r.corners) = some tri) (hcore : s₂.chooseCores l = some [core])
    (hplaces : s₂.placesOk l.record [core] [base] = true) :
    ∃ t gid g, exec (.pixelTeamSpawn die base) s = .next t ∧ t.gang? gid = some g ∧ g.cores = [core] ∧ g.bases = [base] ∧
      g.lin = ty * r.surf.tw + tx ∧ g.resident = true ∧
      t.rcmds.get? id = some { c with work := .draw va n st (some (r.spawn gid tx ty rest)) } ∧ t.mem = s₂.mem := by
  obtain ⟨t, gid, g, hplaced, hg⟩ := State.placePixel_of_places (id := id) hwork htiles htri hcore hplaces
  refine ⟨t, gid, g, ?_, hg⟩
  show execPixelTeamSpawn die base s = _
  simp only [execPixelTeamSpawn, if_neg (Nat.not_le.mpr hroom), hpick, Option.bind_some, hdraw, hc, hplaced,
    Option.orElse_some, enabled_some]

/-! The merge (R423 to R425). -/

/-- An access of the engine that no channel bars gets its keys. -/
theorem State.rasterKeys_of_open {s : State} {who : Waiter} {cx : CtxId} {va n : Nat} {wr : Bool} {keys : List Nat}
    (hspan : s.span cx va n wr = .ok keys) (hopen : unbarred s who (s.keysChans (wr && s.throughAt cx .g va) keys)) (die : Nat) :
    s.rasterKeys who die cx va n wr = .ok ((s.undefer who).walkedDie die cx va, keys) := by
  unfold State.rasterKeys
  simp only [hspan]
  exact if_neg (Bool.eq_false_iff.mp hopen)

theorem State.rasterRead_of_open {s : State} {who : Waiter} {cx : CtxId} {va n : Nat} {keys : List Nat}
    (hspan : s.span cx va n false = .ok keys) (hopen : unbarred s who (s.keysChans false keys)) (die : Nat) :
    let s₁ := (s.undefer who).walkedDie die cx va
    s.rasterRead who die cx va n = .ok (s₁.touch cx.vd 0 keys, keys.map s₁.readKey) := by
  unfold State.rasterRead
  rw [State.rasterKeys_of_open hspan hopen]
  rfl

section Merge

variable {s : State} {die : Nat} {crumb : PacketCrumb} {id va n : Nat} {c : RasterCmd} {r : DrawRun} {p : PixelRec}
  {st : RasterState} {ro : Option DrawRun} {q : Packet} (hpacket : s.packetOf die crumb.packet = some (id, c, r, p))
  (hfaults : s.rasterWaits id c = false) (hwork : c.work = .draw va n st ro) (hq : p.packet = some q)
  (hheld : s.packetHeld q = false) (hfirst : s.mergeWaits id c st r p = false) (hmay : q.mayMerge st crumb.place = true)

include hpacket hfaults hwork hq hheld hfirst hmay

/-- A packet's event at a crumb that the engine reaches. -/
theorem exec_pxoutMerge {t : State} {frags : List Fragment}
    (hmerge : s.mergeAt (.crumb crumb.packet crumb.place) die c.cx (r.surf.crumb p crumb.place) st crumb.place q.frags =
      .ok (t, frags)) :
    exec (.pxoutMerge die crumb) s =
      .next (t.setRaster id c (.draw va n st (some (r.setPacket crumb.packet frags)))) := by
  show execPxoutMerge die crumb s = _
  simp only [execPxoutMerge, hpacket, hwork, hq, hfaults, hheld, hfirst, hmay, hmerge, Bool.not_true, Bool.or_self,
    Bool.false_eq_true, if_false, enabled_some]

end Merge

/-- A packet whose fragments leave the crumb's bytes as they are writes nothing. -/
theorem State.mergeAt_unchanged {s s₂ : State} {who : Waiter} {die : Nat} {cx : CtxId} {va place : Nat} {st : RasterState}
    {frags : List Fragment} {old : List Byte} (hread : s.rasterRead who die cx va 64 = .ok (s₂, old))
    (hsame : (frags.foldl (mergeCrumb st place) (old, [])).1 = old) :
    s.mergeAt who die cx va st place frags = .ok (s₂, (frags.foldl (mergeCrumb st place) (old, [])).2) := by
  unfold State.mergeAt
  simp only [hread, hsame, beq_self_eq_true, if_true]

theorem State.mergeAt_writes {s s₂ : State} {who : Waiter} {die : Nat} {cx : CtxId} {va place : Nat} {st : RasterState}
    {frags : List Fragment} {old : List Byte} {keys : List Nat} (hread : s.rasterRead who die cx va 64 = .ok (s₂, old))
    (hchanged : (frags.foldl (mergeCrumb st place) (old, [])).1 ≠ old) (hspan : s₂.span cx va 64 true = .ok keys)
    (hopen : unbarred s₂ who (s₂.keysChans (s₂.throughAt cx .g va) keys)) :
    s.mergeAt who die cx va st place frags =
      .ok (((s₂.undefer who).walkedDie die cx va).rasterWrite cx va keys (frags.foldl (mergeCrumb st place) (old, [])).1,
        (frags.foldl (mergeCrumb st place) (old, [])).2) := by
  have hkeys := State.rasterKeys_of_open (wr := true) hspan (by rw [Bool.true_and]; exact hopen) die
  unfold State.mergeAt
  simp only [hread, beq_false_of_ne hchanged.symm, Bool.false_eq_true, if_false, hkeys]

/-! A DRAW's reads, its completion and its faults (R418, R419, R431, R432). -/

section Complete

variable {s : State} {cmd : Nat} {c : RasterCmd} (hc : s.rcmds.get? cmd = some c) (hfaults : s.rasterWaits cmd c = false)

include hc hfaults

/-- A DRAW whose teams have all been merged and retired completes, at its end or at the fault that ended it. -/
theorem exec_drawComplete {r : DrawRun} (hdone : c.work.drawDone = some r) :
    (r.ended = none → exec (.drawComplete c.die cmd) s =
      .next ({ s with launches := s.launches.erase r.launch }.finishRaster cmd c 0 c.tag 0 r.spawned)) ∧
    ∀ va, r.ended = some va → exec (.drawComplete c.die cmd) s =
      .next ({ s with launches := s.launches.erase r.launch }.finishRaster cmd c 2 (BitVec.ofNat 64 va) 0 r.spawned) := by
  refine ⟨fun hend => ?_, fun va hend => ?_⟩
  · show execDrawComplete c.die cmd s = _
    simp only [execDrawComplete, hc, bne_self_eq_false, hdone, hfaults, hend, Bool.false_eq_true, if_false, enabled_some]
  · show execDrawComplete c.die cmd s = _
    simp only [execDrawComplete, hc, bne_self_eq_false, hdone, hfaults, hend, Bool.false_eq_true, if_false, enabled_some]

/-- A DRAW with a corner of its triangle to read goes on by reading it. -/
theorem exec_drawComplete_reads {va n : Nat} {st : RasterState} {r : DrawRun} {s' : State} {bs : List Byte}
    (hwork : c.work = .draw va n st (some r)) (hend : r.ended = none) (htiles : r.tiles = none) (htri : r.tri < n)
    (hread : s.rasterRead (.work cmd) c.die c.cx (va + 48 * r.tri + 16 * (r.corners.length / 3)) 16 = .ok (s', bs)) :
    let r₁ := { r with corners := r.corners ++ [0, 4, 8].map (word32 bs) }
    exec (.drawComplete c.die cmd) s =
      .next (s'.setRaster cmd c (.draw va n st (some (if r₁.corners.length < 9 then r₁ else r₁.setUp st)))) := by
  have hnot : c.work.drawDone = none := by
    simp only [RasterWork.drawDone, hwork, hend, htiles, decide_eq_false (Nat.not_le.mpr htri), Option.isSome_none,
      Option.isNone_none, Bool.and_false, Bool.or_self, Bool.false_and, Bool.false_eq_true, if_false]
  have hgoes : s.advanceDraw cmd = s.readVertex cmd c va n st r := by
    simp only [State.advanceDraw, hc, hfaults, hwork, hend, htiles, decide_eq_false (Nat.not_le.mpr htri), Option.isSome_none,
      Bool.or_self, Bool.false_eq_true, if_false]
  show execDrawComplete c.die cmd s = _
  simp only [execDrawComplete, hc, bne_self_eq_false, hnot, hgoes, State.readVertex, hread, Bool.false_eq_true, if_false,
    enabled_some]

end Complete

section Fault

variable {s : State} {rec die id : Nat} {f : FaultRec} (hf : s.faults.get? rec = some f) (hwho : f.who = .raster die id)

include hf hwho

theorem exec_rasterFaultResolve_mended {ptes : List (Nat × Nat)} (hmay : mayMap (s.dropFault rec) ptes) :
    exec (.rasterFaultResolve rec (some ptes)) s = .next { (s.dropFault rec).writePtes ptes with
      rcmds := ((s.dropFault rec).writePtes ptes).rcmds.alter id fun c => { c with work := c.work.clearFault } } := by
  show execRasterFaultResolve rec (some ptes) s = _
  simp only [execRasterFaultResolve, hf, hwho, State.mend_of_mayMap hmay, State.replay, Option.map_some, enabled_some]

theorem exec_rasterFaultResolve_ended {c : RasterCmd} (hc : s.rcmds.get? id = some c) :
    exec (.rasterFaultResolve rec none) s = .next ((s.dropFault rec).endRaster id f.va c) := by
  have hc' : (s.dropFault rec).rcmds.get? id = some c := hc
  show execRasterFaultResolve rec none s = _
  simp only [execRasterFaultResolve, hf, hwho, hc', enabled_some]

end Fault

theorem drawSteps : Spec.DrawSteps := by
  intro s die
  refine ⟨?spawn, ?merge, ?complete, ?vertex, ?fault⟩
  case spawn =>
    intro base id va n st r l c core tx ty rest tri k s₂ hroom hpick hdraw hc hwork htiles htri hcore hplaces
    exact pixelTeam_spawns hroom hpick hdraw hc hwork htiles htri hcore hplaces
  case merge =>
    intro crumb id va n c r p st ro q ks hpacket hfaults hwork hq hheld hfirst hmay at' who hspan hopen s₁ s₂ old new left
    have hread := State.rasterRead_of_open hspan hopen die
    refine ⟨fun hsame => ?_, fun ks' hchanged hspan' hopen' => ?_⟩
    · exact exec_pxoutMerge hpacket hfaults hwork hq hheld hfirst hmay (State.mergeAt_unchanged hread hsame)
    · exact exec_pxoutMerge hpacket hfaults hwork hq hheld hfirst hmay (State.mergeAt_writes hread hchanged hspan' hopen')
  case complete =>
    intro cmd c r hc hdone hdie hfaults
    subst hdie
    exact exec_drawComplete hc hfaults hdone
  case vertex =>
    intro cmd c va n st r s' bs hc hdie hfaults hwork hend htiles htri hread
    subst hdie
    exact exec_drawComplete_reads hc hfaults hwork hend htiles htri hread
  case fault =>
    intro rec id f hf hwho
    exact ⟨fun ptes hmay => exec_rasterFaultResolve_mended hf hwho hmay,
      fun c hc => exec_rasterFaultResolve_ended hf hwho hc⟩

end Sys2Proof.Machine
end

section
/-! PROOFS. Steps of the display heads (16 R435 to R438). -/

namespace Sys2Proof.Machine

open Sys2Proof Host Spec

/-! Heads, and what their reads leave of them. -/

theorem State.head_updHead (s : State) (n : Nat) (f : Head → Head) : (s.updHead n f).head n = f (s.head n) :=
  Tbl.get_set_self ..

theorem State.head_of_heads {s t : State} (h : t.heads = s.heads) (n : Nat) : t.head n = s.head n := by
  rw [State.head, h, State.head]

theorem State.mediaTouch_beyondAccess (s : State) (cx : CtxId) (va n : Nat) :
    (s.mediaTouch cx va n).beyondAccess = s.beyondAccess := by
  unfold State.mediaTouch
  split
  · exact State.touch_beyondAccess ..
  · rfl

theorem State.undefer_head (s : State) (w : Waiter) (n : Nat) : (s.undefer w).head n = s.head n :=
  State.head_of_heads (congrArg State.heads (s.undefer_frame w) :) n

theorem State.mediaTouch_head (s : State) (cx : CtxId) (va k n : Nat) : (s.mediaTouch cx va k).head n = s.head n :=
  State.head_of_heads (congrArg State.heads (s.mediaTouch_beyondAccess cx va k) :) n

theorem State.undefer_newFrame (s : State) (w : Waiter) (cx : CtxId) (h : Head) :
    (s.undefer w).newFrame cx h = s.newFrame cx h := by
  rw [State.undefer_frame]
  rfl

/-! Reads of a presented surface (R436). -/

/-- The pixels go to the first frame that is not read to its end. -/
theorem addPixels_append {before : List Frame} {f : Frame} (hbefore : ∀ g ∈ before, g.isRead = true) (hf : f.isRead = false)
    (bs : List Byte) (rest : List Frame) :
    addPixels bs (before ++ f :: rest) = before ++ { f with pixels := f.pixels ++ bs } :: rest := by
  induction before with
  | nil =>
    rw [List.nil_append, addPixels, if_neg (Bool.eq_false_iff.mp hf)]
    rfl
  | cons g gs ih =>
    rw [List.cons_append, addPixels, if_pos (hbefore g List.mem_cons_self),
      ih fun x hx => hbefore x (List.mem_cons_of_mem g hx)]
    rfl

/-- The head reads the next crumb of its first frame that is not read to its end. -/
theorem State.readCrumb_next {s : State} {head : Nat} {cx : CtxId} {before rest : List Frame} {f : Frame} (hqueue : (s.head head).queue = before ++ f :: rest)
    (hbefore : ∀ g ∈ before, g.isRead = true) (hf : f.isRead = false)
    (hopen : unbarred s (.head head) (s.mediaChans cx (f.base + f.pixels.length) 64)) :
    let va := f.base + f.pixels.length
    let u := (s.undefer (.head head)).mediaTouch cx va 64
    s.readCrumb head cx = some (u.updHead head fun h => { h with
      queue := before ++ { f with pixels := f.pixels ++ (s.undefer (.head head)).mediaRead cx va 64 } :: rest }) := by
  intro va u
  have hfind : (s.head head).queue.find? (fun f => !f.isRead) = some f := by
    have hnone : before.find? (fun f => !f.isRead) = none :=
      List.find?_eq_none.mpr fun g hg => by rw [hbefore g hg]; exact Bool.false_ne_true
    rw [hqueue, List.find?_append, hnone, Option.none_or, List.find?_cons_of_pos (by rw [hf]; rfl)]
  have hhead : u.head head = s.head head := (State.mediaTouch_head ..).trans (State.undefer_head ..)
  unfold State.readCrumb
  rw [hfind, Option.bind_some]
  refine (State.gate_of_unbarred _ hopen).trans (congrArg some ?_)
  unfold State.updHead
  show { u with heads := u.heads.set head { u.head head with queue := addPixels _ (u.head head).queue } } =
    { u with heads := u.heads.set head { u.head head with queue := _ } }
  rw [hhead, hqueue, addPixels_append hbefore hf]

/-! Scan-out starts (R436). -/

/-- A scan-out start adds one frame to the head, numbered behind those queued, presented or a repeat. -/
theorem State.scanFrame_queue (s : State) (cx : CtxId) (h : Head) : ∃ f, (s.scanFrame cx h).queue = h.queue ++ [f] ∧
    f.number = (h.frames + h.queue.length) % 2 ^ 32 ∧ (f.again = false ↔ (s.newFrame cx h).isSome = true) ∧
    ∀ seq r, s.newFrame cx h = some (seq, r) → f.base = r.cbase ∧ f.size = 256 * r.tiles := by
  unfold State.scanFrame
  cases hnew : s.newFrame cx h with
  | none =>
    refine ⟨_, rfl, rfl, ?_, fun _ _ hsome => by cases hsome⟩
    simp only [Option.isSome_none, Bool.true_eq_false, Bool.false_eq_true]
  | some x =>
    refine ⟨_, rfl, rfl, ?_, fun seq r hsome => ?_⟩
    · simp only [Option.isSome_some]
    · obtain rfl := Option.some.inj hsome
      exact ⟨rfl, rfl⟩

section Scan

variable {s : State} {head : Nat} {cx : CtxId} (hcx : (s.head head).cx = some cx)

include hcx

theorem exec_scanOutStart_due (hen : (s.head head).en = true) (hdue : (s.head head).nextStart ≤ s.ns)
    (hopen : unbarred s (.head head) (s.scanChans cx (s.head head))) :
    let u := s.undefer (.head head)
    exec (.scanOutStart head) s = .next (((if (u.newFrame cx (s.head head)).isNone then u.missAt head else u).scanTouch cx
      (s.head head)).updHead head fun _ => { u.scanFrame cx (s.head head) with
        nextStart := (s.head head).nextStart + 1000 * hdPeriod (s.head head).cfg }) := by
  show execScanOutStart head s = _
  simp only [execScanOutStart, hcx, hen, decide_eq_false (Nat.not_lt.mpr hdue), Bool.not_true, Bool.or_self,
    Bool.false_eq_true, if_false, State.gate_of_unbarred _ hopen, enabled_some]

theorem scanOutStart_appends (hen : (s.head head).en = true) (hdue : (s.head head).nextStart ≤ s.ns)
    (hopen : unbarred s (.head head) (s.scanChans cx (s.head head))) :
    ∃ t f, exec (.scanOutStart head) s = .next t ∧ (t.head head).queue = (s.head head).queue ++ [f] ∧
      (t.head head).nextStart = (s.head head).nextStart + 1000 * hdPeriod (s.head head).cfg ∧
      f.number = ((s.head head).frames + (s.head head).queue.length) % 2 ^ 32 ∧
      (f.again = false ↔ (s.newFrame cx (s.head head)).isSome = true) ∧
      ∀ seq r, s.newFrame cx (s.head head) = some (seq, r) → f.base = r.cbase ∧ f.size = 256 * r.tiles := by
  obtain ⟨f, hqueue, hf⟩ := (s.undefer (.head head)).scanFrame_queue cx (s.head head)
  rw [State.undefer_newFrame] at hf
  refine ⟨_, f, exec_scanOutStart_due hcx hen hdue hopen, ?_, ?_, hf⟩ <;> rw [State.head_updHead]
  exact hqueue

theorem exec_scanOutStart_reads (hearly : (s.head head).en = false ∨ s.ns < (s.head head).nextStart) :
    exec (.scanOutStart head) s = enabled s (s.readCrumb head cx) := by
  have hnot : (!(s.head head).en || decide (s.ns < (s.head head).nextStart)) = true := by
    rw [Bool.or_eq_true, Bool.not_eq_true', decide_eq_true_eq]
    exact hearly
  show execScanOutStart head s = _
  simp only [execScanOutStart, hcx, hnot, if_true]

theorem exec_encodeFrameSend_reads {f : Frame} {rest : List Frame} (hqueue : (s.head head).queue = f :: rest)
    (hf : f.isRead = false) : exec (.encodeFrameSend head) s = enabled s (s.readCrumb head cx) := by
  show execEncodeFrameSend head s = _
  simp only [execEncodeFrameSend, hqueue, hcx, hf, Bool.false_eq_true, if_false]

/-! Frames that leave (R437, R438). -/

theorem exec_encodeFrameSend_sends {f : Frame} {rest : List Frame} (hqueue : (s.head head).queue = f :: rest)
    (hf : f.isRead = true) : exec (.encodeFrameSend head) s = enabled s (s.sendFrameOf head cx f rest) := by
  show execEncodeFrameSend head s = _
  simp only [execEncodeFrameSend, hqueue, hcx, hf, if_true]

end Scan

/-- The state without the Ethernet queue sets. -/
def State.beyondEth (s : State) : State := { s with eth := [] }

/-- Packets that leave change the queue sets alone. -/
theorem State.sendPackets_beyondEth (s : State) (cx : CtxId) (h : Head) (f : Frame) (size n qset : Nat) :
    (s.sendPackets cx h f size n qset).beyondEth = s.beyondEth := by
  unfold State.sendPackets
  refine foldl_keeps (fun t : State => t.beyondEth = s.beyondEth) _ ?_ _ _ rfl
  exact fun _ _ ht => ht

theorem State.sendFrameOf_leaves {s : State} {head q : Nat} {cx : CtxId} (hq : s.headQset cx = some q)
    (hopen : unbarred s (.head head) (s.mediaChans cx (bits (s.head head).stream.toNat 47 7 * 128)
      (bits (s.head head).stream.toNat 59 52))) (f : Frame) (rest : List Frame) :
    ∃ t, s.sendFrameOf head cx f rest = some t ∧ (t.head head).queue = rest ∧
      (t.head head).frames = ((s.head head).frames + 1) % 2 ^ 32 ∧ t.mem = s.mem := by
  let u := s.undefer (.head head)
  let size := u.obuBytes head
  have hsent := u.sendPackets_beyondEth cx (s.head head) f size (ceilDiv size 8192) q
  have hhead : (u.sendPackets cx (s.head head) f size (ceilDiv size 8192) q).head head = s.head head :=
    (State.head_of_heads (congrArg State.heads hsent :) head).trans (State.undefer_head ..)
  have hmem : (u.sendPackets cx (s.head head) f size (ceilDiv size 8192) q).mem = s.mem :=
    (congrArg State.mem hsent :).trans (State.undefer_mem ..)
  have hframe : s.sendFrameOf head cx f rest = some ((u.sendPackets cx (s.head head) f size (ceilDiv size 8192) q).updHead head
      fun h => { h with
        queue := rest
        frames := (h.frames + 1) % 2 ^ 32
        repeats := if f.again then (h.repeats + 1) % 2 ^ 16 else h.repeats
        overs := if 1024 * bits (s.head head).enc.toNat 47 32 < size then (h.overs + 1) % 2 ^ 16 else h.overs }) := by
    unfold State.sendFrameOf
    dsimp only
    rw [hq, Option.bind_some]
    exact State.gate_of_unbarred _ hopen
  refine ⟨_, hframe, ?_, ?_, hmem⟩ <;> rw [State.head_updHead]
  rw [hhead]

theorem mediaSteps : Spec.MediaSteps := by
  intro s head cx hcx
  refine ⟨fun hen hdue hopen => scanOutStart_appends hcx hen hdue hopen, ?read, ?send⟩
  case read =>
    intro before f rest hqueue hbefore hf va hopen u t
    have hread : s.readCrumb head cx = some t := State.readCrumb_next hqueue hbefore hf hopen
    refine ⟨fun hearly => ?_, fun hfirst => ?_⟩
    · rw [exec_scanOutStart_reads hcx hearly, hread, enabled_some]
    · subst hfirst
      rw [exec_encodeFrameSend_reads hcx hqueue hf, hread, enabled_some]
  case send =>
    intro f rest q hqueue hf hq hopen
    obtain ⟨t, hsent, ht⟩ := State.sendFrameOf_leaves hq hopen f rest
    refine ⟨t, ?_, ht⟩
    rw [exec_encodeFrameSend_sends hcx hqueue hf, hsent, enabled_some]

/-- Settles O45: each step's meaning runs to its end, and what it may change is said once for seats, fills and packets. -/
theorem rasterAndMediaSteps : Obligations.RasterAndMediaSteps := ⟨codecSteps, drawSteps, mediaSteps⟩

end Sys2Proof.Machine
end

section
/-! PROOFS. Requests of functions (16 R444; 03 R85, R450; 09 R252 to R254; 12 R328), but for what MEMRD reads. -/

namespace Sys2Proof.Machine

open Sys2Proof Host Spec

/-! Who may ask (R444). -/

section Ask

variable {fn vd tag : Nat} {s : State}

theorem vfAsk_vf (hvd : vd < 128) (run : Nat → Option Asked) :
    vfAsk (vd + 1) tag s run = enabled s ((run vd).map fun x => x.answer (vd + 1) tag) := by
  have hfn : (vd + 1 == 0) = false := beq_false_of_ne (Nat.succ_ne_zero vd)
  simp only [vfAsk, if_neg (Nat.not_lt.mpr (Nat.succ_le_of_lt hvd)), hfn, Bool.false_eq_true, if_false, Nat.add_sub_cancel]

theorem vfCommand_vf (hvd : vd < 128) (hfree : s.busy (vd + 1) = false) (run : Nat → Option Asked) :
    vfCommand (vd + 1) tag s run = enabled s ((run vd).map fun x => x.answer (vd + 1) tag) := by
  unfold vfCommand
  rw [vfAsk_vf hvd, hfree, if_neg Bool.false_ne_true]

theorem vfPlain_vf (hvd : vd < 128) (hfree : s.busy (vd + 1) = false) {run : Nat → Option Reply} {r : Reply}
    (hrun : run vd = some r) : vfPlain (vd + 1) tag s run = .next (r.st.respond (vd + 1) tag r.status r.results) := by
  unfold vfPlain
  rw [vfCommand_vf hvd hfree, hrun]
  rfl

variable (hfn : fn ≠ 0) (hin : fn ≤ 128)

include hfn hin

/-- A busy mailbox ignores a request. -/
theorem vfCommand_busy (hbusy : s.busy fn = true) (run : Nat → Option Asked) : vfCommand fn tag s run = .next s := by
  simp only [vfCommand, vfAsk, if_neg (Nat.not_lt.mpr hin), beq_false_of_ne hfn, hbusy, Bool.false_eq_true, if_false, if_true,
    Option.map_none, enabled_none]

theorem vfPlain_busy (hbusy : s.busy fn = true) (run : Nat → Option Reply) : vfPlain fn tag s run = .next s :=
  vfCommand_busy hfn hin hbusy _

theorem pfAsk_notAllowed (hfree : s.busy fn = false) (run : Option Asked) :
    pfAsk fn tag s run = .next (s.respond fn tag stNotAllowed []) := by
  simp only [pfAsk, decide_eq_false (Nat.not_lt.mpr hin), hfree, bne_iff_ne.mpr hfn, Bool.or_self, Bool.false_eq_true, if_false,
    if_true, enabled_some]

end Ask

theorem anyCommand_busy {fn : Nat} {s : State} (hbusy : s.busy fn = true) (tag : Nat) (r : Reply) :
    anyCommand fn tag s r = .next s := by
  simp only [anyCommand, hbusy, Bool.or_true, if_true, enabled_none]

theorem anyCommand_answers {fn : Nat} {s : State} (hin : fn ≤ 128) (hfree : s.busy fn = false) (tag : Nat) (r : Reply) :
    anyCommand fn tag s r = .next (r.st.respond fn tag r.status r.results) := by
  simp only [anyCommand, decide_eq_false (Nat.not_lt.mpr hin), hfree, Bool.or_self, Bool.false_eq_true, if_false, enabled_some]

/-- A move between partitions that a function other than the physical one asks for. -/
theorem exec_partmove_notAllowed {fn : Nat} {s : State} (hfn : fn ≠ 0) (hin : fn ≤ 128) (hfree : s.busy fn = false) (tag : Nat)
    (req : PartReq) : exec (.partmove fn tag req) s = .next (s.respond fn tag stNotAllowed []) := by
  show execPartmove fn tag req s = _
  unfold execPartmove
  simp only [bne_iff_ne.mpr hfn, Bool.true_or, if_true]
  exact pfAsk_notAllowed hfn hin hfree _

theorem mailboxAnswers : Spec.MailboxAnswers := by
  intro s tag
  refine ⟨?pf, ?vf, ?busy, fun fn hin hfree => ⟨fun n rest hnotes => ?note, fun hnone => ?noNote⟩,
    fun fn island hin hisland hfree => ?monitor⟩
  case pf =>
    intro cx q v core entry arg base len stack bank va data head reg i hi
    simp only [List.mem_cons, List.not_mem_nil, or_false] at hi
    obtain rfl | rfl | rfl | rfl | rfl | rfl | rfl | rfl | rfl := hi <;> rfl
  case vf =>
    intro fn vr ar pr sr who entry gang on hfn hin hfree i hi
    simp only [List.mem_cons, List.not_mem_nil, or_false] at hi
    obtain rfl | rfl | rfl | rfl | rfl | rfl | rfl | rfl := hi
    case inr.inr.inl => exact exec_partmove_notAllowed hfn hin hfree tag pr
    all_goals exact pfAsk_notAllowed hfn hin hfree _
  case busy =>
    intro fn cx q v core entry arg base len stack bank head reg island hfn hin hbusy i hi
    simp only [List.mem_cons, List.not_mem_nil, or_false] at hi
    obtain rfl | rfl | rfl | rfl | rfl | rfl | rfl | rfl | rfl := hi
    · exact show execProd fn tag cx q v s = _ from vfCommand_busy hfn hin hbusy _
    · exact show execFclr fn tag cx q s = _ from vfCommand_busy hfn hin hbusy _
    · exact show execCtlstart fn tag cx core entry arg s = _ from vfPlain_busy hfn hin hbusy _
    · exact show execCtlstop fn tag core s = _ from vfPlain_busy hfn hin hbusy _
    · exact show execWinopen fn tag cx base len stack bank s = _ from vfPlain_busy hfn hin hbusy _
    · exact show execWinclose fn tag cx base s = _ from vfPlain_busy hfn hin hbusy _
    · exact show execHeadcfg fn tag head reg v s = _ from vfPlain_busy hfn hin hbusy _
    · exact show execGetnote fn tag s = _ from anyCommand_busy hbusy tag _
    · exact show execMonitor fn tag island s = _ from anyCommand_busy hbusy tag _
  case note =>
    show execGetnote fn tag s = _
    simp only [execGetnote, hnotes, anyCommand_answers hin hfree]
  case noNote =>
    show execGetnote fn tag s = _
    simp only [execGetnote, hnone, anyCommand_answers hin hfree]
    rfl
  case monitor =>
    show execMonitor fn tag island s = _
    simp only [execMonitor, if_neg (Nat.not_le.mpr hisland), anyCommand_answers hin hfree, beq_iff_eq]

/-! PROD and FCLR (03 R85, R450). -/

section Queue

variable {s : State} {fn vd : Nat} {cx : CtxId} {q : Nat} (f : State → List Nat → Reply)

theorem State.queueRequest_unowned (h : s.ownsCtx vd cx = false ∨ s.queue? cx q = none) :
    s.queueRequest fn vd cx q f = some (.reply s.refuse) := by
  unfold State.queueRequest
  obtain h | h := h
  · rw [h]
    rfl
  · simp only [h, ite_self]

variable {qu : Queue} (howns : s.ownsCtx vd cx = true) (hqueue : s.queue? cx q = some qu)

include howns hqueue

theorem State.queueRequest_unmapped {e : Nat × Nat} (hspan : s.span cx qu.header 64 true = .error e) :
    s.queueRequest fn vd cx q f = some (.reply (s.setQueue cx q { qu with passed := false }).refuse) := by
  unfold State.queueRequest
  simp only [howns, hqueue, hspan, Bool.not_true, Bool.false_eq_true, if_false]

theorem State.queueRequest_mapped {hk : List Nat} (hspan : s.span cx qu.header 64 true = .ok hk)
    (hopen : unbarred s (.host fn) (s.headChans cx qu.header hk)) : s.queueRequest fn vd cx q f =
      some (.reply (f (((s.undefer (.host fn)).headTouched cx qu.header hk).setQueue cx q { qu with passed := false }) hk)) := by
  unfold State.queueRequest
  simp only [howns, hqueue, hspan, Bool.not_true, Bool.false_eq_true, if_false, State.askChans]
  exact if_neg (Bool.eq_false_iff.mp hopen)

end Queue

theorem queueRequests : Spec.QueueRequests := by
  intro s vd tag cx q v hvd hfree
  have hprod : exec (.prod (vd + 1) tag cx q v) s = enabled s ((s.queueRequest (vd + 1) vd cx q fun s hk =>
      if (s.qhead hk).feed then s.refuse else (s.setQ32 hk offProd v).done).map fun x => x.answer (vd + 1) tag) :=
    show execProd (vd + 1) tag cx q v s = _ from vfCommand_vf hvd hfree _
  have hfclr : exec (.fclr (vd + 1) tag cx q) s = enabled s ((s.queueRequest (vd + 1) vd cx q fun s hk =>
      (s.setFstat hk 0).done).map fun x => x.answer (vd + 1) tag) :=
    show execFclr (vd + 1) tag cx q s = _ from vfCommand_vf hvd hfree _
  refine ⟨fun qu howns hqueue => ⟨?unmapped, ?mapped⟩, fun hunowned => ?unowned⟩
  case unmapped =>
    intro e va hspan
    refine List.forall_mem_cons.mpr ⟨?_, List.forall_mem_singleton.mpr ?_⟩
    · rw [hprod, State.queueRequest_unmapped _ howns hqueue hspan]
      rfl
    · rw [hfclr, State.queueRequest_unmapped _ howns hqueue hspan]
      rfl
  case mapped =>
    intro hk hspan hopen u
    rw [hprod, hfclr, State.queueRequest_mapped _ howns hqueue hspan hopen, State.queueRequest_mapped _ howns hqueue hspan hopen]
    refine ⟨fun hfeed => ?_, fun hfeed => ?_, rfl⟩
    · rw [if_pos hfeed]
      rfl
    · rw [if_neg (Bool.eq_false_iff.mp hfeed)]
      rfl
  case unowned =>
    refine List.forall_mem_cons.mpr ⟨?_, List.forall_mem_singleton.mpr ?_⟩
    · rw [hprod, State.queueRequest_unowned _ hunowned]
      rfl
    · rw [hfclr, State.queueRequest_unowned _ hunowned]
      rfl

/-! CTLSTART and CTLSTOP (09 R252 to R254). -/

/-- A control thread starts with k0 its argument, and without an operation before it no byte changes (R252). -/
theorem State.startCtl_fresh (s : State) (core : Nat) (cx : CtxId) (entry arg : Nat) :
    let t := s.startCtl core cx entry (arg % 2 ^ 64)
    (t.ctl core).mode = .running ∧ (t.ctl core).owner = some cx ∧ (t.ctl core).pc = entry ∧
      (t.ctl core).k.get 0 0 = BitVec.ofNat 64 arg ∧ (∀ r, r ≠ 0 → (t.ctl core).k.get 0 r = 0) ∧ (t.coreOf core).eq = [] ∧
      ((s.ctl core).pend = [] → t.mem = s.mem ∧ t.teams = s.teams) := by
  intro t
  have hcore : t.coreOf core = { ((s.drainCtl core).dropCtlFaults core).coreOf core with
      ctl := { Ctl.init with owner := some cx, mode := .running, pc := entry
                             copySeq := (((s.drainCtl core).dropCtlFaults core).coreOf core).ctl.copySeq
                             run := (((s.drainCtl core).dropCtlFaults core).coreOf core).ctl.run + 1 }.setK 0 (arg % 2 ^ 64)
      eq := []
      posted := 0
      drops := 0
      dq := (((s.drainCtl core).dropCtlFaults core).coreOf core).dq.filter fun x => x.1 == cx } := State.coreOf_setCore_self ..
  have hk : (t.ctl core).k = Tbl.put 0 Ctl.init.k 0 (BitVec.ofNat 64 (arg % 2 ^ 64)) := (congrArg (fun c => c.ctl.k) hcore :)
  refine ⟨(congrArg (fun c => c.ctl.mode) hcore :), (congrArg (fun c => c.ctl.owner) hcore :),
    (congrArg (fun c => c.ctl.pc) hcore :), ?_, fun r hr => ?_, (congrArg Core.eq hcore :), fun hpend => ?_⟩
  · rw [hk, Tbl.get_put_self]
    exact BitVec.eq_of_toNat_eq (by simp only [BitVec.toNat_ofNat, Nat.mod_mod])
  · rw [hk, Tbl.get_put, if_neg hr]
    rfl
  · have hidle : s.performAll core (s.ctlVd core) (s.ctl core).pend = (s, []) := by
      rw [hpend]
      rfl
    have hdrained : s.drainCtl core = s.setCtl core { s.ctl core with pend := [] } := by
      unfold State.drainCtl
      rw [hidle]
    show (s.drainCtl core).mem = s.mem ∧ (s.drainCtl core).teams = s.teams
    rw [hdrained]
    exact ⟨rfl, rfl⟩

theorem controlRequests : Spec.ControlRequests := by
  intro s vd tag core hvd hfree
  refine ⟨?start, fun cx howner hcx hgoes => ?stop, fun hother => ?refused⟩
  case start =>
    intro cx entry arg howns hcore hmode halign hbelow t
    refine ⟨?_, s.startCtl_fresh core cx entry arg⟩
    have hgood : (!s.ownsCtx vd cx || !s.coreIn cx core || (s.ctl core).mode != .free || entry % 32 != 0 ||
        decide (2 ^ 48 ≤ entry)) = false := by
      rw [howns, hcore, hmode, halign, decide_eq_false (Nat.not_le.mpr hbelow)]
      rfl
    show execCtlstart (vd + 1) tag cx core entry arg s = _
    refine vfPlain_vf (r := t.done) hvd hfree (congrArg some ?_)
    exact if_neg (Bool.eq_false_iff.mp hgood)
  case stop =>
    show execCtlstop (vd + 1) tag core s = _
    refine vfPlain_vf (r := (s.freeCtl core).done) hvd hfree ?_
    simp only [howner, hcx, hgoes, bne_self_eq_false, Bool.false_eq_true, if_false]
  case refused =>
    show execCtlstop (vd + 1) tag core s = _
    refine vfPlain_vf (r := s.refuse) hvd hfree ?_
    cases howner : (s.ctl core).owner with
    | none => rfl
    | some cx => simp only [bne_iff_ne.mpr (hother cx howner), if_true]

/-! WINOPEN and WINCLOSE (12 R328). -/

theorem State.setEbit_ctxs (s : State) (cx : CtxId) (on : Bool) (va : Nat) : (s.setEbit cx on va).ctxs = s.ctxs := by
  unfold State.setEbit
  split
  · cases on <;> rfl
  · rfl

section Window

variable {s : State} {tag : Nat} {cx : CtxId} {c : Ctx} (hvd : cx.vd < 128) (hfree : s.busy (cx.vd + 1) = false)
  (hctx : s.ctx? cx = some c)

include hvd hfree hctx

theorem exec_winopen {base len stack : Nat} {bank : Bool} (hfits : s.windowFits cx base len stack bank = true)
    (hroom : c.windows.length < 64) (hapart : ∀ w ∈ c.windows, w.base + w.len ≤ base ∨ base + len ≤ w.base) :
    exec (.winopen (cx.vd + 1) tag cx base len stack bank) s =
      .next (((windowPages base len).foldl (fun s va => s.setEbit cx true va)
        (s.setCtx cx { c with windows := c.windows ++ [{ base := base, len := len, stack := stack, bank := bank }] })).respond
          (cx.vd + 1) tag stDone []) := by
  have hmeets : c.windows.any (fun w => w.base < base + len && base < w.base + w.len) = false := by
    refine List.any_eq_false.mpr fun w hw => ?_
    rw [Bool.and_eq_true, decide_eq_true_eq, decide_eq_true_eq]
    have := hapart w hw
    omega
  show execWinopen (cx.vd + 1) tag cx base len stack bank s = _
  refine vfPlain_vf (r := State.done _) hvd hfree ?_
  simp only [hctx, bne_self_eq_false, hfits, decide_eq_false (Nat.not_le.mpr hroom), hmeets, Bool.not_true, Bool.or_self,
    Bool.false_eq_true, if_false]

variable {w : Window} (hfind : c.windows.find? (fun x => x.base == w.base) = some w)

include hfind

theorem exec_winclose_refused (htreelets : s.windowTreelets cx w = true) :
    exec (.winclose (cx.vd + 1) tag cx w.base) s = .next (s.respond (cx.vd + 1) tag stRefused []) := by
  show execWinclose (cx.vd + 1) tag cx w.base s = _
  refine vfPlain_vf (r := s.refuse) hvd hfree ?_
  simp only [hctx, hfind, htreelets, Bool.or_true, if_true]

/-- A window without treelets, commands or requests is taken away. -/
theorem winclose_closes (htreelets : s.windowTreelets cx w = false) (hnamed : s.windowNamed cx w = false)
    (hread : s.windowRead cx w = false) :
    ∃ t : State, exec (.winclose (cx.vd + 1) tag cx w.base) s = .next (t.respond (cx.vd + 1) tag stDone []) ∧
      ∃ c' : Ctx, t.ctx? cx = some c' ∧ c'.windows = c.windows.erase w := by
  let c' : Ctx := { c with windows := c.windows.erase w }
  let t := (windowPages w.base w.len).foldl (fun s va => if s.leafUnwindowed cx c' va then s.setEbit cx false va else s)
    (s.setCtx cx c')
  have hctxs : t.ctxs = (s.setCtx cx c').ctxs := by
    refine foldl_keeps (fun u : State => u.ctxs = (s.setCtx cx c').ctxs) _ (fun u va hu => ?_) _ _ rfl
    split
    · exact (State.setEbit_ctxs ..).trans hu
    · exact hu
  refine ⟨t, ?_, c', ?_, rfl⟩
  · show execWinclose (cx.vd + 1) tag cx w.base s = _
    refine vfPlain_vf (r := t.done) hvd hfree ?_
    simp only [hctx, hfind, bne_self_eq_false, htreelets, hnamed, hread, Bool.or_self, Bool.false_eq_true, if_false]
    rfl
  · rw [State.ctx?, hctxs]
    exact Tbl.get?_set_self ..

end Window

theorem windowRequests : Spec.WindowRequests := by
  intro s tag cx c hvd hfree hctx
  exact ⟨fun base len stack bank hfits hroom hapart => exec_winopen hvd hfree hctx hfits hroom hapart, fun w hfind =>
    ⟨fun htreelets => exec_winclose_refused hvd hfree hctx hfind htreelets,
      fun htreelets hnamed hread => winclose_closes hvd hfree hctx hfind htreelets hnamed hread⟩⟩

/-! MEMWR and MEMRD (R444). -/

section Transfer

variable {s : State} {vd : Nat} {x : Transfer} {data : List Byte} {i : Instr} (hvd : vd < 128) (hmoved : x.moved = 0)
  (hask : (x.write = true ∧ x.len = data.length ∧ i = Instr.memwr (vd + 1) x.tag x.cx x.va data) ∨
    (x.write = false ∧ data = [] ∧ i = Instr.memrd (vd + 1) x.tag x.cx x.va x.len))

include hvd hmoved hask

/-- Both requests are transfers. -/
theorem exec_transfer : exec i s = enabled s ((s.transfer (vd + 1) vd x data).map fun a => a.answer (vd + 1) x.tag) := by
  obtain ⟨tag, cx, va, len, write, moved⟩ := x
  obtain ⟨hwrite, hlen, rfl⟩ | ⟨hwrite, hdata, rfl⟩ := hask
  · dsimp only at hmoved hwrite hlen
    subst hmoved hwrite hlen
    exact show execMemwr (vd + 1) tag cx va data s = _ from vfAsk_vf hvd _
  · dsimp only at hmoved hwrite
    subst hmoved hwrite hdata
    exact show execMemrd (vd + 1) tag cx va len s = _ from vfAsk_vf hvd _

theorem exec_transfer_refused (hidle : (s.mailbox (vd + 1)).run = none)
    (hspan : s.hostSpan vd x.cx x.va x.len x.write = none) :
    exec i s = .next (s.respond (vd + 1) x.tag stRefused []) := by
  rw [exec_transfer hvd hmoved hask]
  simp only [State.transfer, hidle, hspan]
  rfl

theorem exec_transfer_begins (hidle : (s.mailbox (vd + 1)).run = none) {keys : List Nat}
    (hspan : s.hostSpan vd x.cx x.va x.len x.write = some keys) :
    exec i s = .next (if x.len = 0 then (s.stage (vd + 1) 0 data).respond (vd + 1) x.tag stDone []
      else (s.stage (vd + 1) 0 data).setRun (vd + 1) (some x)) := by
  rw [exec_transfer hvd hmoved hask]
  simp only [State.transfer, hidle, hspan, beq_iff_eq]
  split <;> rfl

/-- A transfer that no lock and no channel holds moves its next crumb. -/
theorem exec_transfer_moves {k : Nat} {keys : List Nat} (hrun : (s.mailbox (vd + 1)).run = some { x with moved := k })
    (hspan : s.hostSpan vd x.cx ({ x with moved := k } : Transfer).crumb.1 ({ x with moved := k } : Transfer).crumb.2 x.write =
      some keys)
    (hlock : s.lockHit x.cx .global ({ x with moved := k } : Transfer).crumb.1 ({ x with moved := k } : Transfer).crumb.2
      x.write = false)
    (hopen : unbarred s (.host (vd + 1))
      (s.keysChans (x.write && s.throughAt x.cx .g ({ x with moved := k } : Transfer).crumb.1) keys)) :
    let y := { x with moved := k }
    let t := (s.undefer (.host (vd + 1))).moveBytes (vd + 1) y keys
    exec i s = .next (if x.va + x.len ≤ y.crumb.1 + y.crumb.2 then (t.setRun (vd + 1) none).respond (vd + 1) x.tag stDone []
      else t.setRun (vd + 1) (some { y with moved := k + 1 })) := by
  intro y t
  rw [exec_transfer hvd hmoved hask]
  have hmoves : s.transfer (vd + 1) vd x data = some (if x.va + x.len ≤ y.crumb.1 + y.crumb.2 then
      .reply (t.setRun (vd + 1) none).done else .deferred (t.setRun (vd + 1) (some { y with moved := k + 1 }))) := by
    simp only [State.transfer, hrun, beq_self_eq_true, if_true, State.moveCrumb, hspan, hlock, Bool.false_eq_true, if_false,
      State.askChans]
    exact if_neg (Bool.eq_false_iff.mp hopen)
  rw [hmoves, Option.map_some, enabled_some]
  split <;> rfl

end Transfer

/-! HEADCFG (R435). -/

section Headcfg

variable {s : State} {vd head : Nat} {cx : CtxId} (hvd : vd < 128) (hfree : s.busy (vd + 1) = false)
  (hcx : (s.head head).cx = some cx)

include hvd hfree hcx

theorem exec_headcfg_refused (hother : cx.vd ≠ vd) (tag : Nat) (reg : HeadReg) (v : W64) :
    exec (.headcfg (vd + 1) tag head reg v) s = .next (s.respond (vd + 1) tag stRefused []) := by
  show execHeadcfg (vd + 1) tag head reg v s = _
  refine vfPlain_vf (r := s.refuse) hvd hfree ?_
  simp only [hcx, bne_iff_ne.mpr hother, Bool.true_or, if_true]

theorem exec_headcfg (hhead : head < 128) (hown : cx.vd = vd) (tag : Nat) (reg : HeadReg) (v : W64) :
    exec (.headcfg (vd + 1) tag head reg v) s = .next ((s.writeHead head reg v).2.respond (vd + 1) tag
      (if (s.writeHead head reg v).1 then stDone else stRefused) []) := by
  show execHeadcfg (vd + 1) tag head reg v s = _
  refine vfPlain_vf (r := replyOf (s.writeHead head reg v)) hvd hfree ?_ |>.trans ?_
  · simp only [hcx, hown, bne_self_eq_false, decide_eq_false (Nat.not_le.mpr hhead), Bool.or_self, Bool.false_eq_true, if_false]
    rfl
  · rw [replyOf_eq]

end Headcfg

theorem State.writeHead_accepted {reg : HeadReg} (hreg : reg ≠ .cfg) (s : State) (head : Nat) (v : W64) :
    (s.writeHead head reg v).1 = true := by
  cases reg with
  | cfg => exact absurd rfl hreg
  | enc | paddr | stream => rfl

/-! What MEMRD reads. Where no two crumbs share a set of the L2 a line that a read brings in takes no other's place. The set is a
free value without a body (02 R40; log 13), so that no proof can say whether they do. -/

section Injective

variable (hset : Function.Injective Config.setIndex)

/-- Every byte reads in t as in s. -/
def State.SameBytes (s t : State) : Prop := t.mem = s.mem ∧ t.tileBytes = s.tileBytes

theorem State.SameBytes.trans {s t u : State} (h : s.SameBytes t) (h' : t.SameBytes u) : s.SameBytes u :=
  ⟨h'.1.trans h.1, h'.2.trans h.2⟩

theorem State.SameBytes.readKey {s t : State} (h : s.SameBytes t) : t.readKey = s.readKey := by
  obtain ⟨hmem, htiles⟩ := h
  funext k
  rw [State.readKey, State.readKey, hmem, htiles]

/-- A tile that becomes resident reads as it did. -/
theorem State.fillTile_sameBytes (s : State) (tile : Nat) : s.SameBytes (s.fillTile tile) := by
  unfold State.fillTile
  split
  next => exact ⟨rfl, rfl⟩
  next hout =>
    refine ⟨rfl, funext fun n => ?_⟩
    by_cases hn : n = tile
    · subst hn
      rw [State.tileBytes, Tbl.get?_set_self]
    · rw [State.tileBytes, Tbl.get?_set_ne _ _ hn]
      rfl

include hset

theorem State.fillLine_sameBytes {s t : State} {vd hint crumb : Nat} {tile : Bool} (hmiss : s.lines.get? crumb = none)
    (hfill : s.fillLine vd hint tile crumb = some t) : s.SameBytes t := by
  obtain ⟨x, hway, rfl⟩ := Option.map_eq_some_iff.mp hfill
  rw [State.fillWay_evictsNone hset hmiss hway]
  exact ⟨rfl, rfl⟩

theorem State.touchCrumb_sameBytes (s : State) (vd hint crumb : Nat) (demand : Bool) :
    s.SameBytes (s.touchCrumb vd hint crumb demand) := by
  unfold State.touchCrumb
  split
  · exact ⟨rfl, rfl⟩
  next hmiss =>
    split
    next hfill => exact State.fillLine_sameBytes hset hmiss hfill
    next => split <;> exact ⟨rfl, rfl⟩

theorem State.fillTileLines_sameBytes {vd hint : Nat} {l : List Nat} {s t : State} (h : s.fillTileLines vd hint l = some t) :
    s.SameBytes t := by
  induction l generalizing s with
  | nil =>
    obtain rfl := Option.some.inj h
    exact ⟨rfl, rfl⟩
  | cons c cs ih =>
    rw [State.fillTileLines] at h
    split at h
    next l _ => exact State.SameBytes.trans (t := s.hitLine hint c l) ⟨rfl, rfl⟩ (ih h)
    next hmiss =>
      split at h
      next hfill => exact (State.fillLine_sameBytes hset hmiss hfill).trans (ih h)
      next => cases h

theorem State.touchTile_sameBytes (s : State) (vd hint crumb : Nat) (demand : Bool) :
    s.SameBytes (s.touchTile vd hint crumb demand) := by
  unfold State.touchTile
  dsimp only
  split
  next => exact ⟨rfl, rfl⟩
  next =>
    split
    next hfill => exact (State.fillTileLines_sameBytes hset hfill).trans (State.fillTile_sameBytes ..)
    next => split <;> exact ⟨rfl, rfl⟩

theorem State.touch_sameBytes (s : State) (vd hint : Nat) (keys : List Nat) : s.SameBytes (s.touch vd hint keys) := by
  refine foldl_keeps (fun t : State => s.SameBytes t) _ (fun t x ht => ht.trans ?_) _ s ⟨rfl, rfl⟩
  unfold State.touchAny
  split
  · exact State.touchTile_sameBytes hset ..
  · exact State.touchCrumb_sameBytes hset ..

theorem memoryAndHeadRequests_of_injective : Spec.MemoryAndHeadRequests := by
  intro s vd tag cx hvd fn
  refine ⟨?transfer, ?head⟩
  case transfer =>
    intro x i data hmoved hcx hask
    subst hcx
    refine ⟨fun hidle => ⟨fun hspan => exec_transfer_refused hvd hmoved hask hidle hspan,
      fun keys hspan => exec_transfer_begins hvd hmoved hask hidle hspan⟩, ?_⟩
    intro k keys y hrun hspan hlock hopen u t
    have hmoves := exec_transfer_moves hvd hmoved hask hrun hspan hlock hopen
    have ht : (s.undefer (.host fn)).moveBytes fn y keys = t := by
      have hsame : (u.touch x.cx.vd 0 keys).readKey = u.readKey := (State.touch_sameBytes hset u x.cx.vd 0 keys).readKey
      show _ = if x.write then _ else (u.touch x.cx.vd 0 keys).stage fn _ (keys.map (u.touch x.cx.vd 0 keys).readKey)
      rw [hsame]
      rfl
    dsimp only at hmoves
    rw [ht] at hmoves
    exact hmoves
  case head =>
    intro head reg v hhead hfree hcx
    exact ⟨fun hother => exec_headcfg_refused hvd hfree hcx hother tag reg v,
      fun hown => exec_headcfg hvd hfree hcx hhead hown tag reg v, fun hreg => State.writeHead_accepted hreg ..⟩

/-- With one set for each crumb, MailboxRequests holds. -/
theorem mailboxRequests_of_injective : Obligations.MailboxRequests :=
  ⟨mailboxAnswers, queueRequests, controlRequests, windowRequests, memoryAndHeadRequests_of_injective hset⟩

end Injective

end Sys2Proof.Machine
end

section
/-! PROOFS. MailboxRequests (16 R444) where crumb 64 and a crumb of tile 16 share a set of the L2: a MEMRD of the same bytes through
a plain page has the tile written back (02 R40, R46; 15 R414), after the model has read them, and before the statement does. -/

namespace Sys2Proof.Machine

open Sys2Proof Host Spec

/-- MEMRD of one byte at 0x1000, of device 0. -/
def readOne : Transfer := { tag := 0, cx := ⟨0, 0⟩, va := 0x1000, len := 1, write := false, moved := 0 }

/-- The state of rootInTile with a plain root table at 0x4000 and the translation held. Crumb 65, of tile 16, is in the only way of
the slice, and the mailbox is busy with readOne. -/
def readBesideTile : State :=
  { rootInTile with
    ctxs := rootInTile.ctxs.map fun x => (x.1, { x.2 with root := 0x4000 })
    mem := [(0x2000, 0x1F), (0x4000, 1), (0x4001, 0x20)]
    dieTlbs := [(0, [{ cx := ⟨0, 0⟩, page := 0, pte := 0x1F, level := 1 }])]
    lines := [(65, { plainLine 0 with tile := true })]
    mail := [(1, { State.reset.mailbox 1 with run := some readOne })] }

/-- Crumb 64 has taken the place of the tile's line. -/
def readTileGone : State :=
  let t := readBesideTile.evictCrumb 65
  { t with lines := t.lines.set 64 { plainLine 0 with lastEl := t.fab, wts := t.lts, rts := t.lts } }

theorem readBesideTile_meets : (readBesideTile.mailbox 1).run = some readOne ∧
    readBesideTile.hostSpan 0 ⟨0, 0⟩ 0x1000 1 false = some [0x1000] ∧
    readBesideTile.lockHit ⟨0, 0⟩ .global 0x1000 1 false = false ∧
    unbarred readBesideTile (.host 1) (readBesideTile.keysChans false [0x1000]) ∧
    (readBesideTile.undefer (.host 1)).walkedPeer ⟨0, 0⟩ 0x1000 = readBesideTile := by
  unfold unbarred
  decide +kernel

theorem readBesideTile_fillWay (hset : Config.setIndex 65 = Config.setIndex 64) :
    readBesideTile.fillWay (crumbSlice false 64) 64 0 = some (0, some 65, false) := by
  have hslice : crumbSlice false 64 = 64 := by decide +kernel
  have hlines : readBesideTile.setLines 64 (Config.setIndex 64) = [(65, { plainLine 0 with tile := true })] := by
    refine (List.filter_cons_of_pos ?_).trans (congrArg (List.cons _) rfl)
    exact Bool.and_eq_true_iff.mpr ⟨by decide +kernel, beq_iff_eq.mpr hset⟩
  rw [hslice]
  unfold State.fillWay
  simp only [hlines]
  decide +kernel

theorem readBesideTile_touch (hset : Config.setIndex 65 = Config.setIndex 64) :
    readBesideTile.touch 0 0 [0x1000] = readTileGone := by
  have hmiss : readBesideTile.lines.get? 64 = none := by decide +kernel
  have hfill : readBesideTile.fillLine 0 0 false 64 = some readTileGone := by
    rw [State.fillLine, readBesideTile_fillWay hset]
    rfl
  show readBesideTile.touchCrumb 0 0 64 true = readTileGone
  simp only [State.touchCrumb, hmiss, hfill]

/-- The answer to readOne, with the byte that it reads. -/
def State.oneRead (s : State) (b : Byte) : State := ((s.stage 1 0 [b]).setRun 1 none).respond 1 0 stDone []

/-- The byte at the start of the staging buffer of function 1. -/
def State.firstStaged (s : State) : Byte := Memory.read (s.mailbox 1).staging 0

/-- With crumbs 64 and 65 in one set, MailboxRequests fails: 0 is read where the statement has 7. -/
theorem not_mailboxRequests_of_setIndex (hset : Config.setIndex 64 = Config.setIndex 65) : ¬ Obligations.MailboxRequests := by
  rintro ⟨-, -, -, -, hmemory⟩
  obtain ⟨hrun, hspan, hlock, hopen, hwalked⟩ := readBesideTile_meets
  obtain ⟨htransfer, -⟩ := hmemory readBesideTile 0 0 ⟨0, 0⟩ (by decide)
  obtain ⟨-, hstates⟩ := htransfer readOne (.memrd 1 0 ⟨0, 0⟩ 0x1000 1) [] rfl rfl (.inr ⟨rfl, rfl, rfl⟩)
  let u := (readBesideTile.undefer (.host 1)).walkedPeer ⟨0, 0⟩ 0x1000
  have hu : u.touch 0 0 [0x1000] = readTileGone :=
    (congrArg (State.touch · 0 0 [0x1000]) hwalked).trans (readBesideTile_touch hset.symm)
  have hsays : exec (.memrd 1 0 ⟨0, 0⟩ 0x1000 1) readBesideTile =
      .next ((u.touch 0 0 [0x1000]).oneRead ((u.touch 0 0 [0x1000]).readKey 0x1000)) :=
    hstates 0 [0x1000] hrun hspan hlock hopen
  have hdoes : exec (.memrd 1 0 ⟨0, 0⟩ 0x1000 1) readBesideTile = .next ((u.touch 0 0 [0x1000]).oneRead (u.readKey 0x1000)) :=
    exec_transfer_moves (vd := 0) (x := readOne) (data := []) (by decide) rfl (.inr ⟨rfl, rfl, rfl⟩) hrun hspan hlock hopen
  have hsame := congrArg State.firstStaged (Outcome.next.inj (hsays.symm.trans hdoes))
  rw [hu, show u = readBesideTile from hwalked] at hsame
  exact absurd hsame (by decide +kernel)

end Sys2Proof.Machine
end
